-- ==== Sys2Proof/Word.lean ====
section
/-! DEFINITION. The words of the module (R12, R13) and the names its commands and pages are built from: the
origins of a register write (R444), the units (R22, R24) and the register pages (R471, R472). -/

namespace Sys2Proof

/-- One byte of memory. -/
abbrev Byte := BitVec 8

/-- A 16-bit code or field. -/
abbrev Half := BitVec 16

/-- A register word (R13). -/
abbrev Word := BitVec 32

/-- A 64-bit counter, address or memory word (R13, R14). -/
abbrev DWord := BitVec 64

/-- Who makes a register write or a change (R444). -/
inductive Origin where
  | host | mgmt | firmware | fleet | self
  deriving DecidableEq, Repr

/-- The ORIGIN code of an audit-log entry (R444). -/
def Origin.code : Origin → Nat
  | .host => 0 | .mgmt => 1 | .firmware => 2 | .fleet => 3 | .self => 4

/-- A unit: core, gang, die, module or group (levels 2 to 6 of R24's chain). A core is its flat index (R8). -/
inductive UnitId where
  | core (c : Fin 128)
  | gang (t : Fin 16) (g : Fin 8)
  | die (t : Fin 16)
  | wholeModule
  | group
  deriving DecidableEq, Repr

/-- A number of its own for each unit: cores 0 to 127, gangs 128 to 255, dies 256 to 271, module 272, group 273. -/
def UnitId.key : UnitId → Nat
  | .core c => c.val
  | .gang t g => 128 + 8 * t.val + g.val
  | .die t => 256 + t.val
  | .wholeModule => 272
  | .group => 273

/-- The tile a unit lies on, where it lies on one. -/
def UnitId.tile? : UnitId → Option (Fin 16)
  | .core c => some ⟨c.val / 8, by omega⟩
  | .gang t _ => some t
  | .die t => some t
  | .wholeModule => none
  | .group => none

/-- The level of a unit in R469's SCH and SEM instance numbering. -/
def UnitId.level : UnitId → Nat
  | .core _ => 2 | .gang _ _ => 3 | .die _ => 4 | .wholeModule => 5 | .group => 6

/-- CORE[t][c] by its flat index 8t + c (R8). -/
def flatCore (t : Fin 16) (c : Fin 8) : Fin 128 := ⟨8 * t.val + c.val, by omega⟩

/-- The tile of a core. -/
def coreTile (c : Fin 128) : Fin 16 := ⟨c.val / 8, by omega⟩

/-- The number of a core within its tile. -/
def coreSlot (c : Fin 128) : Fin 8 := ⟨c.val % 8, by omega⟩

/-- The register pages of R471 and R472 that carry the common header. -/
inductive Page where
  | mod
  | sch (u : UnitId)
  | sem (u : UnitId)
  | shm | exd | aznMod | hbcMod | cxl | llyMod | pel | col | pwr | clk | age | sec
  | mbx (i : Fin 2)
  | log
  | spoke (k : Fin 8)
  | hbc (s : Fin 20)
  | azn (s : Fin 20)
  | tile (t : Fin 16)
  | core (c : Fin 128)
  | darr (c : Fin 128)
  | drn (c : Fin 128)
  | drl (c : Fin 128)
  | fet (c : Fin 128)
  deriving DecidableEq, Repr

/-- The 64-bit words, by address, that a read finds with a correctable and with an uncorrectable error (R225, R290, R291). -/
structure Errs where
  corrected : List DWord
  uncorr : List DWord
  deriving DecidableEq, Repr

/-- A read that finds none. -/
def Errs.none : Errs := { corrected := [], uncorr := [] }

/-- What a transfer on the package network carries (R32). -/
inductive Traffic where
  | request | write | readData | ack | semSignal | barrierArrival | barrierRelease | interrupt | registerAccess
  deriving DecidableEq, Repr

/-- Its class: 0 REQ for requests and writes, 1 RSP for read data and acknowledgements, 2 CTL for the rest (R32). -/
def Traffic.cls : Traffic → Nat
  | .request => 0 | .write => 0
  | .readData => 1 | .ack => 1
  | .semSignal => 2 | .barrierArrival => 2 | .barrierRelease => 2 | .interrupt => 2 | .registerAccess => 2

end Sys2Proof
end

