-- ==== Sys2Proof/Syntax.lean ====
section
/-! DEFINITION. The commands: one constructor for each row of the table of operations and events. A register write carries its
origin (R444) and the word written; a step of the module carries what the model does not compute itself, such as a measured
value or the number of cycles that passed. Commands without operands stand last. -/

namespace Sys2Proof

/-- The commands of the module. -/
inductive Instr where
  /-- REGISTER_WRITE (R18): A write to a register field that has no row of its own sets, clears or ignores the field according to its access code. -/
  | registerWrite (o : Origin) (off : BitVec 26) (v : Word)
  /-- REGISTER_ACCESS_UNALIGNED (R419): A register access that is not an aligned 32-bit access completes with Unsupported Request and changes nothing. -/
  | registerAccessUnaligned (off : BitVec 26) (bytes : Nat)
  /-- MOD_EVT_CFG_WRITE (R483): A write to MOD_EVT_CFG sets the ring configuration, and is refused with RING_ALIGN when ENABLE is set over a misaligned base. -/
  | modEvtCfgWrite (o : Origin) (v : Word)
  /-- MOD_EVT_HEAD_WRITE (R483): A write to the consumer index frees slots, is ignored when it passes the tail, and resends the vector when the ring stays non-empty. -/
  | modEvtHeadWrite (o : Origin) (v : Word)
  /-- MOD_EVT_CNT_SEL_WRITE (R485): A write to MOD_EVT_CNT_SEL latches the selected code's count into MOD_EVT_CNT. -/
  | modEvtCntSelWrite (o : Origin) (v : Word)
  /-- MOD_EVT_CNT_CLR (R485): Writing 1 clears every event counter and MOD_EVT_LOST in one MCLK cycle. -/
  | modEvtCntClr (o : Origin) (v : Word)
  /-- INT_FORCE_WRITE (R470): Writing 1 to an INT_FORCE bit sets the matching INT_STAT bit, and wins over a same-cycle W1C. -/
  | intForceWrite (o : Origin) (p : Page) (v : Word)
  /-- INTERRUPT_LINE_RISE (R423): When a page's INT_STAT & INT_EN becomes non-zero, its line rises and sends the page's MSI-X vector once. -/
  | interruptLineRise (p : Page)
  /-- LOCK_WRITE (R475): A write to LOCK sets all fields while unlocked, and can only clear OPEN bits while locked. -/
  | lockWrite (o : Origin) (p : Page) (v : Word)
  /-- DOORBELL (R37): A write to SCH_TRING_TAIL advances the producer index, or is ignored with RING_OVERRUN, or with UNIT_ABSENT on an absent unit. -/
  | doorbell (o : Origin) (u : UnitId) (v : Word)
  /-- SCH_CRING_HEAD_WRITE (R37): A write to the completion-ring head frees slots, or is ignored with RING_OVERRUN when it would pass the tail. -/
  | schCringHeadWrite (o : Origin) (u : UnitId) (v : Word)
  /-- SCH_RING_CFG_WRITE (R36): A write to SCH_RING_CFG clamps the ring sizes and sets or clears ENABLE, refusing with RING_ALIGN over a misaligned base. -/
  | schRingCfgWrite (o : Origin) (u : UnitId) (v : Word)
  /-- SCH_IDLE_CLR (R74): Writing 1 clears the busy and idle-cause counters and their remainders in one MCLK cycle. -/
  | schIdleClr (o : Origin) (u : UnitId) (v : Word)
  /-- TASK_ADMIT (R43): A unit with room in its window admits the next ring record and checks its fields, faulting a bad record with TASK_FIELD and clearing ENABLE. -/
  | taskAdmit (u : UnitId) (offer : Option (Nat × Nat × List Byte))
  /-- TASK_START (R51): A ready task starts on its resource in admission order, with DEFER tasks passed over or taken as filler. -/
  | taskStart (u : UnitId) (r : Nat) (unspent : Nat)
  /-- TASK_COMPLETE (R53): When a task's last write is complete, its signals are applied in order and its completion record is written into a free slot. -/
  | taskComplete (u : UnitId) (place : Nat) (cycles : Nat)
  /-- SHARE_COMPLETE (R49): A child share ends, and after the last share the parent applies its signals once and reports the merged outcome. -/
  | shareComplete (u : UnitId) (place : Nat) (remote : Option (Nat × Nat × Nat × Nat)) (counts : List Nat)
  /-- CRING_RESUME (R39): A task held on a full completion ring writes its record and applies its signals when a slot frees. -/
  | cringResume (u : UnitId)
  /-- BUDGET_EXCEEDED (R46): When a task's cycle count reaches BUDGET, it faults within 64 cycles or runs on to OVER_BUDGET, as BUDGET_REPORT gives. -/
  | budgetExceeded (u : UnitId) (place : Nat) (cycles : Nat)
  /-- GANG_DEF_WRITE (R40): A write to TILE_GANG_DEFg is checked for GANG_BUSY, UNIT_ABSENT and GANG_DEPTH, and is applied or ignored. -/
  | gangDefWrite (o : Origin) (t : Fin 16) (g : Fin 8) (v : Word)
  /-- SHADOW_GRANT (R231): The slab allocator grants a waiting shadow allocation in arrival order when slabs, a run and a table place are free. -/
  | shadowGrant (t : Fin 16)
  /-- SPEC_DECIDE (R57): A speculative task is confirmed or discarded when CONFIRM_SEM or DISCARD_SEM passes, discard winning a tie. -/
  | specDecide (u : UnitId) (place : Nat) (told : Option Bool)
  /-- SPEC_COMMIT (R58): Commit swaps the shadow's slabs into place within 1,024 cycles, applies the signals and writes COMMITTED. -/
  | specCommit (u : UnitId) (place : Nat)
  /-- SPEC_DISCARD (R58): Discard returns the shadow, applies no signals, writes DISCARDED and moves busy cycles to SPEC_DISCARD. -/
  | specDiscard (u : UnitId) (place : Nat)
  /-- SEMAPHORE_SIGNAL (R62): A signal adds its increment modulo 2^32, and every dependent wait is evaluated again within 8 cycles. -/
  | semaphoreSignal (c : Fin 128) (p : Fin 64) (inc : Half)
  /-- SEM_PHYS_WRITE (R61): A write to SEM_PHYSn sets the semaphore, beats a same-cycle signal and re-evaluates the waits. -/
  | semPhysWrite (o : Origin) (c : Fin 128) (p : Fin 64) (v : Word)
  /-- SEM_SIG (R490): A write to SEM_SIG translates its field and signals locally or over the fabric, or posts SEM_XLAT_FAULT. -/
  | semSig (o : Origin) (u : UnitId) (v : Word)
  /-- SEM_READ_SEL_WRITE (R490): A write to SEM_READ_SEL selects the semaphore whose value SEM_READ_VAL returns, or 0. -/
  | semReadSelWrite (o : Origin) (u : UnitId) (v : Word)
  /-- SEM_MODE_WRITE (R60): A write that changes MODE while no task is admitted zeroes every semaphore, and is otherwise ignored with SEM_MODE_BUSY. -/
  | semModeWrite (o : Origin) (v : Word)
  /-- SEM_XLAT_INV (R59): A write to SEM_XLAT_INV empties every die hub's cached translation entries of the named context. -/
  | semXlatInv (o : Origin) (v : Word)
  /-- STORE_BLOCKING (R66): The SYNC operation writes the word and sets FULL, waiting while the line is full. -/
  | storeBlocking (c : Fin 128)
  /-- STORE_NONBLOCKING (R66): The SYNC operation writes the word and sets FULL, or drops it and sets OVERRUN on a full line. -/
  | storeNonblocking (c : Fin 128)
  /-- LOAD_BLOCKING (R66): The SYNC operation waits for a full line, then writes the word out and clears FULL. -/
  | loadBlocking (c : Fin 128)
  /-- LOAD_NONBLOCKING (R66): The SYNC operation reads and clears a full line, or completes with SYNC_LINE_EMPTY. -/
  | loadNonblocking (c : Fin 128)
  /-- PEEK (R66): The SYNC operation writes the data word and the flag word and leaves the line unchanged. -/
  | peek (c : Fin 128)
  /-- CLEAR (R66): The SYNC operation clears FULL and OVERRUN of the line. -/
  | clear (c : Fin 128)
  /-- SYNC_BLOCKED_RESUME (R67): A waiting blocking sync operation completes when its line changes state, in arrival order. -/
  | syncBlockedResume (t : Fin 16) (line : Fin 1024) (cycles : Nat)
  /-- TILE_SYNC_SEL_WRITE (R473): A write to TILE_SYNC_SEL latches a sync line's data, FULL and OVERRUN for reading. -/
  | tileSyncSelWrite (o : Origin) (t : Fin 16) (v : Word)
  /-- VALIDATOR_START (R94): START on TILE_VAL_CTL checks the destination and begins checking COUNT records in index order. -/
  | validatorStart (o : Origin) (t : Fin 16) (v : Word)
  /-- VALIDATOR_DONE (R95): The validator finishes, writes all records or none, sets RESULT and FAIL_IDX, clears BUSY and sets INT_STAT bit 0. -/
  | validatorDone (t : Fin 16)
  /-- SHM_CMD_READ (R107): SHM_CMD 1 reads the shard-map entry at SHM_SEL into SHM_DATA0 to SHM_DATA3. -/
  | shmCmdRead (o : Origin)
  /-- SHM_CMD_WRITE (R105): SHM_CMD 2 writes the entry whole, refusing a moved valid entry with unchanged VERSION with SHM_VERSION_HELD. -/
  | shmCmdWrite (o : Origin)
  /-- SHM_BULK_LOAD_START (R108): START on SHM_LOAD_CTL begins writing COUNT entries, or writes nothing and reports DESC_RANGE when they overrun the map. -/
  | shmBulkLoadStart (o : Origin) (v : Word)
  /-- GLOBAL_BLOCK_CONSUME (R376): A consumed global block's attached VERSION is checked against the shard version record, setting it, accepting or faulting with SHARD_VERSION. -/
  | globalBlockConsume (c : Fin 128) (port : Fin 4)
  /-- SHM_REC_CLEAR (R378): Writing CLEAR to SHM_REC_CTL sets every VALID bit of the version record to 0 in one cycle. -/
  | shmRecClear (o : Origin) (v : Word)
  /-- TAINTED_CLEAR (R379): Writing 1 to SHM_REC_STAT.TAINTED clears the taint. -/
  | taintedClear (o : Origin) (v : Word)
  /-- SHM_REC_CNT_CLR (R378): Writing 1 clears SHM_NEWER and SHM_VERSION_FAULTS. -/
  | shmRecCntClr (o : Origin) (v : Word)
  /-- DENSE_LOAD (R117): A LOAD entry fills STANDBY with a weight block, checked against the gear's limits, or is skipped under REUSE. -/
  | denseLoad (c : Fin 128) (cycles : Nat) (errs : Errs)
  /-- DENSE_STREAM (R118): A STREAM entry passes its rows through the ACTIVE tile on the plain or transposed axis into the bank. -/
  | denseStream (c : Fin 128) (cycles feedDry drainFull eccCorr errs : Nat) (words : Errs)
  /-- DENSE_DRAIN (R120): A DRAIN entry reads bank rows once their streams have landed and writes converted output rows to DESC_C. -/
  | denseDrain (c : Fin 128) (cycles eccCorr errs : Nat) (words : Errs)
  /-- DARR_CNT_CLR (R136): Writing 1 clears the five dense-array counters in one ACLK cycle. -/
  | darrCntClr (o : Origin) (c : Fin 128) (v : Word)
  /-- DRN_SR_SEED_HI_WRITE (R153): A write to DRN_SR_SEED_HI reloads the core's 40 rounding generators from the seed. -/
  | drnSrSeedHiWrite (o : Origin) (c : Fin 128) (v : Word)
  /-- DRN_CNT_CLR (R167): Writing 1 clears every counter of the DRN page in one ACLK cycle. -/
  | drnCntClr (o : Origin) (c : Fin 128) (v : Word)
  /-- GATHER (R177): The SPARSE operation copies source rows chosen by index into consecutive destination rows. -/
  | gather (c : Fin 128) (cycles lanes : Nat) (errs : Errs)
  /-- SCATTER_ADD (R179): The SPARSE operation adds source rows into destination rows chosen by index. -/
  | scatterAdd (c : Fin 128) (cycles lanes : Nat) (errs : Errs)
  /-- SCATTER_SET (R181): The SPARSE operation copies source rows into destination rows chosen by index, the highest position winning. -/
  | scatterSet (c : Fin 128) (cycles lanes : Nat) (errs : Errs)
  /-- SPMM_LOAD (R184): An SPMM LOAD fills the loading slab buffer with a block of the dense operand. -/
  | spmmLoad (c : Fin 128) (cycles : Nat) (errs : Errs)
  /-- SPMM_STREAM (R184): An SPMM STREAM deals its non-zeros to lanes and adds value times slab row into merge rows. -/
  | spmmStream (c : Fin 128) (cycles : Nat) (errs : Errs)
  /-- SPMM_FLUSH (R184): An SPMM FLUSH writes or adds merge rows to the output and zeroes them. -/
  | spmmFlush (c : Fin 128) (cycles : Nat) (errs : Errs)
  /-- SELECT (R191): The SPARSE operation computes f(z) for masked token-neuron pairs and handles skipped pairs under the predictor mode. -/
  | select (c : Fin 128) (cycles lanes : Nat) (errs : Errs)
  /-- FALLBACK_PASS (R189): A dense SPMM run compacts its rows into the scratch window and runs as a pass on the core's array. -/
  | fallbackPass (c : Fin 128) (cycles eccCorr errs : Nat) (words : Errs)
  /-- SCRATCH_YIELD (R190): A compaction request on a FILLER-owned window asks the filler to yield, which releases it within 256 cycles. -/
  | scratchYield (c : Fin 128)
  /-- SPARSE_CAPACITY (R174): When the work-item count reaches CAPACITY and another is due, the task faults with SPARSE_CAPACITY. -/
  | sparseCapacity (c : Fin 128)
  /-- DRL_CNT_CLR (R195): Writing 1 clears every counter of the DRL page in one ACLK cycle. -/
  | drlCntClr (o : Origin) (c : Fin 128) (v : Word)
  /-- DRL_PRED_WRITE (R193): A write to DRL_PRED sets MODE, except that a MODE of 3 is ignored. -/
  | drlPredWrite (o : Origin) (c : Fin 128) (v : Word)
  /-- ROUTE (R210): The DISPATCH operation snapshots the directory, places rank-major choices under capacity, and writes the send buffer and tables. -/
  | route (c : Fin 128) (cycles lanes : Nat) (errs : Errs)
  /-- COMBINE (R216): The DISPATCH operation sums returned expert rows weighted by their gates into each token's output. -/
  | combine (c : Fin 128) (cycles lanes : Nat) (errs : Errs)
  /-- DISPATCH_CAPACITY (R201): When the work-item count reaches CAPACITY and another is due, the task faults with DISPATCH_CAPACITY. -/
  | dispatchCapacity (c : Fin 128)
  /-- EXD_CMD_READ (R199): EXD_CMD 1 reads the directory entry at EXD_SEL into EXD_DATA0 to EXD_DATA15. -/
  | exdCmdRead (o : Origin)
  /-- EXD_CMD_WRITE (R199): EXD_CMD 2 writes a directory entry whole, refusing it with EXD_FIELD or EXD_VERSION_HELD. -/
  | exdCmdWrite (o : Origin)
  /-- EXD_BULK_LOAD_START (R222): START on EXD_BULK_CTL begins writing COUNT directory entries, or reports DESC_RANGE. -/
  | exdBulkLoadStart (o : Origin) (v : Word)
  /-- TALLY_DUMP_START (R220): START on EXD_TALLY_CTL begins writing COUNT tallies, clearing them when CLEAR is set, or reports DESC_RANGE. -/
  | tallyDumpStart (o : Origin) (v : Word)
  /-- EXD_CNT_CLR_COUNTERS (R222): Writing 1 to bit 0 of EXD_CNT_CLR clears the five EXD counters. -/
  | exdCntClrCounters (o : Origin) (v : Word)
  /-- EXD_CNT_CLR_TALLIES (R222): Writing 1 to bit 1 of EXD_CNT_CLR clears every tally. -/
  | exdCntClrTallies (o : Origin) (v : Word)
  /-- SRAM_CE_WRITEBACK (R225): The die hub writes back a corrected SRAM word within 64 cycles unless a full write reaches it first. -/
  | sramCeWriteback (t : Fin 16) (a : DWord)
  /-- TILE_SRAM_CNT_CLR (R227): Writing 1 clears TILE_SRAM_CE and TILE_SRAM_UE. -/
  | tileSramCntClr (o : Origin) (t : Fin 16) (v : Word)
  /-- TILE_ALLOC (R229): TILE_ALLOC_CMD 1 places an allocation at the lowest free run or refuses it with ALLOC_FIELD, ALLOC_TABLE_FULL or ALLOC_NO_SPACE. -/
  | tileAlloc (o : Origin) (t : Fin 16)
  /-- TILE_FREE (R230): TILE_ALLOC_CMD 2 frees an allocation, advancing its generation, or refuses with ALLOC_BAD_FREE. -/
  | tileFree (o : Origin) (t : Fin 16)
  /-- SLAB_RETURN (R230): Freed slabs return to the pool once every earlier task naming the allocation has completed and no validator writes into it. -/
  | slabReturn (t : Fin 16) (base : Nat)
  /-- TILE_OC_INV (R243): Writing 1 invalidates every line of the tile's operand cache. -/
  | tileOcInv (o : Origin) (t : Fin 16) (v : Word)
  /-- TILE_OC_CNT_CLR (R243): Writing 1 clears TILE_OC_HIT and TILE_OC_MISS. -/
  | tileOcCntClr (o : Origin) (t : Fin 16) (v : Word)
  /-- PREFETCH_ISSUE (R235): Run-ahead issues a prefetch within its limits, dropping it on a translation miss or a non-resident page, and may start a page-in. -/
  | prefetchIssue (c : Fin 128) (port : Fin 4)
  /-- DEMAND_FETCH (R236): A demand fetch faults on a translation miss, and on a non-resident page waits for a page-in or faults with PAGE_NOT_RESIDENT. -/
  | demandFetch (c : Fin 128) (port : Fin 4) (uncorr : List DWord)
  /-- FETCH_DATA_ARRIVE (R224): Requested data arrives at a port queue and its consumer may take it. -/
  | fetchDataArrive (c : Fin 128) (port : Fin 4) (errs : Errs)
  /-- DEADLINE_LATE (R238): A waiting DEADLINE request becomes LATE when its deadline passes. -/
  | deadlineLate (c : Fin 128) (port : Fin 4)
  /-- BULK_AGE_LATE (R238): A BULK request that has waited 2,048 MCLK cycles becomes LATE. -/
  | bulkAgeLate (c : Fin 128) (port : Fin 4)
  /-- TRACKED_BLOCK_CONSUME (R241): A consumed tracked block is compared with current generations and frames, and is consumed, refetched or faulted with STALE_PREFETCH. -/
  | trackedBlockConsume (c : Fin 128) (port : Fin 4)
  /-- COPY_PLAIN (R245): The COPY mode writes each source element at the same coordinates of the destination. -/
  | copyPlain (c : Fin 128) (cycles : Nat) (errs : Errs)
  /-- COPY_TRANSPOSE (R245): The COPY mode writes each source element with dimensions 0 and 1 exchanged. -/
  | copyTranspose (c : Fin 128) (cycles : Nat) (errs : Errs)
  /-- COPY_PERMUTE (R245): The COPY mode writes each source element with its dimensions permuted by PERM. -/
  | copyPermute (c : Fin 128) (cycles : Nat) (errs : Errs)
  /-- IN_PLACE_TRANSPOSE (R250): An in-place transpose takes the array at the next task boundary and writes the tile back along the transposed axis. -/
  | inPlaceTranspose (c : Fin 128) (cycles : Nat) (errs : Errs)
  /-- CHAIN (R252): A CHAIN task runs its DENSE links in order on one array as one task. -/
  | chain (c : Fin 128)
  /-- OVERLAP_PROLOGUE (R254): With OVERLAP set, the fetch engine goes on into the next ready array task's list under the current task's epilogue. -/
  | overlapPrologue (c : Fin 128)
  /-- FET_CNT_CLR (R256): Writing 1 clears every counter of the FET page. -/
  | fetCntClr (o : Origin) (c : Fin 128) (v : Word)
  /-- UPDATE_DISPATCH (R261): At dispatch an UPDATE task's slots are checked against its program and its scalar set is copied. -/
  | updateDispatch (u : UnitId) (place : Nat)
  /-- UPDATE_SHARE (R260): An Aznor unit runs one queued share, applying its entries in list order. -/
  | updateShare (st : Fin 20)
  /-- UPDATE_ENTRY (R263): A unit processes one entry of its share in batches of 128, checking that the block lies in its stack. -/
  | updateEntry (st : Fin 20) (cycles : Nat)
  /-- LOAD (R268): The Aznor operation decodes a block of slot K into register D with its scale tag. -/
  | load (st : Fin 20) (errs : Errs)
  /-- STORE (R269): The Aznor operation converts register A into slot K, with KEEP or a new scale under MX. -/
  | store (st : Fin 20)
  /-- ADD (R268): The Aznor operation sets D to A + B. -/
  | add (st : Fin 20)
  /-- SUB (R268): The Aznor operation sets D to A - B. -/
  | sub (st : Fin 20)
  /-- MUL (R268): The Aznor operation sets D to A × B. -/
  | mul (st : Fin 20)
  /-- FMA (R268): The Aznor operation sets D to A × B + C. -/
  | fma (st : Fin 20)
  /-- DIV (R268): The Aznor operation sets D to A ÷ B, correctly rounded. -/
  | div (st : Fin 20)
  /-- SQRT (R268): The Aznor operation sets D to the square root of A. -/
  | sqrt (st : Fin 20)
  /-- RSQRT (R268): The Aznor operation sets D to 1 ÷ √A. -/
  | rsqrt (st : Fin 20)
  /-- MAX (R268): The Aznor operation sets D to max(A, B). -/
  | max (st : Fin 20)
  /-- MIN (R268): The Aznor operation sets D to min(A, B). -/
  | min (st : Fin 20)
  /-- ABS (R268): The Aznor operation sets D to |A|. -/
  | abs (st : Fin 20)
  /-- NEG (R268): The Aznor operation sets D to -A. -/
  | neg (st : Fin 20)
  /-- SIGN (R268): The Aznor operation sets D to +1, -1 or 0 by the sign of A. -/
  | sign (st : Fin 20)
  /-- QDQ (R268): The Aznor operation converts A into slot K's format and decodes it back into D. -/
  | qdq (st : Fin 20)
  /-- ADDS (R268): The Aznor operation sets D to A + C[K]. -/
  | adds (st : Fin 20)
  /-- MULS (R268): The Aznor operation sets D to A × C[K]. -/
  | muls (st : Fin 20)
  /-- FMAS (R268): The Aznor operation sets D to A × C[K] + B. -/
  | fmas (st : Fin 20)
  /-- LERPS (R268): The Aznor operation sets D to A + C[K] × (B - A). -/
  | lerps (st : Fin 20)
  /-- CLAMPS (R268): The Aznor operation limits A to ±|C[K]| into D. -/
  | clamps (st : Fin 20)
  /-- BSUM (R268): The Aznor operation sets every element to the sum of its 32-element block of A. -/
  | bsum (st : Fin 20)
  /-- BAMAX (R268): The Aznor operation sets every element to its block's largest magnitude in A. -/
  | bamax (st : Fin 20)
  /-- SETS (R268): The Aznor operation sets every element of D to C[K]. -/
  | sets (st : Fin 20)
  /-- AZN_PROG_READ (R275): AZN_PROG_CMD 1 reads a program slot into AZN_PROG_LEN and AZN_PROG_DATA. -/
  | aznProgRead (o : Origin)
  /-- AZN_PROG_WRITE (R270): AZN_PROG_CMD 2 checks a program and writes it to the slot of every unit, or refuses it with AZN_PROG_FIELD or AZN_PROG_BUSY. -/
  | aznProgWrite (o : Origin)
  /-- AZN_PROG_EMPTY (R275): AZN_PROG_CMD 3 empties a program slot, or is refused with AZN_PROG_BUSY. -/
  | aznProgEmpty (o : Origin)
  /-- AZN_SR_SEED_HI_WRITE (R271): A write to AZN_SR_SEED_HI reloads the unit's eight rounding generators. -/
  | aznSrSeedHiWrite (o : Origin) (st : Fin 20) (v : Word)
  /-- AZN_CNT_CLR (R274): Writing 1 clears every counter of the unit's AZN page. -/
  | aznCntClr (o : Origin) (st : Fin 20) (v : Word)
  /-- STACK_TRAINING (R278): A stack trains its pseudo-channels, repairs lanes, and goes out of service with HBM_STACK_DOWN when it cannot train. -/
  | stackTraining (st : Fin 20) (trained : Bool) (failing : List Nat)
  /-- HBM_ALLOC (R284): HBC_ALLOC_CMD 1 places HBM pages in frames and far frames, zeroing them under ZERO, or refuses the command. -/
  | hbmAlloc (o : Origin)
  /-- HBM_FREE (R284): HBC_ALLOC_CMD 2 frees an HBM allocation, advancing its generation, or refuses with ALLOC_BAD_FREE. -/
  | hbmFree (o : Origin)
  /-- HBC_PTE_SEL_WRITE (R281): A write to HBC_PTE_SEL latches a page-table entry into HBC_PTE_LO and HBC_PTE_HI. -/
  | hbcPteSelWrite (o : Origin) (v : Word)
  /-- HBM_SLOT_SERVE (R288): A controller serves the next slot request of a pseudo-channel in urgency order, merging same-row and same-slot requests. -/
  | hbmSlotServe (st : Fin 20) (pc : Fin 64) (errs : Errs)
  /-- PATROL_SCRUB (R292): Each patrol period the controller reads every slot at BULK urgency and writes back corrected words. -/
  | patrolScrub (st : Fin 20) (errs : Errs) (ends : Bool)
  /-- ROW_REPAIR (R294): A marked row is repaired onto a spare within 100 µs, holding its bank at most 20 µs, and recorded. -/
  | rowRepair (st : Fin 20) (ends : Bool)
  /-- HBC_CNT_CLR (R306): Writing 1 clears the five stack HBC counters. -/
  | hbcCntClr (o : Origin) (st : Fin 20) (v : Word)
  /-- HBC_LINK_CNT_CLR (R473): Writing 1 clears the stack's four link replay counters. -/
  | hbcLinkCntClr (o : Origin) (st : Fin 20) (v : Word)
  /-- PAGE_IN_DONE (R301): A page-in copy ends, setting RESIDENT, FAR_CURRENT and ACCESSED and clearing DIRTY and MOVING. -/
  | pageInDone (page : Nat) (poisoned : List Nat)
  /-- PAGE_OUT_DONE (R302): A page-out copy ends, clearing RESIDENT and DIRTY and setting FAR_CURRENT. -/
  | pageOutDone (page : Nat) (errs : Errs)
  /-- PAGE_IN (R305): The PAGE operation pages in every non-resident page of its blocks. -/
  | pageIn (place : Nat)
  /-- PAGE_OUT (R305): The PAGE operation unpins and pages out every resident page of its blocks. -/
  | pageOut (place : Nat)
  /-- PIN (R305): The PAGE operation pages in where needed and sets PINNED. -/
  | pin (place : Nat)
  /-- UNPIN (R305): The PAGE operation clears PINNED. -/
  | unpin (place : Nat)
  /-- CXL_LINK_DROP (R300): A dropped CXL link retrains up to three times, and when it is not back within 1 ms the far tier goes down with CXL_LINK_DOWN. -/
  | cxlLinkDrop (recovered : Bool)
  /-- CXL_PAGING_FRAMES_WRITE (R299): A write to CXL_PAGING_FRAMES takes effect only while no allocation holds a far frame. -/
  | cxlPagingFramesWrite (o : Origin) (v : Word)
  /-- CXL_CNT_CLR (R306): Writing 1 clears every counter of the CXL page. -/
  | cxlCntClr (o : Origin) (v : Word)
  /-- PKGNET_TRANSFER (R29): A transfer crosses the package network on its fixed path. -/
  | pkgnetTransfer (src dst : Fin 38) (what : Traffic) (crcFail : Option (Page × Fin 4))
  /-- PKGNET_LINK_DOWN (R34): After 16 consecutive replays of one flit the link goes down, no task is placed and running tasks stop at their boundaries. -/
  | pkgnetLinkDown (p : Page) (k : Fin 4)
  /-- TILE_LINK_CNT_CLR (R473): Writing 1 clears the tile's four link replay counters. -/
  | tileLinkCntClr (o : Origin) (t : Fin 16) (v : Word)
  /-- SPOKE_DETECT (R309): An enabled spoke with a valid module identifier leaves DOWN for DETECT and sends training patterns. -/
  | spokeDetect (k : Fin 8)
  /-- SPOKE_EQUALISE (R309): When all lanes see signal, both ends tune equalisation lane by lane. -/
  | spokeEqualise (k : Fin 8)
  /-- SPOKE_ALIGN (R309): When every lane meets its error target, polarity, lane order and skew are found and flit boundaries lock. -/
  | spokeAlign (k : Fin 8) (polarity : Byte) (reversed : Bool)
  /-- SPOKE_PARAM (R311): PARAM flits exchange identity and measure the round trip, entering ACTIVE or HELD with LLY_ID_CONFLICT. -/
  | spokeParam (k : Fin 8) (partner : Fin 4096) (partnerSpoke : Fin 8) (version rtt : Nat)
  /-- LLY_LINK_UP (R320): Entry to ACTIVE starts sequence numbers from 0 and posts LLY_LINK_UP. -/
  | llyLinkUp (k : Fin 8)
  /-- HELD_RETRY (R309): A HELD spoke returns to DETECT when either end's identity changes. -/
  | heldRetry (k : Fin 8) (partner : Fin 4096)
  /-- LLY_TRAIN_FAIL (R310): A spoke not ACTIVE 100 ms after DETECT returns to DOWN with LLY_TRAIN_FAIL and retries after 1 s. -/
  | llyTrainFail (k : Fin 8)
  /-- LLY_SPOKE_CFG_WRITE (R310): A write to LLY_SPOKE_CFG sets DIM and DATELINE, and clearing ENABLE takes the spoke to DOWN within 1 µs. -/
  | llySpokeCfgWrite (o : Origin) (k : Fin 8) (v : Word)
  /-- LLY_MODULE_ID_WRITE (R312): A write to LLY_MODULE_ID is applied only while every spoke is DOWN. -/
  | llyModuleIdWrite (o : Origin) (v : Word)
  /-- FLIT_RECEIVE (R317): A received flit is FEC-decoded and CRC-checked, then accepted, discarded as duplicate, or answered with REPLAY_REQ. -/
  | flitReceive (k : Fin 8) (flit : List Byte)
  /-- REPLAY_REQ (R319): A REPLAY_REQ makes the transmitter resend every held flit from the named one before new flits. -/
  | replayReq (k : Fin 8)
  /-- LLY_LINK_DOWN (R320): Liveness loss, an unheld replay request, eight resends or a cleared ENABLE takes the link down and loses its replay buffer. -/
  | llyLinkDown (k : Fin 8)
  /-- READ_REQ (R326): A remote read request is served at its destination and answered with READ_RSP. -/
  | readReq (errs : Errs)
  /-- FABRIC_TIMEOUT (R326): A remote request or signal with no response after LLY_RSP_TIMEOUT faults its task with FABRIC_TIMEOUT. -/
  | fabricTimeout (place : Nat)
  /-- LLY_EPOCH_WRITE (R340): A write to LLY_EPOCH starts a settle period. -/
  | llyEpochWrite (o : Origin) (v : Word)
  /-- LLY_RT_DATA_WRITE (R331): A write to LLY_RT_DATA writes one route-table entry whole. -/
  | llyRtDataWrite (o : Origin) (v : Word)
  /-- LLY_RT_LOAD_START (R341): START on LLY_RT_LOAD_CTL begins a route-table bulk load, or reports DESC_RANGE. -/
  | llyRtLoadStart (o : Origin) (v : Word)
  /-- LLY_CNT_CLR (R342): Writing 1 clears the four module LLY counters. -/
  | llyCntClr (o : Origin) (v : Word)
  /-- LLY_SPOKE_CNT_CLR (R342): Writing 1 clears every counter of the spoke page. -/
  | llySpokeCntClr (o : Origin) (k : Fin 8) (v : Word)
  /-- PEL_DOM_CFG_WRITE (R344): A write to PEL_DOM_CFGd sets the domain tree, resets PEL_SEQd on enable, or is ignored with PEL_DOM_BUSY. -/
  | pelDomCfgWrite (o : Origin) (d : Fin 8) (v : Word)
  /-- PEL_GROUP_WRITE (R345): A write to PEL_GROUP enables a checked group or, on disable, abandons its tasks with GROUP_ABANDONED. -/
  | pelGroupWrite (o : Origin) (v : Word)
  /-- BARRIER (R347): A BARRIER task starts as its module's arrival, held while the digest is pending. -/
  | barrier (place : Nat)
  /-- BARRIER_TIMEOUT (R354): When the root's timer passes PEL_TIMEOUT, it sends an aborting release, and running BARRIER tasks fault. -/
  | barrierTimeout (d : Fin 8)
  /-- PEL_CNT_CLR (R373): Writing 1 to bit 0 clears the five peloton counters, and to bit 1 clears PEL_DRAFTS. -/
  | pelCntClr (o : Origin) (v : Word)
  /-- COL_TEAM_LOAD (R359): COL_TEAM_CMD 1 copies a team bitmap and computes P and rank, or refuses it. -/
  | colTeamLoad (o : Origin)
  /-- COL_TEAM_CLEAR (R359): COL_TEAM_CMD 2 clears a team, or is refused with COL_TEAM_BUSY. -/
  | colTeamClear (o : Origin)
  /-- ALL_REDUCE (R364): The collective runs reduce-scatter and all-gather steps so every rank holds the reduction. -/
  | allReduce (cycles : Nat) (errs : Errs)
  /-- REDUCE_SCATTER (R362): The collective leaves chunk r of the reduction on rank r. -/
  | reduceScatter (cycles : Nat) (errs : Errs)
  /-- ALL_GATHER (R362): The collective gathers every rank's range in rank order on every rank. -/
  | allGather (cycles : Nat) (errs : Errs)
  /-- ALL_TO_ALL (R369): The collective exchanges counts and moves segment rows to their expert modules, or back under REVERSE. -/
  | allToAll (cycles : Nat) (errs : Errs)
  /-- PERMUTE (R372): The collective writes each named block to its destination module's DESC_C. -/
  | permute (cycles : Nat) (errs : Errs)
  /-- COL_HELLO (R361): A COL_HELLO is held until its rank starts the collective and then compared, faulting with COL_MISMATCH on a difference. -/
  | colHello (team src : Nat) (fields : List Nat)
  /-- COL_DATA (R364): A collective data packet is received, reduced or stored and passed on. -/
  | colData (team src : Nat) (head : List Nat) (data : List Byte)
  /-- COL_ACK (R361): A collective acknowledgement returns to its sender. -/
  | colAck (team src : Nat)
  /-- COL_ABORT (R361): A COL_ABORT faults the receiving rank's collective with COL_MISMATCH. -/
  | colAbort (team src : Nat)
  /-- COL_CNT_CLR (R373): Writing 1 clears the four COL counters. -/
  | colCntClr (o : Origin) (v : Word)
  /-- POWER_SAMPLE (R387): Every 1 µs the module measures its input power for the limits. -/
  | powerSample (mw : Nat)
  /-- GRANT_INTERVAL (R390): Every 10 µs cadence sets the module allowance and divides it among claimants. -/
  | grantInterval (claims : List (Nat × Nat))
  /-- HOLD_EXPIRE (R393): A task held longer than HOLD_US lowers its tile's ACLK until it fits, starts, and sets WINDOW. -/
  | holdExpire (u : UnitId) (place : Nat)
  /-- LOAN_RECLAIM (R394): When a ready task appears on a lending tile, cadence reclaims the loan within 5 µs. -/
  | loanReclaim (t : Fin 16)
  /-- BRAKE_REQUEST_INPUT (R402): The brake-request input asserted or released sets or lifts EXTERNAL within 10 µs. -/
  | brakeRequestInput (asserted : Bool)
  /-- CLK_LOCK_LOST (R403): A synthesiser losing lock stops its die's clocks and posts CLK_LOCK_LOST. -/
  | clkLockLost (die : Fin 38)
  /-- CLK_RELOCK (R403): A relock within 50 µs resumes the die, and no relock within 1 ms fails it as a package link. -/
  | clkRelock (die : Fin 38)
  /-- ACLK_CHANGE (R407): A tile changes frequency and voltage in order, with ACLK stopped at most 20 ns. -/
  | aclkChange (t : Fin 16)
  /-- TEMP_SAMPLE (R408): Every 100 µs the temperature sensors are read. -/
  | tempSample (temps : List Nat)
  /-- THERMAL_BRAKE_STEP (R409): Each 1 ms above BRAKE_C lowers the tile limit one setting, and each 10 ms below the hysteresis raises it. -/
  | thermalBrakeStep (t : Fin 16)
  /-- PWR_TEMP_CLEAR (R408): Writing 1 to bit 31 of PWR_TEMP clears the hottest-since reading. -/
  | pwrTempClear (o : Origin) (v : Word)
  /-- PWR_CNT_CLR (R415): Writing 1 clears PWR_ENERGY, PWR_BRAKE_TIME and PWR_FAST_TRIPS. -/
  | pwrCntClr (o : Origin) (v : Word)
  /-- AGE_MONITOR_READ (R412): Every 1 ms the path-delay monitors are read, and low slack raises the tile voltage with AGE_MARGIN_LOW. -/
  | ageMonitorRead (slacks : List Int)
  /-- AGE_CNT_CLR (R415): Writing 1 clears AGE_BUMPS and the worst-slack history. -/
  | ageCntClr (o : Origin) (v : Word)
  /-- MEMORY_APERTURE_READ (R421): A host read through the memory aperture is translated by its window and served, or returns all ones. -/
  | memoryApertureRead (off : Nat) (n : Nat) (errs : Errs)
  /-- MEMORY_APERTURE_WRITE (R421): A host write through the memory aperture is applied in arrival order, or dropped. -/
  | memoryApertureWrite (off : Nat) (data : List Byte)
  /-- MOD_WIN_BASE_WRITE (R420): A write to a window base applies to aperture requests that arrive after it. -/
  | modWinBaseWrite (o : Origin) (w : Fin 4) (hi : Bool) (v : Word)
  /-- MOD_RESET_WARM (R429): MOD_RESET with the key and KIND 1 starts a warm reset. -/
  | modResetWarm (o : Origin) (v : Word)
  /-- MOD_RESET_COLD (R429): MOD_RESET with the key and KIND 2 starts a cold reset. -/
  | modResetCold (o : Origin) (v : Word)
  /-- MBX_CMD_REFUSED (R427): A write to MBX_CMD while BUSY is 1 is refused, sets REFUSED and counts MBX_REFUSALS. -/
  | mbxCmdRefused (o : Origin) (p : Fin 2) (v : Word)
  /-- MBX_UNKNOWN_CMD (R428): An undefined command code ends at once with MBX_UNKNOWN_CMD. -/
  | mbxUnknownCmd (o : Origin) (p : Fin 2) (v : Word)
  /-- GET_INFO (R428): The mailbox command returns firmware version, SVNs, banks and boot count. -/
  | getInfo (o : Origin) (p : Fin 2)
  /-- READ_DIGEST (R428): The mailbox command returns the 256-bit configuration digest once it is not pending. -/
  | readDigest (o : Origin) (p : Fin 2)
  /-- READ_MEASUREMENT (R428): The mailbox command returns one stage's measurement. -/
  | readMeasurement (o : Origin) (p : Fin 2)
  /-- GET_IDENTITY (R428): The mailbox command writes the identity public key and its certificate chain into the buffer. -/
  | getIdentity (o : Origin) (p : Fin 2)
  /-- SVN_COMMIT (R440): The mailbox command raises the fused minimum SVN to the running SVN. -/
  | svnCommit (o : Origin) (p : Fin 2)
  /-- RETIRE_CLEAR (R428): The mailbox command removes entries from the retirement table. -/
  | retireClear (o : Origin) (p : Fin 2)
  /-- FW_UPDATE (R439): The mailbox command checks a firmware package, writes it into the idle bank, reads it back and marks it NEXT. -/
  | fwUpdate (o : Origin) (p : Fin 2) (readback : Bool)
  /-- ATTEST_QUOTE (R442): The mailbox command takes the quote fields at one instant and signs them with the identity key. -/
  | attestQuote (o : Origin) (p : Fin 2)
  /-- MARGIN_REPLAN (R414): The mailbox command holds admission and rebuilds every die's voltage table. -/
  | marginReplan (o : Origin) (p : Fin 2) (volts : List Nat)
  /-- FULL_SCRUB (R428): The mailbox command scrubs every frame in service of the named stacks at once. -/
  | fullScrub (o : Origin) (p : Fin 2) (errs : Errs)
  /-- FAR_MIGRATE (R428): The mailbox command pages a range of pages in or out, skipping those that cannot move. -/
  | farMigrate (o : Origin) (p : Fin 2)
  /-- MBX_CNT_CLR (R427): Writing 1 clears MBX_REFUSALS. -/
  | mbxCntClr (o : Origin) (p : Fin 2) (v : Word)
  /-- LOG_ACK_WRITE (R447): Writing SEQ s to LOG_ACK discards every held entry up to s. -/
  | logAckWrite (o : Origin) (hi : Bool) (v : Word)
  /-- LOG_RD_SEQ_WRITE (R447): Writing LOG_RD_SEQ selects a held entry for LOG_DATA. -/
  | logRdSeqWrite (o : Origin) (hi : Bool) (v : Word)
  /-- LOG_CNT_CLR (R448): Writing 1 clears LOG_DROPPED. -/
  | logCntClr (o : Origin) (v : Word)
  /-- BOOT_STAGE_CHECK (R435): The boot ROM loads fuses, checks and measures all five stages of the NEXT bank, and runs them. -/
  | bootStageCheck (railFault : Option Nat)
  /-- BOOT_DONE (R438): When stage 5 takes over, READY is set and BOOT_DONE is posted. -/
  | bootDone (width rate devices capacity : Nat)
  /-- I3C_SELECT_READ (R450): A 5-byte private write selects a register, and the following read returns status and word. -/
  | i3cSelectRead (off : Nat)
  /-- I3C_REGISTER_WRITE (R450): A 9-byte private write writes a register, and the following read returns a status byte. -/
  | i3cRegisterWrite (off : Nat) (v : Word)
  /-- ENTDAA (R449): The I3C common command assigns a dynamic address. -/
  | entdaa (a : Nat)
  /-- SETDASA (R449): The I3C common command sets a dynamic address from the static address. -/
  | setdasa (a : Nat)
  /-- SETNEWDA (R449): The I3C common command changes the dynamic address. -/
  | setnewda (a : Nat)
  /-- ENEC (R449): The I3C common command enables in-band interrupts. -/
  | enec (bits : Nat)
  /-- DISEC (R449): The I3C common command disables in-band interrupts. -/
  | disec (bits : Nat)
  /-- RSTACT (R449): The I3C common command sets the target reset action. -/
  | rstact (a : Nat)
  /-- POWER_GOOD (R456): Input at or above 46.0 V for 10 ms starts the boot ROM unless COLD_RST_N is asserted. -/
  | powerGood (dv : Nat)
  /-- INPUT_LOW (R456): Input below 46.0 V for 10 µs applies the current brake until 46.5 V holds for 1 ms. -/
  | inputLow (dv : Nat)
  /-- INPUT_LOW_CLEAR (R456): Input at or above 46.5 V for 1 ms lifts the brake applied for INPUT_LOW. -/
  | inputLowClear (dv : Nat)
  /-- INPUT_OVERVOLT (R456): Input above 60.0 V for 1 µs turns off the rails within 20 µs. -/
  | inputOvervolt (dv : Nat)
  /-- INPUT_FAIL (R456): Input below 42.0 V for 10 µs turns off the rails within 20 µs. -/
  | inputFail (dv : Nat)
  /-- INPUT_RECOVER_COLD_RESET (R457): After a rail shutdown, input back in range for 10 ms starts a cold reset. -/
  | inputRecoverColdReset (dv : Nat)
  /-- MOD_AUX_INPUT (R460): A MOD_AUX level held 1 µs asserts or releases the brake request. -/
  | modAuxInput (low : Bool)
  /-- MOD_AUX_CFG_WRITE (R461): A write to MOD_AUX_CFG selects the pin role, posting CFG_CONFLICT when both are set. -/
  | modAuxCfgWrite (o : Origin) (v : Word)
  /-- COOLANT_SAMPLE (R464): Every 100 ms the coolant sensors are read and COOLANT_WARN is posted past a threshold. -/
  | coolantSample (raw : Word)
  /-- SAMPLE_PRELOAD (R465): The JTAG instruction samples or preloads the boundary-scan register. -/
  | samplePreload (load : Option Nat)
  /-- JTAG_PRIVATE (R465): The private JTAG instructions work only when TEST_EN was high at power good. -/
  | jtagPrivate (code : Nat)
  /-- CMB_POWERED (R456): Input rising through 40.0 V powers the CMB, holds it in reset and charges the input capacitance under the inrush limit. -/
  | cmbPowered (dv : Nat)
  /-- INPUT_OFF (R456): Input falling below 40.0 V turns the whole module off, CMB included. -/
  | inputOff (dv : Nat)
  /-- HOST_LINK_UP (R429): The PCI Express link trains and returns, completing a HOST_PORT reset and setting MOD_HOST_STAT.LINK_UP. -/
  | hostLinkUp (rate : Fin 3) (msix : Bool)
  /-- MSIX_UNMASK (R423): A host write that unmasks an MSI-X vector delivers a pending message for it. -/
  | msixUnmask (n : Fin 256) (v : Word)
  /-- D3HOT_TRANSITION (R416): A host power-management write moves the function between D0 and D3hot, turning aperture decoding off or on while work goes on. -/
  | d3hotTransition (d3 : Bool)
  /-- HBM_PAGES_RETURN (R284): The frames and far frames of a freed HBM allocation return to the pool once every earlier task naming it has completed. -/
  | hbmPagesReturn (base : Nat)
  /-- MIGRATION_DONE (R296): A frame migration ends, changing the page's entry to its new frame, and the retired frame leaves service with PAGE_RETIRED. -/
  | migrationDone (page : Nat) (errs : Errs)
  /-- SHM_BULK_LOAD_DONE (R108): A shard-map bulk load ends at its last entry or its first refused entry, setting SHM_LOAD_DONE and SHM_STAT. -/
  | shmBulkLoadDone
  /-- EXD_BULK_LOAD_DONE (R222): A directory bulk load ends at its last or first refused entry, setting EXD_BULK_DONE and EXD_STAT. -/
  | exdBulkLoadDone
  /-- TALLY_DUMP_DONE (R220): A tally dump finishes writing its entries and clears BUSY. -/
  | tallyDumpDone
  /-- PAGE_IN_START (R301): The paging engine starts a waiting page-in in priority order, taking a free frame or evicting. -/
  | pageInStart
  /-- PACKET_ROUTE (R331): A packet not for this module is forwarded by its route entry, or dropped with LLY_NO_ROUTE or LLY_TTL_DROP. -/
  | packetRoute
  /-- WRITE (R326): A remote write is applied at its destination and answered with WRITE_ACK, or refused outside an allocation. -/
  | write
  /-- READ_RSP (R326): The data of a remote read returns to its requester by TAG. -/
  | readRsp
  /-- WRITE_ACK (R326): A remote write's acknowledgement returns to its sender by TAG. -/
  | writeAck
  /-- SEM_SIGNAL (R326): A remote semaphore signal is applied at its destination and answered with SEM_ACK. -/
  | semSignal
  /-- SEM_ACK (R326): A SEM_ACK lets the signalling unit finish the completion of its task. -/
  | semAck
  /-- LINK_STATE (R335): A newer link-state record is stored and flooded on every other ACTIVE spoke. -/
  | linkState
  /-- REACH_RECOMPUTE (R336): Within 20 µs of a record change, the module recomputes its reachable set. -/
  | reachRecompute
  /-- SETTLE_END (R340): At the end of the settle period the module re-evaluates quorum and clears the fence with FENCE_CLEARED. -/
  | settleEnd
  /-- LLY_RT_LOAD_DONE (R341): A route-table bulk load finishes and clears BUSY. -/
  | llyRtLoadDone
  /-- PEL_ARRIVE (R349): An arrival input is taken at a node, which merges all inputs and sends one arrival to its parent. -/
  | pelArrive
  /-- PEL_RELEASE (R351): A release is forwarded to children, advances the sequence, writes the barrier record, signals RELEASE_SEM and completes the task. -/
  | pelRelease
  /-- DIGEST_RECOMPUTE (R356): Within 20 µs of a change to a marked word or measurement, the CMB recomputes the configuration digest. -/
  | digestRecompute
  /-- DRAFT_ENDED (R384): A draft ends when its timer reaches the power window, or on an unbraked or self release, disable or fence. -/
  | draftEnded
  /-- CURRENT_BRAKE (R401): Input above 2,640 W for 1 µs drops every tile to PWR_FAST.SETTING within 1 µs. -/
  | currentBrake
  /-- CURRENT_BRAKE_LIFT (R401): The current brake lifts after the input has stayed below 2,400 W for 100 µs. -/
  | currentBrakeLift
  /-- FLOOR_HOLD_EXPIRE (R396): After HOLD_MS at the floor, power is let fall at the slew to what the work draws. -/
  | floorHoldExpire
  /-- CLK_REF_LOST (R403): Loss of the reference makes synthesisers hold frequency and posts CLK_REF_LOST. -/
  | clkRefLost
  /-- CLK_REF_TIMEOUT (R403): A reference absent 10 ms is handled as a failed package link. -/
  | clkRefTimeout
  /-- WARM_RESET (R431): A warm reset logs, stops work, drains accepted writes, self-refreshes the stacks, re-initialises and posts WARM_RESET_DONE. -/
  | warmReset
  /-- PERST_ASSERT (R429): PERST# asserted starts a warm reset. -/
  | perstAssert
  /-- FUNCTION_LEVEL_RESET (R429): A Function Level Reset starts a warm reset with the link kept up. -/
  | functionLevelReset
  /-- HOST_PORT_RESET (R430): A link-down without PERST#, hot reset or disable resets only configuration space and host-port state. -/
  | hostPortReset
  /-- COLD_RESET (R430): A cold reset clears all volatile state and boots the module from the boot ROM. -/
  | coldReset
  /-- MBX_COMMAND_END (R426): When a command ends, the module fills MBX_RSP, RESULT and CODE, clears BUSY and sets DONE. -/
  | mbxCommandEnd
  /-- RSTDAA (R449): The I3C common command resets the dynamic address. -/
  | rstdaa
  /-- GETPID (R449): The I3C common command returns the provisional ID. -/
  | getpid
  /-- GETBCR (R449): The I3C common command returns the bus characteristics register. -/
  | getbcr
  /-- GETDCR (R449): The I3C common command returns the device characteristics register. -/
  | getdcr
  /-- GETSTATUS (R449): The I3C common command returns the target status, including interrupt overflow. -/
  | getstatus
  /-- GETMWL (R449): The I3C common command returns the maximum write length. -/
  | getmwl
  /-- GETMRL (R449): The I3C common command returns the maximum read length. -/
  | getmrl
  /-- COLD_RST_N_ASSERT (R429): COLD_RST_N held low at least 10 µs starts and holds a cold reset. -/
  | coldRstNAssert
  /-- BYPASS (R465): The JTAG instruction selects the bypass register. -/
  | bypass
  /-- IDCODE (R466): The JTAG instruction shifts out the identification code. -/
  | idcode
  /-- EXTEST (R465): The JTAG instruction drives the pins while COLD_RST_N is asserted, and acts as BYPASS otherwise. -/
  | extest
  /-- HIGHZ (R465): The JTAG instruction floats the pins while COLD_RST_N is asserted, and acts as BYPASS otherwise. -/
  | highz
  /-- CLK_REF_RETURN (R403): When the reference clock returns within 10 ms of its loss, the synthesisers lock to it again and work goes on. -/
  | clkRefReturn
  /-- COLD_RST_N_RELEASE (R429): Release of COLD_RST_N ends the held cold reset and lets the boot ROM start when power is good. -/
  | coldRstNRelease
  /-- TEST_LOGIC_RESET (R465): A TAP test-logic reset selects IDCODE as the instruction. -/
  | testLogicReset
  deriving DecidableEq, Repr

end Sys2Proof
end

