-- ==== Sys2Proof/WellFormed.lean ====
section
/-! DEFINITION. Which operands a command may carry: aligned aperture offsets, records and flits of their length, measured values in
their range. A command outside these bounds is still answered; no statement of the manual is about it. -/

namespace Sys2Proof

/-- Bytes of a task record (R42). -/
abbrev taskBytes : Nat := 128

/-- Bytes of a flit on a spoke (R314). -/
abbrev flitBytes : Nat := 272

/-- Dies whose temperature and path delay are read, as PWR_TEMP_SEL numbers them (R408). -/
abbrev dieCount : Nat := 38

/-- Is an aperture offset that of an aligned word (R419)? -/
def alignedOffset (k : Nat) : Bool := decide (k % 4 = 0) && decide (k < 2 ^ 26)

/-- Is a number a 7-bit address of the management bus (R449)? -/
def busAddress (a : Nat) : Bool := decide (0 < a) && decide (a < 128)

/-- Do a command's operands lie within what the manual gives them? -/
def Instr.wellFormed : Instr → Bool
  | .registerWrite _ off _ => alignedOffset off.toNat
  | .registerAccessUnaligned off bytes => decide (0 < bytes) && (decide (bytes ≠ 4) || decide (off.toNat % 4 ≠ 0))
  | .taskAdmit _ offer => (match offer with | some o => decide (o.2.2.length = taskBytes) | none => true)
  | .colHello _ src fields => decide (src < 4096) && decide (fields.length = 8)
  | .colData _ src _ _ => decide (src < 4096)
  | .colAck _ src => decide (src < 4096)
  | .colAbort _ src => decide (src < 4096)
  | .flitReceive _ flit => decide (flit.length = flitBytes)
  | .grantInterval claims => claims.all (fun c => decide (c.1 ≤ dieCount))
  | .tempSample temps => decide (temps.length = dieCount)
  | .ageMonitorRead slacks => decide (slacks.length = dieCount)
  | .stackTraining _ _ failing => failing.all (fun c => decide (c < 64))
  | .pkgnetTransfer src dst _ _ => decide (src ≠ dst)
  | .memoryApertureRead off n _ => decide (0 < n) && decide (n ≤ 4096) && decide (off + n ≤ 2 ^ 35)
  | .memoryApertureWrite off data => decide (0 < data.length) && decide (off + data.length ≤ 2 ^ 35)
  | .i3cRegisterWrite off _ => alignedOffset off
  | .i3cSelectRead off => alignedOffset off
  | .entdaa a => busAddress a
  | .setdasa a => busAddress a
  | .setnewda a => busAddress a
  | .enec bits => decide (bits < 256)
  | .disec bits => decide (bits < 256)
  | .rstact a => decide (a < 256)
  | .jtagPrivate code => decide (0x80 ≤ code) && decide (code ≤ 0xFE)
  | .marginReplan _ _ volts => decide (volts.length = 16 * 21 + 22)
  | _ => true

end Sys2Proof
end

