-- ==== Sys2Proof/Config.lean ====
section
/-! DEFINITION. What the manual leaves open, as constants with no body: nothing in Lean can evaluate them, so a claim
about the model holds whatever they are. Each names the rule that leaves it open; notes/assumptions says what follows. -/

namespace Sys2Proof.Config

/-- A fresh free value: the n-th value that the manual says is undefined, unspecified or not given.
DESIGN CHOICE (notes/assumptions/1.md). -/
opaque freeValue : Nat → Nat

/-- Which of its NaN encodings a format with several writes (R160 says only that the NaN takes that encoding); applied to
the format code. DESIGN CHOICE (notes/assumptions/18.md). -/
opaque nanPayload : Nat → Nat

/-- Drain functions and their derivatives at a finite FP32 argument (R157): FUNC, form (0 f, 1 f′ from z, 2 f′ from y),
argument. The manual bounds the error and gives no value; the drain holds the value to the bound.
DESIGN CHOICE (notes/assumptions/16.md). -/
opaque drainFn : Nat → Nat → Word → Word

/-- e^x in FP32 for the row statistics and the COMBINE and ROUTE gates (R163, R164, R207): the manual bounds the error, and the use holds the value to the bound.
DESIGN CHOICE (notes/assumptions/16.md). -/
opaque expFn : Word → Word

/-- RSQRT of an Aznor unit at a finite positive argument (R268): a bound, no value. DESIGN CHOICE (notes/assumptions/16.md). -/
opaque rsqrtFn : Word → Word

/-- The payload of a PARAM flit by identifier, spoke number and format version, as a little-endian number (R311): its layout is not given.
DESIGN CHOICE (notes/assumptions/32.md). -/
opaque paramPayload : Nat → Nat → Nat → Nat

/-- Which of two zeros of unlike sign MAX and MIN answer (R268): the lowest bit chooses. DESIGN CHOICE (notes/assumptions/16.md). -/
opaque zeroPick : Word → Word → Word

/-- The order in which additions whose order is unspecified are made (R163, R180): for the n-th such sum of m terms, a
number from which a permutation is drawn. DEDUCED (notes/assumptions/17.md). -/
opaque sumOrder : Nat → Nat → Nat

/-- The DRAM bank that holds a row of a frame (the manual gives pseudo-channels and rows, R283, and no bank map).
DESIGN CHOICE (notes/assumptions/25.md). -/
opaque bankOf : Nat → Nat → Nat

/-- The SM2 verification of R434 for a message digest and a 64-byte signature: the firmware key is Borsarvo's.
DESIGN CHOICE (notes/assumptions/43.md). -/
opaque sm2Verify : BitVec 256 → List Byte → Bool

/-- The SM2 signature that the identity key makes over a digest (R442). DESIGN CHOICE (notes/assumptions/43.md). -/
opaque sm2Sign : BitVec 256 → Nat → List Byte

/-- Borsarvo's identifiers, which the manual names without a number: PCI vendor, JEDEC manufacturer, MIPI manufacturer.
DEDUCED (notes/assumptions/26.md). DESIGN CHOICE (notes/assumptions/43.md). -/
opaque vendorId : Nat → Nat

/-- Bus characteristics, device characteristics and length limits of the I3C target (R449 lists the commands only).
DEDUCED (notes/assumptions/26.md). -/
opaque i3cConst : Nat → Nat

/-- Contents of HBM, the far tier and the recovery buffer after a cold reset (R430: undefined), by boot count and physical byte
address. DEDUCED and DESIGN CHOICE (notes/assumptions/5.md). -/
opaque hbmByte : Nat → Nat → Byte

/-- Contents of a scratch window after filler wrote into it (R397: undefined), by the occasion and the physical byte address.
DEDUCED and DESIGN CHOICE (notes/assumptions/5.md). -/
opaque windowByte : Nat → Nat → Byte

end Sys2Proof.Config
end

