-- ==== Sys2Proof/Machine/Bits.lean ====
section
/-! DEFINITION. Bit fields and byte order (R12): fields hi:lo of a word, little-endian bytes, saturating counters. -/

namespace Sys2Proof.Machine

/-- Bits hi:lo of a number. -/
def field (w hi lo : Nat) : Nat := w / 2 ^ lo % 2 ^ (hi + 1 - lo)

/-- Bit `i` of a number. -/
def bit (w i : Nat) : Bool := w.testBit i

/-- A number with bits hi:lo replaced by the low bits of `v`. -/
def withField (w hi lo v : Nat) : Nat := w - field w hi lo * 2 ^ lo + v % 2 ^ (hi + 1 - lo) * 2 ^ lo

/-- Bits hi:lo of a word. -/
def wfield (w : Word) (hi lo : Nat) : Nat := field w.toNat hi lo

/-- Bit `i` of a word. -/
def wbit (w : Word) (i : Nat) : Bool := w.getLsbD i

/-- A word with bits hi:lo replaced. -/
def wset (w : Word) (hi lo v : Nat) : Word := BitVec.ofNat 32 (withField w.toNat hi lo v)

/-- A word with one bit set or cleared. -/
def wsetBit (w : Word) (i : Nat) (b : Bool) : Word := wset w i i (if b then 1 else 0)

/-- One bit as a number. -/
def b2n (b : Bool) : Nat := if b then 1 else 0

/-- The `n` little-endian bytes of a number (R12). -/
def toBytes (n v : Nat) : List Byte := (List.range n).map (fun i => BitVec.ofNat 8 (v / 2 ^ (8 * i)))

/-- The number whose little-endian bytes are given (R12). -/
def ofBytes : List Byte → Nat
  | [] => 0
  | b :: r => b.toNat + 256 * ofBytes r

/-- The number whose big-endian bytes are given: the byte order of an SM3 value. -/
def ofBytesBE (l : List Byte) : Nat := ofBytes l.reverse

/-- The little-endian number at byte offset `o` of `n` bytes of a record. -/
def rdLE (l : List Byte) (o n : Nat) : Nat := ofBytes ((l.drop o).take n)

/-- A signed number from `n` bits of two's complement. -/
def signed (n v : Nat) : Int := if v % 2 ^ n < 2 ^ (n - 1) then (v % 2 ^ n : Nat) else (v % 2 ^ n : Nat) - (2 ^ n : Nat)

/-- The `n` bits of two's complement of an integer. -/
def unsigned (n : Nat) (i : Int) : Nat := (i % (2 ^ n : Nat)).toNat

/-- Division rounding up. -/
def ceilDiv (a b : Nat) : Nat := (a + b - 1) / b

/-- A multiple of `g` at or above `a`. -/
def roundUp (a g : Nat) : Nat := ceilDiv a g * g

/-- Number of 1 bits among the low `n` bits. -/
def popCount (n w : Nat) : Nat := ((List.range n).filter (fun i => w.testBit i)).length

/-- The indices of the 1 bits among the low `n` bits, rising. -/
def bitsOf (n w : Nat) : List Nat := (List.range n).filter (fun i => w.testBit i)

/-- A 64-bit counter holds its greatest value (R14). -/
def satAdd64 (c : DWord) (n : Nat) : DWord :=
  if c.toNat + n < 2 ^ 64 then BitVec.ofNat 64 (c.toNat + n) else BitVec.ofNat 64 (2 ^ 64 - 1)

/-- The nearest value of `lo` to `hi`. -/
def clampNat (lo hi v : Nat) : Nat := if v < lo then lo else if hi < v then hi else v

/-- A modulo-2³² index or semaphore difference `a - b` (R37, R63). -/
def diff32 (a b : Nat) : Nat := (a + 2 ^ 32 - b % 2 ^ 32) % 2 ^ 32

end Sys2Proof.Machine
end

