-- ==== Sys2Proof/Machine/Num.lean ====
section
/-! DEFINITION. Exact numbers and the element formats of R75: decoding (R76, R78), rounding to nearest even and
stochastic rounding (R151), conversion with saturation, overflow and vanish counts (R158 to R160), FP32 arithmetic with
one rounding per operation. -/

namespace Sys2Proof.Machine

/-- An extended number: NaN, an infinity, or sign and m × 2^e exactly. -/
inductive Num where
  | nan
  | inf (neg : Bool)
  | fin (neg : Bool) (m : Nat) (e : Int)
  deriving DecidableEq, Repr

/-- A floating-point format: bits, exponent and mantissa bits, bias, the greatest finite code, and its codes of infinity
and NaN, if it has them (R75, and R144 for the ACC16 chain). -/
structure FloatFmt where
  bits : Nat
  man : Nat
  bias : Nat
  maxCode : Nat
  infCode : Option Nat
  nanCode : Option Nat
  deriving DecidableEq, Repr

/-- A NaN code of a format with an infinity: which one the manual leaves open. DESIGN CHOICE (notes/assumptions/18.md). -/
def openNan (code man inf : Nat) : Nat := inf + 1 + Config.nanPayload code % (2 ^ man - 1)

/-- The floating-point formats of R75 by FORMAT code; code 0 is the ACC16 chain (R144). -/
def floatFmt? : Nat → Option FloatFmt
  | 0 => some { bits := 16, man := 9, bias := 31, maxCode := 0x7FFF, infCode := none, nanCode := none }
  | 1 => some { bits := 32, man := 23, bias := 127, maxCode := 0x7F7FFFFF, infCode := some 0x7F800000,
                nanCode := some (openNan 1 23 0x7F800000) }
  | 2 => some { bits := 16, man := 7, bias := 127, maxCode := 0x7F7F, infCode := some 0x7F80,
                nanCode := some (openNan 2 7 0x7F80) }
  | 3 => some { bits := 8, man := 3, bias := 7, maxCode := 0x7E, infCode := none, nanCode := some 0x7F }
  | 4 => some { bits := 8, man := 2, bias := 15, maxCode := 0x7B, infCode := some 0x7C, nanCode := some (openNan 4 2 0x7C) }
  | 5 => some { bits := 6, man := 2, bias := 3, maxCode := 0x1F, infCode := none, nanCode := none }
  | 6 => some { bits := 6, man := 3, bias := 1, maxCode := 0x1F, infCode := none, nanCode := none }
  | 7 => some { bits := 4, man := 1, bias := 1, maxCode := 0x7, infCode := none, nanCode := none }
  | _ => none

/-- Bits of an element of a FORMAT code (R75); 0 for a code that is not in the table. -/
def elemBits : Nat → Nat
  | 1 => 32 | 2 => 16 | 3 => 8 | 4 => 8 | 5 => 6 | 6 => 6 | 7 => 4 | 8 => 8 | 9 => 32 | _ => 0

/-- Bytes of a channel vector of 32 elements (R75, R79). -/
def vecBytes (fmt : Nat) : Nat := 4 * elemBits fmt

/-- Bytes of an element of 8 bits or wider (R81). -/
def elemBytes (fmt : Nat) : Nat := elemBits fmt / 8

/-- Exponent of the last place of the subnormals of a format. -/
def FloatFmt.lsb (f : FloatFmt) : Int := 1 - (f.bias : Int) - (f.man : Int)

namespace Num

/-- Zero. -/
def zero : Num := .fin false 0 0

/-- An integer as a number. -/
def ofInt (i : Int) : Num := .fin (decide (i < 0)) i.natAbs 0

/-- Is the value a zero of either sign? -/
def isZero : Num → Bool
  | .fin _ 0 _ => true
  | _ => false

/-- Is the value NaN? -/
def isNan : Num → Bool
  | .nan => true
  | _ => false

/-- Is the value finite? -/
def isFin : Num → Bool
  | .fin _ _ _ => true
  | _ => false

/-- The sign bit. -/
def negative : Num → Bool
  | .nan => false
  | .inf n => n
  | .fin n _ _ => n

/-- The value with the opposite sign. -/
def neg : Num → Num
  | .nan => .nan
  | .inf n => .inf (!n)
  | .fin n m e => .fin (!n) m e

/-- The magnitude. -/
def abs : Num → Num
  | .nan => .nan
  | .inf _ => .inf false
  | .fin _ m e => .fin false m e

/-- The signed integer m × 2^(e - e0) of a finite value, for e0 at or below e. -/
def scaled (n : Bool) (m : Nat) (e e0 : Int) : Int :=
  let v : Int := (m * 2 ^ (e - e0).toNat : Nat)
  if n then -v else v

/-- The exact sum; a sum of zeros of both signs is +0, as nearest-even rounding has it. -/
def add : Num → Num → Num
  | .nan, _ => .nan
  | _, .nan => .nan
  | .inf a, .inf b => if a = b then .inf a else .nan
  | .inf a, _ => .inf a
  | _, .inf b => .inf b
  | .fin a m e, .fin b n f =>
    let e0 := min e f
    let s := scaled a m e e0 + scaled b n f e0
    if s = 0 then .fin (a && b) 0 0 else .fin (decide (s < 0)) s.natAbs e0

/-- The exact product. -/
def mul : Num → Num → Num
  | .nan, _ => .nan
  | _, .nan => .nan
  | .inf a, .inf b => .inf (a != b)
  | .inf a, .fin b n _ => if n = 0 then .nan else .inf (a != b)
  | .fin a m _, .inf b => if m = 0 then .nan else .inf (a != b)
  | .fin a m e, .fin b n f => .fin (a != b) (m * n) (e + f)

/-- The value times 2^k. -/
def shift (k : Int) : Num → Num
  | .nan => .nan
  | .inf n => .inf n
  | .fin n m e => .fin n m (e + k)

/-- The quotient, exact where it has at most 192 fraction bits and otherwise with a sticky last bit, so that every
rounding of it to a format of the manual equals the rounding of the exact quotient. -/
def div : Num → Num → Num
  | .nan, _ => .nan
  | _, .nan => .nan
  | .inf _, .inf _ => .nan
  | .inf a, .fin b _ _ => .inf (a != b)
  | .fin a _ _, .inf b => .fin (a != b) 0 0
  | .fin a m e, .fin b n f =>
    if n = 0 then (if m = 0 then .nan else .inf (a != b))
    else
      let k := 192 + Nat.log2 (n + 1)
      let q := m * 2 ^ k / n
      let sticky := if m * 2 ^ k % n = 0 then 0 else 1
      .fin (a != b) (2 * q + sticky) (e - f - k - 1)

/-- The square root with a sticky last bit, as `div`; the root of a negative number is NaN, of -0 is -0. -/
def sqrt : Num → Num
  | .nan => .nan
  | .inf n => if n then .nan else .inf false
  | .fin n m e =>
    if m = 0 then .fin n 0 0
    else if n then .nan
    else
      let e' := if e % 2 = 0 then e else e - 1
      let m' := if e % 2 = 0 then m else 2 * m
      let r := Nat.sqrt (m' * 2 ^ 256)
      let sticky := if r * r = m' * 2 ^ 256 then 0 else 1
      .fin false (2 * r + sticky) (e' / 2 - 128 - 1)

/-- Is a below b? NaN compares false, zeros of both signs are equal. -/
def lt : Num → Num → Bool
  | .nan, _ => false
  | _, .nan => false
  | .inf a, .inf b => a && !b
  | .inf a, .fin _ _ _ => a
  | .fin _ _ _, .inf b => !b
  | .fin a m e, .fin b n f => let e0 := min e f; decide (scaled a m e e0 < scaled b n f e0)

/-- ⌊log₂⌋ of a finite non-zero magnitude. -/
def log2 : Num → Int
  | .fin _ m e => (Nat.log2 m : Int) + e
  | _ => 0

end Num

/-- How a value is rounded: to nearest even, or stochastically with the 8-bit random number r (R151). -/
inductive Rounding where
  | nearest
  | stochastic (r : Nat)
  deriving DecidableEq, Repr

/-- Round m × 2^e to a multiple of 2^q: the multiplier (R151, R158). -/
def roundAt (rd : Rounding) (m : Nat) (e q : Int) : Nat :=
  if q ≤ e then m * 2 ^ (e - q).toNat
  else
    let k := (q - e).toNat
    let keep := m / 2 ^ k
    let rest := m % 2 ^ k
    let up := match rd with
      | .nearest => decide (2 ^ k < 2 * rest) || (decide (2 * rest = 2 ^ k) && keep % 2 == 1)
      | .stochastic r => decide (256 ≤ rest * 256 / 2 ^ k + r)
    if up then keep + 1 else keep

/-- A finite non-zero value rounded to a format's precision: multiplier and exponent of the last place. -/
def roundTo (f : FloatFmt) (rd : Rounding) (m : Nat) (e : Int) : Nat × Int :=
  let q := max (e + (Nat.log2 m : Int) - (f.man : Int)) f.lsb
  let r := roundAt rd m e q
  if r = 2 ^ (f.man + 1) then (2 ^ f.man, q + 1) else (r, q)

/-- The code without its sign of a rounded magnitude, unbounded above. DESIGN CHOICE (notes/assumptions/18.md). -/
def packCode (f : FloatFmt) (r : Nat) (q : Int) : Nat :=
  if r < 2 ^ f.man then r else ((q - f.lsb).toNat + 1) * 2 ^ f.man + (r - 2 ^ f.man)

/-- What a conversion counts (R158 to R160). -/
structure Counted where
  code : Nat
  overflow : Bool
  vanish : Bool
  nanLost : Bool
  deriving DecidableEq, Repr

/-- The sign bit of a code. -/
def signed_code (f : FloatFmt) (neg : Bool) (c : Nat) : Nat := c + if neg then 2 ^ (f.bits - 1) else 0

/-- Convert a number into a floating-point format (R158 to R160): one rounding, saturation or infinity on overflow, the
counts of overflow, vanish and lost NaN. -/
def toFloat (f : FloatFmt) (rd : Rounding) (ovfInf : Bool) (v : Num) : Counted :=
  match v with
  | .nan => match f.nanCode with
    | some c => ⟨c, false, false, false⟩
    | none => ⟨0, false, false, true⟩
  | .inf n => match f.infCode with
    | some c => ⟨signed_code f n c, false, false, false⟩
    | none => ⟨signed_code f n f.maxCode, true, false, false⟩
  | .fin n m e =>
    if m = 0 then ⟨signed_code f n 0, false, false, false⟩
    else
      let r := roundTo f rd m e
      let c := packCode f r.1 r.2
      if f.maxCode < c then
        match ovfInf, f.infCode with
        | true, some i => ⟨signed_code f n i, true, false, false⟩
        | _, _ => ⟨signed_code f n f.maxCode, true, false, false⟩
      else ⟨signed_code f n c, false, decide (c = 0), false⟩

/-- Convert a number into a two's-complement integer of `bits` bits (R158 to R160). -/
def toIntFmt (bits : Nat) (rd : Rounding) (v : Num) : Counted :=
  match v with
  | .nan => ⟨0, false, false, true⟩
  | .inf n => ⟨if n then 2 ^ (bits - 1) else 2 ^ (bits - 1) - 1, true, false, false⟩
  | .fin n m e =>
    let r := roundAt rd m e 0
    if n then
      if 2 ^ (bits - 1) < r then ⟨2 ^ (bits - 1), true, false, false⟩
      else ⟨(2 ^ bits - r) % 2 ^ bits, false, decide (m ≠ 0 ∧ r = 0), false⟩
    else
      if 2 ^ (bits - 1) ≤ r then ⟨2 ^ (bits - 1) - 1, true, false, false⟩
      else ⟨r, false, decide (m ≠ 0 ∧ r = 0), false⟩

/-- Convert into the FORMAT code's elements; MXINT8 is handled by scaling with 2⁶ before (R78). -/
def toFormat (fmt : Nat) (rd : Rounding) (ovfInf : Bool) (v : Num) : Counted :=
  match fmt with
  | 8 => toIntFmt 8 rd v
  | 9 => toIntFmt 32 rd v
  | _ => match floatFmt? fmt with
    | some f => toFloat f rd ovfInf v
    | none => ⟨0, false, false, false⟩

/-- The value of a floating-point code (R75, R76: subnormals and −0 kept). -/
def ofFloat (code : Nat) (f : FloatFmt) (c : Nat) : Num :=
  let neg := c.testBit (f.bits - 1)
  let a := c % 2 ^ (f.bits - 1)
  match f.infCode with
  | some i =>
    if a = i then .inf neg
    else if i < a then .nan
    else if a < 2 ^ f.man then .fin neg a f.lsb else .fin neg (2 ^ f.man + a % 2 ^ f.man) (f.lsb + (a / 2 ^ f.man : Nat) - 1)
  | none =>
    if code = 3 ∧ a = 0x7F then .nan
    else if a < 2 ^ f.man then .fin neg a f.lsb else .fin neg (2 ^ f.man + a % 2 ^ f.man) (f.lsb + (a / 2 ^ f.man : Nat) - 1)

/-- The value of an element's code under a FORMAT code, without scales. -/
def ofFormat (fmt c : Nat) : Num :=
  match fmt with
  | 8 => Num.ofInt (signed 8 c)
  | 9 => Num.ofInt (signed 32 c)
  | _ => match floatFmt? fmt with
    | some f => ofFloat fmt f c
    | none => Num.zero

/-- The value of an element under MX with scale byte e (R78): NaN under 0xFF, MXINT8 in 64ths. -/
def ofMx (fmt c e : Nat) : Num :=
  if e = 0xFF then .nan
  else (ofFormat fmt c).shift ((e : Int) - 127 - if fmt = 8 then 6 else 0)

/-- The FP32 format. -/
def fp32 : FloatFmt :=
  { bits := 32, man := 23, bias := 127, maxCode := 0x7F7FFFFF, infCode := some 0x7F800000,
    nanCode := some (openNan 1 23 0x7F800000) }

/-- The ACC16 chain format (R144). -/
def acc16 : FloatFmt := { bits := 16, man := 9, bias := 31, maxCode := 0x7FFF, infCode := none, nanCode := none }

/-- A number as an FP32 word, rounded to nearest even, infinite on overflow; with the overflow of a finite value. -/
def f32 (v : Num) : Word × Bool :=
  let r := toFloat fp32 .nearest true v
  (BitVec.ofNat 32 r.code, r.overflow)

/-- The value of an FP32 word. -/
def val32 (w : Word) : Num := ofFloat 1 fp32 w.toNat

/-- A number rounded to FP32, as a number. -/
def rnd32 (v : Num) : Num := val32 (f32 v).1

/-- FP32 arithmetic with rounding to nearest even. -/
def f32add (a b : Word) : Word := (f32 ((val32 a).add (val32 b))).1

/-- FP32 product with rounding to nearest even. -/
def f32mul (a b : Word) : Word := (f32 ((val32 a).mul (val32 b))).1

/-- The larger of two values, NaN above every number (R163). -/
def numMax (a b : Num) : Num := if a.isNan then a else if b.isNan then b else if a.lt b then b else a

/-- The larger of two values, a NaN of either being the result; the first of equal values. -/
def numMin (a b : Num) : Num := if a.isNan then a else if b.isNan then b else if b.lt a then b else a

/-- A rounding into the ACC16 chain (R144): infinity and NaN pass as flags; overflow saturates and counts, a vanished value
counts. -/
def toAcc16 (v : Num) : Num × Bool × Bool :=
  match v with
  | .nan => (.nan, false, false)
  | .inf n => (.inf n, false, false)
  | .fin _ _ _ =>
    let r := toFloat acc16 .nearest false v
    (ofFloat 0 acc16 r.code, r.overflow, r.vanish)

/-- The scale byte for a block (R161): emax of the element format and the largest finite magnitude of the block. -/
def mxScale (fmt : Nat) (vals : List Num) : Nat :=
  if vals.any Num.isNan then 0xFF
  else
    let amax := (vals.filter Num.isFin).foldl (fun a v => if a.lt v.abs then v.abs else a) Num.zero
    if amax.isZero then 0
    else
      let emax : Int := match fmt with | 3 => 8 | 4 => 15 | 5 => 4 | 6 => 2 | 7 => 2 | _ => 0
      let e := amax.log2 - emax + 127
      if e < 0 then 0 else if 254 < e then 254 else e.toNat

/-- One step of a rounding generator: a 128-bit shift register with taps at bits 128, 126, 101 and 99 (R152), numbered from
1, shifting towards bit 128. -/
def lfsrStep (g : BitVec 128) : BitVec 128 :=
  let fb := (g.getLsbD 127) ^^ (g.getLsbD 125) ^^ (g.getLsbD 100) ^^ (g.getLsbD 98)
  (g <<< 1) ||| (if fb then 1 else 0)

/-- `n` steps of a generator. -/
def lfsrSteps : Nat → BitVec 128 → BitVec 128
  | 0, g => g
  | n + 1, g => lfsrSteps n (lfsrStep g)

/-- The state loaded into generator g from a 64-bit seed (R153): 0 taken as 1; the seed below, and rotated left by g + 1
above. -/
def lfsrLoad (seed : DWord) (g : Nat) : BitVec 128 :=
  let s : DWord := if seed = 0 then 1 else seed
  (s.rotateLeft ((g + 1) % 64)) ++ s

/-- The 8-bit number that column j takes from a bank of eight generators (R152). -/
def lfsrByte (gens : List (BitVec 128)) (j : Nat) : Nat :=
  ((gens.getD (j / 16) 0).toNat / 2 ^ (8 * (j % 16))) % 256

end Sys2Proof.Machine
end

