-- ==== Sys2Proof/Machine/Bound.lean ====
section
/-! DEFINITION. Functions whose value the manual bounds and does not fix (R157, R163, R207): their exact values in fixed point, close
enough to tell what lies within the bound, and the free value held to it. -/

namespace Sys2Proof.Machine

open Sys2Proof

/-! ## Fixed point: integers of 2⁻²⁵⁶ -/

/-- One. -/
def fixOne : Int := 2 ^ 256

/-- A finite number; every FP32 number is exact. -/
def toFix : Num → Int
  | .fin n m e =>
    let x : Nat := if 0 ≤ e + 256 then m * 2 ^ (e + 256).toNat else m / 2 ^ (-(e + 256)).toNat
    if n then -(x : Int) else x
  | _ => 0

/-- The number of a fixed-point value. -/
def ofFix (x : Int) : Num := .fin (decide (x < 0)) x.natAbs (-256)

/-- Product. -/
def fixMul (a b : Int) : Int := a * b / 2 ^ 256

/-- Quotient. -/
def fixDiv (a b : Int) : Int := if b = 0 then 0 else a * 2 ^ 256 / b

/-- e^x, to more than 100 places: the series of e^(x ÷ 4096), squared twelve times. Beyond ±200 the value is 0 or past every
format. -/
def fixExp (x : Int) : Int :=
  if 200 * fixOne < x then 2 ^ 512
  else if x < -200 * fixOne then 0
  else
    let y := x / 4096
    let t := (List.range 24).foldr (fun k a => fixOne + fixMul y a / ((k + 1 : Nat) : Int)) fixOne
    (List.range 12).foldl (fun a _ => fixMul a a) t

/-- The absolute value. -/
def fixAbs (x : Int) : Int := x.natAbs

/-- σ(z) (R157). -/
def fixSigmoid (z : Int) : Int :=
  let e := fixExp (-fixAbs z)
  fixDiv (if z < 0 then e else fixOne) (fixOne + e)

/-- tanh(z). -/
def fixTanh (z : Int) : Int :=
  let e := fixExp (-2 * fixAbs z)
  let t := fixDiv (fixOne - e) (fixOne + e)
  if z < 0 then -t else t

/-- ln(1 + u) for u from 0 to 1: twice the inverse hyperbolic tangent of u ÷ (2 + u). -/
def fixLog1 (u : Int) : Int :=
  let w := fixDiv u (2 * fixOne + u)
  let q := fixMul w w
  2 * fixMul w ((List.range 90).foldr (fun k a => fixOne / ((2 * k + 1 : Nat) : Int) + fixMul q a) 0)

/-- φ(z), the standard normal density; the constant is 1 ÷ √(2π). -/
def fixDensity (z : Int) : Int :=
  fixMul 46194360132781112550002021175736725500524138381534012844286371432913401257262 (fixExp (-(fixMul z z) / 2))

/-- Φ(z), the standard normal distribution function; 0 or 1 beyond ±14. -/
def fixNormal (z : Int) : Int :=
  if 14 * fixOne < z then fixOne
  else if z < -14 * fixOne then 0
  else
    let q := fixMul z z
    fixOne / 2 + fixMul (fixDensity z) (fixMul z ((List.range 300).foldr (fun k a => fixOne + fixMul q a / ((2 * k + 3 : Nat) : Int)) fixOne))

/-- A decimal fraction of millionths. -/
def fixMicro (n : Int) : Int := n * fixOne / 1000000

/-- The table of R157 for FUNC 3 to 10: form 0 f(z), form 1 f′ from z, form 2 f′ from y.
DESIGN CHOICE (notes/assumptions/16.md). -/
def fixFn (func form : Nat) (z : Int) : Int :=
  let half := fun (x : Int) => x / 2
  let c := fixMicro 797885
  let s := fixSigmoid z
  match func, form with
  | 3, 0 => if 0 < z then fixMul z z else 0
  | 3, 1 => if 0 < z then 2 * z else 0
  | 3, _ => if 0 < z then 2 * (Nat.sqrt (z.toNat * 2 ^ 256) : Int) else 0
  | 4, 0 =>
    let t := fixTanh (fixMul c (z + fixMul (fixMicro 44715) (fixMul z (fixMul z z))))
    half (fixMul z (fixOne + t))
  | 4, _ =>
    let t := fixTanh (fixMul c (z + fixMul (fixMicro 44715) (fixMul z (fixMul z z))))
    half (fixOne + t) +
      half (fixMul (fixMul z (fixOne - fixMul t t)) (fixMul c (fixOne + fixMul (fixMicro 134145) (fixMul z z))))
  | 5, 0 => fixMul z (fixNormal z)
  | 5, _ => fixNormal z + fixMul z (fixDensity z)
  | 6, 0 => fixMul z s
  | 6, _ => fixMul s (fixOne + fixMul z (fixSigmoid (-z)))
  | 7, 0 => s
  | 7, 1 => fixMul s (fixSigmoid (-z))
  | 7, _ => fixMul z (fixOne - z)
  | 8, 0 => fixTanh z
  | 8, 1 => fixOne - fixMul (fixTanh z) (fixTanh z)
  | 8, _ => fixOne - fixMul z z
  | 9, 0 => (if 0 < z then z else 0) + fixLog1 (fixExp (-fixAbs z))
  | 9, _ => s
  | 10, _ => fixExp z
  | _, _ => 0

/-! ## The bound -/

/-- May a word stand for an exact value (R157): a relative error of at most 2⁻²⁰ or an absolute error of at most 2⁻²⁴, whichever is
larger, with 2⁻⁶⁴ for what the fixed-point value itself may be off? An infinity stands for what may pass the largest number. -/
def withinBound (x : Int) (w : Word) : Bool :=
  let tol : Nat := max (x.natAbs / 2 ^ 20) (2 ^ 232) + (x.natAbs + 2 ^ 256) / 2 ^ 64
  match val32 w with
  | .fin n m e => decide ((toFix (.fin n m e) - x).natAbs ≤ tol)
  | .inf n => n == decide (x < 0) && decide ((2 ^ 25 - 1) * 2 ^ (103 + 256) ≤ x.natAbs + tol)
  | .nan => false

/-- A free word held to the bound: where it lies outside, the nearest word to the exact value.
DESIGN CHOICE (notes/assumptions/16.md). -/
def boundWord (x : Int) (w : Word) : Word := if withinBound x w then w else (f32 (ofFix x)).1

end Sys2Proof.Machine
end

