-- ==== Sys2Proof/Machine/Events.lean ====
section
/-! DEFINITION. The event codes and severities (R477, R478, R486). -/

namespace Sys2Proof.Machine

namespace Ev

abbrev TASK_FIELD : Nat := 0x1001
abbrev RING_OVERRUN : Nat := 0x1002
abbrev CRING_FULL : Nat := 0x1003
abbrev BUDGET_EXCEEDED : Nat := 0x1004
abbrev UNIT_ABSENT : Nat := 0x1005
abbrev GANG_DEPTH : Nat := 0x1006
abbrev GANG_BUSY : Nat := 0x1007
abbrev SPEC_BAD_TARGET : Nat := 0x1008
abbrev SEM_XLAT_FAULT : Nat := 0x1009
abbrev SEM_MODE_BUSY : Nat := 0x100A
abbrev SYNC_LINE_MODE : Nat := 0x100B
abbrev SYNC_LINE_EMPTY : Nat := 0x100C
abbrev RING_ALIGN : Nat := 0x100D
abbrev GROUP_ABANDONED : Nat := 0x100E
abbrev DESC_FORMAT : Nat := 0x2001
abbrev DESC_FIELD : Nat := 0x2002
abbrev DESC_STRIDE : Nat := 0x2003
abbrev DESC_RANGE : Nat := 0x2004
abbrev DESC_ALIGN : Nat := 0x2005
abbrev DESC_PROTECT : Nat := 0x2006
abbrev DESC_STALE : Nat := 0x2007
abbrev DESC_OVERLAP : Nat := 0x2008
abbrev LIST_BINDING : Nat := 0x2009
abbrev SHARD_ABSENT : Nat := 0x200A
abbrev SHM_VERSION_HELD : Nat := 0x200B
abbrev SHARD_VERSION : Nat := 0x200C
abbrev EXD_FIELD : Nat := 0x200D
abbrev EXD_VERSION_HELD : Nat := 0x200E
abbrev EXD_ABSENT : Nat := 0x200F
abbrev DENSE_GEAR : Nat := 0x3001
abbrev DENSE_SHAPE : Nat := 0x3002
abbrev ACC_RANGE : Nat := 0x3003
abbrev SPARSE_META : Nat := 0x3004
abbrev ARRAY_PARITY : Nat := 0x3005
abbrev ACC_ECC : Nat := 0x3006
abbrev SPARSE_SHAPE : Nat := 0x3007
abbrev SPARSE_CAPACITY : Nat := 0x3008
abbrev INDEX_RANGE : Nat := 0x3009
abbrev DISPATCH_SHAPE : Nat := 0x300A
abbrev DISPATCH_CAPACITY : Nat := 0x300B
abbrev ADDR_UNMAPPED : Nat := 0x4001
abbrev ALLOC_FIELD : Nat := 0x4002
abbrev ALLOC_NO_SPACE : Nat := 0x4003
abbrev ALLOC_TABLE_FULL : Nat := 0x4004
abbrev ALLOC_BAD_FREE : Nat := 0x4005
abbrev PAGE_NOT_RESIDENT : Nat := 0x4006
abbrev STALE_PREFETCH : Nat := 0x4007
abbrev COPY_SHAPE : Nat := 0x4008
abbrev AZN_SHAPE : Nat := 0x4009
abbrev AZN_STACK : Nat := 0x400A
abbrev AZN_PROG_FIELD : Nat := 0x400B
abbrev AZN_PROG_BUSY : Nat := 0x400C
abbrev HBM_STACK_DOWN : Nat := 0x400D
abbrev HBM_UNCORR : Nat := 0x400E
abbrev HBM_LANE_REPAIRED : Nat := 0x400F
abbrev HBM_ROW_REPAIRED : Nat := 0x4010
abbrev PAGE_RETIRED : Nat := 0x4011
abbrev RETIRE_TABLE_FULL : Nat := 0x4012
abbrev CXL_LINK_DOWN : Nat := 0x4013
abbrev FAR_UNREACHABLE : Nat := 0x4014
abbrev PAGE_NO_FRAME : Nat := 0x4015
abbrev PAGE_SHAPE : Nat := 0x4016
abbrev PAGE_CAPACITY : Nat := 0x4017
abbrev PKGNET_LINK_DOWN : Nat := 0x4018
abbrev SRAM_UNCORR : Nat := 0x4019
abbrev SRAM_SLAB_RETIRED : Nat := 0x401A
abbrev LLY_TRAIN_FAIL : Nat := 0x5001
abbrev LLY_ID_CONFLICT : Nat := 0x5002
abbrev LLY_LINK_DOWN : Nat := 0x5003
abbrev LLY_LINK_UP : Nat := 0x5004
abbrev FABRIC_TIMEOUT : Nat := 0x5005
abbrev FABRIC_UNREACHABLE : Nat := 0x5006
abbrev LLY_QUORUM_CFG : Nat := 0x5007
abbrev FENCED : Nat := 0x5008
abbrev FENCE_CLEARED : Nat := 0x5009
abbrev PEL_DOM_BUSY : Nat := 0x6001
abbrev PEL_CFG_FIELD : Nat := 0x6002
abbrev PEL_TREE_FAULT : Nat := 0x6003
abbrev PEL_SEQ_MISMATCH : Nat := 0x6004
abbrev BARRIER_TIMEOUT : Nat := 0x6005
abbrev DIGEST_MISMATCH : Nat := 0x6006
abbrev COL_TEAM_FIELD : Nat := 0x6007
abbrev COL_TEAM_BUSY : Nat := 0x6008
abbrev COL_MISMATCH : Nat := 0x6009
abbrev COL_SHAPE : Nat := 0x600A
abbrev COL_CAPACITY : Nat := 0x600B
abbrev STEP_TAINTED : Nat := 0x600C
abbrev DRAFT_STARTED : Nat := 0x600D
abbrev DRAFT_ENDED : Nat := 0x600E
abbrev BRAKE_ON : Nat := 0x7001
abbrev BRAKE_OFF : Nat := 0x7002
abbrev CURRENT_BRAKE : Nat := 0x7003
abbrev THERMAL_BRAKE : Nat := 0x7004
abbrev STACK_THERMAL : Nat := 0x7005
abbrev THERMAL_TRIP : Nat := 0x7006
abbrev CLK_REF_LOST : Nat := 0x7007
abbrev CLK_LOCK_LOST : Nat := 0x7008
abbrev AGE_MARGIN_LOW : Nat := 0x7009
abbrev AGE_MARGIN_EXHAUSTED : Nat := 0x700A
abbrev MARGIN_REPLAN_DONE : Nat := 0x700B
abbrev INPUT_LOW : Nat := 0x700C
abbrev INPUT_OVERVOLT : Nat := 0x700D
abbrev INPUT_FAIL : Nat := 0x700E
abbrev RAIL_FAULT : Nat := 0x700F
abbrev COOLANT_WARN : Nat := 0x7010
abbrev CFG_CONFLICT : Nat := 0x7011
abbrev HOST_ADDR_UNMAPPED : Nat := 0x8001
abbrev MBX_UNKNOWN_CMD : Nat := 0x8002
abbrev MBX_ARG_FIELD : Nat := 0x8003
abbrev MBX_TIMEOUT : Nat := 0x8004
abbrev WARM_RESET_DONE : Nat := 0x8005
abbrev BOOT_DONE : Nat := 0x8006
abbrev BOOT_BANK_FALLBACK : Nat := 0x8007
abbrev BOOT_RECOVERY : Nat := 0x8008
abbrev FW_SIG_INVALID : Nat := 0x8009
abbrev FW_ROLLBACK : Nat := 0x800A
abbrev FW_FORMAT : Nat := 0x800B
abbrev FW_REJECTED : Nat := 0x800C
abbrev FW_UPDATED : Nat := 0x800D
abbrev LOG_FULL : Nat := 0x800E
abbrev REG_LOCKED : Nat := 0x800F

end Ev

/-- The codes of severity info (R486). -/
def evInfo : List Nat := [
  0x100C, 0x400F, 0x4010, 0x5004, 0x5009, 0x600D, 0x600E, 0x7001, 0x7002, 0x700B, 0x8005, 0x8006, 0x800D]

/-- The codes of severity warn (R486). -/
def evWarn : List Nat := [
  0x1003, 0x4011, 0x401A, 0x5001, 0x5003, 0x6004, 0x7003, 0x7004, 0x7005, 0x7007, 0x7009, 0x700C, 0x7010,
  0x7011, 0x8001, 0x800C, 0x800E, 0x800F]

/-- The codes of severity fault (R486). -/
def evFault : List Nat := [
  0x1001, 0x1002, 0x1004, 0x1005, 0x1006, 0x1007, 0x1008, 0x1009, 0x100A, 0x100B, 0x100D, 0x100E, 0x2001,
  0x2002, 0x2003, 0x2004, 0x2005, 0x2006, 0x2007, 0x2008, 0x2009, 0x200A, 0x200B, 0x200C, 0x200D, 0x200E,
  0x200F, 0x3001, 0x3002, 0x3003, 0x3004, 0x3005, 0x3006, 0x3007, 0x3008, 0x3009, 0x300A, 0x300B, 0x4001,
  0x4002, 0x4003, 0x4004, 0x4005, 0x4006, 0x4007, 0x4008, 0x4009, 0x400A, 0x400B, 0x400C, 0x4014, 0x4015,
  0x4016, 0x4017, 0x5005, 0x5006, 0x6001, 0x6002, 0x6007, 0x6008, 0x6009, 0x600A, 0x600B, 0x600C, 0x8002,
  0x8003, 0x8004, 0x8009, 0x800A, 0x800B]

/-- The codes of severity error (R486). -/
def evError : List Nat := [
  0x400D, 0x400E, 0x4012, 0x4013, 0x4018, 0x4019, 0x5002, 0x5007, 0x5008, 0x6003, 0x6005, 0x6006, 0x7006,
  0x7008, 0x700A, 0x700D, 0x700E, 0x700F, 0x8007, 0x8008]

/-- Severity of a code: 0 info, 1 warn, 2 fault, 3 error (R478). -/
def evSeverity (e : Nat) : Nat :=
  if evInfo.contains e then 0 else if evWarn.contains e then 1 else if evFault.contains e then 2 else 3

/-- Is the code in the table of R486? -/
def evListed (e : Nat) : Bool :=
  evInfo.contains e || evWarn.contains e || evFault.contains e || evError.contains e

end Sys2Proof.Machine
end

