-- ==== Sys2Proof/Machine/Sparse.lean ====
section
/-! DEFINITION. Sparse maps in one canonical form: a list of keys and values, keys strictly rising, no value equal
to what an unlisted key reads as. Memory, registers, tables and counters are held in this form, so that equal
contents are equal data. -/

namespace Sys2Proof.Machine

/-- A map from numbers to values, held as a sorted list of the entries that differ from the default. -/
abbrev Sparse (ν : Type) := List (Nat × ν)

namespace Sparse

variable {ν : Type}

/-- The value at key `k`; an unlisted key reads as `d k`. -/
def get (d : Nat → ν) : Sparse ν → Nat → ν
  | [], k => d k
  | p :: r, k => if p.1 = k then p.2 else get d r k

/-- The entries with every key `k` removed. -/
def erase (k : Nat) (m : Sparse ν) : Sparse ν := m.filter (fun p => p.1 != k)

/-- Insert an entry before the first larger key. -/
def insert (k : Nat) (v : ν) : Sparse ν → Sparse ν
  | [] => [(k, v)]
  | p :: r => if k < p.1 then (k, v) :: p :: r else p :: insert k v r

/-- Set key `k` to `v`, keeping the canonical form: writing the default removes the entry. -/
def put [DecidableEq ν] (d : Nat → ν) (m : Sparse ν) (k : Nat) (v : ν) : Sparse ν :=
  if v = d k then erase k m else insert k v (erase k m)

/-- Return every key that `p` selects to its default. -/
def clear (p : Nat → Bool) (m : Sparse ν) : Sparse ν := m.filter (fun e => !p e.1)

/-- Set `n` consecutive keys from `k` to the values of a list. -/
def putList [DecidableEq ν] (d : Nat → ν) (m : Sparse ν) (k : Nat) : List ν → Sparse ν
  | [] => m
  | v :: r => putList d (put d m k v) (k + 1) r

/-- The values at `n` consecutive keys from `k`. -/
def getList (d : Nat → ν) (m : Sparse ν) (k n : Nat) : List ν := (List.range n).map (fun i => get d m (k + i))

/-- Set the keys `dst` to `dst + n - 1` to what the keys `src` to `src + n - 1` hold, both ranges reading the same
default where unlisted. -/
def copyRange [DecidableEq ν] (d : Nat → ν) (m : Sparse ν) (src dst n : Nat) : Sparse ν :=
  (m.filter (fun e => decide (src ≤ e.1 ∧ e.1 < src + n))).foldl (fun a e => put d a (e.1 - src + dst) e.2)
    (clear (fun k => decide (dst ≤ k ∧ k < dst + n)) m)

/-- The canonical form: keys strictly rising, and no entry equal to the default. -/
def wf [DecidableEq ν] (d : Nat → ν) (m : Sparse ν) : Bool :=
  decide (m.Pairwise (fun a b => a.1 < b.1)) && m.all (fun e => decide (e.2 ≠ d e.1))

end Sparse

end Sys2Proof.Machine
end

