-- ==== Sys2Proof/Machine/RegMap.lean ====
section
/-! DEFINITION. The register map (R469 to R472 and the register tables of every chapter): where each page lies, and
for each register of a page its offset, access code (R18), writable bits (R19), reset value and whether R443 logs it. -/

namespace Sys2Proof.Machine

/-- Access codes of R18. -/
inductive Acc where
  | ro | rw | w1c | wo | rws
  deriving DecidableEq, Repr

/-- One register, or a set of like registers, of a page. `mask` marks the bits a write can set (for W1C: clear); the
other bits are RO or reserved and ignore writes (R18, R19). A wide register is two consecutive words (R13). -/
structure RegDef where
  name : String
  off : Nat
  count : Nat
  stride : Nat
  wide : Bool
  acc : Acc
  mask : Nat
  reset : Nat
  logged : Bool
  deriving DecidableEq, Repr

/-! Offsets of the registers within their pages, under the names of the manual. -/

namespace Reg

abbrev ID : Nat := 0x000
abbrev CAP : Nat := 0x004
abbrev CTL : Nat := 0x008
abbrev STAT : Nat := 0x00C
abbrev INT_STAT : Nat := 0x010
abbrev INT_EN : Nat := 0x014
abbrev INT_FORCE : Nat := 0x018
abbrev LOCK : Nat := 0x01C
abbrev CHANGE_SEQ : Nat := 0x020
abbrev CONSIST : Nat := 0x024
abbrev MOD_GRADE : Nat := 0x040
abbrev MOD_CORE_MAP (n : Nat) : Nat := 0x044 + 4 * n
abbrev MOD_RESET : Nat := 0x060
abbrev MOD_IRQ_SEL : Nat := 0x064
abbrev MOD_IRQ_VEC : Nat := 0x068
abbrev MOD_HOST_STAT : Nat := 0x06C
abbrev MOD_AUX_CFG : Nat := 0x070
abbrev MOD_SIDEBAND : Nat := 0x074
abbrev MOD_COOLANT : Nat := 0x078
abbrev MOD_COOLANT_CFG : Nat := 0x07C
abbrev MOD_WIN_BASE_LO (n : Nat) : Nat := 0x080 + 8 * n
abbrev MOD_WIN_BASE_HI (n : Nat) : Nat := 0x084 + 8 * n
abbrev MOD_EVT_BASE_LO : Nat := 0x100
abbrev MOD_EVT_BASE_HI : Nat := 0x104
abbrev MOD_EVT_CFG : Nat := 0x108
abbrev MOD_EVT_TAIL : Nat := 0x10C
abbrev MOD_EVT_HEAD : Nat := 0x110
abbrev MOD_EVT_LAST : Nat := 0x114
abbrev MOD_EVT_CNT_SEL : Nat := 0x118
abbrev MOD_EVT_CNT_CLR : Nat := 0x11C
abbrev MOD_EVT_CNT : Nat := 0x120
abbrev MOD_EVT_LOST : Nat := 0x128
abbrev SCH_TRING_BASE_LO : Nat := 0x040
abbrev SCH_TRING_BASE_HI : Nat := 0x044
abbrev SCH_RING_CFG : Nat := 0x048
abbrev SCH_TRING_TAIL : Nat := 0x04C
abbrev SCH_TRING_HEAD : Nat := 0x050
abbrev SCH_CRING_BASE_LO : Nat := 0x054
abbrev SCH_CRING_BASE_HI : Nat := 0x058
abbrev SCH_CRING_TAIL : Nat := 0x05C
abbrev SCH_CRING_HEAD : Nat := 0x060
abbrev SCH_ADMITTED : Nat := 0x064
abbrev SCH_IDLE_CLR : Nat := 0x068
abbrev SCH_CNT_UNIT : Nat := 0x06C
abbrev SCH_BUSY : Nat := 0x080
abbrev SCH_IDLE (n : Nat) : Nat := 0x088 + 8 * n
abbrev SEM_SIG : Nat := 0x044
abbrev SEM_READ_SEL : Nat := 0x048
abbrev SEM_READ_VAL : Nat := 0x04C
abbrev SEM_MODE : Nat := 0x040
abbrev SEM_XLAT_INV : Nat := 0x050
abbrev SEM_XLAT_BASE (n : Nat) : Nat := 0x080 + 8 * n
abbrev SEM_COMPACT (n : Nat) : Nat := 0x0C0 + 4 * n
abbrev SEM_PHYS (n : Nat) : Nat := 0x100 + 4 * n
abbrev SHM_SEL : Nat := 0x040
abbrev SHM_CMD : Nat := 0x044
abbrev SHM_STAT : Nat := 0x048
abbrev SHM_EPOCH : Nat := 0x04C
abbrev SHM_DATA (n : Nat) : Nat := 0x050 + 4 * n
abbrev SHM_LOAD_SRC_LO : Nat := 0x060
abbrev SHM_LOAD_SRC_HI : Nat := 0x064
abbrev SHM_LOAD_CTL : Nat := 0x068
abbrev SHM_LOAD_DONE : Nat := 0x06C
abbrev SHM_REC_CTL : Nat := 0x070
abbrev SHM_REC_STAT : Nat := 0x074
abbrev SHM_REC_SEL : Nat := 0x078
abbrev SHM_REC_DATA : Nat := 0x07C
abbrev SHM_NEWER : Nat := 0x080
abbrev SHM_VERSION_FAULTS : Nat := 0x088
abbrev SHM_REC_CNT_CLR : Nat := 0x090
abbrev EXD_SEL : Nat := 0x040
abbrev EXD_CMD : Nat := 0x044
abbrev EXD_STAT : Nat := 0x048
abbrev EXD_EPOCH : Nat := 0x04C
abbrev EXD_DATA (n : Nat) : Nat := 0x050 + 4 * n
abbrev EXD_BULK_SRC_LO : Nat := 0x090
abbrev EXD_BULK_SRC_HI : Nat := 0x094
abbrev EXD_BULK_CTL : Nat := 0x098
abbrev EXD_BULK_DONE : Nat := 0x09C
abbrev EXD_TALLY_DST_LO : Nat := 0x0A0
abbrev EXD_TALLY_DST_HI : Nat := 0x0A4
abbrev EXD_TALLY_CTL : Nat := 0x0A8
abbrev EXD_CNT_CLR : Nat := 0x0AC
abbrev EXD_PLACED : Nat := 0x0B0
abbrev EXD_DROPPED : Nat := 0x0B8
abbrev EXD_SPILLED : Nat := 0x0C0
abbrev EXD_PAD_ROWS : Nat := 0x0C8
abbrev EXD_NAN_TOKENS : Nat := 0x0D0
abbrev AZN_PROG_SEL : Nat := 0x040
abbrev AZN_PROG_CMD : Nat := 0x044
abbrev AZN_PROG_STAT : Nat := 0x048
abbrev AZN_PROG_LEN : Nat := 0x04C
abbrev AZN_PROG_DATA (n : Nat) : Nat := 0x050 + 4 * n
abbrev AZN_SCALAR (n : Nat) : Nat := 0x100 + 4 * n
abbrev HBC_ALLOC_REQ : Nat := 0x040
abbrev HBC_ALLOC_SIZE : Nat := 0x044
abbrev HBC_ALLOC_MASK : Nat := 0x048
abbrev HBC_ALLOC_CMD : Nat := 0x04C
abbrev HBC_ALLOC_STAT : Nat := 0x050
abbrev HBC_ALLOC_ADDR_LO : Nat := 0x054
abbrev HBC_ALLOC_ADDR_HI : Nat := 0x058
abbrev HBC_ALLOC_GEN : Nat := 0x05C
abbrev HBC_FREE_FRAMES : Nat := 0x060
abbrev HBC_FREE_FAR : Nat := 0x064
abbrev HBC_PTE_SEL : Nat := 0x068
abbrev HBC_PTE_LO : Nat := 0x06C
abbrev HBC_PTE_HI : Nat := 0x070
abbrev HBC_RETIRED : Nat := 0x074
abbrev HBC_RETIRE_SEL : Nat := 0x078
abbrev HBC_RETIRE_ENTRY : Nat := 0x07C
abbrev CXL_LINK : Nat := 0x040
abbrev CXL_DEVICES : Nat := 0x044
abbrev CXL_CAPACITY : Nat := 0x048
abbrev CXL_PAGING_FRAMES : Nat := 0x04C
abbrev CXL_CNT_CLR : Nat := 0x050
abbrev CXL_PAGE_INS : Nat := 0x058
abbrev CXL_PAGE_OUTS : Nat := 0x060
abbrev CXL_EVICTIONS : Nat := 0x068
abbrev CXL_PAGE_FAIL : Nat := 0x070
abbrev CXL_BYTES : Nat := 0x078
abbrev CXL_POISON : Nat := 0x080
abbrev LLY_MODULE_ID : Nat := 0x040
abbrev LLY_CFG : Nat := 0x044
abbrev LLY_QUORUM : Nat := 0x048
abbrev LLY_TIEBREAK : Nat := 0x04C
abbrev LLY_EPOCH : Nat := 0x050
abbrev LLY_MEMBER_STAT : Nat := 0x054
abbrev LLY_RSP_TIMEOUT : Nat := 0x058
abbrev LLY_RT_SEL : Nat := 0x05C
abbrev LLY_RT_DATA : Nat := 0x060
abbrev LLY_RT_LOAD_SRC_LO : Nat := 0x064
abbrev LLY_RT_LOAD_SRC_HI : Nat := 0x068
abbrev LLY_RT_LOAD_CTL : Nat := 0x06C
abbrev LLY_RT_STAT : Nat := 0x070
abbrev LLY_LS_SEQ : Nat := 0x078
abbrev LLY_CNT_CLR : Nat := 0x080
abbrev LLY_NO_ROUTE : Nat := 0x088
abbrev LLY_TTL_DROP : Nat := 0x090
abbrev LLY_FENCED_DROPS : Nat := 0x098
abbrev LLY_BAD_PKT : Nat := 0x0A0
abbrev LLY_MEMBER (n : Nat) : Nat := 0x200 + 4 * n
abbrev LLY_REACH (n : Nat) : Nat := 0x400 + 4 * n
abbrev PEL_DOM_CFG (n : Nat) : Nat := 0x040 + 4 * n
abbrev PEL_GROUP : Nat := 0x060
abbrev PEL_TIMEOUT : Nat := 0x064
abbrev PEL_DIGEST_LO : Nat := 0x068
abbrev PEL_DIGEST_HI : Nat := 0x06C
abbrev PEL_DIGEST_STAT : Nat := 0x070
abbrev PEL_CNT_CLR : Nat := 0x078
abbrev PEL_SEQ (n : Nat) : Nat := 0x080 + 8 * n
abbrev PEL_RELEASES : Nat := 0x0C0
abbrev PEL_ABORTS : Nat := 0x0C8
abbrev PEL_DROPS : Nat := 0x0D0
abbrev PEL_SEQ_ERR : Nat := 0x0D8
abbrev PEL_MISMATCHES : Nat := 0x0E0
abbrev PEL_DRAFT_CFG : Nat := 0x100
abbrev PEL_DRAFT_LAG : Nat := 0x104
abbrev PEL_DRAFT_STAT : Nat := 0x108
abbrev PEL_DRAFTS : Nat := 0x110
abbrev PEL_GMEMBER (n : Nat) : Nat := 0x200 + 4 * n
abbrev COL_TEAM_SEL : Nat := 0x040
abbrev COL_TEAM_CMD : Nat := 0x044
abbrev COL_TEAM_SRC_LO : Nat := 0x048
abbrev COL_TEAM_SRC_HI : Nat := 0x04C
abbrev COL_TEAM_STAT : Nat := 0x050
abbrev COL_TEAM_RESULT : Nat := 0x054
abbrev COL_CNT_CLR : Nat := 0x060
abbrev COL_TASKS : Nat := 0x068
abbrev COL_BYTES_TX : Nat := 0x070
abbrev COL_BYTES_RX : Nat := 0x078
abbrev COL_MISMATCHES : Nat := 0x080
abbrev PWR_LIMIT : Nat := 0x040
abbrev PWR_WINDOW : Nat := 0x044
abbrev PWR_CAD_CFG : Nat := 0x048
abbrev PWR_FLOOR : Nat := 0x04C
abbrev PWR_FAST : Nat := 0x050
abbrev PWR_BRAKE_STAT : Nat := 0x054
abbrev PWR_BRAKE_STACKS : Nat := 0x058
abbrev PWR_INPUT : Nat := 0x05C
abbrev PWR_AVG_WINDOW : Nat := 0x060
abbrev PWR_AVG_FAST : Nat := 0x064
abbrev PWR_CNT_CLR : Nat := 0x068
abbrev PWR_ENERGY : Nat := 0x070
abbrev PWR_BRAKE_TIME : Nat := 0x078
abbrev PWR_FAST_TRIPS : Nat := 0x080
abbrev PWR_THERM_CFG : Nat := 0x088
abbrev PWR_TEMP_SEL : Nat := 0x08C
abbrev PWR_TEMP : Nat := 0x090
abbrev PWR_CLASS_DRAW (n : Nat) : Nat := 0x100 + 4 * n
abbrev PWR_TILE (n : Nat) : Nat := 0x200 + 4 * n
abbrev CLK_LOCK0 : Nat := 0x040
abbrev CLK_LOCK1 : Nat := 0x044
abbrev CLK_MCLK_COUNT : Nat := 0x048
abbrev CLK_TILE (n : Nat) : Nat := 0x050 + 4 * n
abbrev AGE_CFG : Nat := 0x040
abbrev AGE_SEL : Nat := 0x044
abbrev AGE_SLACK : Nat := 0x048
abbrev AGE_VSEL : Nat := 0x04C
abbrev AGE_VOLT : Nat := 0x050
abbrev AGE_CNT_CLR : Nat := 0x054
abbrev AGE_BUMPS : Nat := 0x058
abbrev AGE_REPLANS : Nat := 0x060
abbrev AGE_LAST_REPLAN : Nat := 0x068
abbrev SEC_BOOT_STAT : Nat := 0x040
abbrev SEC_SVN : Nat := 0x044
abbrev SEC_BANKS : Nat := 0x048
abbrev SEC_BOOT_COUNT : Nat := 0x04C
abbrev SEC_KEY_ID (n : Nat) : Nat := 0x050 + 4 * n
abbrev MBX_CMD : Nat := 0x040
abbrev MBX_STAT : Nat := 0x044
abbrev MBX_BUF_LO : Nat := 0x048
abbrev MBX_BUF_HI : Nat := 0x04C
abbrev MBX_BUF_LEN : Nat := 0x050
abbrev MBX_PROGRESS : Nat := 0x054
abbrev MBX_REFUSALS : Nat := 0x058
abbrev MBX_ARG (n : Nat) : Nat := 0x060 + 4 * n
abbrev MBX_RSP (n : Nat) : Nat := 0x080 + 4 * n
abbrev MBX_CNT_CLR : Nat := 0x0A0
abbrev LOG_CTL : Nat := 0x040
abbrev LOG_STAT : Nat := 0x044
abbrev LOG_HEAD : Nat := 0x048
abbrev LOG_TAIL : Nat := 0x050
abbrev LOG_RD_SEQ : Nat := 0x058
abbrev LOG_ACK : Nat := 0x060
abbrev LOG_DROPPED : Nat := 0x068
abbrev LOG_CNT_CLR : Nat := 0x070
abbrev LOG_DATA (n : Nat) : Nat := 0x080 + 4 * n
abbrev LOG_CHAIN (n : Nat) : Nat := 0x0C0 + 4 * n
abbrev LLY_SPOKE_CFG : Nat := 0x040
abbrev LLY_RTT : Nat := 0x044
abbrev LLY_SPOKE_CNT_CLR : Nat := 0x048
abbrev LLY_FLITS_TX : Nat := 0x050
abbrev LLY_FLITS_RX : Nat := 0x058
abbrev LLY_FEC_CORR : Nat := 0x060
abbrev LLY_CRC_ERR : Nat := 0x068
abbrev LLY_REPLAYS : Nat := 0x070
abbrev LLY_DUP : Nat := 0x078
abbrev LLY_DOWNS : Nat := 0x080
abbrev LLY_LOST : Nat := 0x088
abbrev HBC_CFG : Nat := 0x040
abbrev HBC_LANES : Nat := 0x044
abbrev HBC_SPARES : Nat := 0x048
abbrev HBC_FRAMES : Nat := 0x04C
abbrev HBC_OUTSTANDING : Nat := 0x050
abbrev HBC_CNT_CLR : Nat := 0x054
abbrev HBC_CE : Nat := 0x058
abbrev HBC_UE : Nat := 0x060
abbrev HBC_SLOTS : Nat := 0x068
abbrev HBC_MERGED : Nat := 0x070
abbrev HBC_ROW_REPAIRS : Nat := 0x078
abbrev HBC_ERR_ADDR : Nat := 0x080
abbrev HBC_LINK_REPLAY (n : Nat) : Nat := 0x090 + 8 * n
abbrev HBC_LINK_CNT_CLR : Nat := 0x0B0
abbrev AZN_CFG : Nat := 0x040
abbrev AZN_SR_SEED_LO : Nat := 0x044
abbrev AZN_SR_SEED_HI : Nat := 0x048
abbrev AZN_CNT_CLR : Nat := 0x04C
abbrev AZN_BUSY : Nat := 0x050
abbrev AZN_ELEMENTS : Nat := 0x058
abbrev AZN_HBM_BYTES : Nat := 0x060
abbrev AZN_PUSH_BYTES : Nat := 0x068
abbrev AZN_NAN_LOST : Nat := 0x070
abbrev AZN_NONFINITE : Nat := 0x078
abbrev AZN_OVF (n : Nat) : Nat := 0x080 + 16 * n
abbrev AZN_VANISH (n : Nat) : Nat := 0x088 + 16 * n
abbrev TILE_GANG_DEF (n : Nat) : Nat := 0x040 + 4 * n
abbrev TILE_VAL_SRC_LO : Nat := 0x060
abbrev TILE_VAL_SRC_HI : Nat := 0x064
abbrev TILE_VAL_DST_LO : Nat := 0x068
abbrev TILE_VAL_DST_HI : Nat := 0x06C
abbrev TILE_VAL_CTL : Nat := 0x070
abbrev TILE_VAL_STAT : Nat := 0x074
abbrev TILE_VAL_FAIL_IDX : Nat := 0x078
abbrev TILE_VAL_BIND (n : Nat) : Nat := 0x080 + 8 * n
abbrev TILE_ALLOC_REQ : Nat := 0x0A0
abbrev TILE_ALLOC_SIZE : Nat := 0x0A4
abbrev TILE_ALLOC_CMD : Nat := 0x0A8
abbrev TILE_ALLOC_STAT : Nat := 0x0AC
abbrev TILE_ALLOC_ADDR_LO : Nat := 0x0B0
abbrev TILE_ALLOC_ADDR_HI : Nat := 0x0B4
abbrev TILE_ALLOC_GEN : Nat := 0x0B8
abbrev TILE_ALLOC_FREE : Nat := 0x0BC
abbrev TILE_OC_CTL : Nat := 0x0C0
abbrev TILE_OC_INV : Nat := 0x0C4
abbrev TILE_OC_HIT : Nat := 0x0C8
abbrev TILE_OC_MISS : Nat := 0x0D0
abbrev TILE_OC_CNT_CLR : Nat := 0x0D8
abbrev TILE_SYNC_SEL : Nat := 0x0E0
abbrev TILE_SYNC_FLAGS : Nat := 0x0E4
abbrev TILE_SYNC_DATA_LO : Nat := 0x0E8
abbrev TILE_SYNC_DATA_HI : Nat := 0x0EC
abbrev TILE_LINK_REPLAY (n : Nat) : Nat := 0x100 + 8 * n
abbrev TILE_LINK_CNT_CLR : Nat := 0x120
abbrev TILE_SRAM_CE : Nat := 0x140
abbrev TILE_SRAM_UE : Nat := 0x148
abbrev TILE_SRAM_ERR_ADDR : Nat := 0x150
abbrev TILE_SRAM_RETIRED : Nat := 0x158
abbrev TILE_SRAM_CNT_CLR : Nat := 0x15C
abbrev DARR_GATE : Nat := 0x040
abbrev DARR_CNT_CLR : Nat := 0x044
abbrev DARR_ROWS : Nat := 0x048
abbrev DARR_LOADS : Nat := 0x050
abbrev DARR_REUSED : Nat := 0x058
abbrev DARR_GATED : Nat := 0x060
abbrev DARR_PARITY_ERR : Nat := 0x068
abbrev DRN_SR_SEED_LO : Nat := 0x040
abbrev DRN_SR_SEED_HI : Nat := 0x044
abbrev DRN_CNT_CLR : Nat := 0x048
abbrev DRN_ECC_CORR : Nat := 0x050
abbrev DRN_NAN_LOST : Nat := 0x058
abbrev DRN_ROWS_OUT : Nat := 0x060
abbrev DRN_OVF (n : Nat) : Nat := 0x080 + 16 * n
abbrev DRN_VANISH (n : Nat) : Nat := 0x088 + 16 * n
abbrev DRL_SPLIT : Nat := 0x040
abbrev DRL_COMPACT : Nat := 0x044
abbrev DRL_PRED : Nat := 0x048
abbrev DRL_SCRATCH : Nat := 0x04C
abbrev DRL_CNT_CLR : Nat := 0x050
abbrev DRL_BUSY : Nat := 0x058
abbrev DRL_LANE_BUSY : Nat := 0x060
abbrev DRL_ITEMS : Nat := 0x068
abbrev DRL_COALESCED : Nat := 0x070
abbrev DRL_OOR : Nat := 0x078
abbrev DRL_SPLITS : Nat := 0x080
abbrev DRL_FALLBACK : Nat := 0x088
abbrev DRL_YIELDS : Nat := 0x090
abbrev DRL_PRED_SKIPPED : Nat := 0x098
abbrev DRL_PRED_SAMPLED : Nat := 0x0A0
abbrev DRL_PRED_MISS : Nat := 0x0A8
abbrev DRL_PRED_MAKEUP : Nat := 0x0B0
abbrev FET_CFG : Nat := 0x040
abbrev FET_RUNAHEAD : Nat := 0x044
abbrev FET_CNT_CLR : Nat := 0x048
abbrev FET_PF_DROPPED : Nat := 0x050
abbrev FET_PAGE_IN : Nat := 0x058
abbrev FET_REFETCH : Nat := 0x060
abbrev FET_LATE : Nat := 0x068
abbrev FET_TRACK_FULL : Nat := 0x070
abbrev FET_BYTES_IN : Nat := 0x078

end Reg

/-- The common header of every page (R469). -/
def headerRegs : List RegDef := [
  ⟨"ID", 0x000, 1, 4, false, .ro, 0x0, 0x0, false⟩,
  ⟨"CAP", 0x004, 1, 4, false, .ro, 0x0, 0x0, false⟩,
  ⟨"CTL", 0x008, 1, 4, false, .ro, 0x0, 0x0, false⟩,
  ⟨"STAT", 0x00C, 1, 4, false, .ro, 0x0, 0x0, false⟩,
  ⟨"INT_STAT", 0x010, 1, 4, false, .w1c, 0xFFFFFFFF, 0x0, false⟩,
  ⟨"INT_EN", 0x014, 1, 4, false, .rw, 0xFFFFFFFF, 0x0, true⟩,
  ⟨"INT_FORCE", 0x018, 1, 4, false, .wo, 0xFFFFFFFF, 0x0, false⟩,
  ⟨"LOCK", 0x01C, 1, 4, false, .rws, 0x80000003, 0x0, true⟩,
  ⟨"CHANGE_SEQ", 0x020, 1, 4, false, .ro, 0x0, 0x0, false⟩,
  ⟨"CONSIST", 0x024, 1, 4, false, .ro, 0x0, 0x0, false⟩]

/-- Block-specific registers of the MOD page. -/
def modRegs : List RegDef := [
  ⟨"MOD_GRADE", 0x040, 1, 4, false, .ro, 0x0, 0x0, false⟩,
  ⟨"MOD_CORE_MAP", 0x044, 4, 4, false, .ro, 0x0, 0x0, false⟩,
  ⟨"MOD_RESET", 0x060, 1, 4, false, .wo, 0xFFFFFFFF, 0x0, true⟩,
  ⟨"MOD_IRQ_SEL", 0x064, 1, 4, false, .rw, 0x3FFF, 0x0, false⟩,
  ⟨"MOD_IRQ_VEC", 0x068, 1, 4, false, .rw, 0x1FF, 0x0, false⟩,
  ⟨"MOD_HOST_STAT", 0x06C, 1, 4, false, .ro, 0x0, 0x0, false⟩,
  ⟨"MOD_AUX_CFG", 0x070, 1, 4, false, .rws, 0x3, 0x0, true⟩,
  ⟨"MOD_SIDEBAND", 0x074, 1, 4, false, .ro, 0x0, 0x2, false⟩,
  ⟨"MOD_COOLANT", 0x078, 1, 4, false, .ro, 0x0, 0x0, false⟩,
  ⟨"MOD_COOLANT_CFG", 0x07C, 1, 4, false, .rw, 0xFFFF, 0xB428, true⟩,
  ⟨"MOD_WIN_BASE_LO", 0x080, 4, 8, false, .rw, 0xFFE00000, 0x0, false⟩,
  ⟨"MOD_WIN0_BASE_HI", 0x084, 1, 4, false, .rw, 0x1FFF, 0x0, false⟩,
  ⟨"MOD_WIN1_BASE_HI", 0x08C, 1, 4, false, .rw, 0x1FFF, 0x2, false⟩,
  ⟨"MOD_WIN2_BASE_HI", 0x094, 1, 4, false, .rw, 0x1FFF, 0x4, false⟩,
  ⟨"MOD_WIN3_BASE_HI", 0x09C, 1, 4, false, .rw, 0x1FFF, 0x6, false⟩,
  ⟨"MOD_EVT_BASE_LO", 0x100, 1, 4, false, .rw, 0xFFFFFFFF, 0x0, true⟩,
  ⟨"MOD_EVT_BASE_HI", 0x104, 1, 4, false, .rw, 0xFFFFFFFF, 0x0, true⟩,
  ⟨"MOD_EVT_CFG", 0x108, 1, 4, false, .rw, 0x801FFF0F, 0xE0008, true⟩,
  ⟨"MOD_EVT_TAIL", 0x10C, 1, 4, false, .ro, 0x0, 0x0, false⟩,
  ⟨"MOD_EVT_HEAD", 0x110, 1, 4, false, .rw, 0xFFFFFFFF, 0x0, false⟩,
  ⟨"MOD_EVT_LAST", 0x114, 1, 4, false, .ro, 0x0, 0x0, false⟩,
  ⟨"MOD_EVT_CNT_SEL", 0x118, 1, 4, false, .rw, 0xFFFF, 0x0, false⟩,
  ⟨"MOD_EVT_CNT_CLR", 0x11C, 1, 4, false, .wo, 0xFFFFFFFF, 0x0, false⟩,
  ⟨"MOD_EVT_CNT", 0x120, 1, 8, true, .ro, 0x0, 0x0, false⟩,
  ⟨"MOD_EVT_LOST", 0x128, 1, 8, true, .ro, 0x0, 0x0, false⟩]

/-- Block-specific registers of the SCH page. -/
def schRegs : List RegDef := [
  ⟨"SCH_TRING_BASE_LO", 0x040, 1, 4, false, .rw, 0xFFFFFFFF, 0x0, true⟩,
  ⟨"SCH_TRING_BASE_HI", 0x044, 1, 4, false, .rw, 0xFFFFFFFF, 0x0, true⟩,
  ⟨"SCH_RING_CFG", 0x048, 1, 4, false, .rw, 0x1070F0F, 0x404, true⟩,
  ⟨"SCH_TRING_TAIL", 0x04C, 1, 4, false, .rw, 0xFFFFFFFF, 0x0, false⟩,
  ⟨"SCH_TRING_HEAD", 0x050, 1, 4, false, .ro, 0x0, 0x0, false⟩,
  ⟨"SCH_CRING_BASE_LO", 0x054, 1, 4, false, .rw, 0xFFFFFFFF, 0x0, true⟩,
  ⟨"SCH_CRING_BASE_HI", 0x058, 1, 4, false, .rw, 0xFFFFFFFF, 0x0, true⟩,
  ⟨"SCH_CRING_TAIL", 0x05C, 1, 4, false, .ro, 0x0, 0x0, false⟩,
  ⟨"SCH_CRING_HEAD", 0x060, 1, 4, false, .rw, 0xFFFFFFFF, 0x0, false⟩,
  ⟨"SCH_ADMITTED", 0x064, 1, 4, false, .ro, 0x0, 0x0, false⟩,
  ⟨"SCH_IDLE_CLR", 0x068, 1, 4, false, .wo, 0xFFFFFFFF, 0x0, false⟩,
  ⟨"SCH_CNT_UNIT", 0x06C, 1, 4, false, .ro, 0x0, 0x0, false⟩,
  ⟨"SCH_BUSY", 0x080, 1, 8, true, .ro, 0x0, 0x0, false⟩,
  ⟨"SCH_IDLE", 0x088, 10, 8, true, .ro, 0x0, 0x0, false⟩]

/-- Block-specific registers of the SEM page. -/
def semRegs : List RegDef := [
  ⟨"SEM_SIG", 0x044, 1, 4, false, .wo, 0xFFFFFFFF, 0x0, false⟩,
  ⟨"SEM_READ_SEL", 0x048, 1, 4, false, .rw, 0xFFFF, 0x0, false⟩,
  ⟨"SEM_READ_VAL", 0x04C, 1, 4, false, .ro, 0x0, 0x0, false⟩]

/-- SEM registers of the module page only (R59, R60). -/
def semModuleRegs : List RegDef := [
  ⟨"SEM_MODE", 0x040, 1, 4, false, .rw, 0x1, 0x1, true⟩,
  ⟨"SEM_XLAT_INV", 0x050, 1, 4, false, .wo, 0xFFFFFFFF, 0x0, false⟩,
  ⟨"SEM_XLAT_BASE", 0x080, 8, 8, true, .rw, 0xFFFFFFFF, 0x0, true⟩,
  ⟨"SEM_COMPACT", 0x0C0, 8, 4, false, .rw, 0x8000000F, 0x0, true⟩]

/-- SEM registers of core pages only (R61). -/
def semCoreRegs : List RegDef := [
  ⟨"SEM_PHYS", 0x100, 64, 4, false, .rw, 0xFFFFFFFF, 0x0, false⟩]

/-- Block-specific registers of the SHM page. -/
def shmRegs : List RegDef := [
  ⟨"SHM_SEL", 0x040, 1, 4, false, .rw, 0x1FFFF, 0x0, false⟩,
  ⟨"SHM_CMD", 0x044, 1, 4, false, .wo, 0xFFFFFFFF, 0x0, true⟩,
  ⟨"SHM_STAT", 0x048, 1, 4, false, .ro, 0x0, 0x0, false⟩,
  ⟨"SHM_EPOCH", 0x04C, 1, 4, false, .rw, 0xFFFFFFFF, 0x0, true⟩,
  ⟨"SHM_DATA", 0x050, 4, 4, false, .rw, 0xFFFFFFFF, 0x0, false⟩,
  ⟨"SHM_LOAD_SRC_LO", 0x060, 1, 4, false, .rw, 0xFFFFFFFF, 0x0, false⟩,
  ⟨"SHM_LOAD_SRC_HI", 0x064, 1, 4, false, .rw, 0xFFFFFFFF, 0x0, false⟩,
  ⟨"SHM_LOAD_CTL", 0x068, 1, 4, false, .rw, 0x3FFFF, 0x0, true⟩,
  ⟨"SHM_LOAD_DONE", 0x06C, 1, 4, false, .ro, 0x0, 0x0, false⟩,
  ⟨"SHM_REC_CTL", 0x070, 1, 4, false, .rw, 0x117, 0x100, true⟩,
  ⟨"SHM_REC_STAT", 0x074, 1, 4, false, .w1c, 0x80000000, 0x0, false⟩,
  ⟨"SHM_REC_SEL", 0x078, 1, 4, false, .rw, 0x1FFFF, 0x0, false⟩,
  ⟨"SHM_REC_DATA", 0x07C, 1, 4, false, .ro, 0x0, 0x0, false⟩,
  ⟨"SHM_NEWER", 0x080, 1, 8, true, .ro, 0x0, 0x0, false⟩,
  ⟨"SHM_VERSION_FAULTS", 0x088, 1, 8, true, .ro, 0x0, 0x0, false⟩,
  ⟨"SHM_REC_CNT_CLR", 0x090, 1, 4, false, .wo, 0xFFFFFFFF, 0x0, false⟩]

/-- Block-specific registers of the EXD page. -/
def exdRegs : List RegDef := [
  ⟨"EXD_SEL", 0x040, 1, 4, false, .rw, 0x3FFF, 0x0, false⟩,
  ⟨"EXD_CMD", 0x044, 1, 4, false, .wo, 0xFFFFFFFF, 0x0, true⟩,
  ⟨"EXD_STAT", 0x048, 1, 4, false, .ro, 0x0, 0x0, false⟩,
  ⟨"EXD_EPOCH", 0x04C, 1, 4, false, .rw, 0xFFFFFFFF, 0x0, true⟩,
  ⟨"EXD_DATA", 0x050, 16, 4, false, .rw, 0xFFFFFFFF, 0x0, false⟩,
  ⟨"EXD_BULK_SRC_LO", 0x090, 1, 4, false, .rw, 0xFFFFFFFF, 0x0, false⟩,
  ⟨"EXD_BULK_SRC_HI", 0x094, 1, 4, false, .rw, 0xFFFFFFFF, 0x0, false⟩,
  ⟨"EXD_BULK_CTL", 0x098, 1, 4, false, .rw, 0x7FFF, 0x0, true⟩,
  ⟨"EXD_BULK_DONE", 0x09C, 1, 4, false, .ro, 0x0, 0x0, false⟩,
  ⟨"EXD_TALLY_DST_LO", 0x0A0, 1, 4, false, .rw, 0xFFFFFFFF, 0x0, false⟩,
  ⟨"EXD_TALLY_DST_HI", 0x0A4, 1, 4, false, .rw, 0xFFFFFFFF, 0x0, false⟩,
  ⟨"EXD_TALLY_CTL", 0x0A8, 1, 4, false, .rw, 0x40007FFF, 0x0, true⟩,
  ⟨"EXD_CNT_CLR", 0x0AC, 1, 4, false, .wo, 0xFFFFFFFF, 0x0, false⟩,
  ⟨"EXD_PLACED", 0x0B0, 1, 8, true, .ro, 0x0, 0x0, false⟩,
  ⟨"EXD_DROPPED", 0x0B8, 1, 8, true, .ro, 0x0, 0x0, false⟩,
  ⟨"EXD_SPILLED", 0x0C0, 1, 8, true, .ro, 0x0, 0x0, false⟩,
  ⟨"EXD_PAD_ROWS", 0x0C8, 1, 8, true, .ro, 0x0, 0x0, false⟩,
  ⟨"EXD_NAN_TOKENS", 0x0D0, 1, 8, true, .ro, 0x0, 0x0, false⟩]

/-- Block-specific registers of the AZN MOD page. -/
def aznModRegs : List RegDef := [
  ⟨"AZN_PROG_SEL", 0x040, 1, 4, false, .rw, 0xF, 0x0, false⟩,
  ⟨"AZN_PROG_CMD", 0x044, 1, 4, false, .wo, 0xFFFFFFFF, 0x0, true⟩,
  ⟨"AZN_PROG_STAT", 0x048, 1, 4, false, .ro, 0x0, 0x0, false⟩,
  ⟨"AZN_PROG_LEN", 0x04C, 1, 4, false, .rw, 0x1F, 0x0, true⟩,
  ⟨"AZN_PROG_DATA", 0x050, 16, 4, false, .rw, 0xFFFFFFFF, 0x0, false⟩,
  ⟨"AZN_SCALAR", 0x100, 64, 4, false, .rw, 0xFFFFFFFF, 0x0, true⟩]

/-- Block-specific registers of the HBC MOD page. -/
def hbcModRegs : List RegDef := [
  ⟨"HBC_ALLOC_REQ", 0x040, 1, 4, false, .rw, 0xFF000F, 0x0, false⟩,
  ⟨"HBC_ALLOC_SIZE", 0x044, 1, 4, false, .rw, 0x7FFFFF, 0x1, false⟩,
  ⟨"HBC_ALLOC_MASK", 0x048, 1, 4, false, .rw, 0xFFFFF, 0xFFFFF, false⟩,
  ⟨"HBC_ALLOC_CMD", 0x04C, 1, 4, false, .wo, 0xFFFFFFFF, 0x0, false⟩,
  ⟨"HBC_ALLOC_STAT", 0x050, 1, 4, false, .ro, 0x0, 0x0, false⟩,
  ⟨"HBC_ALLOC_ADDR_LO", 0x054, 1, 4, false, .rw, 0xFFFFFFFF, 0x0, false⟩,
  ⟨"HBC_ALLOC_ADDR_HI", 0x058, 1, 4, false, .rw, 0xFFFFFFFF, 0x0, false⟩,
  ⟨"HBC_ALLOC_GEN", 0x05C, 1, 4, false, .ro, 0x0, 0x0, false⟩,
  ⟨"HBC_FREE_FRAMES", 0x060, 1, 4, false, .ro, 0x0, 0x0, false⟩,
  ⟨"HBC_FREE_FAR", 0x064, 1, 4, false, .ro, 0x0, 0x0, false⟩,
  ⟨"HBC_PTE_SEL", 0x068, 1, 4, false, .rw, 0x3FFFFF, 0x0, false⟩,
  ⟨"HBC_PTE_LO", 0x06C, 1, 4, false, .ro, 0x0, 0x0, false⟩,
  ⟨"HBC_PTE_HI", 0x070, 1, 4, false, .ro, 0x0, 0x0, false⟩,
  ⟨"HBC_RETIRED", 0x074, 1, 4, false, .ro, 0x0, 0x0, false⟩,
  ⟨"HBC_RETIRE_SEL", 0x078, 1, 4, false, .rw, 0xFFF, 0x0, false⟩,
  ⟨"HBC_RETIRE_ENTRY", 0x07C, 1, 4, false, .ro, 0x0, 0x0, false⟩]

/-- Block-specific registers of the CXL page. -/
def cxlRegs : List RegDef := [
  ⟨"CXL_LINK", 0x040, 1, 4, false, .ro, 0x0, 0x0, false⟩,
  ⟨"CXL_DEVICES", 0x044, 1, 4, false, .ro, 0x0, 0x0, false⟩,
  ⟨"CXL_CAPACITY", 0x048, 1, 4, false, .ro, 0x0, 0x0, false⟩,
  ⟨"CXL_PAGING_FRAMES", 0x04C, 1, 4, false, .rw, 0x3FFFFF, 0x0, true⟩,
  ⟨"CXL_CNT_CLR", 0x050, 1, 4, false, .wo, 0xFFFFFFFF, 0x0, false⟩,
  ⟨"CXL_PAGE_INS", 0x058, 1, 8, true, .ro, 0x0, 0x0, false⟩,
  ⟨"CXL_PAGE_OUTS", 0x060, 1, 8, true, .ro, 0x0, 0x0, false⟩,
  ⟨"CXL_EVICTIONS", 0x068, 1, 8, true, .ro, 0x0, 0x0, false⟩,
  ⟨"CXL_PAGE_FAIL", 0x070, 1, 8, true, .ro, 0x0, 0x0, false⟩,
  ⟨"CXL_BYTES", 0x078, 1, 8, true, .ro, 0x0, 0x0, false⟩,
  ⟨"CXL_POISON", 0x080, 1, 8, true, .ro, 0x0, 0x0, false⟩]

/-- Block-specific registers of the LLY MOD page. -/
def llyModRegs : List RegDef := [
  ⟨"LLY_MODULE_ID", 0x040, 1, 4, false, .rws, 0x80000FFF, 0x0, true⟩,
  ⟨"LLY_CFG", 0x044, 1, 4, false, .rw, 0x80FFFFFF, 0xA0002, true⟩,
  ⟨"LLY_QUORUM", 0x048, 1, 4, false, .rw, 0x1FFF, 0x0, true⟩,
  ⟨"LLY_TIEBREAK", 0x04C, 1, 4, false, .rw, 0xFFF, 0x0, true⟩,
  ⟨"LLY_EPOCH", 0x050, 1, 4, false, .rw, 0xFFFFFFFF, 0x0, true⟩,
  ⟨"LLY_MEMBER_STAT", 0x054, 1, 4, false, .ro, 0x0, 0x0, false⟩,
  ⟨"LLY_RSP_TIMEOUT", 0x058, 1, 4, false, .rw, 0xFFFFF, 0x3E8, true⟩,
  ⟨"LLY_RT_SEL", 0x05C, 1, 4, false, .rw, 0xFFF, 0x0, false⟩,
  ⟨"LLY_RT_DATA", 0x060, 1, 4, false, .rw, 0xFFFF, 0x0, true⟩,
  ⟨"LLY_RT_LOAD_SRC_LO", 0x064, 1, 4, false, .rw, 0xFFFFFFFF, 0x0, false⟩,
  ⟨"LLY_RT_LOAD_SRC_HI", 0x068, 1, 4, false, .rw, 0xFFFFFFFF, 0x0, false⟩,
  ⟨"LLY_RT_LOAD_CTL", 0x06C, 1, 4, false, .rw, 0x1FFF, 0x0, true⟩,
  ⟨"LLY_RT_STAT", 0x070, 1, 4, false, .ro, 0x0, 0x0, false⟩,
  ⟨"LLY_LS_SEQ", 0x078, 1, 8, true, .ro, 0x0, 0x0, false⟩,
  ⟨"LLY_CNT_CLR", 0x080, 1, 4, false, .wo, 0xFFFFFFFF, 0x0, false⟩,
  ⟨"LLY_NO_ROUTE", 0x088, 1, 8, true, .ro, 0x0, 0x0, false⟩,
  ⟨"LLY_TTL_DROP", 0x090, 1, 8, true, .ro, 0x0, 0x0, false⟩,
  ⟨"LLY_FENCED_DROPS", 0x098, 1, 8, true, .ro, 0x0, 0x0, false⟩,
  ⟨"LLY_BAD_PKT", 0x0A0, 1, 8, true, .ro, 0x0, 0x0, false⟩,
  ⟨"LLY_MEMBER", 0x200, 128, 4, false, .rw, 0xFFFFFFFF, 0x0, true⟩,
  ⟨"LLY_REACH", 0x400, 128, 4, false, .ro, 0x0, 0x0, false⟩]

/-- Block-specific registers of the PEL page. -/
def pelRegs : List RegDef := [
  ⟨"PEL_DOM_CFG", 0x040, 8, 4, false, .rw, 0xE7FF1FFF, 0x0, true⟩,
  ⟨"PEL_GROUP", 0x060, 1, 4, false, .rw, 0x80000007, 0x0, true⟩,
  ⟨"PEL_TIMEOUT", 0x064, 1, 4, false, .rw, 0xFFFFFF, 0x0, true⟩,
  ⟨"PEL_DIGEST_LO", 0x068, 1, 4, false, .ro, 0x0, 0x0, false⟩,
  ⟨"PEL_DIGEST_HI", 0x06C, 1, 4, false, .ro, 0x0, 0x0, false⟩,
  ⟨"PEL_DIGEST_STAT", 0x070, 1, 4, false, .ro, 0x0, 0x0, false⟩,
  ⟨"PEL_CNT_CLR", 0x078, 1, 4, false, .wo, 0xFFFFFFFF, 0x0, false⟩,
  ⟨"PEL_SEQ", 0x080, 8, 8, true, .ro, 0x0, 0x0, false⟩,
  ⟨"PEL_RELEASES", 0x0C0, 1, 8, true, .ro, 0x0, 0x0, false⟩,
  ⟨"PEL_ABORTS", 0x0C8, 1, 8, true, .ro, 0x0, 0x0, false⟩,
  ⟨"PEL_DROPS", 0x0D0, 1, 8, true, .ro, 0x0, 0x0, false⟩,
  ⟨"PEL_SEQ_ERR", 0x0D8, 1, 8, true, .ro, 0x0, 0x0, false⟩,
  ⟨"PEL_MISMATCHES", 0x0E0, 1, 8, true, .ro, 0x0, 0x0, false⟩,
  ⟨"PEL_DRAFT_CFG", 0x100, 1, 4, false, .rw, 0x80FF00FF, 0x800000, true⟩,
  ⟨"PEL_DRAFT_LAG", 0x104, 1, 4, false, .rw, 0xFFFFFFFF, 0xC350, true⟩,
  ⟨"PEL_DRAFT_STAT", 0x108, 1, 4, false, .ro, 0x0, 0x0, false⟩,
  ⟨"PEL_DRAFTS", 0x110, 1, 8, true, .ro, 0x0, 0x0, false⟩,
  ⟨"PEL_GMEMBER", 0x200, 128, 4, false, .rw, 0xFFFFFFFF, 0x0, true⟩]

/-- Block-specific registers of the COL page. -/
def colRegs : List RegDef := [
  ⟨"COL_TEAM_SEL", 0x040, 1, 4, false, .rw, 0xF, 0x0, false⟩,
  ⟨"COL_TEAM_CMD", 0x044, 1, 4, false, .wo, 0xFFFFFFFF, 0x0, true⟩,
  ⟨"COL_TEAM_SRC_LO", 0x048, 1, 4, false, .rw, 0xFFFFFFFF, 0x0, false⟩,
  ⟨"COL_TEAM_SRC_HI", 0x04C, 1, 4, false, .rw, 0xFFFFFFFF, 0x0, false⟩,
  ⟨"COL_TEAM_STAT", 0x050, 1, 4, false, .ro, 0x0, 0x0, false⟩,
  ⟨"COL_TEAM_RESULT", 0x054, 1, 4, false, .ro, 0x0, 0x0, false⟩,
  ⟨"COL_CNT_CLR", 0x060, 1, 4, false, .wo, 0xFFFFFFFF, 0x0, false⟩,
  ⟨"COL_TASKS", 0x068, 1, 8, true, .ro, 0x0, 0x0, false⟩,
  ⟨"COL_BYTES_TX", 0x070, 1, 8, true, .ro, 0x0, 0x0, false⟩,
  ⟨"COL_BYTES_RX", 0x078, 1, 8, true, .ro, 0x0, 0x0, false⟩,
  ⟨"COL_MISMATCHES", 0x080, 1, 8, true, .ro, 0x0, 0x0, false⟩]

/-- Block-specific registers of the PWR page. -/
def pwrRegs : List RegDef := [
  ⟨"PWR_LIMIT", 0x040, 1, 4, false, .rws, 0x7FF, 0x5DC, true⟩,
  ⟨"PWR_WINDOW", 0x044, 1, 4, false, .rws, 0x1FFF, 0x7D0, true⟩,
  ⟨"PWR_CAD_CFG", 0x048, 1, 4, false, .rw, 0x87FFFFFF, 0x80143214, true⟩,
  ⟨"PWR_FLOOR", 0x04C, 1, 4, false, .rw, 0x80FF017F, 0x8001F14B, true⟩,
  ⟨"PWR_FAST", 0x050, 1, 4, false, .rw, 0x1F1F, 0x100E, true⟩,
  ⟨"PWR_BRAKE_STAT", 0x054, 1, 4, false, .ro, 0x0, 0x0, false⟩,
  ⟨"PWR_BRAKE_STACKS", 0x058, 1, 4, false, .ro, 0x0, 0x0, false⟩,
  ⟨"PWR_INPUT", 0x05C, 1, 4, false, .ro, 0x0, 0x0, false⟩,
  ⟨"PWR_AVG_WINDOW", 0x060, 1, 4, false, .ro, 0x0, 0x0, false⟩,
  ⟨"PWR_AVG_FAST", 0x064, 1, 4, false, .ro, 0x0, 0x0, false⟩,
  ⟨"PWR_CNT_CLR", 0x068, 1, 4, false, .wo, 0xFFFFFFFF, 0x0, false⟩,
  ⟨"PWR_ENERGY", 0x070, 1, 8, true, .ro, 0x0, 0x0, false⟩,
  ⟨"PWR_BRAKE_TIME", 0x078, 1, 8, true, .ro, 0x0, 0x0, false⟩,
  ⟨"PWR_FAST_TRIPS", 0x080, 1, 8, true, .ro, 0x0, 0x0, false⟩,
  ⟨"PWR_THERM_CFG", 0x088, 1, 4, false, .rw, 0xFF, 0x5F, true⟩,
  ⟨"PWR_TEMP_SEL", 0x08C, 1, 4, false, .rw, 0x3F, 0x0, false⟩,
  ⟨"PWR_TEMP", 0x090, 1, 4, false, .ro, 0x0, 0x0, true⟩,
  ⟨"PWR_CLASS_DRAW", 0x100, 64, 4, false, .ro, 0x0, 0x0, false⟩,
  ⟨"PWR_TILE", 0x200, 16, 4, false, .ro, 0x0, 0x0, false⟩]

/-- Block-specific registers of the CLK page. -/
def clkRegs : List RegDef := [
  ⟨"CLK_LOCK0", 0x040, 1, 4, false, .ro, 0x0, 0x0, false⟩,
  ⟨"CLK_LOCK1", 0x044, 1, 4, false, .ro, 0x0, 0x0, false⟩,
  ⟨"CLK_MCLK_COUNT", 0x048, 1, 8, true, .ro, 0x0, 0x0, false⟩,
  ⟨"CLK_TILE", 0x050, 16, 4, false, .rw, 0x1F0000, 0x1C1C1C1C, true⟩]

/-- Block-specific registers of the AGE page. -/
def ageRegs : List RegDef := [
  ⟨"AGE_CFG", 0x040, 1, 4, false, .rw, 0x80FF00FF, 0x8019000A, true⟩,
  ⟨"AGE_SEL", 0x044, 1, 4, false, .rw, 0x3F, 0x0, false⟩,
  ⟨"AGE_SLACK", 0x048, 1, 4, false, .ro, 0x0, 0x0, false⟩,
  ⟨"AGE_VSEL", 0x04C, 1, 4, false, .rw, 0x1F, 0x1C, true⟩,
  ⟨"AGE_VOLT", 0x050, 1, 4, false, .ro, 0x0, 0x0, false⟩,
  ⟨"AGE_CNT_CLR", 0x054, 1, 4, false, .wo, 0xFFFFFFFF, 0x0, false⟩,
  ⟨"AGE_BUMPS", 0x058, 1, 8, true, .ro, 0x0, 0x0, false⟩,
  ⟨"AGE_REPLANS", 0x060, 1, 8, true, .ro, 0x0, 0x0, false⟩,
  ⟨"AGE_LAST_REPLAN", 0x068, 1, 8, true, .ro, 0x0, 0x0, false⟩]

/-- Block-specific registers of the SEC page. -/
def secRegs : List RegDef := [
  ⟨"SEC_BOOT_STAT", 0x040, 1, 4, false, .ro, 0x0, 0x0, false⟩,
  ⟨"SEC_SVN", 0x044, 1, 4, false, .ro, 0x0, 0x0, false⟩,
  ⟨"SEC_BANKS", 0x048, 1, 4, false, .ro, 0x0, 0x0, false⟩,
  ⟨"SEC_BOOT_COUNT", 0x04C, 1, 4, false, .ro, 0x0, 0x0, false⟩,
  ⟨"SEC_KEY_ID", 0x050, 8, 4, false, .ro, 0x0, 0x0, false⟩]

/-- Block-specific registers of the MBX page. -/
def mbxRegs : List RegDef := [
  ⟨"MBX_CMD", 0x040, 1, 4, false, .wo, 0xFFFFFFFF, 0x0, false⟩,
  ⟨"MBX_STAT", 0x044, 1, 4, false, .w1c, 0x60000000, 0x0, false⟩,
  ⟨"MBX_BUF_LO", 0x048, 1, 4, false, .rw, 0xFFFFFFFF, 0x0, false⟩,
  ⟨"MBX_BUF_HI", 0x04C, 1, 4, false, .rw, 0xFFFFFFFF, 0x0, false⟩,
  ⟨"MBX_BUF_LEN", 0x050, 1, 4, false, .rw, 0xFFFFFFFF, 0x0, false⟩,
  ⟨"MBX_PROGRESS", 0x054, 1, 4, false, .ro, 0x0, 0x0, false⟩,
  ⟨"MBX_REFUSALS", 0x058, 1, 8, true, .ro, 0x0, 0x0, false⟩,
  ⟨"MBX_ARG", 0x060, 8, 4, false, .rw, 0xFFFFFFFF, 0x0, false⟩,
  ⟨"MBX_RSP", 0x080, 8, 4, false, .ro, 0x0, 0x0, false⟩,
  ⟨"MBX_CNT_CLR", 0x0A0, 1, 4, false, .wo, 0xFFFFFFFF, 0x0, false⟩]

/-- Block-specific registers of the LOG page. -/
def logRegs : List RegDef := [
  ⟨"LOG_CTL", 0x040, 1, 4, false, .rw, 0x1, 0x0, true⟩,
  ⟨"LOG_STAT", 0x044, 1, 4, false, .ro, 0x0, 0x0, false⟩,
  ⟨"LOG_HEAD", 0x048, 1, 8, true, .ro, 0x0, 0x0, false⟩,
  ⟨"LOG_TAIL", 0x050, 1, 8, true, .ro, 0x0, 0x0, false⟩,
  ⟨"LOG_RD_SEQ", 0x058, 1, 8, true, .rw, 0xFFFFFFFF, 0x0, false⟩,
  ⟨"LOG_ACK", 0x060, 1, 8, true, .rw, 0xFFFFFFFF, 0x0, false⟩,
  ⟨"LOG_DROPPED", 0x068, 1, 8, true, .ro, 0x0, 0x0, false⟩,
  ⟨"LOG_CNT_CLR", 0x070, 1, 4, false, .wo, 0xFFFFFFFF, 0x0, false⟩,
  ⟨"LOG_DATA", 0x080, 16, 4, false, .ro, 0x0, 0x0, false⟩,
  ⟨"LOG_CHAIN", 0x0C0, 8, 4, false, .ro, 0x0, 0x0, false⟩]

/-- Block-specific registers of the LLY SPOKE page. -/
def llySpokeRegs : List RegDef := [
  ⟨"LLY_SPOKE_CFG", 0x040, 1, 4, false, .rw, 0x80000031, 0x30, true⟩,
  ⟨"LLY_RTT", 0x044, 1, 4, false, .ro, 0x0, 0x0, false⟩,
  ⟨"LLY_SPOKE_CNT_CLR", 0x048, 1, 4, false, .wo, 0xFFFFFFFF, 0x0, false⟩,
  ⟨"LLY_FLITS_TX", 0x050, 1, 8, true, .ro, 0x0, 0x0, false⟩,
  ⟨"LLY_FLITS_RX", 0x058, 1, 8, true, .ro, 0x0, 0x0, false⟩,
  ⟨"LLY_FEC_CORR", 0x060, 1, 8, true, .ro, 0x0, 0x0, false⟩,
  ⟨"LLY_CRC_ERR", 0x068, 1, 8, true, .ro, 0x0, 0x0, false⟩,
  ⟨"LLY_REPLAYS", 0x070, 1, 8, true, .ro, 0x0, 0x0, false⟩,
  ⟨"LLY_DUP", 0x078, 1, 8, true, .ro, 0x0, 0x0, false⟩,
  ⟨"LLY_DOWNS", 0x080, 1, 8, true, .ro, 0x0, 0x0, false⟩,
  ⟨"LLY_LOST", 0x088, 1, 8, true, .ro, 0x0, 0x0, false⟩]

/-- Block-specific registers of the HBC page. -/
def hbcRegs : List RegDef := [
  ⟨"HBC_CFG", 0x040, 1, 4, false, .rw, 0xFF0F01, 0x180401, true⟩,
  ⟨"HBC_LANES", 0x044, 1, 4, false, .ro, 0x0, 0x0, false⟩,
  ⟨"HBC_SPARES", 0x048, 1, 4, false, .ro, 0x0, 0x0, false⟩,
  ⟨"HBC_FRAMES", 0x04C, 1, 4, false, .ro, 0x0, 0x0, false⟩,
  ⟨"HBC_OUTSTANDING", 0x050, 1, 4, false, .ro, 0x0, 0x0, false⟩,
  ⟨"HBC_CNT_CLR", 0x054, 1, 4, false, .wo, 0xFFFFFFFF, 0x0, false⟩,
  ⟨"HBC_CE", 0x058, 1, 8, true, .ro, 0x0, 0x0, false⟩,
  ⟨"HBC_UE", 0x060, 1, 8, true, .ro, 0x0, 0x0, false⟩,
  ⟨"HBC_SLOTS", 0x068, 1, 8, true, .ro, 0x0, 0x0, false⟩,
  ⟨"HBC_MERGED", 0x070, 1, 8, true, .ro, 0x0, 0x0, false⟩,
  ⟨"HBC_ROW_REPAIRS", 0x078, 1, 8, true, .ro, 0x0, 0x0, false⟩,
  ⟨"HBC_ERR_ADDR", 0x080, 1, 8, true, .ro, 0x0, 0x0, false⟩,
  ⟨"HBC_LINK_REPLAY", 0x090, 4, 8, true, .ro, 0x0, 0x0, false⟩,
  ⟨"HBC_LINK_CNT_CLR", 0x0B0, 1, 4, false, .wo, 0xFFFFFFFF, 0x0, false⟩]

/-- Block-specific registers of the AZN page. -/
def aznRegs : List RegDef := [
  ⟨"AZN_CFG", 0x040, 1, 4, false, .rw, 0x1F, 0x8, true⟩,
  ⟨"AZN_SR_SEED_LO", 0x044, 1, 4, false, .rw, 0xFFFFFFFF, 0x1, true⟩,
  ⟨"AZN_SR_SEED_HI", 0x048, 1, 4, false, .rw, 0xFFFFFFFF, 0x0, true⟩,
  ⟨"AZN_CNT_CLR", 0x04C, 1, 4, false, .wo, 0xFFFFFFFF, 0x0, false⟩,
  ⟨"AZN_BUSY", 0x050, 1, 8, true, .ro, 0x0, 0x0, false⟩,
  ⟨"AZN_ELEMENTS", 0x058, 1, 8, true, .ro, 0x0, 0x0, false⟩,
  ⟨"AZN_HBM_BYTES", 0x060, 1, 8, true, .ro, 0x0, 0x0, false⟩,
  ⟨"AZN_PUSH_BYTES", 0x068, 1, 8, true, .ro, 0x0, 0x0, false⟩,
  ⟨"AZN_NAN_LOST", 0x070, 1, 8, true, .ro, 0x0, 0x0, false⟩,
  ⟨"AZN_NONFINITE", 0x078, 1, 8, true, .ro, 0x0, 0x0, false⟩,
  ⟨"AZN_OVF", 0x080, 7, 16, true, .ro, 0x0, 0x0, false⟩,
  ⟨"AZN_VANISH", 0x088, 7, 16, true, .ro, 0x0, 0x0, false⟩]

/-- Block-specific registers of the TILE page. -/
def tileRegs : List RegDef := [
  ⟨"TILE_GANG_DEF", 0x040, 8, 4, false, .rw, 0x8000FFFF, 0x0, true⟩,
  ⟨"TILE_VAL_SRC_LO", 0x060, 1, 4, false, .rw, 0xFFFFFFFF, 0x0, false⟩,
  ⟨"TILE_VAL_SRC_HI", 0x064, 1, 4, false, .rw, 0xFFFFFFFF, 0x0, false⟩,
  ⟨"TILE_VAL_DST_LO", 0x068, 1, 4, false, .rw, 0xFFFFFFFF, 0x0, false⟩,
  ⟨"TILE_VAL_DST_HI", 0x06C, 1, 4, false, .rw, 0xFFFFFFFF, 0x0, false⟩,
  ⟨"TILE_VAL_CTL", 0x070, 1, 4, false, .rw, 0x10FFFFF, 0x0, false⟩,
  ⟨"TILE_VAL_STAT", 0x074, 1, 4, false, .ro, 0x0, 0x0, false⟩,
  ⟨"TILE_VAL_FAIL_IDX", 0x078, 1, 4, false, .ro, 0x0, 0x0, false⟩,
  ⟨"TILE_VAL_BIND", 0x080, 4, 8, true, .rw, 0xFFFFFFFF, 0x0, false⟩,
  ⟨"TILE_ALLOC_REQ", 0x0A0, 1, 4, false, .rw, 0xF0003, 0x0, false⟩,
  ⟨"TILE_ALLOC_SIZE", 0x0A4, 1, 4, false, .rw, 0x1FFFF, 0x1, false⟩,
  ⟨"TILE_ALLOC_CMD", 0x0A8, 1, 4, false, .wo, 0xFFFFFFFF, 0x0, false⟩,
  ⟨"TILE_ALLOC_STAT", 0x0AC, 1, 4, false, .ro, 0x0, 0x0, false⟩,
  ⟨"TILE_ALLOC_ADDR_LO", 0x0B0, 1, 4, false, .rw, 0xFFFFFFFF, 0x0, false⟩,
  ⟨"TILE_ALLOC_ADDR_HI", 0x0B4, 1, 4, false, .rw, 0xFFFFFFFF, 0x0, false⟩,
  ⟨"TILE_ALLOC_GEN", 0x0B8, 1, 4, false, .ro, 0x0, 0x0, false⟩,
  ⟨"TILE_ALLOC_FREE", 0x0BC, 1, 4, false, .ro, 0x0, 0x0, false⟩,
  ⟨"TILE_OC_CTL", 0x0C0, 1, 4, false, .rw, 0x3, 0x3, false⟩,
  ⟨"TILE_OC_INV", 0x0C4, 1, 4, false, .wo, 0xFFFFFFFF, 0x0, false⟩,
  ⟨"TILE_OC_HIT", 0x0C8, 1, 8, true, .ro, 0x0, 0x0, false⟩,
  ⟨"TILE_OC_MISS", 0x0D0, 1, 8, true, .ro, 0x0, 0x0, false⟩,
  ⟨"TILE_OC_CNT_CLR", 0x0D8, 1, 4, false, .wo, 0xFFFFFFFF, 0x0, false⟩,
  ⟨"TILE_SYNC_SEL", 0x0E0, 1, 4, false, .rw, 0x3FF, 0x0, false⟩,
  ⟨"TILE_SYNC_FLAGS", 0x0E4, 1, 4, false, .ro, 0x0, 0x0, false⟩,
  ⟨"TILE_SYNC_DATA_LO", 0x0E8, 1, 4, false, .ro, 0x0, 0x0, false⟩,
  ⟨"TILE_SYNC_DATA_HI", 0x0EC, 1, 4, false, .ro, 0x0, 0x0, false⟩,
  ⟨"TILE_LINK_REPLAY", 0x100, 4, 8, true, .ro, 0x0, 0x0, false⟩,
  ⟨"TILE_LINK_CNT_CLR", 0x120, 1, 4, false, .wo, 0xFFFFFFFF, 0x0, false⟩,
  ⟨"TILE_SRAM_CE", 0x140, 1, 8, true, .ro, 0x0, 0x0, false⟩,
  ⟨"TILE_SRAM_UE", 0x148, 1, 8, true, .ro, 0x0, 0x0, false⟩,
  ⟨"TILE_SRAM_ERR_ADDR", 0x150, 1, 8, true, .ro, 0x0, 0x0, false⟩,
  ⟨"TILE_SRAM_RETIRED", 0x158, 1, 4, false, .ro, 0x0, 0x0, false⟩,
  ⟨"TILE_SRAM_CNT_CLR", 0x15C, 1, 4, false, .wo, 0xFFFFFFFF, 0x0, false⟩]

/-- Block-specific registers of the DARR page. -/
def darrRegs : List RegDef := [
  ⟨"DARR_GATE", 0x040, 1, 4, false, .rw, 0x1, 0x0, true⟩,
  ⟨"DARR_CNT_CLR", 0x044, 1, 4, false, .wo, 0xFFFFFFFF, 0x0, false⟩,
  ⟨"DARR_ROWS", 0x048, 1, 8, true, .ro, 0x0, 0x0, false⟩,
  ⟨"DARR_LOADS", 0x050, 1, 8, true, .ro, 0x0, 0x0, false⟩,
  ⟨"DARR_REUSED", 0x058, 1, 8, true, .ro, 0x0, 0x0, false⟩,
  ⟨"DARR_GATED", 0x060, 1, 8, true, .ro, 0x0, 0x0, false⟩,
  ⟨"DARR_PARITY_ERR", 0x068, 1, 8, true, .ro, 0x0, 0x0, false⟩]

/-- Block-specific registers of the DRN page. -/
def drnRegs : List RegDef := [
  ⟨"DRN_SR_SEED_LO", 0x040, 1, 4, false, .rw, 0xFFFFFFFF, 0x1, true⟩,
  ⟨"DRN_SR_SEED_HI", 0x044, 1, 4, false, .rw, 0xFFFFFFFF, 0x0, true⟩,
  ⟨"DRN_CNT_CLR", 0x048, 1, 4, false, .wo, 0xFFFFFFFF, 0x0, false⟩,
  ⟨"DRN_ECC_CORR", 0x050, 1, 8, true, .ro, 0x0, 0x0, false⟩,
  ⟨"DRN_NAN_LOST", 0x058, 1, 8, true, .ro, 0x0, 0x0, false⟩,
  ⟨"DRN_ROWS_OUT", 0x060, 1, 8, true, .ro, 0x0, 0x0, false⟩,
  ⟨"DRN_OVF", 0x080, 10, 16, true, .ro, 0x0, 0x0, false⟩,
  ⟨"DRN_VANISH", 0x088, 10, 16, true, .ro, 0x0, 0x0, false⟩]

/-- Block-specific registers of the DRL page. -/
def drlRegs : List RegDef := [
  ⟨"DRL_SPLIT", 0x040, 1, 4, false, .rw, 0xFFFF, 0x400, true⟩,
  ⟨"DRL_COMPACT", 0x044, 1, 4, false, .rw, 0x7FF, 0x20, true⟩,
  ⟨"DRL_PRED", 0x048, 1, 4, false, .rw, 0x3, 0x0, true⟩,
  ⟨"DRL_SCRATCH", 0x04C, 1, 4, false, .ro, 0x0, 0x0, false⟩,
  ⟨"DRL_CNT_CLR", 0x050, 1, 4, false, .wo, 0xFFFFFFFF, 0x0, false⟩,
  ⟨"DRL_BUSY", 0x058, 1, 8, true, .ro, 0x0, 0x0, false⟩,
  ⟨"DRL_LANE_BUSY", 0x060, 1, 8, true, .ro, 0x0, 0x0, false⟩,
  ⟨"DRL_ITEMS", 0x068, 1, 8, true, .ro, 0x0, 0x0, false⟩,
  ⟨"DRL_COALESCED", 0x070, 1, 8, true, .ro, 0x0, 0x0, false⟩,
  ⟨"DRL_OOR", 0x078, 1, 8, true, .ro, 0x0, 0x0, false⟩,
  ⟨"DRL_SPLITS", 0x080, 1, 8, true, .ro, 0x0, 0x0, false⟩,
  ⟨"DRL_FALLBACK", 0x088, 1, 8, true, .ro, 0x0, 0x0, false⟩,
  ⟨"DRL_YIELDS", 0x090, 1, 8, true, .ro, 0x0, 0x0, false⟩,
  ⟨"DRL_PRED_SKIPPED", 0x098, 1, 8, true, .ro, 0x0, 0x0, false⟩,
  ⟨"DRL_PRED_SAMPLED", 0x0A0, 1, 8, true, .ro, 0x0, 0x0, false⟩,
  ⟨"DRL_PRED_MISS", 0x0A8, 1, 8, true, .ro, 0x0, 0x0, false⟩,
  ⟨"DRL_PRED_MAKEUP", 0x0B0, 1, 8, true, .ro, 0x0, 0x0, false⟩]

/-- Block-specific registers of the FET page. -/
def fetRegs : List RegDef := [
  ⟨"FET_CFG", 0x040, 1, 4, false, .rw, 0x1, 0x1, true⟩,
  ⟨"FET_RUNAHEAD", 0x044, 1, 4, false, .rw, 0x1FF, 0x40, true⟩,
  ⟨"FET_CNT_CLR", 0x048, 1, 4, false, .wo, 0xFFFFFFFF, 0x0, false⟩,
  ⟨"FET_PF_DROPPED", 0x050, 1, 8, true, .ro, 0x0, 0x0, false⟩,
  ⟨"FET_PAGE_IN", 0x058, 1, 8, true, .ro, 0x0, 0x0, false⟩,
  ⟨"FET_REFETCH", 0x060, 1, 8, true, .ro, 0x0, 0x0, false⟩,
  ⟨"FET_LATE", 0x068, 1, 8, true, .ro, 0x0, 0x0, false⟩,
  ⟨"FET_TRACK_FULL", 0x070, 1, 8, true, .ro, 0x0, 0x0, false⟩,
  ⟨"FET_BYTES_IN", 0x078, 1, 8, true, .ro, 0x0, 0x0, false⟩]

/-- Index of a page (R471, R472). -/
def unitPage (base : Nat) : UnitId → Nat
  | .core c => 256 + 256 * (c.val / 8) + 32 + base + 16 * (c.val % 8)
  | .gang t g => 256 + 256 * t.val + 8 * base + g.val
  | .die t => 256 + 256 * t.val + base
  | .wholeModule => base
  | .group => base + 2

/-- Position of page `j` of a core within its tile's block (R472). -/
def corePage (j : Nat) (c : Fin 128) : Nat := 256 + 256 * (c.val / 8) + 32 + j + 16 * (c.val % 8)

/-- The page index p (R471, R472); p × 4,096 is the page's aperture offset. -/
def pageIndex : Page → Nat
  | .mod => 0
  | .sch u => unitPage 1 u
  | .sem u => unitPage 2 u
  | .shm => 5 | .exd => 6 | .aznMod => 7 | .hbcMod => 8 | .cxl => 9 | .llyMod => 10
  | .pel => 11 | .col => 12 | .pwr => 13 | .clk => 14 | .age => 15 | .sec => 16
  | .mbx i => 17 + i.val
  | .log => 19
  | .spoke k => 24 + k.val
  | .hbc s => 32 + s.val
  | .azn s => 64 + s.val
  | .tile t => 256 + 256 * t.val
  | .core c => corePage 0 c
  | .darr c => corePage 3 c
  | .drn c => corePage 4 c
  | .drl c => corePage 5 c
  | .fet c => corePage 6 c

/-- Aperture offset of a register of a page. -/
def addrOf (p : Page) (off : Nat) : Nat := 4096 * pageIndex p + off

/-- The page at position `j` of the block of TILE[t] (R472). -/
def tilePage? (t : Fin 16) (j : Nat) : Option Page :=
  if j = 0 then some (.tile t)
  else if j = 1 then some (.sch (.die t))
  else if j = 2 then some (.sem (.die t))
  else if h : 8 ≤ j ∧ j < 16 then some (.sch (.gang t ⟨j - 8, by omega⟩))
  else if h : 16 ≤ j ∧ j < 24 then some (.sem (.gang t ⟨j - 16, by omega⟩))
  else if h : 32 ≤ j ∧ j < 160 then
    let c := flatCore t ⟨(j - 32) / 16, by omega⟩
    match (j - 32) % 16 with
    | 0 => some (.core c)
    | 1 => some (.sch (.core c))
    | 2 => some (.sem (.core c))
    | 3 => some (.darr c)
    | 4 => some (.drn c)
    | 5 => some (.drl c)
    | 6 => some (.fet c)
    | _ => none
  else none

/-- The page with index `p`; a position the tables do not list holds no page (R471). The MSI-X pages 254 and 255 have
no common header and are kept apart. -/
def pageAt? (p : Nat) : Option Page :=
  match p with
  | 0 => some .mod | 1 => some (.sch .wholeModule) | 2 => some (.sem .wholeModule)
  | 3 => some (.sch .group) | 4 => some (.sem .group)
  | 5 => some .shm | 6 => some .exd | 7 => some .aznMod | 8 => some .hbcMod | 9 => some .cxl | 10 => some .llyMod
  | 11 => some .pel | 12 => some .col | 13 => some .pwr | 14 => some .clk | 15 => some .age | 16 => some .sec
  | 17 => some (.mbx 0) | 18 => some (.mbx 1) | 19 => some .log
  | p =>
    if h : 24 ≤ p ∧ p < 32 then some (.spoke ⟨p - 24, by omega⟩)
    else if h : 32 ≤ p ∧ p < 52 then some (.hbc ⟨p - 32, by omega⟩)
    else if h : 64 ≤ p ∧ p < 84 then some (.azn ⟨p - 64, by omega⟩)
    else if h : 256 ≤ p ∧ p < 4352 then tilePage? ⟨(p - 256) / 256, by omega⟩ ((p - 256) % 256)
    else none

/-- Block-specific registers of a page. -/
def blockRegs : Page → List RegDef
  | .mod => modRegs
  | .sch _ => schRegs
  | .sem (.core _) => semRegs ++ semCoreRegs
  | .sem .wholeModule => semModuleRegs ++ semRegs
  | .sem _ => semRegs
  | .shm => shmRegs | .exd => exdRegs | .aznMod => aznModRegs | .hbcMod => hbcModRegs | .cxl => cxlRegs
  | .llyMod => llyModRegs | .pel => pelRegs | .col => colRegs | .pwr => pwrRegs | .clk => clkRegs | .age => ageRegs
  | .sec => secRegs | .mbx _ => mbxRegs | .log => logRegs
  | .spoke _ => llySpokeRegs | .hbc _ => hbcRegs | .azn _ => aznRegs | .tile _ => tileRegs
  | .core _ => [] | .darr _ => darrRegs | .drn _ => drnRegs | .drl _ => drlRegs | .fet _ => fetRegs

/-- Does a register of this row lie at page offset `o`? -/
def RegDef.covers (r : RegDef) (o : Nat) : Bool :=
  decide (r.off ≤ o) && decide ((o - r.off) / r.stride < r.count) &&
    (if r.wide then (o - r.off) % r.stride == 0 || (o - r.off) % r.stride == 4 else (o - r.off) % r.stride == 0)

/-- The register at a page offset, if any. -/
def regAt? (p : Page) (o : Nat) : Option RegDef := (headerRegs ++ blockRegs p).find? (fun r => r.covers o)

/-- The INT_STAT bits of a page that R470's table names. -/
def intBits : Page → Nat
  | .sch _ => 0x1
  | .tile _ => 0x3
  | .darr _ => 0x1
  | .drn _ => 0xF
  | .azn _ => 0xF
  | .mbx _ => 0x3
  | _ => 0

/-- Block type and number of a page's ID word (R469). -/
def idWord (p : Page) : Nat :=
  let ti : Nat × Nat := match p with
    | .mod => (0x01, 0) | .tile t => (0x02, t.val) | .core c => (0x03, c.val) | .darr c => (0x04, c.val)
    | .drn c => (0x05, c.val) | .drl c => (0x06, c.val) | .fet c => (0x07, c.val)
    | .sch u => (0x08, unitNumber u) | .sem u => (0x09, unitNumber u)
    | .shm => (0x0A, 0) | .exd => (0x0B, 0) | .hbc s => (0x0C, s.val) | .hbcMod => (0x0C, 0xFFFF)
    | .azn s => (0x0D, s.val) | .aznMod => (0x0D, 0xFFFF) | .cxl => (0x0E, 0)
    | .spoke k => (0x0F, k.val) | .llyMod => (0x0F, 0xFFFF)
    | .pel => (0x10, 0) | .col => (0x11, 0) | .pwr => (0x12, 0) | .clk => (0x13, 0) | .age => (0x14, 0)
    | .sec => (0x15, 0) | .mbx i => (0x16, i.val) | .log => (0x17, 0)
  ti.1 * 2 ^ 24 + ti.2 * 2 ^ 8 + 1
where
  /-- INSTANCE of SCH and SEM pages: LEVEL in its bits 15:12 and the number within the level below. -/
  unitNumber (u : UnitId) : Nat :=
    u.level * 2 ^ 12 + match u with
      | .core c => c.val | .gang t g => 8 * t.val + g.val | .die t => t.val | .wholeModule => 0 | .group => 0

/-- The CONSIST word of a page (R476). -/
def consistWord : Page → Nat
  | .shm => 0x00001008 | .exd => 0x00000008 | .llyMod => 0x1000001C | .pel => 0x10000200 | .pwr => 0x00000002 | _ => 0

/-- The aperture offsets of the words that enter the configuration digest, rising (R356, R476). -/
def digestOffsets : List Nat :=
  [addrOf .shm Reg.SHM_EPOCH, addrOf .shm Reg.SHM_REC_CTL, addrOf .exd Reg.EXD_EPOCH,
   addrOf .llyMod Reg.LLY_QUORUM, addrOf .llyMod Reg.LLY_TIEBREAK, addrOf .llyMod Reg.LLY_EPOCH] ++
  (List.range 128).map (fun w => addrOf .llyMod (Reg.LLY_MEMBER w)) ++
  [addrOf .pel Reg.PEL_TIMEOUT, addrOf .pel Reg.PEL_DRAFT_CFG, addrOf .pel Reg.PEL_DRAFT_LAG, addrOf .pwr Reg.PWR_WINDOW]

/-- log₂ of the core-cycles that one count of SCH_BUSY and SCH_IDLEn stands for: SCH_CNT_UNIT (R70). -/
def cntUnit : UnitId → Nat
  | .wholeModule => 8 | .group => 16 | _ => 0

/-- Reset value of the register word at an aperture offset. The `fuses`, `at boot` and `at training` words hold 0 until
boot sets them; ID, SCH_CNT_UNIT and CONSIST are fixed (R469). DESIGN CHOICE (notes/assumptions/4.md). -/
def regReset (k : Nat) : Word :=
  match pageAt? (k / 4096) with
  | none => 0
  | some p =>
    let o := k % 4096
    if o = Reg.ID then BitVec.ofNat 32 (idWord p)
    else if o = Reg.CONSIST then BitVec.ofNat 32 (consistWord p)
    else match p, regAt? p o with
      | .sch u, some r => BitVec.ofNat 32 (if r.off = Reg.SCH_CNT_UNIT then cntUnit u else r.reset)
      | _, some r => BitVec.ofNat 32 (if r.wide && (o - r.off) % r.stride == 4 then 0 else r.reset)
      | _, none => 0

/-- How a written word is stored where the manual stores another value than the one written: bounds and replaced zeros of
the register's own table. Applied to the writable bits only. -/
def storedAs (p : Page) (o : Nat) (w : Word) : Word :=
  match p with
  | .mod => if o = Reg.MOD_EVT_CFG ∧ wfield w 3 0 < 4 then wset w 3 0 4 else w
  | .sch _ => if o = Reg.SCH_RING_CFG then wset (wset w 11 8 (max 4 (wfield w 11 8))) 3 0 (max 4 (wfield w 3 0)) else w
  | .drl _ => if o = Reg.DRL_SPLIT then BitVec.ofNat 32 (max 64 w.toNat) else w
  | .fet _ => if o = Reg.FET_RUNAHEAD then BitVec.ofNat 32 (clampNat 1 256 w.toNat) else w
  | .azn _ => if o = Reg.AZN_CFG then BitVec.ofNat 32 (clampNat 1 16 w.toNat) else w
  | .hbc _ =>
    if o = Reg.HBC_CFG then
      let w := if wfield w 23 16 = 0 then wset w 23 16 1 else w
      if wfield w 11 8 = 0 then wset w 11 8 1 else w
    else w
  | .llyMod =>
    if o = Reg.LLY_CFG then
      let w := if wfield w 23 16 = 0 then wset w 23 16 1 else w
      wset w 15 0 (clampNat 1 1000 (wfield w 15 0))
    else if o = Reg.LLY_RSP_TIMEOUT ∧ w = 0 then 1
    else w
  | .pwr =>
    if o = Reg.PWR_LIMIT then BitVec.ofNat 32 (clampNat 300 1500 w.toNat)
    else if o = Reg.PWR_WINDOW then BitVec.ofNat 32 (clampNat 500 8000 w.toNat)
    else if o = Reg.PWR_CAD_CFG then
      let w := if wfield w 23 16 = 0 then wset w 23 16 1 else w
      if wfield w 7 0 = 0 then wset w 7 0 1 else w
    else if o = Reg.PWR_FLOOR then
      let w := if wfield w 23 16 = 0 then wset w 23 16 1 else w
      if 100 < wfield w 6 0 then wset w 6 0 100 else w
    else if o = Reg.PWR_FAST then wset (wset w 12 8 (max 8 (wfield w 12 8))) 4 0 (max 8 (wfield w 4 0))
    else if o = Reg.PWR_THERM_CFG then BitVec.ofNat 32 (clampNat 80 100 w.toNat)
    else w
  | .clk =>
    if 0x050 ≤ o ∧ o < 0x090 then wset w 20 16 (clampNat 8 28 (wfield w 20 16)) else w
  | _ => w

end Sys2Proof.Machine
end

