-- ==== Sys2Proof/Machine/State.lean ====
section
/-! DEFINITION. The state of the module as plain data: every register, ring, table, queue, mode and pin the manual
names, and the queue of commands that wait. Each structure below is one part of it; `State` at the end holds them all. -/

namespace Sys2Proof.Machine

/-! ## Tasks and units (R35 to R58) -/

/-- A task record's fields (R42). `rsv` holds the reserved bits of its bytes in the order of the table: bytes 0x06 to
0x07 and 0x7D to 0x7F. -/
structure TaskRec where
  kind : Half
  flags : Byte
  energy : Byte
  split : Half
  rsv6 : Half
  taskId : Word
  budget : Word
  list : DWord
  listCount : Word
  capacity : Word
  descA : DWord
  descB : DWord
  descC : DWord
  descD : DWord
  params : List Byte
  wait0Sem : Half
  wait1Sem : Half
  wait0Target : Word
  wait1Target : Word
  signal0Sem : Half
  signal1Sem : Half
  signal0Inc : Half
  signal1Inc : Half
  confirmSem : Half
  discardSem : Half
  decideTarget : Word
  shadowMib : Byte
  rsv7d : BitVec 24
  deriving DecidableEq, Repr

/-- A semaphore reference after translation (R59, R60): module, core and physical number. `here` is true for a
semaphore of this module. -/
structure SemRef where
  here : Bool
  modId : Nat
  core : Nat
  phys : Nat
  deriving DecidableEq, Repr

/-- Where a task stands: admitted and waiting, started on its resource, finished and not yet completed. -/
inductive Phase where
  | admitted | running | finished
  deriving DecidableEq, Repr

/-- Outcomes of a completion record (R54's table). -/
inductive OutCode where
  | done | faulted | overBudget | committed | discarded
  deriving DecidableEq, Repr

/-- The decision on a speculative task (R57). -/
inductive Decision where
  | open_ | confirm | discard
  deriving DecidableEq, Repr

/-- What a share reported when it ended (R49). -/
structure ShareRes where
  child : Nat
  outcome : OutCode
  status : Nat
  cycles : Nat
  deriving DecidableEq, Repr

/-- The parent of a share: the unit and the serial number of the task there, and the child's place in child order. -/
structure ParentRef where
  unit : UnitId
  serial : Nat
  child : Nat
  deriving DecidableEq, Repr

/-- An admitted task, or a share of one, on a unit's scoreboard (R49 to R58). `path` is the path it came by (R41): 0 the
unit's own ring, 1 + g gang g, 9 the die, 10 the module, 11 a group of this module's own, 12 a group whose root is another module
(the parent then names that module). `serial` is the model's own name for the task. `heldAt` is 0, or 1 + the MCLK count at which cadence
began to hold the task; `arriveTime` the MCLK count at dispatch, for a BARRIER that of its arrival; `group` the members of the group
a COLLECTIVE of path 12 runs over. `slewHeld` is true while cadence holds the task for slew (R395); `runahead` and `overlap` are what the
fetch engine's registers held at dispatch (R256). `kept` holds, by module address, bytes of records that a validator has
written over since the task was dispatched (R100); `listsOut` the lists the task has written, each with the descriptors it is to be bound
to when the task completes (R97). `dropped` and `refetch` are the entries, as link × 2³² + index, whose prefetch was dropped (R235) and
whose block is to be fetched a second time (R241). -/
structure TaskSt where
  serial : Nat
  path : Nat
  ctx : Nat
  task : TaskRec
  parent : Option ParentRef
  root : Option Nat
  wait0 : Option SemRef
  wait1 : Option SemRef
  sig0 : Option SemRef
  sig1 : Option SemRef
  confirm : Option SemRef
  discard : Option SemRef
  phase : Phase
  links : List TaskRec
  link : Nat
  cursor : Nat
  items : Nat
  cycles : Nat
  busy : Nat
  faultCode : Option Nat
  statusCode : Nat
  exceeded : Bool
  decision : Decision
  decided : Bool
  shadow : Option (Nat × Nat)
  shadowAsked : Bool
  colFirst : Nat
  colCount : Option Nat
  tally : List (Nat × Nat × Nat)
  dispCnt : List Nat
  acks : List Nat
  shareCount : Nat
  shares : List ShareRes
  sigDone : Bool
  heldAt : Nat
  slewHeld : Bool
  arriveTime : Nat
  group : List Nat
  runahead : Nat
  overlap : Bool
  kept : Sparse Byte
  listsOut : List (Nat × List Nat)
  dropped : List Nat
  refetch : List Nat
  deriving DecidableEq, Repr

/-- A unit's scheduler: the scoreboard in admission order, the shares its parents offer it, the path served last (R41),
whether CRING_FULL has been posted for the present stall (R39), and the remainders of the module and group counter
blocks (R73), one for SCH_BUSY and one for each idle cause. -/
structure UnitSt where
  board : List TaskSt
  inbox : List TaskSt
  lastPath : Nat
  stalled : Bool
  rems : List Nat
  deriving DecidableEq, Repr

/-- A unit with nothing admitted. -/
def UnitSt.idle : UnitSt := { board := [], inbox := [], lastPath := 0, stalled := false, rems := [] }

/-- A sync line (R65). -/
structure SyncLine where
  data : DWord
  full : Bool
  overrun : Bool
  deriving DecidableEq, Repr

/-- An empty sync line: all three parts are 0 after reset (R65). -/
def SyncLine.empty : SyncLine := { data := 0, full := false, overrun := false }

/-- A blocking operation that waits at the die hub (R67): the core, its task, the operation and the line. -/
structure SyncWait where
  core : Nat
  serial : Nat
  op : Nat
  line : Nat
  deriving DecidableEq, Repr

/-- A translation entry cached by a die hub (R59): context, identifier, entry. -/
structure XlatEntry where
  ctx : Nat
  id : Nat
  word : Word
  deriving DecidableEq, Repr

/-! ## SRAM (R223 to R231, R242) -/

/-- Kinds of allocation (R228). -/
inductive AllocKind where
  | data | descriptor | list | shadow
  deriving DecidableEq, Repr

/-- An allocation of a tile's allocation space: first slab address, physical slabs in address order, kind, generation,
and for a LIST allocation the bound descriptors (R96). `freed` is true after FREE while earlier tasks or a validator hold
its slabs (R230). -/
structure SramAlloc where
  base : Nat
  slabs : List Nat
  kind : AllocKind
  gen : Nat
  binds : List Nat
  freed : Bool
  deriving DecidableEq, Repr

/-- A shadow request that waits (R231): the unit and serial of the asking task, the slabs wanted and the core, if it lies
on the tile, whose home slice comes first. -/
structure ShadowReq where
  unit : UnitId
  serial : Nat
  slabs : Nat
  home : Option Nat
  deriving DecidableEq, Repr

/-- A validator run under way (R94, R95): what the validator registers held at START, the records taken so far and their bytes as
they will be written, the code and the index to report once a check has failed, and when the next record is due.
DESIGN CHOICE (notes/assumptions/53.md). -/
structure ValRun where
  isList : Bool
  count : Nat
  src : Nat
  dst : Nat
  binds : List Nat
  taken : Nat
  image : List Byte
  code : Nat
  failIdx : Nat
  dueAt : Nat
  deriving DecidableEq, Repr

/-- A line of an operand cache (R242): 0 for the module's own memory and 1 + m for a shard on module m, the address ÷ 512, the 512
bytes held and the addresses of the poisoned words among them (R226). -/
structure OcLine where
  holder : Nat
  line : Nat
  data : List Byte
  poisoned : List Nat
  deriving DecidableEq, Repr

/-- One tile: its allocator, sync lines, operand cache and error records. `gens` holds the generation of each slab
address (R99); `bad` the physical slabs holding a word found uncorrectable (R227); `retired` those taken out of service and
`recorded` those of them that the non-volatile store lists; `oc` the operand cache's lines, most recently used first; `turn` the
port, as 4 × core + port, whose BULK request the die hub served last (R238). -/
structure TileSt where
  allocs : List SramAlloc
  gens : Sparse Nat
  shadowQ : List ShadowReq
  bad : List Nat
  retired : List Nat
  recorded : List Nat
  lines : Sparse SyncLine
  syncWaits : List SyncWait
  xlat : List XlatEntry
  oc : List OcLine
  val : Option ValRun
  turn : Nat
  deriving DecidableEq, Repr

/-- A tile after reset. -/
def TileSt.empty : TileSt :=
  { allocs := [], gens := [], shadowQ := [], bad := [], retired := [], recorded := [], lines := [], syncWaits := [],
    xlat := [], oc := [], val := none, turn := 0 }

/-! ## HBM and the far tier (R277 to R306) -/

/-- A page-table entry (R281). -/
structure Pte where
  valid : Bool
  resident : Bool
  pinned : Bool
  moving : Bool
  dirty : Bool
  accessed : Bool
  stack : Nat
  frame : Nat
  farFrame : Nat
  evictable : Bool
  farCurrent : Bool
  deriving DecidableEq, Repr

/-- An entry that belongs to no allocation. -/
def Pte.none : Pte :=
  { valid := false, resident := false, pinned := false, moving := false, dirty := false, accessed := false, stack := 0,
    frame := 0, farFrame := 0, evictable := false, farCurrent := false }

/-- An HBM allocation (R284). -/
structure HbmAlloc where
  base : Nat
  pages : Nat
  kind : AllocKind
  gen : Nat
  binds : List Nat
  freed : Bool
  deriving DecidableEq, Repr

/-- Why a page moves, in the order the engine starts waiting moves (R301). -/
inductive MoveWhy where
  | demand | page | prefetch
  deriving DecidableEq, Repr

/-- A page move that waits or runs (R301, R302): in or out; `owners` are the tasks that asked for it, by serial number; `victimFor`
names the page whose page-in asked for this eviction. -/
structure Move where
  page : Nat
  inward : Bool
  why : MoveWhy
  started : Bool
  frame : Nat
  owners : List Nat
  victimFor : Option Nat
  deriving DecidableEq, Repr

/-- A migration of a page away from a frame being retired (R296). -/
structure Migration where
  page : Nat
  stack : Nat
  fromFrame : Nat
  toFrame : Nat
  deriving DecidableEq, Repr

/-- A retirement-table entry (R297). -/
structure RetireEntry where
  stack : Nat
  frame : Nat
  pendingOut : Bool
  persisted : Bool
  deriving DecidableEq, Repr

/-- Whose slot request it is (R287): a fetched block, by its number, on a port of a core; a task's write, by its serial number; an
entry of an Aznor unit; the reader of page-table entries; anything else of the module. -/
inductive SlotOwner where
  | block (id : Nat)
  | writer (serial : Nat)
  | azn
  | table
  | other
  deriving DecidableEq, Repr

/-- A slot request at a stack's controller (R286 to R289): its owner, whether it writes, its
module address, frame, slot, first byte and length within the slot, urgency (0 DEMAND, 1 LATE, 2 DEADLINE, 3 BULK), deadline,
origin (a tile, 16 and 17 the port dies, 18 the stack's Aznor unit, 19 the page-table reader), the requesting port as
4 × core + port or 512 for the Aznor unit, when it arrived, and the bytes of a read that a later write must not change (R289). -/
structure SlotReq where
  owner : SlotOwner
  write : Bool
  addr : Nat
  frame : Nat
  slot : Nat
  first : Nat
  len : Nat
  urgency : Nat
  deadline : Nat
  origin : Nat
  port : Nat
  arrived : Nat
  data : List Byte
  deriving DecidableEq, Repr

/-- A memory stack's controller. `gran` holds the 16-bit generations of its 64 KiB granules (R240), `reg` the cores
registered with a granule, `ceRow` the corrected errors of each row since its last repair, `marked` the rows marked for
repair, `spares` the spare rows used in each bank, `hand` the eviction hand, `queue` the outstanding slot requests, `beyond` those that wait
before the controller because a limit is reached (R287), `turn` the port whose BULK request it served last; `ran` and `ranAzn` the slots
served, and among them those of the Aznor unit's BULK requests, in the present sixteen that another origin waited for (R273). -/
structure StackSt where
  inService : Bool
  gran : Sparse Nat
  reg : Sparse (List Nat)
  ceRow : Sparse Nat
  marked : List (Nat × Nat)
  spares : Sparse Nat
  hand : Nat
  queue : List SlotReq
  beyond : List SlotReq
  outOfService : List Nat
  turn : Nat
  ran : Nat
  ranAzn : Nat
  deriving DecidableEq, Repr

/-- A stack before training. -/
def StackSt.empty : StackSt :=
  { inService := false, gran := [], reg := [], ceRow := [], marked := [], spares := [], hand := 0, queue := [],
    beyond := [], outOfService := [], turn := 0, ran := 0, ranAzn := 0 }

/-- The HBM allocator, the page table, the paging engine and the retirement table; `leaving` holds the frames, as stack and frame,
that leave service when their page has left them (R296), `unlisted` those of them whose mark found the retirement table full (R297); `xlat` the pages whose entries each die's translation cache holds,
newest first, by die as PWR_TEMP_SEL numbers them (R282). -/
structure HbmSt where
  allocs : List HbmAlloc
  ptes : Sparse Pte
  gens : Sparse Nat
  moves : List Move
  migrations : List Migration
  retire : List RetireEntry
  farDown : Bool
  leaving : List (Nat × Nat)
  unlisted : List (Nat × Nat)
  xlat : Sparse (List Nat)
  deriving DecidableEq, Repr

/-- The page table empty (R430: tables empty after COLD). -/
def HbmSt.empty : HbmSt :=
  { allocs := [], ptes := [], gens := [], moves := [], migrations := [], retire := [], farDown := false, leaving := [],
    unlisted := [], xlat := [] }

/-! ## Host port, management bus, mailbox, log, boot (R416 to R452) -/

/-- An audit-log entry (R445); `chain` holds bytes 0 to 15 of the chain value after it, as one number with byte 0
highest. -/
structure LogEntry where
  seq : Nat
  time : Nat
  barrierSeq : Nat
  origin : Nat
  kind : Nat
  offset : Nat
  old : Nat
  new : Nat
  chain : Nat
  deriving DecidableEq, Repr

/-- The audit log (R443 to R448): held entries, oldest first; entries made since cold reset; the 256-bit chain value;
entries dropped since the last one made. -/
structure LogSt where
  entries : List LogEntry
  made : Nat
  chain : BitVec 256
  dropped : Nat
  deriving DecidableEq, Repr

/-- What the host port last answered (R419, R421, R429). -/
inductive HostReply where
  | none
  | done
  | unsupported
  | retry
  | word (w : Word)
  | bytes (l : List Byte)
  deriving DecidableEq, Repr

/-- Link states of the host port. -/
inductive DState where
  | d0 | d3hot
  deriving DecidableEq, Repr

/-- Host port (R416 to R424): link, power state, the MSI-X enable bit of configuration space, the MSI-X table words by
table byte offset, pending vectors, the vector word of each page (MOD_IRQ_VEC), pages whose line is known high, the
messages sent and the last answer. -/
structure HostSt where
  linkUp : Bool
  dstate : DState
  msixEnable : Bool
  msix : Sparse Word
  msixPend : List Nat
  irqVec : Sparse Word
  high : List Nat
  sent : List Nat
  reply : HostReply
  deriving DecidableEq, Repr

/-- Management bus (R449 to R452): dynamic address, in-band interrupt enable, queued interrupts as their bytes,
overflow, the bytes the next read returns, the reset action of RSTACT, and the interrupts delivered. -/
structure I3cSt where
  dyn : Option Nat
  ibiEnable : Bool
  ibis : List (List Byte)
  overflow : Bool
  answer : List Byte
  rstAction : Nat
  raised : List (List Byte)
  deriving DecidableEq, Repr

/-- JTAG instructions as decoded (R465). -/
inductive JtagInstr where
  | bypass | idcode | samplePreload | extest | highz
  deriving DecidableEq, Repr

/-- The test access port (R465): instruction, the selected data register's value, the boundary-scan register, whether
EXTEST or HIGHZ drives the pins. -/
structure JtagSt where
  instr : JtagInstr
  dataReg : Nat
  boundary : Nat
  driving : Bool
  floating : Bool
  deriving DecidableEq, Repr

/-- A mailbox command that runs: its page and code, when it started, whether its work is under way (`ready`), RESULT and the
response words so far, and what is still to do: the voltages of a replan, the pages a migration has yet to ask for, with those it has
asked for. -/
structure MbxRun where
  page : Fin 2
  code : Nat
  startedAt : Nat
  ready : Bool
  result : Nat
  rsp : List Word
  todo : List Nat
  asked : List Nat
  deriving DecidableEq, Repr

/-- The mailbox executor (R425, R426): the command that runs, if any. -/
structure MbxSt where
  run : Option MbxRun
  deriving DecidableEq, Repr

/-- A stage image of a firmware bank as the boot ROM sees it (R434): STAGE, SVN, LENGTH, VERSION, whether length and
signature pass, and the SM3 measurement. -/
structure StageImg where
  stage : Nat
  svn : Nat
  length : Nat
  version : Nat
  sigOk : Bool
  measure : BitVec 256
  deriving DecidableEq, Repr

/-- A firmware bank (R433). -/
structure Bank where
  valid : Bool
  stages : List StageImg
  deriving DecidableEq, Repr

/-- The fuses that no command writes (R2, R7): grade and core map. -/
structure Fuses where
  grade : Word
  coreMap : List Word
  deriving DecidableEq, Repr

/-- The CMB's non-volatile store and the fuses that firmware raises (R430, R440): banks, counters, keys, retirement and repair
records, voltage tables by die and setting, top settings and the records of trips and input events. -/
structure NvSt where
  bankA : Bank
  bankB : Bank
  nextB : Bool
  bootCount : Nat
  minSvn : Nat
  raisesLeft : Nat
  pubKey : List Byte
  certs : List Byte
  retire : List RetireEntry
  slabs : List (Nat × Nat)
  repairs : List (Nat × Nat × Nat)
  volts : Sparse Nat
  tops : List Nat
  classDraw : Sparse Word
  replans : Nat
  notes : List Nat
  deriving DecidableEq, Repr

/-- Where the module stands in power and boot (R429, R438, R456, R457). -/
inductive RunState where
  | off | cmbHeld | bootRom | stages | running | recovery | railsDown | testOnly
  deriving DecidableEq, Repr

/-- Boot: run state, running bank, running SVN and version, measurements in stage order, and the reset that is due: 1 warm, its log
entry still to be made, 2 cold, 3 warm with its entry made. DESIGN CHOICE (notes/assumptions/4.md). -/
structure BootSt where
  run : RunState
  bankB : Bool
  svn : Nat
  version : Nat
  measures : List (BitVec 256)
  resetDue : Option Nat
  inputCut : Bool
  deriving DecidableEq, Repr

/-- Input voltage and sideband pins (R456 to R461); the voltage is in units of 0.1 V. -/
structure PinSt where
  volts : Nat
  powerGood : Bool
  inputLow : Bool
  coldRst : Bool
  perst : Bool
  testEn : Bool
  addrSel : Nat
  auxLow : Bool
  thermTrip : Bool
  deriving DecidableEq, Repr

/-- A transfer that waits on the package network (R32 to R34): source, destination, class (0 REQ, 1 RSP, 2 CTL), the link it waits
for, the link or die it comes from, and the replays that failed there. -/
structure Transfer where
  src : Nat
  dst : Nat
  cls : Nat
  at_ : Nat
  from_ : Nat
  fails : Nat
  deriving DecidableEq, Repr

/-- The package network: links that are down (R34), as pairs of page index and link number; the transfers that wait, in order of
arrival; for each link which of REQ and RSP it carried last, and for each class the input it served last (R32); the last transfer
delivered (source, destination, class, links crossed). DEDUCED (notes/assumptions/44.md). -/
structure NetSt where
  down : List (Nat × Nat)
  waiting : List Transfer
  turn : Sparse Nat
  served : Sparse Nat
  last : List Nat
  deriving DecidableEq, Repr

/-! ## Power, clocks, heat (R387 to R415) -/

/-- A learned step profile (R391): lengths of the steps seen, energies of the 64 slots. -/
structure Profile where
  steps : Nat
  length : Nat
  slots : List Nat
  tileSlots : Sparse Nat
  stepStart : Nat
  stepSlots : List Nat
  stepTile : Sparse Nat
  deriving DecidableEq, Repr

/-- Cadence and the brakes. Limits are ACLK settings m (R406). `cur` is the
current-brake limit while it holds, `ext` the external one, `therm` the thermal limit of each tile with `thermAt` the MCLK count of
its last step, `window` the limits of R393, `draft` the draft limit; `hotStacks` the stacks limited by heat with the share of
their slots served (2 a half, 4 a quarter). Samples are (MCLK count, mW), newest first, `energyRem` the nJ below one mJ;
temperatures and slacks are by die as PWR_TEMP_SEL numbers them. A loan is (lender, borrowing die, W). `floorSince` is when the
power first fell to the floor, `floorDone` whether the hold has run out. `filler` is by core: 2 PATTERN, 3 PATTERN_PORT (R397).
`rise` is the draw in mW of the array tasks started since the last grant interval (R395).
`eff` holds, by aperture offset, the words of the registers that take effect at a grant interval as they stood at the last one. -/
structure PwrSt where
  cur : Option Nat
  ext : Option Nat
  therm : Sparse Nat
  window : Sparse Nat
  windowStacks : List Nat
  draft : Option Nat
  hotStacks : Sparse Nat
  samples : List (Nat × Nat)
  energyRem : Nat
  temps : Sparse Nat
  hottest : Sparse Nat
  slacks : Sparse (Option Int)
  worstSlack : Sparse (Option Int)
  lent : List (Nat × Nat × Nat)
  floorSince : Option Nat
  floorDone : Bool
  filler : Sparse Nat
  rise : Nat
  profile : Profile
  tripped : Bool
  coolantWarned : Bool
  refLostAt : Option Nat
  unlocked : List (Nat × Nat)
  replanHold : Bool
  eff : Sparse Word
  thermAt : Sparse Nat
  deriving DecidableEq, Repr

/-! ## Cores: dense array, bank, drain, derailleur, fetch engine (R109 to R256) -/

/-- A loaded weight tile (R109, R117): N rows by K columns of element codes with the block-scale byte of each element, in an S
gear without EXPAND the dense position of each stored element, the dense K extent, and where it came from (R123). -/
structure WTile where
  fmt : Nat
  rows : Nat
  dense : Nat
  codes : List (List Nat)
  scales : List (List Nat)
  mx : Bool
  pos : List (List Nat)
  sparse : Bool
  desc : Nat
  gen : Nat
  block : List Nat
  deriving DecidableEq, Repr

/-- A block a fetch engine has requested or holds (R224, R232 to R241): the model's own number for it, port 0 operand, 1
derailleur, 2 copy, 3 drain; the entry as link × 2³² + index; when its data became late, if it did; the bytes taken by module
address, the poisoned words among them, for a tracked block the granule, frame × 2¹⁶ + generation recorded, and for a global
block the map entry and version attached with its holder. `rowBytes` and `sideBytes` are the bytes it takes of the port's queue for rows and
for scales and metadata (R232; none for a LOAD, which STANDBY takes), `lines` the lines of the operand cache that it fetches and `joined` the
blocks whose fetch of a line it shares (R242). -/
structure Fetched where
  id : Nat
  port : Nat
  serial : Nat
  entry : Nat
  urgency : Nat
  deadline : Nat
  issued : Nat
  arrived : Bool
  snap : List (Nat × Byte)
  poisoned : List Nat
  grans : List (Nat × Nat)
  refetched : Bool
  checked : Bool
  version : Option (Nat × Nat)
  holder : Nat
  rowBytes : Nat
  sideBytes : Nat
  lines : List Nat
  joined : List Nat
  deriving DecidableEq, Repr

/-- A slab buffer of the derailleur (R184): the first K row and column of its LOAD, its extents, its element values with their block
scales, and whether the LOAD lets its page come in, since a fallback pass reads the block again (R189). -/
structure Slab where
  rowStart : Nat
  colStart : Nat
  rows : Nat
  cols : Nat
  vals : List (List Num)
  pageIn : Bool
  deriving DecidableEq, Repr

/-- A request of the coalescer (R178): descriptor address, row, holder as in `Fetched`, first byte and length; the bytes it brought, by
address, with the scale bytes of its elements, and the poisoned words among them. -/
structure RowReq where
  desc : Nat
  row : Nat
  holder : Nat
  first : Nat
  len : Nat
  data : List (Nat × Byte)
  bad : List Nat
  deriving DecidableEq, Repr

/-- Contributions to columns of a destination row that wait in the merge tree (R180): the row, its columns, the number of the request that
brought the last of them, their values, and whether the row's page may be brought in. -/
structure RowSum where
  row : Nat
  first : Nat
  cols : Nat
  last : Nat
  vals : List (List Num)
  pageIn : Bool
  deriving DecidableEq, Repr

/-- A compacted run that waits for its fallback pass (R189): its task, the merge rows it adds into with their dense rows of
values, the slab. -/
structure Fallback where
  serial : Nat
  rows : List (Nat × List Num)
  slab : Slab
  deriving DecidableEq, Repr

/-- One core's engines. The bank is keyed by 128 × row + column (R139), the merge buffer by 512 × row + column (R170). `window` holds
the last 64 requests of the derailleur's task, newest first, with what they brought, `requests` how many it has made, and `sums` the
contributions not yet added (R178, R180). `asked` holds the ranges that entries in course have asked other modules for, each with its task,
holder, address and length. `thr`, `compactThr`, `predMode` and `predPhase` are what the registers held at dispatch (R187, R188, R193). `copyDraw` holds the generators
as a copy's last draw left them, for the rest of its run of 128 elements (R152). `snapshot` is the directory copy of a ROUTE task (R204). `gateRem` holds the gated cell-cycles below one count
of DARR_GATED. -/
structure CoreSt where
  standby : Option WTile
  active : Option WTile
  retained : Option WTile
  axis : Bool
  bank : Sparse Word
  gens : List (BitVec 128)
  copyDraw : List (BitVec 128)
  pattern : BitVec 128
  opnd : Option Nat
  firstLoad : Bool
  fetched : List Fetched
  slab : Option Slab
  slabNext : Option Slab
  merge : Sparse Word
  window : List RowReq
  requests : Nat
  sums : List RowSum
  asked : List (Nat × Nat × Nat × Nat)
  fallbacks : List Fallback
  thr : Nat
  compactThr : Nat
  predMode : Nat
  predPhase : Nat
  lastArrayRetain : Bool
  gateRem : Nat
  snapshot : List Nat
  deriving DecidableEq, Repr

/-- The generators after a load from a seed (R153). -/
def loadGens (seed : DWord) : List (BitVec 128) := (List.range 40).map (lfsrLoad seed)

/-- A core after reset, its generators loaded from the reset seed 1 (R153). DESIGN CHOICE (notes/assumptions/4.md). -/
def CoreSt.empty : CoreSt :=
  { standby := none, active := none, retained := none, axis := false, bank := [], gens := loadGens 1, copyDraw := [],
    pattern := lfsrLoad 1 0, opnd := none, firstLoad := true, fetched := [], slab := none, slabNext := none, merge := [],
    window := [], requests := 0, sums := [], asked := [], fallbacks := [], thr := 1024, compactThr := 32, predMode := 0, predPhase := 0,
    lastArrayRetain := false, gateRem := 0,
    snapshot := [] }

/-! ## Shard map and version record (R101 to R108, R375 to R379) -/

/-- A bulk load or dump under way: first entry, entry count, module address, for a dump whether it clears, who wrote the
command, and how far it has come: entries done and the code of the entry that was refused. -/
structure BulkRun where
  first : Nat
  count : Nat
  addr : Nat
  clear : Bool
  origin : Origin
  done : Nat
  code : Nat
  deriving DecidableEq, Repr

/-- The shard-map memory: entries as 128-bit numbers, byte 0 lowest (R104), and the version record: VALID × 2¹⁶ + VERSION
for each entry (R375). -/
structure ShmSt where
  map : Sparse Nat
  record : Sparse Nat
  bulk : Option BulkRun
  deriving DecidableEq, Repr

/-! ## Expert directory (R197 to R222) -/

/-- The expert-directory memory: entries as 512-bit numbers, byte 0 lowest (R198), the PLACED and REFUSED tallies of each
entry (R219), a bulk load and a tally dump under way. -/
structure ExdSt where
  dir : Sparse Nat
  placed : Sparse DWord
  refused : Sparse DWord
  bulk : Option BulkRun
  dump : Option BulkRun
  deriving DecidableEq, Repr

/-! ## Aznor units (R257 to R276) -/

/-- A share of an UPDATE task at a unit (R260 to R264): the module task's serial number, the program, the descriptor bytes of
the seven slots (empty where unused), the copied scalar set, the flags, the entries left in list order, cycles counted, the
program slot, SHARE as AZN_CFG held it at the start (R276), the budget with its report flag, and the cycle it started in. -/
structure AznShare where
  serial : Nat
  prog : List Nat
  slots : List (List Byte)
  scalars : List Word
  uflags : Nat
  entries : List (List Byte)
  cycles : Nat
  slot : Nat
  share : Nat
  budget : Nat
  report : Bool
  exceeded : Bool
  since : Nat
  deriving DecidableEq, Repr

/-- A block register: 128 FP32 values and four scale tags (R266). -/
structure BlockReg where
  vals : List Word
  tags : List (Option Nat)
  deriving DecidableEq, Repr

/-- The entry a unit works on: its bytes, the channel vectors of the block in order, the batch and the operation next due; whether a LOAD
has asked its stack's controller, and what the controller has read for it so far, by address (R273). -/
structure AznWork where
  entry : List Byte
  batch : Nat
  batches : Nat
  pc : Nat
  asked : Bool
  got : List (Nat × List Byte)
  deriving DecidableEq, Repr

/-- One Aznor unit: the share that runs, those that wait, the eight block registers, the rounding generators (R271) and the
entry in hand. -/
structure AznUnit where
  running : Option AznShare
  waiting : List AznShare
  regs : List BlockReg
  gens : List (BitVec 128)
  work : Option AznWork
  deriving DecidableEq, Repr

/-- A block register that nothing has written holds zeros and no tags. DESIGN CHOICE (notes/assumptions/4.md). -/
def BlockReg.zero : BlockReg := { vals := List.replicate 128 0, tags := List.replicate 4 none }

/-- A unit after reset (R271): nothing queued, generators loaded from the reset seed 1. -/
def AznUnit.empty : AznUnit :=
  { running := none, waiting := [], regs := List.replicate 8 BlockReg.zero, gens := (List.range 8).map (lfsrLoad 1),
    work := none }

/-- The Aznor units by stack and the sixteen program slots, the same in every unit (R266). -/
structure AznSt where
  units : Sparse AznUnit
  progs : Sparse (List Nat)
  deriving DecidableEq, Repr

/-! ## Spokes and packets (R307 to R342) -/

/-- A packet (R323). `inSpoke` is the spoke it came by, none for a packet of this module's own, and `vcIn` the virtual channel
it came on. -/
structure Packet where
  dst : Nat
  src : Nat
  cls : Nat
  vc : Nat
  ttl : Nat
  opcode : Nat
  length : Nat
  tag : Nat
  addr : Nat
  data : List Byte
  inSpoke : Option (Fin 8)
  vcIn : Nat
  arrived : Nat
  deriving DecidableEq, Repr

/-- A DATA flit the transmitter holds until it is acknowledged (R316): sequence number, SOP bits, payload, resends. -/
structure HeldFlit where
  seq : Nat
  sop : Nat
  payload : List Byte
  resends : Nat
  deriving DecidableEq, Repr

/-- A packet in the course of reception (R324): its bytes so far and the slots it still takes. -/
structure PartPkt where
  bytes : List Byte
  left : Nat
  deriving DecidableEq, Repr

/-- One spoke (R309 to R325): state code, the MCLK count at which it entered DETECT and at which it may try again, what ALIGN
and PARAM found, the identity this module sent in PARAM, and the link layer: next sequence number to send, flits held, next
number expected (E), when the last REPLAY_REQ was sent and whether one is owed, the replay
request received, when the last good flit came, credits held for the six virtual channels and credits owed to the
partner, the channel whose credits were returned last, packets waiting to leave, the slots left of the CTL and of the other
packet in transmission, flits sent since the last IDLE, the flits on the wire, oldest first, the CTL and the other packet in reception. -/
structure SpokeSt where
  state : Nat
  detectAt : Nat
  retryAt : Nat
  polarity : Nat
  reversed : Bool
  partner : Nat
  partnerSpoke : Nat
  ownId : Nat
  started : Bool
  txSeq : Nat
  held : List HeldFlit
  expect : Nat
  lastReq : Option Nat
  owesReplay : Bool
  wanted : Option Nat
  lastGood : Nat
  credit : List Nat
  owed : List Nat
  creditTurn : Nat
  outq : List Packet
  ctlTx : List (List Byte)
  reqTx : List (List Byte)
  sinceIdle : Nat
  wire : List (List Byte)
  partCtl : Option PartPkt
  part : Option PartPkt
  deriving DecidableEq, Repr

/-- A spoke after reset: DOWN. DESIGN CHOICE (notes/assumptions/4.md). -/
def SpokeSt.down : SpokeSt :=
  { state := 0, detectAt := 0, retryAt := 0, polarity := 0, reversed := false, partner := 0, partnerSpoke := 0, ownId := 0,
    started := false, txSeq := 0, held := [], expect := 0, lastReq := none, owesReplay := false,
    wanted := none, lastGood := 0, credit := List.replicate 6 256, owed := List.replicate 6 0,
    creditTurn := 5, outq := [], ctlTx := [], reqTx := [], sinceIdle := 0, wire := [], partCtl := none,
    part := none }

/-- Who waits for a response to a remote request (R326, R490): a task; a task's block that a core's fetch engine asked for, by its number;
a read of a semaphore. -/
inductive ReqOwner where
  | task (u : UnitId) (serial : Nat)
  | fetch (c : Fin 128) (serial id : Nat)
  | semPage (u : UnitId)
  deriving DecidableEq, Repr

/-- A remote request or signal without its response: tag, owner, opcode, destination, address, length, when it was sent. -/
structure RemoteReq where
  tag : Nat
  owner : ReqOwner
  opcode : Nat
  dst : Nat
  addr : Nat
  length : Nat
  sentAt : Nat
  deriving DecidableEq, Repr

/-- The Llyngus blocks (R331 to R341): spokes, route table, packets received and not yet acted on, requests in flight, the next
tag, link-state records (SEQ and the 32 bytes, by originator), whether the reachable set is due to be recomputed, the fence
(with the epoch held when it began), the settle period's end, and a route-table load under way. `remote` holds data that
READ_RSP packets brought, by request address, and `remoteBad` the words among them that came poisoned (R226). -/
structure LlySt where
  spokes : Sparse SpokeSt
  routes : Sparse Nat
  arrivals : List Packet
  inbox : List Packet
  requests : List RemoteReq
  nextTag : Nat
  records : Sparse (List Byte)
  reachDue : Bool
  fenced : Bool
  fenceEpoch : Word
  settleEnd : Option Nat
  bulk : Option BulkRun
  remote : Sparse Byte
  remoteBad : Sparse Bool
  offers : List (Nat × Nat × List Byte)
  deriving DecidableEq, Repr

/-! ## Peloton and collectives (R343 to R373), drafting (R382 to R385) -/

/-- An input a peloton node holds (R348, R349): where it came from (none: the module's own arrival), its identifier, and the
values of the packet; `at_` is the MCLK count at which it arrived and `order` breaks ties within a cycle. -/
structure PelInput where
  spoke : Option Nat
  ident : Nat
  count : Nat
  last : Nat
  brake : Nat
  pace : Nat
  braked : Nat
  digest : Nat
  diffs : List Nat
  diffCount : Nat
  at_ : Nat
  deriving DecidableEq, Repr

/-- One domain of the peloton (R343 to R355): inputs held, the serial number of the BARRIER task started, when the root's timer started,
the code of an abort that its next task takes (R354; 0 none), the counters of the module unit at the previous arrival, and each core's
cycles charged to BARRIER_WAIT for this domain's barrier since its last release (R71). -/
structure DomSt where
  inputs : List PelInput
  task : Option Nat
  timer : Option Nat
  abortCode : Nat
  idleAt : List Nat
  waits : Sparse Nat
  deriving DecidableEq, Repr

/-- A domain with nothing held. -/
def DomSt.empty : DomSt := { inputs := [], task := none, timer := none, abortCode := 0, idleAt := [], waits := [] }

/-- A draft in force (R383): leader, pace, and the MCLK count at which its timer ends. -/
structure Draft where
  leader : Nat
  pace : Nat
  until_ : Nat
  deriving DecidableEq, Repr

/-- The peloton: domains, the full digest (R356), the sequence number of the last barrier released (R54), the draft, and the counters
that each member last reported to this module as its group's root, in core-cycles (R73). -/
structure PelSt where
  doms : Sparse DomSt
  digest : BitVec 256
  lastSeq : Nat
  draft : Option Draft
  reported : Sparse (List Nat)
  deriving DecidableEq, Repr

/-- A team (R359): its members in ascending identifier. -/
structure Team where
  members : List Nat
  rank : Nat
  deriving DecidableEq, Repr

/-- A COL_HELLO that a rank holds (R361): team, sender, and sequence, OP, RED, CFLAGS, formats, element count, P. -/
structure Hello where
  team : Nat
  src : Nat
  fields : List Nat
  deriving DecidableEq, Repr

/-- A collective data message: team, source rank, header numbers (kind, channel, chunk, step or segment data) and bytes. -/
structure ColMsg where
  team : Nat
  src : Nat
  head : List Nat
  data : List Byte
  deriving DecidableEq, Repr

/-- A collective that runs (R361 to R372): team key, serial of its task, sequence, the members in rank order, this module's rank, the
elements of its range as FP32 or INT32 words, the compressed form of them, LOCAL_SQ as a binary64 word, the messages that have arrived,
the head numbers of those sent, each after its destination, and the neighbours whose hello agreed. -/
structure ColRun where
  team : Nat
  serial : Nat
  seq : Nat
  members : List Nat
  rank : Nat
  own : List Word
  form : List Byte
  localSq : DWord
  inbox : List ColMsg
  sent : List (List Nat)
  greeted : List Nat
  deriving DecidableEq, Repr

/-- The collective engine: teams, each team's collective sequence, collectives that run, hellos held, data held for collectives
not yet started. -/
structure ColSt where
  teams : Sparse (Option Team)
  seqs : Sparse Nat
  runs : List ColRun
  hellos : List Hello
  early : List ColMsg
  deriving DecidableEq, Repr

/-! ## The module -/

/-- Why a command stops the model: no command does. Every command of this block answers a next state, because the manual
names what each does or says that nothing comes of it; the one command without a stated effect is refused. -/
inductive Fault where
  /-- Raised by nobody: kept so that the type has a member. Safe. -/
  | none
  deriving DecidableEq, Repr

/-- Why a command has no meaning. -/
inductive Refusal where
  /-- Raised by an arm of `exec` whose command has not been modelled: the mnemonic. Safe. -/
  | notModelled (mnemonic : String)
  /-- Raised by JTAG_PRIVATE when TEST_EN was high at power good: R465 gives the private instructions no effect. Safe. -/
  | jtagPrivate
  deriving DecidableEq, Repr

/-- An event that the command which runs has raised and that waits for its ring slot (R484): its code, the index of its source page, its data
word and the barrier released last when it was raised (R482). -/
structure Posted where
  code : Nat
  page : Nat
  data : Nat
  barrierSeq : Nat
  deriving DecidableEq, Repr

/-- Everything in the module but its fuses and the queue of commands. `regs` holds the register words by aperture offset
(R471), against their reset values; `mem` the bytes of SRAM, HBM and the far tier by physical address and `poison` the
64-bit words known to be uncorrectable (R226, R291), by address ÷ 8; `evt` the event counters by code (R485). `latch` the high words
latched by reads of their low words (R13), by aperture offset; `winFree`
the scratch windows, by core, whose contents filler left undefined (R397); `slabFree` the slabs, by physical address ÷ 64 KiB, whose
unwritten bytes a shadow left undefined (R56). `idleRem` is by tile the part of an ACLK cycle, in eighths, not yet charged, and `owed` by core the cycles that a fallback pass or an
in-place transpose has charged ahead of the clock (R69). `lens`
overlays memory with the records a running task keeps while one of its steps is carried out (R100), and is empty otherwise. `posted` are the events of
the command that runs, in the order in which they take ring slots (R484), and is empty between commands. `free` counts
the values the manual leaves open that have been drawn, `serial` the tasks admitted: both are the model's own. -/
structure Block where
  regs : Sparse Word
  mem : Sparse Byte
  poison : Sparse Bool
  evt : Sparse DWord
  log : LogSt
  host : HostSt
  i3c : I3cSt
  jtag : JtagSt
  mbx : MbxSt
  boot : BootSt
  pins : PinSt
  net : NetSt
  pwr : PwrSt
  units : Sparse UnitSt
  tiles : Sparse TileSt
  cores : Sparse CoreSt
  hbm : HbmSt
  stks : Sparse StackSt
  shm : ShmSt
  exd : ExdSt
  azn : AznSt
  lly : LlySt
  pel : PelSt
  col : ColSt
  nv : NvSt
  latch : Sparse Word
  winFree : Sparse Nat
  slabFree : Sparse Nat
  idleRem : Sparse Nat
  owed : Sparse Nat
  lens : Sparse Byte
  posted : List Posted
  free : Nat
  serial : Nat
  deriving DecidableEq, Repr

/-- The machine: fuses, the module, and the commands that wait, first in first out. -/
structure State where
  fuses : Fuses
  block : Block
  pending : List Instr
  deriving DecidableEq, Repr

/-! ## Reset -/

/-- An empty audit log: the chain value starts at 0 (R446). DESIGN CHOICE (notes/assumptions/4.md). -/
def LogSt.empty : LogSt := { entries := [], made := 0, chain := 0, dropped := 0 }

/-- The host port after reset: link down, D0, nothing pending. -/
def HostSt.empty : HostSt :=
  { linkUp := false, dstate := .d0, msixEnable := false, msix := [], msixPend := [], irqVec := [], high := [], sent := [],
    reply := .none }

/-- The management bus after reset: no dynamic address, interrupts disabled. -/
def I3cSt.empty : I3cSt :=
  { dyn := none, ibiEnable := false, ibis := [], overflow := false, answer := [], rstAction := 0, raised := [] }

/-- The test access port after reset: IDCODE selected (R465). DESIGN CHOICE (notes/assumptions/4.md). -/
def JtagSt.empty : JtagSt := { instr := .idcode, dataReg := 0, boundary := 0, driving := false, floating := false }

/-- Cadence and brakes after reset: no limit, nothing learned. -/
def PwrSt.empty : PwrSt :=
  { cur := none, ext := none, therm := [], window := [], windowStacks := [], draft := none, hotStacks := [], samples := [],
    energyRem := 0, temps := [], hottest := [], slacks := [], worstSlack := [], lent := [], floorSince := none,
    floorDone := false, filler := [], rise := 0,
    profile := { steps := 0, length := 0, slots := [], tileSlots := [], stepStart := 0, stepSlots := [], stepTile := [] },
    tripped := false, coolantWarned := false, refLostAt := none, unlocked := [], replanHold := false, eff := [],
    thermAt := [] }

/-- Links and spokes after reset. -/
def LlySt.empty : LlySt :=
  { spokes := [], routes := [], arrivals := [], inbox := [], requests := [], nextTag := 0, records := [], reachDue := false,
    fenced := false, fenceEpoch := 0, settleEnd := none, bulk := none, remote := [], remoteBad := [], offers := [] }

/-- The peloton after reset. DESIGN CHOICE (notes/assumptions/4.md). -/
def PelSt.empty : PelSt := { doms := [], digest := 0, lastSeq := 0, draft := none, reported := [] }

/-- The collective engine after reset. -/
def ColSt.empty : ColSt := { teams := [], seqs := [], runs := [], hellos := [], early := [] }

/-- The five stages of a firmware package (R434) as the factory programmed them.
PRESUMED and DESIGN CHOICE (notes/assumptions/3.md). -/
def factoryStages : List StageImg :=
  (List.range 5).map (fun i => { stage := i + 1, svn := 1, length := 4096, version := 1, sigOk := true, measure := 0 })

/-- The non-volatile store of a new module. PRESUMED and DESIGN CHOICE (notes/assumptions/3.md). -/
def NvSt.factory : NvSt :=
  { bankA := { valid := true, stages := factoryStages }, bankB := { valid := false, stages := [] }, nextB := false,
    bootCount := 0, minSvn := 1, raisesLeft := 64, pubKey := List.replicate 64 0, certs := [], retire := [], slabs := [],
    repairs := [], volts := [], tops := List.replicate 16 28, classDraw := [], replans := 0, notes := [] }

/-- The fuses of a GK-128 module: eight schedulable cores on every tile (R2, R7).
PRESUMED and DESIGN CHOICE (notes/assumptions/3.md). -/
def Fuses.full : Fuses := { grade := 0x00088001, coreMap := List.replicate 4 0xFFFFFFFF }

/-- The module after a cold reset with power good: every register at its reset value, MOD_GRADE and MOD_CORE_MAP as the fuses
have them (R7), memory unwritten, the boot ROM about to
run (R430, R435). PRESUMED and DESIGN CHOICE (notes/assumptions/3.md). -/
def Block.cold (f : Fuses) (nv : NvSt) (pins : PinSt) : Block :=
  { regs := (f.grade :: f.coreMap).zipIdx.foldl (fun m p => Sparse.put regReset m (0x040 + 4 * p.2) p.1) [], mem := [], poison := [], evt := [], log := .empty, host := .empty, i3c := .empty, jtag := .empty,
    mbx := { run := none }, boot := { run := .bootRom, bankB := false, svn := 0, version := 0, measures := [], resetDue := none, inputCut := false },
    pins := pins, net := { down := [], waiting := [], turn := [], served := [], last := [] }, pwr := .empty, units := [], tiles := [], cores := [],
    hbm := .empty, stks := [], shm := { map := [], record := [], bulk := none },
    exd := { dir := [], placed := [], refused := [], bulk := none, dump := none },
    azn := { units := [], progs := [] }, lly := .empty, pel := .empty, col := .empty, nv := nv,
    latch := [], winFree := [], slabFree := [], idleRem := [], owed := [], lens := [], posted := [], free := 0, serial := 0 }

/-- The input at 54.0 V and good, every sideband pin released. PRESUMED and DESIGN CHOICE (notes/assumptions/3.md). -/
def PinSt.normal : PinSt :=
  { volts := 540, powerGood := true, inputLow := false, coldRst := false, perst := false, testEn := false, addrSel := 0,
    auxLow := false, thermTrip := false }

/-- The machine right after a cold reset with power good, nothing commanded yet.
PRESUMED and DESIGN CHOICE (notes/assumptions/3.md). -/
def State.reset : State := { fuses := .full, block := .cold .full .factory .normal, pending := [] }

end Sys2Proof.Machine
end

