-- ==== Sys2Proof/Machine/Ops.lean ====
section
/-! DEFINITION. The named operations on the module's state that every meaning is built from: register words, the parts of the
state by key, free values, module addresses and memory, events, interrupt lines and vectors. -/

namespace Sys2Proof.Machine

open Sys2Proof

/-! ## Registers -/

/-- The register word at an aperture offset. -/
def Block.reg (b : Block) (k : Nat) : Word := Sparse.get regReset b.regs k

/-- Set the register word at an aperture offset. -/
def Block.setReg (b : Block) (k : Nat) (v : Word) : Block := { b with regs := Sparse.put regReset b.regs k v }

/-- The word of a register of a page. -/
def Block.rd (b : Block) (p : Page) (off : Nat) : Word := b.reg (addrOf p off)

/-- The word of a register as a number. -/
def Block.rdN (b : Block) (p : Page) (off : Nat) : Nat := (b.rd p off).toNat

/-- Set the word of a register of a page. -/
def Block.wr (b : Block) (p : Page) (off : Nat) (v : Word) : Block := b.setReg (addrOf p off) v

/-- Set the word of a register of a page to a number. -/
def Block.wrN (b : Block) (p : Page) (off : Nat) (v : Nat) : Block := b.wr p off (BitVec.ofNat 32 v)

/-- Set bits hi:lo of a register. -/
def Block.wrField (b : Block) (p : Page) (off hi lo v : Nat) : Block := b.wr p off (wset (b.rd p off) hi lo v)

/-- Set one bit of a register. -/
def Block.wrBit (b : Block) (p : Page) (off i : Nat) (v : Bool) : Block := b.wr p off (wsetBit (b.rd p off) i v)

/-- The 64-bit value of two consecutive words, low word first (R13). -/
def Block.rd64 (b : Block) (p : Page) (off : Nat) : Nat := b.rdN p off + 2 ^ 32 * b.rdN p (off + 4)

/-- Set two consecutive words, low word first. -/
def Block.wr64 (b : Block) (p : Page) (off : Nat) (v : Nat) : Block := (b.wrN p off v).wrN p (off + 4) (v / 2 ^ 32)

/-- Advance a 64-bit counter, which holds its greatest value (R14). -/
def Block.count (b : Block) (p : Page) (off n : Nat) : Block := b.wr64 p off (min (b.rd64 p off + n) (2 ^ 64 - 1))

/-- Clear the 64-bit counters at the given offsets of a page. -/
def Block.clear64 (b : Block) (p : Page) (offs : List Nat) : Block := offs.foldl (fun a o => a.wr64 p o 0) b

/-- The module's MCLK count, CLK_MCLK_COUNT (R404). -/
def Block.now (b : Block) : Nat := b.rd64 .clk Reg.CLK_MCLK_COUNT

/-- Is the core schedulable (R7)? -/
def Block.coreOn (b : Block) (c : Fin 128) : Bool := (b.rd .mod (Reg.MOD_CORE_MAP (c.val / 32))).getLsbD (c.val % 32)

/-- The module's identifier on the fabric (R312). -/
def Block.moduleId (b : Block) : Nat := b.rdN .llyMod Reg.LLY_MODULE_ID % 4096

/-! ## Parts of the state by key -/

/-- A unit's scheduler state. -/
def Block.unit (b : Block) (u : UnitId) : UnitSt := Sparse.get (fun _ => .idle) b.units u.key

/-- Set a unit's scheduler state. -/
def Block.setUnit (b : Block) (u : UnitId) (x : UnitSt) : Block :=
  { b with units := Sparse.put (fun _ => UnitSt.idle) b.units u.key x }

/-- A tile's state. -/
def Block.tile (b : Block) (t : Nat) : TileSt := Sparse.get (fun _ => .empty) b.tiles t

/-- Set a tile's state. -/
def Block.setTile (b : Block) (t : Nat) (x : TileSt) : Block :=
  { b with tiles := Sparse.put (fun _ => TileSt.empty) b.tiles t x }

/-- A core's engines. -/
def Block.core (b : Block) (c : Nat) : CoreSt := Sparse.get (fun _ => .empty) b.cores c

/-- Set a core's engines. -/
def Block.setCore (b : Block) (c : Nat) (x : CoreSt) : Block :=
  { b with cores := Sparse.put (fun _ => CoreSt.empty) b.cores c x }

/-- A stack's controller. -/
def Block.stk (b : Block) (i : Nat) : StackSt := Sparse.get (fun _ => .empty) b.stks i

/-- Set a stack's controller. -/
def Block.setStk (b : Block) (i : Nat) (x : StackSt) : Block :=
  { b with stks := Sparse.put (fun _ => StackSt.empty) b.stks i x }

/-- An Aznor unit. -/
def Block.aznUnit (b : Block) (i : Nat) : AznUnit := Sparse.get (fun _ => .empty) b.azn.units i

/-- Set an Aznor unit. -/
def Block.setAznUnit (b : Block) (i : Nat) (x : AznUnit) : Block :=
  { b with azn := { b.azn with units := Sparse.put (fun _ => AznUnit.empty) b.azn.units i x } }

/-- A spoke. -/
def Block.spoke (b : Block) (k : Nat) : SpokeSt := Sparse.get (fun _ => .down) b.lly.spokes k

/-- Set a spoke. -/
def Block.setSpoke (b : Block) (k : Nat) (x : SpokeSt) : Block :=
  { b with lly := { b.lly with spokes := Sparse.put (fun _ => SpokeSt.down) b.lly.spokes k x } }

/-- A peloton domain. -/
def Block.dom (b : Block) (d : Nat) : DomSt := Sparse.get (fun _ => .empty) b.pel.doms d

/-- Set a peloton domain. -/
def Block.setDom (b : Block) (d : Nat) (x : DomSt) : Block :=
  { b with pel := { b.pel with doms := Sparse.put (fun _ => DomSt.empty) b.pel.doms d x } }

/-- The page-table entry of a page (R281). -/
def Block.pte (b : Block) (v : Nat) : Pte := Sparse.get (fun _ => .none) b.hbm.ptes v

/-- Set a page-table entry. -/
def Block.setPte (b : Block) (v : Nat) (x : Pte) : Block :=
  { b with hbm := { b.hbm with ptes := Sparse.put (fun _ => Pte.none) b.hbm.ptes v x } }

/-- Draw a value that the manual leaves open. DESIGN CHOICE (notes/assumptions/1.md). -/
def Block.fresh (b : Block) : Nat × Block := (Config.freeValue b.free, { b with free := b.free + 1 })

/-- A name for a new task. DESIGN CHOICE (notes/assumptions/1.md). -/
def Block.newSerial (b : Block) : Nat × Block := (b.serial, { b with serial := b.serial + 1 })

/-! ## Module addresses (R223, R279, R299) -/

/-- Physical byte address of an SRAM slab of a tile. DESIGN CHOICE (notes/assumptions/12.md). -/
def sramPhys (t slab : Nat) : Nat := t * 2 ^ 32 + slab * 2 ^ 16

/-- Physical byte address of an HBM frame. DESIGN CHOICE (notes/assumptions/12.md). -/
def hbmPhys (st frame : Nat) : Nat := 2 ^ 40 + st * 2 ^ 37 + frame * 2 ^ 21

/-- Physical byte address of a far frame. DESIGN CHOICE (notes/assumptions/12.md). -/
def farPhys (frame : Nat) : Nat := 2 ^ 44 + frame * 2 ^ 21

/-- The core whose scratch window holds a physical byte of SRAM, if one does: the last 64 MiB of a home slice. -/
def windowCore (k : Nat) : Option Nat :=
  if k < 2 ^ 40 ∧ 0x1C000000 ≤ k % 2 ^ 29 then some (k / 2 ^ 32 * 8 + k % 2 ^ 32 / 2 ^ 29) else none

/-- What a byte that nothing has written reads as: SRAM 0, but for a window that filler left undefined (R397) and a slab that a shadow
left undefined (R56); HBM and the far tier an open value (R430). DEDUCED and DESIGN CHOICE (notes/assumptions/5.md). -/
def Block.memDef (b : Block) (k : Nat) : Byte :=
  if k < 2 ^ 40 then
    match windowCore k with
    | some c => let n := Sparse.get (fun _ => 0) b.winFree c
                if n = 0 then 0 else Config.windowByte n k
    | none => let n := Sparse.get (fun _ => 0) b.slabFree (k / 65536)
              if n = 0 then 0 else Config.windowByte n k
  else Config.hbmByte b.nv.bootCount k

/-- Where a module address leads: a physical byte, or why it leads nowhere. -/
inductive Loc where
  | phys (k : Nat)
  | nonResident (page : Nat)
  | moving (page : Nat)
  | farDown
  | unmapped
  deriving DecidableEq, Repr

/-- The allocation of a tile that holds a slab address. -/
def Block.slabAlloc? (b : Block) (t slabAddr : Nat) : Option SramAlloc :=
  (b.tile t).allocs.find? (fun x => decide (x.base ≤ slabAddr) && decide (slabAddr < x.base + x.slabs.length))

/-- The HBM allocation that holds a page. -/
def Block.pageAlloc? (b : Block) (v : Nat) : Option HbmAlloc :=
  b.hbm.allocs.find? (fun x => decide (x.base ≤ v) && decide (v < x.base + x.pages))

/-- First address of HBM space. -/
def hbmBase : Nat := 0x2000000000

/-- First address past HBM space. -/
def hbmEnd : Nat := 0x82000000000

/-- Page number of an HBM-space address (R279). -/
def pageOf (a : Nat) : Nat := (a - hbmBase) / 2 ^ 21

/-- Does the address lie in HBM space? -/
def inHbm (a : Nat) : Bool := decide (hbmBase ≤ a) && decide (a < hbmEnd)

/-- Far frames in all and those that back paging (R299). DESIGN CHOICE (notes/assumptions/47.md). -/
def Block.farFrames (b : Block) : Nat × Nat :=
  (b.rdN .cxl Reg.CXL_CAPACITY % 2 ^ 22, min (b.rdN .cxl Reg.CXL_PAGING_FRAMES % 2 ^ 22) (b.rdN .cxl Reg.CXL_CAPACITY % 2 ^ 22))

/-- Resolve a module address. DESIGN CHOICE (notes/assumptions/12.md). -/
def Block.resolve (b : Block) (a : Nat) : Loc :=
  if a < hbmBase then
    let t := a / 2 ^ 33
    let o := a % 2 ^ 33
    if o < 0x1C0000000 then
      match b.slabAlloc? t (o / 65536) with
      | some x => .phys (sramPhys t (x.slabs.getD (o / 65536 - x.base) 0) + o % 65536)
      | none => .unmapped
    else if o < 0x1E0000000 then
      let c := (o - 0x1C0000000) / 2 ^ 26
      if h : 8 * t + c < 128 then
        if b.coreOn ⟨8 * t + c, h⟩ then .phys (sramPhys t (8192 * c + 7168) + (o - 0x1C0000000) % 2 ^ 26) else .unmapped
      else .unmapped
    else .unmapped
  else if a < hbmEnd then
    let v := pageOf a
    let e := b.pte v
    if !e.valid then .unmapped
    else if e.moving then .moving v
    else if e.resident then .phys (hbmPhys e.stack e.frame + a % 2 ^ 21)
    else .nonResident v
  else if 0x100000000000 ≤ a ∧ a < 0x140000000000 then
    let f := (a - 0x100000000000) / 2 ^ 21
    if f < b.farFrames.1 - b.farFrames.2 then
      if b.hbm.farDown then .farDown else .phys (farPhys f + a % 2 ^ 21)
    else .unmapped
  else .unmapped

/-- The address a module-internal record write reaches (completion and event records): a non-resident page leads to its far
frame, a page on the move to where its current contents lie. DESIGN CHOICE (notes/assumptions/12.md). -/
def Block.resolveOwn (b : Block) (a : Nat) : Loc :=
  match b.resolve a with
  | .nonResident v => .phys (farPhys (b.pte v).farFrame + a % 2 ^ 21)
  | .moving v =>
    let e := b.pte v
    if e.resident then .phys (hbmPhys e.stack e.frame + a % 2 ^ 21) else .phys (farPhys e.farFrame + a % 2 ^ 21)
  | l => l

/-- Kind of the allocation that holds an address, if one does. -/
def Block.kindAt (b : Block) (a : Nat) : Option AllocKind :=
  if a < hbmBase then
    if a % 2 ^ 33 < 0x1C0000000 then (b.slabAlloc? (a / 2 ^ 33) (a % 2 ^ 33 / 65536)).map (fun x => x.kind) else none
  else if a < hbmEnd then (b.pageAlloc? (pageOf a)).map (fun x => x.kind)
  else none

/-- The allocation that holds an address: first byte, length in bytes, kind, generation, bindings. -/
structure AllocView where
  base : Nat
  len : Nat
  kind : AllocKind
  gen : Nat
  binds : List Nat
  freed : Bool
  deriving DecidableEq, Repr

/-- The allocation that holds an address. -/
def Block.allocAt (b : Block) (a : Nat) : Option AllocView :=
  if a < hbmBase then
    if a % 2 ^ 33 < 0x1C0000000 then
      (b.slabAlloc? (a / 2 ^ 33) (a % 2 ^ 33 / 65536)).map (fun x =>
        ⟨a / 2 ^ 33 * 2 ^ 33 + x.base * 65536, x.slabs.length * 65536, x.kind, x.gen, x.binds, x.freed⟩)
    else none
  else if a < hbmEnd then
    (b.pageAlloc? (pageOf a)).map (fun x => ⟨hbmBase + x.base * 2 ^ 21, x.pages * 2 ^ 21, x.kind, x.gen, x.binds, x.freed⟩)
  else none

/-- Does a byte range lie wholly inside one allocation that is not freed? An empty range asks for its first byte (R90). -/
def Block.within (b : Block) (a n : Nat) : Option AllocView :=
  match b.allocAt a with
  | some v => if !v.freed ∧ a + n ≤ v.base + v.len then some v else none
  | none => none

/-- Current generation of the slab or page that holds an address (R99). -/
def Block.genAt (b : Block) (a : Nat) : Nat :=
  if a < hbmBase then Sparse.get (fun _ => 0) (b.tile (a / 2 ^ 33)).gens (a % 2 ^ 33 / 65536)
  else Sparse.get (fun _ => 0) b.hbm.gens (pageOf a)

/-! ## Memory -/

/-- Cut the range of `n` bytes from `a` at multiples of `g`: first address and length of each piece. -/
def pieces (g a n : Nat) : List (Nat × Nat) :=
  if n = 0 then []
  else (List.range ((a + n - 1) / g - a / g + 1)).map (fun i =>
    let lo := max a ((a / g + i) * g)
    (lo, min (a + n) ((a / g + i + 1) * g) - lo))

/-- Why an access cannot proceed; `ok` when it can. -/
inductive Access where
  | ok
  | unmapped
  | nonResident (page : Nat)
  | moving (page : Nat)
  | farDown
  deriving DecidableEq, Repr

/-- What stands in the way of an access to `n` bytes at `a`: the first piece that does not resolve. -/
def Block.probe (b : Block) (a n : Nat) : Access :=
  (pieces 65536 a n).foldl (fun r p => match r with
    | .ok => match b.resolve p.1 with
      | .phys _ => .ok
      | .nonResident v => .nonResident v
      | .moving v => .moving v
      | .farDown => .farDown
      | .unmapped => .unmapped
    | r => r) .ok

/-- The bytes at physical addresses `k` to `k + n - 1`. -/
def Block.physBytes (b : Block) (k n : Nat) : List Byte := Sparse.getList b.memDef b.mem k n

/-- The `n` bytes at a module address; bytes that do not resolve read as zero, which `probe` rules out first. -/
def Block.bytes (b : Block) (a n : Nat) : List Byte :=
  (pieces 65536 a n).flatMap (fun p => match b.resolveOwn p.1 with
    | .phys k => b.physBytes k p.2
    | _ => List.replicate p.2 0)

/-- One byte at a module address, where it resolves. -/
def Block.byte? (b : Block) (a : Nat) : Option Byte :=
  match b.resolve a with
  | .phys k => some (Sparse.get b.memDef b.mem k)
  | _ => none

/-- The little-endian number in `n` bytes at a module address. -/
def Block.num (b : Block) (a n : Nat) : Nat := ofBytes (b.bytes a n)

/-- Module addresses of the poisoned 64-bit words in a range, each as its first byte in the range. -/
def Block.poisoned (b : Block) (a n : Nat) : List Nat :=
  (pieces 8 a n).filterMap (fun p => match b.resolveOwn p.1 with
    | .phys k => if Sparse.get (fun _ => false) b.poison (k / 8) then some p.1 else none
    | _ => none)

/-- Set the poison of the 64-bit word at a module address. -/
def Block.setPoison (b : Block) (a : Nat) (v : Bool) : Block :=
  match b.resolveOwn a with
  | .phys k => { b with poison := Sparse.put (fun _ => false) b.poison (k / 8) v }
  | _ => b

/-- Write bytes at a physical address; a 64-bit word that the write covers whole is no longer poisoned (R226, R291). -/
def Block.pokePhys (b : Block) (k : Nat) (l : List Byte) : Block :=
  { b with
    mem := Sparse.putList b.memDef b.mem k l
    poison := Sparse.clear (fun w => decide (k ≤ 8 * w ∧ 8 * w + 8 ≤ k + l.length)) b.poison }

/-- What an access that a controller serves does to its granules and its page (R240, R281): ACCESSED is set; under a write the
generation of each granule advances with each piece of at most 512 bytes, and DIRTY is set where the page is EVICTABLE.
DESIGN CHOICE (notes/assumptions/25.md). -/
def Block.markHbm (b : Block) (a n : Nat) (write : Bool) : Block :=
  if inHbm a then
    let v := pageOf a
    let e := b.pte v
    if e.valid ∧ e.resident then
      let b := b.setPte v { e with accessed := true, dirty := e.dirty || (write && e.evictable),
                                   farCurrent := e.farCurrent && !(write && e.evictable) }
      if write then
        let st := b.stk e.stack
        b.setStk e.stack { st with
          gran := (pieces 512 (e.frame * 2 ^ 21 + a % 2 ^ 21) n).foldl (fun g p =>
            Sparse.put (fun _ => 0) g (p.1 / 65536) ((Sparse.get (fun _ => 0) g (p.1 / 65536) + 1) % 2 ^ 16)) st.gran }
      else b
    else b
  else b

/-! ## The controllers' queues (R282, R286 to R289) -/

/-- A stack by its number. -/
def stackFin (n : Nat) : Fin 20 := ⟨n % 20, by omega⟩

/-- Count slots that a stack serves (R286). -/
def Block.countSlots (b : Block) (st n : Nat) : Block := b.count (.hbc (stackFin st)) Reg.HBC_SLOTS n

/-- Does a controller take a request now (R287): fewer than 4,096 outstanding, fewer than 2,048 of its origin, and none of that origin
before it in the network? -/
def StackSt.takes (s : StackSt) (q : SlotReq) : Bool :=
  decide (s.queue.length < 4096) && decide ((s.queue.filter (fun r => r.origin == q.origin)).length < 2048) &&
    !s.beyond.any (fun r => r.origin == q.origin)

/-- Set a stack's controller, HBC_OUTSTANDING following. -/
def Block.setQueue (b : Block) (st : Nat) (s : StackSt) : Block :=
  (b.setStk st s).wrN (.hbc (stackFin st)) Reg.HBC_OUTSTANDING s.queue.length

/-- A slot request reaches a stack: its controller takes it, or it waits in the network (R287).
DESIGN CHOICE (notes/assumptions/25.md). -/
def Block.queueSlot (b : Block) (st : Nat) (q : SlotReq) : Block :=
  let s := b.stk st
  b.setQueue st (if s.takes q then { s with queue := s.queue ++ [q] } else { s with beyond := s.beyond ++ [q] })

/-- Requests that waited in the network enter as the controller has room for them (R287). -/
def Block.refill (b : Block) (st : Nat) : Block :=
  let s := b.stk st
  b.setQueue st (s.beyond.foldl (fun x q =>
    if x.takes q then { x with queue := x.queue ++ [q] } else { x with beyond := x.beyond ++ [q] }) { s with beyond := [] })

/-- The slot requests of `n` bytes at an address, one for each aligned piece of 512 bytes that lies in HBM (R286), each with the stack that
serves it. -/
def Block.hbmPieces (b : Block) (owner : SlotOwner) (write : Bool) (urgency deadline origin port : Nat) (ranges : List (Nat × Nat)) :
    List (Nat × SlotReq) :=
  (ranges.flatMap (fun r => pieces 512 r.1 r.2)).filterMap (fun p =>
    if !inHbm p.1 then none
    else
      let e := b.pte (pageOf p.1)
      if e.valid ∧ e.resident then
        some (e.stack, { owner := owner, write := write, addr := p.1, frame := e.frame, slot := p.1 % 2 ^ 21 / 512,
                         first := p.1 % 512, len := p.2, urgency := urgency, deadline := deadline, origin := origin, port := port,
                         arrived := b.now, data := [] })
      else none)

/-- Put slot requests on the queues of their stacks. -/
def Block.queueSlots (b : Block) (l : List (Nat × SlotReq)) : Block := l.foldl (fun x p => x.queueSlot p.1 p.2) b

/-- Reads that wait at a controller take the bytes they share with a write before it changes them (R289). -/
def Block.freezeReads (b : Block) (k n : Nat) : Block :=
  if k < 2 ^ 40 ∨ 2 ^ 44 ≤ k then b
  else
    let st := (k - 2 ^ 40) / 2 ^ 37
    let s := b.stk st
    let keep := fun (q : SlotReq) =>
      let lo := hbmPhys st q.frame + 512 * q.slot + q.first
      if !q.write ∧ q.data.isEmpty ∧ lo < k + n ∧ k < lo + q.len then { q with data := b.physBytes lo q.len } else q
    if s.queue.isEmpty ∧ s.beyond.isEmpty then b
    else b.setStk st { s with queue := s.queue.map keep, beyond := s.beyond.map keep }

/-- An access that a stack's controller serves at once: it takes one slot for each aligned piece of 512 bytes (R286), and marks
its page. -/
def Block.touchHbm (b : Block) (a n : Nat) : Block :=
  let e := b.pte (pageOf a)
  if inHbm a ∧ e.valid ∧ e.resident then (b.markHbm a n false).countSlots e.stack (pieces 512 a n).length else b

/-- Write bytes at a module address, piece by piece, for an owner and an origin; a piece that does not resolve is not written. The bytes
stand at once, and the slots they take wait at the controller. DESIGN CHOICE (notes/assumptions/25.md). -/
def Block.storeAs (b : Block) (owner : SlotOwner) (urgency deadline origin a : Nat) (l : List Byte) : Block :=
  (pieces 65536 a l.length).foldl (fun x p => match x.resolveOwn p.1 with
    | .phys k =>
      let y := (x.freezeReads k p.2).pokePhys k ((l.drop (p.1 - a)).take p.2)
      (y.markHbm p.1 p.2 true).queueSlots (y.hbmPieces owner true urgency deadline origin (if origin = 18 then 512 else 0) [p])
    | _ => x) b

/-- Write bytes with the urgency of a demand. DESIGN CHOICE (notes/assumptions/25.md). -/
def Block.storeFor (b : Block) (owner : SlotOwner) (origin a : Nat) (l : List Byte) : Block := b.storeAs owner 0 0 origin a l

/-- Write bytes for the module itself, through the west port die. -/
def Block.store (b : Block) (a : Nat) (l : List Byte) : Block := b.storeFor .other 16 a l

/-- Do writes of a task still wait for their slots (R53)? -/
def Block.writesWait (b : Block) (serial : Nat) : Bool :=
  b.stks.any (fun s => (s.2.queue ++ s.2.beyond).any (fun q => decide (q.owner = .writer serial)))

/-- An access of a die looks a page up (R282): an entry that its translation cache does not hold is read from frame 0 of the stack that
holds it, and takes the place of the oldest of 1,024. DESIGN CHOICE (notes/assumptions/33.md). -/
def Block.lookup (b : Block) (die a : Nat) : Block :=
  if !inHbm a then b
  else
    let v := pageOf a
    let l := Sparse.get (fun _ => ([] : List Nat)) b.hbm.xlat die
    if l.contains v then b
    else
      let b := { b with hbm := { b.hbm with xlat := Sparse.put (fun _ => []) b.hbm.xlat die (v :: l.take 1023) } }
      b.queueSlot (v % 20)
        { owner := .table, write := false, addr := 0, frame := 0, slot := v / 20 / 64, first := v / 20 % 64 * 8, len := 8, urgency := 0,
          deadline := 0, origin := 19, port := 0, arrived := b.now, data := [] }

/-- Look up every page of byte ranges for a die. -/
def Block.lookups (b : Block) (die : Nat) (ranges : List (Nat × Nat)) : Block :=
  (ranges.flatMap (fun r => pieces (2 ^ 21) r.1 r.2)).foldl (fun x p => x.lookup die p.1) b

/-- Write a little-endian number of `n` bytes. -/
def Block.storeNum (b : Block) (a n v : Nat) : Block := b.store a (toBytes n v)

/-- Invalidate in the operand cache of a tile every line that a write from its cores touches (R243): `holder` is 0 for the module's own
memory and 1 + m for a shard on module m. -/
def Block.dropLines (b : Block) (t holder a n : Nat) : Block :=
  let x := b.tile t
  if x.oc.isEmpty then b
  else b.setTile t { x with oc := x.oc.filter (fun l => !(l.holder == holder && decide (a < 512 * l.line + 512) && decide (512 * l.line < a + n))) }

/-! ## Interrupt lines and vectors (R423, R470) -/

/-- Set bits of a page's INT_STAT; the line rises at INTERRUPT_LINE_RISE. DEDUCED (notes/assumptions/15.md). -/
def Block.setInt (b : Block) (p : Page) (bits : Nat) : Block :=
  b.wr p Reg.INT_STAT (b.rd p Reg.INT_STAT ||| BitVec.ofNat 32 bits)

/-- Does the page's line stand high: is any bit of INT_STAT & INT_EN 1? DEDUCED (notes/assumptions/15.md). -/
def Block.lineHigh (b : Block) (p : Page) : Bool := decide ((b.rd p Reg.INT_STAT &&& b.rd p Reg.INT_EN) ≠ 0)

/-- A page whose line no longer stands high may rise again. DEDUCED (notes/assumptions/15.md). -/
def Block.settleLine (b : Block) (p : Page) : Block :=
  if b.lineHigh p then b else { b with host := { b.host with high := b.host.high.filter (fun q => q != pageIndex p) } }

/-- Reset words of the MSI-X table: every vector masked, as PCI Express has it. DESIGN CHOICE (notes/assumptions/4.md). -/
def msixReset (k : Nat) : Word := if k % 4 = 3 then 1 else 0

/-- Send an MSI-X vector: nothing while MSI-X is disabled (R430), pending while it is masked, and otherwise a message.
DEDUCED (notes/assumptions/15.md). -/
def Block.sendVector (b : Block) (v : Nat) : Block :=
  if !b.host.msixEnable then b
  else if (Sparse.get msixReset b.host.msix (4 * v + 3)).getLsbD 0 then
    { b with host := { b.host with msixPend := if b.host.msixPend.contains v then b.host.msixPend else b.host.msixPend ++ [v] } }
  else { b with host := { b.host with sent := b.host.sent ++ [v] } }

/-- Raise a management-bus in-band interrupt (R452): nothing while ENEC has not enabled them; queued up to 64; one that finds
the queue full is lost and sets the overflow that GETSTATUS reports. DEDUCED (notes/assumptions/15.md). -/
def Block.raiseIbi (b : Block) (l : List Byte) : Block :=
  if !b.i3c.ibiEnable then b
  else if b.i3c.ibis.length < 64 then { b with i3c := { b.i3c with ibis := b.i3c.ibis ++ [l] } }
  else { b with i3c := { b.i3c with overflow := true } }

/-! ## Events (R477 to R486) -/

/-- The count of an event code. -/
def Block.evtCount (b : Block) (e : Nat) : DWord := Sparse.get (fun _ => 0) b.evt e

/-- The ring's vector and, under IBI, the in-band interrupt with the code of the oldest unread record (R483). -/
def Block.ringSend (b : Block) : Block :=
  let cfg := b.rd .mod Reg.MOD_EVT_CFG
  let b := b.sendVector (wfield cfg 15 8)
  if wbit cfg 20 then
    let size := 2 ^ wfield cfg 3 0
    let base := b.rd64 .mod Reg.MOD_EVT_BASE_LO
    let head := b.rdN .mod Reg.MOD_EVT_HEAD
    b.raiseIbi (0x03 :: b.bytes (base + 32 * (head % size)) 2)
  else b

/-- The 32 bytes of an event record (R482). DEDUCED (notes/assumptions/52.md). -/
def evtRecord (e page time barrierSeq data : Nat) : List Byte :=
  toBytes 2 e ++ toBytes 1 (evSeverity e) ++ toBytes 1 0 ++ toBytes 2 page ++ toBytes 2 0 ++ toBytes 8 time ++
    toBytes 8 (barrierSeq % 2 ^ 48) ++ toBytes 8 data

/-- A record due at an address that is unmapped, or in allocation space without an allocation, is not written (R482, R487).
DEDUCED (notes/assumptions/52.md). -/
def Block.recordFits (b : Block) (a n : Nat) : Bool :=
  (pieces 65536 a n).all (fun p => match b.resolveOwn p.1 with | .phys _ => true | _ => false)

/-- Write a record into the event ring, or count it as lost (R482). DEDUCED (notes/assumptions/52.md). -/
def Block.ringWrite (b : Block) (x : Posted) : Block :=
  let cfg := b.rd .mod Reg.MOD_EVT_CFG
  let size := 2 ^ wfield cfg 3 0
  let base := b.rd64 .mod Reg.MOD_EVT_BASE_LO
  let head := b.rdN .mod Reg.MOD_EVT_HEAD
  let tail := b.rdN .mod Reg.MOD_EVT_TAIL
  let slot := base + 32 * (tail % size)
  if diff32 tail head < size ∧ b.recordFits slot 32 then
    let b := (b.store slot (evtRecord x.code x.page b.now x.barrierSeq x.data)).wrN .mod Reg.MOD_EVT_TAIL (tail + 1)
    if tail = head then b.ringSend else b
  else b.count .mod Reg.MOD_EVT_LOST 1

/-- Place an event among the others of its cycle: ascending page, within a page ascending code; equal ones keep their order (R484).
DEDUCED (notes/assumptions/52.md). -/
def Posted.insert (x : Posted) : List Posted → List Posted
  | [] => [x]
  | y :: r => if x.page < y.page ∨ (x.page = y.page ∧ x.code < y.code) then x :: y :: r else y :: Posted.insert x r

/-- An event (R479): its counter advances, and it takes its place among those of its cycle (R484). DEDUCED (notes/assumptions/52.md). -/
def Block.post (b : Block) (e : Nat) (p : Page) (data : Nat) : Block :=
  { b with
    evt := Sparse.put (fun _ => 0) b.evt e (satAdd64 (b.evtCount e) 1)
    posted := Posted.insert { code := e, page := pageIndex p, data := data, barrierSeq := b.pel.lastSeq } b.posted }

/-- A raised event leaves its record when the ring is enabled and its severity is masked in, and an error is latched (R479).
DEDUCED (notes/assumptions/52.md). -/
def Block.ringEvent (b : Block) (x : Posted) : Block :=
  let sev := evSeverity x.code
  let cfg := b.rd .mod Reg.MOD_EVT_CFG
  let b := if wbit cfg 31 && wbit cfg (16 + sev) then b.ringWrite x else b
  if sev = 3 then b.wrN .mod Reg.MOD_EVT_LAST (x.page * 2 ^ 16 + x.code) else b

/-- The events of a cycle take their ring slots in order, so that MOD_EVT_LAST holds the error that comes last (R484).
DEDUCED (notes/assumptions/52.md). -/
def Block.settle (b : Block) : Block := b.posted.foldl (fun x e => x.ringEvent e) b

/-- What happens in one MCLK cycle: an effect, and then the records of the events it raised. DEDUCED (notes/assumptions/52.md). -/
def Block.cycle (b : Block) (f : Block → Block) : Block := { (f { b with posted := [] }).settle with posted := b.posted }

/-! ## Meanings -/

/-- Does stage 5 run, with every block of the module up and no reset due (R431, R433, R438)?
DESIGN CHOICE (notes/assumptions/6.md). -/
def Block.running (b : Block) : Bool := decide (b.boot.run = .running ∧ b.boot.resetDue = none)

/-- The lock bit of a die's synthesiser, numbered as PWR_TEMP_SEL numbers dies: the clocks of a die without it stand (R403), and none of its
engines takes a step. DEDUCED (notes/assumptions/24.md). -/
def Block.lock (b : Block) (d : Nat) : Bool :=
  if d < 18 then wbit (b.rd .clk Reg.CLK_LOCK0) d else wbit (b.rd .clk Reg.CLK_LOCK1) (d - 18)

/-- Does the management block run: powered, out of reset and not in test (R451, R456, R467)?
DESIGN CHOICE (notes/assumptions/2.md). DESIGN CHOICE (notes/assumptions/6.md). -/
def Block.cmbUp (b : Block) : Bool :=
  match b.boot.run with
  | .off => false
  | .cmbHeld => false
  | .testOnly => false
  | _ => true

/-- Does the host port answer accesses to its apertures: the module up or in recovery, the link up, the function in D0, and no
reset due (R416, R429, R436, R438)? DESIGN CHOICE (notes/assumptions/6.md). -/
def Block.hostOpen (b : Block) : Bool :=
  (match b.boot.run with | .running => true | .recovery => true | _ => false) &&
    b.host.linkUp && decide (b.host.dstate = .d0 ∧ b.boot.resetDue = none)

/-- Does a register write of this origin arrive? -/
def Block.doorOpen (b : Block) : Origin → Bool
  | .host => b.hostOpen
  | _ => b.cmbUp

/-- A step of the module's engines: it happens only while the module runs. DESIGN CHOICE (notes/assumptions/6.md). -/
def State.onBlock (s : State) (f : Block → Block) : Host.Outcome State Fault Refusal :=
  .next (if s.block.running then { s with block := s.block.cycle f } else s)

/-- A register write of an origin: dropped where that origin's door is shut. DESIGN CHOICE (notes/assumptions/6.md). -/
def State.onWrite (s : State) (o : Origin) (f : Block → Block) : Host.Outcome State Fault Refusal :=
  .next (if s.block.doorOpen o then { s with block := s.block.cycle f } else s)

/-- An event at the input, a pin, a reset, the boot ROM or the test port, which makes its own conditions.
DESIGN CHOICE (notes/assumptions/6.md). -/
def State.onPort (s : State) (f : Fuses → Block → Block) : Host.Outcome State Fault Refusal :=
  .next { s with block := s.block.cycle (f s.fuses) }

end Sys2Proof.Machine
end

