-- ==== Sys2Proof/Machine/Sm3.lean ====
section
/-! DEFINITION. The SM3 hash that the manual names (R356, R434, R446) and does not define: taken from its published standard
(PRESUMED, notes/assumptions/8.md). -/

namespace Sys2Proof.Machine

/-- The eight working words of the hash, first word first. -/
abbrev Sm3State := List Word

/-- The initial value. -/
def sm3Iv : Sm3State :=
  [0x7380166f, 0x4914b2b9, 0x172442d7, 0xda8a0600, 0xa96f30bc, 0x163138aa, 0xe38dee4d, 0xb0fb0e4e]

/-- The permutation of the message expansion. -/
def sm3P1 (x : Word) : Word := x ^^^ x.rotateLeft 15 ^^^ x.rotateLeft 23

/-- The permutation of the compression. -/
def sm3P0 (x : Word) : Word := x ^^^ x.rotateLeft 9 ^^^ x.rotateLeft 17

/-- Expand sixteen message words to 68: one more word a step, newest first. -/
def sm3Grow (l : List Word) : List Word :=
  (sm3P1 (l.getD 15 0 ^^^ l.getD 8 0 ^^^ (l.getD 2 0).rotateLeft 15) ^^^ (l.getD 12 0).rotateLeft 7 ^^^ l.getD 5 0) :: l

/-- Apply a function a number of times. -/
def iterate {α : Type} (f : α → α) : Nat → α → α
  | 0, x => x
  | n + 1, x => iterate f n (f x)

/-- The 68 expanded words of a block of sixteen, oldest first. -/
def sm3Expand (blk : List Word) : List Word := (iterate sm3Grow 52 blk.reverse).reverse

/-- One round. -/
def sm3Round (w : List Word) (s : Sm3State) (j : Nat) : Sm3State :=
  let a := s.getD 0 0
  let b := s.getD 1 0
  let c := s.getD 2 0
  let e := s.getD 4 0
  let f := s.getD 5 0
  let g := s.getD 6 0
  let t : Word := if j < 16 then 0x79cc4519 else 0x7a879d8a
  let ss1 := (a.rotateLeft 12 + e + t.rotateLeft (j % 32)).rotateLeft 7
  let ss2 := ss1 ^^^ a.rotateLeft 12
  let ff := if j < 16 then a ^^^ b ^^^ c else (a &&& b) ||| (a &&& c) ||| (b &&& c)
  let gg := if j < 16 then e ^^^ f ^^^ g else (e &&& f) ||| (~~~e &&& g)
  let tt1 := ff + s.getD 3 0 + ss2 + (w.getD j 0 ^^^ w.getD (j + 4) 0)
  let tt2 := gg + s.getD 7 0 + ss1 + w.getD j 0
  [tt1, a, b.rotateLeft 9, c, sm3P0 tt2, e, f.rotateLeft 19, g]

/-- The compression of one block. -/
def sm3Block (s : Sm3State) (blk : List Word) : Sm3State :=
  let w := sm3Expand blk
  List.zipWith (fun x y => x ^^^ y) s ((List.range 64).foldl (sm3Round w) s)

/-- Cut a list of bytes into big-endian words. -/
def beWords : List Byte → List Word
  | a :: b :: c :: d :: r => (a ++ b ++ c ++ d : BitVec 32) :: beWords r
  | _ => []

/-- Message padding: a 1 bit, zeros, the length in bits as 64 bits big-endian. -/
def sm3Pad (m : List Byte) : List Byte :=
  m ++ [0x80] ++ List.replicate ((119 - m.length % 64) % 64) 0 ++ (toBytes 8 (8 * m.length)).reverse

/-- Compress the blocks of a list of words; the length of the list bounds the blocks. -/
def sm3Blocks : Nat → Sm3State → List Word → Sm3State
  | 0, s, _ => s
  | n + 1, s, w => if w.length < 16 then s else sm3Blocks n (sm3Block s (w.take 16)) (w.drop 16)

/-- The SM3 hash of a message, byte 0 of the output highest. PRESUMED (notes/assumptions/8.md). -/
def sm3 (m : List Byte) : BitVec 256 :=
  let w := beWords (sm3Pad m)
  BitVec.ofNat 256 ((sm3Blocks (w.length / 16) sm3Iv w).foldl (fun a x => a * 2 ^ 32 + x.toNat) 0)

/-- The 32 bytes of a hash value, byte 0 first. PRESUMED (notes/assumptions/8.md). -/
def hashBytes (h : BitVec 256) : List Byte := (toBytes 32 h.toNat).reverse

/-- Word `i` of a hash value as register words show it: byte 4i in bits 31:24. -/
def hashWord (h : BitVec 256) (i : Nat) : Word := BitVec.ofNat 32 (h.toNat / 2 ^ (32 * (7 - i)))

end Sys2Proof.Machine
end

