-- ==== Sys2Proof/Machine/Log.lean ====
section
/-! DEFINITION. The audit log (R443 to R448) and the gate every register write passes: presence, write locks (R474, R475),
the strict log, the entry that the write makes. -/

namespace Sys2Proof.Machine

open Sys2Proof

/-- Entry kinds (R443). -/
abbrev LogKind.regWrite : Nat := 1
/-- A table's change. -/
abbrev LogKind.tableChange : Nat := 2
/-- The end of a mailbox command that is logged. -/
abbrev LogKind.mailbox : Nat := 3
/-- A change of the module's state. -/
abbrev LogKind.moduleState : Nat := 4
/-- A reset. -/
abbrev LogKind.reset : Nat := 5
/-- The first entry after cold reset. -/
abbrev LogKind.boot : Nat := 6
/-- Entries were dropped. DEDUCED (notes/assumptions/42.md). -/
abbrev LogKind.gap : Nat := 7

/-- Entries the log holds at most (R447). -/
def logSize : Nat := 16384

/-- Bytes 0x00 to 0x2F of an entry (R445). -/
def LogEntry.head (e : LogEntry) : List Byte :=
  toBytes 8 e.seq ++ toBytes 8 e.time ++ toBytes 8 (e.barrierSeq % 2 ^ 48) ++ toBytes 1 e.origin ++ toBytes 1 e.kind ++
    toBytes 2 0 ++ toBytes 4 e.offset ++ toBytes 4 e.old ++ toBytes 4 e.new ++ toBytes 8 0

/-- The 64 bytes of an entry (R445): `chain` holds bytes 0 to 15 of the chain value, byte 0 highest. -/
def LogEntry.bytes (e : LogEntry) : List Byte := e.head ++ (toBytes 16 e.chain).reverse

/-- SEQ of the next entry: the boot count above 40 bits of entries made since cold reset. -/
def Block.logHead (b : Block) : Nat := b.nv.bootCount % 2 ^ 24 * 2 ^ 40 + b.log.made % 2 ^ 40

/-- The LOG page's words after a change of the log. -/
def Block.syncLog (b : Block) : Block :=
  let n := b.log.entries.length
  let b := b.wrN .log Reg.LOG_STAT ((if logSize ≤ n then 2 ^ 31 else 0) + n)
  let b := b.wr64 .log Reg.LOG_HEAD b.logHead
  let b := b.wr64 .log Reg.LOG_TAIL (match b.log.entries with | [] => b.logHead | e :: _ => e.seq)
  (List.range 8).foldl (fun a i => a.wr .log (Reg.LOG_CHAIN i) (hashWord a.log.chain i)) b

/-- Append an entry where there is room: its sequence number, the chain value (R446), CHANGE_SEQ of its page, LOG_FULL when it
fills the log. DEDUCED (notes/assumptions/42.md). -/
def Block.logPush (b : Block) (o : Origin) (kind offset old new : Nat) : Block :=
  let e : LogEntry := { seq := b.logHead, time := b.now, barrierSeq := b.pel.lastSeq, origin := o.code, kind := kind,
                        offset := offset, old := old % 2 ^ 32, new := new % 2 ^ 32, chain := 0 }
  let h := sm3 (hashBytes b.log.chain ++ e.head)
  let b := { b with log := { b.log with entries := b.log.entries ++ [{ e with chain := h.toNat / 2 ^ 128 }],
                                        made := b.log.made + 1, chain := h } }
  let b := match pageAt? (offset / 4096) with
    | some p => b.wrN p Reg.CHANGE_SEQ e.seq
    | none => b
  let b := b.syncLog
  if b.log.entries.length = logSize then b.post Ev.LOG_FULL .log 0 else b

/-- Make an entry, or count the change as dropped while the log is full; a GAP entry precedes the first entry made after room
returns (R448). DEDUCED (notes/assumptions/42.md). -/
def Block.logAppend (b : Block) (o : Origin) (kind offset old new : Nat) : Block :=
  let drop := fun (x : Block) =>
    { x.count .log Reg.LOG_DROPPED 1 with log := { x.log with dropped := x.log.dropped + 1 } }
  if logSize ≤ b.log.entries.length then drop b
  else
    let b := if b.log.dropped = 0 then b
      else let n := b.log.dropped
           { b with log := { b.log with dropped := 0 } }.logPush .self LogKind.gap 0 0 (min n (2 ^ 32 - 1))
    if logSize ≤ b.log.entries.length then drop b else b.logPush o kind offset old new

/-- An entry for a change of the module's state (R443). -/
def Block.logState (b : Block) (o : Origin) (p : Page) (off old new : Nat) : Block :=
  b.logAppend o LogKind.moduleState (addrOf p off) old new

/-! ## The write gate -/

/-- Do the block-specific words of a page exist: a core that is not fused off, a gang or group that is enabled
(chapter "Register pages and address map", under R472)? -/
def Block.present (b : Block) : Page → Bool
  | .sch (.core c) => b.coreOn c
  | .sem (.core c) => b.coreOn c
  | .darr c => b.coreOn c
  | .drn c => b.coreOn c
  | .drl c => b.coreOn c
  | .fet c => b.coreOn c
  | .sch (.gang t g) => wbit (b.rd (.tile t) (Reg.TILE_GANG_DEF g.val)) 31
  | .sem (.gang t g) => wbit (b.rd (.tile t) (Reg.TILE_GANG_DEF g.val)) 31
  | .sch .group => wbit (b.rd .pel Reg.PEL_GROUP) 31
  | .sem .group => wbit (b.rd .pel Reg.PEL_GROUP) 31
  | _ => true

/-- Registers that keep a write on an absent instance: AZN_CFG and the seeds of a unit, HBC_CFG of a stack, out of service. -/
def Block.writable (b : Block) (p : Page) (off : Nat) : Bool := decide (off < 0x040) || b.present p

/-- May the origin write a page of the mailbox (R425)? -/
def originFits : Origin → Page → Bool
  | .host, .mbx i => i == 0
  | .mgmt, .mbx i => i == 1
  | _, _ => true

/-- Does the lock of a page stop a write of this origin to a logged field (R474)? DEDUCED (notes/assumptions/13.md). -/
def Block.locked (b : Block) (o : Origin) (p : Page) : Bool :=
  let l := b.rd p Reg.LOCK
  wbit l 31 && match o with
    | .host => !wbit l 0
    | .mgmt => !wbit l 1
    | _ => false

/-- Is the origin one that locks and the strict log bind? -/
def isOutside : Origin → Bool
  | .host => true
  | .mgmt => true
  | _ => false

/-- Is a register's change logged (R443)? LOCK is on every page, those of the mailbox included (R475). -/
def loggedReg (p : Page) (off : Nat) : Bool :=
  match regAt? p off with
  | some r => r.logged && (match p with | .mbx _ => decide (off = Reg.LOCK) | _ => true)
  | none => false

/-- What an audit entry of a register write says: nothing, a REG_WRITE when the word changed, a REG_WRITE of a write-only
command, a TABLE_CHANGE with its OLD and NEW, a RESET with its kind, or an entry that the command makes when it ends. -/
inductive Entry where
  | none
  | change
  | command (v : Word)
  | table (old new : Nat)
  | reset (kind : Nat)
  | deferred
  deriving DecidableEq, Repr

/-- Is the log full while STRICT is set (R448)? -/
def Block.strictFull (b : Block) : Bool := decide (logSize ≤ b.log.entries.length) && wbit (b.rd .log Reg.LOG_CTL) 0

/-- A change of a word that enters the configuration digest makes its recomputation due (R356). -/
def Block.noteDigest (b old : Block) (k : Nat) : Block :=
  if digestOffsets.contains k ∧ b.reg k ≠ old.reg k then b.wrBit .pel Reg.PEL_DIGEST_STAT 31 true else b

/-- A register write through the gate: ignored where the register does not exist, refused by origin, lock or a full strict log,
and otherwise the effect with its entry. The answer says whether it was refused (R450). DEDUCED (notes/assumptions/13.md). -/
def Block.gated (b : Block) (o : Origin) (p : Page) (off : Nat) (en : Entry) (eff : Block → Block) : Block × Bool :=
  if !b.writable p off then (b, false)
  else if !originFits o p then (b, true)
  else if loggedReg p off && isOutside o && b.locked o p then
    (b.post Ev.REG_LOCKED p (addrOf p off + 2 ^ 32 * o.code), true)
  else
    let b' := (eff b).noteDigest b (addrOf p off)
    let old := b.rdN p off
    let new := b'.rdN p off
    let strict := isOutside o && loggedReg p off && b.strictFull
    let put := fun (k x y : Nat) => if strict then (b, true) else (b'.logAppend o k (addrOf p off) x y, false)
    match en with
    | .none => (b', false)
    | .deferred => if strict then (b, true) else (b', false)
    | .change => if old = new ∨ !loggedReg p off then (b', false) else put LogKind.regWrite old new
    | .command v => if loggedReg p off then put LogKind.regWrite 0 v.toNat else (b', false)
    | .table x y => put LogKind.tableChange x y
    | .reset k => put LogKind.reset 0 k

/-- The module after a register write through the gate. DEDUCED (notes/assumptions/13.md). -/
def Block.gate (b : Block) (o : Origin) (p : Page) (off : Nat) (en : Entry) (eff : Block → Block) : Block :=
  (b.gated o p off en eff).1

/-- The word a field write leaves (R18, R19): RW and RWS bits take the written value, W1C bits are cleared by a 1, RO and
reserved bits keep theirs; a WO register reads as before.
DEDUCED (notes/assumptions/39.md). DEDUCED (notes/assumptions/42.md). -/
def fieldWrite (r : RegDef) (p : Page) (off : Nat) (old v : Word) : Word :=
  let m := BitVec.ofNat 32 r.mask
  match r.acc with
  | .rw => (old &&& ~~~m) ||| (storedAs p off (v &&& m) &&& m)
  | .rws => (old &&& ~~~m) ||| (storedAs p off (v &&& m) &&& m)
  | .w1c => old &&& ~~~(v &&& m)
  | _ => old

/-- Write the fields of a register by its access codes alone. -/
def Block.writeFields (b : Block) (p : Page) (off : Nat) (v : Word) : Block :=
  match regAt? p off with
  | some r => b.wr p off (fieldWrite r p off (b.rd p off) v)
  | none => b

/-! ## LOCK (R474, R475) -/

/-- The word that a write of LOCK leaves: as written while unlocked; while locked, an outside write may only clear OPEN bits.
DEDUCED (notes/assumptions/13.md). -/
def lockWord (o : Origin) (old v : Word) : Word :=
  let w := v &&& 0x80000003
  if isOutside o && wbit old 31 then old &&& (w ||| 0x80000000) else w

/-- A write of LOCK, with the answer whether it was refused. A write of a locked page by an origin whose OPEN bit is 0 that asks for a
change and gets none is an ignored write (R474); of other writes R475 ignores parts. DEDUCED (notes/assumptions/13.md). -/
def Block.lockGated (b : Block) (o : Origin) (p : Page) (v : Word) : Block × Bool :=
  let old := b.rd p Reg.LOCK
  let new := lockWord o old v
  if !originFits o p then (b, true)
  else if new = old then
    if b.locked o p ∧ (v &&& 0x80000003) ≠ old then
      (b.post Ev.REG_LOCKED p (addrOf p Reg.LOCK + 2 ^ 32 * o.code), true)
    else (b, false)
  else if isOutside o && b.strictFull then (b, true)
  else ((b.wr p Reg.LOCK new).logAppend o LogKind.regWrite (addrOf p Reg.LOCK) old.toNat new.toNat, false)

/-- LOCK_WRITE (R475). -/
def execLockWrite (o : Origin) (p : Page) (v : Word) (s : State) : Host.Outcome State Fault Refusal :=
  s.onWrite o (fun b => (b.lockGated o p v).1)

/-! ## Commands of the LOG page -/

/-- LOG_DATA0 to LOG_DATA15 show 64 bytes (R447). -/
def Block.showEntry (b : Block) (l : List Byte) : Block :=
  (List.range 16).foldl (fun a i => a.wrN .log (Reg.LOG_DATA i) (rdLE l (4 * i) 4)) b

/-- The effect of a write of LOG_ACK: the low word is stored, the high word discards every held entry up to SEQ, and an entry that LOG_DATA
shows then reads as zeros if it is one of them (R447). -/
def Block.ackWrite (b : Block) (hi : Bool) (v : Word) : Block :=
  if hi then
    let b := b.wr .log (Reg.LOG_ACK + 4) v
    let s := b.rd64 .log Reg.LOG_ACK
    let b := { b with log := { b.log with entries := b.log.entries.filter (fun e => decide (s < e.seq)) } }.syncLog
    if b.rd64 .log (Reg.LOG_DATA 0) ≤ s then b.showEntry (List.replicate 64 0) else b
  else b.wr .log Reg.LOG_ACK v

/-- Discard acknowledged entries. -/
def logAckWrite (o : Origin) (hi : Bool) (v : Word) (b : Block) : Block :=
  b.gate o .log (Reg.LOG_ACK + if hi then 4 else 0) .none (fun x => x.ackWrite hi v)

/-- LOG_ACK_WRITE (R447). -/
def execLogAckWrite (o : Origin) (hi : Bool) (v : Word) (s : State) : Host.Outcome State Fault Refusal :=
  s.onWrite o (logAckWrite o hi v)

/-- The effect of a write of LOG_RD_SEQ: the high word shows the held entry, zeros where none is held (R447). -/
def Block.rdSeqWrite (b : Block) (hi : Bool) (v : Word) : Block :=
  if hi then
    let b := b.wr .log (Reg.LOG_RD_SEQ + 4) v
    let s := b.rd64 .log Reg.LOG_RD_SEQ
    let l := match b.log.entries.find? (fun e => e.seq == s) with
      | some e => e.bytes
      | none => List.replicate 64 0
    b.showEntry l
  else b.wr .log Reg.LOG_RD_SEQ v

/-- Show a held entry. -/
def logRdSeqWrite (o : Origin) (hi : Bool) (v : Word) (b : Block) : Block :=
  b.gate o .log (Reg.LOG_RD_SEQ + if hi then 4 else 0) .none (fun x => x.rdSeqWrite hi v)

/-- LOG_RD_SEQ_WRITE (R447). -/
def execLogRdSeqWrite (o : Origin) (hi : Bool) (v : Word) (s : State) : Host.Outcome State Fault Refusal :=
  s.onWrite o (logRdSeqWrite o hi v)

/-- A write of 1 to bit 0 of a clear register clears 64-bit counters of its page. -/
def Block.clearOn (b : Block) (v : Word) (p : Page) (offs : List Nat) : Block :=
  if wbit v 0 then b.clear64 p offs else b

/-- Clear LOG_DROPPED. -/
def logCntClr (o : Origin) (v : Word) (b : Block) : Block :=
  b.gate o .log Reg.LOG_CNT_CLR .none (fun x => x.clearOn v .log [Reg.LOG_DROPPED])

/-- LOG_CNT_CLR (R448): LOG_DROPPED returns to 0; the entries dropped still show in the next GAP entry. -/
def execLogCntClr (o : Origin) (v : Word) (s : State) : Host.Outcome State Fault Refusal := s.onWrite o (logCntClr o v)

end Sys2Proof.Machine
end

