-- ==== Sys2Proof/Machine/Net.lean ====
section
/-! DEFINITION. The package network (R26 to R34, R473): the fixed path of a transfer, replays, links that go down. -/

namespace Sys2Proof.Machine

open Sys2Proof

/-- A die of the package: 0 to 15 the tiles, 16 to 35 the stacks, 36 the west port die, 37 the east port die. -/
abbrev Die := Nat

/-- A link as its receiving end has it: the die reached, the page that counts its replays and the number there (R473). -/
structure Hop where
  die : Die
  page : Page
  link : Nat
  deriving DecidableEq, Repr

/-- Gateway tile of a stack that has a tile link, with the side of the tile the stack lies on: 0 north, 1 east, 2 south, 3 west
(R28). -/
def gateway : Nat → Option (Nat × Nat)
  | 1 => some (0, 0) | 2 => some (1, 0) | 3 => some (2, 0) | 4 => some (3, 0)
  | 6 => some (3, 1) | 7 => some (7, 1) | 8 => some (11, 1) | 9 => some (15, 1)
  | 11 => some (15, 2) | 12 => some (14, 2) | 13 => some (13, 2) | 14 => some (12, 2)
  | 16 => some (12, 3) | 17 => some (8, 3) | 18 => some (4, 3) | 19 => some (0, 3)
  | _ => none

/-- A tile by number. -/
def tileFin (t : Nat) : Fin 16 := ⟨t % 16, by omega⟩

/-- Entering a tile over one of its links. -/
def hopTile (t side : Nat) : Hop := ⟨t % 16, .tile (tileFin t), side⟩

/-- Entering a stack over its tile link (0), a spur (1) or the port-die link (2). -/
def hopStack (s k : Nat) : Hop := ⟨16 + s % 20, .hbc ⟨s % 20, by omega⟩, k⟩

/-- Entering a port die from a stack: counted on the stack's page. -/
def hopPort (s : Nat) (west : Bool) : Hop := ⟨if west then 36 else 37, .hbc ⟨s % 20, by omega⟩, 3⟩

/-- Hops along a row of tiles and then along a column (R29). -/
def meshHops (a z : Nat) : List Hop :=
  let x := a % 4
  let y := a / 4
  let u := z % 4
  let v := z / 4
  (if x ≤ u then (List.range (u - x)).map (fun i => hopTile (4 * y + x + i + 1) 3)
   else (List.range (x - u)).map (fun i => hopTile (4 * y + x - i - 1) 1)) ++
  (if y ≤ v then (List.range (v - y)).map (fun i => hopTile (4 * (y + i + 1) + u) 0)
   else (List.range (y - v)).map (fun i => hopTile (4 * (y - i - 1) + u) 2))

/-- From a stack into the mesh: the hops and the gateway tile. -/
def fromStack (s : Nat) : List Hop × Nat :=
  match gateway s with
  | some (t, side) => ([hopTile t side], t)
  | none => match gateway (s + 1) with
    | some (t, side) => ([hopStack (s + 1) 1, hopTile t side], t)
    | none => ([], 0)

/-- From the mesh to a stack: the gateway tile and the hops. -/
def toStack (s : Nat) : Nat × List Hop :=
  match gateway s with
  | some (t, _) => (t, [hopStack s 0])
  | none => match gateway (s + 1) with
    | some (t, _) => (t, [hopStack (s + 1) 0, hopStack s 1])
    | none => (0, [])

/-- The attachment stack of a port die for a mesh path whose other end is tile `t` (R29). -/
def attach (west : Bool) (t : Nat) : Nat := if west then (if t < 8 then 18 else 17) else (if t < 8 then 7 else 8)

/-- The tile at a die's end of a mesh path. -/
def meshEnd (d : Die) : Nat := if d < 16 then d else if d < 36 then (toStack (d - 16)).1 else 0

/-- The links of a transfer in order (R29). The path ends where it first reaches its destination.
DEDUCED (notes/assumptions/44.md). -/
def path (src dst : Die) : List Hop :=
  let start : List Hop × Nat :=
    if src < 16 then ([], src)
    else if src < 36 then fromStack (src - 16)
    else
      let a := if 36 ≤ dst then (if src = 36 then 18 else 8) else attach (src == 36) (meshEnd dst)
      let f := fromStack a
      (hopStack a 2 :: f.1, f.2)
  let stop : Nat × List Hop :=
    if dst < 16 then (dst, [])
    else if dst < 36 then toStack (dst - 16)
    else
      let a := if 36 ≤ src then (if src = 36 then 7 else 17) else attach (dst == 36) start.2
      let f := toStack a
      (f.1, f.2 ++ [hopPort a (dst == 36)])
  let l := start.1 ++ meshHops start.2 stop.1 ++ stop.2
  if src = dst then [] else (l.takeWhile (fun h => h.die != dst)) ++ ((l.dropWhile (fun h => h.die != dst)).take 1)

/-- The link by which a stack and its port die, or a tile and a neighbour, see each other's flits: the other end of a hop. -/
def farEnd (p : Page) (k : Nat) : Option (Page × Nat) :=
  let stackOf := fun (t side : Nat) => (List.range 20).find? (fun s => gateway s == some (t, side))
  match p with
  | .tile t =>
    let x := t.val % 4
    let y := t.val / 4
    let inside := fun (n side : Nat) => some (Page.tile (tileFin n), side)
    let edge := (stackOf t.val k).map (fun s => (Page.hbc (stackOf' s), 0))
    match k with
    | 0 => if y = 0 then edge else inside (t.val - 4) 2
    | 1 => if x = 3 then edge else inside (t.val + 1) 3
    | 2 => if y = 3 then edge else inside (t.val + 4) 0
    | _ => if x = 0 then edge else inside (t.val - 1) 1
  | .hbc s => match k with
    | 0 => (gateway s.val).map (fun g => (Page.tile (tileFin g.1), g.2))
    | 1 => if (gateway s.val).isNone then some (.hbc (stackOf' (s.val + 1)), 1) else some (.hbc (stackOf' (s.val + 19)), 1)
    | 2 => some (.hbc s, 3)
    | _ => some (.hbc s, 2)
  | _ => none
where
  /-- A stack by number. -/
  stackOf' (n : Nat) : Fin 20 := ⟨n % 20, by omega⟩

/-- Offset of the replay counter of a link on its page. DEDUCED (notes/assumptions/44.md). -/
def replayOff (p : Page) (k : Nat) : Nat :=
  match p with
  | .tile _ => Reg.TILE_LINK_REPLAY k
  | _ => Reg.HBC_LINK_REPLAY k

/-- Key of a link. -/
def linkKey (p : Page) (k : Nat) : Nat := pageIndex p * 4 + k

/-- Is a link down? -/
def Block.linkDown (b : Block) (p : Page) (k : Nat) : Bool := b.net.down.contains (pageIndex p, k)

/-- Does every link between two dies carry traffic (R34)? -/
def Block.joined (b : Block) (src dst : Die) : Bool := (path src dst).all (fun h => !b.linkDown h.page h.link)

/-- Is a waiting transfer one of this source, destination and class? -/
def Transfer.like (t w : Transfer) : Bool := w.src == t.src && w.dst == t.dst && w.cls == t.cls

/-- Place of an input in a round-robin turn that begins after the input served last (0 none, 1 + input). -/
def turnOf (last x : Nat) : Nat := if last ≤ x then x else x + 2 ^ 20

/-- Does a transfer that comes by an input lose a link to one that waits there (R32): a CTL flit goes first, REQ and RSP take turns,
each class is served round-robin over the inputs, and one buffer keeps its order? -/
def NetSt.loses (n : NetSt) (key : Nat) (t : Transfer) : Bool :=
  let l := n.waiting.filter (fun w => w.at_ == key)
  let last := Sparse.get (fun _ => 0) n.served (key * 3 + t.cls)
  (t.cls != 2 && l.any (fun w => w.cls == 2)) ||
    (t.cls != 2 && l.any (fun w => w.cls != 2 && w.cls != t.cls) && Sparse.get (fun _ => 0) n.turn key == t.cls + 1) ||
    l.any (fun w => w.cls == t.cls && (w.from_ == t.from_ || decide (turnOf last w.from_ < turnOf last t.from_)))

/-- A flit of a class has crossed a link from an input. -/
def NetSt.passed (n : NetSt) (key : Nat) (t : Transfer) : NetSt :=
  { n with served := Sparse.put (fun _ => 0) n.served (key * 3 + t.cls) (t.from_ + 1)
           turn := if t.cls = 2 then n.turn else Sparse.put (fun _ => 0) n.turn key (t.cls + 1) }

/-- A transfer goes over links in order until one is down, lost to another transfer, or the one where its flit fails: the network, and
the transfer as it waits there with whether it failed; nothing waits where it was delivered. -/
def Block.cross (b : Block) (bad : Option Nat) : List Hop → NetSt → Transfer → NetSt × Option (Transfer × Bool)
  | [], n, _ => (n, none)
  | h :: rest, n, t =>
    let key := linkKey h.page h.link
    let t := if t.at_ = key then t else { t with at_ := key, fails := 0 }
    if b.linkDown h.page h.link ∨ n.loses key t then (n, some (t, false))
    else if bad = some key then (n, some (t, true))
    else b.cross bad rest (n.passed key t) { t with from_ := key }

/-- Put a transfer back: in its place where it waits at the link it waited at, otherwise last. -/
def NetSt.keep (n : NetSt) (before : Option Transfer) (t : Transfer) (whole : List Transfer) : NetSt :=
  match before with
  | some w => if w.at_ = t.at_ then { n with waiting := whole.map (fun x => if x = w then t else x) } else { n with waiting := n.waiting ++ [t] }
  | none => { n with waiting := n.waiting ++ [t] }

/-- A transfer crosses the network on its path, the oldest that waits of its source, destination and class before a new one (R33). One whose
flit fails its CRC is replayed at that link and counted (R34), and one that a failed link or other traffic stops waits there; routing
never goes round a failed link. DEDUCED (notes/assumptions/44.md). -/
def pkgnetTransfer (src dst : Fin 38) (what : Traffic) (crcFail : Option (Page × Fin 4)) (b : Block) : Block :=
  let l := path src.val dst.val
  let new : Transfer := { src := src.val, dst := dst.val, cls := what.cls, at_ := 0, from_ := src.val, fails := 0 }
  let old := b.net.waiting.find? new.like
  let rest := b.net.waiting.eraseP new.like
  let todo := match old with
    | some w => l.dropWhile (fun h => linkKey h.page h.link != w.at_)
    | none => l
  let r := b.cross (crcFail.map (fun x => linkKey x.1 x.2.val)) todo { b.net with waiting := rest } (old.getD new)
  match r.2 with
  | none => { b with net := { r.1 with last := [src.val, dst.val, what.cls, l.length] } }
  | some (t, false) => { b with net := r.1.keep old t b.net.waiting }
  | some (t, true) =>
    if 16 ≤ t.fails then { b with net := r.1.keep old t b.net.waiting }
    else
      let b' := { b with net := r.1.keep old { t with fails := t.fails + 1 } b.net.waiting }
      match crcFail with
      | some (p, k) => b'.count p (replayOff p k.val) 1
      | none => b'

/-- PKGNET_TRANSFER (R29 to R34). -/
def execPkgnetTransfer (src dst : Fin 38) (what : Traffic) (crcFail : Option (Page × Fin 4)) (s : State) :
    Host.Outcome State Fault Refusal := s.onBlock (pkgnetTransfer src dst what crcFail)

/-- A link goes down when one flit has failed sixteen replays in a row (R34), both ways. DEDUCED (notes/assumptions/44.md). -/
def pkgnetLinkDown (p : Page) (k : Fin 4) (b : Block) : Block :=
  if !b.net.waiting.any (fun t => t.at_ == linkKey p k.val && decide (16 ≤ t.fails)) ∨ b.linkDown p k.val then b
  else
    let ends := (pageIndex p, k.val) :: match farEnd p k.val with
      | some (q, j) => [(pageIndex q, j)]
      | none => []
    let b := { b with net := { b.net with down := b.net.down ++ ends } }
    (b.logState .self p (replayOff p k.val) 0 1).post Ev.PKGNET_LINK_DOWN p 0

/-- PKGNET_LINK_DOWN (R34). -/
def execPkgnetLinkDown (p : Page) (k : Fin 4) (s : State) : Host.Outcome State Fault Refusal := s.onBlock (pkgnetLinkDown p k)

/-- Clear the replay counters of a tile. -/
def tileLinkCntClr (o : Origin) (t : Fin 16) (v : Word) (b : Block) : Block :=
  b.gate o (.tile t) Reg.TILE_LINK_CNT_CLR .none (fun x => x.clearOn v (.tile t) ((List.range 4).map Reg.TILE_LINK_REPLAY))

/-- TILE_LINK_CNT_CLR (R473). -/
def execTileLinkCntClr (o : Origin) (t : Fin 16) (v : Word) (s : State) : Host.Outcome State Fault Refusal :=
  s.onWrite o (tileLinkCntClr o t v)

/-- Clear the replay counters of a stack. -/
def hbcLinkCntClr (o : Origin) (st : Fin 20) (v : Word) (b : Block) : Block :=
  b.gate o (.hbc st) Reg.HBC_LINK_CNT_CLR .none (fun x => x.clearOn v (.hbc st) ((List.range 4).map Reg.HBC_LINK_REPLAY))

/-- HBC_LINK_CNT_CLR (R473). -/
def execHbcLinkCntClr (o : Origin) (st : Fin 20) (v : Word) (s : State) : Host.Outcome State Fault Refusal :=
  s.onWrite o (hbcLinkCntClr o st v)

end Sys2Proof.Machine
end

