-- ==== Sys2Proof/Machine/Tensor.lean ====
section
/-! DEFINITION. Tensor descriptors and block-list entries (R79 to R92, R101 to R103): their fields, where the elements of a row
lie, reading and writing elements in every format and layout. -/

namespace Sys2Proof.Machine

open Sys2Proof

/-- A tensor descriptor (R87). `rsv` is true when a reserved bit or byte is not 0. -/
structure Desc where
  format : Nat
  layout : Nat
  scaleMode : Nat
  flags : Nat
  gen : Nat
  base : Nat
  scaleBase : Nat
  d0 : Nat
  d1 : Nat
  d2 : Nat
  d3 : Nat
  s1 : Nat
  s2 : Nat
  s3 : Nat
  tscale : Nat
  shardFirst : Nat
  shardSplit : Nat
  rsv : Bool
  deriving DecidableEq, Repr

/-- The descriptor in 64 bytes (R87). -/
def Desc.ofBytes (l : List Byte) : Desc :=
  let n := rdLE l
  { format := n 0 1, layout := n 1 1 % 4, scaleMode := n 1 1 / 4 % 4, flags := n 2 2, gen := n 4 2, base := n 8 8,
    scaleBase := n 0x10 8, d0 := n 0x18 4, d1 := n 0x1C 4, d2 := n 0x20 4, d3 := n 0x24 4, s1 := n 0x28 4, s2 := n 0x2C 4,
    s3 := n 0x30 4, tscale := n 0x34 4, shardFirst := n 0x38 4 % 2 ^ 17, shardSplit := n 0x3C 4,
    rsv := decide (n 1 1 / 16 ≠ 0) || decide (n 2 2 / 2 ^ 7 ≠ 0) || bit (n 2 2) 1 || decide (n 6 2 ≠ 0) ||
      decide (n 0x38 4 / 2 ^ 17 ≠ 0) }

/-- READ_ONLY (R87). -/
def Desc.readOnly (d : Desc) : Bool := bit d.flags 6
/-- INDEX_FAULT. -/
def Desc.indexFault (d : Desc) : Bool := bit d.flags 5
/-- ALLOW_NEWER. -/
def Desc.allowNewer (d : Desc) : Bool := bit d.flags 4
/-- IN_PLACE. -/
def Desc.inPlace (d : Desc) : Bool := bit d.flags 3
/-- TRACKED. -/
def Desc.tracked (d : Desc) : Bool := bit d.flags 2
/-- GLOBAL. -/
def Desc.isGlobal (d : Desc) : Bool := bit d.flags 0
/-- MX block scaling (R77). -/
def Desc.mx (d : Desc) : Bool := d.scaleMode == 2
/-- Channel-vector bytes. -/
def Desc.vb (d : Desc) : Nat := vecBytes d.format
/-- Element bytes. -/
def Desc.eb (d : Desc) : Nat := elemBytes d.format
/-- Channel vectors of a row (R79). -/
def Desc.v0 (d : Desc) : Nat := ceilDiv d.d0 32
/-- Flattened rows (chapter 3, block-list entry). -/
def Desc.rows (d : Desc) : Nat := d.d1 * d.d2 * d.d3
/-- All four extents. -/
def Desc.extents (d : Desc) : List Nat := [d.d0, d.d1, d.d2, d.d3]

/-- The footprint in bytes (R88). -/
def Desc.footprint (d : Desc) : Nat :=
  if d.d0 = 0 ∨ d.rows = 0 then 0
  else
    let outer := (d.d1 - 1) * d.s1 + (d.d2 - 1) * d.s2 + (d.d3 - 1) * d.s3
    if d.layout = 0 then d.vb * (outer + d.v0) else d.eb * (outer + d.d0)

/-- Bytes of the scale plane (R90). -/
def Desc.planeLen (d : Desc) : Nat := if d.mx ∧ d.vb ≠ 0 then d.footprint / d.vb else 0

/-- The stride units before flattened row `r` (R79, R91). -/
def Desc.rowUnits (d : Desc) (r : Nat) : Nat :=
  let i1 := r % d.d1
  let i2 := r / d.d1 % d.d2
  let i3 := r / d.d1 / d.d2
  i1 * d.s1 + i2 * d.s2 + i3 * d.s3

/-- Address of channel vector `v` of a row (R79). -/
def Desc.vecAddr (d : Desc) (r v : Nat) : Nat := d.base + d.vb * (d.rowUnits r + v)

/-- Address of the scale byte of channel vector `v` of a row (R82). -/
def Desc.scaleAddr (d : Desc) (r v : Nat) : Nat := d.scaleBase + d.rowUnits r + v

/-- Address of element `c` of a row in the packed layout (R85). -/
def Desc.elemAddr (d : Desc) (r c : Nat) : Nat := d.base + d.eb * (c + d.rowUnits r)

/-- The code of element `k` of a channel vector's bytes (R81, R83, R84). -/
def vecCode (fmt : Nat) (l : List Byte) (k : Nat) : Nat :=
  let nib := fun (o : Nat) => (l.getD (o + k / 2) 0).toNat / 2 ^ (4 * (k % 2)) % 16
  match elemBits fmt with
  | 4 => nib 0
  | 6 => nib 0 + 16 * ((l.getD (16 + k / 4) 0).toNat / 2 ^ (2 * (k % 4)) % 4)
  | n => rdLE l (k * (n / 8)) (n / 8)

/-- The bytes of a channel vector with the given 32 codes (R81, R83, R84). -/
def vecBytesOf (fmt : Nat) (codes : List Nat) : List Byte :=
  let c := fun k => codes.getD k 0
  let low := (List.range 16).map (fun j => BitVec.ofNat 8 (c (2 * j) % 16 + 16 * (c (2 * j + 1) % 16)))
  match elemBits fmt with
  | 4 => low
  | 6 => low ++ (List.range 8).map (fun j => BitVec.ofNat 8
      ((List.range 4).foldl (fun a q => a + c (4 * j + q) / 16 % 4 * 4 ^ q) 0))
  | n => (List.range 32).flatMap (fun k => toBytes (n / 8) (c k))

/-- How bytes are read: the bytes at an address. -/
abbrev Reader := Nat → Nat → List Byte

/-- The codes of `n` elements of a row from column `c`; pad elements and what lies past D0 read as zero codes (R80). -/
def Desc.codes (d : Desc) (rd : Reader) (r c n : Nat) : List Nat :=
  if d.layout = 0 then
    (pieces 32 c n).flatMap (fun p =>
      let l := rd (d.vecAddr r (p.1 / 32)) d.vb
      (List.range p.2).map (fun i => if p.1 + i < d.d0 then vecCode d.format l ((p.1 + i) % 32) else 0))
  else
    let l := rd (d.elemAddr r c) (d.eb * n)
    (List.range n).map (fun i => if c + i < d.d0 then rdLE l (i * d.eb) d.eb else 0)

/-- The scale byte of the block of 32 that holds column `c` of a row, under MX. -/
def Desc.scaleByte (d : Desc) (rd : Reader) (r c : Nat) : Nat := rdLE (rd (d.scaleAddr r (c / 32)) 1) 0 1

/-- The value of a code with its block scale and TENSOR_SCALE (R77, R78). -/
def Desc.value (d : Desc) (code scale : Nat) : Num :=
  match d.scaleMode with
  | 2 => ofMx d.format code scale
  | 1 => (ofFormat d.format code).mul (ofFormat 1 d.tscale)
  | _ => ofFormat d.format code

/-- The values of `n` elements of a row from column `c`; pad elements are zero (R80). -/
def Desc.values (d : Desc) (rd : Reader) (r c n : Nat) : List Num :=
  let cs := d.codes rd r c n
  cs.zipIdx.map (fun p => if c + p.2 < d.d0 then d.value p.1 (if d.mx then d.scaleByte rd r (c + p.2) else 0) else Num.zero)

/-- The writes that set `codes` at columns `c` onwards of a row: exact element bytes and the pads of the last channel vector
for formats of 8 bits and wider, whole channel vectors for the narrow formats (R80, R83, R84). -/
def Desc.putCodes (d : Desc) (rd : Reader) (r c : Nat) (codes : List Nat) : List (Nat × List Byte) :=
  if d.layout = 1 then [(d.elemAddr r c, codes.flatMap (fun x => toBytes d.eb x))]
  else
    (pieces 32 c codes.length).map (fun p =>
      let v := p.1 / 32
      let new := (codes.drop (p.1 - c)).take p.2
      let o := p.1 % 32
      let last := decide (p.1 + p.2 = d.d0)
      if 8 ≤ elemBits d.format then
        (d.vecAddr r v + o * d.eb,
          new.flatMap (fun x => toBytes d.eb x) ++
            if last then List.replicate ((32 - (o + p.2)) * d.eb) 0 else [])
      else
        let old := rd (d.vecAddr r v) d.vb
        (d.vecAddr r v, vecBytesOf d.format ((List.range 32).map (fun k =>
          if o ≤ k ∧ k < o + p.2 then new.getD (k - o) 0
          else if 32 * v + k < d.d0 then vecCode d.format old k else 0))))

/-- The write of the scale bytes of the blocks from column `c` of a row. -/
def Desc.putScales (d : Desc) (r c : Nat) (scales : List Nat) : List (Nat × List Byte) :=
  if d.mx then [(d.scaleAddr r (c / 32), scales.flatMap (fun x => toBytes 1 x))] else []

/-- Byte range of a descriptor's data, and of its scale plane. -/
def Desc.ranges (d : Desc) : List (Nat × Nat) :=
  if d.isGlobal then [] else [(d.base, d.footprint)] ++ if d.mx then [(d.scaleBase, d.planeLen)] else []

/-- Do two byte ranges share a byte? -/
def rangesMeet (a b : Nat × Nat) : Bool :=
  decide (0 < a.2) && decide (0 < b.2) && decide (a.1 < b.1 + b.2) && decide (b.1 < a.1 + a.2)

/-- Do two descriptors share a byte, footprints and scale planes all compared? -/
def Desc.sharesByte (x y : Desc) : Bool := x.ranges.any (fun p => y.ranges.any (fun q => rangesMeet p q))

/-- Do their footprints, or either footprint and the other's scale plane, share a byte (R248)? -/
def Desc.overlaps (x y : Desc) : Bool :=
  (x.ranges.take 1).any (fun p => y.ranges.any (fun q => rangesMeet p q)) ||
    (y.ranges.take 1).any (fun q => x.ranges.any (fun p => rangesMeet p q))

/-- A block-list entry (R91). -/
structure Entry32 where
  rowStart : Nat
  rowCount : Nat
  colStart : Nat
  colCount : Nat
  src : Nat
  flags : Nat
  deadline : Nat
  kind : List Byte
  rsv : Bool
  deriving DecidableEq, Repr

/-- The entry in 32 bytes. -/
def Entry32.ofBytes (l : List Byte) : Entry32 :=
  let n := rdLE l
  { rowStart := n 0 4, rowCount := n 4 4, colStart := n 8 4, colCount := n 12 4, src := n 0x10 1 % 4, flags := n 0x11 1,
    deadline := n 0x12 2, kind := (l.drop 0x14).take 12, rsv := decide (n 0x10 1 / 4 ≠ 0) }

/-- A kind-specific number of an entry, at offset `o` of its KIND_PARAMS. -/
def Entry32.param (e : Entry32) (o n : Nat) : Nat := rdLE e.kind o n

/-- Does the entry name no element? -/
def Entry32.empty (e : Entry32) : Bool := e.rowCount == 0 || e.colCount == 0

/-- PAGE_IN_OK (R91). -/
def Entry32.pageInOk (e : Entry32) : Bool := bit e.flags 0

/-! ## Global tensors (R101 to R103) -/

/-- Shards along dimension `i` (R101). -/
def Desc.shards (d : Desc) (i : Nat) : Nat := d.shardSplit / 256 ^ i % 256 + 1

/-- Extent of a shard along dimension `i` (R101). -/
def Desc.shardExtent (d : Desc) (i : Nat) : Nat := ceilDiv (d.extents.getD i 0) (d.shards i)

/-- Coordinates of element (row `r`, column `c`). -/
def Desc.coords (d : Desc) (r c : Nat) : List Nat := [c, r % d.d1, r / d.d1 % d.d2, r / d.d1 / d.d2]

/-- Map entry of the shard with the given shard coordinates (R102). -/
def Desc.mapIndex (d : Desc) (sc : List Nat) : Nat :=
  d.shardFirst + sc.getD 0 0 + d.shards 0 * (sc.getD 1 0 + d.shards 1 * (sc.getD 2 0 + d.shards 2 * sc.getD 3 0))

/-- Shard coordinates of an element. -/
def Desc.shardCoords (d : Desc) (r c : Nat) : List Nat :=
  (d.coords r c).zipIdx.map (fun p => p.1 / max 1 (d.shardExtent p.2))

/-- The last row of an entry. -/
def Entry32.lastRow (e : Entry32) : Nat := e.rowStart + e.rowCount - 1

/-- Does an entry lie within one shard along every dimension (R103)? Each row and the column range are compared with the shard
of the first element. -/
def Desc.withinShard (d : Desc) (e : Entry32) : Bool :=
  e.empty ||
    (let s := d.shardCoords e.rowStart e.colStart
     (List.range e.rowCount).all (fun i =>
       d.shardCoords (e.rowStart + i) e.colStart == s && d.shardCoords (e.rowStart + i) (e.colStart + e.colCount - 1) == s))

/-- The shard of an entry as a tensor of its own on its holder (R102): the descriptor with the given data address, no longer global. -/
def Desc.shardDesc (d : Desc) (sc : List Nat) (addr : Nat) : Desc :=
  let ext := fun i => min (d.shardExtent i) (d.extents.getD i 0 - sc.getD i 0 * d.shardExtent i)
  let x : Desc := { d with flags := d.flags / 2 * 2, base := addr, d0 := ext 0, d1 := ext 1, d2 := ext 2, d3 := ext 3, s1 := ceilDiv (ext 0) 32,
                           s2 := ext 1 * ceilDiv (ext 0) 32, s3 := ext 2 * (ext 1 * ceilDiv (ext 0) 32) }
  { x with scaleBase := if d.mx then roundUp (addr + x.footprint) 64 else 0 }

/-- An entry of a global tensor in the shard's own coordinates (R103). -/
def Desc.shardEntry (d : Desc) (e : Entry32) (sc : List Nat) (sd : Desc) : Entry32 :=
  let x := (d.coords e.rowStart e.colStart).zipIdx.map (fun p => p.1 - sc.getD p.2 0 * d.shardExtent p.2)
  { e with colStart := x.getD 0 0, rowStart := x.getD 1 0 + sd.d1 * (x.getD 2 0 + sd.d2 * x.getD 3 0) }

/-! ## Descriptors in memory -/

/-- Bytes of records: those that the running task keeps from before a validator wrote over them, and memory's (R100). -/
def Block.recBytes (b : Block) (a n : Nat) : List Byte :=
  if b.lens.isEmpty then b.bytes a n
  else (b.bytes a n).zipIdx.map (fun x => match b.lens.find? (fun p => p.1 == a + x.2) with
    | some p => p.2
    | none => x.1)

/-- The descriptor at an address. -/
def Block.desc (b : Block) (a : Nat) : Desc := Desc.ofBytes (b.recBytes a 64)

/-- The entry `i` of a block list. -/
def Block.entry (b : Block) (list i : Nat) : Entry32 := Entry32.ofBytes (b.recBytes (list + 32 * i) 32)

/-- Is a descriptor stale (R99): no allocation in force holds BASE, or the generation moved on? A global descriptor is not
compared. -/
def Block.stale (b : Block) (d : Desc) : Bool :=
  !d.isGlobal && (match b.allocAt d.base with
    | some v => v.freed || b.genAt d.base != d.gen
    | none => true)

/-- Apply a list of writes. -/
def Block.storeAll (b : Block) (l : List (Nat × List Byte)) : Block := l.foldl (fun a w => a.store w.1 w.2) b

/-- The module's own reader. -/
def Block.reader (b : Block) : Reader := fun a n => b.bytes a n

/-- Bytes an entry's block reads: for each row the ranges of its channel vectors, or packed elements, and its scale bytes. -/
def Desc.blockRanges (d : Desc) (e : Entry32) : List (Nat × Nat) :=
  if e.empty then []
  else (List.range e.rowCount).flatMap (fun i =>
    let r := e.rowStart + i
    if d.layout = 0 then
      let v := e.colStart / 32
      let n := ceilDiv (e.colStart + e.colCount) 32 - v
      [(d.vecAddr r v, n * d.vb)] ++ if d.mx then [(d.scaleAddr r v, n)] else []
    else [(d.elemAddr r e.colStart, d.eb * e.colCount)])

/-- Do the footprints of two tensors share a byte (R175, R202)? -/
def Desc.meets (x y : Desc) : Bool := (x.ranges.take 1).any (fun p => (y.ranges.take 1).any (fun q => rangesMeet p q))

/-- Byte ranges of columns `c` to `c + n - 1` of a row. -/
def Desc.spanRanges (d : Desc) (r c n : Nat) : List (Nat × Nat) :=
  if n = 0 then []
  else if d.layout = 0 then
    let v := c / 32
    let m := ceilDiv (c + n) 32 - v
    [(d.vecAddr r v, m * d.vb)] ++ if d.mx then [(d.scaleAddr r v, m)] else []
  else [(d.elemAddr r c, d.eb * n)]

/-- Element bytes of columns `c` to `c + n - 1` of a row; MX scale bytes, which take the scale path, left out (R113). -/
def Desc.spanBytes (d : Desc) (r c n : Nat) : Nat := (((d.spanRanges r c n).take 1).map (fun p => p.2)).sum

/-- Scale bytes of the blocks of columns `c` to `c + n - 1` of a row. -/
def Desc.scales (d : Desc) (rd : Reader) (r c n : Nat) : List Nat :=
  if d.mx ∧ n ≠ 0 then (List.range (ceilDiv (c + n) 32 - c / 32)).map (fun i => rdLE (rd (d.scaleAddr r (c / 32 + i)) 1) 0 1)
  else []

/-! ## Conversion (R158 to R161) -/

/-- Values of a row converted for a tensor: element codes, scale bytes of the channel vectors touched, and what the conversion
counts. -/
structure Conv where
  codes : List Nat
  scales : List Nat
  ovf : Nat
  vanish : Nat
  nanLost : Nat
  deriving DecidableEq, Repr

/-- Put two converted runs one after the other. -/
def Conv.append (x y : Conv) : Conv :=
  { codes := x.codes ++ y.codes, scales := x.scales ++ y.scales, ovf := x.ovf + y.ovf, vanish := x.vanish + y.vanish,
    nanLost := x.nanLost + y.nanLost }

/-- Nothing converted. -/
def Conv.empty : Conv := { codes := [], scales := [], ovf := 0, vanish := 0, nanLost := 0 }

/-- Convert one block of a channel vector under its scale byte: all zeros and no count under 0xFF (R160). -/
def convBlock (fmt e : Nat) (vals : List (Num × Rounding)) (ovfInf : Bool) : Conv :=
  if e = 0xFF then { Conv.empty with codes := vals.map (fun _ => 0), scales := [e] }
  else
    let l := vals.map (fun v => toFormat fmt v.2 ovfInf (v.1.shift (127 - (e : Int) + if fmt = 8 then 6 else 0)))
    { codes := l.map (fun x => x.code), scales := [e], ovf := (l.filter (fun x => x.overflow)).length,
      vanish := (l.filter (fun x => x.vanish)).length, nanLost := (l.filter (fun x => x.nanLost)).length }

/-- Convert values of a row from column `c` on for a tensor: divided by TENSOR_SCALE exactly, or under MX block by block with the
scale byte of R161 chosen from the block's values, or as they are. -/
def Desc.convert (d : Desc) (c : Nat) (vals : List (Num × Rounding)) (ovfInf : Bool) : Conv :=
  if d.mx then
    ((pieces 32 c vals.length).map (fun p =>
      let blk := (vals.drop (p.1 - c)).take p.2
      convBlock d.format (mxScale d.format (blk.map (fun v => v.1))) blk ovfInf)).foldl Conv.append Conv.empty
  else
    let l := vals.map (fun v => toFormat d.format v.2 ovfInf
      (if d.scaleMode = 1 then v.1.div (ofFormat 1 d.tscale) else v.1))
    { codes := l.map (fun x => x.code), scales := [], ovf := (l.filter (fun x => x.overflow)).length,
      vanish := (l.filter (fun x => x.vanish)).length, nanLost := (l.filter (fun x => x.nanLost)).length }

/-- The writes of a converted run. -/
def Desc.putConv (d : Desc) (rd : Reader) (r c : Nat) (v : Conv) : List (Nat × List Byte) :=
  d.putCodes rd r c v.codes ++ d.putScales r c v.scales

/-- A descriptor read without its TENSOR scale: the values that enter products (R127). -/
def Desc.unscaled (d : Desc) : Desc := { d with scaleMode := if d.mx then 2 else 0 }

/-- TENSOR_SCALE, 1 where the descriptor has none (R155). -/
def Desc.tensorScale (d : Desc) : Num := if d.scaleMode = 1 then ofFormat 1 d.tscale else Num.ofInt 1

/-- A list in another order: the one that a number picks. DEDUCED (notes/assumptions/17.md). -/
def shuffle {α : Type} : Nat → Nat → List α → List α
  | 0, _, l => l
  | n + 1, k, l => match l with
    | [] => []
    | x :: r =>
      let i := k % (r.length + 1)
      ((x :: r).getD i x) :: shuffle n (k / (r.length + 1)) ((x :: r).eraseIdx i)

/-- A sum in FP32, rounded to nearest even after each addition, in an order that is not specified (R163, R180).
DEDUCED (notes/assumptions/17.md). -/
def Block.openSum (b : Block) (l : List Num) : Num × Block :=
  match shuffle l.length (Config.sumOrder b.free l.length) l with
  | [] => (Num.zero, { b with free := b.free + 1 })
  | x :: r => (r.foldl (fun a v => rnd32 (a.add v)) x, { b with free := b.free + 1 })

end Sys2Proof.Machine
end

