-- ==== Sys2Proof/Machine/Validate.lean ====
section
/-! DEFINITION. The validator of each tile (R75 to R103, R488) and the global shard map (R104 to R108). -/

namespace Sys2Proof.Machine

open Sys2Proof

/-! ## Checks of a descriptor, in the order of R488 -/

/-- Is an FP32 code finite and not zero (R77)? -/
def finiteNonZero (c : Nat) : Bool := decide (c / 2 ^ 23 % 256 ≠ 255) && decide (c % 2 ^ 31 ≠ 0)

/-- Step 1: reserved bits, LAYOUT, SCALE_MODE. -/
def Desc.check1 (d : Desc) : Bool := !d.rsv && decide (d.layout ≤ 1) && decide (d.scaleMode ≤ 2)

/-- Step 2: FORMAT with the scaling and layout it takes (R75, R77, R85). -/
def Desc.check2 (d : Desc) : Bool :=
  decide (1 ≤ d.format) && decide (d.format ≤ 9) && (!d.mx || (decide (3 ≤ d.format) && decide (d.format ≤ 8))) &&
    (d.layout == 0 || ([1, 2, 3, 4, 8, 9].contains d.format && !d.mx))

/-- Step 3: TENSOR_SCALE, SCALE_BASE, shard fields, and the fields of global, tracked and in-place descriptors (R77, R90, R101,
R239, R249). -/
def Desc.check3 (d : Desc) : Bool :=
  (if d.scaleMode = 1 then finiteNonZero d.tscale else d.tscale == 0) &&
  (d.mx || d.scaleBase == 0) &&
  (if d.isGlobal then d.layout == 0 && d.base == 0 && d.scaleBase == 0 && d.s1 == 0 && d.s2 == 0 && d.s3 == 0
   else d.shardFirst == 0 && d.shardSplit == 0) &&
  (!d.tracked || (!d.isGlobal && inHbm d.base)) &&
  (!d.inPlace || (d.d0 == d.d1 && decide (d.d0 ≤ 128) && d.d2 == 1 && d.d3 == 1 && decide (8 ≤ elemBits d.format) &&
    !d.mx && !d.readOnly))

/-- Step 4: alignment of BASE, and of the shard extent (R90, R101). -/
def Desc.check4 (d : Desc) : Bool :=
  (if d.layout = 0 then d.base % 64 == 0 else d.base % d.eb == 0) &&
  (!d.isGlobal || d.shards 0 == 1 || d.shardExtent 0 % 32 == 0)

/-- Insert a dimension (stride, extent) after those of equal or smaller stride. -/
def strideInsert (x : Nat × Nat) : List (Nat × Nat) → List (Nat × Nat)
  | [] => [x]
  | y :: r => if x.1 < y.1 then x :: y :: r else y :: strideInsert x r

/-- Step 5: rows do not alias (R89). -/
def Desc.check5 (d : Desc) : Bool :=
  d.isGlobal || d.readOnly ||
    (let dims := ([(d.s1, d.d1), (d.s2, d.d2), (d.s3, d.d3)].filter (fun x => decide (1 < x.2))).foldl
       (fun a x => strideInsert x a) []
     (dims.foldl (fun (st : Bool × Nat) x => (st.1 && decide (st.2 ≤ x.1), (x.2 - 1) * x.1 + st.2))
       (true, if d.layout = 0 then d.v0 else d.d0)).1)

/-- Step 6: footprint and scale plane inside one allocation, or the shard range (R90, R101). -/
def Block.check6 (b : Block) (d : Desc) : Bool :=
  if d.isGlobal then decide (d.shardFirst + d.shards 0 * d.shards 1 * d.shards 2 * d.shards 3 ≤ 131072)
  else match b.within d.base d.footprint with
    | none => false
    | some v =>
      !d.mx || (d.scaleBase % 64 == 0 && decide (v.base ≤ d.scaleBase) && decide (d.scaleBase + d.planeLen ≤ v.base + v.len) &&
        decide (d.scaleBase < v.base + v.len) && !rangesMeet (d.base, d.footprint) (d.scaleBase, d.planeLen))

/-- The first failing check of a descriptor, if any (R488). -/
def Block.descFault (b : Block) (d : Desc) : Option Nat :=
  if !d.check1 then some Ev.DESC_FIELD
  else if !d.check2 then some Ev.DESC_FORMAT
  else if !d.check3 then some Ev.DESC_FIELD
  else if !d.check4 then some Ev.DESC_ALIGN
  else if !d.check5 then some Ev.DESC_STRIDE
  else if !b.check6 d then some Ev.DESC_RANGE
  else none

/-! ## Checks of a block-list entry -/

/-- A binding is 0 or the address of a descriptor in a DESCRIPTOR allocation (R96): any address at which a descriptor of such an allocation
may stand; whether a validator has written one there is not asked. DESIGN CHOICE (notes/assumptions/53.md). -/
def Block.bindOk (b : Block) (a : Nat) : Bool :=
  a == 0 || (a % 64 == 0 && match b.within a 64 with
    | some v => decide (v.kind = .descriptor)
    | none => false)

/-- The checks R92 makes of an entry against one descriptor: alignment, then extents and the shard. -/
def Desc.entryFault (d : Desc) (e : Entry32) : Option Nat :=
  if d.layout = 0 ∧ e.colStart % 32 ≠ 0 then some Ev.DESC_ALIGN
  else if d.rows < e.rowStart + e.rowCount ∨ d.d0 < e.colStart + e.colCount then some Ev.DESC_RANGE
  else if d.isGlobal ∧ !d.withinShard e then some Ev.DESC_RANGE
  else none

/-- COPY flag of an entry (R245). -/
def Entry32.copyFlag (e : Entry32) : Bool := bit e.flags 1

/-- Does an entry cover a whole tensor? -/
def Entry32.coversAll (e : Entry32) (d : Desc) : Bool :=
  e.rowStart == 0 && e.rowCount == d.rows && e.colStart == 0 && e.colCount == d.d0

/-- The first failing check of entry `i` of `n` (R488). -/
def Block.listFault (b : Block) (binds : List Nat) (n i : Nat) (e : Entry32) : Option Nat :=
  let bd := fun k => binds.getD k 0
  if (i = 0 ∧ !binds.all (fun a => b.bindOk a)) ∨ e.rsv then some Ev.DESC_FIELD
  else if bd e.src = 0 ∨ (e.copyFlag ∧ (bd 0 = 0 ∨ bd 2 = 0)) then some Ev.DESC_FIELD
  else match (b.desc (bd e.src)).entryFault e with
    | some c => some c
    | none =>
      if e.copyFlag then
        let x := b.desc (bd 0)
        let y := b.desc (bd 2)
        if bd 0 = bd 2 ∧ x.inPlace then (if n = 1 ∧ e.coversAll x then none else some Ev.DESC_OVERLAP)
        else if x.overlaps y then some Ev.DESC_OVERLAP else none
      else none

/-! ## The validator -/

/-- The code with which record `i` of a run fails as the validator takes it, if it does. The rule names ADDR_UNMAPPED for an unmapped
source; a page that is away or moving, and the far tier when down, end the run with the same code.
DESIGN CHOICE (notes/assumptions/53.md). -/
def Block.recordFault (b : Block) (r : ValRun) (i : Nat) : Option Nat :=
  let size := if r.isList then 32 else 64
  let a := r.src + size * i
  if b.probe a size ≠ .ok then some Ev.ADDR_UNMAPPED
  else if r.isList then b.listFault r.binds r.count i (Entry32.ofBytes (b.bytes a 32))
  else b.descFault (Desc.ofBytes (b.bytes a 64))

/-- The destination check of R94: the code that ends the run, if one does. -/
def Block.dstFault (b : Block) (r : ValRun) : Option Nat :=
  let size := if r.isList then 32 else 64
  if r.dst % size ≠ 0 then some Ev.DESC_ALIGN
  else match b.allocAt r.dst with
    | none => some Ev.DESC_PROTECT
    | some v =>
      if v.freed ∨ v.kind ≠ (if r.isList then .list else .descriptor) then some Ev.DESC_PROTECT
      else if v.base + v.len < r.dst + r.count * size then some Ev.DESC_RANGE
      else none

/-- Record `i` as the run writes it to the destination: a descriptor takes its allocation's generation (R99), a global one 0. -/
def Block.valImage (b : Block) (r : ValRun) (i : Nat) : List Byte :=
  if r.isList then b.bytes (r.src + 32 * i) 32
  else
    let l := b.bytes (r.src + 64 * i) 64
    let d := Desc.ofBytes l
    l.take 4 ++ toBytes 2 (if d.isGlobal then 0 else b.genAt d.base) ++ l.drop 6

/-- MCLK cycles that the check of one record takes (R95). -/
def ValRun.pace (r : ValRun) : Nat := if r.isList then 4 else 16

/-- Has a run no record left to take? -/
def ValRun.over (r : ValRun) : Bool := decide (r.code ≠ 0) || decide (r.count ≤ r.taken)

/-- A run takes its next record (R94, R95): before the first the destination is checked; a record that passes joins the image, one that
fails ends the run. -/
def Block.takeRecord (b : Block) (r : ValRun) : ValRun :=
  if r.over then r
  else match (if r.taken = 0 then b.dstFault r else none) with
    | some c => { r with code := c, failIdx := 0xFFFFFFFF }
    | none => match b.recordFault r r.taken with
      | some c => { r with code := c, failIdx := r.taken }
      | none => { r with taken := r.taken + 1, image := r.image ++ b.valImage r r.taken, dueAt := r.dueAt + r.pace }

/-- A tile's validator takes its next record, which the die hub reads. DESIGN CHOICE (notes/assumptions/53.md). -/
def Block.validate (b : Block) (t : Fin 16) : Block :=
  match (b.tile t.val).val with
  | none => b
  | some r =>
    let size := if r.isList then 32 else 64
    let r' := b.takeRecord r
    let b := b.setTile t.val { b.tile t.val with val := some r' }
    if r'.taken = r.taken then b
    else (b.lookup t.val (r.src + size * r.taken)).touchHbm (r.src + size * r.taken) size

/-- Store the bindings with the LIST allocation that holds an address (R96). -/
def Block.bindList (b : Block) (a : Nat) (binds : List Nat) : Block :=
  if a < hbmBase then
    let t := a / 2 ^ 33
    let x := b.tile t
    b.setTile t { x with allocs := x.allocs.map (fun y =>
      if y.base ≤ a % 2 ^ 33 / 65536 ∧ a % 2 ^ 33 / 65536 < y.base + y.slabs.length then { y with binds := binds } else y) }
  else
    { b with hbm := { b.hbm with allocs := b.hbm.allocs.map (fun y =>
      if y.base ≤ pageOf a ∧ pageOf a < y.base + y.pages then { y with binds := binds } else y) } }

/-- Finish a run: RESULT, TILE_VAL_FAIL_IDX, BUSY 0, INT_STAT bit 0, and the event of a rejection (R95). -/
def Block.valFinish (b : Block) (t : Fin 16) (code idx : Nat) : Block :=
  let b := (b.wrN (.tile t) Reg.TILE_VAL_STAT code).wrN (.tile t) Reg.TILE_VAL_FAIL_IDX idx
  let b := b.setInt (.tile t) 1
  if code = 0 then b else b.post code (.tile t) idx

/-- A write of TILE_VAL_CTL: KIND and COUNT are stored, START begins a run or, with COUNT 0, completes at once; ignored while
BUSY. -/
def validatorStart (o : Origin) (t : Fin 16) (v : Word) (b : Block) : Block :=
  b.gate o (.tile t) Reg.TILE_VAL_CTL .none (fun x =>
    if wbit (x.rd (.tile t) Reg.TILE_VAL_STAT) 31 then x
    else
      let x := x.writeFields (.tile t) Reg.TILE_VAL_CTL v
      if !wbit v 31 then x
      else if wfield v 19 0 = 0 then x.valFinish t 0 0xFFFFFFFF
      else
        let run : ValRun :=
          { isList := wbit v 24, count := wfield v 19 0, src := x.rd64 (.tile t) Reg.TILE_VAL_SRC_LO,
            dst := x.rd64 (.tile t) Reg.TILE_VAL_DST_LO,
            binds := (List.range 4).map (fun k => x.rd64 (.tile t) (Reg.TILE_VAL_BIND k)), taken := 0, image := [], code := 0,
            failIdx := 0, dueAt := x.now + if wbit v 24 then 4 else 16 }
        (x.setTile t.val { x.tile t.val with val := some run }).wrBit (.tile t) Reg.TILE_VAL_STAT 31 true)

/-- VALIDATOR_START (R94). -/
def execValidatorStart (o : Origin) (t : Fin 16) (v : Word) (s : State) : Host.Outcome State Fault Refusal :=
  s.onWrite o (validatorStart o t v)

/-- Byte ranges of the records that a task record names: its list and its descriptors, with those of its kind's PARAMS (R42, R115, R154,
R200, R260). -/
def TaskRec.recordRanges (r : TaskRec) : List (Nat × Nat) :=
  let p := fun (o : Nat) => rdLE r.params o 8
  let more := match r.kind.toNat with
    | 1 => [p 8, p 0x18]
    | 3 => [p 0x18]
    | 8 => [p 0, p 8, p 0x10]
    | _ => []
  ([(r.list.toNat, 32 * r.listCount.toNat)] ++
    ([r.descA.toNat, r.descB.toNat, r.descC.toNat, r.descD.toNat] ++ more).map (fun a => (a, 64))).filter (fun x => decide (x.1 ≠ 0))

/-- Byte ranges of the records a task needs: for a chain those of its links, which were read themselves at its admission (R251). -/
def TaskSt.recordRanges (t : TaskSt) : List (Nat × Nat) :=
  if t.links.isEmpty then t.task.recordRanges else t.links.flatMap TaskRec.recordRanges

/-- Before a validator writes over records, every running task that names one of them keeps what it has read (R100). -/
def Block.keepRecords (b : Block) (a n : Nat) : Block :=
  let old := (b.bytes a n).zipIdx.map (fun x => (a + x.2, x.1))
  let keep := fun (t : TaskSt) =>
    if t.phase = .running ∧ t.recordRanges.any (fun r => rangesMeet r (a, n)) then
      { t with kept := t.kept ++ old.filter (fun x => !t.kept.any (fun y => y.1 == x.1)) }
    else t
  { b with units := b.units.map (fun p => (p.1, { p.2 with board := p.2.board.map keep })) }

/-- The end of a validator run: the records not yet taken are taken, and on success all are written (R94, R95). -/
def validatorDone (t : Fin 16) (b : Block) : Block :=
  match (b.tile t.val).val with
  | none => b
  | some r =>
    let b := (List.range (r.count - r.taken)).foldl (fun x _ => x.validate t) b
    match (b.tile t.val).val with
    | none => b
    | some r =>
      let b := b.setTile t.val { b.tile t.val with val := none }
      if r.code ≠ 0 then b.valFinish t r.code r.failIdx
      else
        let b := (b.keepRecords r.dst r.image.length).store r.dst r.image
        let b := if r.isList then b.bindList r.dst r.binds else b
        b.valFinish t 0 0xFFFFFFFF

/-- VALIDATOR_DONE (R95). -/
def execValidatorDone (t : Fin 16) (s : State) : Host.Outcome State Fault Refusal := s.onBlock (validatorDone t)

/-- Does a validator write into the allocation that holds an address (R100)? -/
def Block.valLocks (b : Block) (a : Nat) : Bool :=
  match b.allocAt a with
  | none => false
  | some v => (List.range 16).any (fun t => match (b.tile t).val with
    | some r => decide (v.base ≤ r.dst) && decide (r.dst < v.base + v.len)
    | none => false)

/-! ## The shard map (R104 to R108) -/

/-- An entry of the shard map as a 128-bit number. -/
def Block.shard (b : Block) (i : Nat) : Nat := Sparse.get (fun _ => 0) b.shm.map i

/-- VALID of a shard-map entry. -/
def shardValid (e : Nat) : Bool := bit e 79
/-- Holder module. -/
def shardHolder (e : Nat) : Nat := field e 75 64
/-- Version. -/
def shardVersion (e : Nat) : Nat := field e 95 80
/-- Module address on the holder. -/
def shardAddr (e : Nat) : Nat := e % 2 ^ 64

/-- A write that changes ADDR or HOLDER of a valid entry and keeps VERSION is refused (R105); the reserved bits are no part of either.
DEDUCED (notes/assumptions/39.md). -/
def shardHeld (old new : Nat) : Bool :=
  shardValid old && shardValid new && decide (old % 2 ^ 76 ≠ new % 2 ^ 76) && shardVersion old == shardVersion new

/-- An entry as it is stored: its reserved bits are 0. DEDUCED (notes/assumptions/39.md). -/
def shardStored (e : Nat) : Nat := e % 2 ^ 76 + field e 79 79 * 2 ^ 79 + field e 95 80 * 2 ^ 80

/-- Set an entry whole. DEDUCED (notes/assumptions/39.md). -/
def Block.setShard (b : Block) (i e : Nat) : Block :=
  { b with shm := { b.shm with map := Sparse.put (fun _ => 0) b.shm.map i (shardStored e) } }

/-- Set the refusal code of a status register, leaving its other bits. -/
def Block.setCode (b : Block) (p : Page) (off code : Nat) : Block := b.wrField p off 15 0 code

/-- The number formed by `n` consecutive words of a page. -/
def Block.words (b : Block) (p : Page) (off n : Nat) : Nat :=
  (List.range n).foldl (fun a i => a + b.rdN p (off + 4 * i) * 2 ^ (32 * i)) 0

/-- Set `n` consecutive words of a page to a number. -/
def Block.setWords (b : Block) (p : Page) (off n v : Nat) : Block :=
  (List.range n).foldl (fun a i => a.wrN p (off + 4 * i) (v / 2 ^ (32 * i))) b

/-- SHM_CMD 1: the entry at SHM_SEL into SHM_DATA. -/
def shmCmdRead (o : Origin) (b : Block) : Block :=
  b.gate o .shm Reg.SHM_CMD (.command 1) (fun x =>
    x.setWords .shm (Reg.SHM_DATA 0) 4 (x.shard (x.rdN .shm Reg.SHM_SEL)))

/-- SHM_CMD_READ (R107). -/
def execShmCmdRead (o : Origin) (s : State) : Host.Outcome State Fault Refusal := s.onWrite o (shmCmdRead o)

/-- SHM_CMD 2: the entry at SHM_SEL from SHM_DATA, or its refusal (R105, R106). -/
def shmCmdWrite (o : Origin) (b : Block) : Block :=
  let i := b.rdN .shm Reg.SHM_SEL
  let e := b.words .shm (Reg.SHM_DATA 0) 4
  let held := shardHeld (b.shard i) e
  b.gate o .shm Reg.SHM_CMD (if held then .command 2 else .table i 1) (fun x =>
    if held then (x.setCode .shm Reg.SHM_STAT Ev.SHM_VERSION_HELD).post Ev.SHM_VERSION_HELD .shm 0
    else (x.setShard i e).setCode .shm Reg.SHM_STAT 0)

/-- SHM_CMD_WRITE (R105 to R107). -/
def execShmCmdWrite (o : Origin) (s : State) : Host.Outcome State Fault Refusal := s.onWrite o (shmCmdWrite o)

/-- A write of SHM_LOAD_CTL: COUNT is stored and START begins a bulk load; ignored while BUSY (R108). -/
def shmBulkLoadStart (o : Origin) (v : Word) (b : Block) : Block :=
  b.gate o .shm Reg.SHM_LOAD_CTL (if wbit v 31 then .deferred else .change) (fun x =>
    if wbit (x.rd .shm Reg.SHM_STAT) 31 then x
    else
      let x := x.writeFields .shm Reg.SHM_LOAD_CTL v
      if !wbit v 31 then x
      else if 131072 < x.rdN .shm Reg.SHM_SEL + wfield v 17 0 then
        ((x.setCode .shm Reg.SHM_STAT Ev.DESC_RANGE).wrN .shm Reg.SHM_LOAD_DONE 0).post Ev.DESC_RANGE .shm 0
      else
        let run : BulkRun := { first := x.rdN .shm Reg.SHM_SEL, count := wfield v 17 0,
                               addr := x.rd64 .shm Reg.SHM_LOAD_SRC_LO, clear := false, origin := o, done := 0, code := 0 }
        ({ x with shm := { x.shm with bulk := some run } }).wrBit .shm Reg.SHM_STAT 31 true)

/-- SHM_BULK_LOAD_START (R108). -/
def execShmBulkLoadStart (o : Origin) (v : Word) (s : State) : Host.Outcome State Fault Refusal :=
  s.onWrite o (shmBulkLoadStart o v)

/-- One entry of a bulk load (R108): `put` writes it or answers the code that refuses it; a source that cannot be read ends the load.
DEDUCED (notes/assumptions/42.md). -/
def Block.bulkOne (b : Block) (r : BulkRun) (size : Nat) (put : Block → Nat → Nat → Block × Nat) : Block × BulkRun :=
  let a := r.addr + size * r.done
  if r.code ≠ 0 ∨ r.count ≤ r.done then (b, r)
  else if b.probe a size ≠ .ok then (b, { r with code := Ev.ADDR_UNMAPPED })
  else
    let q := put ((b.lookup 16 a).touchHbm a size) (r.first + r.done) (b.num a size)
    if q.2 = 0 then (q.1, { r with done := r.done + 1 }) else (b, { r with code := q.2 })

/-- The next entry of a bulk load of the shard map, one in each MCLK cycle. -/
def Block.shmLoadOne (b : Block) : Block :=
  match b.shm.bulk with
  | none => b
  | some r =>
    let q := b.bulkOne r 16 (fun x i e => if shardHeld (x.shard i) e then (x, Ev.SHM_VERSION_HELD) else (x.setShard i e, 0))
    { q.1 with shm := { q.1.shm with bulk := some q.2 } }

/-- The end of a bulk load of the shard map: the entries still to come land one after the other. -/
def shmBulkLoadDone (b : Block) : Block :=
  match b.shm.bulk with
  | none => b
  | some r =>
    let b := (List.range (r.count - r.done)).foldl (fun x _ => x.shmLoadOne) b
    match b.shm.bulk with
    | none => b
    | some r =>
      let b := { b with shm := { b.shm with bulk := none } }
      let b := (b.wrN .shm Reg.SHM_LOAD_DONE r.done).wrN .shm Reg.SHM_STAT r.code
      let b := b.logAppend r.origin LogKind.tableChange (addrOf .shm Reg.SHM_LOAD_CTL) r.first r.done
      if r.code = 0 then b else b.post r.code .shm 0

/-- SHM_BULK_LOAD_DONE (R108). -/
def execShmBulkLoadDone (s : State) : Host.Outcome State Fault Refusal := s.onBlock shmBulkLoadDone

end Sys2Proof.Machine
end

