-- ==== Sys2Proof/Machine/Task.lean ====
section
/-! DEFINITION. Task records (R42), their admission checks (R43 and the rules of each kind), semaphore fields and their
translation (R59, R60), the children of a unit (R24, R47) and the division of a task (R48). -/

namespace Sys2Proof.Machine

open Sys2Proof

/-! ## The record -/

/-- Task kinds (R42). -/
abbrev Kind.dense : Nat := 1
/-- SPARSE. -/
abbrev Kind.sparse : Nat := 2
/-- DISPATCH. -/
abbrev Kind.dispatch : Nat := 3
/-- COPY. -/
abbrev Kind.copy : Nat := 4
/-- CHAIN. -/
abbrev Kind.chain : Nat := 5
/-- COLLECTIVE. -/
abbrev Kind.collective : Nat := 6
/-- BARRIER. -/
abbrev Kind.barrier : Nat := 7
/-- UPDATE. -/
abbrev Kind.update : Nat := 8
/-- SYNC. -/
abbrev Kind.sync : Nat := 9
/-- SEMOP. -/
abbrev Kind.semop : Nat := 10
/-- PAGE. -/
abbrev Kind.page : Nat := 11

/-- The record in 128 bytes. -/
def TaskRec.ofBytes (l : List Byte) : TaskRec :=
  let h := fun o => BitVec.ofNat 16 (rdLE l o 2)
  let w := fun o => BitVec.ofNat 32 (rdLE l o 4)
  let d := fun o => BitVec.ofNat 64 (rdLE l o 8)
  { kind := h 0, flags := BitVec.ofNat 8 (rdLE l 2 1), energy := BitVec.ofNat 8 (rdLE l 3 1), split := h 4, rsv6 := h 6,
    taskId := w 8, budget := w 12, list := d 0x10, listCount := w 0x18, capacity := w 0x1C, descA := d 0x20, descB := d 0x28,
    descC := d 0x30, descD := d 0x38, params := (l.drop 0x40).take 32, wait0Sem := h 0x60, wait1Sem := h 0x62,
    wait0Target := w 0x64, wait1Target := w 0x68, signal0Sem := h 0x6C, signal1Sem := h 0x6E, signal0Inc := h 0x70,
    signal1Inc := h 0x72, confirmSem := h 0x74, discardSem := h 0x76, decideTarget := w 0x78,
    shadowMib := BitVec.ofNat 8 (rdLE l 0x7C 1), rsv7d := BitVec.ofNat 24 (rdLE l 0x7D 3) }

/-- The 128 bytes of a record. -/
def TaskRec.bytes (r : TaskRec) : List Byte :=
  toBytes 2 r.kind.toNat ++ toBytes 1 r.flags.toNat ++ toBytes 1 r.energy.toNat ++ toBytes 2 r.split.toNat ++
  toBytes 2 r.rsv6.toNat ++ toBytes 4 r.taskId.toNat ++ toBytes 4 r.budget.toNat ++ toBytes 8 r.list.toNat ++
  toBytes 4 r.listCount.toNat ++ toBytes 4 r.capacity.toNat ++ toBytes 8 r.descA.toNat ++ toBytes 8 r.descB.toNat ++
  toBytes 8 r.descC.toNat ++ toBytes 8 r.descD.toNat ++ r.params ++ toBytes 2 r.wait0Sem.toNat ++
  toBytes 2 r.wait1Sem.toNat ++ toBytes 4 r.wait0Target.toNat ++ toBytes 4 r.wait1Target.toNat ++
  toBytes 2 r.signal0Sem.toNat ++ toBytes 2 r.signal1Sem.toNat ++ toBytes 2 r.signal0Inc.toNat ++
  toBytes 2 r.signal1Inc.toNat ++ toBytes 2 r.confirmSem.toNat ++ toBytes 2 r.discardSem.toNat ++
  toBytes 4 r.decideTarget.toNat ++ toBytes 1 r.shadowMib.toNat ++ toBytes 3 r.rsv7d.toNat

namespace TaskRec

/-- SPEC. -/
def spec (r : TaskRec) : Bool := bit r.flags.toNat 7
/-- DEFER. -/
def defer (r : TaskRec) : Bool := bit r.flags.toNat 6
/-- IRQ. -/
def irq (r : TaskRec) : Bool := bit r.flags.toNat 5
/-- NO_CREC. -/
def noCrec (r : TaskRec) : Bool := bit r.flags.toNat 4
/-- BUDGET_REPORT. -/
def budgetReport (r : TaskRec) : Bool := bit r.flags.toNat 3
/-- SPLIT.AXIS: 0 NONE, 1 BLOCKS, 2 COLUMNS, 3 REPLICATE, 4 EXPLICIT. -/
def axis (r : TaskRec) : Nat := field r.split.toNat 15 12
/-- SPLIT.GRAIN. -/
def grain (r : TaskRec) : Nat := field r.split.toNat 11 8
/-- SPLIT.WIDTH. -/
def width (r : TaskRec) : Nat := field r.split.toNat 7 0
/-- The energy class. -/
def energyClass (r : TaskRec) : Nat := r.energy.toNat % 4
/-- A number of `n` bytes at offset `o` of PARAMS. -/
def par (r : TaskRec) (o n : Nat) : Nat := rdLE r.params o n
/-- Are the PARAMS bytes from `o` to `o + n - 1` all 0? -/
def parZero (r : TaskRec) (o n : Nat) : Bool := r.par o n == 0

end TaskRec

/-- Levels a kind runs on (R42): core 2, gang 3, die 4, module 5, group 6. -/
def kindRuns (kind level : Nat) : Bool :=
  if kind = 0 ∨ 11 < kind then false
  else if kind ≤ 5 ∨ kind = 10 then true
  else if kind ≤ 8 then decide (5 ≤ level)
  else if kind = 9 then decide (level ≤ 4)
  else level == 5

/-- The resource of a kind in a core: 0 array, 1 derailleur, 2 copy path, 3 none (R42, R50). -/
def kindResource (kind : Nat) : Nat :=
  if kind = 1 ∨ kind = 5 then 0 else if kind = 2 ∨ kind = 3 then 1 else if kind = 4 then 2 else 3

/-- Is a semaphore field's encoding valid? -/
def semFieldOk (fixed : Bool) (f : Nat) : Bool :=
  if !bit f 15 then f == 0
  else !bit f 14 && (if fixed then !bit f 13 && decide (f % 64 < 48) else field f 13 12 == 0)

/-! ## Parameters of each kind -/

/-- Is an FP32 code a finite number? -/
def finite32 (c : Nat) : Bool := decide (c / 2 ^ 23 % 256 ≠ 255)

/-- Is an FP32 code negative? −0 is not (R489). -/
def negative32 (c : Nat) : Bool := decide (2 ^ 31 < c)

/-- R115 without REUSE, and R154. -/
def denseParamsOk (r : TaskRec) : Bool :=
  let func := r.par 0x10 1
  let opnd := r.par 0x11 1
  let stats := r.par 0x13 1
  let alpha := r.par 0x14 4
  decide (r.par 0 1 ≤ 4) && decide (r.par 1 1 < 4) && decide (r.par 2 2 < 2048) && decide (r.par 4 2 < 4096) &&
  r.parZero 6 2 && decide (r.par 2 2 + r.par 4 2 ≤ 2048) && (decide (3 ≤ r.par 0 1) == !r.parZero 8 8) &&
  decide (func ≤ 10) && decide (opnd ≤ 5) && decide (r.par 0x12 1 < 16) && decide (stats < 16) &&
  decide (stats % 4 ≠ 3) && decide (stats / 4 ≠ 3) && finite32 alpha && (alpha == 0 || func == 2) &&
  (opnd != 3 || (!([4, 5, 6, 9].contains func) && !(func == 2 && negative32 alpha))) &&
  ((r.par 0x18 8 == 0) == (stats == 0))

/-- R173. -/
def sparseParamsOk (r : TaskRec) : Bool :=
  let op := r.par 0 1
  let compact := bit (r.par 1 1) 0
  let func := r.par 2 1
  let tol := r.par 8 4
  decide (1 ≤ op) && decide (op ≤ 5) && decide (r.par 1 1 < 2) && r.parZero 3 1 && decide (r.par 4 2 < 2048) &&
  decide (r.par 6 2 < 4096) && r.parZero 0x0C 20 && (!compact || op == 4) &&
  (func == 0 || (op == 5 && func != 2 && decide (func ≤ 10))) &&
  (if compact then decide (256 ≤ r.par 6 2) && decide (r.par 4 2 + r.par 6 2 ≤ 2048)
   else r.parZero 4 2 && r.parZero 6 2) &&
  finite32 tol && !negative32 tol && (tol == 0 || op == 5) && decide (r.capacity ≠ 0)

/-- R200; a ROUTE above a core is not divided. -/
def dispatchParamsOk (level : Nat) (r : TaskRec) : Bool :=
  let op := r.par 0 1
  let fl := r.par 3 1
  decide (r.capacity ≠ 0) &&
  if op = 1 then
    decide (1 ≤ r.par 1 1) && decide (r.par 1 1 ≤ 8) && decide (r.par 2 1 ≤ 3) && decide (fl < 16) &&
    decide (r.par 4 2 ≤ 16383) && decide (r.par 6 1 ≤ 16) && (bit fl 0 || r.parZero 6 1) && r.parZero 7 1 &&
    decide (r.par 8 4 < 2 ^ 20) && !(bit fl 1 && r.par 2 1 == 1) && !bit fl 3 && (level == 2 || r.axis == 0)
  else if op = 2 then r.parZero 1 2 && (fl == 0 || fl == 8) && r.parZero 4 28
  else false

/-- The source dimension of destination dimension `k` under PERM (R244). -/
def permOf (perm k : Nat) : Nat := perm / 4 ^ k % 4

/-- R244. -/
def copyParamsOk (r : TaskRec) : Bool :=
  let mode := r.par 0 1
  let perm := r.par 1 1
  decide (mode ≤ 2) && decide (r.par 2 1 < 4) && r.parZero 3 29 && decide (r.capacity = 0) &&
  if mode = 2 then (List.range 4).all (fun d => (List.range 4).any (fun k => permOf perm k == d)) else perm == 0

/-- R66: operation, line, and the write address of loads and PEEK. -/
def syncParamsOk (r : TaskRec) : Bool :=
  let op := r.par 0 2
  decide (1 ≤ op) && decide (op ≤ 6) && decide (r.par 2 2 ≤ 1023) &&
  (!(decide (3 ≤ op) && decide (op ≤ 5)) || r.par 0x10 8 % 16 == 0)

/-- R260: reserved bits of an UPDATE record's PARAMS are checked with its program slot. -/
def updateParamsOk (b : Block) (level : Nat) (r : TaskRec) : Bool :=
  decide (r.par 0x18 1 < 16) && decide (r.par 0x19 1 < 4) && decide (r.par 0x1A 1 < 4) && r.parZero 0x1B 5 &&
  decide (r.capacity = 0) && !(Sparse.get (fun _ => []) b.azn.progs (r.par 0x18 1)).isEmpty && (level != 5 || r.axis == 0)

/-- R305. -/
def pageParamsOk (r : TaskRec) : Bool :=
  decide (1 ≤ r.par 0 1) && decide (r.par 0 1 ≤ 4) && r.parZero 1 31 && decide (r.capacity ≠ 0)

/-- R346. The group's domain is that of PEL_GROUP. -/
def barrierParamsOk (b : Block) (level : Nat) (fixed : Bool) (r : TaskRec) : Bool :=
  let d := r.par 0 1
  let cfg := b.rd .pel (Reg.PEL_DOM_CFG (d % 8))
  decide (d < 8) && r.parZero 1 1 && r.parZero 6 2 && r.parZero 0x10 16 &&
  decide (r.list = 0) && decide (r.listCount.toNat ≤ 1) && decide (r.capacity = 0) && wbit cfg 31 && wbit cfg 29 &&
  semFieldOk fixed (r.par 2 2) &&
  (level != 6 || (r.axis == 3 && r.width == 0 && d == wfield (b.rd .pel Reg.PEL_GROUP) 2 0))

/-- R360. -/
def collectiveParamsOk (b : Block) (level : Nat) (r : TaskRec) : Bool :=
  let op := r.par 0 1
  let red := r.par 1 1
  let team := r.par 2 1
  let fl := r.par 3 1
  let comp := field fl 5 4
  decide (1 ≤ op) && decide (op ≤ 5) && decide (red ≤ 3) && (red == 0 || decide (op ≤ 2)) && decide (fl < 64) &&
  decide (comp ≤ 2) && decide (r.par 4 1 ≤ 8) && r.parZero 6 2 && r.parZero 0x18 8 &&
  (if level = 6 then team == 0xFF && r.axis == 3 && r.width == 0
   else if team = 0xFF then false else (Sparse.get (fun _ => (none : Option Team)) b.col.teams team).isSome) &&
  (comp == 0 || (op == 1 && red == 0)) && (decide (comp = 2) == !r.parZero 5 1) && (!bit fl 1 || op == 1) &&
  (!bit fl 2 || op == 4) && (decide (r.capacity = 0) || op == 4)

/-! ## Children -/

/-- A child of a unit: a unit of this module, or another module of a group. -/
inductive Child where
  | unit (u : UnitId)
  | other (modId : Nat)
  deriving DecidableEq, Repr

/-- A gang's definition word. -/
def Block.gangDef (b : Block) (t : Fin 16) (g : Nat) : Word := b.rd (.tile t) (Reg.TILE_GANG_DEF g)

/-- Is gang `g` of a tile enabled? -/
def gangOn (defs : Nat → Word) (g : Nat) : Bool := wbit (defs g) 31

/-- Enabled member gangs of a gang, rising. -/
def gangGangs (defs : Nat → Word) (g : Nat) : List (Fin 8) :=
  (List.finRange 8).filter (fun h => wbit (defs g) (8 + h.val) && gangOn defs h.val)

/-- The gang of gangs that stands in its die's place, if any (R24): the lowest enabled gang with an enabled member gang that no
other enabled gang names. -/
def gangOfGangs (defs : Nat → Word) : Option (Fin 8) :=
  (List.finRange 8).find? (fun g => gangOn defs g.val && !(gangGangs defs g.val).isEmpty &&
    !(List.range 8).any (fun h => h != g.val && gangOn defs h && wbit (defs h) (8 + g.val)))

/-- A core of a tile. -/
def coreOf (t : Fin 16) (c : Fin 8) : UnitId := .core (flatCore t c)

/-- Modules whose bits are set in PEL_GMEMBER, ascending (R345). DEDUCED (notes/assumptions/35.md). -/
def Block.groupMembers (b : Block) : List Nat :=
  (List.range 128).flatMap (fun w => (bitsOf 32 (b.rdN .pel (Reg.PEL_GMEMBER w))).map (fun n => 32 * w + n))

/-- Children of a unit in child order (R47). -/
def Block.children (b : Block) : UnitId → List Child
  | .core _ => []
  | .gang t g =>
    (gangGangs (b.gangDef t) g.val).map (fun h => Child.unit (.gang t h)) ++
      ((List.finRange 8).filter (fun c => wbit (b.gangDef t g.val) c.val)).map (fun c => Child.unit (coreOf t c))
  | .die t => ((List.finRange 8).filter (fun c => b.coreOn (flatCore t c))).map (fun c => Child.unit (coreOf t c))
  | .wholeModule => (List.finRange 16).map (fun t => match gangOfGangs (b.gangDef t) with
    | some g => Child.unit (.gang t g)
    | none => Child.unit (.die t))
  | .group => b.groupMembers.map (fun m => if m = b.moduleId then Child.unit .wholeModule else Child.other m)

/-- Children a task may use: all of them, or the first WIDTH (R47). -/
def Block.childrenFor (b : Block) (u : UnitId) (r : TaskRec) : List Child :=
  let l := b.children u
  if r.width = 0 then l else l.take r.width

/-- Does a unit carry out a kind itself and not through children: a core every kind, a module UPDATE, PAGE, COLLECTIVE and
BARRIER? -/
def runsHere (u : UnitId) (kind : Nat) : Bool :=
  match u with
  | .core _ => true
  | .wholeModule => (6 ≤ kind && kind ≤ 8) || kind == 11
  | _ => false

/-! ## Division (R48) -/

/-- A share: the child's place, the child, its record, and the 128-column tiles it covers where COLUMNS divides. -/
structure Share where
  index : Nat
  child : Child
  task : TaskRec
  colFirst : Nat
  colCount : Option Nat
  deriving DecidableEq, Repr

/-- First unit and number of units of child `i` of `k`, `n` units in all (R48). -/
def shareRun (n k i : Nat) : Nat × Nat := (i * (n / k) + min i (n % k), n / k + if i < n % k then 1 else 0)

/-- A child record under EXPLICIT: its own work, the parent's other fields (R48); its own reserved bits, which R43 checks, stay. -/
def explicitRec (parent child : TaskRec) : TaskRec :=
  { parent with kind := child.kind, split := child.split, rsv6 := child.rsv6, rsv7d := child.rsv7d, list := child.list,
                listCount := child.listCount, capacity := child.capacity, descA := child.descA, descB := child.descB,
                descC := child.descC, descD := child.descD, params := child.params }

/-- The record at an address; one that cannot be read is all zeros, which no check passes. -/
def Block.recordAt (b : Block) (a : Nat) : TaskRec :=
  if b.probe a 128 = .ok then TaskRec.ofBytes (b.bytes a 128) else TaskRec.ofBytes (List.replicate 128 0)

/-- Tasks admitted at a child. A group is told no other module's load: it is taken as 0. DESIGN CHOICE (notes/assumptions/54.md). -/
def Block.load (b : Block) : Child → Nat
  | .unit u => (b.unit u).board.length
  | .other _ => 0

/-- The child with the fewest admitted tasks; a tie goes to the lower child (R48). -/
def Block.leastLoaded (b : Block) (l : List Child) : Option (Nat × Child) :=
  l.zipIdx.foldl (fun best p => match best with
    | none => some (p.2, p.1)
    | some x => if b.load p.1 < b.load x.2 then some (p.2, p.1) else best) none

/-- The shares of a task at a unit that divides it. `c0` and `cn` are the tiles this task itself covers. Under COLUMNS a task that names no
output has no tiles, and gives no share. DESIGN CHOICE (notes/assumptions/54.md). -/
def Block.shares (b : Block) (u : UnitId) (r : TaskRec) (c0 : Nat) (cn : Option Nat) : List Share :=
  let ch := b.childrenFor u r
  let k := ch.length
  if k = 0 then []
  else if r.axis = 0 then
    match b.leastLoaded ch with
    | some (i, c) => [⟨i, c, r, c0, cn⟩]
    | none => []
  else if r.axis = 1 then
    let g := 2 ^ r.grain
    let n := ceilDiv r.listCount.toNat g
    (ch.zipIdx.map (fun p =>
      let x := shareRun n k p.2
      let lo := x.1 * g
      let hi := min ((x.1 + x.2) * g) r.listCount.toNat
      (⟨p.2, p.1, { r with list := BitVec.ofNat 64 (r.list.toNat + 32 * lo), listCount := BitVec.ofNat 32 (hi - lo) },
        c0, cn⟩ : Share))).filter (fun s => decide (s.task.listCount ≠ 0))
  else if r.axis = 2 then
    let g := 2 ^ r.grain
    let tiles := cn.getD (if r.descC = 0 then 0 else ceilDiv (b.desc r.descC.toNat).d0 128)
    let n := ceilDiv tiles g
    (ch.zipIdx.map (fun p =>
      let x := shareRun n k p.2
      let lo := x.1 * g
      let hi := min ((x.1 + x.2) * g) tiles
      (⟨p.2, p.1, r, c0 + lo, some (hi - lo)⟩ : Share))).filter (fun s => s.colCount != some 0)
  else if r.axis = 3 then ch.zipIdx.map (fun p => ⟨p.2, p.1, r, c0, cn⟩)
  else
    (ch.zipIdx.filter (fun p => decide (p.2 < r.listCount.toNat))).map (fun p =>
      ⟨p.2, p.1, explicitRec r (b.recordAt (r.list.toNat + 128 * p.2)), 0, none⟩)

/-- Is SPLIT valid for the unit (R43, R48 and the rules of the kinds that forbid a division)? -/
def Block.splitOk (b : Block) (u : UnitId) (r : TaskRec) : Bool :=
  match u with
  | .core _ => true
  | _ => decide (r.axis ≤ 4) && (r.axis != 4 || decide (r.listCount.toNat ≤ (b.childrenFor u r).length)) &&
    (!(r.kind = 5 ∨ r.kind = 9) || r.axis == 0)

/-! ## Semaphores -/

/-- Is SEM_MODE fixed (R60)? -/
def Block.fixedMode (b : Block) : Bool := wbit (b.rd (.sem .wholeModule) Reg.SEM_MODE) 0

/-- The value of a physical semaphore of this module. -/
def Block.semVal (b : Block) (c p : Nat) : Nat :=
  if h : c < 128 then b.rdN (.sem (.core ⟨c, h⟩)) (Reg.SEM_PHYS p) else 0

/-- Set a physical semaphore of this module. -/
def Block.setSem (b : Block) (c p v : Nat) : Block :=
  if h : c < 128 then b.wrN (.sem (.core ⟨c, h⟩)) (Reg.SEM_PHYS p) v else b

/-- A signal adds its increment modulo 2³² (R62). -/
def Block.addSem (b : Block) (c p inc : Nat) : Block := b.setSem c p (b.semVal c p + inc)

/-- Does a wait on a target pass at a value (R63)? -/
def passes (value target : Nat) : Bool := decide (diff32 value target < 2 ^ 31)

/-- The word of a translation entry, through the cache of the tile's die hub where the unit lies on a tile (R59). Of 512 entries held the
oldest makes room for another. DESIGN CHOICE (notes/assumptions/54.md). -/
def Block.xlatWord (b : Block) (u : UnitId) (ctx id : Nat) : Option Word × Block :=
  let read := fun (x : Block) =>
    let a := x.rd64 (.sem .wholeModule) (Reg.SEM_XLAT_BASE (ctx % 8)) + 4 * id
    if x.recordFits a 4 then some (BitVec.ofNat 32 (x.num a 4)) else none
  match u.tile? with
  | none => (read b, b)
  | some t =>
    let ts := b.tile t.val
    match ts.xlat.find? (fun e => e.ctx == ctx && e.id == id) with
    | some e => (some e.word, b)
    | none => match read b with
      | none => (none, b)
      | some w => (some w, b.setTile t.val { ts with xlat := (⟨ctx, id, w⟩ :: ts.xlat).take 512 })

/-- Translate a valid semaphore field in a context (R59, R60): the reference, or none where it fails.
DEDUCED (notes/assumptions/36.md). -/
def Block.translate (b : Block) (u : UnitId) (ctx : Nat) (isWait : Bool) (f : Nat) : Option SemRef × Block :=
  let ok := fun (c : Nat) => if h : c < 128 then b.coreOn ⟨c, h⟩ else false
  if b.fixedMode then
    let c := field f 12 6
    (if ok c then some ⟨true, b.moduleId, c, f % 64⟩ else none, b)
  else
    let r := b.xlatWord u ctx (f % 4096)
    match r.1 with
    | none => (none, r.2)
    | some w =>
      let m := wfield w 27 16
      let c := wfield w 12 6
      let here := m == b.moduleId
      (if wbit w 31 && (!here || ok c) && (here || !isWait) then some ⟨here, m, c, wfield w 5 0⟩ else none, r.2)

/-- Translate a list of fields in turn: none where one that is valid fails; an unused field gives no reference. -/
def Block.translateAll (b : Block) (u : UnitId) (ctx : Nat) : List (Bool × Nat) → Option (List (Option SemRef)) × Block
  | [] => (some [], b)
  | (w, f) :: rest =>
    if !bit f 15 then
      let r := b.translateAll u ctx rest
      (r.1.map (fun l => none :: l), r.2)
    else
      let x := b.translate u ctx w f
      match x.1 with
      | none => (none, x.2)
      | some s =>
        let r := x.2.translateAll u ctx rest
        (r.1.map (fun l => some s :: l), r.2)

/-! ## Admission checks -/

/-- The link records of a CHAIN (R251). -/
def Block.chainLinks (b : Block) (r : TaskRec) : List TaskRec :=
  if r.kind = 5 then (List.range (min 8 r.listCount.toNat)).map (fun i => b.recordAt (r.list.toNat + 128 * i)) else []

/-- A link that R251 allows: a DENSE record with nothing of its own but work. -/
def linkOk (r : TaskRec) : Bool :=
  decide (r.kind = 1) && decide (r.flags = 0) && decide (r.split = 0) && decide (r.rsv6 = 0) && decide (r.rsv7d = 0) &&
  decide (r.energy.toNat < 4) && decide (r.wait0Sem = 0) && decide (r.wait1Sem = 0) && decide (r.signal0Sem = 0) &&
  decide (r.signal1Sem = 0) && decide (r.confirmSem = 0) && decide (r.discardSem = 0) && decide (r.shadowMib = 0) &&
  r.parZero 1 1 && denseParamsOk r

/-- R251 for the chain itself; a CHAIN without links is the empty task of R44 and is refused by its LIST_COUNT. -/
def Block.chainOk (b : Block) (r : TaskRec) : Bool :=
  decide (2 ≤ r.listCount.toNat) && decide (r.listCount.toNat ≤ 8) && decide (r.descA = 0) && decide (r.descB = 0) &&
  decide (r.descD = 0) && r.params.all (fun x => x == 0) && (r.spec == decide (r.descC ≠ 0)) &&
  (b.chainLinks r).all linkOk

/-- The parameters of the record's kind. -/
def Block.paramsOk (b : Block) (level : Nat) (r : TaskRec) : Bool :=
  match r.kind.toNat with
  | 1 => denseParamsOk r
  | 2 => sparseParamsOk r
  | 3 => dispatchParamsOk level r
  | 4 => copyParamsOk r
  | 5 => b.chainOk r
  | 6 => collectiveParamsOk b level r
  | 7 => barrierParamsOk b level b.fixedMode r
  | 8 => updateParamsOk b level r
  | 9 => syncParamsOk r
  | 11 => pageParamsOk r
  | _ => true

/-- The check of a record's fields at a unit (R43). -/
def Block.fieldsOk (b : Block) (u : UnitId) (r : TaskRec) : Bool :=
  let fx := b.fixedMode
  kindRuns r.kind.toNat u.level && decide (r.flags.toNat % 8 = 0) && decide (r.energy.toNat < 4) && decide (r.rsv6 = 0) &&
  decide (r.rsv7d = 0) && decide (r.budget ≠ 0) && b.splitOk u r &&
  [r.wait0Sem, r.wait1Sem, r.signal0Sem, r.signal1Sem, r.confirmSem, r.discardSem].all (fun f => semFieldOk fx f.toNat) &&
  !(r.spec && r.defer) && (!r.spec || decide (r.kind.toNat ≤ 5)) &&
  (if r.spec then decide (1 ≤ r.shadowMib.toNat) && decide (r.shadowMib.toNat ≤ 64)
   else decide (r.confirmSem = 0) && decide (r.discardSem = 0) && decide (r.shadowMib = 0)) &&
  b.paramsOk u.level r && !(decide (r.kind = 9) && (u.level == 3) && (b.childrenFor u r).isEmpty)

/-- Compact mode (R66): a SYNC task needs the context's compact mode on this tile, and the mode keeps the context's tasks on
the tile. -/
def Block.compactOk (b : Block) (u : UnitId) (ctx : Nat) (r : TaskRec) : Bool :=
  let w := b.rd (.sem .wholeModule) (Reg.SEM_COMPACT (ctx % 8))
  let onTile := match u.tile? with
    | some t => decide (t.val = wfield w 3 0)
    | none => false
  if wbit w 31 then onTile else decide (r.kind ≠ 9)

/-- The SRAM DATA allocation whose first byte is the BASE of a speculative task's DESC_C, within SHADOW_MIB (R56). -/
def Block.specTarget (b : Block) (r : TaskRec) : Option AllocView :=
  if r.descC = 0 ∨ b.probe r.descC.toNat 64 ≠ .ok then none
  else
    let d := b.desc r.descC.toNat
    if d.isGlobal ∨ hbmBase ≤ d.base then none
    else match b.within d.base d.footprint with
      | some v => if v.kind = .data ∧ v.base = d.base ∧ v.len ≤ r.shadowMib.toNat * 2 ^ 20 then some v else none
      | none => none

/-- Does the BASE of the descriptor at an address lie in an allocation? -/
def Block.liesIn (b : Block) (a : Nat) (v : AllocView) : Bool :=
  b.probe a 64 == .ok && (let d := b.desc a; decide (v.base ≤ d.base) && decide (d.base < v.base + v.len))

/-- A speculative task's outputs (R56, R217, R253). -/
def Block.specOk (b : Block) (r : TaskRec) : Bool :=
  !r.spec || match b.specTarget r with
    | none => false
    | some v =>
      if r.kind = 3 ∧ r.par 0 1 = 1 then r.parZero 0x18 8 && b.liesIn r.descD.toNat v && b.liesIn (r.par 0x10 8) v
      else if r.kind = 5 then (b.chainLinks r).all (fun l => l.descC == 0 || b.liesIn l.descC.toNat v)
      else true

/-- The semaphore fields of a record with the rule each is translated by; the release semaphore of a BARRIER last (R346). -/
def TaskRec.semFields (r : TaskRec) : List (Bool × Nat) :=
  [(true, r.wait0Sem.toNat), (true, r.wait1Sem.toNat), (false, r.signal0Sem.toNat), (false, r.signal1Sem.toNat),
   if r.kind = 7 then (false, r.par 2 2) else (true, r.confirmSem.toNat), (true, r.discardSem.toNat)]

/-- The code that refuses a record placed on a unit's own ring, if one does, and otherwise its semaphore references in the
order of `semFields`. DEDUCED (notes/assumptions/49.md). -/
def Block.admitCheck (b : Block) (u : UnitId) (ctx : Nat) (r : TaskRec) : Nat × List (Option SemRef) × Block :=
  if !b.fieldsOk u r then (Ev.TASK_FIELD, [], b)
  else if !b.compactOk u ctx r then (Ev.SYNC_LINE_MODE, [], b)
  else
    let x := b.translateAll u ctx r.semFields
    match x.1 with
    | none => (Ev.SEM_XLAT_FAULT, [], x.2)
    | some l => if !x.2.specOk r then (Ev.SPEC_BAD_TARGET, [], x.2) else (0, l, x.2)

/-! ## Tasks on a unit -/

/-- A task just admitted or offered. -/
def TaskSt.mk' (serial path ctx : Nat) (r : TaskRec) : TaskSt :=
  { serial := serial, path := path, ctx := ctx, task := r, parent := none, root := none, wait0 := none, wait1 := none,
    sig0 := none, sig1 := none, confirm := none, discard := none, phase := .admitted, links := [], link := 0, cursor := 0,
    items := 0, cycles := 0, busy := 0, faultCode := none, statusCode := 0, exceeded := false, decision := .open_,
    decided := false, shadow := none, shadowAsked := false, colFirst := 0, colCount := none, tally := [], dispCnt := [],
    acks := [], shareCount := 0, shares := [], sigDone := false, heldAt := 0, slewHeld := false, arriveTime := 0,
    group := [], runahead := 64, overlap := true, kept := [], listsOut := [], dropped := [], refetch := [] }

/-- Set a unit's board, showing its length in SCH_ADMITTED (R35). -/
def Block.setBoard (b : Block) (u : UnitId) (l : List TaskSt) : Block :=
  (b.setUnit u { b.unit u with board := l }).wrN (.sch u) Reg.SCH_ADMITTED l.length

/-- Task `i` of a unit. -/
def Block.task? (b : Block) (u : UnitId) (i : Nat) : Option TaskSt := (b.unit u).board[i]?

/-- The task of a unit with a serial number. -/
def Block.bySerial (b : Block) (u : UnitId) (n : Nat) : Option TaskSt := (b.unit u).board.find? (fun t => t.serial == n)

/-- Change the task of a unit that has a serial number. -/
def Block.mapTask (b : Block) (u : UnitId) (n : Nat) (f : TaskSt → TaskSt) : Block :=
  b.setUnit u { b.unit u with board := (b.unit u).board.map (fun t => if t.serial = n then f t else t) }

/-- Take a task off a unit's board. -/
def Block.dropTask (b : Block) (u : UnitId) (n : Nat) : Block :=
  b.setBoard u ((b.unit u).board.filter (fun t => t.serial != n))

/-- Every unit of the module. -/
def allUnits : List UnitId :=
  (List.finRange 128).map .core ++ (List.finRange 16).flatMap (fun t => (List.finRange 8).map (fun g => .gang t g)) ++
    (List.finRange 16).map .die ++ [.wholeModule, .group]

/-- Units that hold or await a task. -/
def Block.activeUnits (b : Block) : List UnitId :=
  allUnits.filter (fun u => let x := b.unit u; !x.board.isEmpty || !x.inbox.isEmpty)

/-- The record of link `l` of a chain, or the task's own. -/
def TaskSt.recAt (t : TaskSt) (l : Nat) : TaskRec := if t.links.isEmpty then t.task else t.links.getD l t.task

/-- The record a core's sequencer works from: the task's own, or that of the link in course. -/
def TaskSt.cur (t : TaskSt) : TaskRec := t.recAt t.link

/-- Links of a task: one where it is no chain. -/
def TaskSt.linkCount (t : TaskSt) : Nat := max 1 t.links.length

/-- The first position at or after one that names an entry: links with empty lists are passed over. -/
def TaskSt.settle (t : TaskSt) : Nat → Nat × Nat → Nat × Nat
  | 0, p => p
  | n + 1, p =>
    if p.1 < t.linkCount ∧ (t.recAt p.1).listCount.toNat ≤ p.2 then t.settle n (p.1 + 1, 0) else p

/-- The position after one, in the lists of the links taken as one list (R252). -/
def TaskSt.after (t : TaskSt) (p : Nat × Nat) : Nat × Nat := t.settle 9 (p.1, p.2 + 1)

/-- Up to `n` positions from one on. -/
def TaskSt.ahead (t : TaskSt) : Nat → Nat × Nat → List (Nat × Nat)
  | 0, _ => []
  | n + 1, p => if t.linkCount ≤ p.1 then [] else p :: t.ahead n (t.after p)

/-- The position of the sequencer. -/
def TaskSt.pos (t : TaskSt) : Nat × Nat := (t.link, t.cursor)

/-- Has the sequencer passed the last entry of the last link? -/
def TaskSt.listDone (t : TaskSt) : Bool := decide (t.linkCount ≤ (t.settle 9 t.pos).1)

/-- Place the sequencer. -/
def TaskSt.at_ (t : TaskSt) (p : Nat × Nat) : TaskSt := { t with link := p.1, cursor := p.2 }

/-- The step past an entry. -/
def TaskSt.advance (t : TaskSt) : TaskSt := t.at_ (t.after t.pos)

/-- A leaf task that asks for no work: LIST_COUNT 0 (R44), but for a SYNC task, which performs its operation once (R66). -/
def TaskSt.isEmpty (t : TaskSt) : Bool := decide (t.task.listCount = 0) && decide (t.task.kind ≠ 9)

/-- A running task of a core that uses a resource. -/
def Block.onResource (b : Block) (c : Fin 128) (r : Nat) : Option TaskSt :=
  (b.unit (.core c)).board.find? (fun t => decide (t.phase = .running) && kindResource t.task.kind.toNat == r && !t.isEmpty)

/-- The resource that a port of a fetch engine serves (R224): the operand and the drain port the array. -/
def portResource (p : Nat) : Nat := if p = 3 then 0 else p

/-- Compaction gives up the scratch window, and its wish for it (R190). -/
def Block.releaseScratch (b : Block) (c : Fin 128) : Block :=
  let w := b.rd (.drl c) Reg.DRL_SCRATCH
  let w := wsetBit w 8 false
  b.wr (.drl c) Reg.DRL_SCRATCH (if wfield w 1 0 = 1 then wset w 1 0 0 else w)

/-- Filler on an array stops in the cycle in which a task or a fallback pass is due, and gives up the scratch window (R397). -/
def Block.stopFiller (b : Block) (c : Fin 128) : Block :=
  let w := b.rd (.drl c) Reg.DRL_SCRATCH
  let b := { b with pwr := { b.pwr with filler := Sparse.put (fun _ => 0) b.pwr.filler c.val 0 } }
  if wfield w 1 0 ≠ 2 then b
  else b.wr (.drl c) Reg.DRL_SCRATCH (wset (wsetBit w 8 false) 1 0 (if (b.core c.val).fallbacks.isEmpty then 0 else 1))

/-! ## The end of a task on a core's engines -/

/-- RETAIN. -/
def TaskRec.retain (r : TaskRec) : Bool := bit (r.par 1 1) 0

/-- Show the array's tiles in DARR_STAT. -/
def Block.showTiles (b : Block) (c : Fin 128) (frozen : Bool) : Block :=
  let x := b.core c.val
  b.wrField (.darr c) Reg.STAT 7 3
    (b2n x.axis + 2 * b2n x.active.isSome + 4 * b2n x.standby.isSome + 8 * b2n x.retained.isSome + 16 * b2n frozen)

/-- Array tasks of a core that run: the one that streams last, and before it, under overlap, the one that still drains (R254). -/
def Block.arrayTasks (b : Block) (c : Fin 128) : List TaskSt :=
  (b.unit (.core c)).board.filter (fun t => decide (t.phase = .running) && kindResource t.task.kind.toNat == 0 && !t.isEmpty)

/-- Array tasks of a core into whose list the prologue of R254 has gone before their start. -/
def Block.begunAhead (b : Block) (c : Fin 128) : List TaskSt :=
  (b.unit (.core c)).board.filter (fun t =>
    decide (t.phase = .admitted) && kindResource t.task.kind.toNat == 0 && decide (t.pos ≠ (0, 0)))

/-- What an array task's end does to the core (R123): a DENSE task with RETAIN that did not fault leaves its last ACTIVE tile. What the prologue
of the next task has loaded stays (R254), and so does the drain operand of a task that still drains. -/
def Block.arrayLeave (b : Block) (c : Fin 128) (t : TaskSt) : Block :=
  let x := b.core c.val
  let keep := t.task.kind = 1 ∧ t.task.retain ∧ t.faultCode = none
  let ahead := !(b.begunAhead c).isEmpty
  let drains := (b.arrayTasks c).any (fun y => y.serial != t.serial)
  let b := b.setCore c.val { x with active := none, standby := if ahead then x.standby else none
                                    retained := if keep then x.active else none
                                    axis := false, opnd := if drains then x.opnd else none, firstLoad := !ahead }
  (b.wrField (.darr c) Reg.STAT 2 0 0).showTiles c false

/-- The running array task admitted after one with a serial number, which overlaps it (R254). -/
def Block.overlapping (b : Block) (c : Fin 128) (n : Nat) : Option TaskSt :=
  (((b.arrayTasks c).dropWhile (fun t => t.serial != n)).drop 1).head?

/-- The array as a task that is over leaves it; the tiles of a task that overlaps it stay. -/
def Block.arrayEnd (b : Block) (c : Fin 128) (t : TaskSt) : Block :=
  if (b.overlapping c t.serial).isSome then b else b.arrayLeave c t

/-- A task to be dispatched anew (R254). -/
def TaskSt.afresh (t : TaskSt) : TaskSt :=
  { t with phase := .admitted, link := 0, cursor := 0, items := 0, cycles := 0, dropped := [], refetch := [], kept := [] }

/-- What the prologue of the next array task has done is undone, and the task is dispatched afresh (R254). -/
def Block.dropPrologue (b : Block) (c : Fin 128) : Block :=
  let b := (b.begunAhead c).foldl (fun x t => x.mapTask (.core c) t.serial TaskSt.afresh) b
  b.setCore c.val { b.core c.val with standby := none }

/-- The derailleur idle again. -/
def Block.drlEnd (b : Block) (c : Fin 128) : Block :=
  (b.setCore c.val { b.core c.val with slab := none, slabNext := none, merge := [], window := [], sums := [] }).wrField (.drl c) Reg.STAT 12 0
    (b.rdN (.drl c) Reg.STAT % 256 / 128 * 128)

/-- Stop a running task with a fault (R54): its writes stay, nothing further of it runs. What the fetch engine of a core holds
for it is dropped, and so is the prologue of the next task on its resource, which is dispatched afresh (R254). -/
def Block.faultTask (b : Block) (u : UnitId) (n code : Nat) : Block :=
  match b.bySerial u n with
  | none => b
  | some t =>
    if t.phase ≠ .running then b
    else
      match u with
      | .core c =>
        let b := match b.overlapping c n with
          | some y => if kindResource t.task.kind.toNat = 0 then b.mapTask u y.serial TaskSt.afresh else b
          | none => b
        let b := if kindResource t.task.kind.toNat = 0 ∧ !(b.begunAhead c).isEmpty then b.dropPrologue c else b
        let x := b.core c.val
        let runs := fun (f : Fetched) => f.serial != n &&
          (b.unit u).board.any (fun y => y.serial == f.serial && decide (y.phase = .running))
        let keep := x.fetched.filter (fun f => portResource f.port != kindResource t.task.kind.toNat || runs f)
        let falls := x.fallbacks.filter (fun f => f.serial != n)
        let b := b.setCore c.val { x with fetched := keep, fallbacks := falls, asked := x.asked.filter (fun q => q.1 != n) }
        let b := if falls.isEmpty ∧ !x.fallbacks.isEmpty then (b.releaseScratch c).wrBit (.drl c) Reg.STAT 7 false else b
        let b := match kindResource t.task.kind.toNat with
          | 0 => b.arrayEnd c { t with faultCode := some code }
          | 1 => b.drlEnd c
          | _ => b
        b.mapTask u n (fun t => { t with phase := .finished, faultCode := some code })
      | _ => b.mapTask u n (fun t => { t with phase := .finished, faultCode := some code })

/-- The unit on whose ring a task, or the task a share came from, was placed (R480). -/
def Block.ringUnit (b : Block) : Nat → UnitId → TaskSt → UnitId
  | 0, u, _ => u
  | n + 1, u, t => match t.parent with
    | none => u
    | some p => match b.bySerial p.unit p.serial with
      | some x => if p.unit = .group then .group else b.ringUnit n p.unit x
      | none => p.unit

/-- Post an event of a task: the page is its ring's, the data its TASK_ID and the CHILD of its completion record (R480, R482). -/
def Block.postTask (b : Block) (u : UnitId) (t : TaskSt) (child code : Nat) : Block :=
  b.post code (.sch (b.ringUnit 6 u t)) (t.task.taskId.toNat + child * 2 ^ 32)

/-- CHILD of a record when no share faulted. -/
def noChild : Nat := 2 ^ 32 - 1

/-- Take the result of a share into its parent; with the last one the parent's work is finished (R49). -/
def Block.shareDone (b : Block) (u : UnitId) (serial : Nat) (r : ShareRes) : Block :=
  b.mapTask u serial (fun t =>
    let l := t.shares ++ [r]
    { t with shares := l, phase := if t.shareCount ≤ l.length then .finished else t.phase })

/-- Count cycles of a running task (R45), up to what its record can report. DESIGN CHOICE (notes/assumptions/10.md). -/
def Block.addCycles (b : Block) (u : UnitId) (n k : Nat) : Block :=
  b.mapTask u n (fun t => { t with cycles := t.cycles + k })

end Sys2Proof.Machine
end

