-- ==== Sys2Proof/Machine/Packet.lean ====
section
/-! DEFINITION. Packets of the fabric (R323): their header, the route table (R331), virtual channels (R332), sending. -/

namespace Sys2Proof.Machine

open Sys2Proof

/-- Opcodes (R323). -/
abbrev Op.readReq : Nat := 0x01
/-- WRITE. -/
abbrev Op.write : Nat := 0x02
/-- READ_RSP. -/
abbrev Op.readRsp : Nat := 0x03
/-- WRITE_ACK. -/
abbrev Op.writeAck : Nat := 0x04
/-- SEM_SIGNAL. -/
abbrev Op.semSignal : Nat := 0x05
/-- SEM_ACK. -/
abbrev Op.semAck : Nat := 0x06
/-- LINK_STATE. -/
abbrev Op.linkState : Nat := 0x30

/-- Is an opcode defined (R323, R348, R361)? -/
def opKnown (o : Nat) : Bool := [1, 2, 3, 4, 5, 6, 0x10, 0x11, 0x20, 0x21, 0x22, 0x2F, 0x30].contains o

/-- The header as a 128-bit number (R323). -/
def Packet.header (p : Packet) : Nat :=
  p.dst % 4096 * 2 ^ 116 + p.src % 4096 * 2 ^ 104 + p.cls % 4 * 2 ^ 102 + p.vc % 2 * 2 ^ 101 + p.ttl % 64 * 2 ^ 95 +
    p.opcode % 256 * 2 ^ 87 + p.length % 1024 * 2 ^ 77 + p.tag % 65536 * 2 ^ 61 + p.addr % 2 ^ 48 * 2 ^ 13

/-- A packet from its header and data. -/
def Packet.ofHeader (h : Nat) (data : List Byte) (inSpoke : Option (Fin 8)) (at_ : Nat) : Packet :=
  { dst := field h 127 116, src := field h 115 104, cls := field h 103 102, vc := field h 101 101, ttl := field h 100 95,
    opcode := field h 94 87, length := field h 86 77, tag := field h 76 61, addr := field h 60 13, data := data,
    inSpoke := inSpoke, vcIn := field h 101 101, arrived := at_ }

/-- Does a packet carry LENGTH data bytes? A READ_REQ asks for them and carries none. -/
def carriesData (opcode : Nat) : Bool := opcode != Op.readReq

/-- The bytes of a packet: header, data, padding to whole slots of 32 bytes. -/
def Packet.bytes (p : Packet) : List Byte :=
  let l := toBytes 16 p.header ++ (if carriesData p.opcode then p.data else [])
  l ++ List.replicate (roundUp l.length 32 - l.length) 0

/-- Slots of a packet. -/
def Packet.slots (p : Packet) : Nat := ceilDiv (16 + if carriesData p.opcode then p.length else 0) 32

/-- ACTIVE (R309). -/
abbrev spokeActive : Nat := 5

/-- Is a spoke ACTIVE? -/
def Block.active (b : Block) (k : Nat) : Bool := (b.spoke k).state == spokeActive

/-- A route-table entry. -/
def Block.route (b : Block) (dst : Nat) : Nat := Sparse.get (fun _ => 0) b.lly.routes (dst % 4096)

/-- The spoke a packet for a module leaves by (R331). -/
def Block.outSpoke (b : Block) (dst : Nat) : Option (Fin 8) :=
  let e := b.route dst
  let k := fun (n : Nat) => (⟨n % 8, by omega⟩ : Fin 8)
  if !bit e 15 then none
  else if b.active (field e 2 0) then some (k (field e 2 0))
  else if bit e 7 && b.active (field e 6 4) then some (k (field e 6 4))
  else none

/-- DIM of a spoke. -/
def Block.spokeDim (b : Block) (k : Fin 8) : Nat := wfield (b.rd (.spoke k) Reg.LLY_SPOKE_CFG) 5 4

/-- The virtual channel by which a packet leaves (R332). -/
def Block.outVc (b : Block) (p : Packet) (k : Fin 8) : Nat :=
  if wbit (b.rd (.spoke k) Reg.LLY_SPOKE_CFG) 0 then 1
  else match p.inSpoke with
    | none => 0
    | some j => if b.spokeDim j = b.spokeDim k then p.vcIn else 0

/-- Put a packet on the queue of a spoke. -/
def Block.enqueue (b : Block) (k : Fin 8) (p : Packet) : Block :=
  let s := b.spoke k.val
  b.setSpoke k.val { s with outq := s.outq ++ [{ p with vc := b.outVc p k }] }

/-- Is the module fenced (R339)? -/
def Block.fenced (b : Block) : Bool := b.lly.fenced

/-- How a packet of this module's own fares: sent or delivered to this module itself, unroutable, or held back by the fence. -/
inductive Sent where
  | ok | noRoute | fenced
  deriving DecidableEq, Repr

/-- Send a packet of this module's own (R331, R339). A LINK_STATE packet passes the fence. -/
def Block.send (b : Block) (p : Packet) : Sent × Block :=
  if b.fenced ∧ p.opcode ≠ Op.linkState then (.fenced, b)
  else if p.dst = b.moduleId then (.ok, { b with lly := { b.lly with inbox := b.lly.inbox ++ [p] } })
  else match b.outSpoke p.dst with
    | some k => (.ok, b.enqueue k p)
    | none => (.noRoute, b.count .llyMod Reg.LLY_NO_ROUTE 1)

/-- A packet of this module's own. -/
def Block.packet (b : Block) (dst cls opcode length tag addr : Nat) (data : List Byte) : Packet :=
  { dst := dst % 4096, src := b.moduleId, cls := cls, vc := 0, ttl := 63, opcode := opcode, length := length,
    tag := tag % 65536, addr := addr, data := data, inSpoke := none, vcIn := 0, arrived := b.now }

/-- Send a request that awaits its response (R326): the request is recorded under its tag. -/
def Block.request (b : Block) (owner : ReqOwner) (dst cls opcode length addr : Nat) (data : List Byte) :
    Sent × Block :=
  let tag := b.lly.nextTag
  let r := b.send (b.packet dst cls opcode length tag addr data)
  match r.1 with
  | .ok =>
    let q : RemoteReq := { tag := tag, owner := owner, opcode := opcode, dst := dst, addr := addr, length := length,
                           sentAt := b.now }
    (.ok, { r.2 with lly := { r.2.lly with requests := r.2.lly.requests ++ [q], nextTag := (tag + 1) % 65536 } })
  | s => (s, r.2)

/-- The code of a remote access that could not be sent (R326, R339). -/
def Sent.code : Sent → Option Nat
  | .ok => none
  | .noRoute => some Ev.FABRIC_UNREACHABLE
  | .fenced => some Ev.FENCED

/-- Key of a byte brought from another module. -/
def remoteKey (m a : Nat) : Nat := m * 2 ^ 48 + a

/-- The words of a range that is read anew are poisoned only as the new data say. -/
def Block.forgetPoison (b : Block) (m a n : Nat) : Block :=
  if b.lly.remoteBad.isEmpty then b
  else
    let k := remoteKey m a / 8
    { b with lly := { b.lly with remoteBad := Sparse.clear (fun w => decide (k ≤ w ∧ w ≤ (remoteKey m a + n - 1) / 8)) b.lly.remoteBad } }

/-- Read a range of a module's memory, at most 512 bytes a packet; the first request that cannot be sent ends it. -/
def Block.readRemote (b : Block) (owner : ReqOwner) (m : Nat) (ranges : List (Nat × Nat)) : Option Nat × Block :=
  (ranges.flatMap (fun r => pieces 512 r.1 r.2)).foldl (fun (st : Option Nat × Block) p =>
    match st.1 with
    | some _ => st
    | none => let r := (st.2.forgetPoison m p.1 p.2).request owner m 1 Op.readReq p.2 p.1 []
              (r.1.code, r.2)) (none, b)

/-- Have every byte of the ranges come from module `m`? -/
def Block.remoteHere (b : Block) (m : Nat) (ranges : List (Nat × Nat)) : Bool :=
  ranges.all (fun r => (pieces 512 r.1 r.2).all (fun p =>
    !b.lly.requests.any (fun q => q.opcode == Op.readReq && q.dst == m && q.addr == p.1)))

/-- Words that came poisoned from module `m` in a range, each as its first byte in the range (R226). -/
def Block.remotePoisoned (b : Block) (m a n : Nat) : List Nat :=
  if b.lly.remoteBad.isEmpty then []
  else (pieces 8 a n).filterMap (fun p => if Sparse.get (fun _ => false) b.lly.remoteBad (remoteKey m p.1 / 8) then some p.1 else none)

/-- Bytes brought from module `m`. -/
def Block.remoteBytes (b : Block) (m a n : Nat) : List Byte := Sparse.getList (fun _ => 0) b.lly.remote (remoteKey m a) n

end Sys2Proof.Machine
end

