-- ==== Sys2Proof/Machine/Fetch.lean ====
section
/-! DEFINITION. How tasks read and write memory (R223 to R243): errors and poison, the operand cache, shadow allocations,
page-ins, the streams of the fetch engine and its commands, the version check of global blocks (R376). -/

namespace Sys2Proof.Machine

open Sys2Proof

/-! ## Errors -/

/-- Row of a frame that holds a slot: the run of 256 slots and the pseudo-channel (R283). -/
def rowOf (frame slot : Nat) : Nat := slot / 256 * 64 + (slot + 7 * frame) % 64

/-- Mark a row of a stack for repair (R294). -/
def Block.markRow (b : Block) (st frame row : Nat) : Block :=
  let x := b.stk st
  if x.marked.contains (frame, row) then b else b.setStk st { x with marked := x.marked ++ [(frame, row)] }

/-- A corrected error of a row (R290, R294). -/
def Block.correctedError (b : Block) (st : Fin 20) (frame row : Nat) : Block :=
  let x := b.stk st.val
  let k := frame * 8192 + row
  let n := Sparse.get (fun _ => 0) x.ceRow k + 1
  let b := (b.setStk st.val { x with ceRow := Sparse.put (fun _ => 0) x.ceRow k n }).count (.hbc st) Reg.HBC_CE 1
  if max 1 (wfield (b.rd (.hbc st) Reg.HBC_CFG) 11 8) ≤ n then b.markRow st.val frame row else b

/-- A read found the word at an address correctable (R225, R290). -/
def Block.correctedWord (b : Block) (a : Nat) : Block :=
  if a < hbmBase then b.count (.tile (tileFin (a / 2 ^ 33))) Reg.TILE_SRAM_CE 1
  else if inHbm a then
    let e := b.pte (pageOf a)
    b.correctedError (stackFin e.stack) e.frame (rowOf e.frame (a % 2 ^ 21 / 512))
  else b

/-- A read found the word at an address uncorrectable (R226, R291, R294): it is poisoned and counted, its slab is to be retired
(R227) or its row repaired. -/
def Block.uncorrectable (b : Block) (a : Nat) : Block :=
  let b := b.setPoison a true
  if a < hbmBase then
    if h : a / 2 ^ 33 < 16 then
      let t : Fin 16 := ⟨a / 2 ^ 33, h⟩
      let b := ((b.count (.tile t) Reg.TILE_SRAM_UE 1).wr64 (.tile t) Reg.TILE_SRAM_ERR_ADDR a).setInt (.tile t) 2
      match b.resolve a with
      | .phys k =>
        let slab := k % 2 ^ 32 / 65536
        let x := b.tile t.val
        if a % 2 ^ 33 < 0x1C0000000 ∧ !x.bad.contains slab then b.setTile t.val { x with bad := x.bad ++ [slab] } else b
      | _ => b
    else b
  else if inHbm a then
    let e := b.pte (pageOf a)
    if h : e.stack < 20 then
      let s : Fin 20 := ⟨e.stack, h⟩
      ((b.count (.hbc s) Reg.HBC_UE 1).wr64 (.hbc s) Reg.HBC_ERR_ADDR a).markRow e.stack e.frame
        (rowOf e.frame (a % 2 ^ 21 / 512))
    else b
  else b.count .cxl Reg.CXL_POISON 1

/-- The words that reads of the module's own memory found in error, where they pass a test. -/
def Block.foundIn (b : Block) (errs : Errs) (p : Nat → Bool) : Block :=
  let here := fun (x : DWord) => p x.toNat && (match b.resolve x.toNat with | .phys _ => true | _ => false)
  ((errs.uncorr.filter here).foldl (fun x a => x.uncorrectable a.toNat)
    ((errs.corrected.filter here).foldl (fun x a => x.correctedWord a.toNat) b))

/-- The words that reads of the module's own memory found in error (R225, R226, R290, R291). -/
def Block.found (b : Block) (errs : Errs) : Block := b.foundIn errs (fun _ => true)

/-- The code of a poisoned word that is consumed (R226, R291). -/
def poisonCode (a : Nat) : Nat := if a < hbmBase then Ev.SRAM_UNCORR else Ev.HBM_UNCORR

/-! ## Page-ins -/

/-- Order in which waiting moves start (R301). -/
def MoveWhy.rank : MoveWhy → Nat
  | .demand => 0 | .page => 1 | .prefetch => 2

/-- Ask for a page to be brought in (R301): a request joins a move of the page, and raises its place where it waits; 256 moves
may wait, and a prefetch that finds no place is dropped. -/
def Block.requestPageIn (b : Block) (v : Nat) (why : MoveWhy) (owner : Option Nat) : Block :=
  if b.hbm.moves.any (fun m => m.page == v) then
    { b with hbm := { b.hbm with moves := b.hbm.moves.map (fun m =>
      if m.page = v then
        { m with why := if !m.started ∧ why.rank < m.why.rank then why else m.why
                 owners := m.owners ++ owner.toList.filter (fun n => !m.owners.contains n) }
      else m) } }
  else if 256 ≤ (b.hbm.moves.filter (fun m => !m.started)).length then
    match why with
    | .prefetch => b.count .cxl Reg.CXL_PAGE_FAIL 1
    | _ => b
  else
    { b with hbm := { b.hbm with moves := b.hbm.moves ++ [{ page := v, inward := true, why := why, started := false, frame := 0,
                                                            owners := owner.toList, victimFor := none }] } }

/-! ## Accesses of a task -/

/-- A task's address: its writes to DESC_C and its own reads of it go to its shadow (R56). -/
def Block.taskAddr (b : Block) (t : TaskSt) (a : Nat) : Nat :=
  match t.shadow with
  | none => a
  | some (sh, target) => match b.allocAt target with
    | some v => if v.base ≤ a ∧ a < v.base + v.len then sh + (a - v.base) else a
    | none => a

/-- Bytes as a task reads them. -/
def Block.taskReader (b : Block) (t : TaskSt) : Reader := fun a n => b.bytes (b.taskAddr t a) n

/-- Whether an access may go on: at once, after a page-in or a move, or not at all. -/
inductive Ready where
  | ok
  | wait
  | fault (code : Nat)
  deriving DecidableEq, Repr

/-- The die that answers for a module address: a tile, a stack, or the west port die for the far tier. -/
def Block.dieOf (b : Block) (a : Nat) : Nat :=
  if a < hbmBase then a / 2 ^ 33 else if inHbm a then 16 + (b.pte (pageOf a)).stack else 36

/-- The tile of the core that a task runs on, if it runs on one. -/
def Block.taskTile (b : Block) (t : TaskSt) : Option Nat :=
  (b.units.find? (fun p => decide (p.1 < 128) && p.2.board.any (fun x => x.serial == t.serial))).map (fun p => p.1 / 8)

/-- Can a task's core reach an address: is no link on the fixed path down (R29, R34)? Routing never goes round one.
DEDUCED (notes/assumptions/44.md). -/
def Block.reaches (b : Block) (t : TaskSt) (a : Nat) : Bool :=
  b.net.down.isEmpty || match b.taskTile t with
    | some i => b.joined i (b.dieOf a) && b.joined (b.dieOf a) i
    | none => true

/-- What a demand for byte ranges meets (R236, R300, R303): the first range that does not resolve decides. One that a failed link cuts off
waits (R34). -/
def Block.demand (b : Block) (t : TaskSt) (ranges : List (Nat × Nat)) (pageInOk : Bool) : Ready × Block :=
  ranges.foldl (fun (st : Ready × Block) r => match st.1 with
    | .ok => match st.2.probe (st.2.taskAddr t r.1) r.2 with
      | .ok => if st.2.reaches t (st.2.taskAddr t r.1) then st else (.wait, st.2)
      | .unmapped => (.fault Ev.ADDR_UNMAPPED, st.2)
      | .moving _ => (.wait, st.2)
      | .farDown => (.fault Ev.FAR_UNREACHABLE, st.2)
      | .nonResident v =>
        if !pageInOk then (.fault Ev.PAGE_NOT_RESIDENT, st.2)
        else if st.2.hbm.farDown then (.fault Ev.FAR_UNREACHABLE, st.2)
        else (.wait, st.2.requestPageIn v .demand (some t.serial))
    | _ => st) (.ok, b)

/-- Reads of byte ranges that the stacks serve at once for a die (R281, R282, R286). -/
def Block.touched (b : Block) (die : Nat) (ranges : List (Nat × Nat)) : Block :=
  (ranges.flatMap (fun r => pieces (2 ^ 21) r.1 r.2)).foldl (fun x p => (x.lookup die p.1).touchHbm p.1 p.2) b

/-- Reads of byte ranges that the stacks serve at once as an engine on a die asks. -/
def Block.served (b : Block) (die : Nat) (t : TaskSt) (ranges : List (Nat × Nat)) : Block :=
  b.touched die (ranges.map (fun r => (b.taskAddr t r.1, r.2)))

/-- The first poisoned word among byte ranges. -/
def Block.poisonIn (b : Block) (t : TaskSt) (ranges : List (Nat × Nat)) : Option Nat :=
  if b.poison.isEmpty then none
  else ranges.findSome? (fun r => (b.poisoned (b.taskAddr t r.1) r.2).head?)

/-- Is a range inside a DESCRIPTOR or LIST allocation (R93)? -/
def Block.protected_ (b : Block) (a n : Nat) : Bool :=
  (pieces 65536 a n).any (fun p => match b.kindAt p.1 with
    | some .descriptor => true
    | some .list => true
    | _ => false)

/-- Write for a task: nothing where the destination is protected, unmapped or away; the lines of its tile's operand cache that it
touches are dropped (R243). The slots that the writes take wait at the controllers in the task's name (R53, R287). -/
def Block.taskWrite (b : Block) (t : TaskSt) (tile : Option (Fin 16)) (w : List (Nat × List Byte)) (pageInOk : Bool) :
    Ready × Block :=
  if w.any (fun x => b.protected_ x.1 x.2.length) then (.fault Ev.DESC_PROTECT, b)
  else
    let r := b.demand t (w.map (fun x => (x.1, x.2.length))) pageInOk
    match r.1 with
    | .ok =>
      (.ok, w.foldl (fun x p =>
        let a := x.taskAddr t p.1
        match tile with
        | some i => ((x.lookups i.val [(a, p.2.length)]).storeFor (.writer t.serial) i.val a p.2).dropLines i.val 0 a p.2.length
        | none => (x.lookups 16 [(a, p.2.length)]).storeFor (.writer t.serial) 16 a p.2) r.2)
    | o => (o, r.2)

/-- Carry poison: the words that a write touches are poisoned (R226). DEDUCED (notes/assumptions/28.md). -/
def Block.poisonRange (b : Block) (a n : Nat) : Block := (pieces 8 a n).foldl (fun x p => x.setPoison p.1 true) b

/-! ## The operand cache (R242, R243) -/

/-- Lines of one set of the operand cache: 4,096 sets of 16 lines. DEDUCED (notes/assumptions/28.md). -/
def ocSets : Nat := 4096

/-- Does a block read through a descriptor pass through the operand cache of a tile? -/
def Block.cacheable (b : Block) (t : Fin 16) (d : Desc) (holder : Nat) : Bool :=
  wbit (b.rd (.tile t) Reg.TILE_OC_CTL) 0 && d.readOnly && !d.tracked &&
    (holder != 0 || inHbm d.base || (decide (d.base < hbmBase) && decide (d.base / 2 ^ 33 ≠ t.val)))

/-- A line as it lies in memory or came from another module. -/
def Block.lineBytes (b : Block) (holder line : Nat) : OcLine :=
  if holder = 0 then ⟨0, line, b.bytes (512 * line) 512, b.poisoned (512 * line) 512⟩
  else ⟨holder, line, b.remoteBytes (holder - 1) (512 * line) 512, b.remotePoisoned (holder - 1) (512 * line) 512⟩

/-- Put a line first, dropping the least recently used line of its set beyond sixteen. DEDUCED (notes/assumptions/28.md). -/
def ocInsert (l : OcLine) (m : List OcLine) : List OcLine :=
  let m := m.filter (fun x => !(x.holder == l.holder && x.line == l.line))
  let same := m.filter (fun x => x.line % ocSets == l.line % ocSets)
  l :: match (same.drop 15).head? with
    | some v => m.filter (fun x => !(x.holder == v.holder && x.line == v.line))
    | none => m

/-- Read one line through the cache, counting a hit or a miss. A line missed is as its fetch brought it, `got`, or else is read now, by a
slot where it lies in HBM. -/
def Block.ocRead (b : Block) (t : Fin 16) (holder line : Nat) (got : Option OcLine) : OcLine × Block :=
  let x := b.tile t.val
  match x.oc.find? (fun l => l.holder == holder && l.line == line) with
  | some l => (l, (b.setTile t.val { x with oc := ocInsert l x.oc }).count (.tile t) Reg.TILE_OC_HIT 1)
  | none =>
    let b := if holder = 0 ∧ got.isNone then (b.lookup t.val (512 * line)).touchHbm (512 * line) 512 else b
    let l := got.getD (b.lineBytes holder line)
    (l, (b.setTile t.val { x with oc := ocInsert l x.oc }).count (.tile t) Reg.TILE_OC_MISS 1)

/-- Bytes of ranges with their addresses, and the poisoned words among them, through the cache or not. `got` gives the lines that a fetch
has brought. -/
def Block.readRanges (b : Block) (t : Fin 16) (task : TaskSt) (cached : Bool) (holder : Nat) (got : Nat → Option OcLine)
    (ranges : List (Nat × Nat)) : (List (Nat × Byte) × List Nat) × Block :=
  if cached then
    (ranges.flatMap (fun r => pieces 512 r.1 r.2)).foldl (fun (st : (List (Nat × Byte) × List Nat) × Block) p =>
      let l := st.2.ocRead t holder (p.1 / 512) (got (p.1 / 512))
      ((st.1.1 ++ ((l.1.data.drop (p.1 % 512)).take p.2).zipIdx.map (fun x => (p.1 + x.2, x.1)),
        st.1.2 ++ l.1.poisoned.filter (fun w => decide (w / 8 * 8 < p.1 + p.2) && decide (p.1 < w / 8 * 8 + 8))), l.2)) (([], []), b)
  else
    ((ranges.flatMap (fun r =>
      (if holder = 0 then b.bytes (b.taskAddr task r.1) r.2 else b.remoteBytes (holder - 1) r.1 r.2).zipIdx.map
        (fun x => (r.1 + x.2, x.1))),
      ranges.flatMap (fun r => if holder = 0 then b.poisoned (b.taskAddr task r.1) r.2 else b.remotePoisoned (holder - 1) r.1 r.2)), b)

/-- A reader over bytes already taken. -/
def snapReader (s : List (Nat × Byte)) : Reader :=
  fun a n => (List.range n).map (fun i => match s.find? (fun x => x.1 == a + i) with
    | some x => x.2
    | none => 0)

/-! ## Where a block comes from -/

/-- A block to read: its descriptor and entry, in the shard's own coordinates for a global tensor; 0 or 1 + the module that holds
it; map entry and version attached (R376). -/
structure Source where
  d : Desc
  e : Entry32
  holder : Nat
  version : Option (Nat × Nat)
  deriving DecidableEq, Repr

/-- Look up a block (R103); none where the shard's map entry is not valid. An empty block is not looked up.
DEDUCED (notes/assumptions/28.md). -/
def Block.source (b : Block) (d : Desc) (e : Entry32) : Option Source :=
  if !d.isGlobal ∨ e.empty then some ⟨d, e, 0, none⟩
  else
    let sc := d.shardCoords e.rowStart e.colStart
    let i := d.mapIndex sc
    let s := b.shard i
    if !shardValid s then none
    else
      let sd := d.shardDesc sc (shardAddr s)
      some ⟨sd, d.shardEntry e sc sd, if shardHolder s = b.moduleId then 0 else 1 + shardHolder s,
        some (i, shardVersion s)⟩

/-- Byte ranges of a block. -/
def Source.ranges (s : Source) : List (Nat × Nat) := s.d.blockRanges s.e

/-- The allocation that holds the shard a request is for: of the shards that this module's map has here, the one with the greatest
address not above the request's. DEDUCED (notes/assumptions/28.md). -/
def Block.shardAlloc (b : Block) (a : Nat) : Option AllocView :=
  let l := (b.shm.map.filter (fun p => shardValid p.2 && decide (shardHolder p.2 = b.moduleId) && decide (shardAddr p.2 ≤ a))).map
    (fun p => shardAddr p.2)
  match l with
  | [] => b.allocAt a
  | x :: r => b.allocAt (r.foldl max x)

/-- The holder's check of a request (R103): does it lie inside the allocation that holds the shard? -/
def Block.shardFits (b : Block) (a n : Nat) : Bool :=
  match b.shardAlloc a with
  | some v => !v.freed && decide (v.base ≤ a) && decide (a + n ≤ v.base + v.len)
  | none => false

/-- Does a block of a global tensor that this module holds pass the holder's check? -/
def Block.sourceFits (b : Block) (s : Source) : Bool :=
  s.version.isNone || s.holder != 0 || s.ranges.all (fun r => b.shardFits r.1 r.2)

/-- Element bytes of a block, which its port delivers (R113). DEDUCED (notes/assumptions/28.md). -/
def Source.portBytes (s : Source) : Nat :=
  if s.e.empty then 0 else s.e.rowCount * s.d.spanBytes s.e.rowStart s.e.colStart s.e.colCount

/-- Count bytes that a core's ports deliver (R224, R256). DEDUCED (notes/assumptions/28.md). -/
def Block.portIn (b : Block) (c : Fin 128) (n : Nat) : Block := b.count (.fet c) Reg.FET_BYTES_IN n

/-- Read ranges of the module's own memory through a descriptor for a core: counted, through the operand cache where it holds them, and
otherwise from where they lie. The answer reads them and names the poisoned words. -/
def Block.portRanges (b : Block) (c : Fin 128) (t : TaskSt) (d : Desc) (bytes : Nat) (ranges : List (Nat × Nat)) :
    (Reader × List Nat) × Block :=
  let tile := coreTile c
  let b := b.portIn c bytes
  if b.cacheable tile d 0 then
    let r := b.readRanges tile t true 0 (fun _ => none) ranges
    ((snapReader r.1.1, r.1.2), r.2)
  else
    let b := b.served tile.val t ranges
    ((b.taskReader t, if b.poison.isEmpty then [] else ranges.flatMap (fun r => b.poisoned (b.taskAddr t r.1) r.2)), b)

/-- Columns of a row that a core's port reads. -/
def Block.portRow (b : Block) (c : Fin 128) (t : TaskSt) (d : Desc) (row c0 n : Nat) : (Reader × List Nat) × Block :=
  b.portRanges c t d (d.spanBytes row c0 n) (d.spanRanges row c0 n)

/-- Columns of a row that a core's port reads: the reads alone. -/
def Block.portRead (b : Block) (c : Fin 128) (t : TaskSt) (d : Desc) (row c0 n : Nat) : Block := (b.portRow c t d row c0 n).2

/-- Check a consumed global block's version against the record (R376, R379): none when it may be consumed. -/
def Block.checkVersion (b : Block) (allowNewer : Bool) (v : Option (Nat × Nat)) : Option Nat × Block :=
  match v with
  | none => (none, b)
  | some (i, ver) =>
    let r := Sparse.get (fun _ => 0) b.shm.record i
    let set := fun (x : Block) =>
      { x with shm := { x.shm with record := Sparse.put (fun _ => 0) x.shm.record i (2 ^ 16 + ver % 2 ^ 16) } }
    let show_ := fun (x : Block) =>
      if x.rdN .shm Reg.SHM_REC_SEL = i then x.wrN .shm Reg.SHM_REC_DATA (2 ^ 31 + ver % 2 ^ 16) else x
    if r = 0 then (none, show_ (set b))
    else if r % 2 ^ 16 = ver then (none, b)
    else if allowNewer then (none, (show_ (set b)).count .shm Reg.SHM_NEWER 1)
    else
      let b := b.count .shm Reg.SHM_VERSION_FAULTS 1
      (some Ev.SHARD_VERSION,
        if wbit (b.rd .shm Reg.SHM_REC_STAT) 31 then b else b.wrN .shm Reg.SHM_REC_STAT (2 ^ 31 + i))

/-! ## Streams -/

/-- The port an entry is fetched on, by kind and SRC; none for an entry that only writes. -/
def portFor (kind src : Nat) : Option Nat :=
  if kind = 1 ∨ kind = 5 then (if src = 2 then none else if src = 3 then some 3 else some 0)
  else if kind = 4 then (if src = 0 then some 2 else none)
  else if src = 2 then none
  else some 1

/-- The descriptor address that SRC names in a record (R91). -/
def TaskRec.descOf (r : TaskRec) (src : Nat) : Nat :=
  match src with
  | 0 => r.descA.toNat | 1 => r.descB.toNat | 2 => r.descC.toNat | _ => r.descD.toNat

/-- One number for a position in a task's lists. -/
def posKey (p : Nat × Nat) : Nat := p.1 * 2 ^ 32 + p.2

/-- The position of a number. -/
def keyPos (k : Nat) : Nat × Nat := (k / 2 ^ 32, k % 2 ^ 32)

/-- The entry at a position. -/
def Block.entryAt (b : Block) (t : TaskSt) (p : Nat × Nat) : Entry32 := b.entry (t.recAt p.1).list.toNat p.2

/-- The descriptor that an entry names. -/
def Block.descAt (b : Block) (t : TaskSt) (p : Nat × Nat) (e : Entry32) : Desc := b.desc ((t.recAt p.1).descOf e.src)

/-- The array task that loads and streams: of two that overlap (R254) the later one, but for an entry to load or stream that the earlier
one has reached. -/
def Block.streamTask (b : Block) (c : Fin 128) : Option TaskSt :=
  let l := b.arrayTasks c
  match l.find? (fun t => !t.listDone && decide ((b.entryAt t t.pos).src ≤ 1)) with
  | some t => some t
  | none => l.getLast?

/-- The array task that drains: of two that overlap the earlier one, until its list is done. -/
def Block.drainTask (b : Block) (c : Fin 128) : Option TaskSt :=
  let l := b.arrayTasks c
  match l.find? (fun t => !t.listDone) with
  | some t => some t
  | none => l.head?

/-- A core's running task on a port, while its tile's clocks run. DEDUCED (notes/assumptions/24.md). -/
def Block.portTask (b : Block) (c : Fin 128) (port : Nat) : Option TaskSt :=
  if !b.lock (coreTile c).val then none
  else if port = 0 then b.streamTask c else if port = 3 then b.drainTask c else b.onResource c port

/-- A step of a task: it reads the records that it started with (R100). -/
def Block.asTask (t : TaskSt) (f : Block → Block) (b : Block) : Block := { f { b with lens := t.kept } with lens := [] }

/-- A step of an engine on a port of a core, for its task; words that its reads find in error are noted. -/
def Block.engine (c : Fin 128) (port : Nat) (errs : Errs) (f : Block → Block) (b : Block) : Block :=
  match b.portTask c port with
  | none => b
  | some t => b.asTask t (fun x => f (x.found errs))

/-- A block that the fetch engine has requested or holds. -/
def Block.fetched? (b : Block) (c : Fin 128) (port serial key : Nat) : Option Fetched :=
  (b.core c.val).fetched.find? (fun f => f.port == port && f.serial == serial && f.entry == key)

/-- Change a block of a core's fetch engine. -/
def Block.mapFetched (b : Block) (c : Fin 128) (id : Nat) (f : Fetched → Fetched) : Block :=
  let x := b.core c.val
  b.setCore c.val { x with fetched := x.fetched.map (fun y => if y.id = id then f y else y) }

/-- Drop a block of a core's fetch engine. -/
def Block.dropFetched (b : Block) (c : Fin 128) (id : Nat) : Block :=
  let x := b.core c.val
  b.setCore c.val { x with fetched := x.fetched.filter (fun y => y.id != id) }

/-- Granules that ranges touch, each as its module address ÷ 2¹⁶ with the frame it lies in and its generation (R240, R304). -/
def Block.granules (b : Block) (ranges : List (Nat × Nat)) : List (Nat × Nat) :=
  (ranges.flatMap (fun r => (pieces 65536 r.1 r.2).map (fun p => p.1 / 65536))).eraseDups.map (fun g =>
    let e := b.pte (pageOf (g * 65536))
    let gi := e.frame * 32 + g % 32
    (g, if e.valid ∧ e.resident then
          (1 + e.stack * 2 ^ 16 + e.frame) * 2 ^ 16 + Sparse.get (fun _ => 0) (b.stk e.stack).gran gi
        else 0))

/-- Register a core with the controllers of granules (R240). -/
def Block.registerGranules (b : Block) (c : Fin 128) (gs : List (Nat × Nat)) : Block :=
  gs.foldl (fun x g =>
    let e := x.pte (pageOf (g.1 * 65536))
    let s := x.stk e.stack
    let gi := e.frame * 32 + g.1 % 32
    let l := Sparse.get (fun _ => ([] : List Nat)) s.reg gi
    if l.contains c.val then x
    else x.setStk e.stack { s with reg := Sparse.put (fun _ => []) s.reg gi (l ++ [c.val]) }) b

/-- Entries in use in a core's tracking table (R240). -/
def CoreSt.tracked (x : CoreSt) : Nat := (x.fetched.map (fun f => f.grans.length)).sum

/-- The setting m a tile runs at (R406); 0 while its ACLK is stopped. -/
def Block.setting (b : Block) (t : Fin 16) : Nat := wfield (b.rd .clk (Reg.CLK_TILE t.val)) 4 0

/-- MCLK cycles that a number of a tile's ACLK cycles takes: 62.5 MHz × m against 500 MHz. -/
def Block.aclkToMclk (b : Block) (t : Fin 16) (n : Nat) : Nat := ceilDiv (8 * n) (max 1 (b.setting t))

/-- Bytes of a range list. -/
def rangeBytes (l : List (Nat × Nat)) : Nat := (l.map (fun r => r.2)).sum

/-- What a block takes of its port's queue (R232): bytes of rows, and bytes of scales; a LOAD goes to the STANDBY registers. -/
def queueTakes (port src : Nat) (s : Source) : Nat × Nat :=
  if port = 0 ∧ src = 1 then (0, 0)
  else
    let n := if s.e.empty ∨ s.d.layout = 1 then 0 else s.e.rowCount * ((s.d.spanRanges s.e.rowStart s.e.colStart s.e.colCount).drop 1 |> rangeBytes)
    (rangeBytes s.ranges - n, n)

/-- The lines of the operand cache that a block needs and its tile's cache does not hold. -/
def Block.missing (b : Block) (t : Fin 16) (s : Source) : List Nat :=
  let held := (b.tile t.val).oc
  ((s.ranges.flatMap (fun r => pieces 512 r.1 r.2)).map (fun q => q.1 / 512)).eraseDups.filter (fun l =>
    !held.any (fun x => x.holder == s.holder && x.line == l))

/-- The block of a tile's cores that already fetches a line of the operand cache (R242). -/
def Block.fetching (b : Block) (t : Fin 16) (holder line : Nat) : Option Nat :=
  (List.range 8).findSome? (fun i => ((b.core (8 * t.val + i)).fetched.find? (fun f =>
    !f.arrived && f.holder == holder && f.lines.contains line)).map (fun f => f.id))

/-- The deadline of a block in MCLK cycles (R237), 0 for none. That of a task not yet started is set anew at its first cycle.
DESIGN CHOICE (notes/assumptions/28.md). -/
def Block.deadlineOf (b : Block) (c : Fin 128) (t : TaskSt) (e : Entry32) : Nat :=
  if e.deadline = 0 then 0
  else (match t.phase with | .admitted => b.now | _ => t.arriveTime) + b.aclkToMclk (coreTile c) (256 * e.deadline)

/-- Urgency of a prefetch with a deadline (R237). -/
def Block.prefetchUrgency (b : Block) (deadline : Nat) : Nat := if deadline = 0 then 3 else if deadline ≤ b.now then 1 else 2

/-- Issue the fetch of a block: to the stacks' controllers, to another module, or to SRAM. A line of the operand cache that another block
already fetches is not fetched again (R242). The answer is the block's number, and the code of a remote request that cannot be sent. -/
def Block.issue (b : Block) (c : Fin 128) (t : TaskSt) (port : Nat) (p : Nat × Nat) (s : Source) (urgency deadline : Nat)
    (refetch : Bool) : (Nat × Option Nat) × Block :=
  let tile := coreTile c
  let n := b.newSerial
  let b := n.2
  let gs := if s.d.tracked then b.granules s.ranges else []
  let cached := b.cacheable tile s.d s.holder
  let miss := if cached then b.missing tile s else []
  let own := miss.filter (fun l => (b.fetching tile s.holder l).isNone)
  let need := if cached then own.map (fun l => (512 * l, 512)) else s.ranges
  let takes := queueTakes port (b.entryAt t p).src s
  let f : Fetched := { id := n.1, port := port, serial := t.serial, entry := posKey p, urgency := urgency, deadline := deadline,
                       issued := b.now, arrived := false, snap := [], poisoned := [], grans := gs, refetched := refetch,
                       checked := false, version := s.version, holder := s.holder, rowBytes := takes.1, sideBytes := takes.2,
                       lines := own, joined := (miss.filterMap (fun l => b.fetching tile s.holder l)).eraseDups }
  let x := b.core c.val
  let b := (b.setCore c.val { x with fetched := x.fetched ++ [f] }).registerGranules c gs
  if s.holder = 0 then
    let mapped := need.map (fun r => (b.taskAddr t r.1, r.2))
    let b := b.lookups tile.val mapped
    ((n.1, none), b.queueSlots (b.hbmPieces (.block n.1) false urgency deadline tile.val (4 * c.val + port) mapped))
  else
    let r := b.readRemote (.fetch c t.serial n.1) (s.holder - 1) need
    ((n.1, r.1), r.2)

/-- Capacity of a port's queue in bytes of rows and in bytes of scales (R232, R170): the array's operand queue, the derailleur's
coalescer buffer, the copy path's queue, and operand and statistics reads of 32 bank rows for the drain.
DEDUCED (notes/assumptions/28.md). -/
def queueBytes : Nat → Nat × Nat
  | 0 => (131072, 8192) | 1 => (131072, 131072) | 2 => (65536, 65536) | _ => (32 * (512 + 16), 32 * (512 + 16))

/-- Bytes that a port's queue holds or awaits, of rows and of scales, whatever task they are for (R233). -/
def Block.inQueue (b : Block) (c : Fin 128) (port : Nat) : Nat × Nat :=
  let l := (b.core c.val).fetched.filter (fun f => f.port == port)
  ((l.map (fun f => f.rowBytes)).sum, (l.map (fun f => f.sideBytes)).sum)

/-- Has a port's queue room for a block? -/
def Block.queueRoom (b : Block) (c : Fin 128) (port : Nat) (takes : Nat × Nat) : Bool :=
  let q := queueBytes port
  let h := b.inQueue c port
  if port = 0 then decide (h.1 + takes.1 ≤ q.1) && decide (h.2 + takes.2 ≤ q.2)
  else decide (h.1 + h.2 + takes.1 + takes.2 ≤ q.1)

/-- Is an entry a LOAD of an array task? -/
def Block.isLoad (b : Block) (t : TaskSt) (p : Nat × Nat) : Bool :=
  kindResource (t.recAt p.1).kind.toNat == 0 && (b.entryAt t p).src == 1

/-- May a LOAD be fetched ahead: are the STANDBY registers free, with no other block on its way to them? -/
def Block.standbyFree (b : Block) (c : Fin 128) : Bool :=
  let x := b.core c.val
  x.standby.isNone && !x.fetched.any (fun f => f.port == 0 && (match (b.unit (.core c)).board.find? (fun t => t.serial == f.serial) with
    | some t => b.isLoad t (keyPos f.entry)
    | none => false))

/-- Must the fetch of an entry of a later link of a chain wait (R252)? Where the link takes its DESC_A from the one before it, the entry
waits for the DRAINs still to come that write a row of its block; where a link reads what an earlier one writes in another way, it waits
for the whole of that link. -/
def Block.chainHeld (b : Block) (t : TaskSt) (p : Nat × Nat) : Bool :=
  let e := b.entryAt t p
  let d := b.descAt t p e
  let r := t.recAt p.1
  (List.range p.1).any (fun l => decide (t.link ≤ l) && decide ((t.recAt l).descC ≠ 0) &&
    (if l + 1 = p.1 ∧ e.src = 0 ∧ r.descA = (t.recAt l).descC then
      (List.range (t.recAt l).listCount.toNat).any (fun k => decide (l ≠ t.link ∨ t.cursor ≤ k) &&
        (let q := b.entryAt t (l, k)
         q.src == 2 && decide (q.rowStart < e.rowStart + e.rowCount) && decide (e.rowStart < q.rowStart + q.rowCount)))
    else
      let o := b.desc (t.recAt l).descC.toNat
      (o.isGlobal && d.isGlobal) || o.sharesByte d))

/-- Do writes of a chain to another module still await their acknowledgements (R252)? A later link that reads a global tensor
waits for them. -/
def Block.linkWrites (b : Block) (c : Fin 128) (t : TaskSt) (d : Desc) : Bool :=
  !t.links.isEmpty && d.isGlobal && b.lly.requests.any (fun q => q.opcode == Op.write && q.owner == .task (.core c) t.serial)

/-- The positions that run-ahead may fetch on a port (R233, R235): past the consumer's, or from it on for a task not yet started; neither
fetched nor dropped. -/
def Block.aheadOn (b : Block) (c : Fin 128) (t : TaskSt) (port runahead : Nat) (own : Bool) : List (Nat × Nat) :=
  ((t.ahead (runahead + 1) t.pos).drop (if own then 0 else 1)).filter (fun p =>
    portFor (t.recAt p.1).kind.toNat (b.entryAt t p).src == some port && !t.dropped.contains (posKey p) &&
      (b.fetched? c port t.serial (posKey p)).isNone)

/-- The position that run-ahead fetches next on a port: on the operand port a LOAD, once STANDBY can take it, goes before the rows of
later STREAMs (R113). -/
def Block.nextAhead (b : Block) (c : Fin 128) (t : TaskSt) (port runahead : Nat) (own : Bool) : Option (Nat × Nat) :=
  let l := b.aheadOn c t port runahead own
  if port ≠ 0 then l.head?
  else
    let wants := !own && !t.listDone && b.isLoad t t.pos && (b.fetched? c 0 t.serial (posKey t.pos)).isNone
    match if b.standbyFree c ∧ !wants then l.find? (fun p => b.isLoad t p) else none with
    | some p => some p
    | none => l.find? (fun p => !b.isLoad t p)

/-- Drop a prefetch (R235): its block is fetched as a demand when the consumer reaches it. -/
def Block.dropPrefetch (b : Block) (c : Fin 128) (serial key : Nat) : Block :=
  (b.mapTask (.core c) serial (fun t => { t with dropped := key :: t.dropped })).count (.fet c) Reg.FET_PF_DROPPED 1

/-- One step of run-ahead for a task (R233, R235, R240). -/
def Block.prefetchFor (b : Block) (c : Fin 128) (port : Nat) (t : TaskSt) (own : Bool) : Block :=
  match b.nextAhead c t port t.runahead own with
  | none => b
  | some p =>
    let e := b.entryAt t p
    let d := b.descAt t p e
    if b.chainHeld t p ∨ b.linkWrites c t d then b
    else match b.source d e with
    | none => b.dropPrefetch c t.serial (posKey p)
    | some s =>
      let gs := if s.d.tracked then b.granules s.ranges else []
      let deadline := b.deadlineOf c t s.e
      if !b.queueRoom c port (queueTakes port e.src s) ∨ 256 < (b.core c.val).tracked + gs.length then b
      else if s.holder ≠ 0 then
        let r := b.issue c t port p s (b.prefetchUrgency deadline) deadline false
        match r.1.2 with
        | none => r.2
        | some _ => (r.2.dropFetched c r.1.1).dropPrefetch c t.serial (posKey p)
      else match s.ranges.findSome? (fun r => match b.probe (b.taskAddr t r.1) r.2 with
          | .ok => if b.reaches t (b.taskAddr t r.1) then none else some (.moving 0)
          | a => some a) with
        | none =>
          if !b.sourceFits s then b.dropPrefetch c t.serial (posKey p)
          else (b.issue c t port p s (b.prefetchUrgency deadline) deadline false).2
        | some (.moving _) => b
        | some (.nonResident v) =>
          let y := b.dropPrefetch c t.serial (posKey p)
          let z := if s.e.pageInOk ∧ !b.hbm.farDown then y.requestPageIn v .prefetch none else y
          if z.hbm.moves.length = y.hbm.moves.length then z else z.count (.fet c) Reg.FET_PAGE_IN 1
        | some _ => b.dropPrefetch c t.serial (posKey p)

/-- A prefetch on a port of a core. DEDUCED (notes/assumptions/28.md). -/
def prefetchIssue (c : Fin 128) (port : Fin 4) : Block → Block := Block.engine c port.val .none (fun b =>
  match b.portTask c port.val with
  | some t => b.prefetchFor c port.val t false
  | none => b)

/-- PREFETCH_ISSUE (R235). -/
def execPrefetchIssue (c : Fin 128) (port : Fin 4) (s : State) : Host.Outcome State Fault Refusal :=
  s.onBlock (prefetchIssue c port)

/-- Set the urgency of a waiting block and of its slot requests. -/
def Block.setUrgency (b : Block) (c : Fin 128) (id u : Nat) : Block :=
  let b := b.mapFetched c id (fun f => { f with urgency := u })
  let up := fun (q : SlotReq) => if q.owner = .block id then { q with urgency := u } else q
  { b with stks := b.stks.map (fun p => (p.1, { p.2 with queue := p.2.queue.map up, beyond := p.2.beyond.map up })) }

/-- A demand on a port of a core, for the entry its consumer has reached (R234, R236). `uncorr` names the words of the block
that the read finds uncorrectable. A prefetch of the block on its way becomes a demand. -/
def demandFetch (c : Fin 128) (port : Fin 4) (uncorr : List DWord) : Block → Block := Block.engine c port.val .none (fun b =>
  match b.portTask c port.val with
  | none => b
  | some t =>
    let p := t.pos
    let e := b.entryAt t p
    if t.listDone ∨ portFor (t.recAt p.1).kind.toNat e.src ≠ some port.val ∨ b.linkWrites c t (b.descAt t p e) then b
    else
      match b.fetched? c port.val t.serial (posKey p) with
      | some f => if f.arrived ∨ f.urgency = 0 then b else b.setUrgency c f.id 0
      | none =>
        let d := b.descAt t p e
        let again := t.refetch.contains (posKey p)
        match b.source d e with
        | none => b.faultTask (.core c) t.serial Ev.SHARD_ABSENT
        | some s =>
          if s.holder ≠ 0 then
            let r := b.issue c t port.val p s 0 (b.deadlineOf c t s.e) again
            match r.1.2 with
            | none => r.2
            | some code => b.faultTask (.core c) t.serial code
          else if !b.sourceFits s then b.faultTask (.core c) t.serial Ev.DESC_RANGE
          else
            let r := b.demand t s.ranges s.e.pageInOk
            match r.1 with
            | .fault code => r.2.faultTask (.core c) t.serial code
            | .wait => r.2
            | .ok =>
              let hit := uncorr.filter (fun a => s.ranges.any (fun g => decide (g.1 / 8 ≤ a.toNat / 8) &&
                decide (a.toNat / 8 ≤ (g.1 + g.2 - 1) / 8)))
              (((hit.foldl (fun x a => x.uncorrectable a.toNat) r.2).issue c t port.val p s 0 (b.deadlineOf c t s.e) again)).2)

/-- DEMAND_FETCH (R236). -/
def execDemandFetch (c : Fin 128) (port : Fin 4) (uncorr : List DWord) (s : State) : Host.Outcome State Fault Refusal :=
  s.onBlock (demandFetch c port uncorr)

/-- The answer to a block's remote request is a refusal, or none came in time: a demand faults its task, a prefetch is dropped (R103, R236,
R326). -/
def Block.fetchRefused (b : Block) (c : Fin 128) (serial id code : Nat) : Block :=
  match (b.core c.val).fetched.find? (fun f => f.id == id) with
  | none => b
  | some f =>
    if f.urgency = 0 then b.faultTask (.core c) serial code
    else (b.dropFetched c id).dropPrefetch c serial f.entry

/-- Is any piece of a block still waiting at a stack? -/
def Block.slotsWait (b : Block) (id : Nat) : Bool :=
  b.stks.any (fun s => s.2.queue.any (fun q => q.owner == .block id) || s.2.beyond.any (fun q => q.owner == .block id))

/-- A line of the operand cache that a block's own slots have brought. -/
def Fetched.line (f : Fetched) (line : Nat) : Option OcLine :=
  if f.holder = 0 ∧ f.lines.contains line ∧ f.snap.any (fun x => x.1 == 512 * line) then
    some ⟨0, line, snapReader f.snap (512 * line) 512, f.poisoned.filter (fun w => w / 512 == line)⟩
  else none

/-- Take a block's bytes into its queue: those that its stack or module has delivered, and the rest from SRAM. -/
def Block.takeBlock (b : Block) (c : Fin 128) (t : TaskSt) (f : Fetched) (s : Source) : Block :=
  let tile := coreTile c
  let cached := b.cacheable tile s.d s.holder
  let rest := if cached then s.ranges else s.ranges.flatMap (fun r =>
    ((pieces 512 r.1 r.2).filter (fun q => !f.snap.any (fun x => x.1 == q.1))))
  let r := b.readRanges tile t cached s.holder f.line rest
  let late := decide (f.deadline ≠ 0) && decide (f.deadline < b.now)
  let b := r.2.mapFetched c f.id (fun f => { f with
    snap := if cached then r.1.1 else f.snap ++ r.1.1
    poisoned := if cached then r.1.2 else f.poisoned ++ r.1.2
    arrived := true })
  let b := b.portIn c s.portBytes
  if late then b.count (.fet c) Reg.FET_LATE 1 else b

/-- The task, source and entry of a block that the fetch engine awaits. -/
def Block.blockOf (b : Block) (c : Fin 128) (f : Fetched) : Option (TaskSt × Source) :=
  match b.bySerial (.core c) f.serial with
  | none => none
  | some t =>
    let p := keyPos f.entry
    let e := b.entryAt t p
    (b.source (b.descAt t p e) e).map (fun s => (t, s))

/-- Has all of a block come that its port does not read itself? -/
def Block.deliverable (b : Block) (c : Fin 128) (f : Fetched) : Bool :=
  !f.arrived && !b.slotsWait f.id && match b.blockOf c f with
    | none => true
    | some (_, s) =>
      (s.holder == 0 || b.remoteHere (s.holder - 1) (if b.cacheable (coreTile c) s.d s.holder then
        (s.ranges.flatMap (fun r => pieces 512 r.1 r.2)).map (fun q => (q.1 / 512 * 512, 512)) else s.ranges)) &&
      f.joined.all (fun i => !(List.range 8).any (fun k => (b.core (8 * (c.val / 8) + k)).fetched.any (fun g => g.id == i && !g.arrived)))

/-- Does a block lie wholly in the home slice of its core, so that it does not pass the die hub (R224)? -/
def Block.atHome (b : Block) (c : Fin 128) (f : Fetched) : Bool :=
  match b.blockOf c f with
  | none => true
  | some (t, s) => s.holder == 0 && s.ranges.all (fun r => match b.resolve (b.taskAddr t r.1) with
      | .phys k => decide (k < 2 ^ 40) && decide (k / 2 ^ 32 = c.val / 8) && decide (k % 2 ^ 32 / 2 ^ 29 = c.val % 8)
      | _ => false)

/-- Place of a request in the order of R238, smaller first: its urgency, then its age, its deadline, or for BULK its port's place in the
turn after the port served last. -/
def servePlace (turn : Nat) (urgency age deadline port : Nat) : Nat × Nat :=
  (urgency, if urgency = 2 then deadline else if urgency = 3 then (port + 1026 - turn % 513 - 1) % 513 else age)

/-- Does a place come before another? -/
def placeBefore (x y : Nat × Nat) : Bool := decide (x.1 < y.1) || (x.1 == y.1 && decide (x.2 < y.2))

/-- Place of a core's block at its die hub. -/
def Fetched.place (f : Fetched) (turn : Nat) (c : Fin 128) : Nat × Nat :=
  servePlace turn f.urgency f.issued f.deadline (4 * c.val + f.port)

/-- The first of a list by place. -/
def firstPlace (turn : Nat) (c : Fin 128) : List Fetched → Option Fetched
  | [] => none
  | f :: l => match firstPlace turn c l with
    | none => some f
    | some g => if placeBefore (g.place turn c) (f.place turn c) then some g else some f

/-- Does the die hub serve another block before one (R238)? -/
def Block.hubBusy (b : Block) (c : Fin 128) (f : Fetched) : Bool :=
  let turn := (b.tile (c.val / 8)).turn
  (List.range 8).any (fun i =>
    if h : 8 * (c.val / 8) + i < 128 then
      let k : Fin 128 := ⟨8 * (c.val / 8) + i, h⟩
      (b.core k.val).fetched.any (fun g => b.deliverable k g && !b.atHome k g && placeBefore (g.place turn k) (f.place turn c))
    else false)

/-- The data of a block that a port awaits arrives, once its stacks or its module have delivered it: the block that the die hub serves
first, which a block from the home slice does not wait for (R224, R238). `errs` names words that the reads of SRAM found in error.
DEDUCED (notes/assumptions/28.md). -/
def fetchDataArrive (c : Fin 128) (port : Fin 4) (errs : Errs) : Block → Block := Block.engine c port.val .none (fun b =>
  let x := b.tile (c.val / 8)
  match firstPlace x.turn c ((b.core c.val).fetched.filter (fun f => f.port == port.val && b.deliverable c f)) with
  | none => b
  | some f =>
    match b.blockOf c f with
    | none => b.dropFetched c f.id
    | some (t, s) =>
      let home := b.atHome c f
      if !home ∧ b.hubBusy c f then b
      else
        let b := b.foundIn errs (fun a => decide (a < hbmBase) && s.holder == 0 &&
          s.ranges.any (fun g => decide (b.taskAddr t g.1 / 8 ≤ a / 8) && decide (a / 8 ≤ (b.taskAddr t g.1 + g.2 - 1) / 8)))
        let b := if home ∨ f.urgency ≠ 3 then b else b.setTile (c.val / 8) { b.tile (c.val / 8) with turn := 4 * c.val + f.port }
        b.takeBlock c t f s)

/-- FETCH_DATA_ARRIVE (R224, R238). -/
def execFetchDataArrive (c : Fin 128) (port : Fin 4) (errs : Errs) (s : State) : Host.Outcome State Fault Refusal :=
  s.onBlock (fetchDataArrive c port errs)

/-- A DEADLINE request whose deadline has passed becomes LATE. -/
def deadlineLate (c : Fin 128) (port : Fin 4) (b : Block) : Block :=
  match (b.core c.val).fetched.find? (fun f => f.port == port.val && !f.arrived && f.urgency == 2 && decide (f.deadline ≤ b.now)) with
  | some f => b.setUrgency c f.id 1
  | none => b

/-- DEADLINE_LATE (R238). -/
def execDeadlineLate (c : Fin 128) (port : Fin 4) (s : State) : Host.Outcome State Fault Refusal :=
  s.onBlock (deadlineLate c port)

/-- A BULK request that has waited 2,048 MCLK cycles becomes LATE. -/
def bulkAgeLate (c : Fin 128) (port : Fin 4) (b : Block) : Block :=
  match (b.core c.val).fetched.find? (fun f => f.port == port.val && !f.arrived && f.urgency == 3 && decide (f.issued + 2048 ≤ b.now)) with
  | some f => b.setUrgency c f.id 1
  | none => b

/-- BULK_AGE_LATE (R238). -/
def execBulkAgeLate (c : Fin 128) (port : Fin 4) (s : State) : Host.Outcome State Fault Refusal :=
  s.onBlock (bulkAgeLate c port)

/-- Compare a tracked block with the present generations and frames (R241, R304): true when it may be consumed; the first mismatch
fetches it again, once its page is there, and a second faults the task. -/
def Block.checkTracked (b : Block) (c : Fin 128) (t : TaskSt) (f : Fetched) (p : Nat × Nat) (s : Source) : Bool × Block :=
  if f.grans = b.granules s.ranges then (true, b.mapFetched c f.id (fun x => { x with checked := true }))
  else if f.refetched then (false, b.faultTask (.core c) t.serial Ev.STALE_PREFETCH)
  else
    let b := ((b.dropFetched c f.id).count (.fet c) Reg.FET_REFETCH 1).mapTask (.core c) t.serial (fun u =>
      { u with refetch := posKey p :: u.refetch })
    let r := b.demand t s.ranges s.e.pageInOk
    match r.1 with
    | .fault code => (false, r.2.faultTask (.core c) t.serial code)
    | .wait => (false, r.2)
    | .ok => (false, (r.2.issue c t f.port p s 0 f.deadline true).2)

/-- The block at the consumer's position on a port, with its source, once its data has arrived. -/
def Block.consumerBlock (b : Block) (c : Fin 128) (port : Nat) : Option (TaskSt × Fetched × (Nat × Nat) × Source) :=
  match b.portTask c port with
  | none => none
  | some t =>
    let p := t.pos
    let e := b.entryAt t p
    match b.fetched? c port t.serial (posKey p), b.source (b.descAt t p e) e with
    | some f, some s => if f.arrived then some (t, f, p, s) else none
    | _, _ => none

/-- The consumer of a port takes a tracked block. -/
def trackedBlockConsume (c : Fin 128) (port : Fin 4) : Block → Block := Block.engine c port.val .none (fun b =>
  match b.consumerBlock c port.val with
  | some (t, f, p, s) => if s.d.tracked ∧ !f.checked then (b.checkTracked c t f p s).2 else b
  | none => b)

/-- TRACKED_BLOCK_CONSUME (R241). -/
def execTrackedBlockConsume (c : Fin 128) (port : Fin 4) (s : State) : Host.Outcome State Fault Refusal :=
  s.onBlock (trackedBlockConsume c port)

/-- The consumer of a port takes a global block: its version is checked. -/
def globalBlockConsume (c : Fin 128) (port : Fin 4) : Block → Block := Block.engine c port.val .none (fun b =>
  match b.consumerBlock c port.val with
  | some (t, f, p, s) =>
    if f.version.isNone ∨ f.checked then b
    else
      let d := b.descAt t p s.e
      let r := b.checkVersion d.allowNewer f.version
      match r.1 with
      | none => r.2.mapFetched c f.id (fun x => { x with checked := true })
      | some code => r.2.faultTask (.core c) t.serial code
  | none => b)

/-- GLOBAL_BLOCK_CONSUME (R376, R377). -/
def execGlobalBlockConsume (c : Fin 128) (port : Fin 4) (s : State) : Host.Outcome State Fault Refusal :=
  s.onBlock (globalBlockConsume c port)

/-! ## Consumption by the engines -/

/-- What an engine gets when it takes the block of its entry. -/
structure Took where
  ready : Ready
  d : Desc
  e : Entry32
  rd : Reader
  poisoned : List Nat

/-- A block taken: bytes from the queue where the fetch engine holds it, and otherwise read on demand. Its version and its
generations are checked if no command has yet done so. Poison faults the task unless the engine carries it (R226). -/
def Block.take (b : Block) (c : Fin 128) (t : TaskSt) (port : Nat) (carry : Bool) : Took × Block :=
  let p := t.pos
  let e := b.entryAt t p
  let d := b.descAt t p e
  let no := fun (r : Ready) (x : Block) => (({ ready := r, d := d, e := e, rd := fun _ n => List.replicate n 0, poisoned := [] } : Took), x)
  match b.source d e with
  | none => no (.fault Ev.SHARD_ABSENT) b
  | some s =>
    let finish := fun (rd : Reader) (bad : List Nat) (x : Block) =>
      match bad with
      | a :: _ => if carry then (({ ready := .ok, d := s.d, e := s.e, rd := rd, poisoned := bad } : Took), x)
                  else no (.fault (poisonCode a)) x
      | [] => (({ ready := .ok, d := s.d, e := s.e, rd := rd, poisoned := [] } : Took), x)
    match b.fetched? c port t.serial (posKey p) with
    | some f =>
      if !f.arrived then no .wait b
      else
        let k := if s.d.tracked ∧ !f.checked then b.checkTracked c t f p s else (true, b)
        if !k.1 then
          match (k.2.bySerial (.core c) t.serial).bind (fun x => x.faultCode) with
          | some code => no (.fault code) k.2
          | none => no .wait k.2
        else
          let v := if f.checked then (none, k.2) else k.2.checkVersion d.allowNewer f.version
          match v.1 with
          | some code => no (.fault code) v.2
          | none => finish (snapReader f.snap) f.poisoned (v.2.dropFetched c f.id)
    | none =>
      if s.holder ≠ 0 then no .wait b
      else if !b.sourceFits s then no (.fault Ev.DESC_RANGE) b
      else
        let r := b.demand t s.ranges s.e.pageInOk
        match r.1 with
        | .ok =>
          let v := r.2.checkVersion d.allowNewer s.version
          match v.1 with
          | some code => no (.fault code) v.2
          | none => let q := v.2.portRanges c t s.d s.portBytes s.ranges
                    finish q.1.1 q.1.2 q.2
        | o => no o r.2

/-! ## Rows that an engine reads itself -/

/-- Ranges of other modules that an engine reads for the entry in course, each with its holder: asked for once, by read requests of its task
(R103, R490); it goes on when all have come. -/
def Block.askRemote (b : Block) (c : Fin 128) (t : TaskSt) (l : List (Nat × Nat × Nat)) : Ready × Block :=
  let x := b.core c.val
  let l := l.eraseDups
  match l.filter (fun q => !x.asked.contains (t.serial, q)) with
  | [] => (if l.all (fun q => b.remoteHere (q.1 - 1) [q.2]) then .ok else .wait, b)
  | more =>
    let r := more.foldl (fun (st : Option Nat × Block) q => match st.1 with
      | none => st.2.readRemote (.task (.core c) t.serial) (q.1 - 1) [q.2]
      | some _ => st) (none, b.setCore c.val { x with asked := x.asked ++ more.map (fun q => (t.serial, q)) })
    (match r.1 with | some code => .fault code | none => .wait, r.2)

/-- What an entry's task has asked other modules for is asked anew by its next entry. -/
def Block.forgetAsked (b : Block) (u : UnitId) (n : Nat) : Block :=
  match u with
  | .core c =>
    let x := b.core c.val
    if x.asked.isEmpty then b else b.setCore c.val { x with asked := x.asked.filter (fun q => q.1 != n) }
  | _ => b

/-- An entry for columns of one row. -/
def rowEntry (r c n : Nat) : Entry32 :=
  { rowStart := r, rowCount := 1, colStart := c, colCount := n, src := 0, flags := 0, deadline := 0, kind := [], rsv := false }

/-- Where columns of a row lie: one source, or one for each shard of a global tensor that they touch; none where a shard is absent
(R103). DEDUCED (notes/assumptions/28.md). -/
def Block.rowSources (b : Block) (d : Desc) (r c n : Nat) : Option (List Source) :=
  if d.isGlobal then
    (pieces (max 1 (d.shardExtent 0)) c n).foldr (fun p l => match b.source d (rowEntry r p.1 p.2), l with
      | some s, some l => some (s :: l)
      | _, _ => none) (some [])
  else some [⟨d, rowEntry r c n, 0, none⟩]

/-- Read ranges of a source for a core's port, counted. -/
def Block.portSource (b : Block) (c : Fin 128) (t : TaskSt) (s : Source) (bytes : Nat) (ranges : List (Nat × Nat)) :
    (Reader × List Nat) × Block :=
  if s.holder = 0 then b.portRanges c t s.d bytes ranges
  else
    let r := (b.portIn c bytes).readRanges (coreTile c) t (b.cacheable (coreTile c) s.d s.holder) s.holder (fun _ => none) ranges
    ((snapReader r.1.1, r.1.2), r.2)

/-- What must come from another module before ranges of a source can be read: the lines that the operand cache lacks, or the ranges. -/
def Block.remoteNeeds (b : Block) (c : Fin 128) (s : Source) (ranges : List (Nat × Nat)) : List (Nat × Nat × Nat) :=
  if s.holder = 0 then []
  else if b.cacheable (coreTile c) s.d s.holder then
    (ranges.flatMap (fun r => pieces 512 r.1 r.2)).filterMap (fun p =>
      if (b.tile (coreTile c).val).oc.any (fun l => l.holder == s.holder && l.line == p.1 / 512) then none
      else some (s.holder, p.1 / 512 * 512, 512))
  else ranges.map (fun r => (s.holder, r))

/-- Ask for ranges of sources: residence and the holder's check at home, the bytes of other modules, and the versions of global tensors
(R103, R236, R376). -/
def Block.sourcesReady (b : Block) (c : Fin 128) (t : TaskSt) (l : List (Source × List (Nat × Nat))) (allowNewer pageInOk : Bool) :
    Ready × Block :=
  if l.any (fun p => !b.sourceFits p.1) then (.fault Ev.DESC_RANGE, b)
  else
    let q := b.demand t ((l.filter (fun p => p.1.holder == 0)).flatMap (fun p => p.2)) pageInOk
    match q.1 with
    | .ok =>
      let r := q.2.askRemote c t (l.flatMap (fun p => q.2.remoteNeeds c p.1 p.2))
      match r.1 with
      | .ok => l.foldl (fun st p => match st.1 with
          | .ok =>
            let v := st.2.checkVersion allowNewer p.1.version
            (match v.1 with | some code => .fault code | none => .ok, v.2)
          | _ => st) r
      | _ => r
    | _ => q

/-- Would a write to a source keep some elements of a channel vector that it writes whole (R83, R84)? -/
def Source.keepsSome (s : Source) : Bool :=
  decide (elemBits s.d.format < 8) && s.d.layout == 0 && (decide (s.e.colStart % 32 ≠ 0) ||
    (decide ((s.e.colStart + s.e.colCount) % 32 ≠ 0) && decide (s.e.colStart + s.e.colCount ≠ s.d.d0)))

/-- Bytes that a source of another module has brought, or the module's own as a task reads them. -/
def Block.sourceReader (b : Block) (t : TaskSt) (s : Source) : Reader :=
  if s.holder = 0 then b.taskReader t else fun a n => b.remoteBytes (s.holder - 1) a n

/-- Move a task's sequencer past its entry, and count cycles. -/
def Block.passEntry (b : Block) (u : UnitId) (n cycles : Nat) : Block :=
  (b.forgetAsked u n).mapTask u n (fun t => { t.advance with cycles := t.cycles + cycles })

/-- Clear the counters of a FET page. -/
def fetCntClr (o : Origin) (c : Fin 128) (v : Word) (b : Block) : Block :=
  b.gate o (.fet c) Reg.FET_CNT_CLR .none (fun x => x.clearOn v (.fet c)
    [Reg.FET_PF_DROPPED, Reg.FET_PAGE_IN, Reg.FET_REFETCH, Reg.FET_LATE, Reg.FET_TRACK_FULL, Reg.FET_BYTES_IN])

/-- FET_CNT_CLR (R256). -/
def execFetCntClr (o : Origin) (c : Fin 128) (v : Word) (s : State) : Host.Outcome State Fault Refusal :=
  s.onWrite o (fetCntClr o c v)

/-! ## The version record (R378, R379) -/

/-- Set every VALID bit of the record to 0. DEDUCED (notes/assumptions/42.md). -/
def Block.clearRecord (b : Block) : Block :=
  ({ b with shm := { b.shm with record := [] } }).wrN .shm Reg.SHM_REC_DATA 0

/-- A write of SHM_REC_CTL: its fields, and CLEAR. -/
def shmRecClear (o : Origin) (v : Word) (b : Block) : Block :=
  b.gate o .shm Reg.SHM_REC_CTL (if wbit v 31 then .command v else .change) (fun x =>
    let x := x.writeFields .shm Reg.SHM_REC_CTL v
    if wbit v 31 then x.clearRecord else x)

/-- SHM_REC_CLEAR (R378). -/
def execShmRecClear (o : Origin) (v : Word) (s : State) : Host.Outcome State Fault Refusal := s.onWrite o (shmRecClear o v)

/-- A write of SHM_REC_STAT: 1 to TAINTED clears it. -/
def taintedClear (o : Origin) (v : Word) (b : Block) : Block :=
  b.gate o .shm Reg.SHM_REC_STAT .change (fun x => if wbit v 31 then x.wrBit .shm Reg.SHM_REC_STAT 31 false else x)

/-- TAINTED_CLEAR (R379). -/
def execTaintedClear (o : Origin) (v : Word) (s : State) : Host.Outcome State Fault Refusal := s.onWrite o (taintedClear o v)

/-- Clear the counters of the version record. -/
def shmRecCntClr (o : Origin) (v : Word) (b : Block) : Block :=
  b.gate o .shm Reg.SHM_REC_CNT_CLR .none (fun x => x.clearOn v .shm [Reg.SHM_NEWER, Reg.SHM_VERSION_FAULTS])

/-- SHM_REC_CNT_CLR (R378). -/
def execShmRecCntClr (o : Origin) (v : Word) (s : State) : Host.Outcome State Fault Refusal := s.onWrite o (shmRecCntClr o v)

end Sys2Proof.Machine
end

