-- ==== Sys2Proof/Machine/Idle.lean ====
section
/-! DEFINITION. Idle-cause counting (R69 to R74, R491): what each cycle of an array is charged to, and the counter blocks of the
units that sum their cores. -/

namespace Sys2Proof.Machine

open Sys2Proof

/-- Causes by number (R69): 0 is busy, cause n the counter SCH_IDLE(n - 1). -/
abbrev Cause.busy : Nat := 0
/-- FEED_DRY. -/
abbrev Cause.feedDry : Nat := 1
/-- DRAIN_FULL. -/
abbrev Cause.drainFull : Nat := 2
/-- SEM_WAIT. -/
abbrev Cause.semWait : Nat := 3
/-- BARRIER_WAIT. -/
abbrev Cause.barrierWait : Nat := 4
/-- BARRIER_PEER_BRAKED. -/
abbrev Cause.peerBraked : Nat := 5
/-- MEM_WAIT. -/
abbrev Cause.memWait : Nat := 6
/-- POWER_BRAKE. -/
abbrev Cause.powerBrake : Nat := 7
/-- SPEC_DISCARD. -/
abbrev Cause.specDiscard : Nat := 8
/-- FILLER. -/
abbrev Cause.filler : Nat := 9
/-- NO_TASK. -/
abbrev Cause.noTask : Nat := 10

/-- Offset of the counter of a cause on an SCH page. -/
def causeOff (k : Nat) : Nat := if k = 0 then Reg.SCH_BUSY else Reg.SCH_IDLE (k - 1)

/-- What a unit's counter of a cause stands for in core-cycles, remainder included (R73). -/
def Block.charged (b : Block) (u : UnitId) (k : Nat) : Nat :=
  b.rd64 (.sch u) (causeOff k) * 2 ^ cntUnit u + (b.unit u).rems.getD k 0

/-- Set a unit's counter of a cause from core-cycles; it holds its greatest value (R14). -/
def Block.setCharged (b : Block) (u : UnitId) (k n : Nat) : Block :=
  let g := 2 ^ cntUnit u
  let b := b.wr64 (.sch u) (causeOff k) (min (n / g) (2 ^ 64 - 1))
  if g = 1 then b
  else
    let x := b.unit u
    let l := if x.rems.isEmpty then List.replicate 11 0 else x.rems
    b.setUnit u { x with rems := l.set k (n % g) }

/-- Cores that a gang runs on, directly or through its member gangs. -/
def gangCores (defs : Nat → Word) (g : Nat) : List Nat :=
  (List.range 8).filter (fun c => wbit (defs g) c || (gangGangs defs g).any (fun h => wbit (defs h.val) c))

/-- Units of this module whose counter blocks sum a core (R73). DEDUCED (notes/assumptions/45.md). -/
def Block.sumUnits (b : Block) (c : Fin 128) : List UnitId :=
  let t := coreTile c
  let d := b.gangDef t
  [.core c] ++ ((List.finRange 8).filter (fun g => gangOn d g.val && (gangCores d g.val).contains (coreSlot c).val)).map
    (fun g => UnitId.gang t g) ++ [.die t, .wholeModule]

/-- Charge cycles of a core's array to a cause. DEDUCED (notes/assumptions/45.md). -/
def Block.charge (b : Block) (c : Fin 128) (k n : Nat) : Block :=
  if n = 0 ∨ !b.coreOn c then b else (b.sumUnits c).foldl (fun x u => x.setCharged u k (x.charged u k + n)) b

/-- Move cycles of a core from one cause to another, in each block as far as it still holds them (R71, R72). -/
def Block.recharge (b : Block) (c : Fin 128) (src dst n : Nat) : Block :=
  (b.sumUnits c).foldl (fun x u =>
    let m := min n (x.charged u src)
    (x.setCharged u src (x.charged u src - m)).setCharged u dst (x.charged u dst + m)) b

/-- Has a valid wait passed? -/
def Block.waitPassed (b : Block) (w : Option SemRef) (target : Word) : Bool :=
  match w with
  | none => true
  | some s => passes (b.semVal s.core s.phys) target.toNat

/-- Is an admitted task ready (R50)? -/
def Block.ready (b : Block) (t : TaskSt) : Bool :=
  b.waitPassed t.wait0 t.task.wait0Target && b.waitPassed t.wait1 t.task.wait1Target

/-- The domain of the BARRIER task that names a semaphore as its release semaphore, where the semaphore is barrier-fed (R71). -/
def Block.fedBy (b : Block) (s : SemRef) : Option Nat :=
  [UnitId.wholeModule, UnitId.group].findSome? (fun u => ((b.unit u).board.find? (fun t =>
    decide (t.task.kind = 7) && t.confirm == some s)).map (fun t => t.task.par 0 1 % 8))

/-- The domain whose barrier a task waits for, if it waits on a barrier-fed semaphore. -/
def Block.waitsBarrier (b : Block) (t : TaskSt) : Option Nat :=
  [(t.wait0, t.task.wait0Target), (t.wait1, t.task.wait1Target)].findSome? (fun w => match w.1 with
    | some s => if b.waitPassed w.1 w.2 then none else b.fedBy s
    | none => none)

/-- Does a core already hold another speculative task, admitted before this one (R55)? Shares of one task are one. -/
def specHeld (board : List TaskSt) (t : TaskSt) : Bool :=
  t.task.spec && (board.takeWhile (fun x => x.serial != t.serial)).any (fun x => x.task.spec &&
    decide (x.root ≠ t.root ∨ x.root = none))

/-- Are records that a task needs in an allocation a validator writes into (R100)?. DEDUCED (notes/assumptions/57.md). -/
def Block.recordsLocked (b : Block) (t : TaskSt) : Bool := t.recordRanges.any (fun r => b.valLocks r.1)

/-- Does a task wait for memory: its shadow, records that are locked, or a page that it has asked for (R56, R70, R100)? -/
def Block.memoryWait (b : Block) (t : TaskSt) : Bool :=
  (t.shadowAsked && t.shadow.isNone) || b.recordsLocked t || b.hbm.moves.any (fun m => m.inward && m.owners.contains t.serial)

/-- Does a STREAM of at least one row come at or after the entry in course (R491)? -/
def Block.streamsRemain (b : Block) (t : TaskSt) : Bool :=
  let b := { b with lens := t.kept }
  let n := ((List.range t.linkCount).map (fun l => (t.recAt l).listCount.toNat)).sum
  (t.ahead n (t.settle 9 t.pos)).any (fun p => let e := b.entryAt t p; e.src == 0 && e.rowCount != 0)

/-- Counts a core's array as having no task dispatched: it has none, or none whose last row is still to land (R491)? -/
def Block.arrayFree (b : Block) (c : Fin 128) : Bool := !(b.arrayTasks c).any b.streamsRemain

/-- What a cycle of an array is charged to that advances no operands and has no task dispatched (R70), with the domain waited for.
DEDUCED (notes/assumptions/45.md). -/
def Block.idleCause (b : Block) (c : Fin 128) : Nat × Option Nat :=
  let board := (b.unit (.core c)).board
  let arr := board.filter (fun t => kindResource t.task.kind.toNat == 0 && decide (t.phase = .admitted))
  let line := (b.tile (coreTile c).val).syncWaits.any (fun w => w.core == c.val)
  if 2 ≤ Sparse.get (fun _ => 0) b.pwr.filler c.val then (Cause.filler, none)
  else if arr.any (fun t => (decide (0 < t.heldAt) || t.slewHeld) && b.ready t) then (Cause.powerBrake, none)
  else match arr.head? with
    | none => (if line then Cause.semWait else Cause.noTask, none)
    | some t => match b.waitsBarrier t with
      | some d => (Cause.barrierWait, some d)
      | none =>
        if !b.ready t || specHeld board t || line then (Cause.semWait, none)
        else if b.memoryWait t then (Cause.memWait, none)
        else (Cause.noTask, none)

/-- Charge cycles of an array that has no task dispatched, or whose task's last row has landed (R491); those that wait for a barrier are
kept by its domain too (R71). DESIGN CHOICE (notes/assumptions/10.md). DEDUCED (notes/assumptions/45.md). -/
def Block.chargeIdle (b : Block) (c : Fin 128) (n : Nat) : Block :=
  let k := b.idleCause c
  let b := b.charge c k.1 n
  match k.2 with
  | none => b
  | some d =>
    let x := b.dom d
    b.setDom d { x with waits := Sparse.put (fun _ => 0) x.waits c.val (Sparse.get (fun _ => 0) x.waits c.val + n) }

/-- Charge busy cycles of an array that has no task dispatched, ahead of the clock (R189, R250). -/
def Block.chargeTaken (b : Block) (c : Fin 128) (n : Nat) : Block :=
  let b := b.charge c Cause.busy n
  { b with owed := Sparse.put (fun _ => 0) b.owed c.val (Sparse.get (fun _ => 0) b.owed c.val + n) }

/-- What the cleared counters of a core held is held nowhere else: neither the busy cycles of its tasks that a discard would move (R72)
nor the waits that a release would (R71). -/
def Block.forgetCharges (b : Block) (u : UnitId) : Block :=
  match u with
  | .core c =>
    let b := b.setUnit u { b.unit u with board := (b.unit u).board.map (fun t => { t with busy := 0 }) }
    (List.range 8).foldl (fun x d =>
      if (x.dom d).waits.isEmpty then x else x.setDom d { x.dom d with waits := Sparse.put (fun _ => 0) (x.dom d).waits c.val 0 }) b
  | _ => b

/-- Clear a unit's busy and idle counters and their remainders. The sums of the units above it stay as they are.
DESIGN CHOICE (notes/assumptions/45.md). -/
def schIdleClr (o : Origin) (u : UnitId) (v : Word) (b : Block) : Block :=
  b.gate o (.sch u) Reg.SCH_IDLE_CLR .none (fun x =>
    if wbit v 0 then (List.range 11).foldl (fun y k => y.setCharged u k 0) (x.forgetCharges u) else x)

/-- SCH_IDLE_CLR (R74). -/
def execSchIdleClr (o : Origin) (u : UnitId) (v : Word) (s : State) : Host.Outcome State Fault Refusal :=
  s.onWrite o (schIdleClr o u v)

end Sys2Proof.Machine
end

