-- ==== Sys2Proof/Machine/Dense.lean ====
section
/-! DEFINITION. The dense array (R109 to R138) and the accumulator bank (R139 to R153): gears, tile loads, products on both axes,
bank updates, the start and the end of an array task. The drain is in Drain.lean. -/

namespace Sys2Proof.Machine

open Sys2Proof

/-! ## Gears and modes -/

/-- The K extent of a gear's loads in elements, stored elements in an S gear (R117). -/
def gearK : Nat → Nat
  | 0 => 128 | 1 => 256 | 2 => 512 | 3 => 128 | _ => 256

/-- Is the gear one of the two sparse ones? -/
def gearSparse (g : Nat) : Bool := decide (3 ≤ g)

/-- Elements a cell holds (R111). -/
def gearPer (g : Nat) : Nat := gearK g / 128

/-- Bank rows a streamed row updates (R114). -/
def gearRows (g : Nat) (transposed : Bool) : Nat := if transposed then gearPer g else 1

/-- Is a format one of the FP8 and FP6 formats? -/
def fp8or6 (f : Nat) : Bool := decide (3 ≤ f) && decide (f ≤ 6)

/-- The accumulation mode that gear and descriptors give (R112, R142): 1 FP32, 0 the 16-bit chain, 9 INT32; none where they form
no combination. DEDUCED (notes/assumptions/29.md). -/
def accMode (gear : Nat) (a w : Desc) : Option Nat :=
  match gear with
  | 0 => if a.format = 2 ∧ w.format = 2 then some 1 else none
  | 3 => if a.format = 2 ∧ w.format = 2 then some 1 else none
  | 2 => if a.format = 7 ∧ w.format = 7 then some 1 else if fp8or6 a.format && fp8or6 w.format then some 0 else none
  | _ => if fp8or6 a.format && fp8or6 w.format then some 1
         else if a.format = 8 ∧ w.format = 8 then (if a.mx || w.mx then some 1 else some 9) else none

/-- GEAR of a DENSE record. -/
def TaskRec.gear (r : TaskRec) : Nat := r.par 0 1
/-- REUSE. -/
def TaskRec.reuse (r : TaskRec) : Bool := bit (r.par 1 1) 1
/-- SR_OUT, SR_ACC, RESEED and OVF_INF of ROUND, by bit number. -/
def TaskRec.roundBit (r : TaskRec) (i : Nat) : Bool := bit (r.par 0x12 1) i
/-- META_DESC. -/
def TaskRec.meta_ (r : TaskRec) : Nat := r.par 8 8
/-- STAT_DESC. -/
def TaskRec.statDesc (r : TaskRec) : Nat := r.par 0x18 8

/-- Does a bank row lie in a record's window (R115)? -/
def TaskRec.inWindow (r : TaskRec) (first n : Nat) : Bool :=
  n == 0 || (decide (r.par 2 2 ≤ first) && decide (first + n ≤ r.par 2 2 + r.par 4 2))

/-! ## Counting -/

/-- Add gated cell-cycles to DARR_GATED, in units of 16,384 (R129). -/
def Block.addGated (b : Block) (c : Fin 128) (n : Nat) : Block :=
  let x := b.core c.val
  (b.setCore c.val { x with gateRem := (x.gateRem + n) % 16384 }).count (.darr c) Reg.DARR_GATED ((x.gateRem + n) / 16384)

/-- Cycles of an array task: busy (R69), FEED_DRY and DRAIN_FULL. Every one counts against the task (R45), and a frozen one gates
every cell (R125, R129). -/
def Block.spend (b : Block) (c : Fin 128) (serial busy feedDry drainFull : Nat) : Block :=
  let b := b.mapTask (.core c) serial (fun t =>
    { t with cycles := t.cycles + busy + feedDry + drainFull, busy := t.busy + busy })
  let b := ((b.charge c Cause.busy busy).charge c Cause.feedDry feedDry).charge c Cause.drainFull drainFull
  (b.addGated c (16384 * (feedDry + drainFull))).showTiles c (decide (busy = 0 ∧ 0 < feedDry + drainFull))

/-- Cycles of an array task in its drain period count for the task alone: the clock charges the array's (R45, R491). -/
def Block.spendIn (b : Block) (c : Fin 128) (t : TaskSt) (busy feedDry drainFull : Nat) : Block :=
  if b.streamsRemain t then b.spend c t.serial busy feedDry drainFull
  else b.addCycles (.core c) t.serial (busy + feedDry + drainFull)

/-- Add to a counter of the DRN page, setting the INT_STAT bit that reports it (R168). -/
def Block.drnCount (b : Block) (c : Fin 128) (off n irq : Nat) : Block :=
  if n = 0 then b else (b.count (.drn c) off n).setInt (.drn c) (2 ^ irq)

/-- Overflows of a format (R167). -/
def Block.drnOvf (b : Block) (c : Fin 128) (fmt n : Nat) : Block := b.drnCount c (Reg.DRN_OVF fmt) n 1

/-- Vanished values of a format. -/
def Block.drnVanish (b : Block) (c : Fin 128) (fmt n : Nat) : Block := b.drnCount c (Reg.DRN_VANISH fmt) n 2

/-- The counts of a conversion into a format (R158 to R160). -/
def Block.countConv (b : Block) (c : Fin 128) (fmt : Nat) (v : Conv) : Block :=
  ((b.drnOvf c fmt v.ovf).drnVanish c fmt v.vanish).drnCount c Reg.DRN_NAN_LOST v.nanLost 3

/-- A task of a core ends in a fault. -/
def Block.coreFault (b : Block) (c : Fin 128) (t : TaskSt) (code : Nat) : Block := b.faultTask (.core c) t.serial code

/-! ## Start and end of an array task -/

/-- META_DESC of an S gear (R133) and STAT_DESC (R162): the code of the first that fails. -/
def Block.extraDescs (b : Block) (r : TaskRec) : Option Nat :=
  let bad := fun (a : Nat) (ok : Desc → Bool) =>
    if a = 0 then none
    else if b.kindAt a ≠ some .descriptor ∨ b.probe a 64 ≠ .ok then some Ev.DENSE_SHAPE
    else
      let d := b.desc a
      if !ok d then some Ev.DENSE_SHAPE else if b.stale d then some Ev.DESC_STALE else none
  let w := b.desc r.descB.toNat
  match bad r.meta_ (fun d => d.format == 8 && d.layout == 1 && d.scaleMode == 0 && d.d1 == w.d1 && d.d2 == w.d2 &&
      d.d3 == w.d3 && decide (ceilDiv w.d0 4 ≤ d.d0)) with
  | some code => some code
  | none => bad r.statDesc (fun d => d.format == 1 && d.layout == 1 && d.scaleMode == 0 && decide (4 ≤ d.d0) &&
      (r.descC == 0 || decide ((b.desc r.descC.toNat).rows ≤ d.rows)))

/-- What stops a DENSE record at dispatch (R112, R133, R162). -/
def Block.denseDispatch (b : Block) (r : TaskRec) : Option Nat :=
  if r.descA = 0 ∨ r.descB = 0 then some Ev.DENSE_GEAR
  else if (accMode r.gear (b.desc r.descA.toNat) (b.desc r.descB.toNat)).isNone then some Ev.DENSE_GEAR
  else b.extraDescs r

/-- What an array task's start does to the core: RESEED of a DENSE task (R153), the retained tile taken under REUSE and dropped
otherwise (R123), GEAR shown. Under overlap (R254) the task before it still drains: its last tile is the one it would retain, and its drain
operand stays; a tile that the prologue has loaded stays in STANDBY. -/
def Block.arrayStart (b : Block) (c : Fin 128) (t : TaskSt) : Block :=
  let x := b.core c.val
  let dense := t.task.kind = 1
  let before := ((b.arrayTasks c).filter (fun y => y.serial != t.serial)).getLast?
  let held := match before with
    | some y => if y.task.kind = 1 ∧ y.task.retain then x.active else none
    | none => x.retained
  let ahead := decide (t.pos ≠ (0, 0))
  let seed : DWord := BitVec.ofNat 64 (b.rd64 (.drn c) Reg.DRN_SR_SEED_LO)
  let gens := if dense ∧ t.task.roundBit 2 then loadGens (seed ^^^ (t.task.taskId.zeroExtend 64)) else x.gens
  let b := b.setCore c.val { x with
    active := if dense ∧ t.task.reuse then held else none
    standby := if ahead then x.standby else none
    retained := none
    axis := false
    opnd := if before.isSome then x.opnd else none
    firstLoad := !ahead
    gens := gens }
  (b.wrField (.darr c) Reg.STAT 2 0 t.cur.gear).showTiles c false

/-! ## LOAD -/

/-- Are the reserved bits of an array entry 0 (R91, R116)? `used` masks KIND_PARAMS bytes 0 to 2, which are the ACC_ROW and the
flags. -/
def entryClean (e : Entry32) (used : Nat) : Bool :=
  !e.rsv && decide (e.flags / 2 = 0) && decide (ofBytes e.kind &&& used = ofBytes e.kind)

/-- EXPAND of a LOAD entry. -/
def Entry32.expand (e : Entry32) : Bool := bit (e.param 2 1) 0

/-- The limits of a LOAD (R117). -/
def loadOk (gear : Nat) (e : Entry32) : Bool :=
  entryClean e 0x010000 && decide (e.rowCount ≤ 128) &&
  if gearSparse gear then
    decide (e.colCount ≤ gearK gear / if e.expand then 2 else 1) && e.colStart % 2 == 0 && e.colCount % 2 == 0
  else !e.expand && decide (e.colCount ≤ gearK gear)

/-- The 4-bit codes of the groups of a row (R132): one for every two stored elements. -/
def metaCodes (bytes : List Byte) (first n : Nat) : List Nat :=
  (List.range n).map (fun j =>
    let g := first + j
    (bytes.getD (g / 2 - first / 2) 0).toNat / 16 ^ (g % 2) % 16)

/-- Dense positions of the stored elements of a row. -/
def metaPos (codes : List Nat) : List Nat := codes.zipIdx.flatMap (fun p => [4 * p.2 + p.1 % 4, 4 * p.2 + p.1 / 4])

/-- The metadata ranges of a LOAD (R133). -/
def metaRanges (m : Desc) (e : Entry32) : List (Nat × Nat) :=
  let lo := e.colStart / 4
  let n := ceilDiv (e.colStart + e.colCount) 4 - lo
  if e.empty then [] else (List.range e.rowCount).map (fun i => (m.elemAddr (e.rowStart + i) lo, n))

/-- A row laid out densely: the value of the stored element whose position each column is, and `z` elsewhere. -/
def spread (pos vals : List Nat) (dense z : Nat) : List Nat :=
  (List.range dense).map (fun k => match (pos.zip vals).find? (fun p => p.1 == k) with
    | some p => p.2
    | none => z)

/-- The tile that a LOAD makes from the bytes of its block and of its metadata; none where a code breaks R134. `e` is the entry in the
coordinates of `d`, which may be a shard, and `me` as the list has it, in those of the metadata (R133). -/
def makeTile (gear : Nat) (d : Desc) (e me : Entry32) (key : Nat × Nat × List Nat) (rd mrd : Reader) (m : Desc) : Option WTile :=
  let rows := List.range e.rowCount
  let codes := rows.map (fun i => d.codes rd (e.rowStart + i) e.colStart e.colCount)
  let scales := rows.map (fun i => (List.range e.colCount).map (fun j =>
    if d.mx then d.scaleByte rd (e.rowStart + i) (e.colStart + j) else 127))
  let base : WTile := { fmt := d.format, rows := e.rowCount, dense := e.colCount, codes := codes, scales := scales, mx := d.mx,
                        pos := [], sparse := false, desc := key.1, gen := key.2.1, block := key.2.2 }
  if !gearSparse gear then some base
  else
    let lo := me.colStart / 4
    let n := ceilDiv (me.colStart + me.colCount) 4 - lo
    let mc := rows.map (fun i => metaCodes (mrd (m.elemAddr (me.rowStart + i) lo) n) (me.colStart / 2) (me.colCount / 2))
    if mc.any (fun l => l.any (fun x => decide (x / 4 ≤ x % 4))) then none
    else
      let pos := mc.map metaPos
      if e.expand then
        some { base with
          dense := 2 * e.colCount
          codes := (pos.zip codes).map (fun p => spread p.1 p.2 (2 * e.colCount) 0)
          scales := (pos.zip scales).map (fun p => spread p.1 p.2 (2 * e.colCount) 127) }
      else some { base with dense := 2 * e.colCount, pos := pos, sparse := true }

/-- What names a tile (R123): descriptor, generation, block. -/
def tileKey (r : TaskRec) (d : Desc) (e : Entry32) : Nat × Nat × List Nat :=
  (r.descB.toNat, d.gen, [e.rowStart, e.rowCount, e.colStart, e.colCount])

/-- A LOAD of a task, at its position: the tile it makes from its block and metadata, taken or read on demand (R117, R133), or what stands
in the way; none under `ok` where a metadata code breaks R134. -/
def Block.loadTile (b : Block) (c : Fin 128) (t : TaskSt) : (Ready × Option WTile) × Block :=
  let r := t.cur
  let e := b.entryAt t t.pos
  let m := b.desc r.meta_
  let mr := if gearSparse r.gear then metaRanges m e else []
  let dm := b.demand t mr e.pageInOk
  match dm.1 with
  | .ok =>
    let k := dm.2.take c t 0 false
    match k.1.ready with
    | .ok =>
      let q := k.2.portRanges c t m (rangeBytes mr) mr
      match q.1.2.head? with
      | some a => ((.fault (poisonCode a), none), q.2)
      | none => ((.ok, makeTile r.gear k.1.d k.1.e e (tileKey r (b.desc r.descB.toNat) e) k.1.rd q.1.1 m), q.2)
    | w => ((w, none), k.2)
  | w => ((w, none), dm.2)

/-- The tile of a LOAD fills STANDBY, in place of an earlier one (R117). -/
def Block.fillStandby (b : Block) (c : Fin 128) (tile : WTile) : Block :=
  (b.setCore c.val { b.core c.val with standby := some tile, firstLoad := false }).count (.darr c) Reg.DARR_LOADS 1

/-- A LOAD entry that the sequencer has reached. -/
def denseLoad (c : Fin 128) (cycles : Nat) (errs : Errs) : Block → Block := Block.engine c 0 errs (fun b =>
  match b.portTask c 0 with
  | none => b
  | some t =>
    if t.listDone then b
    else
      let r := t.cur
      let e := b.entryAt t t.pos
      let x := b.core c.val
      let stop := fun (y : Block) (code : Nat) => (y.spendIn c t 0 cycles 0).coreFault c t code
      if e.src ≠ 1 then b
      else if !loadOk r.gear e then stop b Ev.DENSE_SHAPE
      else
        let key := tileKey r (b.desc r.descB.toNat) e
        let same : Bool := match x.active with
          | some a => a.desc == key.1 && a.gen == key.2.1 && a.block == key.2.2
          | none => false
        let pass := fun (y : Block) => (y.spendIn c t 0 cycles 0).passEntry (.core c) t.serial 0
        if x.firstLoad ∧ r.reuse ∧ t.task.kind = 1 ∧ same then
          let y := b.setCore c.val { x with firstLoad := false
                                            fetched := x.fetched.filter (fun f => !(f.serial == t.serial && f.entry == posKey t.pos)) }
          pass (y.count (.darr c) Reg.DARR_REUSED 1)
        else
          let k := b.loadTile c t
          match k.1 with
          | (.wait, _) => k.2
          | (.fault code, _) => stop k.2 code
          | (.ok, none) => stop k.2 Ev.SPARSE_META
          | (.ok, some tile) => pass (k.2.fillStandby c tile))

/-- DENSE_LOAD (R116, R117, R123, R133 to R135). -/
def execDenseLoad (c : Fin 128) (cycles : Nat) (errs : Errs) (s : State) : Host.Outcome State Fault Refusal :=
  s.onBlock (denseLoad c cycles errs)

/-! ## Products -/

/-- The value of element `j` of row `n` of a tile (R78, R127). -/
def WTile.value (w : WTile) (n j : Nat) : Num :=
  let c := (w.codes.getD n []).getD j 0
  if w.mx then ofMx w.fmt c ((w.scales.getD n []).getD j 127) else ofFormat w.fmt c

/-- Elements a row of the tile stores. -/
def WTile.width (w : WTile) : Nat := if w.sparse then w.dense / 2 else w.dense

/-- The streamed element that stored element `j` of row `n` multiplies. -/
def WTile.pick (w : WTile) (n j : Nat) : Nat := if w.sparse then (w.pos.getD n []).getD j 0 else j

/-- Operand pairs of the cells along the reduction of output `o` (R110, R147): on the plain axis the cells of column `o`, each with
`per` elements in ascending K; on the transposed axis one element of each cell in ascending n. -/
def WTile.cells (w : WTile) (per : Nat) (transposed : Bool) (x : List Num) (o : Nat) : List (List (Num × Num)) :=
  if transposed then
    if w.dense ≤ o then [] else (List.range w.rows).map (fun n => [(w.value n o, x.getD n Num.zero)])
  else
    if w.rows ≤ o then []
    else (List.range (ceilDiv w.width per)).map (fun i => ((List.range per).filter (fun q => decide (per * i + q < w.width))).map
      (fun q => (w.value o (per * i + q), x.getD (w.pick o (per * i + q)) Num.zero)))

/-- A chain value on its way (R143 to R146): the value, ACC16 saturations and vanishings, and whether the FP32 chain has
overflowed. -/
structure ChainSt where
  val : Num
  sat : Nat
  vanish : Nat
  ovf : Bool
  deriving DecidableEq, Repr

/-- One cell: its products summed exactly and added to the chain with one rounding into the chain format (R143).
DEDUCED (notes/assumptions/29.md). -/
def chainCell (mode : Nat) (s : ChainSt) (ps : List (Num × Num)) : ChainSt :=
  let v := ps.foldl (fun a p => a.add (p.1.mul p.2)) s.val
  match mode with
  | 9 => { s with val := v }
  | 0 =>
    let r := toAcc16 v
    { s with val := r.1, sat := s.sat + b2n r.2.1, vanish := s.vanish + b2n r.2.2 }
  | _ =>
    let r := f32 v
    { s with val := val32 r.1, ovf := s.ovf || r.2 }

/-- The chain of an output through its cells. DEDUCED (notes/assumptions/29.md). -/
def chain (mode : Nat) (cells : List (List (Num × Num))) : ChainSt :=
  cells.foldl (chainCell mode) { val := Num.zero, sat := 0, vanish := 0, ovf := false }

/-- Is a product gated (R129): one operand zero and the other not infinite or NaN? -/
def gatedProduct (p : Num × Num) : Bool := (p.1.isZero && p.2.isFin) || (p.2.isZero && p.1.isFin)

/-- Cells of the array gated while a row passes (R129). Cells that the tile does not occupy hold zero. -/
def WTile.gated (w : WTile) (per : Nat) (transposed : Bool) (x : List Num) : Nat :=
  let cols := ceilDiv w.width per
  let fin := fun (l : List Num) => l.all Num.isFin
  let own := fun (n i : Nat) => ((List.range per).filter (fun q => decide (per * i + q < w.width))).all (fun q =>
    gatedProduct (w.value n (per * i + q),
      x.getD (if transposed then n else w.pick n (per * i + q)) Num.zero))
  let occupied := ((List.range w.rows).map (fun n => ((List.range cols).filter (own n)).length)).sum
  if transposed then
    occupied + ((List.range w.rows).map (fun n => if fin [x.getD n Num.zero] then 128 - cols else 0)).sum + (128 - w.rows) * 128
  else
    let span := if w.sparse then 2 * per else per
    occupied + ((List.range cols).map (fun i => if fin ((x.drop (span * i)).take span) then 128 - w.rows else 0)).sum +
      (128 - cols) * 128

/-! ## The bank -/

/-- A word of a core's bank. -/
def CoreSt.bankWord (x : CoreSt) (row j : Nat) : Word := Sparse.get (fun _ => 0) x.bank (128 * row + j)

/-- A row of a core's bank. -/
def CoreSt.bankRow (x : CoreSt) (row : Nat) : List Word := Sparse.getList (fun _ => 0) x.bank (128 * row) 128

/-- Draw from the eight generators from `first` on: each steps 128 times (R152). -/
def drawGens (gens : List (BitVec 128)) (first : Nat) : List (BitVec 128) :=
  gens.zipIdx.map (fun p => if first ≤ p.2 ∧ p.2 < first + 8 then lfsrSteps 128 p.1 else p.1)

/-- A bank word after an update (R143, R145, R146), and whether it overflowed. DEDUCED (notes/assumptions/29.md). -/
def bankUpdate (mode : Nat) (init : Bool) (rd : Rounding) (old : Word) (v : Num) : Word × Bool :=
  if mode = 9 then
    let i : Int := match v with | .fin n m e => Num.scaled n m e 0 | _ => 0
    if init then (BitVec.ofInt 32 i, false)
    else
      let s := signed 32 old.toNat + i
      if (2 : Int) ^ 31 - 1 < s then (0x7FFFFFFF, true)
      else if s < -(2 : Int) ^ 31 then (0x80000000, true)
      else (BitVec.ofInt 32 s, false)
  else if init then ((f32 v).1, false)
  else
    let r := toFloat fp32 rd true ((val32 old).add v)
    (BitVec.ofNat 32 r.code, r.overflow)

/-- Land 128 sums in a bank row by an update port. -/
def Block.land (b : Block) (c : Fin 128) (mode : Nat) (init sr : Bool) (row port : Nat) (vals : List Num) : Block :=
  let x := b.core c.val
  let draw := sr && !init && mode == 1
  let gens := if draw then drawGens x.gens (8 * port) else x.gens
  let upd := (List.range 128).map (fun j =>
    bankUpdate mode init (if draw then .stochastic (lfsrByte (gens.drop (8 * port)) j) else .nearest) (x.bankWord row j)
      (vals.getD j Num.zero))
  let b := b.setCore c.val { x with bank := Sparse.putList (fun _ => 0) x.bank (128 * row) (upd.map (fun u => u.1)), gens := gens }
  b.drnOvf c (if mode = 9 then 9 else 1) (upd.filter (fun u => u.2)).length

/-- Clear a bank row whose word was found uncorrectable (R141). -/
def Block.clearBankRow (b : Block) (c : Fin 128) (row : Nat) : Block :=
  let x := b.core c.val
  b.setCore c.val { x with bank := Sparse.clear (fun k => decide (k / 128 = row)) x.bank }

/-- A weight-register parity error (R137). -/
def Block.arrayParity (b : Block) (c : Fin 128) (t : TaskSt) : Block :=
  let x := b.core c.val
  let b := b.setCore c.val { x with active := none, standby := none, retained := none }
  (((b.count (.darr c) Reg.DARR_PARITY_ERR 1).setInt (.darr c) 1).showTiles c false).coreFault c t Ev.ARRAY_PARITY

/-! ## STREAM -/

/-- ACC_ROW of a STREAM or DRAIN entry. -/
def Entry32.accRow (e : Entry32) : Nat := e.param 0 2
/-- AXIS of a STREAM entry. DEDUCED (notes/assumptions/29.md). -/
def Entry32.axis (e : Entry32) : Bool := bit (e.param 2 1) 0
/-- ACC_INIT of a STREAM entry. -/
def Entry32.accInit (e : Entry32) : Bool := bit (e.param 2 1) 1

/-- The gear a loaded tile streams in: an expanded S tile streams as its dense gear (R135).
DEDUCED (notes/assumptions/29.md). -/
def streamGear (gear : Nat) (w : WTile) : Nat := if gearSparse gear && !w.sparse then gear - 3 else gear

/-- The check of a STREAM against the tile it meets (R118): DENSE_SHAPE or ACC_RANGE. -/
def streamCheck (r : TaskRec) (e : Entry32) (tile : Option WTile) : Option Nat :=
  match tile with
  | none => some Ev.DENSE_SHAPE
  | some w =>
    if !entryClean e 0x0307FF ∨ (e.axis && w.sparse) ∨ e.colCount ≠ (if e.axis then w.rows else w.dense) then some Ev.DENSE_SHAPE
    else if !r.inWindow e.accRow (gearRows (streamGear r.gear w) e.axis * e.rowCount) then some Ev.ACC_RANGE
    else none

/-- One streamed row through the ACTIVE tile into the bank. -/
def Block.streamRow (b : Block) (c : Fin 128) (mode : Nat) (w : WTile) (gear : Nat) (e : Entry32) (sr off : Bool) (i : Nat)
    (x : List Num) : Block :=
  let f := gearRows gear e.axis
  let per := gearPer gear
  let sums := (List.range (128 * f)).map (fun o => chain mode (w.cells per e.axis x o))
  let b := (List.range f).foldl (fun y j =>
    y.land c mode e.accInit sr (e.accRow + f * i + j) j (((sums.drop (128 * j)).take 128).map (fun s => s.val))) b
  let b := (b.drnOvf c 0 (sums.map (fun s => s.sat)).sum).drnVanish c 0 (sums.map (fun s => s.vanish)).sum
  let b := b.drnOvf c 1 (sums.filter (fun s => s.ovf)).length
  if off then b else b.addGated c (w.gated per e.axis x)

/-- Do DRAINs of the task before, under overlap, still have to read bank rows that a STREAM updates (R126, R255)?
DEDUCED (notes/assumptions/38.md). -/
def Block.drainsBefore (b : Block) (c : Fin 128) (t : TaskSt) (first n : Nat) : Bool :=
  ((b.arrayTasks c).takeWhile (fun y => y.serial != t.serial)).any (fun y =>
    let k := ((List.range y.linkCount).map (fun l => (y.recAt l).listCount.toNat)).sum
    (y.ahead k (y.settle 9 y.pos)).any (fun p =>
      let q := { b with lens := y.kept }.entryAt y p
      q.src == 2 && decide (q.accRow < first + n) && decide (first < q.accRow + q.rowCount * ceilDiv q.colCount 128)))

/-- Rows of a STREAM or DRAIN that go before an error in a bank row: each row of the entry takes `f` bank rows from `first` on. -/
def rowsBefore (first f row : Nat) : Nat := if row < first ∨ f = 0 then 0 else (row - first) / f

/-- A STREAM entry that the sequencer has reached. `errs` is what the entry's rows met: 0 nothing, 2 i + 1 a weight-register parity
error under row i of the entry, 2 r + 2 an uncorrectable word of bank row r; the rows before it have landed. -/
def denseStream (c : Fin 128) (cycles feedDry drainFull eccCorr errs : Nat) (words : Errs) : Block → Block :=
    Block.engine c 0 words (fun b =>
  match b.portTask c 0 with
  | none => b
  | some t =>
    if t.listDone then b
    else
      let r := t.cur
      let e := b.entryAt t t.pos
      let x := b.core c.val
      let tile := match x.standby with
        | some w => some w
        | none => x.active
      let stop := fun (y : Block) (code : Nat) => (y.spend c t.serial cycles feedDry drainFull).coreFault c t code
      if e.src ≠ 0 then b
      else match streamCheck r e tile, tile with
        | some code, _ => stop b code
        | none, none => b
        | none, some w =>
          let gear := streamGear r.gear w
          let f := gearRows gear e.axis
          if b.drainsBefore c t e.accRow (f * e.rowCount) then b
          else
          let k := b.take c t 0 false
          match k.1.ready with
          | .wait => k.2
          | .fault code => stop k.2 code
          | .ok =>
            let b := k.2
            let x := b.core c.val
            let b := if e.rowCount = 0 then b else b.setCore c.val { x with active := some w, standby := none, axis := e.axis }
            let b := b.drnCount c Reg.DRN_ECC_CORR eccCorr 0
            let mode := (accMode r.gear (b.desc r.descA.toNat) (b.desc r.descB.toNat)).getD 1
            let off := wbit (b.rd (.darr c) Reg.DARR_GATE) 0
            let d := k.1.d.unscaled
            let land := fun (n : Nat) (y : Block) => ((List.range n).foldl (fun y i =>
              y.streamRow c mode w gear e (r.roundBit 1) off i
                (d.values k.1.rd (k.1.e.rowStart + i) k.1.e.colStart e.colCount)) y).count (.darr c) Reg.DARR_ROWS n
            if errs % 2 = 1 ∧ errs / 2 < e.rowCount then
              ((land (errs / 2) b).spend c t.serial cycles feedDry drainFull).arrayParity c t
            else if errs ≠ 0 ∧ errs % 2 = 0 ∧ e.accRow ≤ errs / 2 - 1 ∧ errs / 2 - 1 < e.accRow + f * e.rowCount then
              stop ((land (rowsBefore e.accRow f (errs / 2 - 1)) b).clearBankRow c (errs / 2 - 1)) Ev.ACC_ECC
            else
              ((land e.rowCount b).spend c t.serial cycles feedDry drainFull).passEntry (.core c) t.serial 0)

/-- DENSE_STREAM (R110, R118, R119, R125 to R127, R137, R141, R143 to R147). -/
def execDenseStream (c : Fin 128) (cycles feedDry drainFull eccCorr errs : Nat) (words : Errs) (s : State) :
    Host.Outcome State Fault Refusal := s.onBlock (denseStream c cycles feedDry drainFull eccCorr errs words)

/-- Clear the counters of a DARR page. -/
def darrCntClr (o : Origin) (c : Fin 128) (v : Word) (b : Block) : Block :=
  b.gate o (.darr c) Reg.DARR_CNT_CLR .none (fun x => x.clearOn v (.darr c)
    [Reg.DARR_ROWS, Reg.DARR_LOADS, Reg.DARR_REUSED, Reg.DARR_GATED, Reg.DARR_PARITY_ERR])

/-- DARR_CNT_CLR (R136). -/
def execDarrCntClr (o : Origin) (c : Fin 128) (v : Word) (s : State) : Host.Outcome State Fault Refusal :=
  s.onWrite o (darrCntClr o c v)

/-- A write of the seed's high word reloads the generators. -/
def drnSrSeedHiWrite (o : Origin) (c : Fin 128) (v : Word) (b : Block) : Block :=
  b.gate o (.drn c) Reg.DRN_SR_SEED_HI .change (fun x =>
    let x := x.writeFields (.drn c) Reg.DRN_SR_SEED_HI v
    let y := x.core c.val
    x.setCore c.val { y with gens := loadGens (BitVec.ofNat 64 (x.rd64 (.drn c) Reg.DRN_SR_SEED_LO)) })

/-- DRN_SR_SEED_HI_WRITE (R153). -/
def execDrnSrSeedHiWrite (o : Origin) (c : Fin 128) (v : Word) (s : State) : Host.Outcome State Fault Refusal :=
  s.onWrite o (drnSrSeedHiWrite o c v)

/-- Clear every counter of a DRN page. -/
def drnCntClr (o : Origin) (c : Fin 128) (v : Word) (b : Block) : Block :=
  b.gate o (.drn c) Reg.DRN_CNT_CLR .none (fun x => x.clearOn v (.drn c)
    ([Reg.DRN_ECC_CORR, Reg.DRN_NAN_LOST, Reg.DRN_ROWS_OUT] ++ (List.range 10).flatMap (fun f => [Reg.DRN_OVF f, Reg.DRN_VANISH f])))

/-- DRN_CNT_CLR (R167). -/
def execDrnCntClr (o : Origin) (c : Fin 128) (v : Word) (s : State) : Host.Outcome State Fault Refusal :=
  s.onWrite o (drnCntClr o c v)

end Sys2Proof.Machine
end

