-- ==== Sys2Proof/Machine/Drain.lean ====
section
/-! DEFINITION. The drain (R154 to R168): functions and derivatives, the steps of a drained word, row statistics and extremes,
conversion and the DRAIN entry. -/

namespace Sys2Proof.Machine

open Sys2Proof

/-! ## Functions (R157) -/

/-- Zero of a sign. -/
def Num.zeroOf (neg : Bool) : Num := .fin neg 0 0

/-- One. -/
def Num.one : Num := .fin false 1 0

/-- Limits of a function or of its z-form derivative at −∞ and +∞ (R157). -/
def drainLimit (func form : Nat) (neg : Bool) : Num :=
  let z := Num.zeroOf
  let inf := Num.inf false
  match form, func with
  | 0, 7 => if neg then z false else Num.one
  | 0, 8 => if neg then Num.neg Num.one else Num.one
  | 0, 4 => if neg then z true else inf
  | 0, 5 => if neg then z true else inf
  | 0, 6 => if neg then z true else inf
  | 0, _ => if neg then z false else inf
  | 1, 4 => if neg then z true else Num.one
  | 1, 5 => if neg then z true else Num.one
  | 1, 6 => if neg then z true else Num.one
  | 1, 7 => z false
  | 1, 8 => z false
  | 1, 9 => if neg then z false else Num.one
  | 1, _ => if neg then z false else inf
  | _, 7 => .inf true
  | _, 8 => .inf true
  | _, _ => if neg then z false else inf

/-- A function (form 0), its derivative from z (form 1) or from y (form 2), in FP32 (R157). The piecewise-linear ones are taken
exactly; the others are free values held to R157's bound. DESIGN CHOICE (notes/assumptions/16.md). -/
def drainFnVal (func form : Nat) (alpha z : Num) : Num :=
  let pos := Num.zero.lt z
  match z with
  | .nan => .nan
  | _ =>
    match func with
    | 0 => if form = 0 then z else Num.one
    | 1 => if form = 0 then (if pos then z else Num.zero) else if pos then Num.one else Num.zero
    | 2 =>
      if form = 0 then
        if pos then z
        else match z with
          | .inf _ => if alpha.isZero then Num.zero else z.mul alpha
          | _ => z.mul alpha
      else if pos then Num.one else alpha
    | _ =>
      if func = 3 ∧ !pos then Num.zero
      else if func = 10 ∧ form = 2 then z
      else match z with
        | .inf n => drainLimit func form n
        | _ => let w := (f32 z).1; val32 (boundWord (fixFn func form (toFix (val32 w))) (Config.drainFn func form w))

/-- A running value with the overflows of finite values it met. -/
abbrev Counting := Num × Nat

/-- Round to FP32, counting an overflow of a finite value (R155). -/
def roundCount (s : Counting) (v : Num) : Counting :=
  let r := f32 v
  (val32 r.1, s.2 + b2n r.2)

/-- Apply a function of R157 to an argument. A value that is infinite at a finite argument has overflowed. -/
def applyFn (func form : Nat) (alpha arg : Num) (ovf : Nat) : Counting :=
  let v := drainFnVal func form alpha arg
  match v with
  | .inf _ => (v, ovf + b2n arg.isFin)
  | _ => roundCount (Num.zero, ovf) v

/-- What steps 1 to 5 of R155 need: accumulation mode, FUNC, OPND, ALPHA, the TENSOR scales of DESC_A and DESC_B, and whether
integers pass unchanged. -/
structure DrainCtx where
  mode : Nat
  func : Nat
  opnd : Nat
  alpha : Num
  sa : Num
  sb : Num
  pass : Bool
  deriving DecidableEq, Repr

/-- Steps 1 to 5 of R155 for one bank word and its operand. -/
def DrainCtx.word (x : DrainCtx) (w : Word) (op : Num) : Counting :=
  let int := Num.ofInt (signed 32 w.toNat)
  if x.pass then (int, 0)
  else
    let s : Counting := if x.mode = 9 then (rnd32 int, 0) else (val32 w, 0)
    let s := roundCount s (s.1.mul x.sa)
    let s := roundCount s (s.1.mul x.sb)
    let s := if x.opnd = 1 then roundCount s (s.1.add op) else s
    let s := if x.opnd = 2 ∨ x.opnd = 3 then
        let g := applyFn x.func (x.opnd - 1) x.alpha op s.2
        roundCount g (s.1.mul g.1)
      else applyFn x.func 0 x.alpha s.1 s.2
    if x.opnd = 4 then roundCount s (s.1.mul op) else if x.opnd = 5 then roundCount s (s.1.add op) else s

/-- The context of a record's drain. -/
def Block.drainCtx (b : Block) (r : TaskRec) (d : Desc) : DrainCtx :=
  let a := b.desc r.descA.toNat
  let w := b.desc r.descB.toNat
  let mode := (accMode r.gear a w).getD 1
  { mode := mode, func := r.par 0x10 1, opnd := r.par 0x11 1, alpha := ofFormat 1 (r.par 0x14 4), sa := a.tensorScale,
    sb := w.tensorScale
    pass := mode == 9 && d.format == 9 && r.par 0x10 1 == 0 && r.par 0x11 1 == 0 && a.scaleMode != 1 && w.scaleMode != 1 &&
      d.scaleMode != 1 }

/-! ## Row statistics and extremes (R162 to R164) -/

/-- Does `a` rank strictly beyond `v` for a maximum, or for a minimum (R163)? NaN ranks above every number and below every
number; zeros tie. -/
def beyond (minimum : Bool) (a v : Num) : Bool :=
  if v.isNan then false else if a.isNan then true else if minimum then a.lt v else v.lt a

/-- The extreme of a row with its place; the lower index wins a tie. -/
def extremeOf (minimum : Bool) (l : List Num) : Num × Nat :=
  l.zipIdx.foldl (fun (m : Num × Nat) p => if p.2 = 0 ∨ beyond minimum p.1 m.1 then (p.1, p.2) else m) (Num.zero, 0)

/-- The exponential in FP32 (R163): the limits at infinities, NaN from NaN, and otherwise a free value held to R157's bound.
DESIGN CHOICE (notes/assumptions/16.md). -/
def expVal (v : Num) : Num :=
  match v with
  | .nan => .nan
  | .inf n => if n then Num.zero else .inf false
  | _ => let w := (f32 v).1; val32 (boundWord (fixExp (toFix (val32 w))) (Config.expFn w))

/-- Maximum and sum of a row (R163). -/
def Block.rowSum (b : Block) (mode : Nat) (l : List Num) : Num × Num × Block :=
  let m := (extremeOf false l).1
  let s := b.openSum (if mode = 1 then l.map (fun x => expVal (rnd32 (x.add m.neg))) else l)
  (m, s.1, s.2)

/-- Merge stored and new maximum and sum (R164), each product and sum rounded in the order the formula is written.
DEDUCED (notes/assumptions/17.md). -/
def mergeSum (mode : Nat) (m0 s0 m1 s1 : Num) : Num × Num :=
  let m := if beyond false m1 m0 then m1 else m0
  let w := fun (s x : Num) => rnd32 (s.mul (expVal (rnd32 (x.add m.neg))))
  (m, if mode = 1 then rnd32 ((w s0 m0).add (w s1 m1)) else rnd32 (s0.add s1))

/-- The four FP32 words of the statistics of a row from what was stored (R162, R164): words that are not computed stay. -/
def Block.rowStats (b : Block) (r : TaskRec) (old : List Word) (merge : Bool) (col : Nat) (l : List Num) : List Word × Block :=
  let rs := r.par 0x13 1 % 4
  let ext := r.par 0x13 1 / 4 % 4
  let word := fun (i : Nat) => old.getD i 0
  let s := if rs = 0 then ((word 0, word 1), b)
    else
      let x := b.rowSum rs l
      let y := if merge then mergeSum rs (val32 (word 0)) (val32 (word 1)) x.1 x.2.1 else (x.1, x.2.1)
      (((f32 y.1).1, (f32 y.2).1), x.2.2)
  let e := if ext = 0 then (word 2, word 3)
    else
      let x := extremeOf (ext == 2) l
      if merge && !beyond (ext == 2) x.1 (val32 (word 2)) then (word 2, word 3)
      else ((f32 x.1).1, BitVec.ofNat 32 (col + x.2))
  ([s.1.1, s.1.2, e.1, e.2], s.2)

/-! ## The DRAIN entry -/

/-- Of the columns `c` to `c + n - 1` of the output, first and number of those that a share covers: under COLUMNS those of its 128-column
tiles (R48). -/
def TaskSt.cut (t : TaskSt) (c n : Nat) : Nat × Nat :=
  match t.colCount with
  | none => (c, n)
  | some k =>
    let lo := max c (128 * t.colFirst)
    let hi := min (c + n) (128 * (t.colFirst + k))
    (lo, hi - lo)

/-- The columns of an entry that a share covers. -/
def TaskSt.drainCols (t : TaskSt) (e : Entry32) : Nat × Nat := t.cut e.colStart e.colCount

/-- The check of a DRAIN (R87, R120, R156, R161): DENSE_SHAPE or ACC_RANGE. `fixed` is true where its statistics would be written through a
READ_ONLY descriptor. DEDUCED (notes/assumptions/29.md). -/
def drainCheck (r : TaskRec) (e : Entry32) (d : Desc) (op : Option Entry32) (fixed : Bool) : Option Nat :=
  let bad :=
    !entryClean e 0x0007FF || decide (512 < e.colCount) || d.readOnly || fixed ||
    (d.mx && e.colCount % 32 != 0 && e.colStart + e.colCount != d.d0) ||
    (match op with
     | none => r.par 0x11 1 != 0
     | some q => q.colCount != e.colCount || q.rowCount != (if r.par 0x11 1 = 1 then 1 else e.rowCount))
  if bad then some Ev.DENSE_SHAPE
  else if !r.inWindow e.accRow (e.rowCount * ceilDiv e.colCount 128) then some Ev.ACC_RANGE
  else none

/-- Write a task's results: in the module's own memory, or by WRITE packets to the module that holds a global block. -/
def Block.writeOut (b : Block) (c : Fin 128) (t : TaskSt) (holder : Nat) (w : List (Nat × List Byte)) (pageInOk : Bool) :
    Ready × Block :=
  if holder = 0 then b.taskWrite t (some (coreTile c)) w pageInOk
  else
    (w.flatMap (fun x => (pieces 512 x.1 x.2.length).map (fun p => (p.1, (x.2.drop (p.1 - x.1)).take p.2)))).foldl
      (fun (st : Ready × Block) p => match st.1 with
        | .ok =>
          let r := st.2.request (.task (.core c) t.serial) (holder - 1) 1 Op.write p.2.length p.1 p.2
          match r.1.code with
          | none => (.ok, r.2.dropLines (c.val / 8) holder p.1 p.2.length)
          | some code => (.fault code, r.2)
        | _ => st) (.ok, b)

/-- Values of an operand row (R156). -/
def operandRow (d : Desc) (rd : Reader) (r c n : Nat) : List Num :=
  (d.values rd r c n).map (fun v => if d.scaleMode = 1 then rnd32 v else v)

/-- One drained output row: steps 1 to 7, statistics, writes. `lo` and `n` are the columns written. -/
def Block.drainRow (b : Block) (c : Fin 128) (t : TaskSt) (r : TaskRec) (x : DrainCtx) (e : Entry32) (src : Source) (lo n i : Nat)
    (ops : List Num) : Ready × Block :=
  let d := src.d
  let per := ceilDiv e.colCount 128
  let off := lo - e.colStart
  let core := b.core c.val
  let bank := (List.range per).flatMap (fun j => core.bankRow (e.accRow + i * per + j))
  let vals := ((bank.drop off).take n).zipIdx.map (fun p => x.word p.1 (ops.getD (off + p.2) Num.zero))
  let v := vals.map (fun p => p.1)
  let b := b.drnOvf c 1 (vals.map (fun p => p.2)).sum
  let rows := (off + n + 127) / 128 - off / 128
  let b := b.count (.drn c) Reg.DRN_ROWS_OUT rows
  let sr := r.roundBit 0 && !(d.format == 1 && d.scaleMode != 1)
  -- one draw of generators 32 to 39 for each bank row read
  let draws := if sr then (List.range rows).foldl (fun (l : List (List (BitVec 128))) _ =>
      l ++ [drawGens (l.getLastD core.gens) 32]) [] else []
  let b := if sr then b.setCore c.val { b.core c.val with gens := draws.getLastD core.gens } else b
  let rnd := fun (j : Nat) => if sr then
      Rounding.stochastic (lfsrByte ((draws.getD ((off + j) / 128 - off / 128) []).drop 32) ((off + j) % 128)) else .nearest
  let cv := d.convert (lo - e.colStart + src.e.colStart) (v.zipIdx.map (fun p => (p.1, rnd p.2))) (r.roundBit 3)
  let b := b.countConv c d.format cv
  let row := src.e.rowStart + i
  let w := d.putConv (b.sourceReader t src) row (lo - e.colStart + src.e.colStart) cv
  let stats := fun (y : Block) =>
    if r.statDesc = 0 ∨ n = 0 then (Ready.ok, y)
    else
      let sd := y.desc r.statDesc
      let a := sd.elemAddr (e.rowStart + i) 0
      let q := y.demand t [(a, 16)] e.pageInOk
      match q.1 with
      | .ok =>
        let old := (List.range 4).map (fun k => BitVec.ofNat 32 (rdLE (q.2.taskReader t a 16) (4 * k) 4))
        let s := (if e.colStart = 0 then q.2 else (q.2.portIn c 16).served (c.val / 8) t [(a, 16)]).rowStats r old (e.colStart != 0) lo (if x.pass then v.map rnd32 else v)
        let st := r.par 0x13 1
        s.2.taskWrite t (some (coreTile c))
          ((if st % 4 = 0 then [] else [(a, (s.1.take 2).flatMap (fun k => toBytes 4 k.toNat))]) ++
            (if st / 4 = 0 then [] else [(a + 8, (s.1.drop 2).flatMap (fun k => toBytes 4 k.toNat))])) e.pageInOk
      | o => (o, q.2)
  match stats b with
  | (.ok, y) => y.writeOut c t src.holder w e.pageInOk
  | z => z

/-- Everything that a DRAIN's writes must reach, asked for before its first row, and what they keep of another module's. -/
def Block.drainReady (b : Block) (c : Fin 128) (t : TaskSt) (r : TaskRec) (e : Entry32) (src : Source) : Ready × Block :=
  let out := if src.holder = 0 then src.ranges else []
  let stat := if r.statDesc = 0 ∨ e.empty then [] else
    (List.range e.rowCount).map (fun i => ((b.desc r.statDesc).elemAddr (e.rowStart + i) 0, 16))
  if !b.sourceFits src then (.fault Ev.DESC_RANGE, b)
  else if out.any (fun g => b.protected_ g.1 g.2) ∨ stat.any (fun g => b.protected_ g.1 g.2) then (.fault Ev.DESC_PROTECT, b)
  else
    let q := b.demand t (out ++ stat) e.pageInOk
    match q.1 with
    | .ok => if src.holder ≠ 0 ∧ src.keepsSome then q.2.askRemote c t (src.ranges.map (fun r => (src.holder, r))) else q
    | _ => q

/-- The first `n` rows of a DRAIN in turn, until one cannot go on. -/
def Block.drainRows (b : Block) (c : Fin 128) (t : TaskSt) (r : TaskRec) (e : Entry32) (src : Source) (op : Option Took) (n : Nat) :
    Ready × Block :=
  let x := b.drainCtx r (b.desc r.descC.toNat)
  let cols := t.drainCols e
  (List.range n).foldl (fun (st : Ready × Block) i => match st.1 with
    | .ok =>
      let ops := match op with
        | none => []
        | some k => operandRow k.d k.rd (k.e.rowStart + if r.par 0x11 1 = 1 then 0 else i) k.e.colStart e.colCount
      if cols.2 = 0 then st else st.2.drainRow c t r x e src cols.1 cols.2 i ops
    | _ => st) (.ok, b)

/-- A drain operand entry (SRC 3) that the sequencer has reached (R156): kept for the DRAIN that follows. -/
def Block.drainOperand (b : Block) (c : Fin 128) (t : TaskSt) (r : TaskRec) (e : Entry32) : Block :=
  let x := b.core c.val
  if r.par 0x11 1 = 0 ∨ x.opnd.isSome ∨ !entryClean e 0 then b.coreFault c t Ev.DENSE_SHAPE
  else (b.setCore c.val { x with opnd := some (posKey t.pos) }).passEntry (.core c) t.serial 0

/-- A DRAIN entry that the sequencer has reached. Rows before one that holds an uncorrectable word are written (R121). -/
def Block.drainEntry (b : Block) (c : Fin 128) (t : TaskSt) (r : TaskRec) (e : Entry32) (cycles eccCorr errs : Nat) : Block :=
  let opPos := (b.core c.val).opnd.map keyPos
  let d := b.desc r.descC.toNat
  let stop := fun (y : Block) (code : Nat) =>
    ((y.setCore c.val { y.core c.val with opnd := none }).spendIn c t 0 0 cycles).coreFault c t code
  match if r.descC = 0 then some Ev.DENSE_SHAPE
      else drainCheck r e d (opPos.map (fun p => b.entryAt t p)) (decide (r.statDesc ≠ 0) && (b.desc r.statDesc).readOnly) with
  | some code => stop b code
  | none => match b.source d e with
    | none => stop b Ev.SHARD_ABSENT
    | some src =>
      let per := ceilDiv e.colCount 128
      let go := b.drainReady c t r e src
      match go.1 with
      | .wait => go.2
      | .fault code => stop go.2 code
      | .ok =>
        let rows := fun (y : Block) (op : Option Took) =>
          let y := y.drnCount c Reg.DRN_ECC_CORR eccCorr 0
          let bad := decide (1 ≤ errs) && decide (e.accRow ≤ errs - 1) && decide (errs - 1 < e.accRow + per * e.rowCount)
          let z := y.drainRows c t r e src op (if bad then rowsBefore e.accRow per (errs - 1) else e.rowCount)
          match z.1 with
          | .fault code => stop z.2 code
          | .wait => go.2
          | .ok =>
            if bad then stop (z.2.clearBankRow c (errs - 1)) Ev.ACC_ECC
            else ((z.2.setCore c.val { z.2.core c.val with opnd := none }).spendIn c t 0 0 cycles).passEntry (.core c) t.serial 0
        match opPos with
        | none => rows go.2 none
        | some p =>
          let k := go.2.take c (t.at_ p) 3 false
          match k.1.ready with
          | .wait => k.2
          | .fault code => stop k.2 code
          | .ok => rows k.2 (some k.1)

/-- A DRAIN or drain-operand entry that the sequencer has reached. `errs` is 0, or 1 + r where bank row r holds a word found
uncorrectable. -/
def denseDrain (c : Fin 128) (cycles eccCorr errs : Nat) (words : Errs) : Block → Block := Block.engine c 3 words (fun b =>
  match b.portTask c 3 with
  | none => b
  | some t =>
    if t.listDone then b
    else
      let e := b.entryAt t t.pos
      if e.src = 3 then b.drainOperand c t t.cur e
      else if e.src = 2 then b.drainEntry c t t.cur e cycles eccCorr errs
      else b)

/-- DENSE_DRAIN (R120, R139, R141, R154 to R168). -/
def execDenseDrain (c : Fin 128) (cycles eccCorr errs : Nat) (words : Errs) (s : State) : Host.Outcome State Fault Refusal :=
  s.onBlock (denseDrain c cycles eccCorr errs words)

end Sys2Proof.Machine
end

