-- ==== Sys2Proof/Machine/Derail.lean ====
section
/-! DEFINITION. The derailleur (R170 to R196): gathers and scatters with the coalescer, sparse products with their fallback passes,
products over predicted rows. -/

namespace Sys2Proof.Machine

open Sys2Proof

/-! ## Dispatch -/

/-- May a lane multiply elements of a format (R172)? -/
def laneFormat (f : Nat) : Bool := (decide (2 ≤ f) && decide (f ≤ 7)) || f == 8

/-- An index tensor (R174). -/
def indexDesc (d : Desc) (d0 : Nat) : Bool := d.format == 9 && d.layout == 1 && d.scaleMode == 0 && d.d0 == d0

/-- The gear in which a fallback pass runs (R175, R189): the lowest of W128, W256 and W512 that R112 allows.
DEDUCED (notes/assumptions/29.md). -/
def compactGear (a w : Desc) : Option Nat := [0, 1, 2].find? (fun g => (accMode g a w).isSome)

/-- What stops a SPARSE record at dispatch (R175). -/
def Block.sparseDispatch (b : Block) (r : TaskRec) : Option Nat :=
  let op := r.par 0 1
  let a := b.desc r.descA.toNat
  let w := b.desc r.descB.toNat
  let o := b.desc r.descC.toNat
  let x := b.desc r.descD.toNat
  let has := fun (l : List DWord) => l.all (fun p => decide (p ≠ 0))
  let same := fun (s : Desc) => s.format == o.format && s.layout == o.layout && s.scaleMode == o.scaleMode
  let ok := !o.readOnly && match op with
    | 1 => has [r.descB, r.descC, r.descD] && indexDesc x 1 && same w
    | 2 => has [r.descA, r.descC, r.descD] && indexDesc x 1
    | 3 => has [r.descA, r.descC, r.descD] && indexDesc x 1 && same a
    | 4 => has [r.descA, r.descB, r.descC, r.descD] && indexDesc x 2 && laneFormat a.format && laneFormat w.format &&
        decide (a.scaleMode ≠ 2) && a.d0 == 1 && decide (x.rows ≤ a.rows) &&
        (!bit (r.par 1 1) 0 || (compactGear a w).isSome)
    | _ => has [r.descA, r.descB, r.descC, r.descD] && laneFormat a.format && laneFormat w.format && a.d0 == w.d0 &&
        x.format == 8 && x.layout == 1 && x.scaleMode == 0 && decide (a.rows ≤ x.rows) && decide (ceilDiv w.rows 8 ≤ x.d0) &&
        o.rows == a.rows && o.d0 == w.rows
  let ins := match op with
    | 1 => [w, x] | 2 => [a, x] | 3 => [a, x] | _ => [a, w, x]
  if !ok then some Ev.SPARSE_SHAPE else if ins.any (fun d => o.meets d) then some Ev.DESC_OVERLAP else none

/-- What the start of a SPARSE or DISPATCH task does to the derailleur: everything empty, the registers' values taken (R184, R187,
R188, R193). -/
def Block.drlStart (b : Block) (c : Fin 128) (t : TaskSt) : Block :=
  let x := b.core c.val
  let pred := b.rd (.drl c) Reg.DRL_PRED
  let select := t.task.kind = 2 ∧ t.task.par 0 1 = 5
  let b := b.setCore c.val { x with
    slab := none
    slabNext := none
    merge := []
    window := []
    requests := 0
    sums := []
    thr := max 64 (wfield (b.rd (.drl c) Reg.DRL_SPLIT) 15 0)
    compactThr := wfield (b.rd (.drl c) Reg.DRL_COMPACT) 10 0
    predMode := wfield pred 1 0
    predPhase := wfield pred 13 8 }
  let b := if select ∧ wfield pred 1 0 = 1 then b.wrField (.drl c) Reg.DRL_PRED 13 8 ((wfield pred 13 8 + 1) % 64) else b
  b.wrField (.drl c) Reg.STAT 2 0 (if t.task.kind = 2 then t.task.par 0 1 else 6)

/-! ## Work items and entries -/

/-- The running SPARSE task of a core with the given OP, or DISPATCH task. -/
def Block.drlTask (b : Block) (c : Fin 128) (kind op : Nat) : Option TaskSt :=
  (b.portTask c 1).bind (fun t => if decide (t.task.kind.toNat = kind) && t.task.par 0 1 == op && !t.listDone then some t else none)

/-- Work items that CAPACITY still admits (R174). -/
def TaskSt.room (t : TaskSt) : Nat := t.task.capacity.toNat - t.items

/-- Count work items, cycles and lane cycles of a derailleur's task, and pass the entry when it is finished. -/
def Block.drlDone (b : Block) (c : Fin 128) (t : TaskSt) (n : Nat) (whole : Bool) (cycles lanes : Nat) : Block :=
  let b := b.mapTask (.core c) t.serial (fun u => { u with items := u.items + n, cycles := u.cycles + cycles })
  let b := ((b.count (.drl c) Reg.DRL_ITEMS n).count (.drl c) Reg.DRL_BUSY cycles).count (.drl c) Reg.DRL_LANE_BUSY lanes
  let b := b.wrField (.drl c) Reg.STAT 12 8 (if cycles = 0 then 0 else min 16 (ceilDiv lanes cycles))
  if whole then b.passEntry (.core c) t.serial 0 else b

/-- Are the reserved bits of a derailleur's entry 0 (R176)? -/
def drlClean (e : Entry32) : Bool := !e.rsv && decide (e.flags / 2 = 0)

/-- A derailleur's task ends in a fault at its entry; the cycles spent count (R45). -/
def Block.drlFault (b : Block) (c : Fin 128) (t : TaskSt) (code cycles lanes : Nat) : Block :=
  (b.drlDone c t 0 false cycles lanes).coreFault c t code

/-- The three kind-specific words of an entry (R176). -/
def Entry32.kp (e : Entry32) (i : Nat) : Nat := e.param (4 * i) 4

/-! ## The coalescer (R178) -/

/-- Columns of a row that an entry reads: the descriptor's address, the descriptor, the row, the first column and the number of them. -/
abbrev RowWant := Nat × Desc × Nat × Nat × Nat

/-- The requests of a source of one row, one per 2 KiB (R177). -/
def Source.requests (s : Source) (desc row : Nat) : List RowReq :=
  (s.ranges.take 1).flatMap (fun g => (List.range (ceilDiv g.2 2048)).map (fun i =>
    { desc := desc, row := row, holder := s.holder, first := g.1 + 2048 * i, len := min 2048 (g.2 - 2048 * i), data := [], bad := [] }))

/-- Bytes that a request brings: its range, and the scale bytes of the channel vectors that begin in it. -/
def Source.reqRanges (s : Source) (q : RowReq) : List (Nat × Nat) :=
  (q.first, q.len) :: if s.d.mx ∧ s.d.vb ≠ 0 then
    let v := s.e.colStart / 32
    let a := s.d.vecAddr s.e.rowStart v
    let lo := ceilDiv (q.first - a) s.d.vb
    [(s.d.scaleAddr s.e.rowStart v + lo, ceilDiv (q.first + q.len - a) s.d.vb - lo)]
  else []

/-- Do two requests name the same descriptor, row and byte range? -/
def RowReq.same (x y : RowReq) : Bool :=
  x.desc == y.desc && x.row == y.row && x.holder == y.holder && x.first == y.first && x.len == y.len

/-- Where rows lie (R103). -/
def Block.wantSources (b : Block) (l : List RowWant) : Option (List (RowWant × List Source)) :=
  l.foldr (fun w r => match b.rowSources w.2.1 w.2.2.1 w.2.2.2.1 w.2.2.2.2, r with
    | some s, some r => some ((w, s) :: r)
    | _, _ => none) (some [])

/-- The requests that rows make. -/
def wantRequests (l : List (RowWant × List Source)) : List (Source × RowReq) :=
  l.flatMap (fun p => p.2.flatMap (fun s => (s.requests p.1.1 p.1.2.2.1).map (fun q => (s, q))))

/-- Of requests made in turn, those that match none of the last 64. -/
def newRequests (window : List RowReq) (l : List (Source × RowReq)) : List (Source × RowReq) :=
  (l.foldl (fun (st : List RowReq × List (Source × RowReq)) p =>
    ((p.2 :: st.1).take 64, if st.1.any (fun q => q.same p.2) then st.2 else st.2 ++ [p])) (window, [])).2

/-- Ask for rows: through the coalescer, whose earlier data a merged request takes, or each for itself. -/
def Block.rowsReady (b : Block) (c : Fin 128) (t : TaskSt) (co : Bool) (l : List RowWant) (pageInOk : Bool) : Ready × Block :=
  match b.wantSources l with
  | none => (.fault Ev.SHARD_ABSENT, b)
  | some l =>
    let r := wantRequests l
    let r := if co then newRequests (b.core c.val).window r else r
    b.sourcesReady c t (r.map (fun p => (p.1, p.1.reqRanges p.2))) (l.all (fun p => p.1.2.1.allowNewer)) pageInOk

/-- What reading columns of a row gives: its sources, each with the bytes it brought, and the poisoned words. -/
structure RowData where
  parts : List (Source × Reader)
  bad : List Nat

/-- Make a request of the coalescer: merged with one of the last 64 (R178), or read. -/
def Block.oneRequest (b : Block) (c : Fin 128) (t : TaskSt) (co : Bool) (s : Source) (q : RowReq) : RowReq × Block :=
  let x := b.core c.val
  let push := fun (y : Block) (q : RowReq) =>
    let x := y.core c.val
    if co then y.setCore c.val { x with window := (q :: x.window).take 64, requests := x.requests + 1 } else y
  match if co then x.window.find? (fun w => w.same q) else none with
  | some w => (w, (push b w).count (.drl c) Reg.DRL_COALESCED 1)
  | none =>
    let ranges := s.reqRanges q
    let r := b.portSource c t s q.len ranges
    let q := { q with data := ranges.flatMap (fun g => (r.1.1 g.1 g.2).zipIdx.map (fun p => (g.1 + p.2, p.1))), bad := r.1.2 }
    (q, push r.2 q)

/-- Read columns of a row that have been asked for. -/
def Block.readRow (b : Block) (c : Fin 128) (t : TaskSt) (co : Bool) (w : RowWant) : RowData × Block :=
  ((b.rowSources w.2.1 w.2.2.1 w.2.2.2.1 w.2.2.2.2).getD []).foldl (fun (st : RowData × Block) s =>
    let r := (s.requests w.1 w.2.2.1).foldl (fun (z : List RowReq × Block) q =>
      let o := z.2.oneRequest c t co s q
      (z.1 ++ [o.1], o.2)) ([], st.2)
    ({ parts := st.1.parts ++ [(s, snapReader (r.1.flatMap (fun q => q.data)))], bad := st.1.bad ++ r.1.flatMap (fun q => q.bad) },
      r.2)) ({ parts := [], bad := [] }, b)

/-- Columns of a row as memory holds them now, nothing counted. -/
def Block.peekRow (b : Block) (t : TaskSt) (w : RowWant) : RowData :=
  { parts := ((b.rowSources w.2.1 w.2.2.1 w.2.2.2.1 w.2.2.2.2).getD []).map (fun s => (s, b.sourceReader t s)), bad := [] }

/-- Codes of the columns read. -/
def RowData.codes (r : RowData) : List Nat :=
  r.parts.flatMap (fun p => p.1.d.codes p.2 p.1.e.rowStart p.1.e.colStart p.1.e.colCount)

/-- Scale bytes of the columns read. -/
def RowData.scales (r : RowData) : List Nat :=
  r.parts.flatMap (fun p => p.1.d.scales p.2 p.1.e.rowStart p.1.e.colStart p.1.e.colCount)

/-- Values of the columns read, TENSOR_SCALE applied or not. -/
def RowData.values (r : RowData) (scaled : Bool) : List Num :=
  r.parts.flatMap (fun p => (if scaled then p.1.d else p.1.d.unscaled).values p.2 p.1.e.rowStart p.1.e.colStart p.1.e.colCount)

/-- Poison of what rows have read stops a task that consumes them (R226). -/
def poisonStop (l : List RowData) : Option Nat := ((l.flatMap (fun r => r.bad)).head?).map poisonCode

/-! ## Rows written -/

/-- Ask for rows that are written: residence and protection at home, and from other modules what the write keeps or, where `old` is true,
adds to. -/
def Block.rowsOpen (b : Block) (c : Fin 128) (t : TaskSt) (o : Desc) (rows : List Nat) (c0 n : Nat) (pageInOk old : Bool) :
    Ready × Block :=
  match b.wantSources (rows.map (fun i => (0, o, i, c0, n))) with
  | none => (.fault Ev.SHARD_ABSENT, b)
  | some l =>
    let s := l.flatMap (fun p => p.2)
    let home := (s.filter (fun x => x.holder == 0)).flatMap (fun x => x.ranges)
    if s.any (fun x => !b.sourceFits x) then (.fault Ev.DESC_RANGE, b)
    else if home.any (fun g => b.protected_ g.1 g.2) then (.fault Ev.DESC_PROTECT, b)
    else
      let q := b.sourcesReady c t (s.map (fun x => ({ x with version := none },
        if x.holder = 0 ∨ old ∨ x.keepsSome then x.ranges else []))) true pageInOk
      match q.1 with
      | .ok =>
        if !old then q
        else match (q.2.poisonIn t home).orElse (fun _ => ((s.filter (fun x => x.holder != 0)).flatMap (fun x => x.ranges.flatMap (fun g =>
            q.2.remotePoisoned (x.holder - 1) g.1 g.2))).head?) with
          | some a => (.fault (poisonCode a), q.2)
          | none => q
      | _ => q

/-- Keep what a write puts into another module's memory beside what has been read from there, so that a later addition of the same entry
meets it. -/
def Block.keepRemote (b : Block) (holder : Nat) (w : List (Nat × List Byte)) : Block :=
  if holder = 0 then b
  else { b with lly := { b.lly with remote := w.foldl (fun m p =>
    Sparse.putList (fun _ => 0) m (remoteKey (holder - 1) p.1) p.2) b.lly.remote } }

/-- Write columns of a row: codes, and scale bytes under MX, in the module's own memory or another's. -/
def Block.writeRow (b : Block) (c : Fin 128) (t : TaskSt) (o : Desc) (row c0 : Nat) (codes scales : List Nat) (pageInOk : Bool) :
    Ready × Block :=
  ((b.rowSources o row c0 codes.length).getD []).foldl (fun (st : (Ready × Block) × (List Nat × List Nat)) s =>
    let k := st.2
    let n := s.e.colCount
    let m := if o.mx ∧ n ≠ 0 then ceilDiv (s.e.colStart + n) 32 - s.e.colStart / 32 else 0
    match st.1.1 with
    | .ok =>
      let w := s.d.putCodes (st.1.2.sourceReader t s) s.e.rowStart s.e.colStart (k.1.take n) ++
        s.d.putScales s.e.rowStart s.e.colStart (k.2.take m)
      let r := (st.1.2.keepRemote s.holder w).writeOut c t s.holder w pageInOk
      (r, (k.1.drop n, k.2.drop m))
    | _ => (st.1, k)) ((.ok, b), (codes, scales)) |>.1

/-- Write a converted run. -/
def Block.writeConv (b : Block) (c : Fin 128) (t : TaskSt) (o : Desc) (row c0 : Nat) (cv : Conv) (pageInOk : Bool) : Ready × Block :=
  (b.countConv c o.format cv).writeRow c t o row c0 cv.codes cv.scales pageInOk

/-! ## Gathers and scatters -/

/-- The column limits of R177 for a tensor. -/
def columnsOk (d : Desc) (c0 n : Nat) : Bool :=
  decide (c0 + n ≤ d.d0) && (d.layout != 0 || c0 % 32 == 0) && (!d.mx || n % 32 == 0 || c0 + n == d.d0)

/-- The check of a GATHER or SCATTER entry (R176, R177, R179): `d` is the tensor whose rows the entry counts. -/
def moveEntryOk (e : Entry32) (own s o : Desc) : Bool :=
  drlClean e && e.src == 3 && (e.empty || decide (e.kp 0 + e.rowCount ≤ own.rows)) && columnsOk s (e.kp 1) (e.kp 2) &&
    columnsOk o (e.kp 1) (e.kp 2)

/-- The indices that an entry names, as signed numbers. -/
def indexList (k : Took) (n : Nat) : List Int :=
  (List.range n).map (fun i => signed 32 ((k.d.codes k.rd (k.e.rowStart + i) 0 1).getD 0 0))

/-- Is an index in range? -/
def inRange (i : Int) (n : Nat) : Bool := decide (0 ≤ i) && decide (i < (n : Int))

/-- Positions before the first index that faults under INDEX_FAULT, and whether one does. -/
def cutAt (fault : Bool) (ok : Int → Bool) (l : List Int) : List Int × Bool :=
  if fault then (l.takeWhile ok, l.any (fun i => !ok i)) else (l, false)

/-- Carry the poison of words read to what was written from them, channel vector by channel vector (R226). A write to another module cannot
carry it. DEDUCED (notes/assumptions/28.md). -/
def Block.carryPoison (b : Block) (t : TaskSt) (r : RowData) (o : Desc) (row c0 n : Nat) : Block :=
  if r.bad.isEmpty then b
  else
    let vecs := fun (l : List Source) => l.flatMap (fun s => (pieces 32 s.e.colStart s.e.colCount).map (fun p => (s, p)))
    ((vecs (r.parts.map (fun p => p.1))).zip (vecs ((b.rowSources o row c0 n).getD []))).foldl (fun x p =>
      let hit := fun (g : Nat × Nat) => r.bad.any (fun w => decide (w / 8 * 8 < g.1 + g.2) && decide (g.1 < w / 8 * 8 + 8))
      if p.2.1.holder ≠ 0 then x
      else ((p.1.1.d.spanRanges p.1.1.e.rowStart p.1.2.1 p.1.2.2).zip (p.2.1.d.spanRanges p.2.1.e.rowStart p.2.2.1 p.2.2.2)).foldl
        (fun x g => if hit g.1 then x.poisonRange (x.taskAddr t g.2.1) g.2.2 else x) x) b

/-- Write a row as it was read, bits and scale bytes unchanged (R177). -/
def Block.moveRow (b : Block) (c : Fin 128) (t : TaskSt) (r : RowData) (o : Desc) (row c0 n : Nat) (pageInOk : Bool) : Ready × Block :=
  let w := b.writeRow c t o row c0 r.codes r.scales pageInOk
  match w.1 with
  | .ok => (.ok, w.2.carryPoison t r o row c0 n)
  | _ => w

/-- Write all-zero encodings, with scale byte 0 under MX, to columns of a row (R183). -/
def Block.zeroRow (b : Block) (c : Fin 128) (t : TaskSt) (o : Desc) (row c0 n : Nat) (pageInOk : Bool) : Ready × Block :=
  b.writeRow c t o row c0 (List.replicate n 0)
    (if o.mx ∧ n ≠ 0 then List.replicate (ceilDiv (c0 + n) 32 - c0 / 32) 0 else []) pageInOk

/-- Carry on over a list while each step is ready. -/
def Block.eachReady {α : Type} (b : Block) (l : List α) (f : Block → α → Ready × Block) : Ready × Block :=
  l.foldl (fun (st : Ready × Block) x => match st.1 with
    | .ok => f st.2 x
    | _ => st) (.ok, b)

/-- Finish the part of an entry that CAPACITY and the index policy admit: the fault, or the count. -/
def Block.drlFinish (b : Block) (c : Fin 128) (t : TaskSt) (r : Ready) (n : Nat) (whole bad : Bool) (cycles lanes : Nat) : Block :=
  match r with
  | .fault code => (b.drlDone c t 0 false cycles lanes).coreFault c t code
  | _ => if bad then (b.drlDone c t n false cycles lanes).coreFault c t Ev.INDEX_RANGE
         else b.drlDone c t n whole cycles lanes

/-- A GATHER entry that the derailleur has reached. -/
def gather (c : Fin 128) (cycles lanes : Nat) (errs : Errs) : Block → Block := Block.engine c 1 errs (fun b =>
  match b.drlTask c 2 1 with
  | none => b
  | some t =>
    let r := t.task
    let e := b.entryAt t t.pos
    let s := b.desc r.descB.toNat
    let o := b.desc r.descC.toNat
    let x := b.desc r.descD.toNat
    let n := if e.empty then 0 else min e.rowCount t.room
    let stop := fun (y : Block) (code : Nat) => y.drlFault c t code cycles lanes
    if !moveEntryOk e o s o then stop b Ev.SPARSE_SHAPE
    else
      let k := b.take c t 1 false
      match k.1.ready with
      | .wait => k.2
      | .fault code => stop k.2 code
      | .ok =>
        let cols := t.cut (e.kp 1) (e.kp 2)
        let cut := cutAt x.indexFault (fun i => inRange i s.rows) (indexList k.1 n)
        let want := fun (i : Int) => ((r.descB.toNat, s, i.toNat, cols.1, cols.2) : RowWant)
        let q := b.rowsReady c t true ((cut.1.filter (fun i => inRange i s.rows)).map want) e.pageInOk
        let q := match q.1 with
          | .ok => q.2.rowsOpen c t o ((List.range cut.1.length).map (fun i => e.kp 0 + i)) cols.1 cols.2 e.pageInOk false
          | _ => q
        match q.1 with
        | .wait => q.2
        | .fault code => stop q.2 code
        | .ok =>
          let z := (q.2.take c t 1 false).2.eachReady cut.1.zipIdx (fun y p =>
            if inRange p.1 s.rows then
              let d := y.readRow c t true (want p.1)
              d.2.moveRow c t d.1 o (e.kp 0 + p.2) cols.1 cols.2 e.pageInOk
            else (y.count (.drl c) Reg.DRL_OOR 1).zeroRow c t o (e.kp 0 + p.2) cols.1 cols.2 e.pageInOk)
          z.2.drlFinish c t z.1 (cut.1.length + b2n cut.2) (n == if e.empty then 0 else e.rowCount) cut.2 cycles lanes)

/-- GATHER (R177, R178, R183). -/
def execGather (c : Fin 128) (cycles lanes : Nat) (errs : Errs) (s : State) : Host.Outcome State Fault Refusal :=
  s.onBlock (gather c cycles lanes errs)

/-- Put a contribution into the sum of its row whose last request lies within 64, or start a sum (R180). `n` numbers the request.
DEDUCED (notes/assumptions/29.md). -/
def joinSum (l : List RowSum) (n : Nat) (s : RowSum) : List RowSum :=
  let mine := fun (g : RowSum) => g.row == s.row && g.first == s.first && g.cols == s.cols && decide (n ≤ g.last + 64)
  if l.any mine then l.map (fun g => if mine g then { g with last := n, vals := g.vals ++ s.vals } else g) else l ++ [s]

/-- Sum contributions and add them into a destination row (R179, R180): integers exactly where both tensors are INT32, their TENSOR_SCALE
left out, and otherwise in FP32, converted as R158 to R161 lay down. -/
def Block.addInto (b : Block) (c : Fin 128) (t : TaskSt) (o : Desc) (row c0 : Nat) (int : Bool) (contrib : List (List Num))
    (pageInOk : Bool) : Ready × Block :=
  let n := (contrib.headD []).length
  let old := b.readRow c t false (0, o, row, c0, n)
  let prev := old.1.values (!int)
  if int then
    let sums := (List.range n).map (fun j => contrib.foldl (fun a l => a.add (l.getD j Num.zero)) (prev.getD j Num.zero))
    old.2.writeConv c t o row c0 (o.unscaled.convert c0 (sums.map (fun v => (v, Rounding.nearest))) false) pageInOk
  else
    let r := (List.range n).foldl (fun (st : List Num × Block) j =>
      let l := contrib.map (fun l => l.getD j Num.zero)
      match l with
      | [v] => (st.1 ++ [v], st.2)
      | _ => let s := st.2.openSum l
             (st.1 ++ [s.1], s.2)) ([], old.2)
    let sums := r.1.zipIdx.map (fun p => rnd32 ((rnd32 (prev.getD p.2 Num.zero)).add p.1))
    r.2.writeConv c t o row c0 (o.convert c0 (sums.map (fun v => (v, Rounding.nearest))) false) pageInOk

/-- The sums of a SCATTER_ADD that are added after its step: all of them where no contribution follows, and otherwise those whose last
request lies more than 64 back (R180). -/
def sumsDue (l : List RowSum) (n : Nat) (all : Bool) : List RowSum := l.filter (fun g => all || decide (g.last + 64 < n))

/-- Add sums that are due, each with one read and one write of its row. The read-modify-write is one step of the model, so that nothing
comes between (R182). DESIGN CHOICE (notes/assumptions/29.md). -/
def Block.addSums (b : Block) (c : Fin 128) (t : TaskSt) (o : Desc) (int : Bool) (l : List RowSum) : Ready × Block :=
  b.eachReady l (fun y g => y.addInto c t o g.row g.first int g.vals g.pageIn)

/-- The sums that stand in the merge tree after contributions to rows have been read, their values left out, and the requests then made. -/
def Block.planSums (b : Block) (c : Fin 128) (l : List (RowWant × Nat)) (pageIn : Bool) : List RowSum × Nat :=
  let x := b.core c.val
  l.foldl (fun (st : List RowSum × Nat) p =>
    let m := st.2 + (((b.wantSources [p.1]).map wantRequests).getD []).length
    let cols := p.1.2.2.2
    (if cols.2 = 0 then st.1 else joinSum st.1 m ⟨p.2, cols.1, cols.2, m, [], pageIn⟩, m)) (x.sums, x.requests)

/-- Read a contribution and put it into the sum of its row. -/
def Block.contribute (b : Block) (c : Fin 128) (t : TaskSt) (w : RowWant) (row : Nat) (int pageIn : Bool) : RowData × Block :=
  let d := b.readRow c t true w
  let x := d.2.core c.val
  let v := (d.1.values (!int)).map (fun v => if int then v else rnd32 v)
  let cols := w.2.2.2
  (d.1, d.2.setCore c.val { x with sums :=
    if cols.2 = 0 then x.sums else joinSum x.sums x.requests ⟨row, cols.1, cols.2, x.requests, [v], pageIn⟩ })

/-- A scatter entry that the derailleur has reached: `add` for SCATTER_ADD. -/
def scatter (add : Bool) (c : Fin 128) (cycles lanes : Nat) (errs : Errs) : Block → Block := Block.engine c 1 errs (fun b =>
  match b.drlTask c 2 (if add then 2 else 3) with
  | none => b
  | some t =>
    let r := t.task
    let e := b.entryAt t t.pos
    let s := b.desc r.descA.toNat
    let o := b.desc r.descC.toNat
    let x := b.desc r.descD.toNat
    let n := if e.empty then 0 else min e.rowCount t.room
    let whole := n == if e.empty then 0 else e.rowCount
    let int := s.format == 9 && o.format == 9
    let stop := fun (y : Block) (code : Nat) => y.drlFault c t code cycles lanes
    if !moveEntryOk e s s o then stop b Ev.SPARSE_SHAPE
    else
      let k := b.take c t 1 false
      match k.1.ready with
      | .wait => k.2
      | .fault code => stop k.2 code
      | .ok =>
        let cols := t.cut (e.kp 1) (e.kp 2)
        let cut := cutAt x.indexFault (fun i => inRange i o.rows) (indexList k.1 n)
        let good := cut.1.zipIdx.filter (fun p => inRange p.1 o.rows)
        let want := fun (p : Int × Nat) => ((r.descA.toNat, s, e.kp 0 + p.2, cols.1, cols.2) : RowWant)
        let plan := b.planSums c (good.map (fun p => (want p, p.1.toNat))) e.pageInOk
        let due := if add then sumsDue plan.1 plan.2 (cut.2 || !whole || t.advance.listDone) else []
        let q := b.rowsReady c t true (good.map want) e.pageInOk
        let q := match q.1 with
          | .ok =>
            if add then due.foldl (fun (st : Ready × Block) (g : RowSum) => match st.1 with
              | .ok => st.2.rowsOpen c t o [g.row] g.first g.cols g.pageIn true
              | _ => st) q
            else q.2.rowsOpen c t o (good.map (fun (p : Int × Nat) => p.1.toNat)).eraseDups cols.1 cols.2 e.pageInOk false
          | _ => q
        match q.1 with
        | .wait => q.2
        | .fault code => stop q.2 code
        | .ok =>
          let y := (q.2.take c t 1 false).2.count (.drl c) Reg.DRL_OOR (cut.1.length - good.length)
          let finish := fun (z : Ready × Block) =>
            z.2.drlFinish c t z.1 (cut.1.length + b2n cut.2) whole cut.2 cycles lanes
          if !add then
            finish (y.eachReady good (fun y p =>
              let d := y.readRow c t true (want p)
              d.2.moveRow c t d.1 o p.1.toNat cols.1 cols.2 e.pageInOk))
          else
            let z := good.foldl (fun (st : List RowData × Block) p =>
              let d := st.2.contribute c t (want p) p.1.toNat int e.pageInOk
              (st.1 ++ [d.1], d.2)) ([], y)
            match poisonStop z.1 with
            | some code => stop z.2 code
            | none =>
              let x := z.2.core c.val
              let sums := sumsDue x.sums x.requests (cut.2 || !whole || t.advance.listDone)
              finish ((z.2.setCore c.val { x with sums := x.sums.filter (fun g => !sums.contains g) }).addSums c t o int sums))

/-- SCATTER_ADD (R179, R180, R183). -/
def execScatterAdd (c : Fin 128) (cycles lanes : Nat) (errs : Errs) (s : State) : Host.Outcome State Fault Refusal :=
  s.onBlock (scatter true c cycles lanes errs)

/-- SCATTER_SET (R181, R183). -/
def execScatterSet (c : Fin 128) (cycles lanes : Nat) (errs : Errs) (s : State) : Host.Outcome State Fault Refusal :=
  s.onBlock (scatter false c cycles lanes errs)

/-! ## Sparse products -/

/-- An SPMM entry that no SPMM command may take: its SRC is none that the operation uses (R176). -/
def Entry32.spmmBad (e : Entry32) : Bool := e.src == 0

/-- An SPMM LOAD entry that the derailleur has reached. -/
def spmmLoad (c : Fin 128) (cycles : Nat) (errs : Errs) : Block → Block := Block.engine c 1 errs (fun b =>
  match b.drlTask c 2 4 with
  | none => b
  | some t =>
    let e := b.entryAt t t.pos
    let stop := fun (y : Block) (code : Nat) => y.drlFault c t code cycles 0
    if e.spmmBad then stop b Ev.SPARSE_SHAPE
    else if e.src ≠ 1 then b
    else if !drlClean e ∨ e.kind.any (fun x => x != 0) ∨ 128 < e.rowCount ∨ 512 < e.colCount then stop b Ev.SPARSE_SHAPE
    else
      let k := b.take c t 1 false
      match k.1.ready with
      | .wait => k.2
      | .fault code => stop k.2 code
      | .ok =>
        let vals := (List.range e.rowCount).map (fun i =>
          k.1.d.unscaled.values k.1.rd (k.1.e.rowStart + i) k.1.e.colStart e.colCount)
        let y := k.2.core c.val
        (k.2.setCore c.val { y with slabNext := some ⟨e.rowStart, e.colStart, e.rowCount, e.colCount, vals, e.pageInOk⟩ }).drlDone c t 0
          true cycles 0)

/-- SPMM_LOAD (R184). -/
def execSpmmLoad (c : Fin 128) (cycles : Nat) (errs : Errs) (s : State) : Host.Outcome State Fault Refusal :=
  s.onBlock (spmmLoad c cycles errs)

/-- A non-zero of a run: output row, K column, value. -/
structure NonZero where
  row : Int
  col : Int
  val : Num
  deriving DecidableEq, Repr

/-- A sum of products in a lane: one rounding to FP32 for each (R172). -/
def laneSum (l : List (Num × Num)) : Num := l.foldl (fun a p => rnd32 (a.add (p.1.mul p.2))) Num.zero

/-- Runs of one output row, contiguous in the list (R185). -/
def rowRuns (l : List NonZero) : List (List NonZero) :=
  l.foldr (fun z rs => match rs with
    | (y :: ys) :: rest => if y.row = z.row then (z :: y :: ys) :: rest else [z] :: (y :: ys) :: rest
    | _ => [z] :: rs) []

/-- Segments of at most `n` (R187). -/
def segments (n : Nat) (l : List NonZero) : List (List NonZero) :=
  (List.range (ceilDiv l.length n)).map (fun i => (l.drop (n * i)).take n)

/-- The slab row of a K column. -/
def Slab.row (s : Slab) (col : Int) : List Num := s.vals.getD (col - s.rowStart).toNat []

/-- A word of the merge buffer. -/
def CoreSt.mergeVal (x : CoreSt) (row j : Nat) : Num := val32 (Sparse.get (fun _ => 0) x.merge (512 * row + j))

/-- Add a partial row into a merge row. -/
def Block.mergeAdd (b : Block) (c : Fin 128) (row : Nat) (vals : List Num) : Block :=
  let x := b.core c.val
  let sums := vals.zipIdx.map (fun p => (f32 ((x.mergeVal row p.2).add p.1)).1)
  b.setCore c.val { x with merge := Sparse.putList (fun _ => 0) x.merge (512 * row) sums }

/-- Ask for the scratch window (R190). -/
def Block.wantScratch (b : Block) (c : Fin 128) : Block :=
  let w := b.rd (.drl c) Reg.DRL_SCRATCH
  if wfield w 1 0 = 0 then b.wr (.drl c) Reg.DRL_SCRATCH (wset w 1 0 1)
  else if wfield w 1 0 = 2 ∧ !wbit w 8 then (b.wr (.drl c) Reg.DRL_SCRATCH (wsetBit w 8 true)).count (.drl c) Reg.DRL_YIELDS 1
  else b

/-- A pass is placed on the array once compaction owns the window: filler there stops at once (R189). -/
def Block.placed (b : Block) (c : Fin 128) : Block :=
  if wfield (b.rd (.drl c) Reg.DRL_SCRATCH) 1 0 = 1 ∧ !(b.core c.val).fallbacks.isEmpty ∧ 0 < Sparse.get (fun _ => 0) b.pwr.filler c.val
  then b.stopFiller c else b

/-- The dense row of a compacted row's non-zeros (R189). Where a K column is named twice the manual gives the element no value. -/
def Block.denseRow (b : Block) (fmt : Nat) (s : Slab) (l : List NonZero) : List Num × Block :=
  (List.range s.rows).foldl (fun (st : List Num × Block) k =>
    match l.filter (fun z => decide (z.col = ((s.rowStart + k : Nat) : Int))) with
    | [] => (st.1 ++ [Num.zero], st.2)
    | [z] => (st.1 ++ [z.val], st.2)
    | _ => let f := st.2.fresh
           (st.1 ++ [ofFormat fmt (f.1 % 2 ^ elemBits fmt)], f.2)) ([], b)

/-- Show in DRL_STAT whether a fallback pass waits. -/
def Block.showFallback (b : Block) (c : Fin 128) : Block := b.wrBit (.drl c) Reg.STAT 7 !(b.core c.val).fallbacks.isEmpty

/-- The merge row of an output row (R184). DEDUCED (notes/assumptions/29.md). -/
def mergeRow (row : Int) (base : Nat) : Nat := (row - (base : Int)).toNat

/-- The output row of a run of non-zeros. DEDUCED (notes/assumptions/29.md). -/
def runRow (l : List NonZero) : Int := match l with | z :: _ => z.row | [] => 0

/-- Place a run on the array (R188, R189). -/
def Block.compact (b : Block) (c : Fin 128) (t : TaskSt) (fmt base : Nat) (s : Slab) (l : List NonZero) : Block :=
  let rows := (l.map (fun z => z.row)).eraseDups
  let r := rows.foldl (fun (st : List (Nat × List Num) × Block) i =>
    let d := st.2.denseRow fmt s (l.filter (fun z => z.row == i))
    (st.1 ++ [(mergeRow i base, d.1)], d.2)) ([], b)
  let x := r.2.core c.val
  let f : Fallback := { serial := t.serial, rows := r.1, slab := s }
  let b := r.2.setCore c.val { x with fallbacks := x.fallbacks ++ [f] }
  ((b.wantScratch c).placed c).count (.drl c) Reg.DRL_FALLBACK 1 |>.showFallback c

/-- Does a fallback pass of a task still add into one of the given merge rows (R186)? -/
def CoreSt.rowsPending (x : CoreSt) (rows : List Nat) : Bool := x.fallbacks.any (fun f => f.rows.any (fun p => rows.contains p.1))

/-- The non-zeros of a run: pairs from the block taken, values as read. -/
def nonZeros (k : Took) (vals : List RowData) : List NonZero :=
  vals.zipIdx.map (fun p =>
    let q := k.d.codes k.rd (k.e.rowStart + p.2) 0 2
    ⟨signed 32 (q.getD 0 0), signed 32 (q.getD 1 0), (p.1.values false).getD 0 Num.zero⟩)

/-- An SPMM STREAM entry that the derailleur has reached. -/
def spmmStream (c : Fin 128) (cycles : Nat) (errs : Errs) : Block → Block := Block.engine c 1 errs (fun b =>
  match b.drlTask c 2 4 with
  | none => b
  | some t =>
    let r := t.task
    let e := b.entryAt t t.pos
    let a := b.desc r.descA.toNat
    let o := b.desc r.descC.toNat
    let ix := b.desc r.descD.toNat
    let x := b.core c.val
    let n := if e.empty then 0 else min e.rowCount t.room
    let stop := fun (y : Block) (code : Nat) => y.drlFault c t code cycles 0
    if e.spmmBad then stop b Ev.SPARSE_SHAPE
    else if e.src ≠ 3 then b
    else if !drlClean e ∨ e.kp 1 ≠ 0 ∨ e.kp 2 ≠ 0 ∨ (!e.empty ∧ (e.colStart ≠ 0 ∨ e.colCount ≠ 2)) then stop b Ev.SPARSE_SHAPE
    else
      let wants := (List.range n).map (fun i => ((r.descA.toNat, a, e.rowStart + i, 0, 1) : RowWant))
      let q := b.rowsReady c t false wants e.pageInOk
      match q.1 with
      | .wait => q.2
      | .fault code => stop q.2 code
      | .ok =>
        let k := q.2.take c t 1 false
        match k.1.ready with
        | .wait => k.2
        | .fault code => stop k.2 code
        | .ok =>
          let v := wants.foldl (fun (st : List RowData × Block) w =>
            let d := st.2.readRow c t false w
            (st.1 ++ [d.1], d.2)) ([], k.2)
          let slab := (match x.slabNext with | some s => some s | none => x.slab).getD ⟨0, 0, 0, 0, [], false⟩
          let base := e.kp 0
          let nz := nonZeros k.1 v.1
          let rowOk := fun (z : NonZero) => decide ((base : Int) ≤ z.row) && decide (z.row ≤ ((base + 255 : Nat) : Int)) && inRange z.row o.rows
          let colOk := fun (z : NonZero) => decide ((slab.rowStart : Int) ≤ z.col) && decide (z.col < ((slab.rowStart + slab.rows : Nat) : Int))
          let bad := ix.indexFault && nz.any (fun z => !rowOk z || !colOk z)
          let runs := rowRuns (nz.filter rowOk)
          let segs := runs.flatMap (segments x.thr)
          let rowsHit := (runs.map (fun l => mergeRow (runRow l) base)).eraseDups
          if x.rowsPending rowsHit then b
          else match poisonStop v.1 with
          | some code => stop v.2 code
          | none =>
            let y := v.2
            let y := if n = 0 then y else y.setCore c.val { y.core c.val with slab := some slab, slabNext := none }
            let y := y.count (.drl c) Reg.DRL_OOR (if bad then 0 else
              (nz.filter (fun z => !rowOk z)).length + (nz.filter (fun z => !colOk z)).length)
            let live := (nz.filter rowOk).filter colOk
            let active := (nz.map (fun z => z.row)).eraseDups.length
            let falls := bit (r.par 1 1) 0 && decide (x.compactThr * active * slab.rows ≤ n * 1024) && decide (x.compactThr ≤ 1024) && decide (n ≠ 0)
            let y :=
              if bad ∨ n = 0 then y
              else if falls then
                if live.isEmpty then y.count (.drl c) Reg.DRL_FALLBACK 1 else y.compact c t a.format base slab live
              else
                let y := y.count (.drl c) Reg.DRL_SPLITS (runs.filter (fun l => decide (x.thr < l.length))).length
                segs.foldl (fun y l =>
                  y.mergeAdd c (mergeRow (runRow l) base) ((List.range slab.cols).map (fun j =>
                    laneSum ((l.filter colOk).map (fun z => (z.val, (slab.row z.col).getD j Num.zero)))))) y
            y.drlFinish c t .ok n (n == if e.empty then 0 else e.rowCount) bad cycles
              (if bad || falls then 0 else nz.length * ceilDiv slab.cols 32))

/-- SPMM_STREAM (R184 to R188). -/
def execSpmmStream (c : Fin 128) (cycles : Nat) (errs : Errs) (s : State) : Host.Outcome State Fault Refusal :=
  s.onBlock (spmmStream c cycles errs)

/-- A value scaled by the TENSOR scales of two operands in the manner of step 2 of R155. -/
def tensorScaled (a w : Desc) (v : Num) : Counting :=
  let s := roundCount (Num.zero, 0) (v.mul a.tensorScale)
  roundCount s (s.1.mul w.tensorScale)

/-- Write one row of results as R179 converts, into the contents or in place of them. -/
def Block.putRow (b : Block) (c : Fin 128) (t : TaskSt) (o : Desc) (row c0 : Nat) (accum : Bool) (vals : List Num)
    (pageInOk : Bool) : Ready × Block :=
  if accum then b.addInto c t o row c0 false [vals] pageInOk
  else b.writeConv c t o row c0 (o.convert c0 (vals.map (fun v => (v, Rounding.nearest))) false) pageInOk

/-- An SPMM FLUSH entry that the derailleur has reached. -/
def spmmFlush (c : Fin 128) (cycles : Nat) (errs : Errs) : Block → Block := Block.engine c 1 errs (fun b =>
  match b.drlTask c 2 4 with
  | none => b
  | some t =>
    let r := t.task
    let e := b.entryAt t t.pos
    let a := b.desc r.descA.toNat
    let w := b.desc r.descB.toNat
    let o := b.desc r.descC.toNat
    let x := b.core c.val
    let accum := bit (e.kp 1) 0
    let m0 := e.rowStart - e.kp 0
    let stop := fun (y : Block) (code : Nat) => y.drlFault c t code cycles 0
    if e.spmmBad then stop b Ev.SPARSE_SHAPE
    else if e.src ≠ 2 then b
    else if !drlClean e ∨ 2 ≤ e.kp 1 ∨ e.kp 2 ≠ 0 ∨ 256 < e.rowCount ∨ 512 < e.colCount ∨ e.rowStart < e.kp 0 ∨
        256 < m0 + e.rowCount ∨ (o.mx ∧ e.colCount % 32 ≠ 0 ∧ e.colStart + e.colCount ≠ o.d0) then stop b Ev.SPARSE_SHAPE
    else
      let cols := t.cut e.colStart e.colCount
      let rows := if e.empty ∨ cols.2 = 0 then [] else List.range e.rowCount
      if x.rowsPending ((List.range e.rowCount).map (fun i => m0 + i)) then b
      else
        let q := b.rowsOpen c t o (rows.map (fun i => e.rowStart + i)) cols.1 cols.2 e.pageInOk accum
        match q.1 with
        | .wait => q.2
        | .fault code => stop q.2 code
        | .ok =>
          let z := q.2.eachReady rows (fun y i =>
            let core := y.core c.val
            let vals := (List.range cols.2).map (fun j => tensorScaled a w (core.mergeVal (m0 + i) (cols.1 - e.colStart + j)))
            (y.drnOvf c 1 (vals.map (fun v => v.2)).sum).putRow c t o (e.rowStart + i) cols.1 accum (vals.map (fun v => v.1)) e.pageInOk)
          let core := z.2.core c.val
          let y := z.2.setCore c.val { core with merge := Sparse.clear (fun k =>
            decide (m0 ≤ k / 512 ∧ k / 512 < m0 + e.rowCount ∧ k % 512 < e.colCount)) core.merge }
          y.drlFinish c t z.1 0 true false cycles 0)

/-- SPMM_FLUSH (R184, R186). -/
def execSpmmFlush (c : Fin 128) (cycles : Nat) (errs : Errs) (s : State) : Host.Outcome State Fault Refusal :=
  s.onBlock (spmmFlush c cycles errs)

/-! ## Fallback passes -/

/-- First address of a core's scratch window (R223). -/
def windowBase (c : Fin 128) : Nat := (coreTile c).val * 2 ^ 33 + 0x1C0000000 + (coreSlot c).val * 2 ^ 26

/-- Bytes of a dense row of `n` elements in the scratch window: whole channel vectors.
DESIGN CHOICE (notes/assumptions/55.md). -/
def denseRowBytes (fmt n : Nat) : Nat := vecBytes fmt * ceilDiv n 32

/-- Write the active rows of a compacted run as dense rows into the scratch window, one after the other from its start (R189).
DESIGN CHOICE (notes/assumptions/55.md). -/
def Block.writeDense (b : Block) (c : Fin 128) (fmt k : Nat) (rows : List (List Num)) : Block :=
  rows.zipIdx.foldl (fun y p =>
    let codes := (List.range (32 * ceilDiv k 32)).map (fun i =>
      if i < k then (toFormat fmt .nearest false (p.1.getD i Num.zero)).code else 0)
    y.store (windowBase c + denseRowBytes fmt k * p.2) ((List.range (ceilDiv k 32)).flatMap (fun v =>
      vecBytesOf fmt ((codes.drop (32 * v)).take 32)))) b

/-- The drained row `i` of a pass in the window: FP32, after the dense rows. DESIGN CHOICE (notes/assumptions/55.md). -/
def Block.writeDrained (b : Block) (c : Fin 128) (start i : Nat) (vals : List Num) : Block :=
  b.store (windowBase c + start + 512 * i) (vals.flatMap (fun v => toBytes 4 (f32 v).1.toNat))

/-- One row of a pass through a tile of the slab on the transposed axis, into a bank row (R110, R189). -/
def Block.passRow (b : Block) (c : Fin 128) (mode : Nat) (w : WTile) (per row : Nat) (off : Bool) (x : List Num) : Block :=
  let sums := (List.range 128).map (fun o => chain mode (w.cells per true x o))
  let b := b.land c mode true false row 0 (sums.map (fun s => s.val))
  let b := (b.drnOvf c 0 (sums.map (fun s => s.sat)).sum).drnVanish c 0 (sums.map (fun s => s.vanish)).sum
  let b := b.drnOvf c 1 (sums.filter (fun s => s.ovf)).length
  if off then b else b.addGated c (w.gated per true x)

/-- Drain a bank row of a pass in FP32. -/
def CoreSt.drained (x : CoreSt) (mode row n : Nat) : List Num :=
  ((x.bankRow row).take n).map (fun w => if mode = 9 then rnd32 (Num.ofInt (signed 32 w.toNat)) else val32 w)

/-- One tile of a pass: its rows land in the bank rows of the record's window and are drained into the scratch window and the merge rows
(R189). The first `n` rows land; a whole tile is drained. -/
def Block.passTile (b : Block) (c : Fin 128) (mode per base start : Nat) (off : Bool) (f : Fallback) (w : WTile) (j n : Nat) : Block :=
  let b := (f.rows.take n).zipIdx.foldl (fun y p => y.passRow c mode w per (base + p.2) off p.1.2) b
  if n < f.rows.length then b
  else f.rows.zipIdx.foldl (fun y p =>
    let v := (y.core c.val).drained mode (base + p.2) w.dense
    let y := (y.count (.drn c) Reg.DRN_ROWS_OUT 1).writeDrained c start (f.rows.length * j + p.2) v
    let x := y.core c.val
    let sums := v.zipIdx.map (fun q => (f32 ((x.mergeVal p.1.1 (128 * j + q.2)).add q.1)).1)
    y.setCore c.val { x with merge := Sparse.putList (fun _ => 0) x.merge (512 * p.1.1 + 128 * j) sums }) b

/-- The block of DESC_B that a slab holds. -/
def Slab.entry (s : Slab) : Entry32 := { rowEntry s.rowStart s.colStart s.cols with rowCount := s.rows }

/-- A fallback pass on the core's array (R189): at a task boundary, once compaction holds the scratch window and no DRAIN of an array task
still has to read its bank rows. Each 128-column tile of the slab is loaded from DESC_B and every row streamed through it on the transposed axis. `errs` is 0, or 2 i + 1
where a weight register fails its parity under row i of the pass, tile by tile, or 2 r + 2 where bank row r holds an uncorrectable word;
the rows before it have landed. -/
def fallbackPass (c : Fin 128) (cycles eccCorr errs : Nat) (words : Errs) (b : Block) : Block :=
  match (b.core c.val).fallbacks with
  | [] => b
  | f :: rest =>
    match b.bySerial (.core c) f.serial with
    | none => b
    | some t => b.asTask t (fun b =>
      let b := b.found words
      let r := t.task
      let a := b.desc r.descA.toNat
      let wd := b.desc r.descB.toNat
      let gear := (compactGear a wd).getD 0
      let mode := (accMode gear a wd).getD 1
      let base := r.par 4 2
      if wfield (b.rd (.drl c) Reg.DRL_SCRATCH) 1 0 ≠ 1 ∨ !b.arrayFree c ∨ b.drainsBefore c t base f.rows.length then b
      else match b.source wd f.slab.entry with
      | none => b.coreFault c t Ev.SHARD_ABSENT
      | some s =>
        let q := b.sourcesReady c t [(s, s.ranges)] wd.allowNewer f.slab.pageIn
        match q.1 with
        | .wait => q.2
        | .fault code => q.2.coreFault c t code
        | .ok =>
          let k := (q.2.stopFiller c).portSource c t s s.portBytes s.ranges
          let y := k.2.portIn c (f.rows.length * ceilDiv f.slab.cols 128 * ceilDiv (elemBits a.format * f.slab.rows) 8)
          let y := y.dropPrologue c
          let y := y.setCore c.val { y.core c.val with active := none, retained := none }
          let spent := fun (y : Block) => (y.chargeTaken c cycles).mapTask (.core c) f.serial (fun u =>
            { u with cycles := u.cycles + cycles, busy := u.busy + cycles })
          match k.1.2.head? with
          | some p => (spent y).coreFault c t (poisonCode p)
          | none =>
            let tiles := (List.range (ceilDiv f.slab.cols 128)).filterMap (fun j =>
              makeTile gear s.d { s.e with colStart := s.e.colStart + 128 * j, colCount := min 128 (f.slab.cols - 128 * j) } f.slab.entry
                (0, 0, []) k.1.1 k.1.1 s.d)
            let n := f.rows.length
            let off := wbit (y.rd (.darr c) Reg.DARR_GATE) 0
            let start := roundUp (denseRowBytes a.format f.slab.rows * n) 64
            let y := (y.writeDense c a.format f.slab.rows (f.rows.map (fun p => p.2))).drnCount c Reg.DRN_ECC_CORR eccCorr 0
            let run := fun (rows : Nat) => tiles.zipIdx.foldl (fun y p =>
              if rows ≤ n * p.2 then y else y.passTile c mode (gearPer gear) base start off f p.1 p.2 (min n (rows - n * p.2))) y
            if errs % 2 = 1 ∧ errs / 2 < n * tiles.length then (spent (run (errs / 2))).arrayParity c t
            else if errs ≠ 0 ∧ errs % 2 = 0 ∧ base ≤ errs / 2 - 1 ∧ errs / 2 - 1 < base + n then
              ((spent (run (errs / 2 - 1 - base))).clearBankRow c (errs / 2 - 1)).coreFault c t Ev.ACC_ECC
            else
              let y := spent (run (n * tiles.length))
              let y := y.setCore c.val { y.core c.val with fallbacks := (y.core c.val).fallbacks.drop 1 }
              let y := if rest.isEmpty then y.releaseScratch c else y
              (y.showFallback c).showTiles c false)

/-- FALLBACK_PASS (R189). -/
def execFallbackPass (c : Fin 128) (cycles eccCorr errs : Nat) (words : Errs) (s : State) : Host.Outcome State Fault Refusal :=
  s.onBlock (fallbackPass c cycles eccCorr errs words)

/-- Filler gives up the scratch window that compaction asked for (R190): it passes to compaction while a pass waits. -/
def scratchYield (c : Fin 128) (b : Block) : Block :=
  let w := b.rd (.drl c) Reg.DRL_SCRATCH
  if wfield w 1 0 = 2 ∧ wbit w 8 then
    let b := b.wr (.drl c) Reg.DRL_SCRATCH (wset (wsetBit w 8 false) 1 0 (if (b.core c.val).fallbacks.isEmpty then 0 else 1))
    { b with pwr := { b.pwr with filler := Sparse.put (fun _ => 0) b.pwr.filler c.val 2 } }.placed c
  else b

/-- SCRATCH_YIELD (R190). -/
def execScratchYield (c : Fin 128) (s : State) : Host.Outcome State Fault Refusal := s.onBlock (scratchYield c)

/-! ## Products over predicted rows -/

/-- What SELECT finds for one pair: the value written, and whether it was active, skipped, sampled, recomputed, missed. -/
structure Pair where
  val : Num
  ovf : Nat
  item : Bool
  skipped : Bool
  sampled : Bool
  makeup : Bool
  miss : Bool
  deriving DecidableEq, Repr

/-- Does a magnitude exceed TOL? -/
def exceeds (tol v : Num) : Bool := v.isNan || tol.lt v.abs

/-- A row converted to MXFP4 (R161), as the values it then holds. -/
def mxfp4Row (l : List Num) : List Num :=
  (pieces 32 0 l.length).flatMap (fun p =>
    let blk := (l.drop p.1).take p.2
    let e := mxScale 7 blk
    ((convBlock 7 e (blk.map (fun v => (v, Rounding.nearest))) false).codes).map (fun k => ofMx 7 k e))

/-- f(z) of two rows, with the TENSOR scales of their tensors. -/
def selectVal (a w : Desc) (func : Nat) (x y : List Num) : Counting :=
  let s := tensorScaled a w (laneSum (x.zip y))
  let f := applyFn func 0 Num.zero s.1 s.2
  f

/-- One pair under a predictor mode (R191, R192); `j` numbers the skipped pairs of the task. -/
def selectPair (a w : Desc) (func mode phase : Nat) (tol : Num) (active : Bool) (j : Nat) (x y : List Num) : Pair :=
  let none_ : Pair := { val := Num.zero, ovf := 0, item := false, skipped := true, sampled := false, makeup := false, miss := false }
  if active then
    let f := selectVal a w func x y
    { none_ with val := f.1, ovf := f.2, item := true, skipped := false }
  else if mode = 1 ∧ j % 64 = phase then
    { none_ with item := true, sampled := true, miss := exceeds tol (selectVal a w func x y).1 }
  else if mode = 2 then
    if exceeds tol (selectVal a w func (mxfp4Row x) (mxfp4Row y)).1 then
      let f := selectVal a w func x y
      { none_ with val := f.1, ovf := f.2, item := true, makeup := true, miss := exceeds tol f.1 }
    else none_
  else none_

/-- Does a pair read its rows under a predictor mode? -/
def pairReads (mode phase : Nat) (active : Bool) (j : Nat) : Bool := active || (mode == 1 && j % 64 == phase) || mode == 2

/-- Work items of a SELECT block. -/
def selectItems (ps : List (List Pair)) : Nat := ((ps.flatMap (fun l => l)).filter (fun p => p.item)).length

/-- The rows of a SELECT entry that a share has work in, and its columns (R48). -/
def TaskSt.selectSpan (t : TaskSt) (e : Entry32) : List Nat × Nat × Nat :=
  let cols := t.cut e.colStart e.colCount
  (if e.empty ∨ cols.2 = 0 then [] else (List.range e.rowCount).map (fun i => e.rowStart + i), cols)

/-- The mask bytes of columns of a row. -/
def maskWant (desc : Nat) (mk : Desc) (row c0 n : Nat) : RowWant := (desc, mk, row, c0 / 8, ceilDiv (c0 + n) 8 - c0 / 8)

/-- Mask bits of columns of a row (R174). -/
def maskBits (d : RowData) (c0 n : Nat) : List Bool :=
  let l := d.codes
  (List.range n).map (fun j => bit (l.getD ((c0 + j) / 8 - c0 / 8) 0) ((c0 + j) % 8))

/-- The entries of a SELECT task. -/
def Block.taskEntries (b : Block) (t : TaskSt) : List Entry32 :=
  (List.range t.task.listCount.toNat).map (fun i => b.entryAt t (0, i))

/-- Skipped pairs of the task before a pair: those of earlier tokens, and of the same token those of earlier neurons (R192).
DEDUCED (notes/assumptions/29.md). -/
def Block.skippedBefore (b : Block) (t : TaskSt) (mk : Desc) (tok n : Nat) : Nat :=
  ((b.taskEntries t).map (fun e =>
    let s := t.selectSpan e
    (s.1.map (fun r =>
      if tok < r then 0
      else
        let bits := maskBits (b.peekRow t (maskWant t.task.descD.toNat mk r s.2.1 s.2.2)) s.2.1 s.2.2
        (bits.zipIdx.filter (fun p => !p.1 && (decide (r < tok) || decide (s.2.1 + p.2 < n)))).length)).sum)).sum

/-- The mask rows that a SELECT entry needs: its own, and under SAMPLE those of the whole task, which number its skipped pairs. -/
def Block.maskWants (b : Block) (t : TaskSt) (mk : Desc) (e : Entry32) (all : Bool) : List RowWant :=
  (if all then b.taskEntries t else [e]).flatMap (fun e =>
    let s := t.selectSpan e
    s.1.map (fun r => maskWant t.task.descD.toNat mk r s.2.1 s.2.2))

/-- Whether each pair of a SELECT entry is active, with its number among the skipped pairs and whether it reads its rows. -/
def Block.selectPlan (b : Block) (c : Fin 128) (t : TaskSt) (mk : Desc) (e : Entry32) : List (Nat × List (Nat × Bool × Nat × Bool)) :=
  let x := b.core c.val
  let s := t.selectSpan e
  s.1.map (fun r => (r, (maskBits (b.peekRow t (maskWant t.task.descD.toNat mk r s.2.1 s.2.2)) s.2.1 s.2.2).zipIdx.map (fun p =>
    let n := s.2.1 + p.2
    let j := if x.predMode = 1 then b.skippedBefore t mk r n else 0
    (n, p.1, j, pairReads x.predMode x.predPhase p.1 j))))

/-- Everything that a SELECT entry reads: its masks, then the rows that its pairs read (R191). -/
def Block.selectReady (b : Block) (c : Fin 128) (t : TaskSt) (e : Entry32) : Ready × Block :=
  let r := t.task
  let a := b.desc r.descA.toNat
  let w := b.desc r.descB.toNat
  let mk := b.desc r.descD.toNat
  let q := b.rowsReady c t false (b.maskWants t mk e (decide ((b.core c.val).predMode = 1))) e.pageInOk
  match q.1 with
  | .ok =>
    let plan := (q.2.selectPlan c t mk e).filter (fun p => p.2.any (fun k => k.2.2.2))
    let q := q.2.rowsReady c t false (plan.map (fun p => ((r.descA.toNat, a, p.1, 0, a.d0) : RowWant))) e.pageInOk
    match q.1 with
    | .ok => q.2.rowsReady c t true (plan.flatMap (fun p => (p.2.filter (fun k => k.2.2.2)).map (fun k =>
        ((r.descB.toNat, w, k.1, 0, w.d0) : RowWant)))) e.pageInOk
    | _ => q
  | _ => q

/-- One row of a SELECT block: mask and activations read once, a row of weights for each pair that reads, through the coalescer. -/
def Block.selectRow (b : Block) (c : Fin 128) (t : TaskSt) (plan : Nat × List (Nat × Bool × Nat × Bool)) :
    (List Pair × List RowData) × Block :=
  let r := t.task
  let a := b.desc r.descA.toNat
  let w := b.desc r.descB.toNat
  let mk := b.desc r.descD.toNat
  let x := b.core c.val
  let tol := ofFormat 1 (r.par 8 4)
  let m := b.readRow c t false (maskWant r.descD.toNat mk plan.1 ((plan.2.head?.map (fun k => k.1)).getD 0) plan.2.length)
  let av := if plan.2.any (fun k => k.2.2.2) then m.2.readRow c t false (r.descA.toNat, a, plan.1, 0, a.d0)
    else ({ parts := [], bad := [] }, m.2)
  let xs := av.1.values false
  plan.2.foldl (fun (st : (List Pair × List RowData) × Block) k =>
    let wv := if k.2.2.2 then st.2.readRow c t true (r.descB.toNat, w, k.1, 0, w.d0) else ({ parts := [], bad := [] }, st.2)
    ((st.1.1 ++ [selectPair a w (r.par 2 1) x.predMode x.predPhase tol k.2.1 k.2.2.1 xs (wv.1.values false)], wv.1 :: st.1.2), wv.2))
    (([], [av.1, m.1]), av.2)

/-- The pairs of a SELECT block, what has been read, and the reads. -/
def Block.selectBlock (b : Block) (c : Fin 128) (t : TaskSt) (e : Entry32) : (List (List Pair) × List RowData) × Block :=
  (b.selectPlan c t (b.desc t.task.descD.toNat) e).foldl (fun (st : (List (List Pair) × List RowData) × Block) p =>
    let z := st.2.selectRow c t p
    ((st.1.1 ++ [z.1.1], st.1.2 ++ z.1.2), z.2)) (([], []), b)

/-- What the pairs of a SELECT block count (R191, R192). -/
def Block.selectCount (b : Block) (c : Fin 128) (ps : List (List Pair)) : Block :=
  let flat := ps.flatMap (fun l => l)
  let num := fun (f : Pair → Bool) => (flat.filter f).length
  let y := (b.count (.drl c) Reg.DRL_PRED_SKIPPED (num (fun p => p.skipped))).count (.drl c) Reg.DRL_PRED_SAMPLED
    (num (fun p => p.sampled))
  let y := (y.count (.drl c) Reg.DRL_PRED_MISS (num (fun p => p.miss))).count (.drl c) Reg.DRL_PRED_MAKEUP
    (num (fun p => p.makeup))
  y.drnOvf c 1 (flat.map (fun p => p.ovf)).sum

/-- The limits of a SELECT entry (R176, R191). -/
def selectOk (e : Entry32) (a w o : Desc) : Bool :=
  drlClean e && e.src == 2 && e.kind.all (fun z => z == 0) && decide (e.rowCount ≤ 256) && decide (e.colCount ≤ 512) &&
    decide (e.rowStart + e.rowCount ≤ a.rows) && decide (e.colStart + e.colCount ≤ w.rows) &&
    (!o.mx || e.colCount % 32 == 0 || e.colStart + e.colCount == o.d0)

/-- A SELECT entry that the derailleur has reached: its block is built whole and written only when every check has ended. -/
def select (c : Fin 128) (cycles lanes : Nat) (errs : Errs) : Block → Block := Block.engine c 1 errs (fun b =>
  match b.drlTask c 2 5 with
  | none => b
  | some t =>
    let r := t.task
    let e := b.entryAt t t.pos
    let o := b.desc r.descC.toNat
    let stop := fun (y : Block) (code : Nat) => y.drlFault c t code cycles lanes
    if !selectOk e (b.desc r.descA.toNat) (b.desc r.descB.toNat) o then stop b Ev.SPARSE_SHAPE
    else
      let span := t.selectSpan e
      let q := b.selectReady c t e
      let q := match q.1 with
        | .ok => q.2.rowsOpen c t o span.1 span.2.1 span.2.2 e.pageInOk false
        | _ => q
      match q.1 with
      | .wait => q.2
      | .fault code => stop q.2 code
      | .ok =>
        let z := q.2.selectBlock c t e
        let items := selectItems z.1.1
        match poisonStop z.1.2 with
        | some code => stop z.2 code
        | none =>
          if t.room < items then q.2.drlDone c t t.room false cycles lanes
          else
            let w := (z.2.selectCount c z.1.1).eachReady (span.1.zip z.1.1) (fun y p =>
              y.putRow c t o p.1 span.2.1 false (p.2.map (fun k => k.val)) e.pageInOk)
            w.2.drlFinish c t w.1 items true false cycles lanes)

/-- SELECT (R191, R192). -/
def execSelect (c : Fin 128) (cycles lanes : Nat) (errs : Errs) (s : State) : Host.Outcome State Fault Refusal :=
  s.onBlock (select c cycles lanes errs)

/-- Is another work item of a SPARSE task due at its entry (R174)? -/
def Block.itemDue (b : Block) (c : Fin 128) (t : TaskSt) : Bool :=
  let e := b.entryAt t t.pos
  if e.empty then false
  else if t.task.par 0 1 = 5 then (b.selectReady c t e).1 == .ok && decide (0 < selectItems (b.selectBlock c t e).1.1)
  else e.src == 3

/-- A SPARSE task that has counted CAPACITY work items and has another due faults (R174). -/
def sparseCapacity (c : Fin 128) : Block → Block := Block.engine c 1 .none (fun b =>
  match b.portTask c 1 with
  | none => b
  | some t => if t.task.kind = 2 ∧ !t.listDone ∧ t.room = 0 ∧ b.itemDue c t then b.coreFault c t Ev.SPARSE_CAPACITY else b)

/-- SPARSE_CAPACITY (R174). -/
def execSparseCapacity (c : Fin 128) (s : State) : Host.Outcome State Fault Refusal := s.onBlock (sparseCapacity c)

/-- Clear the counters of a DRL page. -/
def drlCntClr (o : Origin) (c : Fin 128) (v : Word) (b : Block) : Block :=
  b.gate o (.drl c) Reg.DRL_CNT_CLR .none (fun x => x.clearOn v (.drl c)
    [Reg.DRL_BUSY, Reg.DRL_LANE_BUSY, Reg.DRL_ITEMS, Reg.DRL_COALESCED, Reg.DRL_OOR, Reg.DRL_SPLITS, Reg.DRL_FALLBACK,
     Reg.DRL_YIELDS, Reg.DRL_PRED_SKIPPED, Reg.DRL_PRED_SAMPLED, Reg.DRL_PRED_MISS, Reg.DRL_PRED_MAKEUP])

/-- DRL_CNT_CLR (R195). -/
def execDrlCntClr (o : Origin) (c : Fin 128) (v : Word) (s : State) : Host.Outcome State Fault Refusal :=
  s.onWrite o (drlCntClr o c v)

/-- A write of DRL_PRED: a MODE of 3 is ignored (R193). -/
def drlPredWrite (o : Origin) (c : Fin 128) (v : Word) (b : Block) : Block :=
  b.gate o (.drl c) Reg.DRL_PRED .change (fun x => if wfield v 1 0 = 3 then x else x.writeFields (.drl c) Reg.DRL_PRED v)

/-- DRL_PRED_WRITE (R193). -/
def execDrlPredWrite (o : Origin) (c : Fin 128) (v : Word) (s : State) : Host.Outcome State Fault Refusal :=
  s.onWrite o (drlPredWrite o c v)

end Sys2Proof.Machine
end

