-- ==== Sys2Proof/Machine/Copy.lean ====
section
/-! DEFINITION. COPY tasks on the copy path (R244 to R250), the in-place transpose and the links of a CHAIN
(R251 to R253). -/

namespace Sys2Proof.Machine

open Sys2Proof

/-! ## Dispatch -/

/-- Destination coordinates of source coordinates (R245). -/
def mapCoords (mode perm : Nat) (x : List Nat) : List Nat :=
  match mode with
  | 0 => x
  | 1 => [x.getD 1 0, x.getD 0 0, x.getD 2 0, x.getD 3 0]
  | _ => (List.range 4).map (fun k => x.getD (permOf perm k) 0)

/-- MODE of a COPY record. -/
def TaskRec.copyMode (r : TaskRec) : Nat := r.par 0 1

/-- PERM of a COPY record. -/
def TaskRec.perm (r : TaskRec) : Nat := r.par 1 1

/-- Does the copy keep dimension 0 in place? -/
def TaskRec.keepsDim0 (r : TaskRec) : Bool := r.copyMode == 0 || (r.copyMode == 2 && permOf r.perm 0 == 0)

/-- Is the task an in-place transpose (R249)? -/
def Block.isInPlace (b : Block) (r : TaskRec) : Bool := decide (r.descA = r.descC) && (b.desc r.descA.toNat).inPlace

/-- What stops a COPY record with COPY_SHAPE before its bindings are compared (R245). DEDUCED (notes/assumptions/38.md). -/
def Block.copyShape (b : Block) (r : TaskRec) : Option Nat :=
  let s := b.desc r.descA.toNat
  let o := b.desc r.descC.toNat
  let bad := decide (r.descA = 0) || decide (r.descC = 0) || mapCoords r.copyMode r.perm s.extents != o.extents ||
    o.isGlobal || o.readOnly ||
    (List.range r.listCount.toNat).any (fun i => let e := b.entry r.list.toNat i; e.src != 0 || !e.copyFlag)
  if r.listCount ≠ 0 ∧ bad then some Ev.COPY_SHAPE else none

/-- What stops a COPY record whose bindings agree: an in-place tensor under another MODE than TRANSPOSE (R249).
DEDUCED (notes/assumptions/38.md). -/
def Block.copyDispatch (b : Block) (r : TaskRec) : Option Nat :=
  if r.listCount ≠ 0 ∧ b.isInPlace r ∧ r.copyMode ≠ 1 then some Ev.COPY_SHAPE else none

/-! ## One entry -/

/-- An element on its way: destination row and column, code and value, the generators' number it rounds with, and whether its
source word or its scale is poisoned. -/
structure Moved where
  row : Nat
  col : Nat
  code : Nat
  val : Num
  byte : Nat
  bad : Bool
  badScale : Bool

/-- The bytes that hold an element: its own for formats of 8 bits or wider, its channel vector for the narrow ones. -/
def Desc.cell (d : Desc) (r c : Nat) : Nat × Nat :=
  if elemBits d.format < 8 then (d.vecAddr r (c / 32), d.vb)
  else if d.layout = 0 then (d.vecAddr r (c / 32) + c % 32 * d.eb, d.eb)
  else (d.elemAddr r c, d.eb)

/-- Do bytes touch a poisoned word of a list? -/
def touches (bad : List Nat) (g : Nat × Nat) : Bool :=
  bad.any (fun a => decide (g.1 / 8 ≤ a / 8) && decide (a / 8 ≤ (g.1 + g.2 - 1) / 8))

/-- The elements of a block, in list order. `e0` and `d0` are the entry and the descriptor as the task names them, `k` the block taken. -/
def movedElems (r : TaskRec) (d0 : Desc) (e0 : Entry32) (o : Desc) (k : Took) : List Moved :=
  (List.range e0.rowCount).flatMap (fun i =>
    let codes := k.d.codes k.rd (k.e.rowStart + i) k.e.colStart e0.colCount
    let vals := k.d.values k.rd (k.e.rowStart + i) k.e.colStart e0.colCount
    (List.range e0.colCount).map (fun j =>
      let y := mapCoords r.copyMode r.perm (d0.coords (e0.rowStart + i) (e0.colStart + j))
      let sc := k.e.colStart + j
      { row := y.getD 1 0 + o.d1 * (y.getD 2 0 + o.d2 * y.getD 3 0), col := y.getD 0 0, code := codes.getD j 0,
        val := vals.getD j Num.zero, byte := 0,
        bad := !k.poisoned.isEmpty && touches k.poisoned (k.d.cell (k.e.rowStart + i) sc),
        badScale := !k.poisoned.isEmpty && k.d.mx && touches k.poisoned (k.d.scaleAddr (k.e.rowStart + i) (sc / 32), 1) }))

/-- Does a share write a destination column (R48)? -/
def TaskSt.covers (t : TaskSt) (c : Nat) : Bool := decide ((t.cut c 1).2 = 1)

/-- Put an element in its place by column. -/
def movedInsert (x : Moved) : List Moved → List Moved
  | [] => [x]
  | y :: l => if x.col < y.col then x :: y :: l else y :: movedInsert x l

/-- Split a row's elements, ordered by column, where a column is missing. -/
def movedRuns (l : List Moved) : List (List Moved) :=
  l.foldr (fun x rs => match rs with
    | (y :: ys) :: rest => if x.col + 1 = y.col then (x :: y :: ys) :: rest else [x] :: (y :: ys) :: rest
    | _ => [x] :: rs) []

/-- The elements of a destination row, with the other elements of each MX block that is only partly written as they stand (R161
takes the scale from the block). -/
def fillBlocks (o : Desc) (rd : Reader) (row : Nat) (l : List Moved) : List Moved :=
  if !o.mx then l
  else
    let blocks := (l.map (fun x => x.col / 32)).eraseDups
    let missing := (blocks.flatMap (fun v => (List.range 32).map (fun i => 32 * v + i))).filter (fun c =>
      decide (c < o.d0) && !l.any (fun x => x.col == c))
    missing.foldl (fun a c => movedInsert { row := row, col := c, code := 0, val := (o.values rd row c 1).getD 0 Num.zero,
                                            byte := 0, bad := false, badScale := false } a) l

/-- The writes of one run of a destination row, with its counts. -/
def runWrites (o : Desc) (rd : Reader) (row : Nat) (bits sr ovfInf : Bool) (l : List Moved) : Conv × List (Nat × List Byte) :=
  let c := (l.map (fun x => x.col)).headD 0
  let cv := o.convert c (l.map (fun x => (x.val, if sr then Rounding.stochastic x.byte else .nearest))) ovfInf
  if bits then (Conv.empty, o.putCodes rd row c (l.map (fun x => x.code))) else (cv, o.putConv rd row c cv)

/-- Draw from the drain's generators a number of times. -/
def copyDraws (gens : List (BitVec 128)) (n : Nat) : List (List (BitVec 128)) :=
  (List.range n).foldl (fun l _ => l ++ [drawGens (l.getLastD gens) 32]) []

/-- Give elements their random numbers: one draw for each run of 128 elements that the copy writes, whatever entries they come from;
`m` elements have gone before (R152). DEDUCED (notes/assumptions/38.md). -/
def drawFor (x : CoreSt) (m : Nat) (l : List Moved) : List Moved × CoreSt :=
  let base := ceilDiv m 128
  let draws := copyDraws x.gens (ceilDiv (m + l.length) 128 - base)
  let of := fun (run : Nat) => if run < base then x.copyDraw else draws.getD (run - base) []
  (l.zipIdx.map (fun p => { p.1 with byte := lfsrByte ((of ((m + p.2) / 128)).drop 32) ((m + p.2) % 128) }),
    { x with gens := draws.getLastD x.gens, copyDraw := draws.getLastD x.copyDraw })

/-- Carry the poison of elements to what they were written into: the word that holds the element, and under MX that of its block's scale
byte; with bits copied each from its own, with values converted both from either (R226). DEDUCED (notes/assumptions/28.md). -/
def Block.poisonMoved (b : Block) (t : TaskSt) (o : Desc) (bits : Bool) (l : List Moved) : Block :=
  (l.filter (fun x => x.bad || x.badScale)).foldl (fun x m =>
    let g := o.cell m.row m.col
    let x := if m.bad ∨ !bits then x.poisonRange (x.taskAddr t g.1) g.2 else x
    if o.mx ∧ (m.badScale ∨ !bits) then x.poisonRange (x.taskAddr t (o.scaleAddr m.row (m.col / 32))) 1 else x) b

/-- Move a block that was taken: bits with their scale bytes where format and scale mode agree and dimension 0 stays, values
otherwise (R246). -/
def Block.copyBlock (b : Block) (c : Fin 128) (t : TaskSt) (d0 : Desc) (e0 : Entry32) (k : Took) : Ready × Block :=
  let r := t.task
  let o := b.desc r.descC.toNat
  let rd := b.taskReader t
  let bits := r.keepsDim0 && d0.format == o.format && d0.scaleMode == o.scaleMode
  let sr := !bits && bit (r.par 2 1) 1
  let own := (movedElems r d0 e0 o k).filter (fun m => t.covers m.col)
  let drawn := if sr then drawFor (b.core c.val) t.items own else (own, b.core c.val)
  let all := drawn.1
  let b := (b.setCore c.val drawn.2).mapTask (.core c) t.serial (fun u => { u with items := u.items + all.length })
  let rows := (all.map (fun x => x.row)).eraseDups
  let runs := rows.flatMap (fun row =>
    let own := (all.filter (fun x => x.row == row)).foldl (fun a x => movedInsert x a) []
    (movedRuns (if bits then own else fillBlocks o rd row own)).map (fun l =>
      runWrites o rd row bits sr (bit (r.par 2 1) 0) l))
  let scales := if bits then
      let cols := t.cut e0.colStart e0.colCount
      (List.range e0.rowCount).flatMap (fun i =>
        let y := mapCoords r.copyMode r.perm (d0.coords (e0.rowStart + i) e0.colStart)
        o.putScales (y.getD 1 0 + o.d1 * (y.getD 2 0 + o.d2 * y.getD 3 0)) cols.1
          (k.d.scales k.rd (k.e.rowStart + i) (k.e.colStart + (cols.1 - e0.colStart)) cols.2))
    else []
  let q := (runs.foldl (fun x p => x.countConv c o.format p.1) b).taskWrite t (some (coreTile c))
    (runs.flatMap (fun p => p.2) ++ scales) e0.pageInOk
  match q.1 with
  | .ok => (.ok, q.2.poisonMoved t o bits all)
  | w => (w, q.2)

/-- The destination bytes of a COPY entry that are asked for before it moves: its own where dimension 0 stays, the whole tensor's
otherwise. -/
def Block.copyDst (b : Block) (t : TaskSt) : List (Nat × Nat) :=
  let e := b.entryAt t t.pos
  let d := b.descAt t t.pos e
  let o := b.desc t.task.descC.toNat
  if t.task.keepsDim0 ∧ !e.empty then
    (List.range e.rowCount).flatMap (fun i =>
      let y := mapCoords t.task.copyMode t.task.perm (d.coords (e.rowStart + i) e.colStart)
      o.spanRanges (y.getD 1 0 + o.d1 * (y.getD 2 0 + o.d2 * y.getD 3 0)) e.colStart e.colCount)
  else if e.empty then [] else [(o.base, o.footprint)]

/-- A COPY entry that the copy path has reached: taken, moved, and its cycles counted by `count`. -/
def Block.copyEntry (b : Block) (c : Fin 128) (t : TaskSt) (count : Block → Block) : Block :=
  let e := b.entryAt t t.pos
  let d := b.descAt t t.pos e
  let stop := fun (y : Block) (code : Nat) => (count y).coreFault c t code
  let q := b.demand t (b.copyDst t) e.pageInOk
  match q.1 with
  | .wait => q.2
  | .fault code => stop q.2 code
  | .ok =>
    let k := q.2.take c t 2 true
    match k.1.ready with
    | .wait => k.2
    | .fault code => stop k.2 code
    | .ok =>
      let z := k.2.copyBlock c t d e k.1
      match z.1 with
      | .fault code => stop z.2 code
      | _ => (count z.2).passEntry (.core c) t.serial 0

/-- The COPY task of a core whose entry is due, under a MODE and in place or not. -/
def Block.copyTask (b : Block) (c : Fin 128) (mode : Nat) (inPlace : Bool) : Option TaskSt :=
  (b.portTask c 2).bind (fun t =>
    if t.task.copyMode == mode && !t.listDone && b.isInPlace t.task == inPlace then some t else none)

/-- Count cycles of a COPY task against its budget. -/
def Block.copyCycles (b : Block) (c : Fin 128) (serial cycles : Nat) : Block := b.addCycles (.core c) serial cycles

/-- One entry of a COPY task under a MODE. DEDUCED (notes/assumptions/38.md). -/
def copyPass (mode : Nat) (c : Fin 128) (cycles : Nat) (errs : Errs) : Block → Block := Block.engine c 2 errs (fun b =>
  match b.copyTask c mode false with
  | some t => b.copyEntry c t (fun x => x.copyCycles c t.serial cycles)
  | none => b)

/-- COPY_PLAIN (R245, R246). -/
def execCopyPlain (c : Fin 128) (cycles : Nat) (errs : Errs) (s : State) : Host.Outcome State Fault Refusal :=
  s.onBlock (copyPass 0 c cycles errs)

/-- COPY_TRANSPOSE (R245, R246). -/
def execCopyTranspose (c : Fin 128) (cycles : Nat) (errs : Errs) (s : State) : Host.Outcome State Fault Refusal :=
  s.onBlock (copyPass 1 c cycles errs)

/-- COPY_PERMUTE (R245, R246). -/
def execCopyPermute (c : Fin 128) (cycles : Nat) (errs : Errs) (s : State) : Host.Outcome State Fault Refusal :=
  s.onBlock (copyPass 2 c cycles errs)

/-- An in-place transpose takes the array at a task boundary, STANDBY with it; its cycles are charged busy to the COPY task (R250, R491).
DEDUCED (notes/assumptions/38.md). -/
def inPlaceTranspose (c : Fin 128) (cycles : Nat) (errs : Errs) : Block → Block := Block.engine c 2 errs (fun b =>
  match b.copyTask c 1 true with
  | some t =>
    if b.arrayFree c then
      b.copyEntry c t (fun x => (((x.stopFiller c).dropPrologue c).chargeTaken c cycles).mapTask (.core c) t.serial (fun u =>
        { u with cycles := u.cycles + cycles, busy := u.busy + cycles }))
    else b
  | none => b)

/-- IN_PLACE_TRANSPOSE (R249, R250). -/
def execInPlaceTranspose (c : Fin 128) (cycles : Nat) (errs : Errs) (s : State) : Host.Outcome State Fault Refusal :=
  s.onBlock (inPlaceTranspose c cycles errs)

/-! ## Chains -/

/-- A chain goes on in the link that holds its next entry, links with empty lists passed over: the array takes that link's
gear (R252). -/
def chain_ (c : Fin 128) (b : Block) : Block :=
  match b.portTask c 0 with
  | none => b
  | some t =>
    let p := t.settle 9 t.pos
    if t.links.isEmpty ∨ t.linkCount ≤ p.1 then b
    else (b.mapTask (.core c) t.serial (fun u => u.at_ p)).wrField (.darr c) Reg.STAT 2 0 (t.recAt p.1).gear

/-- CHAIN (R252, R253). -/
def execChain (c : Fin 128) (s : State) : Host.Outcome State Fault Refusal := s.onBlock (chain_ c)

end Sys2Proof.Machine
end

