-- ==== Sys2Proof/Machine/Azn.lean ====
section
/-! DEFINITION. The Aznor update units (R257 to R276): programs, the dispatch of UPDATE tasks into shares, entries, and each
operation of the set on a batch of 128 elements. -/

namespace Sys2Proof.Machine

open Sys2Proof

/-! ## Operation words (R267) -/

/-- OPC. -/
def opcOf (w : Nat) : Nat := field w 31 24
/-- D. -/
def opD (w : Nat) : Nat := field w 23 20
/-- A. -/
def opA (w : Nat) : Nat := field w 19 16
/-- B. -/
def opB (w : Nat) : Nat := field w 15 12
/-- C. -/
def opC (w : Nat) : Nat := field w 11 8
/-- K. -/
def opK (w : Nat) : Nat := field w 7 4
/-- KEEP. -/
def opKeep (w : Nat) : Bool := bit w 0

/-- The fields an operation uses: D, A, B, C, K (R268); none for an undefined OPC. -/
def opUses : Nat → Option (Bool × Bool × Bool × Bool × Bool)
  | 0x01 => some (true, false, false, false, true)
  | 0x02 => some (false, true, false, false, true)
  | 0x03 => some (true, true, true, false, false)
  | 0x04 => some (true, true, true, false, false)
  | 0x05 => some (true, true, true, false, false)
  | 0x06 => some (true, true, true, true, false)
  | 0x07 => some (true, true, true, false, false)
  | 0x08 => some (true, true, false, false, false)
  | 0x09 => some (true, true, false, false, false)
  | 0x0A => some (true, true, true, false, false)
  | 0x0B => some (true, true, true, false, false)
  | 0x0C => some (true, true, false, false, false)
  | 0x0D => some (true, true, false, false, false)
  | 0x0E => some (true, true, false, false, false)
  | 0x0F => some (true, true, false, false, true)
  | 0x10 => some (true, true, false, false, true)
  | 0x11 => some (true, true, false, false, true)
  | 0x12 => some (true, true, true, false, true)
  | 0x13 => some (true, true, true, false, true)
  | 0x14 => some (true, true, false, false, true)
  | 0x15 => some (true, true, false, false, false)
  | 0x16 => some (true, true, false, false, false)
  | 0x17 => some (true, false, false, false, true)
  | _ => none

/-- Does K name a slot: LOAD, STORE and QDQ? -/
def opSlot (w : Nat) : Bool := opcOf w == 1 || opcOf w == 2 || opcOf w == 0x0F

/-- Is an operation of a program refused, given the operations before it (R270)? -/
def opBad (before : List Nat) (w : Nat) : Bool :=
  match opUses (opcOf w) with
  | none => true
  | some (d, a, b, c, k) =>
    let written := fun (r : Nat) => before.any (fun p => opcOf p != 2 && opD p == r)
    let had := fun (code : Nat) => before.any (fun p => opcOf p == code && opK p == opK w)
    decide (8 ≤ opD w) || decide (8 ≤ opA w) || decide (8 ≤ opB w) || decide (8 ≤ opC w) ||
    (!d && opD w != 0) || (!a && opA w != 0) || (!b && opB w != 0) || (!c && opC w != 0) || (!k && opK w != 0) ||
    decide (2 ≤ w % 16) || (opKeep w && !(opcOf w == 2 || opcOf w == 0x0F)) ||
    (a && !written (opA w)) || (b && !written (opB w)) || (c && !written (opC w)) ||
    (opSlot w && decide (6 < opK w)) || (opcOf w == 1 && (had 1 || had 2)) || (opcOf w == 2 && had 2)

/-- The index of the first refused operation of a program. -/
def firstBad (l : List Nat) : Option Nat := (List.range l.length).find? (fun i => opBad (l.take i) (l.getD i 0))

/-! ## Programs (R270, R275) -/

/-- A program slot. -/
def Block.prog (b : Block) (i : Nat) : List Nat := Sparse.get (fun _ => []) b.azn.progs i

/-- Set a program slot of every unit. -/
def Block.setProg (b : Block) (i : Nat) (l : List Nat) : Block :=
  { b with azn := { b.azn with progs := Sparse.put (fun _ => []) b.azn.progs i l } }

/-- Does an admitted UPDATE task name a program slot? -/
def Block.progBusy (b : Block) (i : Nat) : Bool :=
  [UnitId.wholeModule, UnitId.group].any (fun u => (b.unit u).board.any (fun t =>
    decide (t.task.kind = 8) && t.task.par 0x18 1 == i))

/-- PROG_SEL. -/
def Block.progSel (b : Block) : Nat := b.rdN .aznMod Reg.AZN_PROG_SEL % 16

/-- AZN_PROG_CMD 1. -/
def aznProgRead (o : Origin) (b : Block) : Block :=
  b.gate o .aznMod Reg.AZN_PROG_CMD (.command 1) (fun x =>
    let l := x.prog x.progSel
    (List.range 16).foldl (fun y i => y.wrN .aznMod (Reg.AZN_PROG_DATA i) (l.getD i 0))
      (x.wrN .aznMod Reg.AZN_PROG_LEN l.length))

/-- AZN_PROG_READ (R275). -/
def execAznProgRead (o : Origin) (s : State) : Host.Outcome State Fault Refusal := s.onWrite o (aznProgRead o)

/-- The program that the module's registers hold. -/
def Block.progImage (b : Block) : List Nat :=
  (List.range (min 16 (b.rdN .aznMod Reg.AZN_PROG_LEN))).map (fun i => b.rdN .aznMod (Reg.AZN_PROG_DATA i))

/-- The code and the index that refuse the program in the registers, if one does. -/
def Block.progRefused (b : Block) : Option (Nat × Nat) :=
  let n := b.rdN .aznMod Reg.AZN_PROG_LEN
  if n = 0 ∨ 16 < n then some (Ev.AZN_PROG_FIELD, 0)
  else match firstBad b.progImage with
    | some i => some (Ev.AZN_PROG_FIELD, i)
    | none => if b.progBusy b.progSel then some (Ev.AZN_PROG_BUSY, 0) else none

/-- End a refused program command. -/
def Block.progRefuse (b : Block) (r : Nat × Nat) : Block :=
  (b.wrN .aznMod Reg.AZN_PROG_STAT (r.2 * 2 ^ 16 + r.1)).post r.1 .aznMod 0

/-- AZN_PROG_CMD 2. -/
def aznProgWrite (o : Origin) (b : Block) : Block :=
  let r := b.progRefused
  b.gate o .aznMod Reg.AZN_PROG_CMD (if r.isSome then .command 2 else .table b.progSel 1) (fun x => match r with
    | some c => x.progRefuse c
    | none => (x.setProg x.progSel x.progImage).wrN .aznMod Reg.AZN_PROG_STAT 0)

/-- AZN_PROG_WRITE (R270). -/
def execAznProgWrite (o : Origin) (s : State) : Host.Outcome State Fault Refusal := s.onWrite o (aznProgWrite o)

/-- AZN_PROG_CMD 3. -/
def aznProgEmpty (o : Origin) (b : Block) : Block :=
  let busy := b.progBusy b.progSel
  b.gate o .aznMod Reg.AZN_PROG_CMD (if busy then .command 3 else .table b.progSel 1) (fun x =>
    if busy then x.progRefuse (Ev.AZN_PROG_BUSY, 0) else (x.setProg x.progSel []).wrN .aznMod Reg.AZN_PROG_STAT 0)

/-- AZN_PROG_EMPTY (R275). -/
def execAznProgEmpty (o : Origin) (s : State) : Host.Outcome State Fault Refusal := s.onWrite o (aznProgEmpty o)

/-- Reload a unit's generators from its seed (R271). -/
def Block.aznSeed (b : Block) (st : Fin 20) : Block :=
  let seed : DWord := BitVec.ofNat 64 (b.rd64 (.azn st) Reg.AZN_SR_SEED_LO)
  b.setAznUnit st.val { b.aznUnit st.val with gens := (List.range 8).map (lfsrLoad seed) }

/-- A write of the seed's high word. -/
def aznSrSeedHiWrite (o : Origin) (st : Fin 20) (v : Word) (b : Block) : Block :=
  b.gate o (.azn st) Reg.AZN_SR_SEED_HI .change (fun x => (x.writeFields (.azn st) Reg.AZN_SR_SEED_HI v).aznSeed st)

/-- AZN_SR_SEED_HI_WRITE (R271). -/
def execAznSrSeedHiWrite (o : Origin) (st : Fin 20) (v : Word) (s : State) : Host.Outcome State Fault Refusal :=
  s.onWrite o (aznSrSeedHiWrite o st v)

/-- Clear every counter of a unit's page. -/
def aznCntClr (o : Origin) (st : Fin 20) (v : Word) (b : Block) : Block :=
  b.gate o (.azn st) Reg.AZN_CNT_CLR .none (fun x => x.clearOn v (.azn st)
    ([Reg.AZN_BUSY, Reg.AZN_ELEMENTS, Reg.AZN_HBM_BYTES, Reg.AZN_PUSH_BYTES, Reg.AZN_NAN_LOST, Reg.AZN_NONFINITE] ++
      (List.range 7).flatMap (fun k => [Reg.AZN_OVF k, Reg.AZN_VANISH k])))

/-- AZN_CNT_CLR (R274). -/
def execAznCntClr (o : Origin) (st : Fin 20) (v : Word) (s : State) : Host.Outcome State Fault Refusal :=
  s.onWrite o (aznCntClr o st v)

/-! ## Dispatch (R259 to R263) -/

/-- Descriptor address of slot `k` of an UPDATE record (R259). -/
def TaskRec.slotAddr (r : TaskRec) (k : Nat) : Nat :=
  match k with
  | 0 => r.descA.toNat | 1 => r.descB.toNat | 2 => r.descC.toNat | 3 => r.descD.toNat
  | n + 4 => r.par (8 * n) 8

/-- Does a program use a slot, load it, store it? -/
def progNames (l : List Nat) (k : Nat) : Bool := l.any (fun w => opSlot w && opK w == k)
/-- Does a program load a slot? -/
def progLoads (l : List Nat) (k : Nat) : Bool := l.any (fun w => opcOf w == 1 && opK w == k)
/-- Does a program store a slot? -/
def progStores (l : List Nat) (k : Nat) : Bool := l.any (fun w => opcOf w == 2 && opK w == k)

/-- The slots that a program uses. -/
def progSlots (l : List Nat) : List Nat := (List.range 7).filter (progNames l)

/-- The home slot of a program over descriptors (R263). -/
def homeSlot (l : List Nat) (d : Nat → Desc) : Option Nat :=
  match (progSlots l).find? (fun k => progLoads l k && progStores l k) with
  | some k => some k
  | none => (progSlots l).find? (fun k => inHbm (d k).base)

/-- SRC values that a list uses. -/
def Block.listSrcs (b : Block) (r : TaskRec) : List Nat :=
  ((List.range r.listCount.toNat).map (fun i => (b.entry r.list.toNat i).src)).eraseDups

/-- Are the descriptors of a record those its list was checked against (R96, R248)? -/
def Block.bindingOk (b : Block) (r : TaskRec) : Bool :=
  r.listCount == 0 ||
  match b.allocAt r.list.toNat with
  | none => false
  | some v => decide (v.kind = .list) && !v.freed &&
    ((b.listSrcs r) ++ if r.kind = 4 then [2] else []).all (fun k => v.binds.getD k 0 == r.descOf k)

/-- What stops an UPDATE task at dispatch (R96, R261, R379). DESIGN CHOICE (notes/assumptions/56.md). -/
def Block.updateCheck (b : Block) (r : TaskRec) : Option Nat :=
  let p := b.prog (r.par 0x18 1)
  let ks := progSlots p
  let d := fun k => b.desc (r.slotAddr k)
  let ok := (List.range 7).all (fun k => decide (r.slotAddr k ≠ 0) == progNames p k) &&
    ks.all (fun k =>
      let x := d k
      x.layout == 0 && !x.isGlobal && x.format != 9 && x.extents == (d (ks.headD 0)).extents &&
      (!(progLoads p k && progStores p k) || inHbm x.base) && (inHbm x.base || decide (x.base < hbmBase)) &&
      !(progStores p k && x.readOnly)) &&
    ks.any (fun k => inHbm (d k).base)
  if wbit (b.rd .shm Reg.SHM_REC_STAT) 31 && wbit (b.rd .shm Reg.SHM_REC_CTL) 8 then some Ev.STEP_TAINTED
  else if !b.bindingOk r then some Ev.LIST_BINDING
  else if !ok then some Ev.AZN_SHAPE
  else if ks.any (fun k => progStores p k && ks.any (fun j => j != k && (d k).sharesByte (d j))) then some Ev.DESC_OVERLAP
  else if ks.any (fun k => b.kindAt (r.slotAddr k) != some .descriptor || b.stale (d k)) then some Ev.DESC_STALE
  else none

/-- Show a unit's shares in STAT. -/
def Block.showAzn (b : Block) (st : Fin 20) : Block :=
  let u := b.aznUnit st.val
  b.wrN (.azn st) Reg.STAT ((if u.running.isSome then 2 ^ 31 else 0) + u.waiting.length * 256 +
    match u.running with | some s => s.slot | none => 0)

/-- Shares that a unit holds. -/
def AznUnit.held (u : AznUnit) : Nat := u.waiting.length + b2n u.running.isSome

/-- The stack of an entry's block in a slot: that of its first byte (R263). -/
def Block.entryStack (b : Block) (d : Desc) (e : Entry32) : Nat := (b.pte (pageOf (d.vecAddr e.rowStart (e.colStart / 32)))).stack

/-- Divide a running UPDATE task into one share for each unit that receives an entry. -/
def Block.updateShares (b : Block) (r : TaskRec) (serial : Nat) : List (Fin 20 × AznShare) :=
  let slot := r.par 0x18 1
  let p := b.prog slot
  let home := (homeSlot p (fun k => b.desc (r.slotAddr k))).getD 0
  let d := b.desc (r.slotAddr home)
  let entries := (List.range r.listCount.toNat).map (fun i => b.bytes (r.list.toNat + 32 * i) 32)
  let set := r.par 0x19 1
  (List.finRange 20).filterMap (fun st =>
    match entries.filter (fun l => b.entryStack d (Entry32.ofBytes l) == st.val) with
    | [] => none
    | own => some (st, ({
        serial := serial
        prog := p
        slots := (List.range 7).map (fun k => if progNames p k then b.bytes (r.slotAddr k) 64 else [])
        scalars := (List.range 16).map (fun i => b.rd .aznMod (Reg.AZN_SCALAR (16 * set + i)))
        uflags := r.par 0x1A 1
        entries := own
        cycles := 0
        slot := slot
        share := 8
        budget := r.budget.toNat
        report := r.budgetReport
        exceeded := false
        since := 0 } : AznShare)))

/-- The dispatch of a running UPDATE task to the units. -/
def updateDispatch (u : UnitId) (i : Nat) (b : Block) : Block :=
  match b.task? u i with
  | none => b
  | some t =>
    if u ≠ .wholeModule ∨ t.task.kind ≠ 8 ∨ t.phase ≠ .running ∨ t.shareCount ≠ 0 ∨ t.isEmpty then b
    else match b.updateCheck t.task with
      | some code => b.faultTask u t.serial code
      | none =>
        let l := b.updateShares t.task t.serial
        if l.any (fun s => decide (8 ≤ (b.aznUnit s.1.val).held)) then b
        else
          let b := b.mapTask u t.serial (fun x => { x with shareCount := l.length })
          l.foldl (fun y s =>
            let k := y.aznUnit s.1.val
            (y.setAznUnit s.1.val { k with waiting := k.waiting ++ [s.2] }).showAzn s.1) b

/-- UPDATE_DISPATCH (R259 to R263, R379). -/
def execUpdateDispatch (u : UnitId) (i : Nat) (s : State) : Host.Outcome State Fault Refusal := s.onBlock (updateDispatch u i)

/-! ## Shares and entries -/

/-- A unit takes the next waiting share, while its die's clocks run (R260, R276, R403). -/
def updateShare (st : Fin 20) (b : Block) : Block :=
  let u := b.aznUnit st.val
  match u.running, u.waiting with
  | none, s :: rest => if !b.lock (18 + st.val) then b else
    (b.setAznUnit st.val { u with
      running := some { s with share := wfield (b.rd (.azn st) Reg.AZN_CFG) 4 0, since := b.now }, waiting := rest, work := none }).showAzn st
  | _, _ => b

/-- UPDATE_SHARE (R260). -/
def execUpdateShare (st : Fin 20) (s : State) : Host.Outcome State Fault Refusal := s.onBlock (updateShare st)

/-- The module's UPDATE task that a share belongs to. -/
def Block.updateTask (b : Block) (s : AznShare) : TaskSt :=
  (b.bySerial .wholeModule s.serial).getD (TaskSt.mk' s.serial 0 0 (TaskRec.ofBytes []))

/-- Reads of a unit that wait at its controller. -/
def Block.aznReads (b : Block) (st : Fin 20) : Bool :=
  let s := b.stk st.val
  (s.queue ++ s.beyond).any (fun q => decide (q.owner = .azn))

/-- The reads of a unit that wait at its controller are given up. -/
def Block.dropAznReads (b : Block) (st : Fin 20) : Block :=
  if b.aznReads st then
    let s := b.stk st.val
    b.setQueue st.val { s with queue := s.queue.filter (fun q => !decide (q.owner = .azn)),
                               beyond := s.beyond.filter (fun q => !decide (q.owner = .azn)) }
  else b

/-- The running share ends (R49, R264): its result goes to the task, a fault is posted once. -/
def Block.endShare (b : Block) (st : Fin 20) (s : AznShare) (code : Nat) : Block :=
  let u := b.aznUnit st.val
  let b := ((b.setAznUnit st.val { u with running := none, work := none }).showAzn st).dropAznReads st
  let b := if code = 0 ∨ code = Ev.BUDGET_EXCEEDED then b else b.postTask .wholeModule (b.updateTask s) st.val code
  b.shareDone .wholeModule s.serial
    { child := st.val, outcome := if code ≠ 0 then .faulted else if s.exceeded then .overBudget else .done, status := code,
      cycles := s.cycles }

/-- A descriptor that a share holds. -/
def AznShare.desc (s : AznShare) (k : Nat) : Desc := Desc.ofBytes (s.slots.getD k [])

/-- Channel vectors of each row of an entry's block. -/
def Entry32.vecs (e : Entry32) : Nat := if e.colCount = 0 then 0 else ceilDiv (e.colStart + e.colCount) 32 - e.colStart / 32

/-- The share ends when its last entry is done; otherwise the unit goes on. -/
def Block.settleShare (b : Block) (st : Fin 20) : Block :=
  let u := b.aznUnit st.val
  match u.running with
  | some s => if u.work.isNone ∧ s.entries.isEmpty then b.endShare st s 0 else b
  | none => b

/-- Byte ranges of an entry's block in a slot. -/
def AznShare.slotRanges (s : AznShare) (e : Entry32) (k : Nat) : List (Nat × Nat) := (s.desc k).blockRanges e

/-- The checks of an entry (R262, R263): the code that faults the share. DEDUCED (notes/assumptions/50.md). -/
def Block.updateEntryBad (b : Block) (st : Fin 20) (s : AznShare) (e : Entry32) : Option Nat :=
  let ks := progSlots s.prog
  let mxOk := ks.all (fun k => !(s.desc k).mx || e.colCount % 32 == 0 || e.colStart + e.colCount == (s.desc k).d0)
  if e.src ≠ 0 ∨ e.rsv ∨ e.flags / 2 ≠ 0 ∨ e.kind.any (fun x => x != 0) ∨ !mxOk then some Ev.AZN_SHAPE
  else if ks.any (fun k => inHbm (s.desc k).base && (s.slotRanges e k).any (fun g => (pieces (2 ^ 21) g.1 g.2).any (fun p =>
      (b.pte (pageOf p.1)).stack != st.val))) then some Ev.AZN_STACK
  else none

/-- Cycles of a running share; true when they reach a budget that faults (R45, R46). DEDUCED (notes/assumptions/50.md). -/
def Block.shareCycles (b : Block) (st : Fin 20) (s : AznShare) (n : Nat) : AznShare × Bool × Block :=
  let hit := decide (s.budget ≤ s.cycles + n)
  let x : AznShare := { s with cycles := s.cycles + n, exceeded := s.exceeded || hit }
  let b := (b.setAznUnit st.val { b.aznUnit st.val with running := some x }).count (.azn st) Reg.AZN_BUSY n
  let b := if hit ∧ !s.exceeded then b.postTask .wholeModule (b.updateTask s) st.val Ev.BUDGET_EXCEEDED else b
  (x, hit && !s.report, b)

/-- The running share ends in a fault at an entry; the cycles spent count (R45). -/
def Block.shareFault (b : Block) (st : Fin 20) (s : AznShare) (code cycles : Nat) : Block :=
  let c := b.shareCycles st s cycles
  c.2.2.endShare st c.1 (if c.2.1 then Ev.BUDGET_EXCEEDED else code)

/-- A unit takes the next entry of its share. DEDUCED (notes/assumptions/50.md). -/
def updateEntry (st : Fin 20) (cycles : Nat) (b : Block) : Block :=
  let u := b.aznUnit st.val
  match u.running, u.work with
  | some s, none => match s.entries with
    | [] => b
    | l :: rest => if !b.lock (18 + st.val) then b else
      let e := Entry32.ofBytes l
      match b.updateEntryBad st s e with
      | some code => b.shareFault st s code cycles
      | none =>
        let t := b.updateTask s
        let used := (progSlots s.prog).filter (fun k => progLoads s.prog k || progStores s.prog k)
        let q := b.demand t (used.flatMap (s.slotRanges e)) e.pageInOk
        match q.1 with
        | .wait => q.2
        | .fault code => q.2.shareFault st s code cycles
        | .ok =>
          let c := q.2.shareCycles st { s with entries := rest } cycles
          if c.2.1 then c.2.2.endShare st c.1 Ev.BUDGET_EXCEEDED
          else
            let n := e.rowCount * e.vecs
            let w : AznWork := { entry := l, batch := 0, batches := ceilDiv n 4, pc := 0, asked := false, got := [] }
            let b := c.2.2.count (.azn st) Reg.AZN_ELEMENTS (32 * n)
            (b.setAznUnit st.val { b.aznUnit st.val with work := if n = 0 then none else some w }).settleShare st
  | _, _ => b

/-- UPDATE_ENTRY (R258, R262 to R265). -/
def execUpdateEntry (st : Fin 20) (cycles : Nat) (s : State) : Host.Outcome State Fault Refusal := s.onBlock (updateEntry st cycles)

/-! ## Operations on a batch (R268) -/

/-- What a unit works on: its share, its work, the operation due. -/
def Block.aznDue (b : Block) (st : Fin 20) (opc : Nat) : Option (AznShare × AznWork × Nat) :=
  let u := b.aznUnit st.val
  match u.running, u.work with
  | some s, some w => match s.prog[w.pc]? with
    | some op => if opcOf op = opc ∧ b.lock (18 + st.val) then some (s, w, op) else none
    | none => none
  | _, _ => none

/-- A block register. -/
def AznUnit.reg (u : AznUnit) (i : Nat) : BlockReg := u.regs.getD i .zero

/-- Move on: the next operation, the next batch, the next entry, the end of the share. DEDUCED (notes/assumptions/50.md). -/
def Block.aznNext (b : Block) (st : Fin 20) (s : AznShare) (w : AznWork) : Block :=
  let w' : Option AznWork :=
    if w.pc + 1 < s.prog.length then some { w with pc := w.pc + 1, asked := false, got := [] }
    else if w.batch + 1 < w.batches then some { w with pc := 0, batch := w.batch + 1, asked := false, got := [] }
    else none
  (b.setAznUnit st.val { b.aznUnit st.val with work := w' }).settleShare st

/-- Set a block register and move on. -/
def Block.aznSet (b : Block) (st : Fin 20) (s : AznShare) (w : AznWork) (d : Nat) (v : BlockReg) : Block :=
  let u := b.aznUnit st.val
  (b.setAznUnit st.val { u with regs := u.regs.set d v }).aznNext st s w

/-- Row, channel vector, first element and number of elements of block `q` of a batch; none past the entry's last. -/
def AznWork.place (w : AznWork) (q : Nat) : Option (Nat × Nat × Nat × Nat) :=
  let e := Entry32.ofBytes w.entry
  let i := 4 * w.batch + q
  if e.vecs = 0 ∨ e.rowCount * e.vecs ≤ i then none
  else
    let v := e.colStart / 32 + i % e.vecs
    let lo := max e.colStart (32 * v) - 32 * v
    let hi := min (e.colStart + e.colCount) (32 * v + 32) - 32 * v
    some (e.rowStart + i / e.vecs, v, lo, hi - lo)

/-- The blocks of a batch. -/
def AznWork.places (w : AznWork) : List (Option (Nat × Nat × Nat × Nat)) := (List.range 4).map w.place

/-- Bytes that a batch touches in a slot. DEDUCED (notes/assumptions/50.md). -/
def batchRanges (d : Desc) (w : AznWork) : List (Nat × Nat) :=
  w.places.flatMap (fun p => match p with
    | some (r, v, lo, n) => d.spanRanges r (32 * v + lo) n
    | none => [])

/-- The deadline of an entry's requests in MCLK cycles, 256 UCLK cycles being 128 of them; 0 for none (R273, R403). -/
def AznShare.deadline (s : AznShare) (e : Entry32) : Nat := if e.deadline = 0 then 0 else s.since + 128 * e.deadline

/-- Does a write of the unit to some of these bytes still wait at its controller (R265)? -/
def Block.aznWrites (b : Block) (st : Fin 20) (ranges : List (Nat × Nat)) : Bool :=
  let s := b.stk st.val
  (s.queue ++ s.beyond).any (fun q => q.write && q.origin == 18 &&
    ranges.any (fun r => decide (r.1 < q.addr + q.len) && decide (q.addr < r.1 + r.2)))

/-- Bytes that a controller has read for a LOAD, and the module's memory for the others. -/
def AznWork.reader (w : AznWork) (rd : Reader) : Reader :=
  fun a n => if w.got.isEmpty then rd a n
    else (List.range n).map (fun i => match w.got.find? (fun p => decide (p.1 ≤ a + i) && decide (a + i < p.1 + p.2.length)) with
      | some p => p.2.getD (a + i - p.1) 0
      | none => (rd (a + i) 1).headD 0)

/-- The end of a LOAD, whose bytes are there: it consumes them (R226, R291), or sets its register. -/
def Block.aznLoaded (b : Block) (st : Fin 20) (s : AznShare) (w : AznWork) (op : Nat) : Block :=
  let d := s.desc (opK op)
  match b.poisonIn (b.updateTask s) (batchRanges d w) with
  | some a => b.endShare st s (poisonCode a)
  | none =>
    let rd := w.reader b.reader
    let blk := fun (p : Option (Nat × Nat × Nat × Nat)) => match p with
      | some (r, v, lo, n) =>
        List.replicate lo (0 : Word) ++ (d.values rd r (32 * v + lo) n).map (fun x => (f32 x).1) ++ List.replicate (32 - lo - n) 0
      | none => List.replicate 32 0
    let tag := fun (p : Option (Nat × Nat × Nat × Nat)) => match p with
      | some (r, v, _, _) => if d.mx then some (d.scaleByte rd r (32 * v)) else none
      | none => none
    let bytes := ((batchRanges d w).map (fun g => g.2)).sum
    let b := if inHbm d.base then b.count (.azn st) Reg.AZN_HBM_BYTES bytes else b
    b.aznSet st s w (opD op) { vals := w.places.flatMap blk, tags := w.places.map tag }

/-- LOAD of the operation due. A slot in HBM is asked of the stack's controller, after the unit's earlier writes to the same bytes (R265,
R273), and the LOAD ends once the controller has served it; a slot in SRAM is read at once, and `errs` names words of it found in error. -/
def aznLoad (st : Fin 20) (errs : Errs) (b : Block) : Block :=
  match b.aznDue st 0x01 with
  | none => b
  | some (s, w, op) =>
    let d := s.desc (opK op)
    let e := Entry32.ofBytes w.entry
    let ranges := batchRanges d w
    if w.asked then (if b.aznReads st then b else b.aznLoaded st s w op)
    else
      let q := b.demand (b.updateTask s) ranges e.pageInOk
      match q.1 with
      | .wait => q.2
      | .fault code => q.2.endShare st s code
      | .ok =>
        let b := q.2
        if !inHbm d.base then
          (b.foundIn errs (fun a => ranges.any (fun g => decide (g.1 / 8 ≤ a / 8) && decide (a / 8 ≤ (g.1 + g.2 - 1) / 8)))).aznLoaded
            st s w op
        else if b.aznWrites st ranges then b
        else
          let due := s.deadline e
          let b := (b.setAznUnit st.val { b.aznUnit st.val with work := some { w with asked := true } }).lookups (18 + st.val) ranges
          b.queueSlots (b.hbmPieces .azn false (b.prefetchUrgency due) due 18 512 ranges)

/-- LOAD (R264, R265, R268, R273). -/
def execLoad (st : Fin 20) (errs : Errs) (s : State) : Host.Outcome State Fault Refusal := s.onBlock (aznLoad st errs)

/-- Does the share round its stores stochastically? A store into unscaled FP32 rounds nothing. -/
def AznShare.rounds (s : AznShare) (d : Desc) : Bool := bit s.uflags 0 && !(d.format == 1 && d.scaleMode != 1)

/-- Convert `n` elements of block `q` of a register from element `lo` on, for a slot (R269). -/
def convertBlock (s : AznShare) (d : Desc) (keep : Bool) (gens : List (BitVec 128)) (a : BlockReg) (q v lo n : Nat) : Conv :=
  let vals := (List.range n).map (fun i =>
    let j := 32 * q + lo + i
    (val32 (a.vals.getD j 0), if s.rounds d then Rounding.stochastic (lfsrByte gens j) else .nearest))
  match if d.mx && keep then a.tags.getD q none else none with
  | some e => convBlock d.format e vals (bit s.uflags 1)
  | none => d.convert (32 * v + lo) vals (bit s.uflags 1)

/-- What a STORE of a batch converts: row, first element, the conversion, and how many values were not finite. -/
def AznWork.stored (w : AznWork) (s : AznShare) (d : Desc) (keep : Bool) (gens : List (BitVec 128)) (a : BlockReg) :
    List (Nat × Nat × Conv × Nat) :=
  w.places.zipIdx.filterMap (fun p => match p.1 with
    | some (r, v, lo, n) => some (r, 32 * v + lo, convertBlock s d keep gens a p.2 v lo n,
        (((a.vals.drop (32 * p.2 + lo)).take n).filter (fun x => !(val32 x).isFin)).length)
    | none => none)

/-- Write for a share: nothing where a destination is protected, unmapped or away. The writes that lie in HBM wait at the stack's controller
with the urgency of the entry (R273); a push invalidates no operand cache (R272). -/
def Block.aznWrite (b : Block) (st : Fin 20) (s : AznShare) (e : Entry32) (w : List (Nat × List Byte)) : Ready × Block :=
  let t := b.updateTask s
  if w.any (fun x => b.protected_ x.1 x.2.length) then (.fault Ev.DESC_PROTECT, b)
  else
    let r := b.demand t (w.map (fun x => (x.1, x.2.length))) e.pageInOk
    match r.1 with
    | .ok =>
      let due := s.deadline e
      (.ok, w.foldl (fun x p => (x.lookups (18 + st.val) [(p.1, p.2.length)]).storeAs (.writer s.serial) (x.prefetchUrgency due) due 18
        p.1 p.2) r.2)
    | o => (o, r.2)

/-- STORE of the operation due. -/
def aznStore (st : Fin 20) (b : Block) : Block :=
  match b.aznDue st 0x02 with
  | none => b
  | some (s, w, op) =>
    let k := opK op
    let d := s.desc k
    let u := b.aznUnit st.val
    let a := u.reg (opA op)
    let gens := if s.rounds d then u.gens.map (lfsrSteps 128) else u.gens
    let done := w.stored s d (opKeep op) gens a
    let writes := done.flatMap (fun x => d.putConv b.reader x.1 x.2.1 x.2.2.1)
    let q := b.aznWrite st s (Entry32.ofBytes w.entry) writes
    match q.1 with
    | .wait => q.2
    | .fault code => q.2.endShare st s code
    | .ok =>
      let b := q.2
      let b := b.setAznUnit st.val { b.aznUnit st.val with gens := gens }
      let bytes := (writes.map (fun x => x.2.length)).sum
      let b := b.count (.azn st) (if inHbm d.base then Reg.AZN_HBM_BYTES else Reg.AZN_PUSH_BYTES) bytes
      let total := fun (f : Conv → Nat) => (done.map (fun x => f x.2.2.1)).sum
      let note := fun (y : Block) (off n irq : Nat) =>
        if n = 0 then y else (y.count (.azn st) off n).setInt (.azn st) (2 ^ irq)
      let b := note b (Reg.AZN_OVF k) (total (fun c => c.ovf)) 0
      let b := note b (Reg.AZN_VANISH k) (total (fun c => c.vanish)) 1
      let b := note b Reg.AZN_NAN_LOST (total (fun c => c.nanLost)) 2
      (note b Reg.AZN_NONFINITE ((done.map (fun x => x.2.2.2)).sum) 3).aznNext st s w

/-- STORE (R269, R271, R272, R273, R274). -/
def execStore (st : Fin 20) (s : State) : Host.Outcome State Fault Refusal := s.onBlock (aznStore st)

/-- QDQ of the operation due: what a STORE would write, decoded back. The generators do not step (R271). -/
def aznQdq (st : Fin 20) (b : Block) : Block :=
  match b.aznDue st 0x0F with
  | none => b
  | some (s, w, op) =>
    let d := s.desc (opK op)
    let u := b.aznUnit st.val
    let a := u.reg (opA op)
    let cv := w.places.zipIdx.map (fun p => p.1.map (fun x => (x.2.2.1, convertBlock s d (opKeep op) u.gens a p.2 x.2.1 x.2.2.1 x.2.2.2)))
    let vals := cv.flatMap (fun x => match x with
      | some (lo, c) =>
        (List.replicate lo (0 : Word) ++ c.codes.map (fun k => (f32 (d.value k (c.scales.headD 0))).1) ++ List.replicate 32 0).take 32
      | none => List.replicate 32 0)
    let tags := cv.map (fun x => x.bind (fun p => p.2.scales.head?))
    b.aznSet st s w (opD op) { vals := vals, tags := tags }

/-- QDQ (R268, R269). -/
def execQdq (st : Fin 20) (s : State) : Host.Outcome State Fault Refusal := s.onBlock (aznQdq st)

/-- An FP32 word, rounded to nearest even. -/
def word32 (v : Num) : Option Word := some (f32 v).1

/-- The larger or the smaller of two words: NaN when either is; of zeros of both signs the manual does not say which, and the free value's
lowest bit chooses. DESIGN CHOICE (notes/assumptions/16.md). -/
def pickWord (large : Bool) (a b : Word) : Option Word :=
  let x := val32 a
  let y := val32 b
  if x.isNan || y.isNan then word32 .nan
  else if x.isZero && y.isZero && a != b then some (if (Config.zeroPick a b).getLsbD 0 then a else b)
  else if x.lt y == large then some b else some a

/-- The word A limited to ±|C|: NaN where either is (IEEE 754, as R268 has it for NaN). -/
def clampWord (a k : Word) : Option Word :=
  let x := val32 a
  let m := (val32 k).abs
  if x.isNan || m.isNan then word32 .nan else if m.lt x then word32 m else if x.lt m.neg then word32 m.neg else some a

/-- Is a word within one unit in the last place of 1 ÷ √a, for finite positive a (R268)? -/
def rsqrtNear (a : Num) (w : Word) : Bool :=
  let y := val32 w
  let up := val32 (w + 1)
  let ulp := up.add y.neg
  let sq := fun (v : Num) => (v.mul v).mul a
  y.isFin && !y.negative && !y.isZero && up.isFin && !((Num.ofInt 1).lt (sq (y.add ulp.neg))) && !((sq (y.add ulp)).lt (Num.ofInt 1))

/-- 1 ÷ √A: IEEE 754's value where the argument is zero, infinite, negative or NaN, and otherwise one of the words within one unit
in the last place, which one being open. DESIGN CHOICE (notes/assumptions/16.md). -/
def rsqrtWord (a : Word) : Option Word :=
  let x := val32 a
  match x with
  | .fin _ m _ =>
    if m = 0 then word32 (.inf x.negative)
    else if x.negative then word32 .nan
    else
      let near := (f32 ((Num.ofInt 1).div x.sqrt)).1
      [near + 1 - BitVec.ofNat 32 ((Config.rsqrtFn a).toNat % 3), near].find? (rsqrtNear x)
  | .inf n => if n then word32 .nan else some 0
  | .nan => word32 .nan

/-- +1, −1 or 0 by the sign of a word. -/
def signWord (a : Word) : Option Word :=
  let x := val32 a
  if x.isNan then word32 .nan else if x.isZero then some 0 else word32 (Num.ofInt (if x.negative then -1 else 1))

/-- The result of an element-wise operation on words A, B, C and the scalar; none for no such operation. -/
def aznElem (opc : Nat) (a b c k : Word) : Option Word :=
  let x := val32 a
  let y := val32 b
  let s := val32 k
  match opc with
  | 0x03 => word32 (x.add y)
  | 0x04 => word32 (x.add y.neg)
  | 0x05 => word32 (x.mul y)
  | 0x06 => word32 ((x.mul y).add (val32 c))
  | 0x07 => word32 (x.div y)
  | 0x08 => word32 x.sqrt
  | 0x09 => rsqrtWord a
  | 0x0A => pickWord true a b
  | 0x0B => pickWord false a b
  | 0x0C => some (a &&& 0x7FFFFFFF)
  | 0x0D => some (a ^^^ 0x80000000)
  | 0x0E => signWord a
  | 0x10 => word32 (x.add s)
  | 0x11 => word32 (x.mul s)
  | 0x12 => word32 ((x.mul s).add y)
  | 0x13 => word32 (x.add (s.mul (y.add x.neg)))
  | 0x14 => clampWord a k
  | 0x17 => some k
  | _ => none

/-- Words of results, each open one drawn. -/
def Block.drawWords (b : Block) (l : List (Option Word)) : List Word × Block :=
  l.foldl (fun (st : List Word × Block) x => match x with
    | some w => (st.1 ++ [w], st.2)
    | none => let f := st.2.fresh
              (st.1 ++ [BitVec.ofNat 32 f.1], f.2)) ([], b)

/-- An element-wise operation of the operation due: SIGN and SETS leave no scale tag, the others that of A.
DEDUCED (notes/assumptions/50.md). -/
def aznMap (opc : Nat) (st : Fin 20) (b : Block) : Block :=
  match b.aznDue st opc with
  | none => b
  | some (s, w, op) =>
    let u := b.aznUnit st.val
    let a := u.reg (opA op)
    let y := u.reg (opB op)
    let z := u.reg (opC op)
    let k := s.scalars.getD (opK op) 0
    let r := b.drawWords ((List.range 128).map (fun j => aznElem opc (a.vals.getD j 0) (y.vals.getD j 0) (z.vals.getD j 0) k))
    r.2.aznSet st s w (opD op) { vals := r.1, tags := if opc = 0x0E ∨ opc = 0x17 then List.replicate 4 none else a.tags }

/-- ADD (R268). -/
def execAdd (st : Fin 20) (s : State) : Host.Outcome State Fault Refusal := s.onBlock (aznMap 0x03 st)
/-- SUB (R268). -/
def execSub (st : Fin 20) (s : State) : Host.Outcome State Fault Refusal := s.onBlock (aznMap 0x04 st)
/-- MUL (R268). -/
def execMul (st : Fin 20) (s : State) : Host.Outcome State Fault Refusal := s.onBlock (aznMap 0x05 st)
/-- FMA (R268). -/
def execFma (st : Fin 20) (s : State) : Host.Outcome State Fault Refusal := s.onBlock (aznMap 0x06 st)
/-- DIV (R268). -/
def execDiv (st : Fin 20) (s : State) : Host.Outcome State Fault Refusal := s.onBlock (aznMap 0x07 st)
/-- SQRT (R268). -/
def execSqrt (st : Fin 20) (s : State) : Host.Outcome State Fault Refusal := s.onBlock (aznMap 0x08 st)
/-- RSQRT (R268). -/
def execRsqrt (st : Fin 20) (s : State) : Host.Outcome State Fault Refusal := s.onBlock (aznMap 0x09 st)
/-- MAX (R268). -/
def execMax (st : Fin 20) (s : State) : Host.Outcome State Fault Refusal := s.onBlock (aznMap 0x0A st)
/-- MIN (R268). -/
def execMin (st : Fin 20) (s : State) : Host.Outcome State Fault Refusal := s.onBlock (aznMap 0x0B st)
/-- ABS (R268). -/
def execAbs (st : Fin 20) (s : State) : Host.Outcome State Fault Refusal := s.onBlock (aznMap 0x0C st)
/-- NEG (R268). -/
def execNeg (st : Fin 20) (s : State) : Host.Outcome State Fault Refusal := s.onBlock (aznMap 0x0D st)
/-- SIGN (R268). -/
def execSign (st : Fin 20) (s : State) : Host.Outcome State Fault Refusal := s.onBlock (aznMap 0x0E st)
/-- ADDS (R268). -/
def execAdds (st : Fin 20) (s : State) : Host.Outcome State Fault Refusal := s.onBlock (aznMap 0x10 st)
/-- MULS (R268). -/
def execMuls (st : Fin 20) (s : State) : Host.Outcome State Fault Refusal := s.onBlock (aznMap 0x11 st)
/-- FMAS (R268). -/
def execFmas (st : Fin 20) (s : State) : Host.Outcome State Fault Refusal := s.onBlock (aznMap 0x12 st)
/-- LERPS (R268). -/
def execLerps (st : Fin 20) (s : State) : Host.Outcome State Fault Refusal := s.onBlock (aznMap 0x13 st)
/-- CLAMPS (R268). -/
def execClamps (st : Fin 20) (s : State) : Host.Outcome State Fault Refusal := s.onBlock (aznMap 0x14 st)
/-- SETS (R268). -/
def execSets (st : Fin 20) (s : State) : Host.Outcome State Fault Refusal := s.onBlock (aznMap 0x17 st)

/-- BSUM or BAMAX of the operation due: one value for each block of A. The order and the roundings of a sum are open; the
largest magnitude of a block that holds a NaN is NaN (R268). -/
def aznBlock (sum : Bool) (st : Fin 20) (b : Block) : Block :=
  match b.aznDue st (if sum then 0x15 else 0x16) with
  | none => b
  | some (s, w, op) =>
    let a := (b.aznUnit st.val).reg (opA op)
    let r := (List.range 4).foldl (fun (x : List Word × Block) q =>
      let l := ((a.vals.drop (32 * q)).take 32).map val32
      let v : Word × Block :=
        if sum then let z := x.2.openSum l
                    ((f32 z.1).1, z.2)
        else if l.any Num.isNan then ((f32 .nan).1, x.2)
        else ((f32 (l.foldl (fun m y => numMax m y.abs) Num.zero)).1, x.2)
      (x.1 ++ List.replicate 32 v.1, v.2)) ([], b)
    r.2.aznSet st s w (opD op) { vals := r.1, tags := a.tags }

/-- BSUM (R268). -/
def execBsum (st : Fin 20) (s : State) : Host.Outcome State Fault Refusal := s.onBlock (aznBlock true st)
/-- BAMAX (R268). -/
def execBamax (st : Fin 20) (s : State) : Host.Outcome State Fault Refusal := s.onBlock (aznBlock false st)

end Sys2Proof.Machine
end

