-- ==== Sys2Proof/Machine/Expert.lean ====
section
/-! DEFINITION. Expert routing (R197 to R222): the directory, ROUTE and COMBINE tasks, the load tallies. -/

namespace Sys2Proof.Machine

open Sys2Proof

/-! ## The directory -/

/-- A directory entry as a 512-bit number. -/
def Block.expert (b : Block) (i : Nat) : Nat := Sparse.get (fun _ => 0) b.exd.dir i

/-- VALID of an entry (R198). -/
def expValid (e : Nat) : Bool := bit e 15
/-- NREP. -/
def expNrep (e : Nat) : Nat := e % 16
/-- VERSION. -/
def expVersion (e : Nat) : Nat := field e 31 16
/-- The 48 bits of replica slot `i`. -/
def expSlot (e i : Nat) : Nat := e / 2 ^ (64 + 48 * i) % 2 ^ 48
/-- Module of a replica slot. -/
def slotModule (s : Nat) : Nat := s % 4096
/-- Tile of a replica slot. -/
def slotTile (s : Nat) : Nat := s / 2 ^ 16 % 16
/-- Enabled replicas of an entry, as slot number and slot. -/
def expEnabled (e : Nat) : List (Nat × Nat) :=
  ((List.range 8).filter (fun i => decide (i < expNrep e) && bit (expSlot e i) 15)).map (fun i => (i, expSlot e i))

/-- Reserved bits 0, NREP at most 8, no replica slot at or above it (R199). -/
def expFieldOk (e : Nat) : Bool :=
  field e 14 4 == 0 && field e 63 32 == 0 && decide (e / 2 ^ 448 = 0) && decide (expNrep e ≤ 8) &&
  (List.range 8).all (fun i =>
    let s := expSlot e i
    field s 14 12 == 0 && field s 31 20 == 0 && field s 47 32 == 0 && (decide (i < expNrep e) || s == 0))

/-- The code that refuses a write of an entry, 0 if none (R199). -/
def expRefused (old new : Nat) : Nat :=
  if !expValid new then 0
  else if !expFieldOk new then Ev.EXD_FIELD
  else if expValid old && decide ((expNrep old, old / 2 ^ 64 % 2 ^ 384) ≠ (expNrep new, new / 2 ^ 64 % 2 ^ 384)) &&
      expVersion old == expVersion new then Ev.EXD_VERSION_HELD
  else 0

/-- Set an entry whole. -/
def Block.setExpert (b : Block) (i e : Nat) : Block :=
  { b with exd := { b.exd with dir := Sparse.put (fun _ => 0) b.exd.dir i e } }

/-- Is the directory busy with a load or a dump? -/
def Block.exdBusy (b : Block) : Bool := wbit (b.rd .exd Reg.EXD_STAT) 31

/-- EXD_CMD 1: the entry at EXD_SEL into EXD_DATA. -/
def exdCmdRead (o : Origin) (b : Block) : Block :=
  b.gate o .exd Reg.EXD_CMD (.command 1) (fun x =>
    x.setWords .exd (Reg.EXD_DATA 0) 16 (x.expert (x.rdN .exd Reg.EXD_SEL)))

/-- EXD_CMD_READ (R197). -/
def execExdCmdRead (o : Origin) (s : State) : Host.Outcome State Fault Refusal := s.onWrite o (exdCmdRead o)

/-- EXD_CMD 2: the entry at EXD_SEL from EXD_DATA, or its refusal. -/
def exdCmdWrite (o : Origin) (b : Block) : Block :=
  let i := b.rdN .exd Reg.EXD_SEL
  let e := b.words .exd (Reg.EXD_DATA 0) 16
  let code := expRefused (b.expert i) e
  b.gate o .exd Reg.EXD_CMD (if code ≠ 0 then .command 2 else .table i 1) (fun x =>
    if code ≠ 0 then (x.setCode .exd Reg.EXD_STAT code).post code .exd 0 else (x.setExpert i e).setCode .exd Reg.EXD_STAT 0)

/-- EXD_CMD_WRITE (R199). -/
def execExdCmdWrite (o : Origin) (s : State) : Host.Outcome State Fault Refusal := s.onWrite o (exdCmdWrite o)

/-- What a write of EXD_BULK_CTL or EXD_TALLY_CTL does: COUNT is stored, START begins a run unless its range passes 16,384. -/
def Block.exdStart (b : Block) (o : Origin) (off : Nat) (v : Word) (tally : Bool) : Block :=
  if b.exdBusy then b
  else
    let b := b.writeFields .exd off v
    if !wbit v 31 then b
    else
      let n := wfield v 14 0
      let first := b.rdN .exd Reg.EXD_SEL
      if 16384 < first + n then
        let b := if tally then b else b.wrN .exd Reg.EXD_BULK_DONE 0
        (b.setCode .exd Reg.EXD_STAT Ev.DESC_RANGE).post Ev.DESC_RANGE .exd 0
      else
        let run : BulkRun := { first := first, count := n,
                               addr := b.rd64 .exd (if tally then Reg.EXD_TALLY_DST_LO else Reg.EXD_BULK_SRC_LO),
                               clear := tally && wbit v 30, origin := o, done := 0, code := 0 }
        let x := if tally then { b.exd with dump := some run } else { b.exd with bulk := some run }
        ({ b with exd := x }).wrBit .exd Reg.EXD_STAT 31 true

/-- A write of EXD_BULK_CTL. -/
def exdBulkLoadStart (o : Origin) (v : Word) (b : Block) : Block :=
  b.gate o .exd Reg.EXD_BULK_CTL (if wbit v 31 then .deferred else .change) (fun x => x.exdStart o Reg.EXD_BULK_CTL v false)

/-- EXD_BULK_LOAD_START (R222). -/
def execExdBulkLoadStart (o : Origin) (v : Word) (s : State) : Host.Outcome State Fault Refusal := s.onWrite o (exdBulkLoadStart o v)

/-- The next entry of a bulk load of the directory, one in each MCLK cycle. -/
def Block.exdLoadOne (b : Block) : Block :=
  match b.exd.bulk with
  | none => b
  | some r =>
    let q := b.bulkOne r 64 (fun x i e =>
      let code := expRefused (x.expert i) e
      if code ≠ 0 then (x, code) else (x.setExpert i e, 0))
    { q.1 with exd := { q.1.exd with bulk := some q.2 } }

/-- The end of a bulk load of the directory: the entries still to come land one after the other. -/
def exdBulkLoadDone (b : Block) : Block :=
  match b.exd.bulk with
  | none => b
  | some r =>
    let b := (List.range (r.count - r.done)).foldl (fun x _ => x.exdLoadOne) b
    match b.exd.bulk with
    | none => b
    | some r =>
      let b := { b with exd := { b.exd with bulk := none } }
      let b := (b.wrN .exd Reg.EXD_BULK_DONE r.done).wrN .exd Reg.EXD_STAT r.code
      let b := b.logAppend r.origin LogKind.tableChange (addrOf .exd Reg.EXD_BULK_CTL) r.first r.done
      if r.code = 0 then b else b.post r.code .exd 0

/-- EXD_BULK_LOAD_DONE (R222). -/
def execExdBulkLoadDone (s : State) : Host.Outcome State Fault Refusal := s.onBlock exdBulkLoadDone

/-- A write of EXD_TALLY_CTL. -/
def tallyDumpStart (o : Origin) (v : Word) (b : Block) : Block :=
  b.gate o .exd Reg.EXD_TALLY_CTL (if wbit v 31 then .command v else .change) (fun x => x.exdStart o Reg.EXD_TALLY_CTL v true)

/-- TALLY_DUMP_START (R220). -/
def execTallyDumpStart (o : Origin) (v : Word) (s : State) : Host.Outcome State Fault Refusal := s.onWrite o (tallyDumpStart o v)

/-- A tally of an entry. -/
def tallyAt (m : Sparse DWord) (i : Nat) : DWord := Sparse.get (fun _ => 0) m i

/-- Dump an entry's tallies, and clear them where the dump clears. -/
def Block.dumpTally (b : Block) (r : BulkRun) (i : Nat) : Block :=
  let e := r.first + i
  let b := b.store (r.addr + 16 * i) (toBytes 8 (tallyAt b.exd.placed e).toNat ++ toBytes 8 (tallyAt b.exd.refused e).toNat)
  if r.clear then
    { b with exd := { b.exd with placed := Sparse.put (fun _ => 0) b.exd.placed e 0,
                                 refused := Sparse.put (fun _ => 0) b.exd.refused e 0 } }
  else b

/-- The next entry of a tally dump, one in each MCLK cycle; it stops at the first place that cannot be written.
DEDUCED (notes/assumptions/46.md). -/
def Block.tallyDumpOne (b : Block) : Block :=
  match b.exd.dump with
  | none => b
  | some r =>
    let a := r.addr + 16 * r.done
    let stop := fun (code : Nat) => { b with exd := { b.exd with dump := some { r with code := code } } }
    if r.code ≠ 0 ∨ r.count ≤ r.done then b
    else if b.protected_ a 16 then stop Ev.DESC_PROTECT
    else if b.probe a 16 ≠ .ok then stop Ev.ADDR_UNMAPPED
    else
      let b := b.dumpTally r r.done
      { b with exd := { b.exd with dump := some { r with done := r.done + 1 } } }

/-- The end of a tally dump: the entries still to come are written one after the other. -/
def tallyDumpDone (b : Block) : Block :=
  match b.exd.dump with
  | none => b
  | some r =>
    let b := (List.range (r.count - r.done)).foldl (fun x _ => x.tallyDumpOne) b
    match b.exd.dump with
    | none => b
    | some r =>
      let b := { b with exd := { b.exd with dump := none } }
      let b := b.wrN .exd Reg.EXD_STAT r.code
      if r.code = 0 then b else b.post r.code .exd 0

/-- TALLY_DUMP_DONE (R220). -/
def execTallyDumpDone (s : State) : Host.Outcome State Fault Refusal := s.onBlock tallyDumpDone

/-- What a write of EXD_CNT_CLR clears: bit 0 the five counters, bit 1 every tally. -/
def Block.exdClear (b : Block) (v : Word) : Block :=
  let b := b.clearOn v .exd [Reg.EXD_PLACED, Reg.EXD_DROPPED, Reg.EXD_SPILLED, Reg.EXD_PAD_ROWS, Reg.EXD_NAN_TOKENS]
  if wbit v 1 then { b with exd := { b.exd with placed := [], refused := [] } } else b

/-- A write of EXD_CNT_CLR. -/
def exdCntClrCounters (o : Origin) (v : Word) (b : Block) : Block := b.gate o .exd Reg.EXD_CNT_CLR .none (fun x => x.exdClear v)

/-- EXD_CNT_CLR_COUNTERS (R219). -/
def execExdCntClrCounters (o : Origin) (v : Word) (s : State) : Host.Outcome State Fault Refusal :=
  s.onWrite o (exdCntClrCounters o v)

/-- A write of EXD_CNT_CLR. -/
def exdCntClrTallies (o : Origin) (v : Word) (b : Block) : Block := b.gate o .exd Reg.EXD_CNT_CLR .none (fun x => x.exdClear v)

/-- EXD_CNT_CLR_TALLIES (R219). -/
def execExdCntClrTallies (o : Origin) (v : Word) (s : State) : Host.Outcome State Fault Refusal := s.onWrite o (exdCntClrTallies o v)

/-! ## Segments -/

/-- TOPK of a ROUTE record. -/
def TaskRec.topk (r : TaskRec) : Nat := r.par 1 1
/-- EXP_BASE. -/
def TaskRec.expBase (r : TaskRec) : Nat := r.par 4 2
/-- SPILL_DEPTH. -/
def TaskRec.spillDepth (r : TaskRec) : Nat := r.par 6 1
/-- EXP_CAP. -/
def TaskRec.expCap (r : TaskRec) : Nat := r.par 8 4
/-- A flag of DFLAGS: 0 SPILL, 1 RENORM, 2 LOCAL_FIRST, 3 ACCUM. -/
def TaskRec.dflag (r : TaskRec) (i : Nat) : Bool := bit (r.par 3 1) i
/-- COUNT_DESC. -/
def TaskRec.countDesc (r : TaskRec) : Nat := r.par 0x10 8
/-- LIST_OUT. -/
def TaskRec.listOut (r : TaskRec) : Nat := r.par 0x18 8

/-- A segment of the send buffer (R212): expert column, replica slot number, slot, version of the entry, capacity, first row. -/
structure Seg where
  expert : Nat
  rep : Nat
  slot : Nat
  version : Nat
  cap : Nat
  base : Nat
  deriving DecidableEq, Repr

/-- The segments of a directory copy, in ascending column and slot (R208, R212), with the rows they span. -/
def segmentsOf (dir : List Nat) (cap : Nat) : List Seg × Nat :=
  dir.zipIdx.foldl (fun (st : List Seg × Nat) p =>
    let reps := expEnabled p.1
    let m := reps.length
    reps.zipIdx.foldl (fun (q : List Seg × Nat) r =>
      let k := cap / m + b2n (decide (r.2 < cap % m))
      (q.1 ++ [⟨p.2, r.1.1, r.1.2, expVersion p.1, k, q.2⟩], q.2 + roundUp k 8)) st) ([], 0)

/-- What stops a DISPATCH record at dispatch (R202, R204). -/
def Block.dispatchCheck (b : Block) (r : TaskRec) : Option Nat :=
  let a := b.desc r.descA.toNat
  let w := b.desc r.descB.toNat
  let o := b.desc r.descC.toNat
  let x := b.desc r.descD.toNat
  let clash := fun (outs ins : List Desc) => outs.zipIdx.any (fun p => ins.any (fun d => p.1.meets d) ||
    (outs.drop (p.2 + 1)).any (fun d => p.1.meets d))
  if r.par 0 1 = 1 then
    let cd := b.desc r.countDesc
    let dir := (List.range a.d0).map (fun i => b.expert (r.expBase + i))
    let segs := segmentsOf dir r.expCap
    let shape := [r.descA, r.descB, r.descC, r.descD].all (fun p => decide (p ≠ 0)) && decide (r.countDesc ≠ 0) &&
      decide (b.kindAt r.countDesc = some .descriptor) && b.probe r.countDesc 64 == .ok &&
      (a.format == 1 || a.format == 2) && a.scaleMode == 0 && o.format == w.format && o.layout == w.layout &&
      o.scaleMode == w.scaleMode && o.d0 == w.d0 && indexDesc x (4 * r.topk) && indexDesc cd 4 && !o.readOnly && !x.readOnly &&
      !cd.readOnly && decide (r.topk ≤ a.d0) && decide (a.d0 ≤ 1024) &&
      decide (r.expBase + a.d0 ≤ 16384) && decide (a.rows ≤ w.rows) && decide (a.rows ≤ x.rows)
    if !shape then some Ev.DISPATCH_SHAPE
    else if clash [o, x, cd] [a, w] then some Ev.DESC_OVERLAP
    else if b.stale cd then some Ev.DESC_STALE
    else if dir.any (fun e => !expValid e) then some Ev.EXD_ABSENT
    else if o.rows < segs.2 ∨ cd.rows < segs.1.length then some Ev.DISPATCH_SHAPE
    else if r.listOut ≠ 0 ∧ ((b.within r.listOut (32 * segs.1.length)).filter (fun v => decide (v.kind = .list))).isNone then
      some Ev.DISPATCH_SHAPE
    else none
  else
    let shape := [r.descA, r.descB, r.descC].all (fun p => decide (p ≠ 0)) && decide (r.descD = 0) &&
      a.format == 9 && a.layout == 1 && a.scaleMode == 0 && a.d0 % 4 == 0 && decide (a.d0 ≤ 32) && laneFormat w.format &&
      decide (o.format ≤ 7) && o.d0 == w.d0 && !o.readOnly && decide (a.rows ≤ w.rows) && decide (a.rows ≤ o.rows)
    if !shape then some Ev.DISPATCH_SHAPE else if clash [o] [a, w] then some Ev.DESC_OVERLAP else none

/-- The directory copy of a ROUTE task (R204). -/
def Block.snapshot (b : Block) (c : Fin 128) (r : TaskRec) : Block :=
  let dir := (List.range (b.desc r.descA.toNat).d0).map (fun i => b.expert (r.expBase + i))
  b.setCore c.val { b.core c.val with snapshot := if r.kind = 3 ∧ r.par 0 1 = 1 then dir else [] }

/-! ## Choosing and placing -/

/-- Put a column among others by falling score; a column of equal score stays behind the lower ones (R205, R206). -/
def rankInsert (x : Num × Nat) : List (Num × Nat) → List (Num × Nat)
  | [] => [x]
  | y :: r => if y.1.lt x.1 then x :: y :: r else y :: rankInsert x r

/-- A token's columns, best first. DEDUCED (notes/assumptions/46.md). -/
def ranking (scores : List Num) : List Nat := ((scores.zipIdx).foldl (fun a x => rankInsert x a) []).map (fun p => p.2)

/-- A choice as it landed: token, rank, the column first chosen, the segment's number and the row, and whether it spilled. -/
structure Placed where
  token : Nat
  rank : Nat
  orig : Nat
  seg : Nat
  row : Nat
  spilled : Bool
  deriving DecidableEq, Repr

/-- The state of placement: rows filled in each segment, choices placed, spill landings by token, refusals by column, work items,
choices dropped. -/
structure PlaceSt where
  fill : List Nat
  placed : List Placed
  used : List (Nat × Nat)
  refused : List Nat
  items : Nat
  dropped : Nat
  deriving DecidableEq, Repr

/-- The segment that takes a choice of column `e` by token `t` (R209); none when the expert is full. -/
def pickSeg (segs : List Seg) (fill : List Nat) (localFirst : Bool) (self start : Nat) (e : Nat) : Option Nat :=
  let own := (segs.zipIdx).filter (fun p => p.1.expert == e)
  let m := own.length
  let room := fun (p : Seg × Nat) => decide (fill.getD p.2 0 < p.1.cap)
  let first := if localFirst then (own.find? (fun p => slotModule p.1.slot == self)).filter room else none
  match first with
  | some p => some p.2
  | none => (((own.drop (start % m)) ++ own.take (start % m)).find? room).map (fun p => p.2)

/-- Try one placement (R210): the state after it, and whether it succeeded. -/
def tryPlace (segs : List Seg) (r : TaskRec) (self t rank orig e : Nat) (s : PlaceSt) : PlaceSt × Bool :=
  let s := { s with items := s.items + 1 }
  match pickSeg segs s.fill (r.dflag 2) self (r.par 0x0C 4 + t) e with
  | none => ({ s with refused := s.refused ++ [e] }, false)
  | some k =>
    let n := s.fill.getD k 0
    let row := (segs.getD k ⟨0, 0, 0, 0, 0, 0⟩).base + n
    ({ s with fill := s.fill.set k (n + 1), placed := s.placed ++ [⟨t, rank, orig, k, row, e != orig⟩] }, true)

/-- Walk down a token's ranking after a refusal (R210): `left` candidates may still be examined. -/
def spill (segs : List Seg) (r : TaskRec) (self t rank orig : Nat) : List Nat → Nat → PlaceSt → PlaceSt
  | [], _, s => { s with dropped := s.dropped + 1 }
  | f :: rest, left, s =>
    if s.used.contains (t, f) then spill segs r self t rank orig rest left s
    else match left with
      | 0 => { s with dropped := s.dropped + 1 }
      | n + 1 =>
        let p := tryPlace segs r self t rank orig f s
        if p.2 then { p.1 with used := (t, f) :: p.1.used } else spill segs r self t rank orig rest n p.1

/-- One choice of the rank-major loop. -/
def placeChoice (segs : List Seg) (r : TaskRec) (self : Nat) (ranks : List (List Nat)) (rank t : Nat) (s : PlaceSt) : PlaceSt :=
  let l := ranks.getD t []
  let e := l.getD rank 0
  let p := tryPlace segs r self t rank e e s
  if p.2 then p.1
  else if r.dflag 0 then spill segs r self t rank e (l.drop r.topk) r.spillDepth p.1
  else { p.1 with dropped := p.1.dropped + 1 }

/-- The whole placement (R210). DEDUCED (notes/assumptions/46.md). -/
def placeAll (segs : List Seg) (r : TaskRec) (self : Nat) (ranks : List (List Nat)) : PlaceSt :=
  (List.range r.topk).foldl (fun s rank => (List.range ranks.length).foldl (fun s t =>
    placeChoice segs r self ranks rank t s) s)
    { fill := segs.map (fun _ => 0), placed := [], used := [], refused := [], items := 0, dropped := 0 }

/-! ## Weights (R207) -/

/-- The largest of a list of scores. -/
def maxScore (l : List Num) : Num := l.foldl (fun m x => if m.lt x then x else m) (.inf true)

/-- e^(s − m) in FP32. -/
def gateExp (m s : Num) : Num := expVal (rnd32 (s.add m.neg))

/-- Weights of a token's placed columns. DEDUCED (notes/assumptions/46.md). -/
def Block.weights (b : Block) (r : TaskRec) (scores : List Num) (cols : List Nat) : List Num × Block :=
  let mine := cols.map (fun k => scores.getD k Num.zero)
  let soft := fun (over_ : List Num) =>
    let m := maxScore over_
    if m = .inf true then (mine.map (fun _ => Num.zero), b)
    else
      let s := b.openSum (over_.map (gateExp m))
      (mine.map (fun x => rnd32 ((gateExp m x).div s.1)), s.2)
  let w := match r.par 2 1 with
    | 0 => soft scores
    | 1 => soft mine
    | 2 => (mine.map (fun x => drainFnVal 7 0 Num.zero x), b)
    | _ => (mine, b)
  if r.dflag 1 then
    let s := w.2.openSum w.1
    if s.1.isZero then (w.1, s.2) else (w.1.map (fun x => rnd32 (x.div s.1)), s.2)
  else w

/-! ## ROUTE -/

/-- The four words of a route-table group (R214). -/
def routeWords (r : TaskRec) (segs : List Seg) (orig : Nat) (p : Option (Placed × Num)) : List Nat :=
  match p with
  | some (p, w) =>
    let s := segs.getD p.seg ⟨0, 0, 0, 0, 0, 0⟩
    [r.expBase + s.expert, (r.expBase + orig) % 2 ^ 14 + s.rep * 2 ^ 16 + (if p.spilled then 2 ^ 30 else 0), p.row, (f32 w).1.toNat]
  | none => [2 ^ 32 - 1, (r.expBase + orig) % 2 ^ 14 + 2 ^ 31, 2 ^ 32 - 1, 0]

/-- Move one token's row and write its route-table row (R211): the row is read for its first choice, and the reads for the others merge
(R178). DEDUCED (notes/assumptions/46.md). -/
def Block.routeToken (b : Block) (c : Fin 128) (t : TaskSt) (segs : List Seg) (row : Nat) (scores : List Num) (choice : List Nat)
    (placed : List Placed) : Ready × Block :=
  let r := t.task
  let w := b.desc r.descB.toNat
  let o := b.desc r.descC.toNat
  let x := b.desc r.descD.toNat
  let ws := b.weights r scores (placed.map (fun p => (segs.getD p.seg ⟨0, 0, 0, 0, 0, 0⟩).expert))
  let moved := ws.2.eachReady placed (fun y p =>
    let d := y.readRow c t true (r.descB.toNat, w, row, 0, w.d0)
    d.2.moveRow c t d.1 o p.row 0 w.d0 false)
  match moved.1 with
  | .ok =>
    let words := (List.range r.topk).flatMap (fun k =>
      routeWords r segs (choice.getD k 0) ((placed.zip ws.1).find? (fun p => p.1.rank == k)))
    moved.2.taskWrite t (some (coreTile c)) [(x.elemAddr row 0, words.flatMap (fun n => toBytes 4 n))] false
  | _ => moved

/-- Write a segment's pad rows, its count-table row and its list entry (R212, R213, R215); the entry's number is how many segments
before it were filled. -/
def Block.routeSegment (b : Block) (c : Fin 128) (t : TaskSt) (s : Seg) (i filled entryNo : Nat) : Ready × Block :=
  let r := t.task
  let o := b.desc r.descC.toNat
  let cd := b.desc r.countDesc
  let padded := roundUp filled 8
  let z := b.eachReady (List.range (padded - filled)) (fun y k => y.zeroRow c t o (s.base + filled + k) 0 o.d0 false)
  match z.1 with
  | .ok =>
    let words := [filled, padded, s.base, slotModule s.slot + slotTile s.slot * 2 ^ 12 + s.version * 2 ^ 16]
    let q := z.2.taskWrite t (some (coreTile c)) [(cd.elemAddr i 0, words.flatMap (fun n => toBytes 4 n))] false
    match q.1 with
    | .ok =>
      if r.listOut = 0 ∨ filled = 0 then q
      else
        let l := toBytes 4 s.base ++ toBytes 4 padded ++ toBytes 4 0 ++ toBytes 4 o.d0 ++ toBytes 1 2 ++ List.replicate 15 0
        match o.entryFault (Entry32.ofBytes l) with
        | some code => (.fault code, q.2)
        | none => (.ok, q.2.store (r.listOut + 32 * entryNo) l)
    | _ => q
  | _ => z

/-- The first entry of a list that cannot be taken yet, or not at all. -/
def Block.listBlocked (b : Block) (c : Fin 128) (t : TaskSt) (l : List (Nat × Nat)) : Option (Ready × Block) :=
  l.findSome? (fun p => let k := b.take c (t.at_ p) 1 false
                        if k.1.ready = .ok then none else some (k.1.ready, k.2))

/-- Is an entry of a DISPATCH list well formed (R203)? -/
def dispatchEntryOk (a : Desc) (e : Entry32) : Bool :=
  drlClean e && e.src == 0 && e.colStart == 0 && e.colCount == a.d0 && e.kind.all (fun x => x == 0)

/-- The tallies of a placement: for each directory entry touched, choices placed and refusals (R219). -/
def placeTally (r : TaskRec) (segs : List Seg) (s : PlaceSt) : List (Nat × Nat × Nat) :=
  let at_ := fun (p : Placed) => (segs.getD p.seg ⟨0, 0, 0, 0, 0, 0⟩).expert
  (((s.placed.map at_) ++ s.refused).eraseDups).map (fun e =>
    (r.expBase + e, (s.placed.filter (fun p => at_ p == e)).length, (s.refused.filter (fun k => k == e)).length))

/-- What a ROUTE task decides before it moves anything: its tokens as row and scores, a NaN read as −∞, how many held a NaN, its
segments, its tokens' rankings, and the placement. -/
structure RoutePlan where
  tokens : List (Nat × List Num)
  nan : Nat
  segs : List Seg
  ranks : List (List Nat)
  place : PlaceSt
  deriving DecidableEq, Repr

/-- Read the tokens of a ROUTE task and place their choices (R205, R206, R208 to R210). -/
def Block.routePlan (b : Block) (c : Fin 128) (t : TaskSt) (all : List (Nat × Nat)) : RoutePlan × Block :=
  let r := t.task
  let a := b.desc r.descA.toNat
  let got := all.foldl (fun (st : List (Nat × List Num) × Block) p =>
    let k := st.2.take c (t.at_ p) 1 false
    let e := b.entryAt t p
    (st.1 ++ (if e.empty then [] else (List.range e.rowCount).map (fun i =>
      (e.rowStart + i, k.1.d.values k.1.rd (k.1.e.rowStart + i) 0 a.d0))), k.2)) ([], b)
  let tokens := got.1.map (fun p => (p.1, p.2.map (fun v => if v.isNan then Num.inf true else v)))
  let segs := (segmentsOf (b.core c.val).snapshot r.expCap).1
  let ranks := tokens.map (fun p => (ranking p.2).take (min a.d0 (r.topk * (1 + r.spillDepth))))
  ({ tokens := tokens, nan := (got.1.filter (fun p => p.2.any Num.isNan)).length, segs := segs, ranks := ranks,
     place := placeAll segs r b.moduleId ranks }, got.2)

/-- Everything that a ROUTE task reads and writes beside its scores: the placed tokens' rows, the rows of its segments, its tables. -/
def Block.routeReady (b : Block) (c : Fin 128) (t : TaskSt) (p : RoutePlan) (pageInOk : Bool) : Ready × Block :=
  let r := t.task
  let w := b.desc r.descB.toNat
  let o := b.desc r.descC.toNat
  let rows := p.place.placed.map (fun k => k.row) ++ (p.segs.zip p.place.fill).flatMap (fun q =>
    (List.range (roundUp q.2 8 - q.2)).map (fun k => q.1.base + q.2 + k))
  let reads := p.tokens.zipIdx.flatMap (fun k => (p.place.placed.filter (fun q => q.token == k.2)).map (fun _ =>
    ((r.descB.toNat, w, k.1.1, 0, w.d0) : RowWant)))
  let q := b.rowsReady c t true reads pageInOk
  match q.1 with
  | .ok =>
    let q := q.2.rowsOpen c t o rows 0 o.d0 pageInOk false
    match q.1 with
    | .ok => q.2.demand t (p.tokens.map (fun k => ((b.desc r.descD.toNat).elemAddr k.1 0, 16 * r.topk)) ++
        (List.range p.segs.length).map (fun i => ((b.desc r.countDesc).elemAddr i 0, 16))) pageInOk
    | _ => q
  | _ => q

/-- Move the rows of a plan and write its tables (R211 to R215). -/
def Block.routeMove (b : Block) (c : Fin 128) (t : TaskSt) (p : RoutePlan) : Ready × Block :=
  let z := b.eachReady (p.tokens.zip p.ranks).zipIdx (fun y k =>
    y.routeToken c t p.segs k.1.1.1 k.1.1.2 k.1.2 (p.place.placed.filter (fun q => q.token == k.2)))
  match z.1 with
  | .ok => z.2.eachReady (p.segs.zip p.place.fill).zipIdx (fun y k =>
      y.routeSegment c t k.1.1 k.2 k.1.2 ((p.place.fill.take k.2).filter (fun n => n != 0)).length)
  | _ => z

/-- The five counts of a placement: choices placed, dropped, spilled, pad rows, tokens with a NaN (R219). -/
def RoutePlan.counts (p : RoutePlan) : List Nat :=
  [p.place.placed.length, p.place.dropped, (p.place.placed.filter (fun k => k.spilled)).length,
   (p.place.fill.map (fun n => roundUp n 8 - n)).sum, p.nan]

/-- A ROUTE task: it ranks its tokens, places their choices, moves rows and writes its tables; the list it has written is bound when it
completes (R97). DEDUCED (notes/assumptions/46.md). -/
def route (c : Fin 128) (cycles lanes : Nat) (errs : Errs) : Block → Block := Block.engine c 1 errs (fun b =>
  match b.drlTask c 3 1 with
  | none => b
  | some t =>
    let r := t.task
    let all := t.ahead r.listCount.toNat t.pos
    let stop := fun (y : Block) (code : Nat) => y.drlFault c t code cycles lanes
    if all.any (fun p => !dispatchEntryOk (b.desc r.descA.toNat) (b.entryAt t p)) then stop b Ev.DISPATCH_SHAPE
    else match b.listBlocked c t all with
      | some (.fault code, y) => stop y code
      | some (_, y) => y
      | none =>
        let p := b.routePlan c t all
        if t.room < p.1.place.items then b.drlDone c t t.room false cycles lanes
        else
          let q := b.routeReady c t p.1 (all.all (fun p => (b.entryAt t p).pageInOk))
          match q.1 with
          | .wait => q.2
          | .fault code => stop q.2 code
          | .ok =>
            let z := (q.2.routePlan c t all).2.routeMove c t p.1
            match z.1 with
            | .ok =>
              let y := z.2.mapTask (.core c) t.serial (fun u => { u with
                tally := placeTally r p.1.segs p.1.place
                dispCnt := p.1.counts
                listsOut := if r.listOut = 0 then u.listsOut else u.listsOut ++ [(r.listOut, [0, 0, r.descC.toNat, 0])]
                cursor := r.listCount.toNat })
              y.drlDone c t p.1.place.items false cycles lanes
            | o => z.2.drlFinish c t o 0 false false cycles lanes)

/-- ROUTE (R203 to R215). -/
def execRoute (c : Fin 128) (cycles lanes : Nat) (errs : Errs) (s : State) : Host.Outcome State Fault Refusal :=
  s.onBlock (route c cycles lanes errs)

/-- Add a completed ROUTE task's counts to the tallies and counters (R219). -/
def Block.addTallies (b : Block) (t : TaskSt) : Block :=
  let b := t.tally.foldl (fun y p => { y with exd := { y.exd with
    placed := Sparse.put (fun _ => 0) y.exd.placed p.1 (satAdd64 (tallyAt y.exd.placed p.1) p.2.1)
    refused := Sparse.put (fun _ => 0) y.exd.refused p.1 (satAdd64 (tallyAt y.exd.refused p.1) p.2.2) } }) b
  t.dispCnt.zipIdx.foldl (fun y p => y.count .exd (Reg.EXD_PLACED + 8 * p.2) p.1) b

/-! ## COMBINE -/

/-- The groups of a route-table row: flags word, row, weight. -/
def routeGroups (words : List Nat) : List (Nat × Nat × Nat) :=
  (List.range (words.length / 4)).map (fun g => (words.getD (4 * g + 1) 0, words.getD (4 * g + 2) 0, words.getD (4 * g + 3) 0))

/-- The groups that count: those not dropped. -/
def liveGroups (l : List (Nat × Nat × Nat)) : List (Nat × Nat) := (l.filter (fun g => !bit g.1 31)).map (fun g => (g.2.1, g.2.2))

/-- The rows of DESC_B that a route-table row reads. -/
def combineWants (desc : Nat) (w : Desc) (gs : List (Nat × Nat)) (cols : Nat × Nat) : List RowWant :=
  gs.map (fun g => (desc, w, g.1, cols.1, cols.2))

/-- One row of a COMBINE (R216), in the columns that a share covers (R48). DEDUCED (notes/assumptions/46.md). -/
def Block.combineRow (b : Block) (c : Fin 128) (t : TaskSt) (row : Nat) (gs : List (Nat × Nat)) (cols : Nat × Nat) (pageInOk : Bool) :
    Ready × Block :=
  let r := t.task
  let w := b.desc r.descB.toNat
  let o := b.desc r.descC.toNat
  if r.dflag 3 ∧ gs.isEmpty then (.ok, b)
  else
    let got := (combineWants r.descB.toNat w gs cols).foldl (fun (st : List RowData × Block) k =>
      let d := st.2.readRow c t true k
      (st.1 ++ [d.1], d.2)) ([], b)
    match poisonStop got.1 with
    | some code => (.fault code, got.2)
    | none =>
      let rows := (gs.zip got.1).map (fun p =>
        (ofFormat 2 (toFormat 2 .nearest true (ofFormat 1 p.1.2)).code, p.2.values false))
      let sums := (List.range cols.2).map (fun j => laneSum (rows.map (fun p => (p.1, p.2.getD j Num.zero))))
      let vals := sums.map (fun v => roundCount (Num.zero, 0) (v.mul w.tensorScale))
      (got.2.drnOvf c 1 (vals.map (fun v => v.2)).sum).putRow c t o row cols.1 (r.dflag 3) (vals.map (fun v => v.1)) pageInOk

/-- How far a COMBINE entry goes: the rows that are written, the choices read, whether one of them is out of range, and whether the entry
is finished. CAPACITY may end within a row, whose choices it admits are read and checked all the same (R201, R216). -/
def combineReach (rows : List (List (Nat × Nat × Nat))) (per room limit : Nat) : Nat × Nat × Bool × Bool :=
  let all := (rows.flatMap (fun l => l)).take room
  let bad := fun (g : Nat × Nat × Nat) => !bit g.1 31 && decide (limit ≤ g.2.1)
  let n := (all.takeWhile (fun g => !bad g)).length
  if n < all.length then (n / max 1 per, n + 1, true, false)
  else if per = 0 then (rows.length, 0, false, true)
  else (all.length / per, all.length, false, decide (rows.length * per ≤ room))

/-- A COMBINE entry that the derailleur has reached. DEDUCED (notes/assumptions/46.md). -/
def combine (c : Fin 128) (cycles lanes : Nat) (errs : Errs) : Block → Block := Block.engine c 1 errs (fun b =>
  match b.drlTask c 3 2 with
  | none => b
  | some t =>
    let r := t.task
    let e := b.entryAt t t.pos
    let a := b.desc r.descA.toNat
    let w := b.desc r.descB.toNat
    let o := b.desc r.descC.toNat
    let stop := fun (y : Block) (code : Nat) => y.drlFault c t code cycles lanes
    if !dispatchEntryOk a e then stop b Ev.DISPATCH_SHAPE
    else
      let k := b.take c t 1 false
      match k.1.ready with
      | .wait => k.2
      | .fault code => stop k.2 code
      | .ok =>
        let per := a.d0 / 4
        let cols := t.cut 0 o.d0
        let table := (if e.empty then [] else List.range e.rowCount).map (fun i =>
          routeGroups (k.1.d.codes k.1.rd (k.1.e.rowStart + i) 0 a.d0))
        let reach := combineReach table per t.room w.rows
        let good := (table.take reach.1).zipIdx.map (fun p => (e.rowStart + p.2, liveGroups p.1))
        let q := b.rowsReady c t true (good.flatMap (fun p => combineWants r.descB.toNat w p.2 cols)) e.pageInOk
        let q := match q.1 with
          | .ok => q.2.rowsOpen c t o (good.map (fun (p : Nat × List (Nat × Nat)) => p.1)) cols.1 cols.2 e.pageInOk (r.dflag 3)
          | _ => q
        match q.1 with
        | .wait => q.2
        | .fault code => stop q.2 code
        | .ok =>
          let z := (q.2.take c t 1 false).2.eachReady good (fun y p => y.combineRow c t p.1 p.2 cols e.pageInOk)
          z.2.drlFinish c t z.1 reach.2.1 reach.2.2.2 reach.2.2.1 cycles lanes)

/-- COMBINE (R216). -/
def execCombine (c : Fin 128) (cycles lanes : Nat) (errs : Errs) (s : State) : Host.Outcome State Fault Refusal :=
  s.onBlock (combine c cycles lanes errs)

/-- A DISPATCH task that has counted CAPACITY work items and has another due faults (R201). -/
def dispatchCapacity (c : Fin 128) : Block → Block := Block.engine c 1 .none (fun b =>
  match b.portTask c 1 with
  | none => b
  | some t =>
    let e := b.entryAt t t.pos
    if t.task.kind = 3 ∧ !t.listDone ∧ t.room = 0 ∧ (t.task.par 0 1 = 1 ∨ !e.empty) then b.coreFault c t Ev.DISPATCH_CAPACITY else b)

/-- DISPATCH_CAPACITY (R201). -/
def execDispatchCapacity (c : Fin 128) (s : State) : Host.Outcome State Fault Refusal := s.onBlock (dispatchCapacity c)

end Sys2Proof.Machine
end

