-- ==== Sys2Proof/Machine/Link.lean ====
section
/-! DEFINITION. Flits of a spoke (R313 to R319, R325): CRC-32C, the Reed–Solomon code, packets cut into slots and joined again. -/

namespace Sys2Proof.Machine

open Sys2Proof

/-! ## CRC and forward error correction (R314) -/

/-- One byte into the CRC register. PRESUMED: the bit order of CRC-32C as it is generally used, lowest bit first.
PRESUMED (notes/assumptions/32.md). -/
def crcByte (c v : Nat) : Nat :=
  (List.range 8).foldl (fun x _ => if x % 2 = 1 then (x / 2).xor 0x82F63B78 else x / 2) (c.xor v)

/-- CRC-32C of bytes: initial value all ones, the result inverted. PRESUMED (notes/assumptions/32.md). -/
def crc32c (l : List Byte) : Nat := (l.foldl (fun c v => crcByte c v.toNat) 0xFFFFFFFF).xor 0xFFFFFFFF

/-- Multiplication by α in GF(2⁸) with the field polynomial 0x11D. -/
def gfDouble (a : Nat) : Nat := if a < 128 then 2 * a else (2 * a).xor 0x11D

/-- The two syndromes of a codeword, first byte at the highest power. PRESUMED: the generator's roots are 1 and α.
PRESUMED (notes/assumptions/32.md). -/
def syndromes (l : List Byte) : Nat × Nat :=
  l.foldl (fun (s : Nat × Nat) v => (s.1.xor v.toNat, (gfDouble s.2).xor v.toNat)) (0, 0)

/-- The two parity bytes of data bytes: the remainder by x² + 3x + 2. PRESUMED (notes/assumptions/32.md). -/
def rsParity (l : List Byte) : List Byte :=
  let r := l.foldl (fun (r : Nat × Nat) v =>
    let f := v.toNat.xor r.1
    (r.2.xor (f.xor (gfDouble f)), gfDouble f)) (0, 0)
  [BitVec.ofNat 8 r.1, BitVec.ofNat 8 r.2]

/-- The power of α by which `a` must be multiplied to give `z`, if it is below `n`. -/
def gfPower (n a z : Nat) : Option Nat :=
  ((List.range n).foldl (fun (st : Nat × Option Nat) i => (gfDouble st.1, if st.2.isNone && st.1 == z then some i else st.2))
    (a, none)).2

/-- A codeword of 136 bytes with one byte in error corrected, and how many bytes were. -/
def rsCorrect (l : List Byte) : List Byte × Nat :=
  let s := syndromes l
  if s.1 = 0 ∨ s.2 = 0 then (l, 0)
  else match gfPower l.length s.1 s.2 with
    | none => (l, 0)
    | some p => (l.modify (l.length - 1 - p) (fun v => v ^^^ BitVec.ofNat 8 s.1), 1)

/-- The bytes of a list at even places and those at odd places. -/
def deal : List Byte → List Byte × List Byte
  | [] => ([], [])
  | v :: r => let d := deal r; (v :: d.2, d.1)

/-- Two lists taken in turn. -/
def weave : List Byte → List Byte → List Byte
  | [], m => m
  | v :: r, [] => v :: r
  | v :: r, w :: q => v :: w :: weave r q

/-- A flit with its codewords corrected and the number of bytes corrected. -/
def fecDecode (l : List Byte) : List Byte × Nat :=
  let d := deal l
  let a := rsCorrect d.1
  let c := rsCorrect d.2
  (weave a.1 c.1, a.2 + c.2)

/-! ## Flits (R313) -/

/-- TYPE of a flit. -/
abbrev Flit.idle : Nat := 0
/-- DATA. -/
abbrev Flit.data : Nat := 1
/-- REPLAY_REQ. -/
abbrev Flit.replayReq : Nat := 2
/-- PARAM. -/
abbrev Flit.param : Nat := 3

/-- The 272 bytes of a flit. -/
def flitBytes (type seq ack creditVc creditCount sop : Nat) (payload : List Byte) : List Byte :=
  let h := type * 2 ^ 60 + seq % 65536 * 2 ^ 44 + ack % 65536 * 2 ^ 28 + creditVc % 8 * 2 ^ 25 + creditCount % 256 * 2 ^ 17 +
    sop % 256 * 2 ^ 9
  let l := toBytes 8 h ++ payload
  let l := l ++ toBytes 4 (crc32c l)
  let d := deal l
  l ++ weave (rsParity d.1) (rsParity d.2)

/-- Is the CRC of a corrected flit good and its TYPE one of the table? -/
def flitGood (l : List Byte) : Bool :=
  l.length == 272 && rdLE l 264 4 == crc32c (l.take 264) && decide (field (rdLE l 0 8) 63 60 ≤ 3)

/-! ## Transmission -/

/-- Number of a packet's virtual channel (R325). -/
def vcOf (p : Packet) : Nat := 2 * (p.cls % 4) + p.vc % 2

/-- A packet as its slots. -/
def Packet.slotList (p : Packet) : List (List Byte) :=
  (List.range p.slots).map (fun i => (p.bytes.drop (32 * i)).take 32)

/-- The packet to start next among those a test admits: first in the queue among the first of each channel that has credit for
all its slots. -/
def SpokeSt.ready (s : SpokeSt) (f : Packet → Bool) : Option (Nat × Packet) :=
  (s.outq.zipIdx.find? (fun x => f x.1 && decide (x.1.slots ≤ s.credit.getD (vcOf x.1) 0) &&
    !(s.outq.take x.2).any (fun q => vcOf q == vcOf x.1))).map (fun x => (x.2, x.1))

/-- Start a packet: it leaves the queue against credit. -/
def SpokeSt.begin (s : SpokeSt) (i : Nat) (p : Packet) : SpokeSt :=
  { s with outq := s.outq.eraseIdx i, credit := s.credit.modify (vcOf p) (fun c => c - p.slots) }

/-- Fill slots of a flit (R324): the rest of a CTL packet, then CTL packets, then the packet in progress, then the next. -/
def SpokeSt.fill : Nat → SpokeSt → List (Bool × List Byte) → SpokeSt × List (Bool × List Byte)
  | 0, s, acc => (s, acc)
  | n + 1, s, acc =>
    match s.ctlTx with
    | x :: r => { s with ctlTx := r }.fill n (acc ++ [(false, x)])
    | [] => match s.ready (fun p => p.cls == 0) with
      | some (i, p) => { s.begin i p with ctlTx := p.slotList.tail }.fill n (acc ++ [(true, p.slotList.headD [])])
      | none => match s.reqTx with
        | x :: r => { s with reqTx := r }.fill n (acc ++ [(false, x)])
        | [] => match s.ready (fun p => p.cls != 0) with
          | some (i, p) => { s.begin i p with reqTx := p.slotList.tail }.fill n (acc ++ [(true, p.slotList.headD [])])
          | none => (s, acc)

/-- The virtual channel whose credits go out with the next flit, in turn (R325). -/
def SpokeSt.creditNext (s : SpokeSt) : Option Nat :=
  ((List.range 6).map (fun i => (s.creditTurn + 1 + i) % 6)).find? (fun c => decide (0 < s.owed.getD c 0))

/-- Put a flit on the wire behind those that left with the same command, with the acknowledgement and credits that ride in its header. -/
def SpokeSt.emit (s : SpokeSt) (type seq sop : Nat) (payload : List Byte) : SpokeSt :=
  let ack := (s.expect + 65535) % 65536
  let c := s.creditNext
  let k := match c with
    | some v => (v, min 255 (s.owed.getD v 0))
    | none => (6, 0)
  { s with
    wire := s.wire ++ [flitBytes type seq ack k.1 k.2 sop payload]
    owed := s.owed.modify k.1 (fun x => x - k.2)
    creditTurn := c.getD s.creditTurn }

/-- A payload of zeros. -/
def zeroPayload : List Byte := List.replicate 256 0

/-- One flit of an ACTIVE spoke (R313 to R317): an IDLE when 4,095 flits went without; a REPLAY_REQ that is owed; a DATA flit when
slots are ready and fewer than 512 flits are unacknowledged; otherwise an IDLE. The answer tells whether a DATA flit went. -/
def SpokeSt.send (s : SpokeSt) : SpokeSt × Bool :=
  let idle := fun (s : SpokeSt) => ({ s.emit Flit.idle 0 0 zeroPayload with sinceIdle := 0 }, false)
  if 4095 ≤ s.sinceIdle then idle s
  else if s.owesReplay then
    ({ s.emit Flit.replayReq s.expect 0 zeroPayload with owesReplay := false, sinceIdle := s.sinceIdle + 1 }, false)
  else if 512 ≤ s.held.length then idle s
  else
    let f := s.fill 8 []
    if f.2.isEmpty then idle s
    else
      let sop := f.2.zipIdx.foldl (fun a x => a + if x.1.1 then 2 ^ x.2 else 0) 0
      let data := f.2.flatMap (fun x => x.2)
      let payload := data ++ List.replicate (256 - data.length) 0
      let s := f.1.emit Flit.data f.1.txSeq sop payload
      ({ s with held := s.held ++ [{ seq := s.txSeq, sop := sop, payload := payload, resends := 0 }],
                txSeq := (s.txSeq + 1) % 65536, sinceIdle := s.sinceIdle + 1 }, true)

/-- PARAM (R309). -/
abbrev spokeParamState : Nat := 4
/-- HELD (R309). -/
abbrev spokeHeld : Nat := 6

/-- The format version that this module reports (R311). -/
def paramVersion : Nat := 1

/-- A PARAM flit, with this module's identifier, its spoke number and its format version (R311). -/
def Block.sendParam (b : Block) (k : Fin 8) : Block :=
  let s := { b.spoke k.val with wire := [] }
  b.setSpoke k.val (s.emit Flit.param 0 0 (toBytes 256 (Config.paramPayload b.moduleId k.val paramVersion)))

/-- One flit of a spoke, while its port die's clocks run (R307, R403): in PARAM and HELD, where only PARAM flits flow, a PARAM flit (R309, R313). -/
def Block.spokeTick (b : Block) (k : Fin 8) : Block :=
  let s := { b.spoke k.val with wire := [] }
  if !b.lock (16 + k.val / 4) then b
  else if s.state = spokeParamState ∨ s.state = spokeHeld then b.sendParam k
  else if s.state ≠ spokeActive ∨ !s.started then b
  else
    let r := s.send
    let b := b.setSpoke k.val r.1
    if r.2 then b.count (.spoke k) Reg.LLY_FLITS_TX 1 else b

/-! ## Reception -/

/-- An acknowledgement of `a` releases held flits (R318); one that names a flit not yet sent is ignored. -/
def SpokeSt.acked (s : SpokeSt) (a : Nat) : SpokeSt :=
  if (a + 65536 - s.txSeq) % 65536 < 2 ^ 15 then s
  else { s with held := s.held.filter (fun f => decide (2 ^ 15 ≤ (a + 65536 - f.seq) % 65536)) }

/-- Credits returned in a header add to the channel named (R325). -/
def SpokeSt.credited (s : SpokeSt) (vc n : Nat) : SpokeSt :=
  if vc < 6 then { s with credit := s.credit.modify vc (fun c => c + n) } else s

/-- One slot of an accepted flit (R324), and the packet it completes. -/
def slotIn (k : Fin 8) (now : Nat) (s : SpokeSt) (sop : Bool) (slot : List Byte) : SpokeSt × Option Packet :=
  let whole := fun (l : List Byte) =>
    let p := Packet.ofHeader (rdLE l 0 16) (l.drop 16) (some k) now
    { p with data := if carriesData p.opcode then p.data.take p.length else [] }
  let next := fun (q : PartPkt) => ({ bytes := q.bytes ++ slot, left := q.left - 1 } : PartPkt)
  if sop then
    let p := Packet.ofHeader (rdLE slot 0 16) [] (some k) now
    if p.cls = 0 then
      if p.slots ≤ 1 then ({ s with partCtl := none }, some (whole slot))
      else ({ s with partCtl := some ⟨slot, 1⟩ }, none)
    else if p.slots ≤ 1 then ({ s with partCtl := none }, some (whole slot))
    else ({ s with partCtl := none, part := some ⟨slot, p.slots - 1⟩ }, none)
  else match s.partCtl with
    | some q => ({ s with partCtl := none }, some (whole (next q).bytes))
    | none => match s.part with
      | none => (s, none)
      | some q =>
        if q.left ≤ 1 then ({ s with part := none }, some (whole (next q).bytes)) else ({ s with part := some (next q) }, none)

/-- Every slot of an accepted flit. -/
def slotsIn (k : Fin 8) (now sop : Nat) (payload : List Byte) (s : SpokeSt) : SpokeSt × List Packet :=
  (List.range 8).foldl (fun (st : SpokeSt × List Packet) i =>
    let r := slotIn k now st.1 (bit sop i) ((payload.drop (32 * i)).take 32)
    (r.1, st.2 ++ r.2.toList)) (s, [])

/-- A flit arrives (R314, R317, R318, R325). DESIGN CHOICE (notes/assumptions/47.md). -/
def flitReceive (k : Fin 8) (flit : List Byte) (b : Block) : Block :=
  let s := b.spoke k.val
  if s.state ≠ spokeActive ∨ !s.started ∨ flit.length ≠ 272 ∨ !b.lock (16 + k.val / 4) then b
  else
    let f := fecDecode flit
    let b := if f.2 = 0 then b else b.count (.spoke k) Reg.LLY_FEC_CORR f.2
    if !flitGood f.1 then b.count (.spoke k) Reg.LLY_CRC_ERR 1
    else
      let h := rdLE f.1 0 8
      let s := ({ s with lastGood := b.now }.acked (field h 43 28)).credited (field h 27 25) (field h 24 17)
      if field h 63 60 = Flit.replayReq then b.setSpoke k.val { s with wanted := some (field h 59 44) }
      else if field h 63 60 = Flit.data then
        let d := (field h 59 44 + 65536 - s.expect) % 65536
        if d = 0 then
          let r := slotsIn k b.now (field h 16 9) ((f.1.drop 8).take 256) { s with expect := (s.expect + 1) % 65536 }
          let b := (b.setSpoke k.val r.1).count (.spoke k) Reg.LLY_FLITS_RX 1
          { b with lly := { b.lly with arrivals := b.lly.arrivals ++ r.2 } }
        else if d < 2 ^ 15 then
          let recent := match s.lastReq with
            | some t => decide (b.now < t + 1000)
            | none => false
          b.setSpoke k.val (if recent then s else { s with owesReplay := true, lastReq := some b.now })
        else (b.setSpoke k.val s).count (.spoke k) Reg.LLY_DUP 1
      else b.setSpoke k.val s

/-- FLIT_RECEIVE (R314, R317). -/
def execFlitReceive (k : Fin 8) (flit : List Byte) (s : State) : Host.Outcome State Fault Refusal := s.onBlock (flitReceive k flit)

/-- Does a spoke hold the flit with a sequence number? -/
def SpokeSt.holds (s : SpokeSt) (n : Nat) : Bool := s.held.any (fun f => f.seq == n)

/-- Answer the replay request received (R319): every held flit from the one named is sent again, before any new one. A request for
a flit that is not held takes the link down instead (R320). An IDLE goes first where the flits would pass 4,096 without one (R315). -/
def replayReq (k : Fin 8) (b : Block) : Block :=
  let s := b.spoke k.val
  match s.wanted with
  | none => b
  | some n =>
    if s.state ≠ spokeActive ∨ !s.holds n then b
    else
      let again := fun (f : HeldFlit) => decide ((f.seq + 65536 - n) % 65536 < 2 ^ 15)
      let m := (s.held.filter again).length
      let s := { s with wire := [] }
      let s := if 4095 < s.sinceIdle + m then { s.emit Flit.idle 0 0 zeroPayload with sinceIdle := 0 } else s
      let s := (s.held.filter again).foldl (fun x f => x.emit Flit.data f.seq f.sop f.payload) s
      let s := { s with wanted := none, held := s.held.map (fun f => if again f then { f with resends := f.resends + 1 } else f),
                        sinceIdle := s.sinceIdle + m }
      ((b.setSpoke k.val s).count (.spoke k) Reg.LLY_REPLAYS 1).count (.spoke k) Reg.LLY_FLITS_TX m

/-- REPLAY_REQ (R319). -/
def execReplayReq (k : Fin 8) (s : State) : Host.Outcome State Fault Refusal := s.onBlock (replayReq k)

end Sys2Proof.Machine
end

