-- ==== Sys2Proof/Machine/Lly.lean ====
section
/-! DEFINITION. Spokes (R309 to R321), remote requests and their responses (R326), routing (R331 to R333), membership and the fence
(R334 to R340), the LLY pages (R341, R342). -/

namespace Sys2Proof.Machine

open Sys2Proof

/-! ## Spoke states -/

/-- The STAT word of a spoke's page. -/
def SpokeSt.stat (s : SpokeSt) : Nat :=
  let known := decide (4 ≤ s.state)
  s.state % 8 * 2 ^ 29 + b2n s.reversed * 2 ^ 23 + (if known then s.partnerSpoke % 8 else 0) * 2 ^ 20 +
    s.polarity % 256 * 2 ^ 12 + (if known then s.partner % 4096 else 0)

/-- Set a spoke and what its STAT shows. -/
def Block.putSpoke (b : Block) (k : Fin 8) (s : SpokeSt) : Block := (b.setSpoke k.val s).wrN (.spoke k) Reg.STAT s.stat

/-- ENABLE of a spoke. -/
def Block.spokeOn (b : Block) (k : Fin 8) : Bool := wbit (b.rd (.spoke k) Reg.LLY_SPOKE_CFG) 31

/-- An enabled spoke with a valid identifier leaves DOWN, after the 1 s that follow a failed training (R309, R310, R312). -/
def spokeDetect (k : Fin 8) (b : Block) : Block :=
  let s := b.spoke k.val
  if s.state = 0 ∧ b.spokeOn k ∧ wbit (b.rd .llyMod Reg.LLY_MODULE_ID) 31 ∧ s.retryAt ≤ b.now then
    b.putSpoke k { s with state := 1, detectAt := b.now }
  else b

/-- SPOKE_DETECT (R309). -/
def execSpokeDetect (k : Fin 8) (s : State) : Host.Outcome State Fault Refusal := s.onBlock (spokeDetect k)

/-- DETECT leaves for EQUALISE when all eight lanes see signal. -/
def spokeEqualise (k : Fin 8) (b : Block) : Block :=
  let s := b.spoke k.val
  if s.state = 1 then b.putSpoke k { s with state := 2 } else b

/-- SPOKE_EQUALISE (R309). -/
def execSpokeEqualise (k : Fin 8) (s : State) : Host.Outcome State Fault Refusal := s.onBlock (spokeEqualise k)

/-- EQUALISE leaves for ALIGN once every lane meets its error target; ALIGN leaves for PARAM once polarity and lane order are found and flit
boundaries lock, and the first PARAM flit goes out (R308, R309, R311). -/
def spokeAlign (k : Fin 8) (polarity : Byte) (reversed : Bool) (b : Block) : Block :=
  let s := b.spoke k.val
  if s.state = 2 then b.putSpoke k { s with state := 3 }
  else if s.state = 3 then
    (b.putSpoke k { s with state := spokeParamState, polarity := polarity.toNat, reversed := reversed }).sendParam k
  else b

/-- SPOKE_ALIGN (R308, R309, R311). -/
def execSpokeAlign (k : Fin 8) (polarity : Byte) (reversed : Bool) (s : State) : Host.Outcome State Fault Refusal :=
  s.onBlock (spokeAlign k polarity reversed)

/-- The exchange of PARAM flits: the partner's identity and the round trip; ACTIVE, or HELD where the partner bears this module's
own identifier or another format version (R311). -/
def spokeParam (k : Fin 8) (partner : Fin 4096) (partnerSpoke : Fin 8) (version rtt : Nat) (b : Block) : Block :=
  let s := b.spoke k.val
  if s.state ≠ spokeParamState then b
  else
    let s := { s with partner := partner.val, partnerSpoke := partnerSpoke.val, ownId := b.moduleId, started := false }
    let b := b.wrN (.spoke k) Reg.LLY_RTT (rtt % 65536)
    if partner.val = b.moduleId ∨ version ≠ 1 then
      (b.putSpoke k { s with state := spokeHeld }).post Ev.LLY_ID_CONFLICT (.spoke k) partner.val
    else b.putSpoke k { s with state := spokeActive, lastGood := b.now }

/-- SPOKE_PARAM (R311). -/
def execSpokeParam (k : Fin 8) (partner : Fin 4096) (partnerSpoke : Fin 8) (version rtt : Nat) (s : State) :
    Host.Outcome State Fault Refusal := s.onBlock (spokeParam k partner partnerSpoke version rtt)

/-! ## Link-state records (R335) -/

/-- The record a module holds for an identifier. -/
def Block.linkRecord (b : Block) (m : Nat) : List Byte := Sparse.get (fun _ => []) b.lly.records m

/-- Store a record; the reachable set is due to be recomputed. -/
def Block.storeRecord (b : Block) (m : Nat) (l : List Byte) : Block :=
  { b with lly := { b.lly with records := Sparse.put (fun _ => []) b.lly.records m l, reachDue := true } }

/-- Send the record of an originator to the partner of a spoke. -/
def Block.sendRecord (b : Block) (k : Fin 8) (m : Nat) : Block :=
  let l := b.linkRecord m
  let p := b.packet (b.spoke k.val).partner 0 Op.linkState l.length 0 0 l
  b.enqueue k { p with src := m }

/-- Send the record of an originator over every ACTIVE spoke but one. -/
def Block.floodRecord (b : Block) (m : Nat) (but : Option (Fin 8)) : Block :=
  ((List.finRange 8).filter (fun k => b.active k.val && decide (some k ≠ but))).foldl (fun x k => x.sendRecord k m) b

/-- This module's own record under a sequence number. -/
def Block.ownRecord (b : Block) (seq : Nat) : List Byte :=
  toBytes 8 seq ++
    (List.range 8).flatMap (fun k => let s := b.spoke k
      toBytes 2 (if s.state = spokeActive then 2 ^ 15 + s.partner % 4096 else 0)) ++
    toBytes 4 (b.rdN .llyMod Reg.LLY_EPOCH) ++ List.replicate 4 0

/-- A spoke entered or left ACTIVE: SEQ rises, the own record is stored and sent on every ACTIVE spoke. -/
def Block.originate (b : Block) : Block :=
  let seq := b.rd64 .llyMod Reg.LLY_LS_SEQ + 1
  let b := b.wr64 .llyMod Reg.LLY_LS_SEQ seq
  (b.storeRecord b.moduleId (b.ownRecord seq)).floodRecord b.moduleId none

/-- Entry to ACTIVE (R316, R320, R335): sequence numbers start from 0, every record held goes over the spoke. -/
def llyLinkUp (k : Fin 8) (b : Block) : Block :=
  let s := b.spoke k.val
  if s.state ≠ spokeActive ∨ s.started then b
  else
    let b := b.setSpoke k.val { SpokeSt.down with
      state := s.state, detectAt := s.detectAt, retryAt := s.retryAt, polarity := s.polarity, reversed := s.reversed,
      partner := s.partner, partnerSpoke := s.partnerSpoke, ownId := s.ownId, started := true, lastGood := b.now, outq := s.outq }
    let b := b.originate
    let b := (b.lly.records.filter (fun (e : Nat × List Byte) => decide (e.1 ≠ b.moduleId))).foldl
      (fun x e => x.sendRecord k e.1) b
    b.post Ev.LLY_LINK_UP (.spoke k) 0

/-- LLY_LINK_UP (R320). -/
def execLlyLinkUp (k : Fin 8) (s : State) : Host.Outcome State Fault Refusal := s.onBlock (llyLinkUp k)

/-- A HELD spoke whose partner shows another identity, or whose own has changed, trains again (R309). -/
def heldRetry (k : Fin 8) (partner : Fin 4096) (b : Block) : Block :=
  let s := b.spoke k.val
  if s.state = spokeHeld ∧ (partner.val ≠ s.partner ∨ b.moduleId ≠ s.ownId) then b.putSpoke k { s with state := 1, detectAt := b.now }
  else b

/-- HELD_RETRY (R309). -/
def execHeldRetry (k : Fin 8) (partner : Fin 4096) (s : State) : Host.Outcome State Fault Refusal :=
  s.onBlock (heldRetry k partner)

/-- MCLK cycles in a number of microseconds. DESIGN CHOICE (notes/assumptions/10.md). -/
def usToMclk (n : Nat) : Nat := 500 * n

/-- Training that has not reached ACTIVE after 100 ms ends (R310). -/
def llyTrainFail (k : Fin 8) (b : Block) : Block :=
  let s := b.spoke k.val
  if 1 ≤ s.state ∧ s.state ≤ 4 ∧ s.detectAt + usToMclk 100000 ≤ b.now then
    (b.putSpoke k { s with state := 0, retryAt := b.now + usToMclk 1000000 }).post Ev.LLY_TRAIN_FAIL (.spoke k) 0
  else b

/-- LLY_TRAIN_FAIL (R310). -/
def execLlyTrainFail (k : Fin 8) (s : State) : Host.Outcome State Fault Refusal := s.onBlock (llyTrainFail k)

/-! ## Remote requests that fail -/

/-- A remote request or signal of a task failed: a running task faults; one whose work is done completes FAULTED (R326). -/
def Block.remoteFault (b : Block) (o : ReqOwner) (code : Nat) : Block :=
  match o with
  | .semPage u => b.post code (.sem u) 0
  | .fetch c n id => b.fetchRefused c n id code
  | .task u n => match b.bySerial u n with
    | none => b
    | some t => match t.phase with
      | .admitted => b
      | .running => b.faultTask u n code
      | .finished => if t.faultCode.isSome then b else b.mapTask u n (fun x => { x with faultCode := some code })

/-- Take a request off the list of those in flight. -/
def Block.dropRequest (b : Block) (tag : Nat) : Block :=
  { b with lly := { b.lly with requests := b.lly.requests.filter (fun q => q.tag != tag) } }

/-- The request in flight that a tag and a module name. -/
def Block.request? (b : Block) (tag m : Nat) (f : Nat → Bool) : Option RemoteReq :=
  b.lly.requests.find? (fun q => q.tag == tag && q.dst == m && f q.opcode)

/-- A packet of this module's own found no spoke after all: a task's request faults it (R326, R331). -/
def Block.unroutable (b : Block) (p : Packet) : Block :=
  if p.inSpoke.isSome ∨ p.src ≠ b.moduleId then b
  else match b.request? p.tag p.dst (fun o => o == p.opcode) with
    | some q => match q.owner with
      | .semPage _ => b
      | o => (b.dropRequest q.tag).remoteFault o Ev.FABRIC_UNREACHABLE
    | none => b

/-- Route a packet on its way, or drop it (R331). -/
def Block.forward (b : Block) (p : Packet) : Block :=
  match b.outSpoke p.dst with
  | some k => b.enqueue k p
  | none => (b.count .llyMod Reg.LLY_NO_ROUTE 1).unroutable p

/-! ## Link-down (R320, R321) -/

/-- Is a packet one of the peloton's (R323)? -/
def isPeloton (p : Packet) : Bool := p.opcode / 16 == 1

/-- A packet that waited for a spoke that went down: routed again (R321), but for one of the peloton's, which no route table carries (R343) and
which is dropped and counted (R355). DEDUCED (notes/assumptions/32.md). -/
def Block.rehome (b : Block) (p : Packet) : Block := if isPeloton p then b.count .pel Reg.PEL_DROPS 1 else b.forward p

/-- The link of an ACTIVE spoke goes down: its replay buffer is lost, packets still waiting are routed again, training restarts. -/
def Block.linkDownAt (b : Block) (k : Fin 8) : Block :=
  let s := b.spoke k.val
  let lost := (s.held.map (fun f => popCount 8 f.sop)).sum
  let q := s.outq
  let b := b.putSpoke k { SpokeSt.down with state := if b.spokeOn k then 1 else 0, detectAt := b.now, polarity := s.polarity,
                                            reversed := s.reversed }
  let b := (b.count (.spoke k) Reg.LLY_LOST lost).count (.spoke k) Reg.LLY_DOWNS 1
  let b := q.foldl (fun x p => x.rehome p) b
  b.originate.post Ev.LLY_LINK_DOWN (.spoke k) 0

/-- Has an ACTIVE spoke a reason to go down (R320)? -/
def Block.linkLost (b : Block) (k : Fin 8) : Bool :=
  let s := b.spoke k.val
  s.state == spokeActive &&
    (!b.spokeOn k || decide (s.lastGood + usToMclk (wfield (b.rd .llyMod Reg.LLY_CFG) 15 0) ≤ b.now) ||
      (match s.wanted with
        | some n => !s.holds n
        | none => false) ||
      s.held.any (fun f => decide (8 ≤ f.resends)))

/-- The link goes down where R320 says so. -/
def llyLinkDown (k : Fin 8) (b : Block) : Block := if b.linkLost k then b.linkDownAt k else b

/-- LLY_LINK_DOWN (R320). -/
def execLlyLinkDown (k : Fin 8) (s : State) : Host.Outcome State Fault Refusal := s.onBlock (llyLinkDown k)

/-- The effect of a write of LLY_SPOKE_CFG: clearing ENABLE takes the spoke to DOWN (R310, R342). -/
def Block.spokeCfgWrite (b : Block) (k : Fin 8) (v : Word) : Block :=
  let b := b.writeFields (.spoke k) Reg.LLY_SPOKE_CFG v
  let s := b.spoke k.val
  if b.spokeOn k ∨ s.state = 0 then b
  else if s.state = spokeActive then b.linkDownAt k
  else b.putSpoke k { s with state := 0, retryAt := b.now }

/-- Write LLY_SPOKE_CFG. -/
def llySpokeCfgWrite (o : Origin) (k : Fin 8) (v : Word) (b : Block) : Block :=
  b.gate o (.spoke k) Reg.LLY_SPOKE_CFG .change (fun x => x.spokeCfgWrite k v)

/-- LLY_SPOKE_CFG_WRITE (R310). -/
def execLlySpokeCfgWrite (o : Origin) (k : Fin 8) (v : Word) (s : State) : Host.Outcome State Fault Refusal :=
  s.onWrite o (llySpokeCfgWrite o k v)

/-- Write LLY_MODULE_ID: ignored while any spoke is not DOWN (R312). -/
def llyModuleIdWrite (o : Origin) (v : Word) (b : Block) : Block :=
  b.gate o .llyMod Reg.LLY_MODULE_ID .change (fun x =>
    if (List.range 8).all (fun k => (x.spoke k).state == 0) then x.writeFields .llyMod Reg.LLY_MODULE_ID v else x)

/-- LLY_MODULE_ID_WRITE (R312). -/
def execLlyModuleIdWrite (o : Origin) (v : Word) (s : State) : Host.Outcome State Fault Refusal :=
  s.onWrite o (llyModuleIdWrite o v)

/-! ## Packets that arrive -/

/-- Count a packet that the fence discards or holds back (R339). -/
def Block.fencedDrop (b : Block) : Block := b.count .llyMod Reg.LLY_FENCED_DROPS 1

/-- Send a packet whose failure to leave needs no more than its count: the fence counts it, R331 counts it. -/
def Block.sendOr (b : Block) (p : Packet) : Block :=
  let r := b.send p
  match r.1 with
  | .fenced => r.2.fencedDrop
  | _ => r.2

/-- A packet leaves the receive buffer: its slots are owed to the partner as credit (R325). -/
def Block.freeSlots (b : Block) (p : Packet) : Block :=
  match p.inSpoke with
  | none => b
  | some k =>
    let s := b.spoke k.val
    if s.state ≠ spokeActive then b else b.setSpoke k.val { s with owed := s.owed.modify (vcOf p) (fun c => c + p.slots) }

/-- Take the packet that arrived first: discard it, deliver it, or send it on (R323, R331, R333, R339). -/
def packetRoute (b : Block) : Block :=
  match b.lly.arrivals with
  | [] => b
  | p :: rest =>
    let b := ({ b with lly := { b.lly with arrivals := rest } }).freeSlots p
    if !opKnown p.opcode ∨ p.cls = 3 ∨ 512 < p.length then b.count .llyMod Reg.LLY_BAD_PKT 1
    else if p.dst = b.moduleId then
      if b.fenced ∧ p.opcode ≠ Op.linkState then b.fencedDrop
      else { b with lly := { b.lly with inbox := b.lly.inbox ++ [p] } }
    else if p.ttl = 0 then b.count .llyMod Reg.LLY_TTL_DROP 1
    else b.forward { p with ttl := p.ttl - 1 }

/-- PACKET_ROUTE (R331). -/
def execPacketRoute (s : State) : Host.Outcome State Fault Refusal := s.onBlock packetRoute

/-- Take the first packet delivered that a test admits. -/
def Block.takePacket (b : Block) (f : Packet → Bool) : Option (Packet × Block) :=
  match b.lly.inbox.zipIdx.find? (fun x => f x.1) with
  | some (p, i) => some (p, { b with lly := { b.lly with inbox := b.lly.inbox.eraseIdx i } })
  | none => none

/-- What a remote access meets at this module: served, to be tried again, or refused with a code. A read lies inside the
allocation that holds the shard (R103), a write inside a DATA allocation (R372). DESIGN CHOICE (notes/assumptions/14.md). -/
def Block.remoteAccess (b : Block) (a n : Nat) (write : Bool) : Ready × Block :=
  match b.within a n with
  | none => (.fault Ev.DESC_RANGE, b)
  | some v =>
    if (write ∧ v.kind ≠ .data) ∨ (!write ∧ !b.shardFits a n) then (.fault Ev.DESC_RANGE, b)
    else match b.probe a n with
      | .ok => (.ok, b)
      | .unmapped => (.fault Ev.DESC_RANGE, b)
      | .moving _ => (.wait, b)
      | .farDown => (.fault Ev.FAR_UNREACHABLE, b)
      | .nonResident p => if b.hbm.farDown then (.fault Ev.FAR_UNREACHABLE, b) else (.wait, b.requestPageIn p .demand none)

/-- The response to a request: its tag comes back, and the code of a refusal in ADDR, which no response uses otherwise. DESIGN
CHOICE (notes/assumptions/14.md): the manual names the refusal and not its form. -/
def Block.respond (b : Block) (p : Packet) (opcode code : Nat) (data : List Byte) : Block :=
  b.sendOr (b.packet p.src 2 opcode data.length p.tag code data)

/-- Which 64-bit words of a range are poisoned, as bytes of a bitmap counted from the word of the first byte (R226). -/
def poisonMap (a n : Nat) (bad : List Nat) : List Byte :=
  toBytes (ceilDiv (ceilDiv (a % 8 + n) 8) 8) ((bad.map (fun w => 2 ^ (w / 8 - a / 8))).eraseDups.sum)

/-- The response to a read: poison travels with the data (R226), in a READ_RSP of its own ahead of it that bears the poison's code in ADDR and the
bitmap of the words. DESIGN CHOICE (notes/assumptions/14.md). -/
def Block.readAnswer (b : Block) (p : Packet) : Block :=
  let bad := b.poisoned p.addr p.length
  let b := match bad.head? with
    | some a => b.respond p Op.readRsp (poisonCode a) (poisonMap p.addr p.length bad)
    | none => b
  ((b.lookup 16 p.addr).touchHbm p.addr p.length).respond p Op.readRsp 0 (b.bytes p.addr p.length)

/-- Serve the first READ_REQ delivered. `errs` names words that the read found in error (R226, R291). -/
def readReq (errs : Errs) (b : Block) : Block :=
  match b.takePacket (fun p => p.opcode == Op.readReq) with
  | none => b
  | some (p, x) =>
    let r := b.remoteAccess p.addr p.length false
    match r.1 with
    | .wait => r.2
    | .fault code => x.respond p Op.readRsp code []
    | .ok => (x.foundIn errs (fun a => decide (p.addr / 8 ≤ a / 8) && decide (a / 8 ≤ (p.addr + p.length - 1) / 8))).readAnswer p

/-- READ_REQ (R326). -/
def execReadReq (errs : Errs) (s : State) : Host.Outcome State Fault Refusal := s.onBlock (readReq errs)

/-- Serve the first WRITE delivered. -/
def writePkt (b : Block) : Block :=
  match b.takePacket (fun p => p.opcode == Op.write) with
  | none => b
  | some (p, x) =>
    let r := b.remoteAccess p.addr p.length true
    match r.1 with
    | .wait => r.2
    | .fault code => x.respond p Op.writeAck code []
    | .ok => (x.store p.addr (p.data.take p.length)).respond p Op.writeAck 0 []

/-- WRITE (R326, R372). -/
def execWrite (s : State) : Host.Outcome State Fault Refusal := s.onBlock writePkt

/-- Take the first READ_RSP delivered: the data of a read, a refusal, or the poison of data that follow (R226). DESIGN CHOICE (notes/assumptions/14.md). -/
def readRsp (b : Block) : Block :=
  match b.takePacket (fun p => p.opcode == Op.readRsp) with
  | none => b
  | some (p, b) => match b.request? p.tag p.src (fun o => o == Op.readReq) with
    | none => b
    | some q =>
      if p.addr = Ev.SRAM_UNCORR ∨ p.addr = Ev.HBM_UNCORR then
        let bad := (bitsOf 72 (rdLE p.data 0 9)).map (fun i => remoteKey q.dst q.addr / 8 + i)
        { b with lly := { b.lly with remoteBad := bad.foldl (fun m w => Sparse.put (fun _ => false) m w true) b.lly.remoteBad } }
      else
        let b := b.dropRequest q.tag
        if p.addr ≠ 0 then b.remoteFault q.owner p.addr
        else { b with lly := { b.lly with
          remote := Sparse.putList (fun _ => 0) b.lly.remote (remoteKey q.dst q.addr) (p.data.take q.length) } }

/-- READ_RSP (R326). -/
def execReadRsp (s : State) : Host.Outcome State Fault Refusal := s.onBlock readRsp

/-- Take the first WRITE_ACK delivered. DESIGN CHOICE (notes/assumptions/14.md). -/
def writeAck (b : Block) : Block :=
  match b.takePacket (fun p => p.opcode == Op.writeAck) with
  | none => b
  | some (p, b) => match b.request? p.tag p.src (fun o => o == Op.write) with
    | none => b
    | some q =>
      let b := b.dropRequest q.tag
      if p.addr ≠ 0 then b.remoteFault q.owner p.addr else b

/-- WRITE_ACK (R326). -/
def execWriteAck (s : State) : Host.Outcome State Fault Refusal := s.onBlock writeAck

/-- Apply the first SEM_SIGNAL delivered and answer it. PRESUMED (notes/assumptions/32.md). -/
def semSignal (b : Block) : Block :=
  match b.takePacket (fun p => p.opcode == Op.semSignal) with
  | none => b
  | some (p, b) =>
    let w := BitVec.ofNat 32 (rdLE p.data 0 4)
    let c := wfield w 12 6
    if h : c < 128 then
      if wbit w 31 ∧ b.coreOn ⟨c, h⟩ then
        let b := b.addSem c (wfield w 5 0) (rdLE p.data 4 4)
        b.sendOr (b.packet p.src 0 Op.semAck 0 p.tag 0 [])
      else b
    else b

/-- SEM_SIGNAL (R326). -/
def execSemSignal (s : State) : Host.Outcome State Fault Refusal := s.onBlock semSignal

/-- Take the first SEM_ACK delivered. -/
def semAck (b : Block) : Block :=
  match b.takePacket (fun p => p.opcode == Op.semAck) with
  | none => b
  | some (p, b) => match b.request? p.tag p.src (fun o => o == Op.semSignal) with
    | none => b
    | some q => b.dropRequest q.tag

/-- SEM_ACK (R326). -/
def execSemAck (s : State) : Host.Outcome State Fault Refusal := s.onBlock semAck

/-- A request without its response after LLY_RSP_TIMEOUT (R326). -/
def fabricTimeout (i : Nat) (b : Block) : Block :=
  match b.lly.requests[i]? with
  | none => b
  | some q =>
    if b.now < q.sentAt + usToMclk (b.rdN .llyMod Reg.LLY_RSP_TIMEOUT) then b
    else (b.dropRequest q.tag).remoteFault q.owner Ev.FABRIC_TIMEOUT

/-- FABRIC_TIMEOUT (R326). -/
def execFabricTimeout (i : Nat) (s : State) : Host.Outcome State Fault Refusal := s.onBlock (fabricTimeout i)

/-- Take the first LINK_STATE delivered: a newer record is stored and goes on over every other ACTIVE spoke (R335). -/
def linkState (b : Block) : Block :=
  match b.takePacket (fun p => p.opcode == Op.linkState) with
  | none => b
  | some (p, b) =>
    let held := b.linkRecord p.src
    if held.isEmpty ∨ rdLE held 0 8 < rdLE p.data 0 8 then
      (b.storeRecord p.src (p.data.take 32)).floodRecord p.src p.inSpoke
    else b

/-- LINK_STATE (R335). -/
def execLinkState (s : State) : Host.Outcome State Fault Refusal := s.onBlock linkState

/-! ## Membership, reachability, the fence (R334 to R340) -/

/-- Is a module a member (R334)? -/
def Block.isMember (b : Block) (m : Nat) : Bool := wbit (b.rd .llyMod (Reg.LLY_MEMBER (m % 4096 / 32))) (m % 32)

/-- The members, ascending. -/
def Block.members (b : Block) : List Nat :=
  (List.range 128).flatMap (fun w => (bitsOf 32 (b.rdN .llyMod (Reg.LLY_MEMBER w))).map (fun n => 32 * w + n))

/-- Does a record report a link to a partner UP? -/
def recordUp (l : List Byte) (m : Nat) : Bool :=
  !l.isEmpty && (List.range 8).any (fun k => rdLE l (8 + 2 * k) 2 / 2 ^ 15 == 1 && rdLE l (8 + 2 * k) 2 % 4096 == m)

/-- Add the members that a link reported UP by both ends joins to the set, one round. -/
def Block.reachRound (b : Block) (cand set : List Nat) : List Nat :=
  set ++ cand.filter (fun m => !set.contains m && set.any (fun n => recordUp (b.linkRecord n) m && recordUp (b.linkRecord m) n))

/-- The reachable set (R336). -/
def Block.reachable (b : Block) : List Nat :=
  let cand := b.members.filter (fun m => !(b.linkRecord m).isEmpty)
  cand.foldl (fun s _ => b.reachRound cand s) [b.moduleId]

/-- Q (R337). -/
def Block.quorum (b : Block) (n : Nat) : Nat :=
  let q := b.rdN .llyMod Reg.LLY_QUORUM % 8192
  if q = 0 then n / 2 + 1 else min q n

/-- Is the quorum evaluated (R337)? -/
def Block.evaluates (b : Block) : Bool :=
  wbit (b.rd .llyMod Reg.LLY_CFG) 31 && b.isMember b.moduleId && b.isMember (b.rdN .llyMod Reg.LLY_TIEBREAK % 4096)

/-- Does a reachable set fence the module (R338)? -/
def Block.wouldFence (b : Block) (set : List Nat) : Bool :=
  let n := b.members.length
  let r := set.length
  b.evaluates && decide (r < b.quorum n) &&
    !(decide (n = 2 * r) && set.contains (b.rdN .llyMod Reg.LLY_TIEBREAK % 4096))

/-- Show the fence and the settle period in LLY_MEMBER_STAT. -/
def Block.showFence (b : Block) : Block :=
  (b.wrBit .llyMod Reg.LLY_MEMBER_STAT 31 b.lly.fenced).wrBit .llyMod Reg.LLY_MEMBER_STAT 30 b.lly.settleEnd.isSome

/-- Packets of this module's own that wait for a spoke do not leave a fenced module (R339): a task's read or write faults.
PRESUMED (notes/assumptions/32.md). -/
def Block.fenceQueues (b : Block) : Block :=
  (List.finRange 8).foldl (fun x k =>
    let s := x.spoke k.val
    let own := fun (p : Packet) => p.inSpoke.isNone && p.opcode != Op.linkState
    let x := x.setSpoke k.val { s with outq := s.outq.filter (fun p => !own p) }
    (s.outq.filter own).foldl (fun y p =>
      let y := y.fencedDrop
      match y.request? p.tag p.dst (fun o => o == p.opcode && (o == Op.readReq || o == Op.write)) with
      | some q => (y.dropRequest q.tag).remoteFault q.owner Ev.FENCED
      | none => y) x) b

/-- Enter the fenced state (R339); the learned step profile becomes invalid (R391). -/
def Block.fence (b : Block) : Block :=
  let old := b.rdN .llyMod Reg.LLY_MEMBER_STAT
  let b := { b with lly := { b.lly with fenced := true, fenceEpoch := b.rd .llyMod Reg.LLY_EPOCH }
                    pwr := { b.pwr with profile := { b.pwr.profile with steps := 0 } } }.showFence
  let b := allUnits.foldl (fun x u => x.wrBit (.sch u) Reg.SCH_RING_CFG 24 false) b
  let b := b.fenceQueues
  (b.logState .fleet .llyMod Reg.LLY_MEMBER_STAT old (b.rdN .llyMod Reg.LLY_MEMBER_STAT)).post Ev.FENCED .llyMod 0

/-- Recompute the reachable set and show it. -/
def Block.showReach (b : Block) : List Nat × Block :=
  let set := b.reachable
  let b := (List.range 128).foldl (fun x w =>
    x.wrN .llyMod (Reg.LLY_REACH w) ((set.filter (fun m => m / 32 == w)).map (fun m => 2 ^ (m % 32))).sum) b
  let b := (b.wrField .llyMod Reg.LLY_MEMBER_STAT 28 16 set.length).wrField .llyMod Reg.LLY_MEMBER_STAT 12 0 b.members.length
  (set, b)

/-- A recomputation after a change of the records, and the quorum it is held against (R336 to R338). -/
def reachRecompute (b : Block) : Block :=
  if !b.lly.reachDue then b
  else
    let r := { b with lly := { b.lly with reachDue := false } }.showReach
    let b := r.2
    if wbit (b.rd .llyMod Reg.LLY_CFG) 31 && !b.evaluates then b.post Ev.LLY_QUORUM_CFG .llyMod 0
    else if b.wouldFence r.1 ∧ !b.lly.fenced ∧ b.lly.settleEnd.isNone then b.fence
    else b

/-- REACH_RECOMPUTE (R336). -/
def execReachRecompute (s : State) : Host.Outcome State Fault Refusal := s.onBlock reachRecompute

/-- The effect of a write of LLY_EPOCH (R340): a settle period starts, or starts again; in a fenced module only once the epoch
differs from the one it fenced with. -/
def Block.epochWrite (b : Block) (v : Word) : Block :=
  let b := b.writeFields .llyMod Reg.LLY_EPOCH v
  if b.lly.fenced ∧ b.lly.settleEnd.isNone ∧ b.rd .llyMod Reg.LLY_EPOCH = b.lly.fenceEpoch then b
  else
    let ms := wfield (b.rd .llyMod Reg.LLY_CFG) 23 16
    { b with lly := { b.lly with settleEnd := some (b.now + usToMclk (1000 * ms)) } }.showFence

/-- Write LLY_EPOCH. -/
def llyEpochWrite (o : Origin) (v : Word) (b : Block) : Block :=
  b.gate o .llyMod Reg.LLY_EPOCH .change (fun x => x.epochWrite v)

/-- LLY_EPOCH_WRITE (R340). -/
def execLlyEpochWrite (o : Origin) (v : Word) (s : State) : Host.Outcome State Fault Refusal := s.onWrite o (llyEpochWrite o v)

/-- The end of the settle period (R340): R338 is evaluated where R337 lets it be, and a module that would not fence leaves the fenced state.
PRESUMED, DEDUCED and DESIGN CHOICE (notes/assumptions/32.md). -/
def settleEnd (b : Block) : Block :=
  match b.lly.settleEnd with
  | none => b
  | some t =>
    if b.now < t then b
    else
      let r := { b with lly := { b.lly with settleEnd := none, reachDue := false } }.showReach
      let b := r.2.showFence
      let b := if wbit (b.rd .llyMod Reg.LLY_CFG) 31 && !b.evaluates then b.post Ev.LLY_QUORUM_CFG .llyMod 0 else b
      if b.wouldFence r.1 then (if b.lly.fenced then b else b.fence)
      else if b.lly.fenced then
        let old := b.rdN .llyMod Reg.LLY_MEMBER_STAT
        let b := { b with lly := { b.lly with fenced := false } }.showFence
        (b.logState .self .llyMod Reg.LLY_MEMBER_STAT old (b.rdN .llyMod Reg.LLY_MEMBER_STAT)).post Ev.FENCE_CLEARED .llyMod 0
      else b

/-- SETTLE_END (R340). -/
def execSettleEnd (s : State) : Host.Outcome State Fault Refusal := s.onBlock settleEnd

/-! ## The route table (R331, R341) -/

/-- Set a route-table entry; its reserved bits are 0. -/
def Block.setRoute (b : Block) (i e : Nat) : Block :=
  let e := field e 15 15 * 2 ^ 15 + field e 7 4 * 2 ^ 4 + field e 2 0
  { b with lly := { b.lly with routes := Sparse.put (fun _ => 0) b.lly.routes (i % 4096) e } }

/-- LLY_RT_DATA reads the entry at LLY_RT_SEL. -/
def Block.showRoute (b : Block) : Block := b.wrN .llyMod Reg.LLY_RT_DATA (b.route (b.rdN .llyMod Reg.LLY_RT_SEL))

/-- Is a bulk load of the route table under way? -/
def Block.rtBusy (b : Block) : Bool := wbit (b.rd .llyMod Reg.LLY_RT_STAT) 31

/-- Write LLY_RT_DATA: the entry at LLY_RT_SEL is written whole; ignored while BUSY. -/
def llyRtDataWrite (o : Origin) (v : Word) (b : Block) : Block :=
  let i := b.rdN .llyMod Reg.LLY_RT_SEL
  b.gate o .llyMod Reg.LLY_RT_DATA (if b.rtBusy then .none else .table i 1) (fun x =>
    if x.rtBusy then x else (x.setRoute i v.toNat).showRoute)

/-- LLY_RT_DATA_WRITE (R331, R341). -/
def execLlyRtDataWrite (o : Origin) (v : Word) (s : State) : Host.Outcome State Fault Refusal :=
  s.onWrite o (llyRtDataWrite o v)

/-- Write LLY_RT_LOAD_CTL: COUNT is stored and START begins a bulk load; ignored while BUSY (R341). -/
def llyRtLoadStart (o : Origin) (v : Word) (b : Block) : Block :=
  b.gate o .llyMod Reg.LLY_RT_LOAD_CTL (if wbit v 31 then .deferred else .change) (fun x =>
    if x.rtBusy then x
    else
      let x := x.writeFields .llyMod Reg.LLY_RT_LOAD_CTL v
      if !wbit v 31 then x
      else if 4096 < x.rdN .llyMod Reg.LLY_RT_SEL + wfield v 12 0 then
        (x.setCode .llyMod Reg.LLY_RT_STAT Ev.DESC_RANGE).post Ev.DESC_RANGE .llyMod 0
      else
        let run : BulkRun := { first := x.rdN .llyMod Reg.LLY_RT_SEL, count := wfield v 12 0,
                               addr := x.rd64 .llyMod Reg.LLY_RT_LOAD_SRC_LO, clear := false, origin := o, done := 0, code := 0 }
        ({ x with lly := { x.lly with bulk := some run } }).wrBit .llyMod Reg.LLY_RT_STAT 31 true)

/-- LLY_RT_LOAD_START (R341). -/
def execLlyRtLoadStart (o : Origin) (v : Word) (s : State) : Host.Outcome State Fault Refusal :=
  s.onWrite o (llyRtLoadStart o v)

/-- The next entry of a bulk load of the route table. -/
def Block.rtLoadOne (b : Block) : Block :=
  match b.lly.bulk with
  | none => b
  | some r =>
    let q := b.bulkOne r 2 (fun x i e => (x.setRoute i e, 0))
    { q.1 with lly := { q.1.lly with bulk := some q.2 } }

/-- The end of a bulk load of the route table: the entries still to come land one after the other. -/
def llyRtLoadDone (b : Block) : Block :=
  match b.lly.bulk with
  | none => b
  | some r =>
    let b := (List.range (r.count - r.done)).foldl (fun x _ => x.rtLoadOne) b
    match b.lly.bulk with
    | none => b
    | some r =>
      let b := { b with lly := { b.lly with bulk := none } }
      let b := (b.wrN .llyMod Reg.LLY_RT_STAT r.code).showRoute
      let b := b.logAppend r.origin LogKind.tableChange (addrOf .llyMod Reg.LLY_RT_LOAD_CTL) r.first r.done
      if r.code = 0 then b else b.post r.code .llyMod 0

/-- LLY_RT_LOAD_DONE (R341). -/
def execLlyRtLoadDone (s : State) : Host.Outcome State Fault Refusal := s.onBlock llyRtLoadDone

/-! ## Counters (R342) -/

/-- Clear the counters of the module LLY page. -/
def llyCntClr (o : Origin) (v : Word) (b : Block) : Block :=
  b.gate o .llyMod Reg.LLY_CNT_CLR .none (fun x =>
    x.clearOn v .llyMod [Reg.LLY_NO_ROUTE, Reg.LLY_TTL_DROP, Reg.LLY_FENCED_DROPS, Reg.LLY_BAD_PKT])

/-- LLY_CNT_CLR (R341). -/
def execLlyCntClr (o : Origin) (v : Word) (s : State) : Host.Outcome State Fault Refusal := s.onWrite o (llyCntClr o v)

/-- Clear the counters of a spoke's page. -/
def llySpokeCntClr (o : Origin) (k : Fin 8) (v : Word) (b : Block) : Block :=
  b.gate o (.spoke k) Reg.LLY_SPOKE_CNT_CLR .none (fun x =>
    x.clearOn v (.spoke k) [Reg.LLY_FLITS_TX, Reg.LLY_FLITS_RX, Reg.LLY_FEC_CORR, Reg.LLY_CRC_ERR, Reg.LLY_REPLAYS, Reg.LLY_DUP,
      Reg.LLY_DOWNS, Reg.LLY_LOST])

/-- LLY_SPOKE_CNT_CLR (R342). -/
def execLlySpokeCntClr (o : Origin) (k : Fin 8) (v : Word) (s : State) : Host.Outcome State Fault Refusal :=
  s.onWrite o (llySpokeCntClr o k v)

end Sys2Proof.Machine
end

