-- ==== Sys2Proof/Machine/Power.lean ====
section
/-! DEFINITION. Cadence, brakes, clocks, heat and ageing (R387 to R415). -/

namespace Sys2Proof.Machine

open Sys2Proof

/-! ## Limits and the brake state (R399, R400) -/

/-- A register's word as it stood at the last grant interval (R388, R415). -/
def Block.eff (b : Block) (p : Page) (off : Nat) : Word := Sparse.get regReset b.pwr.eff (addrOf p off)

/-- The registers that take effect at a grant interval. -/
def effRegs : List (Page × Nat) :=
  [(.pwr, Reg.PWR_LIMIT), (.pwr, Reg.PWR_WINDOW), (.pwr, Reg.PWR_CAD_CFG), (.pwr, Reg.PWR_FLOOR), (.pwr, Reg.PWR_FAST)] ++
    (List.range 16).map (fun t => (.clk, Reg.CLK_TILE t))

/-- Take the registers that take effect at a grant interval. -/
def Block.takeEff (b : Block) : Block :=
  { b with pwr := { b.pwr with eff := effRegs.foldl (fun m r => Sparse.put regReset m (addrOf r.1 r.2) (b.rd r.1 r.2)) b.pwr.eff } }

/-- TOP of a tile (R413). -/
def Block.topOf (b : Block) (t : Nat) : Nat := wfield (b.rd .clk (Reg.CLK_TILE t)) 28 24

/-- The limit of the current brake while it is in force, for the input power or for the input voltage (R401, R456). -/
def Block.curLimit (b : Block) : Option Nat :=
  match b.pwr.cur with
  | some m => some m
  | none => if b.pins.inputLow then some (wfield (b.eff .pwr Reg.PWR_FAST) 4 0) else none

/-- A limit kept by tile, 0 where none is in force. -/
def limitAt (m : Sparse Nat) (t : Nat) : Option Nat :=
  let v := Sparse.get (fun _ => 0) m t
  if v = 0 then none else some v

/-- The brake limits in force on a tile, by cause: WINDOW, CURRENT, THERMAL, EXTERNAL. -/
def Block.brakeLimits (b : Block) (t : Nat) : List (Option Nat) :=
  [limitAt b.pwr.window t, b.curLimit, limitAt b.pwr.therm t, b.pwr.ext]

/-- The lowest limit in force on a tile (R400). -/
def Block.lowestLimit (b : Block) (t : Nat) : Nat :=
  ((b.brakeLimits t ++ [b.pwr.draft]).filterMap id).foldl min
    (min (b.topOf t) (max 8 (wfield (b.eff .clk (Reg.CLK_TILE t)) 20 16)))

/-- The brake state of the module: one bit for each cause (R399). -/
def Block.brakeState (b : Block) : Nat :=
  let on := fun (i : Nat) => (List.range 16).any (fun t => ((b.brakeLimits t).getD i none).isSome)
  b2n (on 0 || !b.pwr.windowStacks.isEmpty) + 2 * b2n (on 1) + 4 * b2n (on 2 || !b.pwr.hotStacks.isEmpty) + 8 * b2n (on 3)

/-- Show the throttle state on MOD_AUX while the output role holds the pin (R402, R460, R461).
DEDUCED (notes/assumptions/48.md). -/
def Block.driveAux (b : Block) : Block :=
  let cfg := b.rd .mod Reg.MOD_AUX_CFG
  b.wrBit .mod Reg.MOD_SIDEBAND 2 (wbit cfg 1 && !wbit cfg 0 && decide (wfield (b.rd .pwr Reg.PWR_BRAKE_STAT) 3 0 ≠ 0))

/-- Show the limits and the brake state after a change, with the event of the state's coming or going (R400). -/
def Block.applyBrakes (b : Block) : Block :=
  let old := wfield (b.rd .pwr Reg.PWR_BRAKE_STAT) 3 0
  let b := (List.range 16).foldl (fun x t => x.wrField .clk (Reg.CLK_TILE t) 12 8 (x.lowestLimit t)) b
  let state := b.brakeState
  let tiles := ((List.range 16).map (fun t => if (b.brakeLimits t).any (fun l => l.isSome) then 2 ^ t else 0)).sum
  let stks := ((List.range 20).map (fun s =>
    if b.pwr.windowStacks.contains s || (limitAt b.pwr.hotStacks s).isSome then 2 ^ s else 0)).sum
  let b := (b.wrN .pwr Reg.PWR_BRAKE_STAT (tiles * 2 ^ 16 + state)).wrN .pwr Reg.PWR_BRAKE_STACKS stks
  let b := b.driveAux
  if old = 0 ∧ state ≠ 0 then b.post Ev.BRAKE_ON .pwr 0
  else if old ≠ 0 ∧ state = 0 then b.post Ev.BRAKE_OFF .pwr 0
  else b

/-- The PACE of an arrival (R348, R406): that of the slowest running tile. -/
def Block.pace (b : Block) : Nat :=
  let l := ((List.finRange 16).map (fun t => b.setting t)).filter (fun m => m != 0)
  255 * (l.foldl min 28) / 28

/-! ## The input power (R387, R391, R401) -/

/-- MCLK cycles in a millisecond. DESIGN CHOICE (notes/assumptions/10.md). -/
def msToMclk (n : Nat) : Nat := 500000 * n

/-- Samples of the last `t` MCLK cycles. -/
def Block.samplesIn (b : Block) (t : Nat) : List Nat :=
  (b.pwr.samples.filter (fun (s : Nat × Nat) => decide (b.now < s.1 + t))).map (fun s => s.2)

/-- Average power in W over the samples of the last `t` MCLK cycles. -/
def Block.avgW (b : Block) (t : Nat) : Nat :=
  let l := b.samplesIn t
  l.sum / max 1 l.length / 1000

/-- Is the learned profile valid (R391)? -/
def Block.profileValid (b : Block) : Bool := decide (4 ≤ b.pwr.profile.steps)

/-- The slot of the step that the present time lies in: 1/64 of the previous step's length each. -/
def Block.slotNow (b : Block) : Nat :=
  let p := b.pwr.profile
  if p.length = 0 then 0 else min 63 ((b.now - p.stepStart) * 64 / p.length)

/-- Add energy to an element of a list of 64 slots. -/
def addSlot (l : List Nat) (i n : Nat) : List Nat :=
  (if l.isEmpty then List.replicate 64 0 else l).modify i (fun x => x + n)

/-- The step ends: its slots are folded into the profile with weight 1/4 (R391). -/
def Block.learnStep (b : Block) : Block :=
  let p := b.pwr.profile
  let len := b.now - p.stepStart
  let close := p.length = 0 ∨ (4 * len ≤ 5 * p.length ∧ 3 * p.length ≤ 4 * len)
  let fold := fun (o n : Nat) => if p.steps = 0 then n else (3 * o + n) / 4
  let slots := (List.range 64).map (fun i => fold (p.slots.getD i 0) (p.stepSlots.getD i 0))
  let tiles := (List.range 1024).foldl (fun m i =>
    Sparse.put (fun _ => 0) m i (fold (Sparse.get (fun _ => 0) p.tileSlots i) (Sparse.get (fun _ => 0) p.stepTile i))) []
  { b with pwr := { b.pwr with profile :=
    { steps := if close then p.steps + 1 else 0, length := len, slots := slots, tileSlots := tiles, stepStart := b.now,
      stepSlots := [], stepTile := [] } } }

/-- A release of the domain that marks steps (R391). -/
def Block.stepRelease (b : Block) (d : Nat) : Block :=
  let cfg := b.eff .pwr Reg.PWR_CAD_CFG
  if wbit cfg 31 ∧ wfield cfg 26 24 = d then b.learnStep else b

/-- A measurement of the input power, in mW over 1 µs: energy, averages, the profile, the floor (R387, R391, R396).
DESIGN CHOICE (notes/assumptions/23.md). -/
def powerSample (mw : Nat) (b : Block) : Block :=
  let due := match b.pwr.samples with
    | [] => true
    | s :: _ => decide (s.1 + 500 ≤ b.now)
  if !due then b
  else
    let keep := (b.pwr.samples.filter (fun (s : Nat × Nat) => decide (b.now < s.1 + msToMclk 8000)))
    let e := b.pwr.energyRem + mw
    let cad := b.eff .pwr Reg.PWR_CAD_CFG
    let prof := if wbit cad 31 then
        { b.pwr.profile with stepSlots := addSlot b.pwr.profile.stepSlots b.slotNow mw }
      else b.pwr.profile
    let b := { b with pwr := { b.pwr with samples := (b.now, mw) :: keep, energyRem := e % 1000000, profile := prof } }
    let b := b.count .pwr Reg.PWR_ENERGY (e / 1000000)
    let b := b.wrField .pwr Reg.PWR_INPUT 15 0 (min 65535 (b.avgW 50000))
    let b := b.wrField .pwr Reg.PWR_AVG_WINDOW 15 0 (min 65535 (b.avgW (msToMclk (wfield (b.eff .pwr Reg.PWR_WINDOW) 12 0))))
    let b := b.wrN .pwr Reg.PWR_AVG_FAST (min 65535 (b.avgW (msToMclk 100)) * 65536 + min 65535 (b.avgW (msToMclk 10)))
    let floor := b.eff .pwr Reg.PWR_FLOOR
    let at_ := wbit floor 31 && decide (mw ≤ b.avgW (msToMclk 1) * 10 * wfield floor 6 0)
    { b with pwr := { b.pwr with
      floorSince := if at_ then some (b.pwr.floorSince.getD b.now) else none, floorDone := b.pwr.floorDone && at_ } }

/-- POWER_SAMPLE (R387). -/
def execPowerSample (mw : Nat) (s : State) : Host.Outcome State Fault Refusal := s.onBlock (powerSample mw)

/-- The current brake (R401): input above 2,640 W for 1 µs. -/
def currentBrake (b : Block) : Block :=
  match b.pwr.samples with
  | [] => b
  | s :: _ =>
    if s.2 ≤ 2640000 ∨ b.pwr.cur.isSome then b
    else
      let b := { b with pwr := { b.pwr with cur := some (wfield (b.eff .pwr Reg.PWR_FAST) 4 0) } }
      ((b.count .pwr Reg.PWR_FAST_TRIPS 1).post Ev.CURRENT_BRAKE .pwr 0).applyBrakes

/-- CURRENT_BRAKE (R401). -/
def execCurrentBrake (s : State) : Host.Outcome State Fault Refusal := s.onBlock currentBrake

/-- The current brake lifts once the input has stayed below 2,400 W for 100 µs (R401). -/
def currentBrakeLift (b : Block) : Block :=
  if b.pwr.cur.isNone ∨ (b.samplesIn 50000).any (fun w => decide (2400000 ≤ w)) then b
  else { b with pwr := { b.pwr with cur := none } }.applyBrakes

/-- CURRENT_BRAKE_LIFT (R401). -/
def execCurrentBrakeLift (s : State) : Host.Outcome State Fault Refusal := s.onBlock currentBrakeLift

/-! ## Voltages and learned draws (R391, R393, R414) -/

/-- Voltage codes of a new module. DESIGN CHOICE (notes/assumptions/22.md): the manual gives the range and no table. -/
def factoryVolt (k : Nat) : Nat := if k / 32 < 16 then 4 * (k % 32 - 8) else 60

/-- Voltage code of a die at a setting; a die with a fixed clock has one. DESIGN CHOICE (notes/assumptions/22.md). -/
def Block.volt (b : Block) (d m : Nat) : Nat := Sparse.get factoryVolt b.nv.volts (d * 32 + if d < 16 then clampNat 8 28 m else 0)

/-- Voltage in mV. -/
def Block.milliVolt (b : Block) (d m : Nat) : Nat := 500 + 5 * b.volt d m

/-- Learned draw of a class on a tile at its top setting, in mW. PRESUMED (notes/assumptions/21.md). -/
def Block.classDraw (b : Block) (t c : Nat) : Nat := wfield (b.rd .pwr (Reg.PWR_CLASS_DRAW (4 * t + c))) 15 0 * 100

/-- A draw at the top setting taken to another, with f × V(f)² (R393). -/
def Block.scaleDraw (b : Block) (t d m : Nat) : Nat :=
  let top := b.topOf t
  d * m * b.milliVolt t m ^ 2 / max 1 (top * b.milliVolt t top ^ 2)

/-- The draw of the work that runs on a tile, at a setting: that of its heaviest class. -/
def Block.tileDraw (b : Block) (t m : Nat) : Nat :=
  let cores := (List.finRange 128).filter (fun c => c.val / 8 == t)
  let cls := cores.flatMap (fun c => ((b.unit (.core c)).board.filter (fun x => decide (x.phase = .running))).map
    (fun x => x.task.energyClass))
  b.scaleDraw t ((cls.map (b.classDraw t)).foldl max 0) m

/-- A task of a core ended: the draw of its class on the tile is learned with weight 1/8 (R391). -/
def Block.learnDraw (b : Block) (c : Fin 128) (cls : Nat) : Block :=
  let t := (coreTile c).val
  let m := b.setting (coreTile c)
  if m = 0 then b
  else
    let w := wfield (b.rd .pwr (Reg.PWR_TILE t)) 31 16 * 10
    let x := w * b.topOf t * b.milliVolt t (b.topOf t) ^ 2 / max 1 (m * b.milliVolt t m ^ 2)
    let off := Reg.PWR_CLASS_DRAW (4 * t + cls)
    b.wrN .pwr off (min 65535 ((7 * wfield (b.rd .pwr off) 15 0 + x) / 8))

/-! ## The grant interval (R390 to R397) -/

/-- The highest power in mW that keeps an averaged limit for the next 10 µs, given the energy spent in the interval. -/
def Block.headroom (b : Block) (watts ms : Nat) : Nat :=
  (watts * 1000 * (ms * 1000) - (b.samplesIn (msToMclk ms - 5000)).sum) / 10

/-- The module allowance: the lowest of the three averaged limits (R387, R390). Where the profile is valid, cadence reserves budget
ahead; how much is open, so the allowance is a free value at or below that bound. DESIGN CHOICE (notes/assumptions/23.md). -/
def Block.allowance (b : Block) : Nat × Block :=
  let a := min (b.headroom (wfield (b.eff .pwr Reg.PWR_LIMIT) 10 0) (wfield (b.eff .pwr Reg.PWR_WINDOW) 12 0))
    (min (b.headroom 1800 100) (b.headroom 2400 10))
  if b.profileValid then let f := b.fresh; (min a f.1, f.2) else (a, b)

/-- Schedulable cores of a tile. -/
def Block.coresOf (b : Block) (t : Nat) : List (Fin 128) := (List.finRange 128).filter (fun c => c.val / 8 == t && b.coreOn c)

/-- Does a core's array have a task dispatched, as R491 counts it? -/
def Block.arrayBusy (b : Block) (c : Fin 128) : Bool := !b.arrayFree c

/-- Is an array task of a core held for power? -/
def Block.coreHeld (b : Block) (c : Fin 128) : Bool :=
  (b.unit (.core c)).board.any (fun t => decide (t.phase = .admitted) && decide (0 < t.heldAt) && b.ready t)

/-- Is a BARRIER task started and not yet released? -/
def Block.barrierOpen (b : Block) : Bool :=
  (b.unit .wholeModule).board.any (fun t => decide (t.task.kind = 7) && decide (t.phase = .running))

/-- A claim of a die, in mW. -/
def claimOf (claims : List (Nat × Nat)) (d : Nat) : Nat :=
  match claims.find? (fun c => c.1 == d) with
  | some c => c.2
  | none => 0

/-- Stacks in the order in which cadence limits them: most BULK requests waiting first, lower stack at a tie (R390). -/
def Block.bulkOrder (b : Block) : List Nat :=
  let n := fun (s : Nat) => ((b.stk s).queue.filter (fun q => q.urgency == 3)).length
  (List.range 20).foldl (fun l s =>
    l.takeWhile (fun x => decide (n s ≤ n x)) ++ s :: l.dropWhile (fun x => decide (n s ≤ n x))) []

/-- The stacks whose rate is limited: the fewest of the order whose going leaves claims that fit. -/
def limited (claims : List (Nat × Nat)) (budget : Nat) : List Nat → List Nat
  | [] => []
  | s :: rest =>
    if ((s :: rest).map (fun x => claimOf claims (18 + x))).sum ≤ budget then [] else s :: limited claims budget rest

/-- The most a tile may be granted: ARRAY_HEAVY work at its top setting, in mW (R394).
DESIGN CHOICE (notes/assumptions/23.md). -/
def Block.grantCap (b : Block) (t : Nat) : Nat := b.scaleDraw t (b.classDraw t 0) (b.topOf t)

/-- Loans of one tile (R394): it lends when none of its arrays has a task and their waits are predicted to be long; the prediction
is open. The loan goes to tiles that hold ready tasks, in ascending order up to their cap, then to the stacks.
DESIGN CHOICE (notes/assumptions/23.md). -/
def Block.lendFrom (claims : List (Nat × Nat)) (base : Nat → Nat) (b : Block) (t : Nat) : List (Nat × Nat × Nat) × Block :=
  let cores := b.coresOf t
  if cores.isEmpty ∨ cores.any b.arrayBusy ∨ cores.any b.coreHeld ∨ !(b.profileValid || b.barrierOpen) then ([], b)
  else
    let f := b.fresh
    if f.1 % 2 = 0 then ([], f.2)
    else
      let loan := base t - claimOf claims t
      let takers := (List.range 16).filter (fun u => u != t && (b.coresOf u).any b.coreHeld)
      let r := takers.foldl (fun (st : Nat × List (Nat × Nat × Nat)) u =>
        let k := min st.1 (b.grantCap u - base u)
        (st.1 - k, if k = 0 then st.2 else st.2 ++ [(t, u, k / 1000)])) (loan, [])
      ((if r.1 = 0 ∨ b.pwr.windowStacks.isEmpty then r.2
        else r.2 ++ [(t, 18 + b.pwr.windowStacks.headD 0, r.1 / 1000)]), f.2)

/-- Sum of the loans that a test admits, in W. -/
def loanSum (l : List (Nat × Nat × Nat)) (f : Nat × Nat × Nat → Bool) : Nat := ((l.filter f).map (fun x => x.2.2)).sum

/-- Show the grants: base share, plus what the tile borrows, less what it lends, up to the cap. -/
def Block.showGrants (b : Block) (claims : List (Nat × Nat)) (base : Nat → Nat) : Block :=
  (List.range 16).foldl (fun x t =>
    let g := base t / 1000 + loanSum x.pwr.lent (fun l => l.2.1 == t) - loanSum x.pwr.lent (fun l => l.1 == t)
    x.wrN .pwr (Reg.PWR_TILE t) (min 65535 (claimOf claims t / 1000) * 65536 + min 65535 (min g (x.grantCap t / 1000)))) b

/-- A window limit rises one setting at each grant interval in which the tile's grant allows it (R393). -/
def Block.liftWindow (b : Block) (t : Nat) : Block :=
  match limitAt b.pwr.window t with
  | none => b
  | some m =>
    let grant := wfield (b.rd .pwr (Reg.PWR_TILE t)) 15 0 * 1000
    if b.tileDraw t (m + 1) ≤ grant then
      let v := if b.topOf t ≤ m + 1 then 0 else m + 1
      { b with pwr := { b.pwr with window := Sparse.put (fun _ => 0) b.pwr.window t v } }
    else b

/-- Filler that reads and writes the scratch window leaves its contents undefined (R397); no word of it stays poisoned. -/
def Block.spoilWindow (b : Block) (c : Fin 128) : Block :=
  let lo := sramPhys (coreTile c).val (8192 * (coreSlot c).val + 7168)
  { b with mem := Sparse.clear (fun k => decide (lo ≤ k ∧ k < lo + 2 ^ 26)) b.mem
           poison := Sparse.clear (fun w => decide (lo ≤ 8 * w ∧ 8 * w < lo + 2 ^ 26)) b.poison
           winFree := Sparse.put (fun _ => 0) b.winFree c.val (b.free + 1), free := b.free + 1 }

/-- Lower a tile's window limit by the fewest settings that make its running work fit a grant in mW (R393). -/
def Block.fitTile (b : Block) (t grant : Nat) : Block :=
  let m := b.lowestLimit t
  match ((List.range (m - 8 + 1)).map (fun i => m - i)).find? (fun k => decide (b.tileDraw t k ≤ grant)) with
  | some k => if k = m then b else { b with pwr := { b.pwr with window := Sparse.put (fun _ => 0) b.pwr.window t k } }
  | none => { b with pwr := { b.pwr with window := Sparse.put (fun _ => 0) b.pwr.window t 8 } }

/-- A loan is reclaimed when a ready task appears on the lending tile (R394): the borrowers' grants fall, and their limits where
their running work no longer fits. DESIGN CHOICE (notes/assumptions/23.md). -/
def loanReclaim (t : Fin 16) (b : Block) : Block :=
  let mine := b.pwr.lent.filter (fun (l : Nat × Nat × Nat) => l.1 == t.val)
  let wants := (b.coresOf t.val).any (fun c => (b.unit (.core c)).board.any (fun x =>
    decide (x.phase = .admitted) && kindResource x.task.kind.toNat == 0 && b.ready x))
  if mine.isEmpty ∨ !wants then b
  else
    let b := { b with pwr := { b.pwr with lent := b.pwr.lent.filter (fun (l : Nat × Nat × Nat) => l.1 != t.val) } }
    let b := mine.foldl (fun x l =>
      if 16 ≤ l.2.1 then x
      else
        let w := x.rd .pwr (Reg.PWR_TILE l.2.1)
        let g := wfield w 15 0 - l.2.2
        let x := x.wr .pwr (Reg.PWR_TILE l.2.1) (wset w 15 0 g)
        x.fitTile l.2.1 (g * 1000)) b
    let w := b.rd .pwr (Reg.PWR_TILE t.val)
    (b.wr .pwr (Reg.PWR_TILE t.val) (wset w 15 0
      (min 65535 (min (wfield w 15 0 + loanSum mine (fun _ => true)) (b.grantCap t.val / 1000))))).applyBrakes

/-- LOAN_RECLAIM (R394). -/
def execLoanReclaim (t : Fin 16) (s : State) : Host.Outcome State Fault Refusal := s.onBlock (loanReclaim t)

/-- The brake request as the input role of MOD_AUX has it: asserted while the pin is low (R402, R460). -/
def Block.auxBrake (b : Block) : Block :=
  let m := wfield (b.eff .pwr Reg.PWR_FAST) 12 8
  let on := wbit (b.rd .mod Reg.MOD_AUX_CFG) 0 && b.pins.auxLow
  { b with pwr := { b.pwr with ext := if on then some m else none } }.applyBrakes

/-- A filtered level of MOD_AUX (R460). DEDUCED (notes/assumptions/48.md). -/
def Block.auxLevel (b : Block) (low : Bool) : Block :=
  ({ b with pins := { b.pins with auxLow := low } }).wrBit .mod Reg.MOD_SIDEBAND 1 (!low)

/-- The brake-request input is asserted or released (R402). -/
def brakeRequestInput (asserted : Bool) (b : Block) : Block := (b.auxLevel asserted).auxBrake

/-- BRAKE_REQUEST_INPUT (R402). -/
def execBrakeRequestInput (asserted : Bool) (s : State) : Host.Outcome State Fault Refusal := s.onBlock (brakeRequestInput asserted)

/-! ## Clocks (R403 to R407) -/

/-- The page on which a die's links are counted, and its links; the links of a port die are its attachment stacks'. -/
def dieLinks (d : Nat) : List (Nat × Nat) :=
  let tile := fun (t : Nat) => (List.range 4).map (fun k => (pageIndex (.tile ⟨t % 16, by omega⟩), k))
  let stack := fun (s k : Nat) => (pageIndex (.hbc ⟨s % 20, by omega⟩), k)
  if d < 16 then tile d
  else if d = 16 then [stack 17 2, stack 18 2, stack 17 3, stack 18 3]
  else if d = 17 then [stack 7 2, stack 8 2, stack 7 3, stack 8 3]
  else (List.range 4).map (stack (d - 18))

/-- A die that lost its clock for good is handled as a failed package link (R34, R403). -/
def Block.failDie (b : Block) (d : Nat) : Block :=
  let new := (dieLinks d).filter (fun l => !b.net.down.contains l)
  if new.isEmpty then b
  else
    let b := { b with net := { b.net with down := b.net.down ++ new } }
    match new.head? with
    | none => b
    | some l => match pageAt? l.1 with
      | some p => (b.logState .self p ((match p with | .tile _ => Reg.TILE_LINK_REPLAY l.2 | _ => Reg.HBC_LINK_REPLAY l.2)) 0 1).post
          Ev.PKGNET_LINK_DOWN p 0
      | none => b

/-- The reference is lost (R403). -/
def clkRefLost (b : Block) : Block :=
  if !wbit (b.rd .clk Reg.CLK_LOCK0) 31 then b
  else
    let b := { b with pwr := { b.pwr with refLostAt := some b.now } }
    (b.wrBit .clk Reg.CLK_LOCK0 31 false).post Ev.CLK_REF_LOST .clk 0

/-- CLK_REF_LOST (R403). -/
def execClkRefLost (s : State) : Host.Outcome State Fault Refusal := s.onBlock clkRefLost

/-- A reference absent for 10 ms fails every die. -/
def clkRefTimeout (b : Block) : Block :=
  match b.pwr.refLostAt with
  | none => b
  | some t => if b.now < t + msToMclk 10 then b else (List.range 38).foldl (fun x d => x.failDie d) b

/-- CLK_REF_TIMEOUT (R403). -/
def execClkRefTimeout (s : State) : Host.Outcome State Fault Refusal := s.onBlock clkRefTimeout

/-- Set the lock bit of a die's synthesiser, numbered as PWR_TEMP_SEL numbers dies. -/
def Block.setLock (b : Block) (d : Nat) (v : Bool) : Block :=
  if d < 18 then b.wrBit .clk Reg.CLK_LOCK0 d v else b.wrBit .clk Reg.CLK_LOCK1 (d - 18) v

/-- A synthesiser loses lock: its die's clocks stop (R403). DEDUCED (notes/assumptions/24.md). -/
def clkLockLost (die : Fin 38) (b : Block) : Block :=
  let d := die.val
  if !b.lock d then b
  else
    let b := { b with pwr := { b.pwr with unlocked := b.pwr.unlocked ++ [(d, b.now)] } }
    let b := b.setLock d false
    let b := if d < 16 then b.wrField .clk (Reg.CLK_TILE d) 4 0 0 else b
    b.post Ev.CLK_LOCK_LOST .clk 0

/-- CLK_LOCK_LOST (R403). -/
def execClkLockLost (die : Fin 38) (s : State) : Host.Outcome State Fault Refusal := s.onBlock (clkLockLost die)

/-- The reference returns within 10 ms: the synthesisers lock to it again and work goes on (R403). -/
def clkRefReturn (b : Block) : Block :=
  match b.pwr.refLostAt with
  | some t => if b.now < t + msToMclk 10 then
        { b with pwr := { b.pwr with refLostAt := none } }.wrBit .clk Reg.CLK_LOCK0 31 true
      else b
  | none => b

/-- CLK_REF_RETURN (R403). -/
def execClkRefReturn (s : State) : Host.Outcome State Fault Refusal := s.onBlock clkRefReturn

/-- A synthesiser that lost lock has it again: the die resumes; one that took 1 ms or more is a failed package link (R403).
DEDUCED: a relock between 50 µs and 1 ms resumes the die too, because only the latter fails it.
DEDUCED (notes/assumptions/24.md). -/
def clkRelock (die : Fin 38) (b : Block) : Block :=
  let d := die.val
  match b.pwr.unlocked.find? (fun (u : Nat × Nat) => u.1 == d) with
  | none => b
  | some u =>
    if u.2 + msToMclk 1 ≤ b.now then b.failDie d
    else if b.pwr.refLostAt.isSome then b
    else
      let b := { b with pwr := { b.pwr with unlocked := b.pwr.unlocked.filter (fun (x : Nat × Nat) => x.1 != d) } }
      let b := b.setLock d true
      if d < 16 then b.wrField .clk (Reg.CLK_TILE d) 4 0 (b.lowestLimit d) else b

/-- CLK_RELOCK (R403). -/
def execClkRelock (die : Fin 38) (s : State) : Host.Outcome State Fault Refusal := s.onBlock (clkRelock die)

/-- A tile takes the setting that its limits leave it (R400, R407); a stopped clock stays stopped. -/
def aclkChange (t : Fin 16) (b : Block) : Block :=
  if b.setting t = 0 then b else
    let b := b.applyBrakes
    b.wrField .clk (Reg.CLK_TILE t.val) 4 0 (b.lowestLimit t.val)

/-- ACLK_CHANGE (R407). -/
def execAclkChange (t : Fin 16) (s : State) : Host.Outcome State Fault Refusal := s.onBlock (aclkChange t)

/-! ## Heat (R408 to R411) -/

/-- Show the readings of the die that PWR_TEMP_SEL names. -/
def Block.showTemp (b : Block) : Block :=
  let d := wfield (b.rd .pwr Reg.PWR_TEMP_SEL) 5 0
  b.wrN .pwr Reg.PWR_TEMP (Sparse.get (fun _ => 0) b.pwr.hottest d % 256 * 256 + Sparse.get (fun _ => 0) b.pwr.temps d % 256)

/-- Trip temperature of a die. -/
def tripC (d : Nat) : Nat := if d < 18 then 110 else 105

/-- DATA of a heat event (R482). -/
def heatData (d c : Nat) : Nat := d + c * 256

/-- Heat of a stack (R410): half its slots from 95 °C, a quarter from 100 °C. -/
def Block.stackHeat (b : Block) (s c : Nat) : Block :=
  let old := Sparse.get (fun _ => 0) b.pwr.hotStacks s
  let new := if 100 ≤ c then 4 else if 95 ≤ c then 2 else 0
  let b := { b with pwr := { b.pwr with hotStacks := Sparse.put (fun _ => 0) b.pwr.hotStacks s new } }
  if old = 0 ∧ new ≠ 0 then b.post Ev.STACK_THERMAL .pwr (heatData (18 + s) c) else b

/-- Turn off the rails of every tile, stack and port die; the management block stays on (R411, R457). -/
def Block.railsOff (b : Block) : Block := { b with boot := { b.boot with run := .railsDown } }

/-- A trip (R411): recorded in the non-volatile store and the log, THERM_TRIP_N driven low, the rails turned off.
DEDUCED (notes/assumptions/24.md). -/
def Block.trip (b : Block) (d c : Nat) : Block :=
  let old := b.rdN .mod Reg.MOD_SIDEBAND
  let b := { b with pwr := { b.pwr with tripped := true }, pins := { b.pins with thermTrip := true }
                    nv := { b.nv with notes := b.nv.notes ++ [Ev.THERMAL_TRIP + heatData d c * 2 ^ 16] } }
  let b := b.wrBit .mod Reg.MOD_SIDEBAND 3 true
  let b := b.logState .self .mod Reg.MOD_SIDEBAND old (b.rdN .mod Reg.MOD_SIDEBAND)
  (b.post Ev.THERMAL_TRIP .pwr (heatData d c)).railsOff

/-- The sensors are read (R408): the hottest reading of each die, as PWR_TEMP_SEL numbers them.
DEDUCED (notes/assumptions/24.md). -/
def tempSample (temps : List Nat) (b : Block) : Block :=
  let l := (temps.take 38).zipIdx
  let b := l.foldl (fun x p =>
    { x with pwr := { x.pwr with
      temps := Sparse.put (fun _ => 0) x.pwr.temps p.2 (p.1 % 256)
      hottest := Sparse.put (fun _ => 0) x.pwr.hottest p.2 (max (p.1 % 256) (Sparse.get (fun _ => 0) x.pwr.hottest p.2)) } }) b
  let b := (l.filter (fun p => decide (18 ≤ p.2))).foldl (fun x p => x.stackHeat (p.2 - 18) (p.1 % 256)) b
  let b := b.showTemp.applyBrakes
  if b.pwr.tripped then b
  else match l.find? (fun p => decide (tripC p.2 ≤ p.1 % 256)) with
    | some p => b.trip p.2 (p.1 % 256)
    | none => b

/-- TEMP_SAMPLE (R408, R410, R411). -/
def execTempSample (temps : List Nat) (s : State) : Host.Outcome State Fault Refusal := s.onBlock (tempSample temps)

/-- One step of a tile's thermal limit (R409): down each 1 ms while the tile or a port die is at BRAKE_C or above, up each 10 ms
while all are at least 3 °C below. -/
def thermalBrakeStep (t : Fin 16) (b : Block) : Block :=
  let lim := wfield (b.rd .pwr Reg.PWR_THERM_CFG) 7 0
  let temp := fun (d : Nat) => Sparse.get (fun _ => 0) b.pwr.temps d
  let hot := [t.val, 16, 17].find? (fun d => decide (lim ≤ temp d))
  let cool := [t.val, 16, 17].all (fun d => decide (temp d + 3 ≤ lim))
  let last := Sparse.get (fun _ => 0) b.pwr.thermAt t.val
  let set := fun (x : Block) (m : Nat) =>
    { x with pwr := { x.pwr with therm := Sparse.put (fun _ => 0) x.pwr.therm t.val m
                                 thermAt := Sparse.put (fun _ => 0) x.pwr.thermAt t.val x.now } }
  match hot, limitAt b.pwr.therm t.val with
  | some d, none => ((set b (max 8 (b.topOf t.val - 1))).post Ev.THERMAL_BRAKE .pwr (heatData d (temp d))).applyBrakes
  | some _, some m => if b.now < last + msToMclk 1 then b else (set b (max 8 (m - 1))).applyBrakes
  | none, some m =>
    if !cool ∨ b.now < last + msToMclk 10 then b
    else (set b (if b.topOf t.val ≤ m + 1 then 0 else m + 1)).applyBrakes
  | none, none => b

/-- THERMAL_BRAKE_STEP (R409). -/
def execThermalBrakeStep (t : Fin 16) (s : State) : Host.Outcome State Fault Refusal := s.onBlock (thermalBrakeStep t)

/-- The effect of a write of PWR_TEMP: bit 31 clears the hottest reading of the selected die. -/
def Block.tempClear (b : Block) (v : Word) : Block :=
  if !wbit v 31 then b
  else { b with pwr := { b.pwr with
    hottest := Sparse.put (fun _ => 0) b.pwr.hottest (wfield (b.rd .pwr Reg.PWR_TEMP_SEL) 5 0) 0 } }.showTemp

/-- Write PWR_TEMP. -/
def pwrTempClear (o : Origin) (v : Word) (b : Block) : Block := b.gate o .pwr Reg.PWR_TEMP (.command v) (fun x => x.tempClear v)

/-- PWR_TEMP_CLEAR (R408). -/
def execPwrTempClear (o : Origin) (v : Word) (s : State) : Host.Outcome State Fault Refusal := s.onWrite o (pwrTempClear o v)

/-- Clear the counters of the PWR page. -/
def pwrCntClr (o : Origin) (v : Word) (b : Block) : Block :=
  b.gate o .pwr Reg.PWR_CNT_CLR .none (fun x => x.clearOn v .pwr [Reg.PWR_ENERGY, Reg.PWR_BRAKE_TIME, Reg.PWR_FAST_TRIPS])

/-- PWR_CNT_CLR (R415). -/
def execPwrCntClr (o : Origin) (v : Word) (s : State) : Host.Outcome State Fault Refusal := s.onWrite o (pwrCntClr o v)

/-! ## Ageing (R412 to R414) -/

/-- A slack as AGE_SLACK shows it; 0 where none has been read. -/
def slackByte (x : Option Int) : Nat := match x with
  | some i => unsigned 8 i
  | none => 0

/-- Show the slack and the voltage that AGE_SEL and AGE_VSEL name. -/
def Block.showAge (b : Block) : Block :=
  let d := wfield (b.rd .age Reg.AGE_SEL) 5 0
  let m := wfield (b.rd .age Reg.AGE_VSEL) 4 0
  let g := fun (s : Sparse (Option Int)) => slackByte (Sparse.get (fun _ => none) s d)
  (b.wrN .age Reg.AGE_SLACK (g b.pwr.worstSlack * 256 + g b.pwr.slacks)).wrN .age Reg.AGE_VOLT (b.volt d m % 128)

/-- Set a tile's top setting, in the non-volatile store and in CLK_TILE. -/
def Block.setTop (b : Block) (t m : Nat) : Block :=
  ({ b with nv := { b.nv with tops := b.nv.tops.set t m } }).wrField .clk (Reg.CLK_TILE t) 28 24 m

/-- A tile's margin is low (R412, R413): 10 mV more at every setting, or, where that would pass 0.950 V at one the tile may run at,
a top setting lower by one. -/
def Block.marginLow (b : Block) (t : Nat) : Block :=
  let b := b.post Ev.AGE_MARGIN_LOW .age 0
  let top := b.topOf t
  if (List.range (top + 1 - 8)).any (fun i => decide (90 < b.volt t (8 + i) + 2)) then
    let old := b.rdN .clk (Reg.CLK_TILE t)
    let b := b.setTop t (max 8 (top - 1))
    ((b.logState .self .clk (Reg.CLK_TILE t) old (b.rdN .clk (Reg.CLK_TILE t))).post Ev.AGE_MARGIN_EXHAUSTED .age 0).applyBrakes
  else
    let old := b.volt t top
    let b := { b with nv := { b.nv with volts := (List.range 21).foldl (fun m i =>
      Sparse.put factoryVolt m (t * 32 + 8 + i) (min 90 (b.volt t (8 + i) + 2))) b.nv.volts } }
    (b.count .age Reg.AGE_BUMPS 1).logState .self .age Reg.AGE_VOLT old (b.volt t top)

/-- The path-delay monitors are read (R412): the worst slack of each die in ps. -/
def ageMonitorRead (slacks : List Int) (b : Block) : Block :=
  let cfg := b.rd .age Reg.AGE_CFG
  if !wbit cfg 31 then b
  else
    let l := (slacks.take 38).zipIdx
    let b := l.foldl (fun x p =>
      let w : Int := match Sparse.get (fun _ => (none : Option Int)) x.pwr.worstSlack p.2 with
        | some v => min v p.1
        | none => p.1
      { x with pwr := { x.pwr with slacks := Sparse.put (fun _ => none) x.pwr.slacks p.2 (some p.1)
                                   worstSlack := Sparse.put (fun _ => none) x.pwr.worstSlack p.2 (some w) } }) b
    let b := (l.filter (fun p => decide (p.2 < 16) && decide (p.1 < ((wfield cfg 7 0 : Nat) : Int)))).foldl (fun x p => x.marginLow p.2) b
    b.showAge

/-- AGE_MONITOR_READ (R412). -/
def execAgeMonitorRead (slacks : List Int) (s : State) : Host.Outcome State Fault Refusal := s.onBlock (ageMonitorRead slacks)

/-- Clear AGE_BUMPS and the worst slacks. -/
def ageCntClr (o : Origin) (v : Word) (b : Block) : Block :=
  b.gate o .age Reg.AGE_CNT_CLR .none (fun x =>
    if wbit v 0 then { x.clear64 .age [Reg.AGE_BUMPS] with pwr := { x.pwr with worstSlack := [] } }.showAge else x)

/-- AGE_CNT_CLR (R415). -/
def execAgeCntClr (o : Origin) (v : Word) (s : State) : Host.Outcome State Fault Refusal := s.onWrite o (ageCntClr o v)

end Sys2Proof.Machine
end

