-- ==== Sys2Proof/Machine/Complete.lean ====
section
/-! DEFINITION. The end of a task: its events, its signals (R53, R62, R326), the outcome of its shares (R49), its completion record (R39,
R54, R487). -/

namespace Sys2Proof.Machine

open Sys2Proof

/-! ## Signals -/

/-- The word of a semaphore in a SEM_SIGNAL packet, in the form of a translation entry (R59, R326). -/
def SemRef.word (s : SemRef) : Nat := 2 ^ 31 + s.modId % 4096 * 2 ^ 16 + s.core % 128 * 2 ^ 6 + s.phys % 64

/-- Await a response to a request that did not leave the module. -/
def Block.awaitUnsent (b : Block) (owner : ReqOwner) (opcode dst addr length : Nat) : Block :=
  let q : RemoteReq := { tag := b.lly.nextTag, owner := owner, opcode := opcode, dst := dst, addr := addr, length := length,
                         sentAt := b.now }
  { b with lly := { b.lly with requests := b.lly.requests ++ [q], nextTag := (b.lly.nextTag + 1) % 65536 } }

/-- Signal a semaphore of this module, or another module's over the fabric (R62, R326, R490). A fenced module does not send the signal
and counts it (R339); its acknowledgement then never comes. -/
def Block.signalSem (b : Block) (owner : ReqOwner) (s : SemRef) (inc : Nat) : Block :=
  if s.here then b.addSem s.core s.phys inc
  else
    let r := b.request owner s.modId 0 Op.semSignal 8 0 (toBytes 4 s.word ++ toBytes 4 inc)
    match r.1, owner with
    | .ok, _ => r.2
    | .noRoute, .task _ _ => r.2.remoteFault owner Ev.FABRIC_UNREACHABLE
    | .noRoute, _ => r.2.awaitUnsent owner Op.semSignal s.modId 0 8
    | .fenced, _ => r.2.fencedDrop.awaitUnsent owner Op.semSignal s.modId 0 8

/-- Does a task await a response of another module? -/
def Block.awaits (b : Block) (u : UnitId) (n : Nat) : Bool := b.lly.requests.any (fun q => decide (q.owner = .task u n))

/-! ## The outcome of a task -/

/-- Code of an outcome (R54). -/
def OutCode.code : OutCode → Nat
  | .done => 0 | .faulted => 1 | .overBudget => 2 | .committed => 3 | .discarded => 4

/-- Place of an outcome in the list of R49, DONE lowest. -/
def OutCode.rank : OutCode → Nat
  | .faulted => 4 | .discarded => 3 | .committed => 2 | .overBudget => 1 | .done => 0

/-- What a completion record says of a task. -/
structure Verdict where
  outcome : OutCode
  status : Nat
  child : Nat
  cycles : Nat
  deriving DecidableEq, Repr

/-- The share with the lowest child number among some. -/
def lowestShare (l : List ShareRes) : Option ShareRes :=
  l.foldl (fun best r => match best with
    | some x => if r.child < x.child then some r else best
    | none => some r) none

/-- The merged outcome of shares (R49). DEDUCED (notes/assumptions/51.md). -/
def mergeShares (l : List ShareRes) : Verdict :=
  let worst := l.foldl (fun a r => if a.rank < r.outcome.rank then r.outcome else a) OutCode.done
  let bad := lowestShare (l.filter (fun r => decide (r.outcome = .faulted)))
  let tell := match bad with
    | some r => some r
    | none => lowestShare (l.filter (fun r => decide (r.status ≠ 0)))
  { outcome := worst
    status := match tell with | some r => r.status | none => 0
    child := match bad with | some r => r.child | none => noChild
    cycles := (l.map (fun r => r.cycles)).foldl max 0 }

/-- CHILD of a task of its own: the link of a chain that faulted (R253). -/
def TaskSt.ownChild (t : TaskSt) : Nat := if t.task.kind = 5 ∧ t.faultCode.isSome then t.link else noChild

/-- The outcome of a task whose work is finished (R46, R49, R54, R57, R58). -/
def TaskSt.verdict (t : TaskSt) : Verdict :=
  let m := mergeShares t.shares
  let cyc := max t.cycles m.cycles
  let discarded := t.task.spec && t.decided && decide (t.decision = .discard)
  match t.faultCode with
  | some c => if discarded then ⟨.discarded, c, noChild, cyc⟩ else ⟨.faulted, c, t.ownChild, cyc⟩
  | none =>
    if !t.shares.isEmpty then { m with status := if m.status = 0 then t.statusCode else m.status, cycles := cyc }
    else if discarded then ⟨.discarded, t.statusCode, noChild, cyc⟩
    else if t.task.spec && t.decided then ⟨.committed, t.statusCode, noChild, cyc⟩
    else if t.exceeded then ⟨.overBudget, t.statusCode, noChild, cyc⟩
    else ⟨.done, t.statusCode, noChild, cyc⟩

/-- Are the signals of a task with an outcome applied (R46, R53, R58)? -/
def OutCode.signals : OutCode → Bool
  | .done => true | .overBudget => true | .committed => true | .faulted => false | .discarded => false

/-- The child number that the completion record of the task on the ring shows for a task or share that faults. -/
def Block.rootChild : Nat → Block → TaskSt → Nat
  | 0, _, t => t.ownChild
  | n + 1, b, t => match t.parent with
    | none => t.ownChild
    | some p =>
      if t.path = 12 then p.child
      else match b.bySerial p.unit p.serial with
        | some x => if x.parent.isSome then b.rootChild n x else p.child
        | none => p.child

/-- Post the event of a task's fault, once (R479, R480). -/
def Block.postFault (b : Block) (u : UnitId) (n : Nat) : Block :=
  match b.bySerial u n with
  | none => b
  | some t => match t.faultCode with
    | none => b
    | some c =>
      if t.statusCode = c then b
      else (b.mapTask u n (fun x => { x with statusCode := c })).postTask u t (b.rootChild 6 t) c

/-! ## The completion record -/

/-- Is a unit's completion ring full (R37)? -/
def Block.cringFull (b : Block) (u : UnitId) : Bool :=
  decide (2 ^ wfield (b.rd (.sch u) Reg.SCH_RING_CFG) 11 8 ≤
    diff32 (b.rdN (.sch u) Reg.SCH_CRING_TAIL) (b.rdN (.sch u) Reg.SCH_CRING_HEAD))

/-- Clear ENABLE of a unit's ring. -/
def Block.disableRing (b : Block) (u : UnitId) : Block := b.wrBit (.sch u) Reg.SCH_RING_CFG 24 false

/-- The 32 bytes of a completion record (R54). DEDUCED (notes/assumptions/51.md). -/
def recordBytes (u : UnitId) (r : TaskRec) (v : Verdict) (time barrierSeq : Nat) : List Byte :=
  toBytes 4 r.taskId.toNat ++ toBytes 2 v.status ++ toBytes 1 v.outcome.code ++ toBytes 1 u.level ++
    toBytes 4 (min v.cycles (2 ^ 32 - 1)) ++ toBytes 4 v.child ++ toBytes 8 time ++ toBytes 8 (barrierSeq % 2 ^ 48)

/-- Write a task's completion record into the next slot, which is free, unless NO_CREC is set. A slot that does not exist takes no
record, and the ring stops (R487). -/
def Block.writeRecord (b : Block) (u : UnitId) (t : TaskSt) (v : Verdict) : Block :=
  if t.task.noCrec then b
  else
    let p : Page := .sch u
    let tail := b.rdN p Reg.SCH_CRING_TAIL
    let slot := b.rd64 p Reg.SCH_CRING_BASE_LO + 32 * (tail % 2 ^ wfield (b.rd p Reg.SCH_RING_CFG) 11 8)
    if b.recordFits slot 32 then
      let b := (b.store slot (recordBytes u t.task v b.now b.pel.lastSeq)).wrN p Reg.SCH_CRING_TAIL (tail + 1)
      if t.task.irq then b.setInt p 1 else b
    else (b.postTask u t v.child Ev.ADDR_UNMAPPED).disableRing u

/-- Hold a finished task on a full completion ring, posting CRING_FULL once for the stall (R39).
DEDUCED (notes/assumptions/51.md). -/
def Block.stall (b : Block) (u : UnitId) : Block :=
  if (b.unit u).stalled then b
  else (b.setUnit u { b.unit u with stalled := true }).post Ev.CRING_FULL (.sch u) 0

/-- Does a task wait for a free slot: its unit's completion ring is full, and it writes a record?
DEDUCED (notes/assumptions/51.md). -/
def Block.mustStall (b : Block) (u : UnitId) (r : TaskRec) : Bool := !r.noCrec && b.cringFull u

/-! ## The end of a task -/

/-- What a task leaves as it goes: the lists that it has written, usable from now on where it completes (R97), the tallies of a ROUTE that
completes (R219), and nothing of a collective's run. -/
def Block.leave (b : Block) (t : TaskSt) : Block :=
  let b := if t.verdict.outcome.signals then t.listsOut.foldl (fun x l => x.bindList l.1 l.2) b else b
  let b := if t.task.kind = 3 ∧ t.task.par 0 1 = 1 ∧ t.verdict.outcome.signals then b.addTallies t else b
  if t.task.kind = 6 then { b with col := { b.col with runs := b.col.runs.filter (fun r => r.serial != t.serial) } } else b

/-- Is the task decided, where it is speculative (R57)? -/
def TaskSt.settled (t : TaskSt) : Bool := !t.task.spec || t.decided

/-- Apply the signals of a task in order (R53): SIGNAL1 is not applied where SIGNAL0 could not be sent. -/
def Block.applySignals (b : Block) (u : UnitId) (t : TaskSt) : Block :=
  let one := fun (x : Block) (s : Option SemRef) (inc : Nat) => match s with
    | none => x
    | some r => match x.bySerial u t.serial with
      | some y => if y.faultCode.isSome then x else x.signalSem (.task u t.serial) r inc
      | none => x
  one (one b t.sig0 t.task.signal0Inc.toNat) t.sig1 t.task.signal1Inc.toNat

/-- Does an array task of a core wait with its record for one admitted before it that has been dispatched (R255)? -/
def Block.recordWaits (b : Block) (u : UnitId) (t : TaskSt) : Bool :=
  let mine := fun (x : TaskSt) => kindResource x.task.kind.toNat == 0 && x.parent.isNone && decide (x.phase ≠ .admitted)
  match u with
  | .core _ => mine t && ((b.unit u).board.takeWhile (fun x => x.serial != t.serial)).any mine
  | _ => false

/-- The last part of a completion: the record, ENABLE after a fault (R54), the task off the scoreboard. It waits for the
acknowledgements of remote signals (R326), for the records of array tasks before it (R255) and for a free slot. DEDUCED (notes/assumptions/51.md). -/
def Block.record (b : Block) (u : UnitId) (n : Nat) : Block :=
  match (b.postFault u n).bySerial u n with
  | none => b
  | some t =>
    let b := b.postFault u n
    if (b.awaits u n ∧ t.faultCode.isNone) ∨ b.recordWaits u t then b
    else if b.mustStall u t.task then b.stall u
    else
      let v := t.verdict
      let b := (b.leave t).writeRecord u t v
      let b := if v.outcome = .faulted then b.disableRing u else b
      b.dropTask u n

/-- Complete a finished task of a unit's own ring (R39, R53, R54): once its writes are complete, its signals, then its record. -/
def Block.completeRoot (b : Block) (u : UnitId) (n : Nat) : Block :=
  match b.bySerial u n with
  | none => b
  | some t =>
    if t.phase ≠ .finished ∨ t.parent.isSome ∨ !t.settled ∨ (t.faultCode.isNone ∧ b.writesWait n) then b
    else
      let b := b.postFault u n
      if t.sigDone then b.record u n
      else if b.mustStall u t.task then b.stall u
      else
        let b := b.mapTask u n (fun x => { x with sigDone := true })
        let b := if t.verdict.outcome.signals then b.applySignals u t else b
        b.record u n

/-- The counters of this module's unit in core-cycles, as a member reports them to its group's root (R73). -/
def Block.moduleCounts (b : Block) : List Nat := (List.range 11).map (fun k => b.charged .wholeModule k)

/-- A member's report of its counters reaches the root (R73): the group's block, which is the sum of what its members reported last, moves by
what the member's counters moved. DESIGN CHOICE (notes/assumptions/45.md). -/
def Block.addGroup (b : Block) (m : Nat) (counts : List Nat) : Block :=
  let last := Sparse.get (fun _ => ([] : List Nat)) b.pel.reported m
  let b := (counts.take 11).zipIdx.foldl (fun x p =>
    x.setCharged .group p.2 (x.charged .group p.2 + p.1 - last.getD p.2 0)) b
  { b with pel := { b.pel with reported := Sparse.put (fun _ => []) b.pel.reported m counts } }

/-- A record or report for another module of a group: how it travels is not given, so it leaves as it is (R25). -/
def Block.handOver (b : Block) (m child : Nat) (l : List Byte) : Block :=
  { b with lly := { b.lly with offers := b.lly.offers ++ [(m, child, l)] } }

/-- The report of a share to the root of its group. -/
def ShareRes.bytes (r : ShareRes) (counts : List Nat) : List Byte :=
  toBytes 1 r.outcome.code ++ toBytes 2 r.status ++ toBytes 8 r.cycles ++ counts.flatMap (toBytes 8)

/-- End a finished share (R49): its event once, its result to the parent, which completes when it was the last. -/
def Block.endShareTask : Nat → Block → UnitId → Nat → Block
  | 0, b, _, _ => b
  | fuel + 1, b, u, n => match b.bySerial u n with
    | none => b
    | some t => match t.parent with
      | none => b.completeRoot u n
      | some p =>
        if t.phase ≠ .finished ∨ !t.settled ∨ (t.faultCode.isNone ∧ b.awaits u n) then b
        else
          let b := b.postFault u n
          let v := t.verdict
          let res : ShareRes := { child := p.child, outcome := v.outcome, status := v.status, cycles := v.cycles }
          let b := (b.leave t).dropTask u n
          let counts := b.moduleCounts
          if t.path = 12 then
            if b.fenced then b.fencedDrop else b.handOver p.serial p.child (res.bytes counts)
          else
            let b := if p.unit = .group ∧ (b.bySerial .group p.serial).isSome then b.addGroup b.moduleId counts else b
            let b := b.shareDone p.unit p.serial res
            match b.bySerial p.unit p.serial with
            | some q => if q.phase = .finished then b.endShareTask fuel p.unit p.serial else b
            | none => b

end Sys2Proof.Machine
end

