-- ==== Sys2Proof/Machine/Sram.lean ====
section
/-! DEFINITION. On-module SRAM (R223 to R231, R242, R243): the slab allocator of each tile, shadow allocations, retired slabs, the
operand cache's commands, corrected words. -/

namespace Sys2Proof.Machine

open Sys2Proof

/-! ## Slabs -/

/-- Slab addresses of a tile's allocation space (R223). -/
def slabSpace : Nat := 0x1C000

/-- Slabs of a slice: a schedulable core's slice keeps 1,024 for its scratch window (R228). -/
def sliceSlabs (on : Bool) : Nat := if on then 7168 else 8192

/-- Allocations a tile may hold. -/
def maxAllocs : Nat := 4096

/-- Is a physical slab free: held by no allocation and not retired? -/
def TileSt.slabFree (x : TileSt) (s : Nat) : Bool := !x.retired.contains s && !x.allocs.any (fun a => a.slabs.contains s)

/-- Up to `n` free slabs from slab `s` on, looking at `fuel` of them. -/
def takeSlabs (free : Nat → Bool) : Nat → Nat → Nat → List Nat
  | 0, _, _ => []
  | _ + 1, _, 0 => []
  | f + 1, s, n + 1 => if free s then s :: takeSlabs free f (s + 1) n else takeSlabs free f (s + 1) (n + 1)

/-- The schedulable state of a core of a tile. -/
def Block.sliceOn (b : Block) (t : Fin 16) (c : Nat) : Bool := if h : c < 8 then b.coreOn (flatCore t ⟨c, h⟩) else false

/-- `n` slabs from the slices in the given order; fewer where they do not hold so many. DEDUCED (notes/assumptions/40.md). -/
def Block.pickSlabs (b : Block) (t : Fin 16) (order : List Nat) (n : Nat) : List Nat :=
  order.foldl (fun l c => l ++ takeSlabs (b.tile t.val).slabFree (sliceSlabs (b.sliceOn t c)) (8192 * c) (n - l.length)) []

/-- The lowest free run of `n` slab addresses (R228). DEDUCED (notes/assumptions/40.md). -/
def TileSt.findRun (x : TileSt) (n : Nat) : Option Nat :=
  let fits := fun (k : Nat) => decide (k + n ≤ slabSpace) &&
    x.allocs.all (fun a => decide (k + n ≤ a.base) || decide (a.base + a.slabs.length ≤ k))
  ((0 :: x.allocs.map (fun a => a.base + a.slabs.length)).filter fits).foldl (fun m k => match m with
    | none => some k
    | some j => some (min j k)) none

/-- Make an allocation where slabs, a run and a place in the table are free: its base and generation. Every slab takes the highest
generation that any of them holds (R99). -/
def Block.slabAlloc (b : Block) (t : Fin 16) (kind : AllocKind) (order : List Nat) (n : Nat) : Option (Nat × Nat × Block) :=
  let x := b.tile t.val
  if maxAllocs ≤ x.allocs.length then none
  else
    let l := b.pickSlabs t order n
    match x.findRun n with
    | none => none
    | some k =>
      if l.length < n then none
      else
        let g := ((List.range n).map (fun i => Sparse.get (fun _ => 0) x.gens (k + i))).foldl max 0
        let gens := (List.range n).foldl (fun m i => Sparse.put (fun _ => 0) m (k + i) g) x.gens
        let a : SramAlloc := { base := k, slabs := l, kind := kind, gen := g, binds := [], freed := false }
        let b := b.setTile t.val { x with allocs := x.allocs ++ [a], gens := gens }
        some (k, g, b.wrN (.tile t) Reg.TILE_ALLOC_FREE (b.rdN (.tile t) Reg.TILE_ALLOC_FREE - n))

/-- Advance the generations of an allocation's slabs (R99). -/
def Block.bumpGens (b : Block) (t : Fin 16) (base n : Nat) : Block :=
  let x := b.tile t.val
  b.setTile t.val { x with gens := (List.range n).foldl (fun m i =>
    Sparse.put (fun _ => 0) m (base + i) ((Sparse.get (fun _ => 0) m (base + i) + 1) % 2 ^ 16)) x.gens }

/-- Retire a slab as its allocation lets go of it (R227, R443): `a` is its module address. DEDUCED (notes/assumptions/40.md). -/
def Block.retireSlab (b : Block) (t : Fin 16) (slab a : Nat) : Block :=
  let x := b.tile t.val
  let full := 256 ≤ x.recorded.length
  let y : TileSt := { x with bad := x.bad.filter (fun s => s != slab)
                             retired := x.retired ++ [slab]
                             recorded := if full then x.recorded else x.recorded ++ [slab] }
  let b := b.setTile t.val y
  let b := if full then b else { b with nv := { b.nv with slabs := b.nv.slabs ++ [(t.val, slab)] } }
  let old := b.rdN (.tile t) Reg.TILE_SRAM_RETIRED
  let b := b.wrField (.tile t) Reg.TILE_SRAM_RETIRED 12 0 y.retired.length
  let b := b.logState .self (.tile t) Reg.TILE_SRAM_RETIRED old y.retired.length
  let b := b.post Ev.SRAM_SLAB_RETIRED (.tile t) a
  if full then b.post Ev.RETIRE_TABLE_FULL (.tile t) 0 else b

/-- Slabs return to the pool, those found bad to retirement; `base` is the slab address of the first. -/
def Block.giveBack (b : Block) (t : Fin 16) (base : Nat) (slabs : List Nat) : Block :=
  slabs.zipIdx.foldl (fun y p =>
    if (y.tile t.val).bad.contains p.1 then y.retireSlab t p.1 (t.val * 2 ^ 33 + (base + p.2) * 65536)
    else y.wrN (.tile t) Reg.TILE_ALLOC_FREE (y.rdN (.tile t) Reg.TILE_ALLOC_FREE + 1)) b

/-- Take an allocation out of the table and return its slabs. -/
def Block.dropAlloc (b : Block) (t : Fin 16) (base : Nat) : Block :=
  let x := b.tile t.val
  match x.allocs.find? (fun a => a.base == base) with
  | none => b
  | some a => (b.setTile t.val { x with allocs := x.allocs.filter (fun y => y.base != base) }).giveBack t base a.slabs

/-- What a warm reset keeps of a tile: slabs retired without a record, and those whose allocation it ends with a word found
uncorrectable (R227). -/
def TileSt.warm (x : TileSt) : TileSt := { TileSt.empty with retired := x.retired, recorded := x.recorded, bad := x.bad }

/-- What a tile shows of its slabs once fuses and records are loaded (R227, R228): free slabs and those retired. A slab found bad in an
allocation that a warm reset has ended is retired then, with a record while there is room for one.
DEDUCED (notes/assumptions/40.md). -/
def Block.bootTile (b : Block) (t : Fin 16) : Block :=
  let x := b.tile t.val
  let rec_ := (b.nv.slabs.filter (fun p => p.1 == t.val)).map (fun p => p.2)
  let new := (x.bad.filter (fun s => !rec_.contains s && !x.retired.contains s)).eraseDups
  let more := new.take (256 - rec_.length)
  let out := (rec_ ++ x.retired ++ new).eraseDups
  let b := { b with nv := { b.nv with slabs := b.nv.slabs ++ more.map (fun s => (t.val, s)) } }
  let b := b.setTile t.val { x with retired := out, recorded := rec_ ++ more, bad := [] }
  let all := ((List.range 8).map (fun c => sliceSlabs (b.sliceOn t c))).sum
  (b.wrN (.tile t) Reg.TILE_ALLOC_FREE (all - out.length)).wrN (.tile t) Reg.TILE_SRAM_RETIRED out.length

/-! ## Commands of the allocator -/

/-- End an allocator command: RESULT, and the event of a refusal. -/
def Block.allocResult (b : Block) (t : Fin 16) (code : Nat) : Block :=
  let b := b.wrN (.tile t) Reg.TILE_ALLOC_STAT code
  if code = 0 then b else b.post code (.tile t) 0

/-- Slices in the order that HOME and SPREAD give (R228). -/
def sliceOrder (home : Nat) (spread : Bool) : List Nat :=
  home :: if spread then (List.range 8).filter (fun c => c != home) else []

/-- The kind that a KIND field names. -/
def allocKind? : Nat → Option AllocKind
  | 0 => some .data
  | 1 => some .descriptor
  | 2 => some .list
  | _ => none

/-- The effect of ALLOC (R228, R229, R231). -/
def Block.allocCmd (b : Block) (t : Fin 16) : Block :=
  let q := b.rd (.tile t) Reg.TILE_ALLOC_REQ
  let n := b.rdN (.tile t) Reg.TILE_ALLOC_SIZE
  let x := b.tile t.val
  match allocKind? (wfield q 1 0) with
  | none => b.allocResult t Ev.ALLOC_FIELD
  | some k =>
    if n = 0 ∨ 65536 < n then b.allocResult t Ev.ALLOC_FIELD
    else if maxAllocs ≤ x.allocs.length then b.allocResult t Ev.ALLOC_TABLE_FULL
    else if !x.shadowQ.isEmpty then b.allocResult t Ev.ALLOC_NO_SPACE
    else match b.slabAlloc t k (sliceOrder (wfield q 18 16) (wbit q 19)) n with
      | none => b.allocResult t Ev.ALLOC_NO_SPACE
      | some (base, g, y) =>
        ((y.wr64 (.tile t) Reg.TILE_ALLOC_ADDR_LO (t.val * 2 ^ 33 + base * 65536)).wrN (.tile t) Reg.TILE_ALLOC_GEN g).allocResult t 0

/-- TILE_ALLOC_CMD 1. -/
def tileAlloc (o : Origin) (t : Fin 16) (b : Block) : Block :=
  b.gate o (.tile t) Reg.TILE_ALLOC_CMD .none (fun x => x.allocCmd t)

/-- TILE_ALLOC (R228, R229). -/
def execTileAlloc (o : Origin) (t : Fin 16) (s : State) : Host.Outcome State Fault Refusal := s.onWrite o (tileAlloc o t)

/-- The effect of FREE (R230). DEDUCED (notes/assumptions/40.md). -/
def Block.freeCmd (b : Block) (t : Fin 16) : Block :=
  let a := b.rd64 (.tile t) Reg.TILE_ALLOC_ADDR_LO
  let x := b.tile t.val
  match x.allocs.find? (fun y => !y.freed && decide (y.kind ≠ .shadow) && decide (t.val * 2 ^ 33 + y.base * 65536 = a)) with
  | none => b.allocResult t Ev.ALLOC_BAD_FREE
  | some y =>
    let b := b.setTile t.val { x with allocs := x.allocs.map (fun z => if z.base = y.base then { z with freed := true } else z) }
    let b := b.bumpGens t y.base y.slabs.length
    (b.wrN (.tile t) Reg.TILE_ALLOC_GEN (Sparse.get (fun _ => 0) (b.tile t.val).gens y.base)).allocResult t 0

/-- TILE_ALLOC_CMD 2. -/
def tileFree (o : Origin) (t : Fin 16) (b : Block) : Block :=
  b.gate o (.tile t) Reg.TILE_ALLOC_CMD .none (fun x => x.freeCmd t)

/-- TILE_FREE (R230). -/
def execTileFree (o : Origin) (t : Fin 16) (s : State) : Host.Outcome State Fault Refusal := s.onWrite o (tileFree o t)

/-! ## When slabs and pages return -/

/-- Addresses that a record names beside its list and descriptors: what it writes there (R66, R97, R213, R346, R360). -/
def TaskRec.writesTo (r : TaskRec) : List Nat :=
  match r.kind.toNat with
  | 3 => [r.par 0x18 8]
  | 6 => [r.par 8 8, r.par 0x10 8]
  | 7 => [r.par 8 8]
  | 9 => [r.par 0x10 8]
  | _ => []

/-- Addresses that a task's records name: its list, its descriptors and those in its parameters, the data of each
descriptor, and what else it writes. -/
def Block.named (b : Block) (t : TaskSt) : List Nat :=
  let b := { b with lens := t.kept }
  let recs := t.task :: t.links
  let ranges := recs.flatMap TaskRec.recordRanges
  ranges.map (fun p => p.1) ++
    (ranges.filter (fun p => p.2 == 64 && b.probe p.1 64 == .ok)).flatMap (fun p => let d := b.desc p.1; [d.base, d.scaleBase]) ++
    (recs.flatMap TaskRec.writesTo).filter (fun a => a != 0)

/-- Does a task already dispatched name an address of a range, or a validator write into it (R230, R284)? -/
def Block.stillUsed (b : Block) (lo n : Nat) : Bool :=
  b.activeUnits.any (fun u => (b.unit u).board.any (fun t => decide (t.phase ≠ .admitted) &&
    (b.named t).any (fun a => decide (lo ≤ a) && decide (a < lo + n)))) ||
  (List.range 16).any (fun t => match (b.tile t).val with
    | some r => decide (lo ≤ r.dst) && decide (r.dst < lo + n)
    | none => false)

/-- A freed allocation's slabs return once nothing uses them. DEDUCED (notes/assumptions/40.md). -/
def slabReturn (t : Fin 16) (base : Nat) (b : Block) : Block :=
  match (b.tile t.val).allocs.find? (fun a => a.freed && a.base == base) with
  | none => b
  | some a => if b.stillUsed (t.val * 2 ^ 33 + base * 65536) (a.slabs.length * 65536) then b else b.dropAlloc t base

/-- SLAB_RETURN (R227, R230). -/
def execSlabReturn (t : Fin 16) (base : Nat) (s : State) : Host.Outcome State Fault Refusal := s.onBlock (slabReturn t base)

/-! ## Shadows (R56, R231) -/

/-- Give every task of a speculative family its shadow: the task with the serial number and the shares whose root it is. -/
def Block.giveShadow (b : Block) (serial shadow target : Nat) : Block :=
  let f := fun (t : TaskSt) => if t.serial = serial ∨ t.root = some serial then { t with shadow := some (shadow, target) } else t
  { b with units := b.units.map (fun p => (p.1, { p.2 with board := p.2.board.map f, inbox := p.2.inbox.map f })) }

/-- The bytes of slabs that nothing has written hold undefined contents: free values (R56). -/
def Block.spoilSlabs (b : Block) (t : Nat) (slabs : List Nat) : Block :=
  { b with mem := Sparse.clear (fun k => decide (k < 2 ^ 40) && (slabs.map (fun s => t * 65536 + s)).contains (k / 65536)) b.mem
           slabFree := slabs.foldl (fun m s => Sparse.put (fun _ => 0) m (t * 65536 + s) (b.free + 1)) b.slabFree
           free := b.free + 1 }

/-- The waiting shadow request at the head of a tile's queue is granted when slabs, a run and a place allow; its contents are
undefined until they are written (R56). -/
def shadowGrant (t : Fin 16) (b : Block) : Block :=
  let x := b.tile t.val
  match x.shadowQ with
  | [] => b
  | q :: rest =>
    let order := match q.home with
      | some c => sliceOrder c true
      | none => List.range 8
    match (b.setTile t.val { x with shadowQ := rest }).slabAlloc t .shadow order q.slabs with
    | none => b
    | some (base, _, y) =>
      match (y.bySerial q.unit q.serial).bind (fun k => y.specTarget k.task) with
      | some v =>
        let slabs := ((y.tile t.val).allocs.getLast?.map (fun a => a.slabs)).getD []
        (y.spoilSlabs t.val slabs).giveShadow q.serial (t.val * 2 ^ 33 + base * 65536) v.base
      | none => y.dropAlloc t base

/-- SHADOW_GRANT (R231). -/
def execShadowGrant (t : Fin 16) (s : State) : Host.Outcome State Fault Refusal := s.onBlock (shadowGrant t)

/-- Ask the allocator of the tile that holds a speculative task's output for its shadow (R56, R231). -/
def Block.askShadow (b : Block) (u : UnitId) (t : TaskSt) : Block :=
  match b.specTarget t.task with
  | none => b
  | some v =>
    if h : v.base / 2 ^ 33 < 16 then
      let tile : Fin 16 := ⟨v.base / 2 ^ 33, h⟩
      let home := match u with
        | .core c => if c.val / 8 = tile.val then some (c.val % 8) else none
        | _ => none
      let x := b.tile tile.val
      (b.setTile tile.val { x with shadowQ := x.shadowQ ++ [{ unit := u, serial := t.serial, slabs := v.len / 65536, home := home }] }).mapTask
        u t.serial (fun k => { k with shadowAsked := true })
    else b

/-- The tile and slab address of an SRAM module address. -/
def slabAt (a : Nat) : Option (Fin 16 × Nat) := if h : a / 2 ^ 33 < 16 then some (⟨a / 2 ^ 33, h⟩, a % 2 ^ 33 / 65536) else none

/-- Commit (R58): the shadow's slabs take the place of the target's, whose slabs return. The generations of the target's addresses stay:
what names the target goes on naming it. Those of the shadow's own run stay too, unlike at a discard. DESIGN CHOICE (notes/assumptions/40.md). -/
def Block.commitShadow (b : Block) (shadow target : Nat) : Block :=
  match slabAt shadow, slabAt target with
  | some (t, s), some (_, g) =>
    let x := b.tile t.val
    match x.allocs.find? (fun a => a.base == s), x.allocs.find? (fun a => a.base == g) with
    | some sh, some tg =>
      (b.setTile t.val { x with allocs := (x.allocs.filter (fun a => a.base != s)).map (fun a =>
        if a.base = g then { a with slabs := sh.slabs } else a) }).giveBack t g tg.slabs
    | _, _ => b
  | _, _ => b

/-- Discard (R58): the shadow returns to the allocator; its generations advance as those of a freed allocation (R99).
DEDUCED and DESIGN CHOICE (notes/assumptions/40.md). -/
def Block.discardShadow (b : Block) (shadow : Nat) : Block :=
  match slabAt shadow with
  | none => b
  | some (t, s) => match (b.tile t.val).allocs.find? (fun a => a.base == s) with
    | none => b
    | some a => (b.bumpGens t s a.slabs.length).dropAlloc t s

/-- Withdraw a shadow request that no longer has a task. -/
def Block.cancelShadow (b : Block) (serial : Nat) : Block :=
  { b with tiles := b.tiles.map (fun p => (p.1, { p.2 with shadowQ := p.2.shadowQ.filter (fun q => q.serial != serial) })) }

/-! ## Corrected words, counters, the operand cache -/

/-- A correctable word was read and its corrected value written back: memory holds the value the read delivered, and the owning tile
counts it (R225). -/
def sramCeWriteback (t : Fin 16) (a : DWord) (b : Block) : Block :=
  if a.toNat / 2 ^ 33 = t.val then b.correctedWord a.toNat else b

/-- SRAM_CE_WRITEBACK (R225). -/
def execSramCeWriteback (t : Fin 16) (a : DWord) (s : State) : Host.Outcome State Fault Refusal := s.onBlock (sramCeWriteback t a)

/-- Clear the SRAM error counters of a tile. -/
def tileSramCntClr (o : Origin) (t : Fin 16) (v : Word) (b : Block) : Block :=
  b.gate o (.tile t) Reg.TILE_SRAM_CNT_CLR .none (fun x => x.clearOn v (.tile t) [Reg.TILE_SRAM_CE, Reg.TILE_SRAM_UE])

/-- TILE_SRAM_CNT_CLR (R227). -/
def execTileSramCntClr (o : Origin) (t : Fin 16) (v : Word) (s : State) : Host.Outcome State Fault Refusal :=
  s.onWrite o (tileSramCntClr o t v)

/-- Invalidate every line of a tile's operand cache. -/
def Block.ocFlush (b : Block) (t : Nat) : Block := b.setTile t { b.tile t with oc := [] }

/-- At a barrier release every operand cache with INV_ON_BARRIER loses its lines (R243). -/
def Block.ocBarrier (b : Block) : Block :=
  (List.finRange 16).foldl (fun x t => if wbit (x.rd (.tile t) Reg.TILE_OC_CTL) 1 then x.ocFlush t.val else x) b

/-- A write of TILE_OC_INV. DEDUCED (notes/assumptions/41.md). -/
def tileOcInv (o : Origin) (t : Fin 16) (v : Word) (b : Block) : Block :=
  b.gate o (.tile t) Reg.TILE_OC_INV .none (fun x => if wbit v 0 then x.ocFlush t.val else x)

/-- TILE_OC_INV (R243). -/
def execTileOcInv (o : Origin) (t : Fin 16) (v : Word) (s : State) : Host.Outcome State Fault Refusal := s.onWrite o (tileOcInv o t v)

/-- Clear the operand-cache counters of a tile. -/
def tileOcCntClr (o : Origin) (t : Fin 16) (v : Word) (b : Block) : Block :=
  b.gate o (.tile t) Reg.TILE_OC_CNT_CLR .none (fun x => x.clearOn v (.tile t) [Reg.TILE_OC_HIT, Reg.TILE_OC_MISS])

/-- TILE_OC_CNT_CLR (R242). -/
def execTileOcCntClr (o : Origin) (t : Fin 16) (v : Word) (s : State) : Host.Outcome State Fault Refusal :=
  s.onWrite o (tileOcCntClr o t v)

end Sys2Proof.Machine
end

