-- ==== Sys2Proof/Machine/Hbm.lean ====
section
/-! DEFINITION. HBM stacks and their controllers (R277 to R297): training, allocation, slots, scrubbing, repair, retirement. -/

namespace Sys2Proof.Machine

open Sys2Proof

/-! ## Frames -/

/-- Frames of a stack, and the first one that holds pages (R280). DEDUCED (notes/assumptions/33.md). -/
def stackFrames : Nat := 49152

/-- First frame that pages may take. -/
def firstFrame : Nat := 4

/-- Stacks. -/
def allStacks : List (Fin 20) := List.finRange 20

/-- Frames of a stack that no page may take: they hold a page, await one, or are out of service. -/
def Block.framesTaken (b : Block) (st : Nat) : List Nat :=
  ((b.hbm.ptes.filter (fun p => p.2.valid && p.2.resident && p.2.stack == st)).map (fun p => p.2.frame) ++
    (b.hbm.moves.filter (fun m => m.inward && m.started && m.frame != 0 && (b.pte m.page).stack == st)).map (fun m => m.frame) ++
    (b.hbm.migrations.filter (fun m => m.stack == st)).map (fun m => m.toFrame) ++ (b.stk st).outOfService).eraseDups

/-- The lowest number from `k` on that a list does not hold, looking at `fuel` of them. -/
def lowestNot (l : List Nat) : Nat → Nat → Nat
  | 0, k => k
  | f + 1, k => if l.contains k then lowestNot l f (k + 1) else k

/-- The lowest free frame of a stack. -/
def Block.freeFrame (b : Block) (st : Nat) : Option Nat :=
  let l := b.framesTaken st
  let k := lowestNot l (l.length + 1) firstFrame
  if k < stackFrames then some k else none

/-- Far frames that pages hold. -/
def Block.farTaken (b : Block) : List Nat := (b.hbm.ptes.filter (fun p => p.2.evictable)).map (fun p => p.2.farFrame)

/-- The lowest free paging frame of the far tier. -/
def Block.freeFar (b : Block) : Option Nat :=
  let l := b.farTaken
  let k := lowestNot l (l.length + 1) (b.farFrames.1 - b.farFrames.2)
  if k < b.farFrames.1 then some k else none

/-- HBC_FREE_FRAMES and HBC_FREE_FAR follow what is free. DEDUCED (notes/assumptions/33.md). -/
def Block.showFree (b : Block) : Block :=
  let n := (allStacks.map (fun st => if (b.stk st.val).inService then stackFrames - firstFrame - (b.framesTaken st.val).length else 0)).sum
  (b.wrN .hbcMod Reg.HBC_FREE_FRAMES n).wrN .hbcMod Reg.HBC_FREE_FAR (b.farFrames.2 - b.farTaken.length)

/-- HBC_RETIRED, and HBC_RETIRE_ENTRY under HBC_RETIRE_SEL. DEDUCED (notes/assumptions/33.md). -/
def Block.showRetire (b : Block) : Block :=
  let b := b.wrN .hbcMod Reg.HBC_RETIRED b.hbm.retire.length
  b.wrN .hbcMod Reg.HBC_RETIRE_ENTRY (match b.hbm.retire[b.rdN .hbcMod Reg.HBC_RETIRE_SEL % 4096]? with
    | some e => 2 ^ 31 + b2n e.pendingOut * 2 ^ 30 + b2n e.persisted * 2 ^ 29 + e.stack * 2 ^ 16 + e.frame
    | none => 0)

/-- The 64-bit word of a page-table entry (R281). -/
def Pte.word (e : Pte) : Nat :=
  b2n e.valid * 2 ^ 63 + b2n e.resident * 2 ^ 62 + b2n e.pinned * 2 ^ 61 + b2n e.moving * 2 ^ 60 + b2n e.dirty * 2 ^ 59 +
    b2n e.accessed * 2 ^ 58 + e.stack % 32 * 2 ^ 53 + e.frame % 2 ^ 16 * 2 ^ 37 + e.farFrame % 2 ^ 21 * 2 ^ 16 +
    b2n e.evictable * 2 ^ 15 + b2n e.farCurrent * 2 ^ 14

/-! ## Training (R278, R293) -/

/-- Spare rows of each bank (R277). -/
def spareRows : Nat := 4

/-- HBC_SPARES: banks of a stack with no spare row left. DEDUCED (notes/assumptions/33.md). -/
def Block.showSpares (b : Block) (st : Fin 20) : Block :=
  b.wrN (.hbc st) Reg.HBC_SPARES ((b.stk st.val).spares.filter (fun p => decide (spareRows ≤ p.2))).length

/-- A stack is trained at boot. `failing` names the channel of each failing data lane. Frames that the retirement table lists are not offered,
those that waited for their page included, whose page is gone (R297). DEDUCED (notes/assumptions/33.md). -/
def stackTraining (st : Fin 20) (trained : Bool) (failing : List Nat) (b : Block) : Block :=
  if b.boot.run ≠ .stages then b
  else
    let lanes := fun (c : Nat) => (failing.filter (fun x => x == c)).length
    let chans := failing.eraseDups
    let ok := trained && chans.all (fun c => decide (lanes c ≤ 2))
    let remapped := (chans.map (fun c => min 2 (lanes c))).sum
    let off := fun (l : List RetireEntry) => l.map (fun e => if e.stack = st.val then { e with pendingOut := false } else e)
    let out := (b.nv.retire.filter (fun e => e.stack == st.val)).map (fun e => e.frame)
    let spares := (b.nv.repairs.filter (fun r => r.1 == st.val)).foldl (fun m r =>
      let k := Config.bankOf r.2.1 r.2.2
      Sparse.put (fun _ => 0) m k (Sparse.get (fun _ => 0) m k + 1)) []
    let b := b.setStk st.val { b.stk st.val with inService := ok, outOfService := out, spares := spares }
    let b := { b with nv := { b.nv with retire := off b.nv.retire } }
    let b := { b with hbm := { b.hbm with retire := b.nv.retire } }
    let b := b.wrN (.hbc st) Reg.HBC_LANES (min remapped 255 + 2 ^ 8 * (chans.filter (fun c => decide (2 ≤ lanes c))).length)
    let b := (List.range remapped).foldl (fun y _ => y.post Ev.HBM_LANE_REPAIRED (.hbc st) 0) b
    let old := b.rdN (.hbc st) Reg.STAT
    let b := (b.wrBit (.hbc st) Reg.STAT 31 ok).wrN (.hbc st) Reg.HBC_FRAMES (if ok then stackFrames - out.length else 0)
    let b := if ok then b else
      (b.logState .self (.hbc st) Reg.STAT old (b.rdN (.hbc st) Reg.STAT)).post Ev.HBM_STACK_DOWN (.hbc st) 0
    ((b.showSpares st).showRetire).showFree

/-- STACK_TRAINING (R278, R293). -/
def execStackTraining (st : Fin 20) (trained : Bool) (failing : List Nat) (s : State) : Host.Outcome State Fault Refusal :=
  s.onPort (fun _ => stackTraining st trained failing)

/-! ## The allocator (R284, R285) -/

/-- HBM allocations held at most. -/
def maxHbmAllocs : Nat := 65536

/-- Pages of HBM space. -/
def hbmPages : Nat := 4194304

/-- The lowest free run of `n` pages. -/
def Block.pageRun (b : Block) (n : Nat) : Option Nat :=
  let fits := fun (k : Nat) => decide (k + n ≤ hbmPages) &&
    b.hbm.allocs.all (fun a => decide (k + n ≤ a.base) || decide (a.base + a.pages ≤ k))
  ((0 :: b.hbm.allocs.map (fun a => a.base + a.pages)).filter fits).foldl (fun m k => match m with
    | none => some k
    | some j => some (min j k)) none

/-- Stacks that take the pages of an allocation in turn. -/
def Block.placeStacks (b : Block) (stripe : Bool) (first mask : Nat) : List Nat :=
  if stripe then ((List.range 20).map (fun i => (first + i) % 20)).filter (fun k => bit mask k && (b.stk k).inService)
  else if (b.stk first).inService then [first] else []

/-- Give page `v` its frames: the entry, or none for want of room. -/
def Block.placePage (b : Block) (v st : Nat) (evict far : Bool) : Option Block :=
  let fr := if far then some 0 else b.freeFrame st
  let ff := if evict || far then b.freeFar else some 0
  match fr, ff with
  | some f, some k =>
    some (b.setPte v { Pte.none with valid := true, resident := !far, stack := st, frame := f, farFrame := k,
                                     evictable := evict || far, farCurrent := far })
  | _, _ => none

/-- The refusal of an ALLOC for its fields (R284). -/
def Block.hbmFieldBad (b : Block) : Bool :=
  let q := b.rd .hbcMod Reg.HBC_ALLOC_REQ
  let n := b.rdN .hbcMod Reg.HBC_ALLOC_SIZE
  let place := wfield q 3 2
  decide (wfield q 1 0 = 3) || decide (2 ≤ place) || decide (n = 0) || decide (hbmPages < n) || decide (19 < wfield q 20 16) ||
    (wfield q 1 0 != 0 && (place == 1 || wbit q 21 || wbit q 22)) ||
    (place == 1 && (b.placeStacks true (wfield q 20 16) (b.rdN .hbcMod Reg.HBC_ALLOC_MASK)).isEmpty)

/-- End a command of the HBM allocator. -/
def Block.hbmResult (b : Block) (code : Nat) : Block :=
  let b := b.wrN .hbcMod Reg.HBC_ALLOC_STAT code
  if code = 0 then b else b.post code .hbcMod 0

/-- The effect of ALLOC. -/
def Block.hbmAllocCmd (b : Block) : Block :=
  let q := b.rd .hbcMod Reg.HBC_ALLOC_REQ
  let n := b.rdN .hbcMod Reg.HBC_ALLOC_SIZE
  if b.hbmFieldBad then b.hbmResult Ev.ALLOC_FIELD
  else if maxHbmAllocs ≤ b.hbm.allocs.length then b.hbmResult Ev.ALLOC_TABLE_FULL
  else
    let stks := b.placeStacks (wfield q 3 2 == 1) (wfield q 20 16) (b.rdN .hbcMod Reg.HBC_ALLOC_MASK)
    match b.pageRun n, stks with
    | some base, s :: _ =>
      match (List.range n).foldl (fun (y : Option Block) i => y.bind (fun y =>
          y.placePage (base + i) (stks.getD (i % stks.length) s) (wbit q 21) (wbit q 22))) (some b) with
      | none => b.hbmResult Ev.ALLOC_NO_SPACE
      | some y =>
        let g := ((List.range n).map (fun i => Sparse.get (fun _ => 0) y.hbm.gens (base + i))).foldl max 0
        let gens := (List.range n).foldl (fun m i => Sparse.put (fun _ => 0) m (base + i) g) y.hbm.gens
        let a : HbmAlloc := { base := base, pages := n, kind := (allocKind? (wfield q 1 0)).getD .data, gen := g, binds := [],
                              freed := false }
        let y := { y with hbm := { y.hbm with allocs := y.hbm.allocs ++ [a], gens := gens } }
        let y := if wbit q 23 then (List.range n).foldl (fun z i => z.store (hbmBase + (base + i) * 2 ^ 21) (List.replicate (2 ^ 21) 0)) y
          else y
        (((y.wr64 .hbcMod Reg.HBC_ALLOC_ADDR_LO (hbmBase + base * 2 ^ 21)).wrN .hbcMod Reg.HBC_ALLOC_GEN g).showFree).hbmResult 0
    | _, _ => b.hbmResult Ev.ALLOC_NO_SPACE

/-- HBC_ALLOC_CMD 1. -/
def hbmAlloc (o : Origin) (b : Block) : Block := b.gate o .hbcMod Reg.HBC_ALLOC_CMD .none (fun x => x.hbmAllocCmd)

/-- HBM_ALLOC (R284, R285). -/
def execHbmAlloc (o : Origin) (s : State) : Host.Outcome State Fault Refusal := s.onWrite o (hbmAlloc o)

/-- The effect of FREE (R230, R284). -/
def Block.hbmFreeCmd (b : Block) : Block :=
  let a := b.rd64 .hbcMod Reg.HBC_ALLOC_ADDR_LO
  match b.hbm.allocs.find? (fun x => !x.freed && hbmBase + x.base * 2 ^ 21 == a) with
  | none => b.hbmResult Ev.ALLOC_BAD_FREE
  | some x =>
    let gens := (List.range x.pages).foldl (fun m i =>
      Sparse.put (fun _ => 0) m (x.base + i) ((Sparse.get (fun _ => 0) m (x.base + i) + 1) % 2 ^ 16)) b.hbm.gens
    let allocs := b.hbm.allocs.map (fun y => if y.base = x.base then { y with freed := true } else y)
    let b := { b with hbm := { b.hbm with allocs := allocs, gens := gens } }
    (b.wrN .hbcMod Reg.HBC_ALLOC_GEN (Sparse.get (fun _ => 0) gens x.base)).hbmResult 0

/-- HBC_ALLOC_CMD 2. -/
def hbmFree (o : Origin) (b : Block) : Block := b.gate o .hbcMod Reg.HBC_ALLOC_CMD .none (fun x => x.hbmFreeCmd)

/-- HBM_FREE (R284). -/
def execHbmFree (o : Origin) (s : State) : Host.Outcome State Fault Refusal := s.onWrite o (hbmFree o)

/-- A write of HBC_PTE_SEL latches an entry. -/
def hbcPteSelWrite (o : Origin) (v : Word) (b : Block) : Block :=
  b.gate o .hbcMod Reg.HBC_PTE_SEL .change (fun x =>
    let x := x.writeFields .hbcMod Reg.HBC_PTE_SEL v
    x.wr64 .hbcMod Reg.HBC_PTE_LO (x.pte (x.rdN .hbcMod Reg.HBC_PTE_SEL)).word)

/-- HBC_PTE_SEL_WRITE (R281). -/
def execHbcPteSelWrite (o : Origin) (v : Word) (s : State) : Host.Outcome State Fault Refusal := s.onWrite o (hbcPteSelWrite o v)

/-! ## Errors, repair, retirement (R290 to R297) -/

/-- Entries of the retirement table. -/
def retireSize : Nat := 4096

/-- A frame leaves service (R296, R297): recorded where the table has room, and posted. -/
def Block.leaveService (b : Block) (st : Fin 20) (frame page : Nat) : Block :=
  let x := b.stk st.val
  let old := b.rdN (.hbc st) Reg.HBC_FRAMES
  let b := b.setStk st.val { x with outOfService := x.outOfService ++ [frame] }
  let b := b.wrN (.hbc st) Reg.HBC_FRAMES (old - 1)
  let mine := fun (e : RetireEntry) => e.stack == st.val && e.frame == frame
  let l := b.hbm.retire
  let full := !l.any mine && decide (retireSize ≤ l.length)
  let put := fun (l : List RetireEntry) =>
    if l.any mine then l.map (fun e => if mine e then { e with pendingOut := false } else e)
    else l ++ [{ stack := st.val, frame := frame, pendingOut := false, persisted := true }]
  let b := if full then (if b.hbm.unlisted.contains (st.val, frame) then b else b.post Ev.RETIRE_TABLE_FULL .hbcMod 0)
    else { b with hbm := { b.hbm with retire := put l }, nv := { b.nv with retire := put b.nv.retire } }
  let b := { b with hbm := { b.hbm with leaving := b.hbm.leaving.filter (fun p => p != (st.val, frame))
                                        unlisted := b.hbm.unlisted.filter (fun p => p != (st.val, frame)) } }
  let b := b.logState .self (.hbc st) Reg.HBC_FRAMES old (old - 1)
  ((b.post Ev.PAGE_RETIRED (.hbc st) (st.val + frame * 2 ^ 16 + page * 2 ^ 32)).showRetire).showFree

/-- The page that lies in a frame. -/
def Block.pageIn? (b : Block) (st frame : Nat) : Option Nat :=
  (b.hbm.ptes.find? (fun p => p.2.valid && p.2.resident && p.2.stack == st && p.2.frame == frame)).map (fun p => p.1)

/-- Start a page-out of a page (R302). -/
def Block.startOut (b : Block) (v : Nat) (owners : List Nat) (victimFor : Option Nat) (why : MoveWhy) : Block :=
  let b := b.setPte v { b.pte v with moving := true }
  { b with hbm := { b.hbm with moves := b.hbm.moves ++ [{ page := v, inward := false, why := why, started := true, frame := 0,
                                                          owners := owners, victimFor := victimFor }] } }

/-- MIGRATING of a stack. -/
def Block.showMigrating (b : Block) (st : Fin 20) : Block :=
  b.wrBit (.hbc st) Reg.STAT 28 (b.hbm.migrations.any (fun m => m.stack == st.val))

/-- Is a frame the target of a page's move or migration under way? -/
def Block.frameAwaits (b : Block) (st frame : Nat) : Bool :=
  b.hbm.moves.any (fun m => m.inward && m.started && m.frame == frame && m.frame != 0 && (b.pte m.page).stack == st) ||
    b.hbm.migrations.any (fun m => m.stack == st && m.toFrame == frame)

/-- Mark a frame that stays in use until its page is freed (R296); a mark that finds the table full is not recorded (R297). -/
def Block.markPending (b : Block) (st frame : Nat) : Block :=
  let b := { b with hbm := { b.hbm with leaving := b.hbm.leaving ++ [(st, frame)] } }
  if b.hbm.retire.any (fun e => e.stack == st && e.frame == frame) then b
  else if retireSize ≤ b.hbm.retire.length then
    ({ b with hbm := { b.hbm with unlisted := b.hbm.unlisted ++ [(st, frame)] } }).post Ev.RETIRE_TABLE_FULL .hbcMod 0
  else
    let n : RetireEntry := { stack := st, frame := frame, pendingOut := true, persisted := true }
    ({ b with hbm := { b.hbm with retire := b.hbm.retire ++ [n] }, nv := { b.nv with retire := b.nv.retire ++ [n] } }).showRetire

/-- Retire a frame by the first way that applies (R296). One that a move fills or empties at the moment waits for its end, and one already
marked stays so. -/
def Block.retireFrame (b : Block) (st : Fin 20) (frame : Nat) : Block :=
  let wait := fun (x : Block) => { x with hbm := { x.hbm with leaving := x.hbm.leaving ++ [(st.val, frame)] } }
  if (b.stk st.val).outOfService.contains frame ∨ b.hbm.leaving.contains (st.val, frame) then b
  else if b.frameAwaits st.val frame then wait b
  else match b.pageIn? st.val frame with
    | none => b.leaveService st frame 0
    | some v =>
      let e := b.pte v
      if e.moving then wait b
      else match b.freeFrame st.val with
        | some f =>
          let m : Migration := { page := v, stack := st.val, fromFrame := frame, toFrame := f }
          let b := b.setPte v { e with moving := true }
          (({ b with hbm := { b.hbm with migrations := b.hbm.migrations ++ [m] } }).showMigrating st).showFree
        | none =>
          if e.evictable ∧ !b.hbm.farDown then (wait b).startOut v [] none .prefetch else b.markPending st.val frame

/-- The move that a frame's retirement waited for has left a page in it: its retirement starts anew. -/
def Block.retireAgain (b : Block) (st : Fin 20) (frame : Nat) : Block :=
  if b.hbm.leaving.contains (st.val, frame) then
    ({ b with hbm := { b.hbm with leaving := b.hbm.leaving.filter (fun p => p != (st.val, frame)) } }).retireFrame st frame
  else b

/-- Bank of the row that a repair holds (R294). -/
def Block.heldBank (b : Block) (st : Fin 20) : Option Nat :=
  if wbit (b.rd (.hbc st) Reg.STAT) 29 then (b.stk st.val).marked.head?.map (fun r => Config.bankOf r.1 r.2) else none

/-- The generations of the granules of a row that is written back (R240): two of its four slots lie in each. DEDUCED (notes/assumptions/40.md). -/
def Block.rowWritten (b : Block) (st frame row : Nat) : Block :=
  let x := b.stk st
  b.setStk st { x with gran := [0, 1].foldl (fun g i =>
    let k := frame * 32 + row / 64 * 2 + i
    Sparse.put (fun _ => 0) g k ((Sparse.get (fun _ => 0) g k + 2) % 2 ^ 16)) x.gran }

/-- The first marked row of a stack is repaired onto a spare of its bank, or its frame is retired. `ends` is false for the start of a repair,
which holds the bank. -/
def rowRepair (st : Fin 20) (ends : Bool) (b : Block) : Block :=
  let x := b.stk st.val
  match x.marked with
  | [] => b
  | (frame, row) :: rest =>
    let bank := Config.bankOf frame row
    let used := Sparse.get (fun _ => 0) x.spares bank
    let ce := Sparse.put (fun _ => 0) x.ceRow (frame * 8192 + row) 0
    if used < spareRows then
      if !ends then b.wrBit (.hbc st) Reg.STAT 29 true
      else
        let b := b.setStk st.val { x with marked := rest, ceRow := ce, spares := Sparse.put (fun _ => 0) x.spares bank (used + 1) }
        let b := { b with nv := { b.nv with repairs := b.nv.repairs ++ [(st.val, frame, row)] } }
        let b := (((b.wrBit (.hbc st) Reg.STAT 29 false).countSlots st.val 8).rowWritten st.val frame row).count (.hbc st) Reg.HBC_ROW_REPAIRS 1
        (b.showSpares st).post Ev.HBM_ROW_REPAIRED (.hbc st) 0
    else if !ends then b
    else (b.setStk st.val { x with marked := rest, ceRow := ce }).retireFrame st frame

/-- ROW_REPAIR (R294 to R296). -/
def execRowRepair (st : Fin 20) (ends : Bool) (s : State) : Host.Outcome State Fault Refusal := s.onBlock (rowRepair st ends)

/-- Advance the generation of the granule that holds a word, as a controller's own write-back does (R240, R292).
DEDUCED (notes/assumptions/40.md). -/
def Block.bumpGranule (b : Block) (st frame off : Nat) : Block :=
  let x := b.stk st
  let g := frame * 32 + off / 65536
  b.setStk st { x with gran := Sparse.put (fun _ => 0) x.gran g ((Sparse.get (fun _ => 0) x.gran g + 1) % 2 ^ 16) }

/-- Is a frame of a stack in service? -/
def Block.frameServes (b : Block) (st frame : Nat) : Bool := decide (frame < stackFrames) && !(b.stk st).outOfService.contains frame

/-- A scrub found the word at a byte of a frame uncorrectable (R291): in a frame without a page it is poisoned, counted and its row marked, and
it has no module address to report. DESIGN CHOICE (notes/assumptions/40.md). -/
def Block.scrubBad (b : Block) (st : Fin 20) (frame off : Nat) : Block :=
  match b.pageIn? st.val frame with
  | some v => b.uncorrectable (hbmBase + v * 2 ^ 21 + off)
  | none =>
    let b := { b with poison := Sparse.put (fun _ => false) b.poison ((hbmPhys st.val frame + off) / 8) true }
    (b.count (.hbc st) Reg.HBC_UE 1).markRow st.val frame (rowOf frame (off / 512))

/-- What a scrub of a stack finds: corrected words are counted and written back, uncorrectable ones poisoned. Words are named by their byte in
the stack, frame × 2 MiB + offset: every frame in service is read, with a page or without (R280, R292). -/
def Block.scrub (b : Block) (st : Fin 20) (errs : Errs) : Block :=
  let here := fun (x : Block) (a : DWord) => x.frameServes st.val (a.toNat / 2 ^ 21)
  let b := (errs.corrected.filter (here b)).foldl (fun y a =>
    let f := a.toNat / 2 ^ 21
    let o := a.toNat % 2 ^ 21
    (y.correctedError st f (rowOf f (o / 512))).bumpGranule st.val f o) b
  (errs.uncorr.filter (here b)).foldl (fun y a => y.scrubBad st (a.toNat / 2 ^ 21) (a.toNat % 2 ^ 21)) b

/-- SCRUB_ACTIVE of a stack. At the end of a walk every slot of its frames in service has been read (R286, R292). -/
def Block.scrubWalk (b : Block) (st : Fin 20) (ends : Bool) : Block :=
  let b := b.wrBit (.hbc st) Reg.STAT 30 (!ends)
  if ends then b.countSlots st.val (4096 * (stackFrames - (b.stk st.val).outOfService.length)) else b

/-- The patrol of a stack: what it finds on its way, and whether its walk ends. -/
def patrolScrub (st : Fin 20) (errs : Errs) (ends : Bool) (b : Block) : Block :=
  if (b.stk st.val).inService ∧ wbit (b.rd (.hbc st) Reg.HBC_CFG) 0 then (b.scrub st errs).scrubWalk st ends else b

/-- PATROL_SCRUB (R290 to R292). -/
def execPatrolScrub (st : Fin 20) (errs : Errs) (ends : Bool) (s : State) : Host.Outcome State Fault Refusal :=
  s.onBlock (patrolScrub st errs ends)

/-! ## Slots (R286 to R289) -/

/-- Pseudo-channel of a request (R283). -/
def SlotReq.pc (q : SlotReq) : Nat := (q.slot + 7 * q.frame) % 64

/-- The row of a request. -/
def SlotReq.row (q : SlotReq) : Nat × Nat := (q.frame, rowOf q.frame q.slot)

/-- Urgency of a request as it stands: a waiting one of the Aznor unit becomes LATE by itself as its deadline passes, or after 2,048 MCLK cycles
(R238, R273); the fetch engines' follow DEADLINE_LATE and BULK_AGE_LATE. -/
def Block.urgencyNow (b : Block) (q : SlotReq) : Nat :=
  if q.origin ≠ 18 then q.urgency
  else if (q.urgency = 2 ∧ q.deadline ≤ b.now) ∨ (q.urgency = 3 ∧ q.arrived + 2048 ≤ b.now) then 1
  else q.urgency

/-- Is a request a BULK one of the stack's Aznor unit? -/
def Block.aznBulk (b : Block) (q : SlotReq) : Bool := q.origin == 18 && b.urgencyNow q == 3

/-- Place of a request in the order of R238. -/
def Block.slotPlace (b : Block) (turn : Nat) (q : SlotReq) : Nat × Nat := servePlace turn (b.urgencyNow q) q.arrived q.deadline q.port

/-- The request of a list that is served first; of equals the one that came first. -/
def Block.firstSlot (b : Block) (turn : Nat) : List SlotReq → Option SlotReq
  | [] => none
  | q :: l => match b.firstSlot turn l with
    | none => some q
    | some r => if placeBefore (b.slotPlace turn r) (b.slotPlace turn q) then some r else some q

/-- Slots that the Aznor unit's BULK requests may still take of the present sixteen (R273): none is barred while no other origin waits.
DESIGN CHOICE (notes/assumptions/25.md). -/
def Block.aznRoom (b : Block) (st : Fin 20) : Option Nat :=
  let x := b.stk st.val
  if (x.queue ++ x.beyond).any (fun q => q.origin != 18) then
    some ((match (b.aznUnit st.val).running with | some s => s.share | none => 8) - x.ranAzn)
  else none

/-- Split a queue into the requests that are served, those that `hit` holds of but for BULK ones of the Aznor unit beyond its room, and those
that stay. -/
def Block.splitQueue (b : Block) (hit : SlotReq → Bool) : Option Nat → List SlotReq → List SlotReq × List SlotReq
  | _, [] => ([], [])
  | room, q :: l =>
    let bulk := b.aznBulk q
    if hit q && !(bulk && room == some 0) then
      let r := b.splitQueue hit (if bulk then room.map (fun n => n - 1) else room) l
      (q :: r.1, r.2)
    else
      let r := b.splitQueue hit room l
      (r.1, q :: r.2)

/-- Deliver the data of a read piece to whom it is for: the bytes as they stand, or as they stood before a later write (R289). -/
def Block.deliver (b : Block) (st : Nat) (q : SlotReq) : Block :=
  if q.write then b
  else
    let k := hbmPhys st q.frame + 512 * q.slot + q.first
    let data := if q.data.isEmpty then b.physBytes k q.len else q.data
    let bad := if q.data.isEmpty then (pieces 8 k q.len).filterMap (fun p =>
      if Sparse.get (fun _ => false) b.poison (p.1 / 8) then some (q.addr + (p.1 - k)) else none) else []
    let b := match q.owner with
      | .block id =>
        let at_ := data.zipIdx.map (fun (x : Byte × Nat) => (q.addr + x.2, x.1))
        let put := fun (f : Fetched) => if f.id = id then { f with snap := f.snap ++ at_, poisoned := f.poisoned ++ bad } else f
        { b with cores := b.cores.map (fun (c : Nat × CoreSt) => (c.1, { c.2 with fetched := c.2.fetched.map put })) }
      | .azn =>
        let u := b.aznUnit st
        let add := fun (w : AznWork) => { w with got := w.got ++ [(q.addr, data)] }
        b.setAznUnit st { u with work := u.work.map add }
      | _ => b
    b.markHbm q.addr q.len false

/-- Words in error that reads of one row found: each corrected one counts (R290), each uncorrectable one is poisoned before it is delivered
(R291). -/
def Block.rowErrs (b : Block) (st : Fin 20) (frame row : Nat) (go : List SlotReq) (errs : Errs) : Block :=
  let here := fun (a : DWord) => go.any (fun r => !r.write && inHbm a.toNat && decide (r.addr / 8 ≤ a.toNat / 8) &&
    decide (a.toNat / 8 ≤ (r.addr + r.len - 1) / 8))
  let b := (errs.corrected.filter here).foldl (fun y _ => y.correctedError st frame row) b
  (errs.uncorr.filter here).foldl (fun y a => y.uncorrectable a.toNat) b

/-- A controller serves a pseudo-channel: the request that comes first and every other waiting one of its row. Reads of one slot take it once,
and so do writes. A bank that a repair holds waits (R294). Requests that share bytes share a slot and so are served together: none passes another
(R289). `errs` names words that the reads find in error. DESIGN CHOICE (notes/assumptions/25.md). -/
def hbmSlotServe (st : Fin 20) (pc : Fin 64) (errs : Errs) (b : Block) : Block :=
  let x := b.stk st.val
  let room := b.aznRoom st
  let held := b.heldBank st
  let may := fun (q : SlotReq) => b.lock (18 + st.val) && q.pc == pc.val && !(b.aznBulk q && room == some 0) &&
    !(held == some (Config.bankOf q.frame q.row.2))
  match b.firstSlot x.turn (x.queue.filter may) with
  | none => b
  | some q =>
    let parts := b.splitQueue (fun r => r.pc == pc.val && r.row == q.row) room x.queue
    let go := parts.1
    let reads := go.filter (fun r => !r.write)
    let slotsOf := fun (l : List SlotReq) => ((l.map (fun r => r.slot)).eraseDups).length
    let slots := slotsOf reads + slotsOf (go.filter (fun r => r.write))
    let ran := x.ran + slots
    let fresh := room.isNone || decide (16 ≤ ran)
    let y : StackSt := { x with
      queue := parts.2
      turn := if b.urgencyNow q = 3 then q.port else x.turn
      ran := if fresh then 0 else ran
      ranAzn := if fresh then 0 else x.ranAzn + slotsOf (go.filter b.aznBulk) }
    let b := (b.setQueue st.val y).rowErrs st q.frame q.row.2 go errs
    let b := go.foldl (fun z r => z.deliver st.val r) b
    ((b.countSlots st.val slots).count (.hbc st) Reg.HBC_MERGED (reads.length - slotsOf reads)).refill st.val

/-- HBM_SLOT_SERVE (R238, R273, R286 to R291). -/
def execHbmSlotServe (st : Fin 20) (pc : Fin 64) (errs : Errs) (s : State) : Host.Outcome State Fault Refusal :=
  s.onBlock (hbmSlotServe st pc errs)

/-- Clear the counters of a stack's page. -/
def hbcCntClr (o : Origin) (st : Fin 20) (v : Word) (b : Block) : Block :=
  b.gate o (.hbc st) Reg.HBC_CNT_CLR .none (fun x => x.clearOn v (.hbc st)
    [Reg.HBC_CE, Reg.HBC_UE, Reg.HBC_SLOTS, Reg.HBC_MERGED, Reg.HBC_ROW_REPAIRS])

/-- HBC_CNT_CLR (R306). -/
def execHbcCntClr (o : Origin) (st : Fin 20) (v : Word) (s : State) : Host.Outcome State Fault Refusal :=
  s.onWrite o (hbcCntClr o st v)

end Sys2Proof.Machine
end

