-- ==== Sys2Proof/Machine/Far.lean ====
section
/-! DEFINITION. The far tier and paging (R296 to R306): moves of pages in, out and between frames, PAGE tasks, the CXL port. -/

namespace Sys2Proof.Machine

open Sys2Proof

/-! ## Moving a page -/

/-- Bytes of a page. -/
def pageBytes : Nat := 2 ^ 21

/-- Copy a page between two places of physical memory; poisoned words stay poisoned in the copy (R296). -/
def Block.movePage (b : Block) (src dst : Nat) : Block :=
  let bad := (b.poison.filter (fun p => decide (src ≤ 8 * p.1 ∧ 8 * p.1 < src + pageBytes))).map (fun p => p.1 - src / 8 + dst / 8)
  let b := b.pokePhys dst (b.physBytes src pageBytes)
  { b with poison := bad.foldl (fun m k => Sparse.put (fun _ => false) m k true) b.poison }

/-- Responses of the far tier, of 64 bytes each, that hold a poisoned word of a page at a place of physical memory.
DESIGN CHOICE (notes/assumptions/47.md). -/
def Block.badResponses (b : Block) (src : Nat) : Nat :=
  ((b.poison.filter (fun p => decide (src ≤ 8 * p.1 ∧ 8 * p.1 < src + pageBytes))).map (fun p => p.1 / 8)).eraseDups.length

/-- Poison words of a page at a place of physical memory, named by their bytes in the page. -/
def Block.poisonWords (b : Block) (src : Nat) (l : List Nat) : Block :=
  { b with poison := (l.filter (fun o => decide (o < pageBytes))).foldl (fun m o => Sparse.put (fun _ => false) m ((src + o) / 8) true) b.poison }

/-- Words of a resident page, by address, that the copy of the page found in error as it read them (R290, R291). -/
def Block.pageErrs (b : Block) (page : Nat) (errs : Errs) : Block :=
  let here := fun (a : DWord) => inHbm a.toNat && decide (pageOf a.toNat = page) && (b.pte page).resident
  (errs.uncorr.filter here).foldl (fun y a => y.uncorrectable a.toNat)
    ((errs.corrected.filter here).foldl (fun y a => y.correctedWord a.toNat) b)

/-- Slots of a page: a copy reads or writes each of them (R286). -/
def pageSlots : Nat := 4096

/-- A whole frame was written: the generation of each of its 32 granules advances with each of its 128 slots (R240, R303). -/
def Block.frameWritten (b : Block) (st frame : Nat) : Block :=
  let x := b.stk st
  b.setStk st { x with gran := (List.range 32).foldl (fun g i =>
    Sparse.put (fun _ => 0) g (frame * 32 + i) ((Sparse.get (fun _ => 0) g (frame * 32 + i) + 128) % 2 ^ 16)) x.gran }

/-- Moves of the paging engine under way, but for page-outs that make room for one (R301). -/
def Block.movesRunning (b : Block) : Nat := (b.hbm.moves.filter (fun m => m.started && m.victimFor.isNone)).length

/-- Take a page's move out of the engine. -/
def Block.dropMove (b : Block) (v : Nat) (inward : Bool) : Block :=
  { b with hbm := { b.hbm with moves := b.hbm.moves.filter (fun m => !(m.page == v && m.inward == inward)) } }

/-- A task that asked for a move faults, or its share does in an Aznor unit. -/
def Block.failOwner (b : Block) (st : Fin 20) (code n : Nat) : Block :=
  let task := match b.activeUnits.find? (fun u => (b.bySerial u n).isSome) with
    | some u => if (b.bySerial u n).any (fun t => t.task.kind == 8) then b else b.faultTask u n code
    | none => b
  match (b.aznUnit st.val).running with
  | some s => if s.serial = n then b.endShare st s code else task
  | none => task

/-- A move fails: every task that asked for it faults; a prefetch is dropped and counted (R302). -/
def Block.failMove (b : Block) (m : Move) (code : Nat) : Block :=
  let b := b.dropMove m.page m.inward
  let e := b.pte m.page
  let b := b.setPte m.page { e with moving := false }
  let b := match m.why with
    | .prefetch => b.count .cxl Reg.CXL_PAGE_FAIL 1
    | _ => b
  let b := m.owners.foldl (fun x n => x.failOwner (stackFin e.stack) code n) b
  b.retireAgain (stackFin e.stack) (if m.inward then m.frame else e.frame)

/-! ## Eviction (R302) -/

/-- Put a resident page in its place by frame. -/
def frameInsert (x : Nat × Nat) : List (Nat × Nat) → List (Nat × Nat)
  | [] => [x]
  | y :: r => if x.1 < y.1 then x :: y :: r else y :: frameInsert x r

/-- Frames of a stack with their pages, in ascending order from its hand on. -/
def Block.sweep (b : Block) (st : Nat) : List (Nat × Nat) :=
  let l := (b.hbm.ptes.filter (fun p => p.2.valid && p.2.resident && p.2.stack == st)).foldl (fun a p => frameInsert (p.2.frame, p.1) a) []
  let h := (b.stk st).hand
  l.filter (fun p => decide (h ≤ p.1)) ++ l.filter (fun p => decide (p.1 < h))

/-- Move the hand over frames until a page's ACCESSED is found 0: the victim. -/
def Block.sweepFor (b : Block) (st : Nat) : List (Nat × Nat) → Option Nat × Block
  | [] => (none, b)
  | (f, v) :: rest =>
    let e := b.pte v
    let b := b.setStk st { b.stk st with hand := f + 1 }
    if !e.evictable ∨ e.pinned ∨ e.moving then b.sweepFor st rest
    else if e.accessed then (b.setPte v { e with accessed := false }).sweepFor st rest
    else (some v, b)

/-- Two sweeps of a stack's hand. -/
def Block.victim (b : Block) (st : Nat) : Option Nat × Block :=
  let l := b.sweep st
  b.sweepFor st (l ++ l)

/-- The waiting page-in that starts next: by rank, then oldest. -/
def nextMove (l : List Move) : Option Move :=
  (l.filter (fun m => m.inward && !m.started)).foldl (fun (best : Option Move) m => match best with
    | none => some m
    | some x => if m.why.rank < x.why.rank then some m else some x) none

/-- Change the move of a page. -/
def Block.mapMove (b : Block) (v : Nat) (f : Move → Move) : Block :=
  { b with hbm := { b.hbm with moves := b.hbm.moves.map (fun m => if m.page = v ∧ m.inward then f m else m) } }

/-- Start the next waiting page-in, into a free frame or one that an eviction is to free. -/
def pageInStart (b : Block) : Block :=
  match nextMove b.hbm.moves with
  | none => b
  | some m =>
    let e := b.pte m.page
    if 16 ≤ b.movesRunning ∨ e.moving then b
    else if b.hbm.farDown then b.failMove m Ev.FAR_UNREACHABLE
    else if e.resident ∨ !e.valid then b.dropMove m.page true
    else
      let b := b.setPte m.page { e with moving := true }
      match b.freeFrame e.stack with
      | some f => (b.mapMove m.page (fun x => { x with started := true, frame := f })).showFree
      | none =>
        let v := b.victim e.stack
        match v.1 with
        | none => v.2.failMove m Ev.PAGE_NO_FRAME
        | some w =>
          ((v.2.mapMove m.page (fun x => { x with started := true })).startOut w [] (some m.page) m.why).count .cxl Reg.CXL_EVICTIONS 1

/-- PAGE_IN_START (R301, R302). -/
def execPageInStart (s : State) : Host.Outcome State Fault Refusal := s.onBlock pageInStart

/-- The copy of a page-in ends. `poisoned` names the words, by their bytes in the page, whose responses the device poisoned (R298). -/
def pageInDone (page : Nat) (poisoned : List Nat) (b : Block) : Block :=
  match b.hbm.moves.find? (fun m => m.page == page && m.inward && m.started && m.frame != 0) with
  | none => b
  | some m =>
    let e := b.pte page
    let b := b.poisonWords (farPhys e.farFrame) poisoned
    let b := (b.count .cxl Reg.CXL_BYTES pageBytes).count .cxl Reg.CXL_POISON (b.badResponses (farPhys e.farFrame))
    let b := (b.movePage (farPhys e.farFrame) (hbmPhys e.stack m.frame)).frameWritten e.stack m.frame
    let e := { e with resident := true, frame := m.frame, farCurrent := true, accessed := true, dirty := false, moving := false }
    let b := ((b.countSlots e.stack pageSlots).dropMove page true).setPte page e
    (b.count .cxl Reg.CXL_PAGE_INS 1).retireAgain (stackFin e.stack) m.frame

/-- PAGE_IN_DONE (R301, R303). -/
def execPageInDone (page : Nat) (poisoned : List Nat) (s : State) : Host.Outcome State Fault Refusal :=
  s.onBlock (pageInDone page poisoned)

/-- The copy of a page-out ends: `errs` names words that its reads found in error. A frame that is to leave service does so, another one goes to the page-in that waits for it. -/
def pageOutDone (page : Nat) (errs : Errs) (b : Block) : Block :=
  match b.hbm.moves.find? (fun m => m.page == page && !m.inward && m.started) with
  | none => b
  | some m =>
    let e := b.pte page
    let b := if e.dirty then
        let y := (b.pageErrs page errs).countSlots e.stack pageSlots
        (y.movePage (hbmPhys e.stack e.frame) (farPhys e.farFrame)).count .cxl Reg.CXL_BYTES pageBytes
      else b
    let b := ((b.dropMove page false).setPte page { e with resident := false, dirty := false, farCurrent := true, moving := false }).count
      .cxl Reg.CXL_PAGE_OUTS 1
    if b.hbm.leaving.contains (e.stack, e.frame) then
      let b := b.leaveService (stackFin e.stack) e.frame page
      -- the page-in that chose this victim looks for a frame again
      match m.victimFor with
      | some v => (b.mapMove v (fun x => { x with started := false })).setPte v { b.pte v with moving := false }
      | none => b
    else match m.victimFor with
      | some v => (b.mapMove v (fun x => { x with frame := e.frame })).showFree
      | none => b.showFree

/-- PAGE_OUT_DONE (R302). -/
def execPageOutDone (page : Nat) (errs : Errs) (s : State) : Host.Outcome State Fault Refusal :=
  s.onBlock (pageOutDone page errs)

/-- A migration ends (R296): the page's entry names the new frame, and the old one leaves service. `errs` names words that its reads found in
error. -/
def migrationDone (page : Nat) (errs : Errs) (b : Block) : Block :=
  match b.hbm.migrations.find? (fun m => m.page == page) with
  | none => b
  | some m =>
    let b := (b.pageErrs page errs).countSlots m.stack (2 * pageSlots)
    let b := (b.movePage (hbmPhys m.stack m.fromFrame) (hbmPhys m.stack m.toFrame)).frameWritten m.stack m.toFrame
    let b := b.setPte page { b.pte page with frame := m.toFrame, moving := false }
    let b := { b with hbm := { b.hbm with migrations := b.hbm.migrations.filter (fun x => x.page != page) } }
    ((b.showMigrating (stackFin m.stack)).leaveService (stackFin m.stack) m.fromFrame page).retireAgain (stackFin m.stack) m.toFrame

/-- MIGRATION_DONE (R296, R303). -/
def execMigrationDone (page : Nat) (errs : Errs) (s : State) : Host.Outcome State Fault Refusal :=
  s.onBlock (migrationDone page errs)

/-- A freed allocation's frames and far frames return once nothing uses them (R230, R284); a frame that is to leave service does so. -/
def hbmPagesReturn (base : Nat) (b : Block) : Block :=
  match b.hbm.allocs.find? (fun a => a.freed && a.base == base) with
  | none => b
  | some a =>
    let pages := (List.range a.pages).map (fun i => base + i)
    if b.stillUsed (hbmBase + base * 2 ^ 21) (a.pages * 2 ^ 21) ∨ pages.any (fun v => (b.pte v).moving) then b
    else
      let b := { b with hbm := { b.hbm with
        allocs := b.hbm.allocs.filter (fun x => x.base != base)
        moves := b.hbm.moves.filter (fun m => !pages.contains m.page) } }
      (pages.foldl (fun y v =>
        let e := y.pte v
        let y := y.setPte v Pte.none
        if e.resident ∧ y.hbm.leaving.contains (e.stack, e.frame) then y.leaveService (stackFin e.stack) e.frame v else y) b).showFree

/-- HBM_PAGES_RETURN (R284, R296). -/
def execHbmPagesReturn (base : Nat) (s : State) : Host.Outcome State Fault Refusal := s.onBlock (hbmPagesReturn base)

/-! ## PAGE tasks (R305) -/

/-- What stops a PAGE task at dispatch: its descriptor, or an entry of its list. -/
def Block.pageDispatch (b : Block) (r : TaskRec) : Option Nat :=
  let d := b.desc r.descA.toNat
  let bad := (List.range r.listCount.toNat).any (fun i => let e := b.entry r.list.toNat i; e.src != 0 || e.rsv)
  if r.descA = 0 ∨ d.isGlobal ∨ !inHbm d.base ∨ bad then some Ev.PAGE_SHAPE else none

/-- Pages that an entry's block touches, each once. -/
def Block.entryPages (b : Block) (r : TaskRec) (e : Entry32) : List Nat :=
  (((b.desc r.descA.toNat).blockRanges e).flatMap (fun g => (pieces (2 ^ 21) g.1 g.2).map (fun p => pageOf p.1))).eraseDups

/-- What a PAGE operation does to a page: go on, go on and await the page's move at the end, wait, or fault. -/
inductive PageAct where
  | done
  | await
  | hold
  | fault (code : Nat)
  deriving DecidableEq, Repr

/-- A page-in asked for by a PAGE task. -/
def Block.taskPageIn (b : Block) (v serial : Nat) : PageAct × Block :=
  if b.hbm.farDown then (.fault Ev.FAR_UNREACHABLE, b)
  else
    let y := b.requestPageIn v .page (some serial)
    if y.hbm.moves.any (fun m => m.page == v) then (.await, y) else (.hold, y)

/-- One PAGE operation on one page. -/
def Block.pageOp (b : Block) (op v serial : Nat) : PageAct × Block :=
  let e := b.pte v
  if !e.valid then (.fault Ev.ADDR_UNMAPPED, b)
  else match op with
    | 1 => if e.moving then (if b.hbm.moves.any (fun m => m.page == v && m.inward) then (.await, b.requestPageIn v .page (some serial)) else (.hold, b))
           else if e.resident then (.done, b) else b.taskPageIn v serial
    | 2 => if e.moving then (.hold, b)
           else if !e.resident then (.done, b)
           else
             let b := b.setPte v { e with pinned := false }
             if !e.evictable then (.fault Ev.PAGE_SHAPE, b)
             else if b.hbm.farDown then (.fault Ev.FAR_UNREACHABLE, b)
             else if 16 ≤ b.movesRunning then (.hold, b)
             else (.await, b.startOut v [serial] none .page)
    | 3 => if e.moving then (.hold, b)
           else if e.resident then (.done, b.setPte v { e with pinned := true })
           else let y := b.taskPageIn v serial
                (match y.1 with | .await => .hold | a => a, y.2)
    | _ => (.done, b.setPte v { e with pinned := false })

/-- Is a PAGE task's work finished: its list at an end and the moves it asked for complete? -/
def Block.pageDone (b : Block) (t : TaskSt) : Bool :=
  decide (t.task.listCount.toNat ≤ t.cursor) && !t.acks.any (fun v => b.hbm.moves.any (fun m => m.page == v))

/-- The next page of a running PAGE task of the module. -/
def pageStep (op i : Nat) (b : Block) : Block :=
  match b.task? .wholeModule i with
  | none => b
  | some t => b.asTask t (fun b =>
    let r := t.task
    let map := fun (y : Block) (f : TaskSt → TaskSt) => y.mapTask .wholeModule t.serial f
    if r.kind ≠ 11 ∨ t.phase ≠ .running ∨ r.par 0 1 ≠ op then b
    else if r.listCount.toNat ≤ t.cursor then b
    else
      let e := b.entry r.list.toNat t.cursor
      match (b.entryPages r e)[t.dispCnt.headD 0]? with
        | none => map b (fun x => { x with cursor := x.cursor + 1, dispCnt := [] })
        | some v =>
          if r.capacity.toNat ≤ t.items then b.faultTask .wholeModule t.serial Ev.PAGE_CAPACITY
          else
            let y := b.pageOp op v t.serial
            let pass := fun (l : List Nat) => map y.2 (fun x =>
              { x with items := x.items + 1, dispCnt := [t.dispCnt.headD 0 + 1], acks := x.acks ++ l })
            match y.1 with
            | .done => pass []
            | .await => pass [v]
            | .hold => y.2
            | .fault code => y.2.faultTask .wholeModule t.serial code)

/-- PAGE_IN (R305). -/
def execPageIn (i : Nat) (s : State) : Host.Outcome State Fault Refusal := s.onBlock (pageStep 1 i)
/-- PAGE_OUT (R305). -/
def execPageOut (i : Nat) (s : State) : Host.Outcome State Fault Refusal := s.onBlock (pageStep 2 i)
/-- PIN (R305). -/
def execPin (i : Nat) (s : State) : Host.Outcome State Fault Refusal := s.onBlock (pageStep 3 i)
/-- UNPIN (R305). -/
def execUnpin (i : Nat) (s : State) : Host.Outcome State Fault Refusal := s.onBlock (pageStep 4 i)

/-! ## The CXL port (R298 to R300) -/

/-- The port drops: back within 1 ms and its moves resume, or the far tier is down. DESIGN CHOICE (notes/assumptions/47.md). -/
def cxlLinkDrop (recovered : Bool) (b : Block) : Block :=
  if recovered ∨ b.hbm.farDown ∨ !wbit (b.rd .cxl Reg.CXL_LINK) 31 then b
  else
    let b := { b with hbm := { b.hbm with farDown := true } }
    let b := (b.wrBit .cxl Reg.CXL_LINK 31 false).post Ev.CXL_LINK_DOWN .cxl 0
    let b := (b.hbm.moves.filter (fun m => m.inward)).foldl (fun y m => y.failMove m Ev.FAR_UNREACHABLE) b
    (b.hbm.moves.filter (fun m => !m.inward)).foldl (fun y m =>
      if m.owners.isEmpty then
        let e := y.pte m.page
        ((y.dropMove m.page false).setPte m.page { e with moving := false }).retireAgain (stackFin e.stack) e.frame
      else y.failMove m Ev.FAR_UNREACHABLE) b

/-- CXL_LINK_DROP (R300). -/
def execCxlLinkDrop (recovered : Bool) (s : State) : Host.Outcome State Fault Refusal := s.onBlock (cxlLinkDrop recovered)

/-- A write of CXL_PAGING_FRAMES, ignored while an allocation holds a far frame. -/
def cxlPagingFramesWrite (o : Origin) (v : Word) (b : Block) : Block :=
  b.gate o .cxl Reg.CXL_PAGING_FRAMES .change (fun x =>
    if x.farTaken.isEmpty then (x.writeFields .cxl Reg.CXL_PAGING_FRAMES v).showFree else x)

/-- CXL_PAGING_FRAMES_WRITE (R299). -/
def execCxlPagingFramesWrite (o : Origin) (v : Word) (s : State) : Host.Outcome State Fault Refusal :=
  s.onWrite o (cxlPagingFramesWrite o v)

/-- Clear the counters of the CXL page. -/
def cxlCntClr (o : Origin) (v : Word) (b : Block) : Block :=
  b.gate o .cxl Reg.CXL_CNT_CLR .none (fun x => x.clearOn v .cxl
    [Reg.CXL_PAGE_INS, Reg.CXL_PAGE_OUTS, Reg.CXL_EVICTIONS, Reg.CXL_PAGE_FAIL, Reg.CXL_BYTES, Reg.CXL_POISON])

/-- CXL_CNT_CLR (R306). -/
def execCxlCntClr (o : Origin) (v : Word) (s : State) : Host.Outcome State Fault Refusal := s.onWrite o (cxlCntClr o v)

end Sys2Proof.Machine
end

