-- ==== Sys2Proof/Machine/Sched.lean ====
section
/-! DEFINITION. The schedulers of the units (R35 to R58): rings and doorbells, gang definitions, admission, division, the start of
tasks, their end, speculation. -/

namespace Sys2Proof.Machine

open Sys2Proof

/-! ## Ring registers (R36 to R38) -/

/-- The effect of a write of SCH_RING_CFG: while ENABLE is 1 only ENABLE changes; a write that would set it over a misaligned base
stores the other fields and posts RING_ALIGN. DEDUCED (notes/assumptions/39.md). DEDUCED (notes/assumptions/49.md). -/
def Block.ringCfg (b : Block) (u : UnitId) (v : Word) : Block :=
  let p : Page := .sch u
  if wbit (b.rd p Reg.SCH_RING_CFG) 24 then
    if wbit v 24 then b else b.disableRing u
  else
    let b := b.writeFields p Reg.SCH_RING_CFG v
    let w := b.rd p Reg.SCH_RING_CFG
    let bad := b.rd64 p Reg.SCH_TRING_BASE_LO % (128 * 2 ^ wfield w 3 0) ≠ 0 ∨
      b.rd64 p Reg.SCH_CRING_BASE_LO % (32 * 2 ^ wfield w 11 8) ≠ 0
    if wbit v 24 ∧ bad then (b.disableRing u).post Ev.RING_ALIGN p 0 else b

/-- Write SCH_RING_CFG. -/
def schRingCfgWrite (o : Origin) (u : UnitId) (v : Word) (b : Block) : Block :=
  b.gate o (.sch u) Reg.SCH_RING_CFG .change (fun x => x.ringCfg u v)

/-- SCH_RING_CFG_WRITE (R36, R38). -/
def execSchRingCfgWrite (o : Origin) (u : UnitId) (v : Word) (s : State) : Host.Outcome State Fault Refusal :=
  s.onWrite o (schRingCfgWrite o u v)

/-- The effect of a write of SCH_TRING_TAIL (R6, R37). -/
def Block.ring (b : Block) (u : UnitId) (v : Word) : Block :=
  let p : Page := .sch u
  if !b.present p then b.post Ev.UNIT_ABSENT p 0
  else if 2 ^ wfield (b.rd p Reg.SCH_RING_CFG) 3 0 < diff32 v.toNat (b.rdN p Reg.SCH_TRING_HEAD) then b.post Ev.RING_OVERRUN p 0
  else b.wr p Reg.SCH_TRING_TAIL v

/-- Ring the doorbell. -/
def doorbell (_o : Origin) (u : UnitId) (v : Word) (b : Block) : Block := b.ring u v

/-- DOORBELL (R37): the register is operational, so neither lock nor log bears on it. -/
def execDoorbell (o : Origin) (u : UnitId) (v : Word) (s : State) : Host.Outcome State Fault Refusal := s.onWrite o (doorbell o u v)

/-- The effect of a write of SCH_CRING_HEAD (R37). -/
def Block.cringHead (b : Block) (u : UnitId) (v : Word) : Block :=
  let p : Page := .sch u
  if 2 ^ wfield (b.rd p Reg.SCH_RING_CFG) 11 8 < diff32 (b.rdN p Reg.SCH_CRING_TAIL) v.toNat then b.post Ev.RING_OVERRUN p 0
  else b.wr p Reg.SCH_CRING_HEAD v

/-- Move the consumer index of a completion ring. -/
def schCringHeadWrite (o : Origin) (u : UnitId) (v : Word) (b : Block) : Block :=
  b.gate o (.sch u) Reg.SCH_CRING_HEAD .none (fun x => x.cringHead u v)

/-- SCH_CRING_HEAD_WRITE (R37). -/
def execSchCringHeadWrite (o : Origin) (u : UnitId) (v : Word) (s : State) : Host.Outcome State Fault Refusal :=
  s.onWrite o (schCringHeadWrite o u v)

/-! ## Gang definitions (R24, R40) -/

/-- Do gangs nest no more than two deep under a tile's definitions, and does none contain itself?
DEDUCED (notes/assumptions/49.md). -/
def depthOk (defs : Nat → Word) : Bool :=
  (List.range 8).all (fun g => !gangOn defs g || (gangGangs defs g).all (fun h => h.val != g && (gangGangs defs h.val).isEmpty))

/-- The effect of a write of TILE_GANG_DEFg. -/
def Block.gangWrite (b : Block) (t : Fin 16) (g : Fin 8) (v : Word) : Block :=
  let off := Reg.TILE_GANG_DEF g.val
  let new := b.writeFields (.tile t) off v
  let w := new.rd (.tile t) off
  if w = b.rd (.tile t) off then b
  else if !(b.unit (.gang t g)).board.isEmpty then b.post Ev.GANG_BUSY (.tile t) 0
  else if wbit w 31 ∧ (List.finRange 8).any (fun c => wbit w c.val && !b.coreOn (flatCore t c)) then b.post Ev.UNIT_ABSENT (.tile t) 0
  else if wbit w 31 ∧ !depthOk (new.gangDef t) then b.post Ev.GANG_DEPTH (.tile t) 0
  else new

/-- Write a gang definition. -/
def gangDefWrite (o : Origin) (t : Fin 16) (g : Fin 8) (v : Word) (b : Block) : Block :=
  b.gate o (.tile t) (Reg.TILE_GANG_DEF g.val) .change (fun x => x.gangWrite t g v)

/-- GANG_DEF_WRITE (R40). -/
def execGangDefWrite (o : Origin) (t : Fin 16) (g : Fin 8) (v : Word) (s : State) : Host.Outcome State Fault Refusal :=
  s.onWrite o (gangDefWrite o t g v)

/-! ## Division (R48) -/

/-- The path by which a unit's shares reach its children (R41). DEDUCED (notes/assumptions/34.md). -/
def sharePath : UnitId → Nat
  | .core _ => 0
  | .gang _ g => 1 + g.val
  | .die _ => 9
  | .wholeModule => 10
  | .group => 11

/-- A share as its child receives it (R49): the parent's waits, no signals. DEDUCED (notes/assumptions/34.md). -/
def TaskSt.shareOf (t : TaskSt) (u : UnitId) (serial : Nat) (s : Share) : TaskSt :=
  { TaskSt.mk' serial (sharePath u) t.ctx s.task with
    parent := some { unit := u, serial := t.serial, child := s.index }
    root := some (t.root.getD t.serial)
    wait0 := if u = .group then none else t.wait0
    wait1 := if u = .group then none else t.wait1
    shadow := t.shadow
    colFirst := s.colFirst
    colCount := s.colCount
    group := t.group }

/-- The bytes handed to another module for a share of a group's task: the record, the group's bitmap, and 1 where the record is the
child's own under EXPLICIT. DEDUCED (notes/assumptions/35.md). -/
def Block.offerBytes (b : Block) (parent : TaskRec) (s : Share) : List Byte :=
  s.task.bytes ++ (List.range 128).flatMap (fun w => toBytes 4 (b.rdN .pel (Reg.PEL_GMEMBER w))) ++
    toBytes 1 (b2n (decide (parent.axis = 4)))

/-- Divide a task on a unit's board among the unit's children. A task of which no child receives a share stays as it is (R48).
DEDUCED (notes/assumptions/34.md). -/
def Block.divide (b : Block) (u : UnitId) (t : TaskSt) : Block :=
  let l := b.shares u t.task t.colFirst t.colCount
  if l.isEmpty then b
  else
    let b := b.mapTask u t.serial (fun x => { x with phase := .running, shareCount := l.length })
    l.foldl (fun x s => match s.child with
      | .unit w =>
        let n := x.newSerial
        let y := n.2.unit w
        let g := if u = .group then n.2.groupMembers else t.group
        n.2.setUnit w { y with inbox := y.inbox ++ [{ t.shareOf u n.1 s with group := g }] }
      | .other m => x.handOver m s.index (x.offerBytes t.task s)) b

/-! ## Admission (R41, R43, R50) -/

/-- Has a unit room in its admission window (R47)? -/
def Block.room (b : Block) (u : UnitId) : Bool :=
  let n := fun (w : UnitId) => (b.unit w).board.length
  match u with
  | .core _ => decide (n u < 16)
  | .wholeModule => decide (n u < 256)
  | .group => decide (n u < 256)
  | .gang t _ => decide (((List.finRange 8).map (fun g => n (.gang t g))).sum + n (.die t) < 64)
  | .die t => decide (((List.finRange 8).map (fun g => n (.gang t g))).sum + n (.die t) < 64)

/-- Does the whole module hold back its tasks: a package link is down (R34), a margin replan waits (R414), or it is fenced (R339)? -/
def Block.holdsTasks (b : Block) : Bool := !b.net.down.isEmpty || b.pwr.replanHold || b.fenced

/-- Does a unit's own ring hold a record to admit? -/
def Block.ringReady (b : Block) (u : UnitId) : Bool :=
  let p : Page := .sch u
  b.present p && wbit (b.rd p Reg.SCH_RING_CFG) 24 && decide (b.rd p Reg.SCH_TRING_TAIL ≠ b.rd p Reg.SCH_TRING_HEAD)

/-- Admit a task to a unit's board: a core notes whether it is a DENSE task with RETAIN (R115), a unit above a core divides it, unless
it carries the kind out itself or the task is a group's, which is divided when its waits have passed. -/
def Block.place (b : Block) (u : UnitId) (t : TaskSt) : Block :=
  let t : TaskSt := { t with links := b.chainLinks t.task }
  let b := b.setBoard u ((b.unit u).board ++ [t])
  match u with
  | .core c =>
    if kindResource t.task.kind.toNat = 0 then
      b.setCore c.val { b.core c.val with lastArrayRetain := decide (t.task.kind = 1) && t.task.retain }
    else b
  | .group => b
  | _ => if runsHere u t.task.kind.toNat then b else b.divide u t

/-- REUSE needs a DENSE task with RETAIN just before it on the core (R115). -/
def Block.reuseOk (b : Block) (u : UnitId) (r : TaskRec) : Bool :=
  match u with
  | .core c => !(r.kind == 1 && r.reuse) || (b.core c.val).lastArrayRetain
  | _ => true

/-- The die whose scheduler serves a unit (R47), as PWR_TEMP_SEL numbers dies. -/
def unitDie : UnitId → Nat
  | .core c => c.val / 8
  | .gang t _ => t.val
  | .die t => t.val
  | _ => 16

/-- Records that a unit reads with a task's own at its admission: the links of a chain (R251) and the children's records under EXPLICIT (R48). -/
def TaskRec.readsAtAdmission (r : TaskRec) : List (Nat × Nat) :=
  if r.kind = 5 ∨ r.axis = 4 then [(r.list.toNat, 128 * r.listCount.toNat)] else []

/-- Admit the next record of a unit's own ring, or refuse it (R43): a FAULTED record with the code, HEAD past it, ENABLE cleared.
DEDUCED (notes/assumptions/49.md). -/
def Block.admitRing (b : Block) (u : UnitId) : Block :=
  let p : Page := .sch u
  let cfg := b.rd p Reg.SCH_RING_CFG
  let head := b.rdN p Reg.SCH_TRING_HEAD
  let a := b.rd64 p Reg.SCH_TRING_BASE_LO + 128 * (head % 2 ^ wfield cfg 3 0)
  let r := TaskRec.ofBytes (if b.recordFits a 128 then b.bytes a 128 else List.replicate 128 0)
  let b := b.touched (unitDie u) ((a, 128) :: r.readsAtAdmission)
  let ctx := wfield cfg 18 16
  let chk := if b.reuseOk u r then b.admitCheck u ctx r else (Ev.TASK_FIELD, [], b)
  let b := chk.2.2
  if chk.1 ≠ 0 then
    if b.mustStall u r then b.stall u
    else
      let t := TaskSt.mk' b.serial 0 ctx r
      let b := b.postTask u t noChild chk.1
      let b := (b.writeRecord u t ⟨.faulted, chk.1, noChild, 0⟩).disableRing u
      b.wrN p Reg.SCH_TRING_HEAD (head + 1)
  else
    let n := b.newSerial
    let ref := fun (i : Nat) => (chk.2.1[i]?).join
    let t := { TaskSt.mk' n.1 0 ctx r with
      wait0 := ref 0, wait1 := ref 1, sig0 := ref 2, sig1 := ref 3, confirm := ref 4, discard := ref 5 }
    (n.2.place u t).wrN p Reg.SCH_TRING_HEAD (head + 1)

/-- The code that stops a share at its admission (R48, R115, R346), with what translating a BARRIER's release semaphore gives. -/
def Block.shareCheck (b : Block) (u : UnitId) (t : TaskSt) (explicit : Bool) : Nat × Option SemRef × Block :=
  let r := t.task
  if !b.reuseOk u r then (Ev.TASK_FIELD, none, b)
  else if explicit ∧ !b.fieldsOk u r then (Ev.TASK_FIELD, none, b)
  else if explicit ∧ !b.compactOk u t.ctx r then (Ev.SYNC_LINE_MODE, none, b)
  else if r.kind = 7 then
    if !barrierParamsOk b 5 b.fixedMode r then (Ev.TASK_FIELD, none, b)
    else if !bit (r.par 2 2) 15 then (0, none, b)
    else
      let x := b.translate u t.ctx false (r.par 2 2)
      match x.1 with
      | none => (Ev.SEM_XLAT_FAULT, none, x.2)
      | some s => (0, some s, x.2)
  else (0, none, b)

/-- Admit a share: one that fails its check ends FAULTED (R48), and the unit's own ENABLE stays. -/
def Block.admitShare (b : Block) (u : UnitId) (t : TaskSt) (explicit : Bool) : Block :=
  let chk := b.shareCheck u t explicit
  if chk.1 ≠ 0 then chk.2.2.setBoard u ((chk.2.2.unit u).board ++ [{ t with phase := .finished, faultCode := some chk.1 }])
  else chk.2.2.place u { t with confirm := chk.2.1 }

/-- A share of another module's group task as it reaches the module unit (R25): root module, child number, and the bytes handed over.
DEDUCED (notes/assumptions/35.md). -/
def Block.admitOffer (b : Block) (x : Nat × Nat × List Byte) : Block :=
  let ctx := wfield (b.rd (.sch .wholeModule) Reg.SCH_RING_CFG) 18 16
  let n := b.newSerial
  let members := (List.range 4096).filter (fun m => bit (rdLE x.2.2 (128 + m / 8) 1) (m % 8))
  let t := { TaskSt.mk' n.1 12 ctx (TaskRec.ofBytes (x.2.2.take 128)) with
    parent := some { unit := .group, serial := x.1, child := x.2.1 }
    group := members }
  n.2.admitShare .wholeModule t (rdLE x.2.2 640 1 == 1)

/-- The path served next (R41): the next one after the last that has work, in turn. -/
def nextPath (last : Nat) (l : List Nat) : Option Nat :=
  let least := fun (m : List Nat) => m.foldl (fun (best : Option Nat) x => match best with
    | none => some x
    | some y => some (min x y)) none
  match least (l.filter (fun x => decide (last < x))) with
  | some x => some x
  | none => least l

/-- A unit with room admits one task from the next path that has one; `offer` is a share from another module. -/
def taskAdmit (u : UnitId) (offer : Option (Nat × Nat × List Byte)) (b : Block) : Block :=
  let x := b.unit u
  if b.holdsTasks ∨ x.stalled ∨ !b.room u then b
  else
    let paths := (if b.ringReady u then [0] else []) ++ x.inbox.map (fun t => t.path) ++
      (if offer.isSome ∧ u = .wholeModule then [12] else [])
    match nextPath x.lastPath paths with
    | none => b
    | some 0 => (b.setUnit u { x with lastPath := 0 }).admitRing u
    | some p =>
      if p = 12 then
        match offer with
        | some o => (b.setUnit u { x with lastPath := 12 }).admitOffer o
        | none => b
      else
        match x.inbox.find? (fun t => t.path == p) with
        | none => b
        | some t =>
          let explicit := match t.parent with
            | some q => match b.bySerial q.unit q.serial with
              | some w => w.task.axis == 4
              | none => false
            | none => false
          (b.setUnit u { x with lastPath := p, inbox := x.inbox.filter (fun w => w.serial != t.serial) }).admitShare u t explicit

/-- TASK_ADMIT (R41, R43, R48, R50). -/
def execTaskAdmit (u : UnitId) (offer : Option (Nat × Nat × List Byte)) (s : State) : Host.Outcome State Fault Refusal :=
  s.onBlock (taskAdmit u offer)

/-! ## Start (R51, R52, R99) -/

/-- May an admitted task start, but for the order on its resource and its shadow: its waits have passed, no other speculative task
holds the core, and no validator writes into an allocation whose records it needs? -/
def Block.startable (b : Block) (u : UnitId) (t : TaskSt) : Bool :=
  decide (t.phase = .admitted) && b.ready t && !specHeld (b.unit u).board t && !b.recordsLocked t

/-- Tasks of a unit that wait for a resource, in admission order. -/
def Block.waiting (b : Block) (u : UnitId) (r : Nat) : List TaskSt :=
  (b.unit u).board.filter (fun t => decide (t.phase = .admitted) && kindResource t.task.kind.toNat == r)

/-- The task that R51 starts next on a resource: the first task without DEFER once it is ready; while no task without DEFER is ready,
the oldest ready DEFER task that no earlier such task precedes. DEDUCED (notes/assumptions/49.md). -/
def Block.nextTask (b : Block) (u : UnitId) (r : Nat) : Option TaskSt :=
  let l := b.waiting u r
  let plain := l.filter (fun t => !t.task.defer)
  match plain.head? with
  | some t =>
    if b.startable u t then some t
    else if plain.any b.ready then none
    else (l.takeWhile (fun x => x.task.defer)).find? (b.startable u)
  | none => l.find? (b.startable u)

/-- Descriptors that a record's work uses (R99). -/
def Block.usedDescs (b : Block) (r : TaskRec) : List Nat :=
  let all := [r.descA.toNat, r.descB.toNat, r.descC.toNat, r.descD.toNat]
  let l := match r.kind.toNat with
    | 1 => (b.listSrcs r).map r.descOf
    | 4 => [r.descA.toNat, r.descC.toNat]
    | 11 => [r.descA.toNat]
    | _ => all
  l.filter (fun a => decide (a ≠ 0))

/-- What stops a record that works through a core's engines at its dispatch (R96, R99 and the rules of its kind), in an order of the model's.
A DESC field outside every DESCRIPTOR allocation is taken as stale. DESIGN CHOICE (notes/assumptions/56.md). -/
def Block.recordCheck (b : Block) (r : TaskRec) : Option Nat :=
  let first := if r.kind = 4 then b.copyShape r else none
  if first.isSome then first
  else if !b.bindingOk r then some Ev.LIST_BINDING
  else if (b.usedDescs r).any (fun a => b.kindAt a != some .descriptor || b.probe a 64 != .ok || b.stale (b.desc a)) then
    some Ev.DESC_STALE
  else match r.kind.toNat with
    | 1 => b.denseDispatch r
    | 2 => b.sparseDispatch r
    | 3 => b.dispatchCheck r
    | 4 => b.copyDispatch r
    | 11 => b.pageDispatch r
    | _ => none

/-- What stops a task at its dispatch, with the link it is found in: each link of a chain is checked (R253).
DESIGN CHOICE (notes/assumptions/56.md). -/
def Block.startCheck (b : Block) (t : TaskSt) : Option (Nat × Nat) :=
  if t.isEmpty then none
  else if t.links.isEmpty then (b.recordCheck t.task).map (fun code => (code, 0))
  else t.links.zipIdx.findSome? (fun l => if l.1.listCount = 0 then none else (b.recordCheck l.1).map (fun code => (code, l.2)))

/-- The task and unit that decide for a speculative share: its root (R56). -/
def Block.rootOf (b : Block) (u : UnitId) (t : TaskSt) : UnitId × TaskSt :=
  match t.root with
  | none => (u, t)
  | some n => match (b.activeUnits.filterMap (fun w => (b.bySerial w n).map (fun x => (w, x)))).head? with
    | some x => x
    | none => (u, t)

/-- Ask for the shadow of a speculative task at the dispatch of its first share (R56, R231): the requesting core's home slice comes
first. -/
def Block.wantShadow (b : Block) (u : UnitId) (t : TaskSt) : Block :=
  let root := b.rootOf u t
  let b := b.mapTask u t.serial (fun x => { x with shadowAsked := true })
  if root.2.shadowAsked ∧ root.2.serial ≠ t.serial then b
  else if root.1 = u then b.askShadow u root.2
  else
    let b := b.askShadow root.1 root.2
    let home := match u with | .core c => some c.val | _ => none
    { b with tiles := b.tiles.map (fun p => (p.1, { p.2 with shadowQ := p.2.shadowQ.map (fun q =>
        if q.serial = root.2.serial then
          { q with home := home.bind (fun c => if c / 8 = p.1 then some (c % 8) else none) }
        else q) })) }

/-- Does a speculative share that passes its dispatch checks wait for its shadow? -/
def Block.needsShadow (b : Block) (u : UnitId) (t : TaskSt) : Bool :=
  t.task.spec && t.shadow.isNone && !t.isEmpty && (b.startCheck t).isNone && (b.specTarget (b.rootOf u t).2.task).isSome

/-- Mark a task started (R45, R51). -/
def Block.begin (b : Block) (u : UnitId) (n : Nat) : Block :=
  b.mapTask u n (fun t => { t with phase := .running, heldAt := 0, arriveTime := b.now })

/-- The blocks that the prologue has asked for take their deadlines from the task's first cycle (R237). -/
def Block.redate (b : Block) (c : Fin 128) (n : Nat) : Block :=
  match b.bySerial (.core c) n with
  | none => b
  | some t =>
    let due := fun (f : Fetched) => b.deadlineOf c t (b.entryAt t (keyPos f.entry))
    let early := (b.core c.val).fetched.filter (fun f => f.serial == n && !f.arrived && f.deadline != 0)
    early.foldl (fun x f =>
      let x := x.mapFetched c f.id (fun g => { g with deadline := due f })
      let up := fun (q : SlotReq) => if q.owner = .block f.id then { q with deadline := due f } else q
      { x with stks := x.stks.map (fun (p : Nat × StackSt) => (p.1, { p.2 with queue := p.2.queue.map up, beyond := p.2.beyond.map up })) }) b

/-- What the dispatch of a task reads and takes: its records (R100, R281), and the fetch engine's registers (R256). -/
def Block.takeRecords (b : Block) (c : Fin 128) (t : TaskSt) : Block :=
  (b.touched (c.val / 8) t.recordRanges).mapTask (.core c) t.serial (fun x => { x with
    runahead := wfield (b.rd (.fet c) Reg.FET_RUNAHEAD) 8 0
    overlap := wbit (b.rd (.fet c) Reg.FET_CFG) 0 })

/-- Start a task on a core: dispatch checks, then the engine takes it. An array task that is not the one whose prologue has begun undoes that
prologue (R254). -/
def Block.startCore (b : Block) (c : Fin 128) (t : TaskSt) : Block :=
  let u : UnitId := .core c
  let kind := kindResource t.task.kind.toNat
  let other := kind = 0 ∧ (b.begunAhead c).any (fun y => y.serial != t.serial)
  let b := if other then b.dropPrologue c else b
  let b := b.begin u t.serial
  if t.isEmpty then b
  else
    let b := b.takeRecords c t
    let b := if kind = 1 then b.drlStart c t else b
    match b.startCheck t with
    | some (code, link) => (b.mapTask u t.serial (fun x => { x with link := link })).faultTask u t.serial code
    | none => match kind with
      | 0 => (((b.stopFiller c).arrayStart c t).redate c t.serial)
      | 1 => b.snapshot c t.task
      | _ => b

/-- Draw of a task's class on its tile at the present setting, in mW (R391, R392). -/
def Block.drawOf (b : Block) (c : Fin 128) (cls : Nat) : Nat :=
  let t := (coreTile c).val
  b.scaleDraw t (b.classDraw t cls) (b.setting (coreTile c))

/-- The task cadence lets start on a resource of a core, given what is unspent of the tile's grant in mW (R392): R51's choice if its draw
fits, otherwise the oldest ready task of the class with the largest draw that fits. -/
def Block.powerChoice (b : Block) (c : Fin 128) (r unspent : Nat) (t : TaskSt) : Option TaskSt :=
  if t.isEmpty ∨ b.drawOf c t.task.energyClass ≤ unspent then some t
  else
    let l := (b.waiting (.core c) r).filter (b.startable (.core c))
    let fit := (List.range 4).filter (fun k => l.any (fun x => x.task.energyClass == k) && decide (b.drawOf c k ≤ unspent))
    let best := fit.foldl (fun (a : Option Nat) k => match a with
      | none => some k
      | some j => if b.drawOf c j < b.drawOf c k then some k else some j) none
    best.bind (fun k => l.find? (fun x => x.task.energyClass == k))

/-- Does a pass over a compacted run, or an in-place transpose, take the array before any array task not yet started (R189, R250, R254)? -/
def Block.arrayClaimed (b : Block) (c : Fin 128) : Bool := !(b.core c.val).fallbacks.isEmpty || (b.copyTask c 1 true).isSome

/-- Has a running array task nothing but DRAINs to come, under overlap, so that the next one may enter the array (R254, R255)?
DEDUCED (notes/assumptions/38.md). -/
def Block.drainsOnly (b : Block) (t : TaskSt) : Bool :=
  let b := { b with lens := t.kept }
  let n := ((List.range t.linkCount).map (fun l => (t.recAt l).listCount.toNat)).sum
  t.overlap && (t.ahead n (t.settle 9 t.pos)).all (fun p => decide (2 ≤ (b.entryAt t p).src))

/-- May a task start on a resource of a core: its tile's clocks run, and nothing runs there, or, on the array, overlap lets the next one
in?. DEDUCED (notes/assumptions/24.md). -/
def Block.resourceOpen (b : Block) (c : Fin 128) (r : Nat) : Bool :=
  b.lock (coreTile c).val && if r ≠ 0 then (b.onResource c r).isNone
  else !b.arrayClaimed c && match b.arrayTasks c with
    | [] => true
    | [t] => b.drainsOnly t
    | _ => false

/-- The rise in mW that SLEW allows in each 10 µs (R395). -/
def Block.slewLimit (b : Block) : Nat := max 1 (wfield (b.eff .pwr Reg.PWR_CAD_CFG) 7 0) * 10000

/-- Is a current or a thermal brake in force on a tile (R395)? -/
def Block.sharpBrake (b : Block) : Bool := b.curLimit.isSome || (List.range 16).any (fun i => (limitAt b.pwr.therm i).isSome)

/-- Is an array task held because its start would make the input power rise faster than SLEW (R395)? No current or thermal brake is in force,
and another array task has risen in this interval: one alone is never held. DESIGN CHOICE (notes/assumptions/23.md). -/
def Block.slewHolds (b : Block) (c : Fin 128) (r : Nat) (t : TaskSt) : Bool :=
  decide (r = 0) && !t.isEmpty && !b.sharpBrake &&
    decide (0 < b.pwr.rise) && decide (b.slewLimit < b.pwr.rise + b.drawOf c t.task.energyClass)

/-- Start a task that power lets start, unless slew holds it or its shadow is still to come. -/
def Block.launch (b : Block) (c : Fin 128) (r : Nat) (t : TaskSt) : Block :=
  let u : UnitId := .core c
  if b.needsShadow u t then (if t.shadowAsked then b else b.wantShadow u t)
  else if b.slewHolds c r t then b.mapTask u t.serial (fun x => { x with slewHeld := true })
  else
    let rise := if r = 0 ∧ !t.isEmpty then b.pwr.rise + b.drawOf c t.task.energyClass else b.pwr.rise
    let b := { b with pwr := { b.pwr with rise := rise } }
    (b.mapTask u t.serial (fun x => { x with slewHeld := false })).startCore c t

/-- Start the next task on a resource of a core. -/
def Block.startOn (b : Block) (c : Fin 128) (r unspent : Nat) : Block :=
  let u : UnitId := .core c
  if !b.resourceOpen c r then b
  else match b.nextTask u r with
    | none => b
    | some t =>
      match b.powerChoice c r unspent t with
      | none => b.mapTask u t.serial (fun x => { x with heldAt := if x.heldAt = 0 then 1 + b.now else x.heldAt })
      | some t => b.launch c r t

/-- Does a SYNC task need a place among the 64 waiting operations of its die hub (R67)? -/
def syncBlocks (r : TaskRec) : Bool := r.par 0 2 == 1 || r.par 0 2 == 3

/-- Start the first task of a core that needs no resource: a SEMOP, or a SYNC for which a place is free (R67). -/
def Block.startFree (b : Block) (c : Fin 128) : Block :=
  let u : UnitId := .core c
  let room := decide ((b.tile (coreTile c).val).syncWaits.length < 64)
  match (b.waiting u 3).find? (fun t => b.startable u t && (room || !(t.task.kind == 9 && syncBlocks t.task))) with
  | none => b
  | some t => b.begin u t.serial

/-- Collectives that run. -/
def Block.collectives (b : Block) : List TaskSt :=
  (b.unit .wholeModule).board.filter (fun t => decide (t.task.kind = 6) && decide (t.phase = .running))

/-- The team of a COLLECTIVE task as one number: its TEAM, a group's own (R359, R361). -/
def TaskSt.team (t : TaskSt) : Nat := t.task.par 2 1

/-- May a collective start (R361): fewer than four run, and none of its team runs or was admitted before it and waits? -/
def Block.collectiveOk (b : Block) (t : TaskSt) : Bool :=
  let board := (b.unit .wholeModule).board
  let first := board.find? (fun x => decide (x.task.kind = 6) && decide (x.phase = .admitted) && x.team == t.team)
  decide (b.collectives.length < 4) && !b.collectives.any (fun x => x.team == t.team) &&
    (match first with | some x => x.serial == t.serial | none => false)

/-- Start a task of the module unit that its engines carry out, or that has no work; a BARRIER starts at its own step. Where cadence cannot
place a request for power, `cls` below 4 is the energy class that it names, and the oldest ready UPDATE task of that class goes (R52, R273). -/
def Block.startModule (b : Block) (cls : Nat) : Block :=
  let u : UnitId := .wholeModule
  match (b.unit u).board.find? (fun t => b.startable u t && (t.isEmpty || decide (t.task.kind ≠ 7)) &&
      (decide (t.task.kind ≠ 6) || t.isEmpty || b.collectiveOk t) &&
      (decide (t.task.kind ≠ 8) || t.isEmpty || decide (4 ≤ cls) || t.task.energyClass == cls)) with
  | none => b
  | some t =>
    let b := b.begin u t.serial
    let b := if t.isEmpty then b else b.touched 16 t.recordRanges
    if t.task.kind = 11 ∧ !t.isEmpty then
      match b.recordCheck t.task with
      | some code => b.faultTask u t.serial code
      | none => b
    else b

/-- Start a task of a gang, die or group that is ready: a group's task is divided now, one without shares has no work.
DEDUCED (notes/assumptions/34.md). -/
def Block.startParent (b : Block) (u : UnitId) : Block :=
  match (b.unit u).board.find? (b.startable u) with
  | none => b
  | some t => if u = .group then (b.begin u t.serial).divide u t else b.begin u t.serial

/-- Start a ready task of a unit. `r` is the resource: 0 array, 1 derailleur, 2 copy path, 3 none, and for the module unit the energy class that
cadence names, 4 for none; `unspent` what is left of the tile's grant in mW. -/
def taskStart (u : UnitId) (r : Nat) (unspent : Nat) (b : Block) : Block :=
  if !b.net.down.isEmpty ∨ b.fenced then b
  else match u with
    | .core c => if r < 3 then b.startOn c r unspent else b.startFree c
    | .wholeModule => b.startModule r
    | _ => b.startParent u

/-- TASK_START (R51, R52, R392). -/
def execTaskStart (u : UnitId) (r : Nat) (unspent : Nat) (s : State) : Host.Outcome State Fault Refusal := s.onBlock (taskStart u r unspent)

/-- What is unspent of a tile's grant, in mW. -/
def Block.unspent (b : Block) (t : Nat) : Nat :=
  let w := b.rd .pwr (Reg.PWR_TILE t)
  (wfield w 15 0 - wfield w 31 16) * 1000

/-- Lower a tile's window limit by the fewest settings that make a class's draw fit (R393). -/
def Block.fitClass (b : Block) (t cls grant : Nat) : Block :=
  let m := b.lowestLimit t
  let k := (((List.range (m - 8 + 1)).map (fun i => m - i)).find? (fun k => decide (b.scaleDraw t (b.classDraw t cls) k ≤ grant))).getD 8
  { b with pwr := { b.pwr with window := Sparse.put (fun _ => 0) b.pwr.window t k } }

/-- A task has been held for HOLD_US and still does not fit: the tile's limit falls, and the task starts, but for what holds any task: a failed
package link (R34), the fence (R339), SLEW (R395). -/
def holdExpire (u : UnitId) (i : Nat) (b : Block) : Block :=
  match u, b.task? u i with
  | .core c, some t =>
    let r := kindResource t.task.kind.toNat
    let hold := usToMclk (wfield (b.eff .pwr Reg.PWR_CAD_CFG) 23 16)
    if !b.net.down.isEmpty ∨ b.fenced ∨ t.heldAt = 0 ∨ b.now < t.heldAt - 1 + hold ∨ !b.startable u t ∨ !b.resourceOpen c r ∨ 3 ≤ r then b
    else ((b.fitClass (coreTile c).val t.task.energyClass (b.unspent (coreTile c).val)).launch c r t).applyBrakes
  | _, _ => b

/-- The array task that overlap would start next, with the one that runs (R254): the running task has issued every LOAD, its run-ahead has
reached the end of its list, and neither a pass nor a transpose is due. DEDUCED (notes/assumptions/38.md). -/
def Block.prologueTask (b : Block) (c : Fin 128) : Option TaskSt :=
  match b.arrayTasks c with
  | [t] =>
    let own := { b with lens := t.kept }
    let n := ((List.range t.linkCount).map (fun l => (t.recAt l).listCount.toNat)).sum
    let left := (t.ahead n (t.settle 9 t.pos)).length
    let issued := (own.aheadOn c t 0 left false).isEmpty && (own.aheadOn c t 3 left false).isEmpty
    if !t.overlap ∨ b.arrayClaimed c ∨ t.runahead + 1 < left ∨ !issued then none
    else match b.nextTask (.core c) 0 with
      | none => none
      | some y => match b.powerChoice c 0 (b.unspent (coreTile c).val) y with
        | some y => if b.needsShadow (.core c) y ∨ y.isEmpty then none
                    else some { y with runahead := wfield (b.rd (.fet c) Reg.FET_RUNAHEAD) 8 0 }
        | none => none
  | _ => none

/-- Have the running task's swaps freed STANDBY for good: it holds no tile, and no LOAD is still to come (R254)? -/
def Block.standbyFreed (b : Block) (c : Fin 128) : Bool :=
  (b.core c.val).standby.isNone && (b.arrayTasks c).all (fun t =>
    let own := { b with lens := t.kept }
    let n := ((List.range t.linkCount).map (fun l => (t.recAt l).listCount.toNat)).sum
    (t.ahead n (t.settle 9 t.pos)).all (fun p => !own.isLoad t p))

/-- The prologue of the next array task (R254): its first LOAD, once fetched, fills STANDBY, and its fetches go on; it holds nothing where the
LOAD cannot be carried out, which its own dispatch then finds. DEDUCED (notes/assumptions/38.md). -/
def overlapPrologue (c : Fin 128) (b : Block) : Block :=
  match b.prologueTask c with
  | none => b
  | some t =>
    let e := b.entryAt t t.pos
    let first := decide (t.pos = (0, 0)) && e.src == 1 && !t.task.reuse && loadOk t.cur.gear e && (b.startCheck t).isNone &&
      b.standbyFreed c && (match b.fetched? c 0 t.serial (posKey t.pos) with | some f => f.arrived | none => false)
    let load := if first then b.loadTile c t else ((.wait, none), b)
    match load.1 with
    | (.ok, some tile) => (load.2.fillStandby c tile).mapTask (.core c) t.serial TaskSt.advance
    | _ =>
      let port := if (b.nextAhead c t 0 t.runahead true).isSome then 0 else 3
      b.prefetchFor c port t true

/-- OVERLAP_PROLOGUE (R254). -/
def execOverlapPrologue (c : Fin 128) (s : State) : Host.Outcome State Fault Refusal := s.onBlock (overlapPrologue c)

/-- HOLD_EXPIRE (R393). -/
def execHoldExpire (u : UnitId) (i : Nat) (s : State) : Host.Outcome State Fault Refusal := s.onBlock (holdExpire u i)

/-! ## End (R44 to R46, R53) -/

/-- Has every entry of a COPY or SPARSE list an empty block (R44)? -/
def Block.movesNothing (b : Block) (r : TaskRec) : Bool :=
  (r.kind == 4 || r.kind == 2) && (List.range r.listCount.toNat).all (fun i => (b.entry r.list.toNat i).empty)

/-- Is the work of a running task finished, its writes complete? DEDUCED (notes/assumptions/34.md). -/
def Block.workDone (b : Block) (u : UnitId) (t : TaskSt) : Bool :=
  if !runsHere u t.task.kind.toNat then t.shareCount == 0
  else t.isEmpty || !b.writesWait t.serial && match u with
    | .core c => match t.task.kind.toNat with
      | 10 => true
      | 9 => t.items == 1
      | _ => t.listDone && !(b.core c.val).fallbacks.any (fun f => f.serial == t.serial) && !b.awaits u t.serial
    | _ =>
      match t.task.kind.toNat with
        | 6 => t.items == 1 && !b.awaits u t.serial
        | 8 => t.shareCount == 0 && (b.updateCheck t.task).isNone && (b.updateShares t.task t.serial).isEmpty
        | 11 => b.pageDone t
        | _ => false

/-- Does a task count no cycle (R44)? -/
def Block.countsNone (b : Block) (u : UnitId) (t : TaskSt) : Bool :=
  t.isEmpty || t.task.kind == 10 || !runsHere u t.task.kind.toNat || b.movesNothing t.task

/-- The count of a task reaches BUDGET (R46): the event, and the fault unless BUDGET_REPORT is 1. -/
def Block.overBudget (b : Block) (u : UnitId) (t : TaskSt) : Block :=
  let b := b.postTask u t (if t.task.budgetReport then noChild else b.rootChild 6 t) Ev.BUDGET_EXCEEDED
  if t.task.budgetReport then b.mapTask u t.serial (fun x => { x with exceeded := true })
  else
    let b := (b.faultTask u t.serial Ev.BUDGET_EXCEEDED).mapTask u t.serial (fun x => { x with statusCode := Ev.BUDGET_EXCEEDED })
    let b := match u.tile? with
      | some i => let x := b.tile i.val
                  b.setTile i.val { x with syncWaits := x.syncWaits.filter (fun w => w.serial != t.serial) }
      | none => b
    if t.task.kind = 7 then
      let d := t.task.par 0 1 % 8
      if (b.dom d).task = some t.serial then b.setDom d { b.dom d with task := none } else b
    else b

/-- A running task whose work is finished stops counting and frees its engine. -/
def Block.finishLeaf (b : Block) (u : UnitId) (t : TaskSt) (cycles : Nat) : Block :=
  let cyc := if b.countsNone u t then 0 else t.cycles + cycles
  let b := b.mapTask u t.serial (fun x => { x with cycles := cyc })
  let hit := decide (t.task.budget.toNat ≤ cyc) && !t.exceeded
  let b := if hit then b.overBudget u { t with cycles := cyc } else b
  match b.bySerial u t.serial with
  | none => b
  | some t' =>
    if t'.phase = .finished then b
    else
      let b := b.mapTask u t.serial (fun x => { x with phase := .finished })
      match u with
      | .core c =>
        let b := if t.isEmpty then b
          else match kindResource t.task.kind.toNat with
            | 0 => b.arrayEnd c t'
            | 1 => b.drlEnd c
            | _ => b
        if cyc = 0 then b else b.learnDraw c t.task.energyClass
      | _ => b

/-- A task's work is finished: it completes, or, being a share, waits to end. -/
def taskComplete (u : UnitId) (i : Nat) (cycles : Nat) (b : Block) : Block :=
  match b.task? u i with
  | none => b
  | some t => match t.phase with
    | .admitted => b
    | .running => if b.workDone u t then (b.finishLeaf u t cycles).completeRoot u t.serial else b
    | .finished => b.completeRoot u t.serial

/-- TASK_COMPLETE (R39, R44, R45, R53, R54, R487). -/
def execTaskComplete (u : UnitId) (i : Nat) (cycles : Nat) (s : State) : Host.Outcome State Fault Refusal :=
  s.onBlock (taskComplete u i cycles)

/-- Outcome by its code. -/
def OutCode.ofCode (n : Nat) : OutCode :=
  match n with | 0 => .done | 1 => .faulted | 2 => .overBudget | 3 => .committed | _ => .discarded

/-- A share ends (R49). For a group's task, `remote` is a member's report: child, outcome, STATUS, CYCLES, with its module's counters in
core-cycles. DEDUCED (notes/assumptions/35.md). -/
def shareComplete (u : UnitId) (i : Nat) (remote : Option (Nat × Nat × Nat × Nat)) (counts : List Nat) (b : Block) : Block :=
  match b.task? u i with
  | none => b
  | some t => match remote with
    | none => if t.parent.isSome then b.endShareTask 6 u t.serial else b
    | some r =>
      if u ≠ .group ∨ t.phase ≠ .running ∨ t.shares.any (fun s => s.child == r.1) ∨ t.shareCount = 0 ∨ b.fenced then b
      else
        let b := (b.addGroup (b.groupMembers.getD r.1 4096) counts).shareDone u t.serial
          { child := r.1, outcome := .ofCode r.2.1, status := r.2.2.1, cycles := r.2.2.2 }
        b.completeRoot u t.serial

/-- SHARE_COMPLETE (R25, R49, R73). -/
def execShareComplete (u : UnitId) (i : Nat) (remote : Option (Nat × Nat × Nat × Nat)) (counts : List Nat) (s : State) :
    Host.Outcome State Fault Refusal := s.onBlock (shareComplete u i remote counts)

/-- A slot is free again: the first task held on the full ring completes. DEDUCED (notes/assumptions/51.md). -/
def cringResume (u : UnitId) (b : Block) : Block :=
  if !(b.unit u).stalled ∨ b.cringFull u then b
  else
    let b := b.setUnit u { b.unit u with stalled := false }
    match (b.unit u).board.find? (fun t => decide (t.phase = .finished) && t.parent.isNone && !t.task.noCrec && t.settled) with
    | some t => b.completeRoot u t.serial
    | none => b

/-- CRING_RESUME (R39). -/
def execCringResume (u : UnitId) (s : State) : Host.Outcome State Fault Refusal := s.onBlock (cringResume u)

/-- The count of a running task reaches its BUDGET, with the cycles since the last step that counted. The share of an UPDATE task at an
Aznor unit is held to its budget there, a share of a divided task at its own unit. -/
def budgetExceeded (u : UnitId) (i : Nat) (cycles : Nat) (b : Block) : Block :=
  match b.task? u i with
  | none => b
  | some t =>
    let cyc := if t.task.kind = 7 then b.now - t.arriveTime else t.cycles + cycles
    if t.phase ≠ .running ∨ t.exceeded ∨ !runsHere u t.task.kind.toNat ∨ t.task.kind = 8 ∨ t.isEmpty ∨ cyc < t.task.budget.toNat then b
    else (b.mapTask u t.serial (fun x => { x with cycles := cyc })).overBudget u t

/-- BUDGET_EXCEEDED (R46). -/
def execBudgetExceeded (u : UnitId) (i : Nat) (cycles : Nat) (s : State) : Host.Outcome State Fault Refusal :=
  s.onBlock (budgetExceeded u i cycles)

/-! ## Speculation (R55 to R58) -/

/-- Has a semaphore that a record names passed? -/
def Block.decides (b : Block) (s : Option SemRef) (target : Word) : Bool := s.isSome && b.waitPassed s target

/-- The decision on a speculative task: DISCARD wins where both pass. `told` is the decision of the root module for a share of its
group's task. DEDUCED (notes/assumptions/35.md). -/
def specDecide (u : UnitId) (i : Nat) (told : Option Bool) (b : Block) : Block :=
  match b.task? u i with
  | none => b
  | some t =>
    let set := fun (d : Decision) => b.mapTask u t.serial (fun x => { x with decision := d })
    if !t.task.spec ∨ t.decided ∨ t.decision ≠ .open_ ∨ (t.parent.isSome ∧ t.path ≠ 12) then b
    else if t.path = 12 then
      match told with
      | some true => set .confirm
      | some false => set .discard
      | none => b
    else if b.decides t.discard t.task.decideTarget then set .discard
    else if b.decides t.confirm t.task.decideTarget then set .confirm
    else b

/-- SPEC_DECIDE (R57). -/
def execSpecDecide (u : UnitId) (i : Nat) (told : Option Bool) (s : State) : Host.Outcome State Fault Refusal :=
  s.onBlock (specDecide u i told)

/-- A task and its shares on this module, with their units. -/
def Block.family (b : Block) (n : Nat) : List (UnitId × TaskSt) :=
  b.activeUnits.flatMap (fun u => ((b.unit u).board.filter (fun t => t.serial == n || t.root == some n)).map (fun t => (u, t)))

/-- Shares of a task that their children have not admitted. -/
def Block.familyInbox (b : Block) (n : Nat) : List (UnitId × TaskSt) :=
  b.activeUnits.flatMap (fun u => ((b.unit u).inbox.filter (fun t => t.root == some n)).map (fun t => (u, t)))

/-- Mark a speculative task and its shares decided. -/
def Block.markDecided (b : Block) (n : Nat) (d : Decision) : Block :=
  (b.family n).foldl (fun x p => x.mapTask p.1 p.2.serial (fun t => { t with decided := true, decision := d })) b

/-- End the finished members of a family, the shares before the task itself. DEDUCED (notes/assumptions/34.md). -/
def Block.endFamily (b : Block) (n : Nat) : Block :=
  let l := (b.family n).filter (fun p => decide (p.2.phase = .finished))
  (l.filter (fun p => p.2.serial != n) ++ l.filter (fun p => p.2.serial == n)).foldl (fun x p => x.endShareTask 6 p.1 p.2.serial) b

/-- Commit: every share has finished without a fault and CONFIRM has passed. -/
def specCommit (u : UnitId) (i : Nat) (b : Block) : Block :=
  match b.task? u i with
  | none => b
  | some t =>
    let fam := b.family t.serial
    let cores := fam.filter (fun p => p.1.level == 2)
    if !t.task.spec ∨ t.decided ∨ t.decision ≠ .confirm ∨ (t.parent.isSome ∧ t.path ≠ 12) ∨ t.phase = .admitted ∨
        !(b.familyInbox t.serial).isEmpty ∨ fam.any (fun p => p.2.faultCode.isSome) ∨
        cores.any (fun p => decide (p.2.phase ≠ .finished)) then b
    else
      let b := match t.shadow with
        | some (sh, target) => b.commitShadow sh target
        | none => b.cancelShadow t.serial
      (b.markDecided t.serial .confirm).endFamily t.serial

/-- SPEC_COMMIT (R58). -/
def execSpecCommit (u : UnitId) (i : Nat) (s : State) : Host.Outcome State Fault Refusal := s.onBlock (specCommit u i)

/-- Stop a member of a family that is to be discarded, and move the busy cycles of a core (R58, R72). -/
def Block.stopMember (b : Block) (p : UnitId × TaskSt) : Block :=
  let t := p.2
  let b := match t.phase with
    | .running =>
      if t.shareCount = 0 then (b.faultTask p.1 t.serial 0).mapTask p.1 t.serial (fun x => { x with faultCode := none }) else b
    | .admitted => b.mapTask p.1 t.serial (fun x => { x with phase := .finished })
    | .finished => b
  match p.1 with
  | .core c => b.recharge c Cause.busy Cause.specDiscard t.busy
  | _ => b

/-- Discard: DISCARD has passed, or the task has faulted. -/
def specDiscard (u : UnitId) (i : Nat) (b : Block) : Block :=
  match b.task? u i with
  | none => b
  | some t =>
    let fam := b.family t.serial
    if !t.task.spec ∨ t.decided ∨ (t.parent.isSome ∧ t.path ≠ 12) ∨
        (t.decision ≠ .discard ∧ !fam.any (fun p => p.2.faultCode.isSome)) then b
    else
      let waiting := b.familyInbox t.serial
      let b := fam.foldl (fun x p => x.stopMember p) b
      let b := waiting.foldl (fun x p =>
        let y := x.unit p.1
        let x := x.setUnit p.1 { y with inbox := y.inbox.filter (fun w => w.serial != p.2.serial) }
        match p.2.parent with
        | some q => x.shareDone q.unit q.serial { child := q.child, outcome := .discarded, status := 0, cycles := 0 }
        | none => x) b
      let b := match t.shadow with
        | some (sh, _) => b.discardShadow sh
        | none => b.cancelShadow t.serial
      (b.markDecided t.serial .discard).endFamily t.serial

/-- SPEC_DISCARD (R58, R72). -/
def execSpecDiscard (u : UnitId) (i : Nat) (s : State) : Host.Outcome State Fault Refusal := s.onBlock (specDiscard u i)

end Sys2Proof.Machine
end

