-- ==== Sys2Proof/Machine/Col.lean ====
section
/-! DEFINITION. The collective engine (R359 to R373): teams, the opening of a collective, ring reductions and gathers, compression with error
feedback, noise statistics, expert rows between modules, blocks moved to named modules. -/

namespace Sys2Proof.Machine

open Sys2Proof

/-! ## Teams (R359, R373) -/

/-- Opcodes of the engine (R361). -/
abbrev Op.colHello : Nat := 0x20
/-- COL_DATA. -/
abbrev Op.colData : Nat := 0x21
/-- COL_ACK. -/
abbrev Op.colAck : Nat := 0x22
/-- COL_ABORT. -/
abbrev Op.colAbort : Nat := 0x2F

/-- A team by number. -/
def Block.team? (b : Block) (n : Nat) : Option Team := Sparse.get (fun _ => (none : Option Team)) b.col.teams n

/-- COL_TEAM_STAT of the selected team: VALID, P and rank; BUSY has passed when a command's step is over. -/
def Block.showTeam (b : Block) : Block :=
  b.wrN .col Reg.COL_TEAM_STAT (match b.team? (b.rdN .col Reg.COL_TEAM_SEL % 16) with
    | some x => 2 ^ 30 + x.members.length % 8192 * 2 ^ 16 + x.rank % 4096
    | none => 0)

/-- Does an admitted task name a team? -/
def Block.teamBusy (b : Block) (n : Nat) : Bool :=
  (b.unit .wholeModule).board.any (fun t => decide (t.task.kind = 6) && t.team == n)

/-- A team command ends with a code: 0, or the code that refused it. -/
def Block.teamResult (b : Block) (code : Nat) : Block :=
  let b := (b.wrN .col Reg.COL_TEAM_RESULT code).showTeam
  if code = 0 then b else b.post code .col 0

/-- Set a team. DEDUCED (notes/assumptions/31.md). -/
def Block.setTeam (b : Block) (n : Nat) (x : Option Team) : Block :=
  { b with col := { b.col with teams := Sparse.put (fun _ => (none : Option Team)) b.col.teams n x
                               seqs := Sparse.put (fun _ => 0) b.col.seqs n 0 } }

/-- Modules of a bitmap, ascending (R334, R359). -/
def bitmapModules (l : List Byte) : List Nat :=
  l.zipIdx.flatMap (fun p => (bitsOf 8 p.1.toNat).map (fun i => 8 * p.2 + i))

/-- The code that refuses the load of a team, 0 where none does: a bitmap that cannot be read or lacks this module, a team in use.
DEDUCED (notes/assumptions/31.md). -/
def Block.teamLoadCode (b : Block) : Nat :=
  let a := b.rd64 .col Reg.COL_TEAM_SRC_LO
  if b.probe a 512 ≠ .ok then Ev.ADDR_UNMAPPED
  else if !(bitmapModules (b.bytes a 512)).contains b.moduleId then Ev.COL_TEAM_FIELD
  else if b.teamBusy (b.rdN .col Reg.COL_TEAM_SEL % 16) then Ev.COL_TEAM_BUSY
  else 0

/-- COL_TEAM_CMD 1: copy the bitmap at COL_TEAM_SRC, or refuse it. -/
def colTeamLoad (o : Origin) (b : Block) : Block :=
  let n := b.rdN .col Reg.COL_TEAM_SEL % 16
  let code := b.teamLoadCode
  b.gate o .col Reg.COL_TEAM_CMD (if code = 0 then .table n 1 else .command 1) (fun x =>
    let l := bitmapModules (x.bytes (x.rd64 .col Reg.COL_TEAM_SRC_LO) 512)
    let x := if code = Ev.ADDR_UNMAPPED then x else x.touched 16 [(x.rd64 .col Reg.COL_TEAM_SRC_LO, 512)]
    if code ≠ 0 then x.teamResult code
    else (x.setTeam n (some { members := l, rank := l.idxOf x.moduleId })).teamResult 0)

/-- COL_TEAM_LOAD (R359). -/
def execColTeamLoad (o : Origin) (s : State) : Host.Outcome State Fault Refusal := s.onWrite o (colTeamLoad o)

/-- COL_TEAM_CMD 2: clear a team, or refuse it. -/
def colTeamClear (o : Origin) (b : Block) : Block :=
  let n := b.rdN .col Reg.COL_TEAM_SEL % 16
  b.gate o .col Reg.COL_TEAM_CMD (if b.teamBusy n then .command 2 else .table n 1) (fun x =>
    if x.teamBusy n then x.teamResult Ev.COL_TEAM_BUSY else (x.setTeam n none).teamResult 0)

/-- COL_TEAM_CLEAR (R359). -/
def execColTeamClear (o : Origin) (s : State) : Host.Outcome State Fault Refusal := s.onWrite o (colTeamClear o)

/-! ## The record (R360) -/

namespace TaskRec

/-- OP of a COLLECTIVE record. -/
def colOp (r : TaskRec) : Nat := r.par 0 1
/-- RED. -/
def colRed (r : TaskRec) : Nat := r.par 1 1
/-- A bit of CFLAGS. -/
def colFlag (r : TaskRec) (i : Nat) : Bool := bit (r.par 3 1) i
/-- COMPRESS. -/
def compress (r : TaskRec) : Nat := field (r.par 3 1) 5 4
/-- Rings used. DEDUCED (notes/assumptions/31.md). -/
def channels (r : TaskRec) : Nat := if r.par 4 1 = 0 then 8 else r.par 4 1
/-- STATS_ADDR. -/
def statsAddr (r : TaskRec) : Nat := r.par 8 8
/-- LIST_OUT of an ALL_TO_ALL. DEDUCED (notes/assumptions/31.md). -/
def colListOut (r : TaskRec) : Nat := r.par 0x10 8

end TaskRec

/-- The entries of a record's block list that name an element. -/
def Block.colEntries (b : Block) (r : TaskRec) : List Entry32 :=
  ((List.range r.listCount.toNat).map (fun i => b.entry r.list.toNat i)).filter (fun e => !e.empty)

/-- Rows and columns of the range, in list order and flattened row-major order within each block (R362). -/
def rangeCoords (l : List Entry32) : List (Nat × Nat) :=
  l.flatMap (fun e => (List.range e.rowCount).flatMap (fun i =>
    (List.range e.colCount).map (fun j => (e.rowStart + i, e.colStart + j))))

/-- Element count of the range. -/
def rangeLen (l : List Entry32) : Nat := (l.map (fun e => e.rowCount * e.colCount)).sum

/-- Does the engine take the elements as exact integers: INT32 that is summed, paired or only moved (R363)? -/
def colInt (r : TaskRec) (a : Desc) : Bool :=
  a.format == 9 && (r.colRed == 3 || (a.scaleMode != 1 && (r.colRed == 0 || decide (3 ≤ r.colOp))))

/-- Elements of a tensor. -/
def Desc.total (d : Desc) : Nat := d.d0 * d.rows

/-- The flattened row and column of an element of a tensor. -/
def Desc.flat (d : Desc) (k : Nat) : Nat × Nat := (k / d.d0, k % d.d0)

/-- The element of one tensor at the coordinates of another's (R362). -/
def Desc.sameCoords (d o : Desc) (p : Nat × Nat) : Nat × Nat :=
  let x := d.coords p.1 p.2
  (x.getD 1 0 + o.d1 * (x.getD 2 0 + o.d2 * x.getD 3 0), x.getD 0 0)

/-- Does an element's coordinates lie within a tensor? -/
def Desc.holds (o : Desc) (x : List Nat) : Bool := (x.zip o.extents).all (fun p => decide (p.1 < p.2))

/-- Is a descriptor a packed INT32 table of rows of `n` words? -/
def tableDesc (d : Desc) (n : Nat) : Bool := d.format == 9 && d.layout == 1 && d.scaleMode == 0 && d.d0 == n && !d.isGlobal

/-- Do two tensors hold rows of one form (R369, R371)? -/
def sameRows (a o : Desc) : Bool := a.format == o.format && a.layout == o.layout && a.scaleMode == o.scaleMode && a.d0 == o.d0

/-- Is a PERMUTE entry's destination block inside DESC_C, with whole channel vectors where the sender could not write part of one?
DEDUCED (notes/assumptions/31.md). -/
def permuteFits (o : Desc) (e : Entry32) : Bool :=
  let row := e.param 4 4
  let col := e.param 8 4
  decide (row + e.rowCount ≤ o.rows) && decide (col + e.colCount ≤ o.d0) &&
    ((o.layout == 1 || (8 ≤ elemBits o.format && !o.mx)) ||
      (col % 32 == 0 && (e.colCount % 32 == 0 || col + e.colCount == o.d0)))

/-- The checks of R362, R369 and R371 at dispatch among `p` ranks: does the record fault with COL_SHAPE?
DEDUCED (notes/assumptions/31.md). -/
def Block.colShape (b : Block) (r : TaskRec) (p : Nat) : Bool :=
  let a := b.desc r.descA.toNat
  let o := b.desc r.descC.toNat
  let d := b.desc r.descD.toNat
  let es := b.colEntries r
  let n := rangeLen es
  let op := r.colOp
  let plain := es.all (fun e => e.src == 0 && (op == 5 || e.kind.all (fun x => x == 0)))
  let fits := match op with
    | 1 => (rangeCoords es).all (fun q => o.holds (a.coords q.1 q.2))
    | 2 => decide (min n (roundUp (ceilDiv n p) 32) ≤ o.total)
    | 3 => decide (p * n ≤ o.total)
    | 5 => es.all (permuteFits o)
    | _ => true
  let input := decide (3 ≤ op) || [1, 2, 3, 4, 9].contains a.format
  let pairs := r.colRed != 3 || (a.format == 9 && o.format == 9 && n % 2 == 0)
  let comp := r.compress == 0 || ([1, 2].contains a.format && r.descD != 0 && [1, 2].contains d.format && d.extents == a.extents &&
    !d.isGlobal && !d.readOnly && !d.overlaps a && !d.overlaps o)
  let rows := op != 4 || (!a.isGlobal && sameRows a o && r.descB != 0 &&
    (if r.colFlag 2 then tableDesc (b.desc r.descB.toNat) 8
     else tableDesc (b.desc r.descB.toNat) 4 && r.descD != 0 && tableDesc d 8 && !d.readOnly && !d.overlaps a))
  r.descA == 0 || r.descC == 0 || o.isGlobal || o.readOnly || !plain || !fits || !input || !pairs || !comp || !rows ||
    o.overlaps a || (op == 4 && o.overlaps (b.desc r.descB.toNat))

/-! ## Parts of a ring (R362, R364) -/

/-- First element and length of chunk `k` of `n` elements in `p` chunks, each a multiple of 32 but the last. -/
def chunkRange (n p k : Nat) : Nat × Nat :=
  let len := roundUp (ceilDiv n p) 32
  (min n (k * len), min n ((k + 1) * len) - min n (k * len))

/-- First and length of the part of `n` things that channel `c` of `ch` carries: runs of 32, shared out in channel order. -/
def channelPart (n ch c : Nat) : Nat × Nat :=
  let x := shareRun (ceilDiv n 32) ch c
  (min n (32 * x.1), min n (32 * (x.1 + x.2)) - min n (32 * x.1))

/-- A part of a list. -/
def slice {α : Type} (l : List α) (p : Nat × Nat) : List α := (l.drop p.1).take p.2

/-- The BF16 format. -/
def bf16 : FloatFmt :=
  { bits := 16, man := 7, bias := 127, maxCode := 0x7F7F, infCode := some 0x7F80, nanCode := some (openNan 2 7 0x7F80) }

/-- A value rounded to BF16 at nearest even: its code. -/
def bf16Code (v : Num) : Nat := (toFloat bf16 .nearest true v).code

/-- Words as they travel: 4 bytes each, or as BF16. -/
def wireBytes (half : Bool) (l : List Word) : List Byte :=
  l.flatMap (fun w => if half then toBytes 2 (bf16Code (val32 w)) else toBytes 4 w.toNat)

/-- Words as they arrive. DEDUCED (notes/assumptions/31.md). -/
def wireWords (half : Bool) (l : List Byte) : List Word :=
  if half then (List.range (l.length / 2)).map (fun i => (f32 (ofFloat 2 bf16 (rdLE l (2 * i) 2))).1)
  else (List.range (l.length / 4)).map (fun i => BitVec.ofNat 32 (rdLE l (4 * i) 4))

/-- The exact sum of INT32 words, saturated (R145, R363). -/
def satAdd32 (x y : Word) : Word :=
  let s := signed 32 x.toNat + signed 32 y.toNat
  if s < -(2 ^ 31 : Nat) then BitVec.ofNat 32 (2 ^ 31)
  else if (2 ^ 31 - 1 : Nat) < s then BitVec.ofNat 32 (2 ^ 31 - 1) else BitVec.ofNat 32 (unsigned 32 s)

/-- One element combined under RED (R363): SUM, MAX or MIN. Which of two zeros of opposite sign MAX or MIN gives is open.
DESIGN CHOICE (notes/assumptions/16.md). -/
def combineWord (red : Nat) (int : Bool) (x y : Word) : Word :=
  if red = 0 then (if int then satAdd32 x y else f32add x y)
  else if (val32 x).isZero && (val32 y).isZero && x != y then (if (Config.zeroPick x y).getLsbD 0 then x else y)
  else if red = 1 then (f32 (numMax (val32 x) (val32 y))).1
  else (f32 (numMin (val32 x) (val32 y))).1

/-- Pairs of words added as 64-bit numbers, low word first. -/
def addPairs : List Word → List Word → List Word
  | a :: b :: l, c :: d :: r =>
    let s := a.toNat + 2 ^ 32 * b.toNat + (c.toNat + 2 ^ 32 * d.toNat)
    BitVec.ofNat 32 s :: BitVec.ofNat 32 (s / 2 ^ 32) :: addPairs l r
  | _, _ => []

/-- The part received combined with the module's own (R363, R364). DEDUCED (notes/assumptions/31.md). -/
def combineWords (red : Nat) (int : Bool) (x y : List Word) : List Word :=
  if red = 3 then addPairs x y else List.zipWith (combineWord red int) x y

/-! ## Compression (R366) -/

/-- The runs of `n` elements of a list. DEDUCED (notes/assumptions/31.md). -/
def runsOf {α : Type} (n : Nat) (l : List α) : List (List α) :=
  (List.range (ceilDiv l.length n)).map (fun i => (l.drop (n * i)).take n)

/-- Mean magnitude of a run in FP32, rounded once. DEDUCED (notes/assumptions/31.md). -/
def meanMag (l : List Num) : Num :=
  rnd32 ((l.foldl (fun a v => a.add v.abs) Num.zero).div (Num.ofInt l.length))

/-- A run of 32 elements as 4 bytes of sign bits and its scale. -/
def signForm (l : List Num) : List Byte :=
  toBytes 4 ((l.zipIdx.filter (fun p => p.1.negative && !p.1.isZero)).map (fun p => 2 ^ p.2)).sum ++ toBytes 4 (f32 (meanMag l)).1.toNat

/-- Does a magnitude rank above another: a NaN above every number? -/
def magAbove (x y : Num) : Bool := if y.isNan then false else if x.isNan then true else y.abs.lt x.abs

/-- Put an element in its place: largest magnitude first, ties by index. -/
def magInsert (x : Nat × Num) : List (Nat × Num) → List (Nat × Num)
  | [] => [x]
  | y :: l => if magAbove x.2 y.2 then x :: y :: l else y :: magInsert x l

/-- The picks of a run of 1,024 elements, 4 bytes each. -/
def topForm (k : Nat) (l : List Num) : List Byte :=
  ((l.zipIdx.foldl (fun a p => magInsert (p.2, p.1) a) []).take k).flatMap (fun p => toBytes 4 (p.1 % 1024 + bf16Code p.2 * 2 ^ 16))

/-- The compressed form of a range: COMPRESS 1 SIGN, 2 TOPK with `k` picks. -/
def compressForm (comp k : Nat) (l : List Num) : List Byte :=
  if comp = 1 then (runsOf 32 l).flatMap signForm else (runsOf 1024 l).flatMap (topForm k)

/-- A run of SIGN decompressed. -/
def signValues (l : List Byte) (n : Nat) : List Num :=
  let s := val32 (BitVec.ofNat 32 (rdLE l 4 4))
  (List.range n).map (fun i => if bit (rdLE l 0 4) i then s.neg else s)

/-- A run of TOPK decompressed. -/
def topValues (l : List Byte) (k n : Nat) : List Num :=
  let picks := (List.range k).map (fun i => rdLE l (4 * i) 4)
  (List.range n).map (fun i => match picks.find? (fun p => p % 1024 == i) with
    | some p => ofFloat 2 bf16 (p / 2 ^ 16)
    | none => Num.zero)

/-- A contribution of `n` elements in decompressed form. -/
def expandForm (comp k n : Nat) (l : List Byte) : List Num :=
  if comp = 1 then (List.range (ceilDiv n 32)).flatMap (fun i => signValues (l.drop (8 * i)) (min n (32 * (i + 1)) - 32 * i))
  else (List.range (ceilDiv n 1024)).flatMap (fun i =>
    let m := min n (1024 * (i + 1)) - 1024 * i
    topValues (l.drop (4 * i * min k 1024)) (min k m) m)

/-! ## Binary64 (R368) -/

/-- IEEE 754 binary64. -/
def fp64 : FloatFmt :=
  { bits := 64, man := 52, bias := 1023, maxCode := 0x7FEFFFFFFFFFFFFF, infCode := some 0x7FF0000000000000,
    nanCode := some (openNan 64 52 0x7FF0000000000000) }

/-- A value rounded to binary64. -/
def rnd64 (v : Num) : Num := ofFloat 64 fp64 (toFloat fp64 .nearest true v).code

/-- A value as a binary64 word. -/
def bits64 (v : Num) : DWord := BitVec.ofNat 64 (toFloat fp64 .nearest true v).code

/-- The value of a binary64 word. -/
def val64 (w : DWord) : Num := ofFloat 64 fp64 w.toNat

/-- A sum of squares in binary64, rounded after each addition, in an order that is not given. -/
def Block.squares (b : Block) (l : List Num) : Num × Block :=
  ((shuffle l.length (Config.sumOrder b.free l.length) l).foldl (fun a v => rnd64 (a.add (rnd64 (v.mul v)))) Num.zero,
    { b with free := b.free + 1 })

/-! ## A run and its messages -/

/-- What the steps of a run need: the record, whether elements are integers, and what the run holds. -/
structure ColView where
  r : TaskRec
  int : Bool
  x : ColRun

namespace ColView

/-- Number of ranks. -/
def p (v : ColView) : Nat := v.x.members.length

/-- Do partial sums travel as BF16 (R363)? Integers do not, and only reductions have partial sums. -/
def half (v : ColView) : Bool := v.r.colFlag 0 && !v.int && decide (v.r.colOp ≤ 2) && v.r.compress == 0

/-- The module of a rank, counted modulo P; `d` below 0 counts down. -/
def member (v : ColView) (i : Int) : Nat := v.x.members.getD (i % (max 1 v.p : Nat)).toNat 0

/-- A rank counted modulo P. -/
def rankOf (v : ColView) (i : Int) : Nat := (i % (max 1 v.p : Nat)).toNat

/-- The direction of a channel (R364): +1 for an even channel. -/
def dir (c : Nat) : Int := if c % 2 = 0 then 1 else -1

/-- The ring neighbours. -/
def neighbours (v : ColView) : List Nat :=
  ([v.member (v.x.rank + 1), v.member (v.x.rank - 1)].eraseDups).filter (fun m => m != v.member v.x.rank)

/-- Have both neighbours opened this collective with an agreeing COL_HELLO? -/
def greeted (v : ColView) : Bool := v.neighbours.all (fun m => v.x.greeted.contains m)

/-- The words of this rank's own part of chunk `k` on a channel. -/
def ownPart (v : ColView) (k c : Nat) : List Word :=
  let q := chunkRange v.x.own.length v.p k
  slice (slice v.x.own q) (channelPart q.2 v.r.channels c)

/-- Bytes of a reduce message, and of a gather message without its statistics, for chunk or contributor `k` on a channel. -/
def partLen (v : ColView) (gather : Bool) (k c : Nat) : Nat :=
  if gather ∧ v.r.compress ≠ 0 then (channelPart v.x.form.length v.r.channels c).2
  else if v.r.colOp = 3 then 4 * (channelPart v.x.own.length v.r.channels c).2
  else (if v.half then 2 else 4) * (channelPart (chunkRange v.x.own.length v.p k).2 v.r.channels c).2

/-- Bytes of a whole message: statistics ride on channel 0 of the gather (R368). -/
def msgLen (v : ColView) (gather : Bool) (k c : Nat) : Nat :=
  v.partLen gather k c + if gather && c == 0 && v.r.colFlag 1 then 8 else 0

/-- The data that reached this rank at a step of a channel, of chunk or contributor `k`; a message of no bytes is not sent. -/
def got (v : ColView) (gather : Bool) (c s k : Nat) : Option (List Byte) :=
  if v.msgLen gather k c = 0 then some []
  else (v.x.inbox.find? (fun m => m.src == v.member (v.x.rank - dir c) && m.head == [v.x.seq, b2n gather, c, s])).map (fun m => m.data)

/-- The chunk that this rank sends at a step of the reduction. -/
def sentChunk (v : ColView) (c s : Nat) : Nat := v.rankOf (v.x.rank - dir c * (1 + s))

/-- The part this rank passes on at a step of the reduction: its own at first, later what it received with its own. -/
def partial_ (v : ColView) (c : Nat) : Nat → Option (List Word)
  | 0 => some (v.ownPart (v.sentChunk c 0) c)
  | s + 1 => (v.got false c s (v.sentChunk c (s + 1))).map (fun l =>
      combineWords v.r.colRed v.int (wireWords v.half l) (v.ownPart (v.sentChunk c (s + 1)) c))

/-- The finished part of this rank's own chunk on a channel; under WIRE_BF16 an ALL_REDUCE keeps what it sends. -/
def finished (v : ColView) (c : Nat) : Option (List Word) :=
  (v.partial_ c (v.p - 1)).map (fun l => if v.half ∧ v.r.colOp = 1 then wireWords true (wireBytes true l) else l)

/-- What this rank contributes to the gather on a channel (R364, R367). -/
def contribution (v : ColView) (c : Nat) : Option (List Byte) :=
  let l := if v.r.compress ≠ 0 then some (slice v.x.form (channelPart v.x.form.length v.r.channels c))
    else if v.r.colOp = 3 then some (wireBytes false (slice v.x.own (channelPart v.x.own.length v.r.channels c)))
    else (v.finished c).map (wireBytes v.half)
  l.map (fun l => l ++ if c = 0 ∧ v.r.colFlag 1 then toBytes 8 v.x.localSq.toNat else [])

/-- The contribution of rank `k` on a channel, once it has come. -/
def gathered (v : ColView) (k c : Nat) : Option (List Byte) :=
  if k = v.x.rank then v.contribution c
  else v.got true c (v.rankOf (dir c * ((v.x.rank : Int) - k) - 1)) k

/-- What this rank sends at a step of the gather. -/
def passed (v : ColView) (c : Nat) : Nat → Option (List Byte)
  | 0 => v.contribution c
  | s + 1 => v.got true c s (v.rankOf (v.x.rank - dir c * (1 + s)))

/-- Does the operation reduce over a ring? -/
def reduces (v : ColView) : Bool := decide (v.r.colOp ≤ 2) && v.r.compress == 0

/-- Does it gather? -/
def gathers (v : ColView) : Bool := v.r.colOp == 1 || v.r.colOp == 3

/-- The ring messages that are due: destination, head numbers, bytes. -/
def ringDue (v : ColView) : List (Nat × List Nat × List Byte) :=
  (List.range v.r.channels).flatMap (fun c => (List.range (v.p - 1)).flatMap (fun s =>
    let dst := v.member (v.x.rank + dir c)
    let one := fun (on gather : Bool) (k : Nat) (data : Option (List Byte)) =>
      let head := [v.x.seq, b2n gather, c, s]
      if !on || v.msgLen gather k c == 0 || v.x.sent.contains (dst :: head) then []
      else (data.map (fun l => (dst, head, l))).toList
    one v.reduces false (v.sentChunk c s) ((v.partial_ c s).map (wireBytes v.half)) ++
      one v.gathers true (v.rankOf (v.x.rank - dir c * s)) (v.passed c s)))

/-- Every contribution of the gather, by rank, each its channels in order; none while one is missing. -/
def allGathered (v : ColView) : Option (List (List Byte)) :=
  (List.range v.p).mapM (fun k => ((List.range v.r.channels).mapM (fun c =>
    (v.gathered k c).map (fun l => l.take (v.partLen true k c)))).map List.flatten)

/-- LOCAL_SQ of every rank. -/
def teamSquares (v : ColView) : List Num :=
  (List.range v.p).map (fun k =>
    let l := (v.gathered k 0).getD []
    val64 (BitVec.ofNat 64 (rdLE l (v.partLen true k 0) 8)))

/-- An element word as a value. -/
def value (v : ColView) (w : Word) : Num := if v.int then Num.ofInt (signed 32 w.toNat) else val32 w

/-- The result of a ring operation, once it is whole: the values in flattened order. -/
def result (v : ColView) : Option (List Num) :=
  if v.r.colOp = 2 then
    ((List.range v.r.channels).mapM v.finished).map (fun l => l.flatten.map v.value)
  else if v.r.compress ≠ 0 then
    v.allGathered.map (fun ls =>
      let n := v.x.own.length
      let vs := ls.map (fun l => expandForm v.r.compress (v.r.par 5 1) n l)
      match vs with
      | [] => []
      | f :: rest => rest.foldl (fun a l => List.zipWith (fun x y => rnd32 (x.add y)) a l) f)
  else v.allGathered.map (fun ls => ls.flatMap (fun l => (wireWords v.half l).map v.value))

end ColView

/-! ## Sending and ending -/

/-- The module's task unit. -/
abbrev colUnit : UnitId := .wholeModule

/-- Set a run. -/
def Block.setRun (b : Block) (x : ColRun) : Block :=
  { b with col := { b.col with runs := b.col.runs.map (fun y => if y.serial = x.serial then x else y) } }

/-- The run of a task. -/
def Block.run? (b : Block) (n : Nat) : Option ColRun := b.col.runs.find? (fun x => x.serial == n)

/-- A collective's task ends in a fault. -/
def Block.colFault (b : Block) (n code : Nat) : Block := b.faultTask colUnit n code

/-- Has the task of a serial number faulted or gone? -/
def Block.colGone (b : Block) (n : Nat) : Bool :=
  match b.bySerial colUnit n with
  | some t => decide (t.phase ≠ .running)
  | none => true

/-- Send a request of a collective, in packets of at most 512 bytes; one that cannot be sent faults the task. -/
def Block.colSend (b : Block) (n dst opcode addr : Nat) (data : List Byte) : Block :=
  let ps := if data.isEmpty then [(addr, 0)] else pieces 512 addr data.length
  ps.foldl (fun x p =>
    if x.colGone n then x
    else
      let q := x.request (.task colUnit n) dst 1 opcode p.2 p.1 ((data.drop (p.1 - addr)).take p.2)
      match q.1 with
      | .ok => q.2
      | .noRoute => q.2.colFault n Ev.FABRIC_UNREACHABLE
      | .fenced => q.2.fencedDrop.colFault n Ev.FENCED) b

/-- Send the messages of a run that are due, noting each. -/
def Block.colSendAll (b : Block) (n : Nat) (l : List (Nat × List Nat × List Byte)) : Block :=
  l.foldl (fun x m => match x.run? n with
    | none => x
    | some r =>
      let x := x.setRun { r with sent := r.sent ++ [m.1 :: m.2.1] }
      (x.colSend n m.1 Op.colData 0 m.2.2).count .col Reg.COL_BYTES_TX m.2.2.length) b

/-- A collective has done its work. -/
def Block.colDone (b : Block) (n : Nat) : Block :=
  (b.mapTask colUnit n (fun t => { t with items := 1 })).count .col Reg.COL_TASKS 1

/-- Writes of a collective that must all be possible: fault, wait, or done. -/
def Block.colWrite (b : Block) (t : TaskSt) (w : List (Nat × List Byte)) (pageInOk : Bool) (next : Block → Block) : Block :=
  let q := b.taskWrite t none w pageInOk
  match q.1 with
  | .ok => next q.2
  | .wait => q.2
  | .fault code => q.2.colFault t.serial code

/-- The writes that put values at places of a tensor (R158 to R161). -/
def Block.placeValues (b : Block) (o : Desc) (ovfInf : Bool) (l : List ((Nat × Nat) × Num)) : List (Nat × List Byte) :=
  let rows := (l.map (fun p => p.1.1)).eraseDups
  rows.flatMap (fun row =>
    let own := (l.filter (fun p => p.1.1 == row)).foldl (fun a p =>
      movedInsert { row := row, col := p.1.2, code := 0, val := p.2, byte := 0, bad := false, badScale := false } a) []
    (movedRuns (fillBlocks o b.reader row own)).flatMap (fun run => (runWrites o b.reader row false false ovfInf run).2))

/-- Do all entries of a list allow page-ins? -/
def Block.colPageIn (b : Block) (r : TaskRec) : Bool := (b.colEntries r).all (fun e => e.pageInOk)

/-- The bytes of the statistics record (R368). -/
def statsBytes (localSq teamSq reducedSq : Num) (p n : Nat) : List Byte :=
  toBytes 8 (bits64 localSq).toNat ++ toBytes 8 (bits64 teamSq).toNat ++ toBytes 8 (bits64 reducedSq).toNat ++
    toBytes 4 p ++ toBytes 4 n ++ List.replicate 32 0

/-- Write the result of a ring operation, and its statistics, and end. -/
def Block.ringFinish (b : Block) (t : TaskSt) (v : ColView) (vals : List Num) : Block :=
  let r := t.task
  let a := b.desc r.descA.toNat
  let o := b.desc r.descC.toNat
  let places := if r.colOp = 1 then (rangeCoords (b.colEntries r)).map (a.sameCoords o)
    else (List.range vals.length).map o.flat
  let w := b.placeValues o (r.colFlag 3) (places.zip vals)
  if r.colFlag 1 then
    let team := v.teamSquares
    let sum := (team.drop 1).foldl (fun x y => rnd64 (x.add y)) (team.headD Num.zero)
    let q := b.squares vals
    q.2.colWrite t (w ++ [(r.statsAddr, statsBytes (val64 v.x.localSq) sum q.1 v.p v.x.own.length)]) (b.colPageIn r)
      (fun x => x.colDone t.serial)
  else b.colWrite t w (b.colPageIn r) (fun x => x.colDone t.serial)

/-! ## Expert rows between modules (R369 to R371) -/

/-- A group of rows that this rank sends: segment, the module it goes to, the first row in DESC_A, the base told to that module, rows,
version. -/
structure RowGroup where
  seg : Nat
  peer : Nat
  row : Nat
  base : Nat
  n : Nat
  version : Nat
  deriving DecidableEq, Repr

/-- Words of a row of a packed INT32 table. -/
def Block.tableRow (b : Block) (d : Desc) (i n : Nat) : List Nat := d.codes b.reader i 0 n

/-- The row groups of a record's DESC_B: a count table, or under REVERSE a receive table. -/
def Block.rowGroups (b : Block) (r : TaskRec) : List RowGroup :=
  let d := b.desc r.descB.toNat
  (List.range d.rows).map (fun i =>
    if r.colFlag 2 then
      let w := b.tableRow d i 8
      ⟨w.getD 2 0, w.getD 3 0, w.getD 1 0, w.getD 4 0, w.getD 0 0, w.getD 5 0⟩
    else
      let w := b.tableRow d i 4
      ⟨i, w.getD 3 0 % 4096, w.getD 2 0, w.getD 2 0, w.getD 0 0, w.getD 3 0 / 2 ^ 16⟩)

/-- A row group in a counts message: 20 bytes. -/
def RowGroup.bytes (g : RowGroup) : List Byte :=
  toBytes 4 g.seg ++ toBytes 4 g.peer ++ toBytes 4 g.base ++ toBytes 4 g.n ++ toBytes 4 g.version

/-- Row groups from a counts message. -/
def groupsOf (l : List Byte) : List RowGroup :=
  (List.range (l.length / 20)).map (fun i =>
    let w := fun k => rdLE l (20 * i + 4 * k) 4
    ⟨w 0, w 1, 0, w 2, w 3, w 4⟩)

/-- The row groups of every rank, in rank order, once the counts have come. -/
def ColView.allGroups (v : ColView) (own : List RowGroup) : Option (List (List RowGroup)) :=
  v.x.members.mapM (fun m => if m = v.member v.x.rank then some own
    else (v.x.inbox.find? (fun q => q.src == m && q.head == [v.x.seq, 2])).map (fun q => groupsOf q.data))

/-- A row's bytes: its data, then its scale bytes. -/
def Block.rowImage (b : Block) (d : Desc) (row : Nat) : List Byte :=
  (d.spanRanges row 0 d.d0).flatMap (fun p => b.bytes p.1 p.2)

/-- Bytes of a row image. -/
def Desc.imageLen (d : Desc) : Nat := ((d.spanRanges 0 0 d.d0).map (fun p => p.2)).sum

/-- The writes that put a row image in a row of a tensor of the same form. -/
def Block.imageWrites (b : Block) (o : Desc) (row : Nat) (img : List Byte) : List (Nat × List Byte) :=
  let at_ := if o.layout = 0 then o.vecAddr row 0 else o.elemAddr row 0
  let data := o.imageLen - if o.mx then o.v0 else 0
  o.putCodes b.reader row 0 (o.codes (fun a n => (img.drop (a - at_)).take n) row 0 o.d0) ++
    o.putScales row 0 ((img.drop data).map (fun x => x.toNat))

/-- Head numbers of the rows of a group. DESIGN CHOICE (notes/assumptions/30.md). -/
def ColView.rowHead (v : ColView) (g : RowGroup) : List Nat := [v.x.seq, 3, g.seg, g.base, g.n, g.version]

/-- The rows of a group that arrive at this rank: own ones read from DESC_A, others from their message. -/
def Block.arrived (b : Block) (v : ColView) (a : Desc) (own : List RowGroup) (src : Nat) (g : RowGroup) : Option (List (List Byte)) :=
  if g.n = 0 then some []
  else if src = b.moduleId then
    (own.find? (fun x => x.seg == g.seg && x.peer == g.peer && x.base == g.base)).map (fun x =>
      (List.range g.n).map (fun i => b.rowImage a (x.row + i)))
  else (v.x.inbox.find? (fun q => q.src == src && q.head == v.rowHead g)).map (fun q =>
    (List.range g.n).map (fun i => (q.data.drop (i * a.imageLen)).take a.imageLen))

/-- The groups bound for this module, each with its source, by ascending segment and source rank. -/
def inbound (self : Nat) (members : List Nat) (all : List (List RowGroup)) : List (Nat × RowGroup) :=
  let l := (members.zip all).flatMap (fun p => (p.2.filter (fun g => g.peer == self)).map (fun g => (p.1, g)))
  let segs := (l.map (fun p => p.2.seg)).eraseDups.mergeSort
  segs.flatMap (fun s => l.filter (fun p => p.2.seg == s))

/-- The receive layout (R370): for each inbound group its first row here; and the segments with their first row and their rows. -/
def receiveLayout (l : List (Nat × RowGroup)) : List (Nat × Nat × RowGroup) × List (Nat × Nat × Nat) :=
  let segs := (l.map (fun p => p.2.seg)).eraseDups
  let out := segs.foldl (fun (st : Nat × List (Nat × Nat × RowGroup) × List (Nat × Nat × Nat)) s =>
    let gs := l.filter (fun p => p.2.seg == s)
    let placed := gs.foldl (fun (q : Nat × List (Nat × Nat × RowGroup)) p => (q.1 + p.2.n, q.2 ++ [(q.1, p.1, p.2)])) (st.1, [])
    (st.1 + roundUp (placed.1 - st.1) 8, st.2.1 ++ placed.2, st.2.2 ++ [(s, st.1, placed.1 - st.1)])) (0, [], [])
  out.2

/-- The code that the counts give (R369): COL_SHAPE, or COL_CAPACITY in the last case. -/
def Block.countsFault (b : Block) (r : TaskRec) (members : List Nat) (all : List (List RowGroup)) : Option Nat :=
  let gs := all.flatten
  let ins := inbound b.moduleId members all
  let o := b.desc r.descC.toNat
  let lay := receiveLayout ins
  let rows := (ins.map (fun p => p.2.n)).sum
  if gs.any (fun g => !members.contains g.peer) then some Ev.COL_SHAPE
  else if r.colFlag 2 then
    (if ins.any (fun p => decide (o.rows < p.2.base + p.2.n)) then some Ev.COL_SHAPE else none)
  else if gs.any (fun g => gs.any (fun h => g.seg == h.seg && g.version != h.version)) then some Ev.COL_SHAPE
  else if o.rows < (lay.2.map (fun s => roundUp s.2.2 8)).sum ∨ (b.desc r.descD.toNat).rows < ins.length ∨
      (r.colListOut ≠ 0 ∧ ((b.within r.colListOut (32 * lay.2.length)).filter (fun v => decide (v.kind = .list))).isNone) then
    some Ev.COL_SHAPE
  else if r.capacity.toNat < rows then some Ev.COL_CAPACITY
  else none

/-- The messages of an ALL_TO_ALL that are due: the counts to every other rank, then the rows of each group. -/
def Block.rowsDue (b : Block) (v : ColView) (own : List RowGroup) (counted : Bool) : List (Nat × List Nat × List Byte) :=
  let a := b.desc v.r.descA.toNat
  let fresh := fun (m : Nat) (h : List Nat) => !v.x.sent.contains (m :: h)
  let others := v.x.members.filter (fun m => m != b.moduleId)
  ((others.filter (fun m => fresh m [v.x.seq, 2])).map (fun m => (m, [v.x.seq, 2], own.flatMap RowGroup.bytes))) ++
    if counted then
      (own.filter (fun g => g.n != 0 && g.peer != b.moduleId && fresh g.peer (v.rowHead g))).map (fun g =>
        (g.peer, v.rowHead g, (List.range g.n).flatMap (fun i => b.rowImage a (g.row + i))))
    else []

/-- The writes of an ALL_TO_ALL whose rows are all here; none while one is missing. -/
def Block.rowWrites (b : Block) (v : ColView) (own : List RowGroup) (all : List (List RowGroup)) : Option (List (Nat × List Byte)) :=
  let r := v.r
  let a := b.desc r.descA.toNat
  let o := b.desc r.descC.toNat
  let d := b.desc r.descD.toNat
  let ins := inbound b.moduleId v.x.members all
  if r.colFlag 2 then
    (ins.mapM (fun p => (b.arrived v a own p.1 p.2).map (fun l =>
      l.zipIdx.flatMap (fun q => b.imageWrites o (p.2.base + q.2) q.1)))).map List.flatten
  else
    let lay := receiveLayout ins
    (lay.1.mapM (fun p => (b.arrived v a own p.2.1 p.2.2).map (fun l =>
      l.zipIdx.flatMap (fun q => b.imageWrites o (p.1 + q.2) q.1)))).map (fun l =>
        let zero := List.replicate o.imageLen (0 : Byte)
        let pads := lay.2.flatMap (fun s => (List.range (roundUp s.2.2 8 - s.2.2)).flatMap (fun i =>
          b.imageWrites o (s.2.1 + s.2.2 + i) zero))
        let table := lay.1.zipIdx.map (fun p => (d.elemAddr p.2 0,
          [p.1.2.2.n, p.1.1, p.1.2.2.seg, p.1.2.1, p.1.2.2.base, p.1.2.2.version, 0, 0].flatMap (toBytes 4)))
        l.flatten ++ pads ++ table)

/-- The block list of the local segments (R215, R370). -/
def segmentList (o : Desc) (segs : List (Nat × Nat × Nat)) : List (List Byte) :=
  segs.map (fun s => toBytes 4 s.2.1 ++ toBytes 4 (roundUp s.2.2 8) ++ toBytes 4 0 ++ toBytes 4 o.d0 ++ toBytes 1 2 ++
    List.replicate 15 0)

/-- Write LIST_OUT, checked under R92; it is bound when the task completes (R97). -/
def Block.writeSegments (b : Block) (t : TaskSt) (all : List (List RowGroup)) (v : ColView) : Block :=
  let r := t.task
  if r.colFlag 2 ∨ r.colListOut = 0 then b.colDone t.serial
  else
    let o := b.desc r.descC.toNat
    let l := segmentList o (receiveLayout (inbound b.moduleId v.x.members all)).2
    match l.findSome? (fun e => o.entryFault (Entry32.ofBytes e)) with
    | some code => b.colFault t.serial code
    | none => ((b.store r.colListOut l.flatten).mapTask colUnit t.serial (fun x => { x with
        listsOut := x.listsOut ++ [(r.colListOut, [0, 0, r.descC.toNat, 0])] })).colDone t.serial

/-- Bytes of DESC_A and DESC_B that an ALL_TO_ALL reads. -/
def Block.rowReads (b : Block) (r : TaskRec) : List (Nat × Nat) :=
  let a := b.desc r.descA.toNat
  let d := b.desc r.descB.toNat
  (List.range d.rows).flatMap (fun i => d.spanRanges i 0 d.d0) ++
    (b.rowGroups r).flatMap (fun g => (List.range g.n).flatMap (fun i => a.spanRanges (g.row + i) 0 a.d0))

/-- A step of an ALL_TO_ALL that has been greeted. -/
def Block.rowsGo (b : Block) (t : TaskSt) (v : ColView) : Block :=
  let r := t.task
  let a := b.desc r.descA.toNat
  let own := b.rowGroups r
  if own.any (fun g => decide (a.rows < g.row + g.n)) then b.colFault t.serial Ev.COL_SHAPE
  else
    let reads := b.rowReads r
    let q := b.demand t reads (b.colPageIn r)
    match q.1, b.poisonIn t reads with
    | .wait, _ => q.2
    | .fault code, _ => q.2.colFault t.serial code
    | .ok, some a => q.2.colFault t.serial (poisonCode a)
    | .ok, none =>
      let all := v.allGroups own
      let b := if v.x.sent.isEmpty then q.2.served 16 t reads else q.2
      match all with
      | none => b.colSendAll t.serial (b.rowsDue v own false)
      | some gs =>
        match b.countsFault r v.x.members gs with
        | some code => b.colFault t.serial code
        | none =>
          let due := b.rowsDue v own true
          if !due.isEmpty then b.colSendAll t.serial due
          else match b.rowWrites v own gs with
            | none => b
            | some w => b.colWrite t w (b.colPageIn r) (fun x => x.writeSegments t gs v)

/-! ## Moving blocks to named modules (R372) -/

/-- The blocks a collective reads, each where it lies; none where a shard's map entry is not valid (R103). -/
def Block.colSources (b : Block) (r : TaskRec) : Option (List Source) :=
  (b.colEntries r).mapM (fun e => b.source (b.desc r.descA.toNat) e)

/-- Reads of the block a source names: this module's memory, or what its holder sent (R103). -/
def Source.blockReader (b : Block) (s : Source) : Reader := fun a n => if s.holder = 0 then b.bytes a n else b.remoteBytes (s.holder - 1) a n

/-- The writes of a PERMUTE entry, whose block lies at `s`, at its destination's coordinates: bits where format and scale mode agree, values
otherwise. -/
def Block.permuteWrites (b : Block) (r : TaskRec) (e0 : Entry32) (s : Source) : List (Nat × List Byte) :=
  let a := s.d
  let e := s.e
  let rd := s.blockReader b
  let o := b.desc r.descC.toNat
  let row := e0.param 4 4
  let col := e0.param 8 4
  let zero : Reader := fun _ n => List.replicate n 0
  (List.range e.rowCount).flatMap (fun i =>
    if a.format = o.format ∧ a.scaleMode = o.scaleMode ∧ (!a.mx ∨ e.colStart % 32 = 0) then
      o.putCodes zero (row + i) col (a.codes rd (e.rowStart + i) e.colStart e.colCount) ++
        o.putScales (row + i) col (a.scales rd (e.rowStart + i) e.colStart e.colCount)
    else
      let v := (a.values rd (e.rowStart + i) e.colStart e.colCount).map (fun x => (x, Rounding.nearest))
      o.putConv zero (row + i) col (o.convert col v (r.colFlag 3)))

/-- Carry out one write of a PERMUTE: in this module's own memory, or as WRITE requests. -/
def Block.permuteOne (b : Block) (n m : Nat) (w : Nat × List Byte) : Block :=
  if b.colGone n then b
  else if m = b.moduleId then
    let q := b.remoteAccess w.1 w.2.length true
    match q.1 with
    | .ok => q.2.store w.1 w.2
    | .fault code => q.2.colFault n code
    | .wait => q.2
  else (b.colSend n m Op.write w.1 w.2).count .col Reg.COL_BYTES_TX w.2.length

/-- The own-memory writes of a PERMUTE and what stands in their way. -/
def Block.permuteReady (b : Block) (l : List (Nat × Nat × List Byte)) : Ready × Block :=
  (l.filter (fun w => w.1 == b.moduleId)).foldl (fun (st : Ready × Block) w => match st.1 with
    | .ok => st.2.remoteAccess w.2.1 w.2.2.length true
    | _ => st) (.ok, b)

/-- A step of a PERMUTE that has been greeted: its writes leave once every byte they need is at hand. -/
def Block.permuteGo (b : Block) (t : TaskSt) (v : ColView) : Block :=
  let r := t.task
  let es := b.colEntries r
  if v.x.sent.contains [v.x.seq] then (if b.awaits colUnit t.serial then b else b.colDone t.serial)
  else match b.colSources r with
  | none => b.colFault t.serial Ev.SHARD_ABSENT
  | some ss =>
    let reads := (ss.filter (fun s => s.holder == 0)).flatMap Source.ranges
    let q := b.demand t reads (b.colPageIn r)
    match q.1, b.poisonIn t reads with
    | .wait, _ => q.2
    | .fault code, _ => q.2.colFault t.serial code
    | .ok, some a => q.2.colFault t.serial (poisonCode a)
    | .ok, none =>
      let b := q.2
      let q := (q.1, if v.x.sent.isEmpty then b.served 16 t reads else b)
      let l := (es.zip ss).flatMap (fun p => (q.2.permuteWrites r p.1 p.2).map (fun w => (p.1.param 0 2 % 4096, w)))
      let z := q.2.permuteReady l
      match z.1 with
      | .wait => z.2
      | .fault code => z.2.colFault t.serial code
      | .ok => l.foldl (fun x w => x.permuteOne t.serial w.1 w.2) (z.2.setRun { v.x with sent := [[v.x.seq]] })

/-! ## Opening a collective (R361) -/

/-- The members of a task's team in rank order: the loaded team, or the group's bitmap (R359). -/
def Block.colMembers (b : Block) (t : TaskSt) : List Nat :=
  if t.team < 16 then (match b.team? t.team with
    | some x => x.members
    | none => [])
  else if t.group.isEmpty then b.groupMembers else t.group

/-- What a COL_HELLO carries: sequence, OP, RED, CFLAGS, formats of DESC_A and DESC_C, element count, P.
DESIGN CHOICE (notes/assumptions/30.md). -/
def Block.helloFields (b : Block) (r : TaskRec) (seq p : Nat) : List Nat :=
  [seq, r.colOp, r.colRed, r.par 3 1, (b.desc r.descA.toNat).format, (b.desc r.descC.toNat).format, rangeLen (b.colEntries r), p]

/-- The bytes of a COL_HELLO; their layout is not given. DESIGN CHOICE (notes/assumptions/30.md). -/
def helloBytes (l : List Nat) : List Byte := l.flatMap (toBytes 6)

/-- Packets of a message of `n` bytes. DESIGN CHOICE (notes/assumptions/30.md). -/
def colPackets (n : Nat) : Nat := max 1 (ceilDiv n 512)

/-- Acknowledge the packets of a message of a collective. -/
def Block.colReply (b : Block) (dst n : Nat) : Block :=
  (List.range (colPackets n)).foldl (fun x _ => x.sendOr (x.packet dst 2 Op.colAck 0 0 0 [])) b

/-- A member found a difference, or was told of one: its task faults and COL_MISMATCHES counts. -/
def Block.colMismatch (b : Block) (n : Nat) : Block := (b.colFault n Ev.COL_MISMATCH).count .col Reg.COL_MISMATCHES 1

/-- A member found a difference: it also sends COL_ABORT to every rank. -/
def Block.colDiffer (b : Block) (x : ColRun) : Block :=
  (x.members.filter (fun m => m != b.moduleId)).foldl (fun y m => y.sendOr (y.packet m 1 Op.colAbort 0 0 0 [])) (b.colMismatch x.serial)

/-- Compare a COL_HELLO with a run: agree and acknowledge, or fault. -/
def Block.colCompare (b : Block) (x : ColRun) (h : Hello) : Block :=
  match b.bySerial colUnit x.serial with
  | none => b
  | some t =>
    if h.fields = { b with lens := t.kept }.helloFields t.task x.seq x.members.length then
      (b.setRun { x with greeted := x.greeted ++ [h.src] }).colReply h.src 0
    else b.colDiffer x

/-- Compare the hellos held for a team with the run that has started: the oldest from each neighbour not yet heard. -/
def Block.colHeld (b : Block) (n : Nat) : Block :=
  match b.run? n with
  | none => b
  | some x =>
    let v : ColView := ⟨TaskRec.ofBytes [], false, x⟩
    v.neighbours.foldl (fun y m => match y.run? n with
      | none => y
      | some x => match y.col.hellos.find? (fun h => h.team == x.team && h.src == m) with
        | none => y
        | some h =>
          if y.colGone n ∨ x.greeted.contains m then y
          else ({ y with col := { y.col with hellos := y.col.hellos.erase h } }).colCompare x h) b

/-- Take into a run the data held for it, acknowledging each message. -/
def Block.colEarly (b : Block) (n : Nat) : Block :=
  match b.run? n with
  | none => b
  | some x =>
    let mine := fun (m : ColMsg) => m.team == x.team && m.head.headD 0 == x.seq
    let l := b.col.early.filter mine
    let b := { b with col := { b.col with early := b.col.early.filter (fun m => !mine m) } }
    l.foldl (fun y m => y.colReply m.src m.data.length) (b.setRun { x with inbox := x.inbox ++ l })

/-- The element words of blocks: integers as they are, other values as FP32 (R76, R363). -/
def Block.colWords (b : Block) (int : Bool) (l : List Source) : List Word :=
  l.flatMap (fun s =>
    let rd := s.blockReader b
    (List.range s.e.rowCount).flatMap (fun i =>
      if int then (s.d.codes rd (s.e.rowStart + i) s.e.colStart s.e.colCount).map (BitVec.ofNat 32)
      else (s.d.values rd (s.e.rowStart + i) s.e.colStart s.e.colCount).map (fun v => (f32 v).1)))

/-- Create the run and send its hellos. -/
def Block.colBegin (b : Block) (t : TaskSt) (own : List Word) (form : List Byte) (sq : DWord) : Block :=
  let ms := b.colMembers t
  let seq := Sparse.get (fun _ => 0) b.col.seqs t.team
  let x : ColRun := { team := t.team, serial := t.serial, seq := seq, members := ms, rank := ms.idxOf b.moduleId, own := own,
                      form := form, localSq := sq, inbox := [], sent := [], greeted := [] }
  let v : ColView := ⟨t.task, false, x⟩
  let b := { b with col := { b.col with runs := b.col.runs ++ [x]
                                        seqs := Sparse.put (fun _ => 0) b.col.seqs t.team ((seq + 1) % 2 ^ 48) } }
  let hello := helloBytes (b.helloFields t.task seq ms.length)
  let b := v.neighbours.foldl (fun y m => y.colSend t.serial m Op.colHello 0 hello) b
  (b.colHeld t.serial).colEarly t.serial

/-- Ask other modules for the blocks they hold. -/
def Block.colFetch (b : Block) (t : TaskSt) (l : List Source) : Block :=
  let b := b.mapTask colUnit t.serial (fun x => { x with cursor := 1 })
  (l.filter (fun s => s.holder != 0)).foldl (fun x s =>
    if x.colGone t.serial then x
    else
      let q := x.readRemote (.task colUnit t.serial) (s.holder - 1) s.ranges
      match q.1 with
      | none => q.2
      | some code => (if code = Ev.FENCED then q.2.fencedDrop else q.2).colFault t.serial code) b

/-- Check the versions of the blocks consumed (R376): the first code that faults. -/
def Block.colVersions (b : Block) (d : Desc) (l : List Source) : Option Nat × Block :=
  l.foldl (fun (st : Option Nat × Block) s => match st.1 with
    | some _ => st
    | none => st.2.checkVersion d.allowNewer s.version) (none, b)

/-- Read the range and open: under COMPRESS the module's own contribution goes to DESC_D (R366). -/
def Block.colRead (b : Block) (t : TaskSt) (l : List Source) : Block :=
  let r := t.task
  let a := b.desc r.descA.toNat
  let d := b.desc r.descD.toNat
  let reads := (l.filter (fun s => s.holder == 0)).flatMap Source.ranges
  let q := b.demand t reads (b.colPageIn r)
  match q.1, b.poisonIn t reads with
  | .wait, _ => q.2
  | .fault code, _ => q.2.colFault t.serial code
  | .ok, some a => q.2.colFault t.serial (poisonCode a)
  | .ok, none =>
    let z := (q.2.served 16 t reads).colVersions a l
    match z.1 with
    | some code => z.2.colFault t.serial code
    | none =>
      let b := z.2
      let int := colInt r a
      let own := b.colWords int l
      let vals := own.map (fun w => if int then Num.ofInt (signed 32 w.toNat) else val32 w)
      let sq := if r.colFlag 1 then b.squares vals else (Num.zero, b)
      let b := sq.2
      if r.compress = 0 then b.colBegin t own [] (bits64 sq.1)
      else
        let form := compressForm r.compress (r.par 5 1) vals
        let s := expandForm r.compress (r.par 5 1) own.length form
        let w := b.placeValues d (r.colFlag 3) (((rangeCoords (b.colEntries r)).map (a.sameCoords d)).zip s)
        b.colWrite t w (b.colPageIn r) (fun x => x.colBegin t own form (bits64 sq.1))

/-- Open a collective that has just started: its checks (R99, R362), its range, its hellos. -/
def Block.colOpen (b : Block) (t : TaskSt) : Block :=
  let r := t.task
  match (if t.cursor = 0 then b.recordCheck r else none) with
  | some code => b.colFault t.serial code
  | none =>
    if t.cursor = 0 ∧ b.colShape r (b.colMembers t).length then b.colFault t.serial Ev.COL_SHAPE
    else if r.colOp = 4 then b.colBegin t [] [] 0
    else match b.colSources r with
      | none => b.colFault t.serial Ev.SHARD_ABSENT
      | some l =>
        if t.cursor = 0 ∧ l.any (fun s => !b.sourceFits s) then b.colFault t.serial Ev.DESC_RANGE
        else if t.cursor = 0 ∧ l.any (fun s => s.holder != 0) then b.colFetch t l
        else if b.awaits colUnit t.serial then b
        else if r.colOp = 5 then
          let z := b.colVersions (b.desc r.descA.toNat) l
          match z.1 with
          | some code => z.2.colFault t.serial code
          | none => z.2.colBegin t [] [] 0
        else b.colRead t l

/-! ## Steps -/

/-- The view of a running collective. -/
def Block.colView (b : Block) (t : TaskSt) (x : ColRun) : ColView := ⟨t.task, colInt t.task (b.desc t.task.descA.toNat), x⟩

/-- Is something due of a collective? -/
def Block.colDue (b : Block) (t : TaskSt) : Bool :=
  decide (t.items = 0) && !t.isEmpty &&
  match b.run? t.serial with
  | none => true
  | some x =>
    let v := { b with lens := t.kept }.colView t x
    v.greeted && (decide (4 ≤ t.task.colOp) || !v.ringDue.isEmpty || v.result.isSome)

/-- Carry on a collective: open it, send what is due, write its result when it is whole. -/
def Block.colGo (b : Block) (t : TaskSt) : Block :=
  match b.run? t.serial with
  | none => b.colOpen t
  | some x =>
    let v := b.colView t x
    if t.task.colOp = 4 then b.rowsGo t v
    else if t.task.colOp = 5 then b.permuteGo t v
    else if !v.ringDue.isEmpty then b.colSendAll t.serial v.ringDue
    else match v.result with
      | some vals => b.ringFinish t v vals
      | none => b

/-- A step of the first running collective of an operation with something due, with the NCLK cycles it took and the words that its reads found
in error. -/
def colStep (op cycles : Nat) (errs : Errs) (b : Block) : Block :=
  match b.collectives.find? (fun t => t.task.colOp == op && b.colDue t) with
  | none => b
  | some t => b.asTask t (fun x => ((x.found errs).addCycles colUnit t.serial cycles).colGo t)

/-- ALL_REDUCE (R362 to R368). -/
def execAllReduce (cycles : Nat) (errs : Errs) (s : State) : Host.Outcome State Fault Refusal :=
  s.onBlock (colStep 1 cycles errs)

/-- REDUCE_SCATTER (R362, R363). -/
def execReduceScatter (cycles : Nat) (errs : Errs) (s : State) : Host.Outcome State Fault Refusal :=
  s.onBlock (colStep 2 cycles errs)

/-- ALL_GATHER (R362). -/
def execAllGather (cycles : Nat) (errs : Errs) (s : State) : Host.Outcome State Fault Refusal :=
  s.onBlock (colStep 3 cycles errs)

/-- ALL_TO_ALL (R369 to R371). -/
def execAllToAll (cycles : Nat) (errs : Errs) (s : State) : Host.Outcome State Fault Refusal :=
  s.onBlock (colStep 4 cycles errs)

/-- PERMUTE (R372). -/
def execPermute (cycles : Nat) (errs : Errs) (s : State) : Host.Outcome State Fault Refusal :=
  s.onBlock (colStep 5 cycles errs)

/-! ## Packets of the engine -/

/-- The run of a team whose task still runs. -/
def Block.teamRun (b : Block) (team : Nat) : Option ColRun := b.col.runs.find? (fun x => x.team == team && !b.colGone x.serial)

/-- Take packets of an opcode and source that the fabric has delivered. -/
def Block.takeFrom (b : Block) (src opcode n : Nat) : Block :=
  (List.range n).foldl (fun x _ => match x.takePacket (fun p => p.opcode == opcode && p.src == src) with
    | some q => q.2
    | none => x) b

/-- A COL_HELLO arrives: held until this rank has started the same collective, then compared. -/
def colHello (team src : Nat) (fields : List Nat) (b : Block) : Block :=
  let b := b.takeFrom src Op.colHello 1
  if b.fenced then b
  else
    let h : Hello := { team := team, src := src, fields := fields }
    match b.teamRun team with
    | some x => if x.greeted.contains src then { b with col := { b.col with hellos := b.col.hellos ++ [h] } } else b.colCompare x h
    | none => { b with col := { b.col with hellos := b.col.hellos ++ [h] } }

/-- COL_HELLO (R361). -/
def execColHello (team src : Nat) (fields : List Nat) (s : State) : Host.Outcome State Fault Refusal :=
  s.onBlock (colHello team src fields)

/-- COL_DATA arrives: into the run it belongs to, or held for a collective that has not started. -/
def colData (team src : Nat) (head : List Nat) (data : List Byte) (b : Block) : Block :=
  let b := b.takeFrom src Op.colData (colPackets data.length)
  if b.fenced then b
  else
    let b := b.count .col Reg.COL_BYTES_RX data.length
    let m : ColMsg := { team := team, src := src, head := head, data := data }
    let hold := { b with col := { b.col with early := b.col.early ++ [m] } }
    match b.teamRun team with
    | some x => if head.headD 0 = x.seq then (b.setRun { x with inbox := x.inbox ++ [m] }).colReply src data.length else hold
    | none => hold

/-- COL_DATA (R364). -/
def execColData (team src : Nat) (head : List Nat) (data : List Byte) (s : State) : Host.Outcome State Fault Refusal :=
  s.onBlock (colData team src head data)

/-- COL_ACK returns: the oldest hello or data message to its sender is answered. -/
def colAck (team src : Nat) (b : Block) : Block :=
  let b := b.takeFrom src Op.colAck 1
  match b.teamRun team with
  | none => b
  | some x =>
    match b.lly.requests.find? (fun q => decide (q.owner = .task colUnit x.serial) && q.dst == src &&
        (q.opcode == Op.colHello || q.opcode == Op.colData)) with
    | some q => b.dropRequest q.tag
    | none => b

/-- COL_ACK (R361). -/
def execColAck (team src : Nat) (s : State) : Host.Outcome State Fault Refusal := s.onBlock (colAck team src)

/-- COL_ABORT arrives: the team's running collective faults. DEDUCED (notes/assumptions/31.md). -/
def colAbort (team src : Nat) (b : Block) : Block :=
  let b := b.takeFrom src Op.colAbort 1
  if b.fenced then b
  else match b.teamRun team with
    | some x => b.colMismatch x.serial
    | none => b

/-- COL_ABORT (R361). -/
def execColAbort (team src : Nat) (s : State) : Host.Outcome State Fault Refusal := s.onBlock (colAbort team src)

/-- Clear the counters of the COL page. -/
def colCntClr (o : Origin) (v : Word) (b : Block) : Block :=
  b.gate o .col Reg.COL_CNT_CLR .none (fun x =>
    x.clearOn v .col [Reg.COL_TASKS, Reg.COL_BYTES_TX, Reg.COL_BYTES_RX, Reg.COL_MISMATCHES])

/-- COL_CNT_CLR (R373). -/
def execColCntClr (o : Origin) (v : Word) (s : State) : Host.Outcome State Fault Refusal := s.onWrite o (colCntClr o v)

end Sys2Proof.Machine
end

