-- ==== Sys2Proof/Machine/Mbx.lean ====
section
/-! DEFINITION. The mailbox (R425 to R428, R439 to R442): two pages over one executor, its commands, and their end. -/

namespace Sys2Proof.Machine

open Sys2Proof

/-! ## Firmware banks (R433 to R440) -/

/-- A bank of the non-volatile store. -/
def NvSt.bank (n : NvSt) (isB : Bool) : Bank := if isB then n.bankB else n.bankA

/-- Replace a bank. -/
def NvSt.setBank (n : NvSt) (isB : Bool) (x : Bank) : NvSt := if isB then { n with bankB := x } else { n with bankA := x }

/-- The SEC page's words follow the boot state and the store (R440). -/
def Block.showSec (b : Block) : Block :=
  let b := b.wrN .sec Reg.SEC_SVN (b.nv.minSvn % 2 ^ 16 * 2 ^ 16 + b.boot.svn % 2 ^ 16)
  let b := b.wrN .sec Reg.SEC_BANKS (b2n b.nv.bankA.valid + b2n b.nv.bankB.valid * 2 + b2n b.nv.nextB * 16 + b.nv.raisesLeft % 64 * 256)
  let b := b.wrN .sec Reg.SEC_BOOT_COUNT (b.nv.bootCount % 2 ^ 24)
  let h := sm3 b.nv.pubKey
  (List.range 8).foldl (fun y i => y.wr .sec (Reg.SEC_KEY_ID i) (hashWord h i)) b

/-- The code that refuses a stage image in a place of the order, 0 where it passes (R435, R439). -/
def stageCode (minSvn svn0 : Nat) (p : StageImg × Nat) : Nat :=
  if p.1.stage ≠ p.2 + 1 ∨ p.1.length = 0 then Ev.FW_FORMAT
  else if !p.1.sigOk then Ev.FW_SIG_INVALID
  else if p.1.svn < minSvn ∨ p.1.svn ≠ svn0 then Ev.FW_ROLLBACK
  else 0

/-- The first refusal of a set of stage images, with the number of stages checked. -/
def checkStages (minSvn : Nat) (l : List StageImg) : Nat × Nat :=
  if l.length ≠ 5 then (Ev.FW_FORMAT, min 5 l.length)
  else match (l.zipIdx.map (stageCode minSvn (l.headD ⟨0, 0, 0, 0, false, 0⟩).svn)).zipIdx.find? (fun x => x.1 ≠ 0) with
    | some x => (x.1, x.2 + 1)
    | none => (0, 5)

/-- One image of a package at an offset, and the bytes it takes; none where it passes the end (R434, R439). -/
def parseImage (l : List Byte) (o : Nat) : Option (StageImg × Nat) :=
  let n := rdLE l (o + 4) 4
  if l.length < o + 128 ∨ l.length < o + 128 + n then none
  else
    let msg := (l.drop o).take 64 ++ (l.drop (o + 128)).take n
    let h := sm3 msg
    some ({ stage := rdLE l o 1, svn := rdLE l (o + 2) 2, length := n, version := rdLE l (o + 8) 4,
            sigOk := Config.sm2Verify h ((l.drop (o + 64)).take 64), measure := h }, 128 + n)

/-- The images of a package, each on a boundary of 4 KiB. -/
def parsePackage (l : List Byte) : Nat → Nat → List StageImg
  | 0, _ => []
  | k + 1, o => match parseImage l o with
    | none => []
    | some (x, n) => x :: parsePackage l k (roundUp (o + n) 4096)

/-- Physical byte address of the recovery buffer (R436), and its size. DESIGN CHOICE (notes/assumptions/12.md). -/
def recoveryBase : Nat := 2 ^ 46

/-- 32 MiB. -/
def recoverySize : Nat := 2 ^ 25

/-! ## The executor -/

/-- Commands whose end makes a log entry (R443). -/
def mbxLogged (code : Nat) : Bool := [0x05, 0x06, 0x10, 0x12, 0x13, 0x14].contains code

/-- Long commands (R428). -/
def mbxLong (code : Nat) : Bool := decide (0x10 ≤ code)

/-- Codes of the table (R428). -/
def mbxDefined (code : Nat) : Bool := [0x01, 0x02, 0x03, 0x04, 0x05, 0x06, 0x10, 0x11, 0x12, 0x13, 0x14].contains code

/-- Does the executor run: from stage 5 on, in recovery, and with the rails off (R436, R451)? -/
def Block.mbxUp (b : Block) : Bool :=
  (match b.boot.run with | .running => true | .recovery => true | .railsDown => true | _ => false) && b.boot.resetDue.isNone

/-- BUSY on both pages. -/
def Block.mbxBusy (b : Block) (v : Bool) : Block := (b.wrBit (.mbx 0) Reg.MBX_STAT 31 v).wrBit (.mbx 1) Reg.MBX_STAT 31 v

/-- An argument of the page, as it stood at the start: writes are ignored while BUSY is 1 (R427). -/
def Block.mbxArg (b : Block) (p : Fin 2) (i : Nat) : Nat := b.rdN (.mbx p) (Reg.MBX_ARG i)

/-- The buffer: its module address and length. -/
def Block.mbxBuf (b : Block) (p : Fin 2) : Nat × Nat := (b.rd64 (.mbx p) Reg.MBX_BUF_LO, b.rdN (.mbx p) Reg.MBX_BUF_LEN)

/-- May a command write its output of `n` bytes at least into the buffer: room for it, wholly inside one allocation (R428)? -/
def Block.bufFits (b : Block) (p : Fin 2) (n : Nat) : Bool :=
  b.running && decide (n ≤ (b.mbxBuf p).2) && (b.within (b.mbxBuf p).1 (b.mbxBuf p).2).isSome

/-- RESULT and CODE. -/
def Block.mbxStat (b : Block) (p : Fin 2) (code result : Nat) : Block :=
  (b.wrField (.mbx p) Reg.MBX_STAT 23 16 code).wrField (.mbx p) Reg.MBX_STAT 15 0 result

/-- DONE with its interrupts (R426, R452, R470). -/
def Block.mbxDone (b : Block) (p : Fin 2) : Block :=
  let b := (b.wrBit (.mbx p) Reg.MBX_STAT 30 true).setInt (.mbx p) 1
  if p = 1 then b.raiseIbi [0x01] else b

/-- The end of a command (R426): responses, RESULT and CODE, its event, BUSY clear, DONE, the log entry (R443).
DEDUCED (notes/assumptions/19.md). -/
def Block.mbxEnd (b : Block) (p : Fin 2) (code result : Nat) (rsp : List Word) : Block :=
  let b := (List.range 8).foldl (fun y i => y.wr (.mbx p) (Reg.MBX_RSP i) (rsp.getD i 0)) b
  let b := b.mbxStat p code result
  let b := if result = 0 then b else b.post result (.mbx p) 0
  let b := { b with mbx := { run := none } }
  let b := (b.mbxBusy false).mbxDone p
  let b := if mbxLong code then let d := b.fresh; d.2.wrN (.mbx p) Reg.MBX_PROGRESS (d.1 % 2 ^ 16) else b
  if mbxLogged code then b.logAppend (if p = 0 then .host else .mgmt) LogKind.mailbox (addrOf (.mbx p) Reg.MBX_CMD) code result else b

/-- A write of MBX_CMD refused because a command runs (R427). -/
def Block.mbxRefuse (b : Block) (p : Fin 2) : Block :=
  ((b.wrBit (.mbx p) Reg.MBX_STAT 29 true).count (.mbx p) Reg.MBX_REFUSALS 1).setInt (.mbx p) 2

/-- Begin a command (R426): BUSY on both pages, CODE, progress open until it ends. DEDUCED (notes/assumptions/19.md). -/
def Block.mbxStart (b : Block) (p : Fin 2) (code : Nat) : Block :=
  let b := { b with mbx := { run := some { page := p, code := code, startedAt := b.now, ready := false, result := 0, rsp := [],
                                           todo := [], asked := [] } } }
  let b := (b.mbxBusy true).wrField (.mbx p) Reg.MBX_STAT 23 16 code
  if mbxLong code then let d := b.fresh; d.2.wrN (.mbx p) Reg.MBX_PROGRESS (d.1 % 2 ^ 16) else b

/-- The work of a command is under way or done: RESULT and responses stand for its end. -/
def Block.mbxReady (b : Block) (result : Nat) (rsp : List Word) : Block :=
  match b.mbx.run with
  | some r => { b with mbx := { run := some { r with ready := true, result := result, rsp := rsp } } }
  | none => b

/-- What stays to be done. -/
def Block.mbxTodo (b : Block) (l : List Nat) : Block :=
  match b.mbx.run with
  | some r => { b with mbx := { run := some { r with ready := true, todo := l } } }
  | none => b

/-- Does recovery refuse the code: it takes GET_INFO, READ_MEASUREMENT and FW_UPDATE only, and SVN_COMMIT has its own end (R436, R440)?
DEDUCED (notes/assumptions/19.md). -/
def Block.mbxShut (b : Block) (code : Nat) : Bool := decide (b.boot.run = .recovery) && !(([0x01, 0x03, 0x05, 0x10] : List Nat).contains code)

/-- A write of MBX_CMD with a code of the table (R425 to R428, R436, R448); `work` is what the command does once it has started. A
command that a register write started takes its work here. DEDUCED (notes/assumptions/19.md). -/
def Block.mbxCommand (b : Block) (o : Origin) (p : Fin 2) (code : Nat) (work : Block → Block) : Block :=
  if !b.mbxUp ∨ !originFits o (.mbx p) then b
  else match b.mbx.run with
    | some r => if r.page = p ∧ r.code = code ∧ !r.ready then work b else b.mbxRefuse p
    | none =>
      if b.mbxShut code then (b.mbxStat p code 0).mbxEnd p code Ev.MBX_UNKNOWN_CMD []
      else if mbxLogged code && b.strictFull then (b.mbxStat p code Ev.LOG_FULL).mbxDone p
      else work (b.mbxStart p code)

/-- MBX_CMD_REFUSED (R427). -/
def mbxCmdRefused (o : Origin) (p : Fin 2) (_v : Word) (b : Block) : Block :=
  if !b.mbxUp ∨ !originFits o (.mbx p) ∨ b.mbx.run.isNone then b else b.mbxRefuse p

/-- MBX_CMD_REFUSED. -/
def execMbxCmdRefused (o : Origin) (p : Fin 2) (v : Word) (s : State) : Host.Outcome State Fault Refusal :=
  s.onWrite o (mbxCmdRefused o p v)

/-- A write of MBX_CMD with a code that the table does not list ends at once (R428). -/
def mbxUnknownCmd (o : Origin) (p : Fin 2) (v : Word) (b : Block) : Block :=
  let code := wfield v 7 0
  if !b.mbxUp ∨ !originFits o (.mbx p) ∨ mbxDefined code then b
  else if b.mbx.run.isSome then b.mbxRefuse p
  else b.mbxEnd p code Ev.MBX_UNKNOWN_CMD []

/-- MBX_UNKNOWN_CMD. -/
def execMbxUnknownCmd (o : Origin) (p : Fin 2) (v : Word) (s : State) : Host.Outcome State Fault Refusal :=
  s.onWrite o (mbxUnknownCmd o p v)

/-! ## Short commands -/

/-- A digest's eight words, byte 0 highest in the first. -/
def hashWords (h : BitVec 256) : List Word := (List.range 8).map (hashWord h)

/-- Firmware version, SVNs, banks, boot count. -/
def Block.infoWork (b : Block) : Block :=
  b.mbxReady 0 [BitVec.ofNat 32 b.boot.version, BitVec.ofNat 32 (b.boot.svn % 2 ^ 16 + b.nv.minSvn % 2 ^ 16 * 2 ^ 16),
    b.rd .sec Reg.SEC_BANKS, BitVec.ofNat 32 b.nv.bootCount]

/-- GET_INFO (R428). -/
def execGetInfo (o : Origin) (p : Fin 2) (s : State) : Host.Outcome State Fault Refusal :=
  s.onWrite o (fun b => b.mbxCommand o p 0x01 Block.infoWork)

/-- Is the configuration digest due (R356)? -/
def Block.digestPending (b : Block) : Bool := wbit (b.rd .pel Reg.PEL_DIGEST_STAT) 31

/-- The digest, once it is not pending. -/
def Block.digestWork (b : Block) : Block := if b.digestPending then b else b.mbxReady 0 (hashWords b.pel.digest)

/-- READ_DIGEST (R428). -/
def execReadDigest (o : Origin) (p : Fin 2) (s : State) : Host.Outcome State Fault Refusal :=
  s.onWrite o (fun b => b.mbxCommand o p 0x02 Block.digestWork)

/-- A stage's measurement. -/
def Block.measureWork (p : Fin 2) (b : Block) : Block :=
  let n := b.mbxArg p 0
  if n = 0 ∨ 5 < n then b.mbxReady Ev.MBX_ARG_FIELD [] else b.mbxReady 0 (hashWords (b.boot.measures.getD (n - 1) 0))

/-- READ_MEASUREMENT (R428). -/
def execReadMeasurement (o : Origin) (p : Fin 2) (s : State) : Host.Outcome State Fault Refusal :=
  s.onWrite o (fun b => b.mbxCommand o p 0x03 (Block.measureWork p))

/-- Key and certificates into the buffer. -/
def Block.identityWork (p : Fin 2) (b : Block) : Block :=
  let l := b.nv.pubKey ++ b.nv.certs
  if b.bufFits p (max 4096 l.length) then (b.store (b.mbxBuf p).1 l).mbxReady 0 [BitVec.ofNat 32 l.length]
  else b.mbxReady Ev.MBX_ARG_FIELD []

/-- GET_IDENTITY (R428, R441). -/
def execGetIdentity (o : Origin) (p : Fin 2) (s : State) : Host.Outcome State Fault Refusal :=
  s.onWrite o (fun b => b.mbxCommand o p 0x04 (Block.identityWork p))

/-- Raise the fused minimum SVN to the running one (R440). -/
def Block.svnWork (b : Block) : Block :=
  if b.boot.run = .recovery ∨ (b.nv.minSvn < b.boot.svn ∧ b.nv.raisesLeft = 0) then b.mbxReady Ev.MBX_ARG_FIELD []
  else if b.boot.svn ≤ b.nv.minSvn then b.mbxReady 0 []
  else (({ b with nv := { b.nv with minSvn := b.boot.svn, raisesLeft := b.nv.raisesLeft - 1 } }).showSec).mbxReady 0 []

/-- SVN_COMMIT (R440). -/
def execSvnCommit (o : Origin) (p : Fin 2) (s : State) : Host.Outcome State Fault Refusal :=
  s.onWrite o (fun b => b.mbxCommand o p 0x05 Block.svnWork)

/-- Take entries out of the retirement table; the frames stay out of service until the next cold reset. -/
def Block.retireWork (p : Fin 2) (b : Block) : Block :=
  let n := b.mbxArg p 0
  if n ≠ 0xFFFFFFFF ∧ 4095 < n then b.mbxReady Ev.MBX_ARG_FIELD []
  else
    let gone := if n = 0xFFFFFFFF then b.hbm.retire else (b.hbm.retire.drop n).take 1
    let keep := fun (e : RetireEntry) => !gone.any (fun x => x.stack == e.stack && x.frame == e.frame)
    let b := { b with hbm := { b.hbm with retire := b.hbm.retire.filter keep }
                      nv := { b.nv with retire := b.nv.retire.filter keep } }
    b.showRetire.mbxReady 0 []

/-- RETIRE_CLEAR (R297, R428). -/
def execRetireClear (o : Origin) (p : Fin 2) (s : State) : Host.Outcome State Fault Refusal :=
  s.onWrite o (fun b => b.mbxCommand o p 0x06 (Block.retireWork p))

/-! ## Long commands -/

/-- The bytes of the package, and a word of them that cannot be trusted. -/
def Block.package (b : Block) (p : Fin 2) : List Byte × Bool :=
  if b.boot.run = .recovery then (b.physBytes recoveryBase recoverySize, false)
  else (b.bytes (b.mbxBuf p).1 (b.mbxBuf p).2, !(b.poisoned (b.mbxBuf p).1 (b.mbxBuf p).2).isEmpty)

/-- Check a package and write it into the bank that does not run, marked invalid until it has been read back (R439).
DEDUCED (notes/assumptions/19.md). -/
def Block.updateWork (p : Fin 2) (readback : Bool) (b : Block) : Block :=
  if b.boot.run ≠ .recovery ∧ !b.bufFits p 1 then b.mbxReady Ev.MBX_ARG_FIELD []
  else if b.boot.run ≠ .recovery ∧ recoverySize < (b.mbxBuf p).2 then b.mbxReady Ev.FW_FORMAT []
  else
    let q := b.package p
    let l := parsePackage q.1 5 0
    let code := if q.2 then Ev.FW_SIG_INVALID else (checkStages b.nv.minSvn l).1
    if code ≠ 0 then b.mbxReady code []
    else
      let side := if b.boot.run = .recovery then b.nv.nextB else !b.boot.bankB
      let b := ({ b with nv := b.nv.setBank side { valid := false, stages := l } }).showSec
      (b.mbxReady (if readback then 0 else Ev.FW_SIG_INVALID)
        [BitVec.ofNat 32 (l.getD 4 ⟨0, 0, 0, 0, false, 0⟩).version]).mbxTodo [b2n side]

/-- FW_UPDATE (R439): `readback` says whether the bank reads back as written. -/
def execFwUpdate (o : Origin) (p : Fin 2) (readback : Bool) (s : State) : Host.Outcome State Fault Refusal :=
  s.onWrite o (fun b => b.mbxCommand o p 0x10 (Block.updateWork p readback))

/-- The end of an update: the bank written is valid and NEXT, or stays invalid; one event either way.
DEDUCED (notes/assumptions/19.md). -/
def Block.updateEnd (b : Block) (r : MbxRun) : Block :=
  if r.result = Ev.MBX_ARG_FIELD then b.mbxEnd r.page r.code r.result []
  else if r.result ≠ 0 then (b.mbxEnd r.page r.code r.result []).post Ev.FW_REJECTED .sec 0
  else
    let side := r.todo.headD 0 == 1
    let b := ({ b with nv := { b.nv.setBank side { b.nv.bank side with valid := true } with nextB := side } }).showSec
    (b.mbxEnd r.page r.code 0 r.rsp).post Ev.FW_UPDATED .sec 0

/-- Bytes 0x000 to 0x17F of the quote (R442). -/
def Block.quote (b : Block) (p : Fin 2) : List Byte :=
  toBytes 2 1 ++ toBytes 2 448 ++ toBytes 4 (b.rdN .mod Reg.MOD_GRADE) ++
    (List.range 4).flatMap (fun i => toBytes 4 (b.rdN .mod (Reg.MOD_CORE_MAP i))) ++
    (List.range 8).flatMap (fun i => toBytes 4 (b.mbxArg p i)) ++ hashBytes (sm3 b.nv.pubKey) ++ toBytes 8 b.nv.bootCount ++
    toBytes 8 b.now ++ toBytes 8 (b.pel.lastSeq % 2 ^ 48) ++ toBytes 8 (b.logHead - 1) ++ hashBytes b.log.chain ++
    hashBytes b.pel.digest ++ (List.range 5).flatMap (fun i => hashBytes (b.boot.measures.getD i 0)) ++ toBytes 40 0

/-- A signature of 64 bytes by the identity key: the random number that SM2 takes is drawn fresh. -/
def Block.sign (b : Block) (m : List Byte) : List Byte × Block :=
  let d := b.fresh
  ((Config.sm2Sign (sm3 m) d.1 ++ List.replicate 64 0).take 64, d.2)

/-- The quote, taken and signed once no digest is pending. -/
def Block.quoteWork (p : Fin 2) (b : Block) : Block :=
  if !b.bufFits p 448 then b.mbxReady Ev.MBX_ARG_FIELD []
  else if b.digestPending then b
  else
    let m := b.quote p
    let q := b.sign m
    (q.2.store (b.mbxBuf p).1 (m ++ q.1)).mbxReady 0 []

/-- ATTEST_QUOTE (R442). -/
def execAttestQuote (o : Origin) (p : Fin 2) (s : State) : Host.Outcome State Fault Refusal :=
  s.onWrite o (fun b => b.mbxCommand o p 0x11 (Block.quoteWork p))

/-- Hold admission and wait for the sweep (R414); `volts` is what the sweep finds: codes by tile and setting 8 to 28, then by die. -/
def Block.replanWork (p : Fin 2) (volts : List Nat) (b : Block) : Block :=
  if 60000 < b.mbxArg p 0 then b.mbxReady Ev.MBX_ARG_FIELD []
  else ({ b with pwr := { b.pwr with replanHold := true } }).mbxTodo volts

/-- MARGIN_REPLAN (R414). -/
def execMarginReplan (o : Origin) (p : Fin 2) (volts : List Nat) (s : State) : Host.Outcome State Fault Refusal :=
  s.onWrite o (fun b => b.mbxCommand o p 0x12 (Block.replanWork p volts))

/-- The code the sweep found for a die at a setting; where it found none, the entry as it stands. -/
def Block.swept (b : Block) (volts : List Nat) (d m : Nat) : Nat :=
  if d < 16 then volts.getD (21 * d + (m - 8)) (b.volt d m) else volts.getD (21 * 16 + (d - 16)) (b.volt d m)

/-- The highest setting of a tile up to which every one keeps the guard at 0.950 V. -/
def Block.sweptTop (b : Block) (volts : List Nat) (t : Nat) : Nat :=
  match (List.range 21).find? (fun i => decide (90 < b.swept volts t (8 + i))) with
  | some i => max 8 (8 + i - 1)
  | none => 28

/-- Steps 4 and 5 of R414: tables, top settings, counters, the event; admission is released.
DEDUCED (notes/assumptions/19.md). -/
def Block.replanApply (b : Block) (volts : List Nat) : Block :=
  let put := fun (d m : Nat) (v : Sparse Nat) => Sparse.put factoryVolt v (d * 32 + m) (min 90 (b.swept volts d m))
  let table := (List.range 16).foldl (fun v t => (List.range 21).foldl (fun w i => put t (8 + i) w) v) b.nv.volts
  let table := (List.range 22).foldl (fun v i => put (16 + i) 0 v) table
  let tops := (List.range 16).map (b.sweptTop volts)
  let b := { b with nv := { b.nv with volts := table, replans := min (2 ^ 64 - 1) (b.nv.replans + 1) } }
  let b := tops.zipIdx.foldl (fun y q =>
    let was := y.topOf q.2
    let old := y.rdN .clk (Reg.CLK_TILE q.2)
    let y := y.setTop q.2 q.1
    if q.1 < was then
      (y.logState .self .clk (Reg.CLK_TILE q.2) old (y.rdN .clk (Reg.CLK_TILE q.2))).post Ev.AGE_MARGIN_EXHAUSTED .age 0
    else y) b
  let b := (b.wr64 .age Reg.AGE_REPLANS b.nv.replans).wr64 .age Reg.AGE_LAST_REPLAN b.now
  (b.applyBrakes.showAge).post Ev.MARGIN_REPLAN_DONE .age 0

/-- Is no task admitted on any unit? -/
def Block.quiet (b : Block) : Bool := b.units.all (fun p => p.2.board.isEmpty)

/-- The end of a replan, when admission has stopped or its time is over. -/
def Block.replanEnd (b : Block) (r : MbxRun) : Block :=
  let release := fun (y : Block) => { y with pwr := { y.pwr with replanHold := false } }
  let ms := let a := b.mbxArg r.page 0; if a = 0 then 10000 else a
  if r.result ≠ 0 then b.mbxEnd r.page r.code r.result []
  else if b.quiet ∧ b.running then (release (b.replanApply r.todo)).mbxEnd r.page r.code 0 []
  else if msToMclk ms ≤ b.now - r.startedAt ∨ !b.running then (release b).mbxEnd r.page r.code Ev.MBX_TIMEOUT []
  else b

/-- The stacks in service that ARG0 of a FULL_SCRUB names, all of them where it is 0. -/
def Block.scrubStacks (b : Block) (p : Fin 2) : List (Fin 20) :=
  let n := b.mbxArg p 0
  allStacks.filter (fun st => (n == 0 || n.testBit st.val) && (b.stk st.val).inService && b.running)

/-- Begin the scrub of the stacks of ARG0. The words that the walk finds are given by stack × 2⁴⁰ + byte in the stack. -/
def Block.scrubWork (p : Fin 2) (errs : Errs) (b : Block) : Block :=
  if 2 ^ 20 ≤ b.mbxArg p 0 then b.mbxReady Ev.MBX_ARG_FIELD []
  else
    let sts := b.scrubStacks p
    let mine := fun (st : Fin 20) (l : List DWord) =>
      (l.filter (fun a => a.toNat / 2 ^ 40 == st.val && b.frameServes st.val (a.toNat % 2 ^ 40 / 2 ^ 21))).map
        (fun a => BitVec.ofNat 64 (a.toNat % 2 ^ 40))
    let found := fun (l : List DWord) => BitVec.ofNat 32 ((sts.map (fun st => (mine st l).length)).sum)
    let y := sts.foldl (fun y st => (y.scrub st { corrected := mine st errs.corrected, uncorr := mine st errs.uncorr }).scrubWalk st false) b
    y.mbxReady 0 [found errs.corrected, found errs.uncorr]

/-- FULL_SCRUB (R292, R428). -/
def execFullScrub (o : Origin) (p : Fin 2) (errs : Errs) (s : State) : Host.Outcome State Fault Refusal :=
  s.onWrite o (fun b => b.mbxCommand o p 0x13 (Block.scrubWork p errs))

/-- The end of a full scrub: each stack's walk ends. -/
def Block.scrubEnd (b : Block) (r : MbxRun) : Block :=
  let b := if r.result = 0 then (b.scrubStacks r.page).foldl (fun y st => y.scrubWalk st true) b else b
  b.mbxEnd r.page r.code r.result r.rsp

/-- Can a page be moved in or out now? A page at its goal already, on the move, or without a far frame cannot. -/
def Block.canMigrate (b : Block) (inward : Bool) (v : Nat) : Bool :=
  let e := b.pte v
  e.valid && !e.moving && (if inward then !e.resident else e.resident && e.evictable && !e.pinned)

/-- Is there room for one more move: 256 page-ins may wait (R301), and 16 moves run at a time (R302)? -/
def Block.moveRoom (b : Block) (inward : Bool) : Bool :=
  if inward then decide ((b.hbm.moves.filter (fun m => !m.started)).length < 256) else decide (b.movesRunning < 16)

/-- Ask for the moves of a migration while there is room (R301, R302, R428): the pages asked for, those left, the module. A page that
cannot move when its turn comes is skipped. -/
def Block.migrateAsk (inward : Bool) : List Nat → List Nat → Block → List Nat × List Nat × Block
  | [], asked, b => (asked, [], b)
  | v :: l, asked, b =>
    if !b.canMigrate inward v then Block.migrateAsk inward l asked b
    else if !b.moveRoom inward then (asked, v :: l, b)
    else Block.migrateAsk inward l (asked ++ [v])
      (if inward then b.requestPageIn v .page none else b.startOut v [] none .page)

/-- The pages of a migration that have yet to be asked for, taken as far as there is room. DEDUCED (notes/assumptions/19.md). -/
def Block.migrateMore (b : Block) : Block :=
  match b.mbx.run with
  | none => b
  | some r =>
    let q := Block.migrateAsk (b.mbxArg r.page 0 == 1) r.todo r.asked b
    { q.2.2 with mbx := { run := some { r with ready := true, asked := q.1, todo := q.2.1 } } }

/-- A migration begins. -/
def Block.migrateWork (p : Fin 2) (b : Block) : Block :=
  let dir := b.mbxArg p 0
  let n := b.mbxArg p 2
  if (dir ≠ 1 ∧ dir ≠ 2) ∨ n = 0 ∨ hbmPages < n then b.mbxReady Ev.MBX_ARG_FIELD []
  else if b.hbm.farDown ∨ !b.running then b.mbxReady Ev.FAR_UNREACHABLE []
  else (b.mbxTodo ((List.range n).map (fun i => b.mbxArg p 1 + i))).migrateMore

/-- FAR_MIGRATE (R428). -/
def execFarMigrate (o : Origin) (p : Fin 2) (s : State) : Host.Outcome State Fault Refusal :=
  s.onWrite o (fun b => b.mbxCommand o p 0x14 (Block.migrateWork p))

/-- The end of a migration, when every page has had its turn and every move asked for has ended; until then it asks for more. -/
def Block.migrateEnd (b : Block) (r : MbxRun) : Block :=
  if r.result ≠ 0 then b.mbxEnd r.page r.code r.result []
  else if !r.todo.isEmpty ∧ !b.hbm.farDown then b.migrateMore
  else if r.asked.any (fun v => b.hbm.moves.any (fun m => m.page == v && m.victimFor.isNone)) then b
  else
    let inward := b.mbxArg r.page 0 == 1
    let moved := (r.asked.filter (fun v => (b.pte v).valid && (b.pte v).resident == inward)).length
    b.mbxEnd r.page r.code (if b.hbm.farDown then Ev.FAR_UNREACHABLE else 0)
      [BitVec.ofNat 32 moved, BitVec.ofNat 32 (b.mbxArg r.page 2 - moved)]

/-! ## The end of a command -/

/-- What a command that waited for something does when it can: a digest that was pending. -/
def Block.mbxRetry (b : Block) (r : MbxRun) : Block :=
  if r.ready then b
  else if r.code = 0x02 then b.digestWork
  else if r.code = 0x11 then b.quoteWork r.page
  else b

/-- The running command ends, if its work is done (R426). DEDUCED (notes/assumptions/19.md). -/
def mbxCommandEnd (b : Block) : Block :=
  if !b.mbxUp then b
  else match b.mbx.run with
    | none => b
    | some r0 =>
      let b := b.mbxRetry r0
      match b.mbx.run with
      | none => b
      | some r =>
        if !r.ready then b
        else if r.code = 0x10 then b.updateEnd r
        else if r.code = 0x12 then b.replanEnd r
        else if r.code = 0x13 then b.scrubEnd r
        else if r.code = 0x14 then b.migrateEnd r
        else b.mbxEnd r.page r.code r.result r.rsp

/-- MBX_COMMAND_END (R426). -/
def execMbxCommandEnd (s : State) : Host.Outcome State Fault Refusal := s.onPort (fun _ => mbxCommandEnd)

/-- Clear MBX_REFUSALS. -/
def mbxCntClr (o : Origin) (p : Fin 2) (v : Word) (b : Block) : Block :=
  b.gate o (.mbx p) Reg.MBX_CNT_CLR .none (fun x => x.clearOn v (.mbx p) [Reg.MBX_REFUSALS])

/-- MBX_CNT_CLR (R427). -/
def execMbxCntClr (o : Origin) (p : Fin 2) (v : Word) (s : State) : Host.Outcome State Fault Refusal := s.onWrite o (mbxCntClr o p v)

/-- The effect of a write of MBX_CMD that came as a plain register write: refused, unknown, or started; FW_UPDATE, MARGIN_REPLAN and
FULL_SCRUB then wait for what their steps bring. -/
def Block.mbxCmdWrite (b : Block) (o : Origin) (p : Fin 2) (v : Word) : Block :=
  let code := wfield v 7 0
  if b.mbx.run.isSome then mbxCmdRefused o p v b
  else if !mbxDefined code then mbxUnknownCmd o p v b
  else b.mbxCommand o p code (fun x =>
    if code = 0x01 then x.infoWork
    else if code = 0x02 then x.digestWork
    else if code = 0x03 then x.measureWork p
    else if code = 0x04 then x.identityWork p
    else if code = 0x05 then x.svnWork
    else if code = 0x06 then x.retireWork p
    else if code = 0x11 then x.quoteWork p
    else if code = 0x14 then x.migrateWork p
    else x)

/-! ## A reset abandons the command (R432) -/

/-- The running command is abandoned: its pages show nothing of it, RESULT stays. -/
def Block.mbxAbandon (b : Block) : Block :=
  let clean := fun (y : Block) (p : Fin 2) => y.wr (.mbx p) Reg.MBX_STAT (y.rd (.mbx p) Reg.MBX_STAT &&& 0x00FFFFFF)
  clean (clean { b with mbx := { run := none }, pwr := { b.pwr with replanHold := false } } 0) 1

end Sys2Proof.Machine
end

