-- ==== Sys2Proof/Machine/Boot.lean ====
section
/-! DEFINITION. Resets (R429 to R432), boot (R433 to R438), the input and the pins (R456 to R464), the test port (R465 to R467). -/

namespace Sys2Proof.Machine

open Sys2Proof

/-! ## Cold reset (R430, R435, R456) -/

/-- Where a module whose management block leaves reset goes: it waits for power good and for COLD_RST_N, goes to the test port alone
under TEST_EN, and to the boot ROM otherwise (R456, R466, R467). -/
def PinSt.bootRun (p : PinSt) : RunState :=
  if !p.powerGood ∨ p.coldRst then .cmbHeld else if p.testEn then .testOnly else .bootRom

/-- MOD_SIDEBAND as the pins have it (R460). -/
def PinSt.sideband (p : PinSt) : Nat :=
  b2n p.testEn * 128 + p.addrSel % 8 * 16 + b2n p.thermTrip * 8 + b2n (!p.auxLow) * 2 + b2n p.perst

/-- A cold reset: everything volatile is cleared; fuses, the non-volatile store and the pins are kept. THERM_TRIP_N is released
(chapter "Module connectors", sideband pins); the test port keeps its instruction. -/
def Block.coldReset (f : Fuses) (b : Block) : Block :=
  let pins := { b.pins with thermTrip := false, inputLow := false }
  let x := Block.cold f b.nv pins
  let x := { x with boot := { x.boot with run := pins.bootRun }, jtag := b.jtag, free := b.free, serial := b.serial }
  x.wrN .mod Reg.MOD_SIDEBAND pins.sideband

/-- The cold reset that MOD_RESET asked for takes place.
DEDUCED (notes/assumptions/20.md). DEDUCED (notes/assumptions/24.md). -/
def coldReset (f : Fuses) (b : Block) : Block := if b.boot.resetDue = some 2 then b.coldReset f else b

/-- COLD_RESET (R429, R430). -/
def execColdReset (s : State) : Host.Outcome State Fault Refusal := s.onPort coldReset

/-! ## Asking for a reset (R429) -/

/-- Is a register write of MOD_RESET with the key and a kind? -/
def resetKind (v : Word) : Nat := if wfield v 31 16 = 0xB0C5 then wfield v 1 0 else 0

/-- A write of MOD_RESET: with the key, KIND 1 or 2 makes a reset due and a RESET entry; any other write is ignored.
DEDUCED (notes/assumptions/20.md). -/
def modReset (o : Origin) (v : Word) (b : Block) : Block :=
  let k := resetKind v
  if k = 1 ∨ k = 2 then
    b.gate o .mod Reg.MOD_RESET (.reset k) (fun x => { x with boot := { x.boot with resetDue := some (if k = 1 then 3 else 2) } })
  else b

/-- A write that asks for a warm reset. -/
def modResetWarm (o : Origin) (v : Word) (b : Block) : Block := if resetKind v = 1 then modReset o v b else b

/-- MOD_RESET_WARM (R429). -/
def execModResetWarm (o : Origin) (v : Word) (s : State) : Host.Outcome State Fault Refusal := s.onWrite o (modResetWarm o v)

/-- A write that asks for a cold reset. -/
def modResetCold (o : Origin) (v : Word) (b : Block) : Block := if resetKind v = 2 then modReset o v b else b

/-- MOD_RESET_COLD (R429). -/
def execModResetCold (o : Origin) (v : Word) (s : State) : Host.Outcome State Fault Refusal := s.onWrite o (modResetCold o v)

/-- Can a warm reset start: with the module up or in recovery, and none due? DEDUCED (notes/assumptions/20.md). -/
def Block.canWarm (b : Block) : Bool :=
  (match b.boot.run with | .running => true | .recovery => true | _ => false) && b.boot.resetDue.isNone

/-- Make a warm reset due. DEDUCED (notes/assumptions/20.md). -/
def Block.askWarm (b : Block) : Block := if b.canWarm then { b with boot := { b.boot with resetDue := some 1 } } else b

/-- The host port's link is down: D0 when it returns, MOD_HOST_STAT zero. -/
def Block.portDown (b : Block) : Block :=
  ({ b with host := { b.host with linkUp := false, dstate := .d0 } }).wrN .mod Reg.MOD_HOST_STAT 0

/-- PERST# is asserted: the link goes down and a warm reset starts. -/
def perstAssert (b : Block) : Block :=
  if !b.cmbUp then { b with pins := { b.pins with perst := true } }
  else
    let b := ({ b with pins := { b.pins with perst := true } }).wrBit .mod Reg.MOD_SIDEBAND 0 true
    b.portDown.askWarm

/-- PERST_ASSERT (R429). -/
def execPerstAssert (s : State) : Host.Outcome State Fault Refusal := s.onPort (fun _ => perstAssert)

/-- A Function Level Reset starts a warm reset; the link stays up. -/
def functionLevelReset (b : Block) : Block := if b.host.linkUp then b.askWarm else b

/-- FUNCTION_LEVEL_RESET (R429). -/
def execFunctionLevelReset (s : State) : Host.Outcome State Fault Refusal := s.onPort (fun _ => functionLevelReset)

/-! ## Warm reset (R430, R431) -/

/-- Does a register word keep its value across a warm reset (R430)? RWS fields; what the boot ROM and firmware loaded; the pages of
stacks and units; the audit log; the version record's taint; the event counters' page words.
DEDUCED (notes/assumptions/20.md). -/
def keepsWarm (k : Nat) : Bool :=
  match pageAt? (k / 4096) with
  | none => false
  | some p =>
    let o := k % 4096
    decide (o = Reg.CHANGE_SEQ) || (match regAt? p o with | some r => decide (r.acc = .rws) | none => false) ||
    match p with
    | .mod => decide (0x040 ≤ o ∧ o < 0x060) || decide (o = Reg.MOD_HOST_STAT) || decide (o = Reg.MOD_SIDEBAND) || decide (o = Reg.MOD_EVT_LAST) ||
        decide (Reg.MOD_EVT_LOST ≤ o)
    | .clk => decide (o < Reg.CLK_TILE 0 ∧ 0x040 ≤ o)
    | .sec => decide (0x040 ≤ o)
    | .log => decide (o = Reg.LOG_DROPPED ∨ o = Reg.LOG_DROPPED + 4)
    | .hbc _ => true
    | .azn _ => true
    | .aznMod => decide (Reg.AZN_SCALAR 0 ≤ o)
    | .cxl => decide (0x040 ≤ o ∧ o < Reg.CXL_CNT_CLR)
    | .shm => decide (o = Reg.SHM_REC_STAT)
    | .age => decide (Reg.AGE_REPLANS ≤ o)
    | .llyMod => decide (o = Reg.LLY_LS_SEQ ∨ o = Reg.LLY_LS_SEQ + 4)
    | .mbx _ => decide (o = Reg.MBX_STAT)
    | _ => false

/-- Set the input voltage, in units of 0.1 V, and show it where a register is there to show it. -/
def Block.setVolts (b : Block) (dv : Nat) : Block :=
  let b := { b with pins := { b.pins with volts := dv } }
  if b.cmbUp then b.wrField .pwr Reg.PWR_INPUT 31 16 (min 65535 dv) else b

/-- What a tile shows again: its top setting and retired slabs. -/
def Block.showTile (b : Block) (t : Fin 16) : Block :=
  (b.wrField .clk (Reg.CLK_TILE t.val) 28 24 (b.nv.tops.getD t.val 28)).bootTile t

/-- The words that a reset leaves to be shown anew: top settings, slabs, learned draws, frames, the log, SEC, a digest to compute. -/
def Block.showAll (b : Block) : Block :=
  let b := (List.finRange 16).foldl (fun y t => y.showTile t) b
  let b := (List.range 64).foldl (fun y i => y.wr .pwr (Reg.PWR_CLASS_DRAW i)
    (Sparse.get (fun k => BitVec.ofNat 32 ([780, 300, 220, 160].getD (k % 4) 780)) y.nv.classDraw i)) b
  let b := b.takeEff.applyBrakes
  let b := (List.range 16).foldl (fun y t => y.wrField .clk (Reg.CLK_TILE t) 4 0 (if y.lock t then y.lowestLimit t else 0)) b
  let b := (b.setVolts b.pins.volts).wr64 .age Reg.AGE_REPLANS b.nv.replans
  (((b.showAge.showFree).showRetire).syncLog).wrBit .pel Reg.PEL_DIGEST_STAT 31 true

/-- Parts of the HBM state that a warm reset keeps: moves under way end, waiting ones are lost (R431). -/
def HbmSt.warm (h : HbmSt) : HbmSt :=
  { h with moves := (h.moves.filter (fun m => m.started)).map (fun m => { m with owners := [] }), xlat := [] }

/-- A stack's controller across a warm reset: contents, repairs and granules stay, what the cores asked for does not. -/
def StackSt.warm (s : StackSt) : StackSt := { s with queue := [], beyond := [], reg := [], turn := 0, ran := 0, ranAzn := 0 }

/-- Stacks and Aznor units across a warm reset: nothing queued, a unit's generators loaded from the seeds that its page keeps (R271,
R430). -/
def Block.warmAzn (b : Block) (x : Block) : Block :=
  allStacks.foldl (fun y st =>
    let seed : DWord := BitVec.ofNat 64 (b.rd64 (.azn st) Reg.AZN_SR_SEED_LO)
    ((y.setAznUnit st.val { AznUnit.empty with gens := (List.range 8).map (lfsrLoad seed) }).wrN (.azn st) Reg.STAT 0).wrN
      (.hbc st) Reg.HBC_OUTSTANDING 0) x

/-- A full scrub that a warm reset abandons stops where it stands (R432). -/
def Block.stopScrub (b x : Block) : Block :=
  match b.mbx.run with
  | some r => if r.code = 0x13 then (b.scrubStacks r.page).foldl (fun y st => y.wrBit (.hbc st) Reg.STAT 30 false) x else x
  | none => x

/-- The state that a warm reset leaves (R430, R431): the tiles keep the slabs they have retired (R227). -/
def Block.warmReset (f : Fuses) (b : Block) : Block :=
  let x := Block.cold f b.nv b.pins
  let x : Block := { x with
    regs := b.regs.filter (fun e => keepsWarm e.1)
    mem := b.mem.filter (fun e => decide (2 ^ 40 ≤ e.1))
    poison := b.poison.filter (fun e => decide (2 ^ 37 ≤ e.1))
    evt := b.evt, log := b.log, jtag := b.jtag, nv := b.nv, free := b.free, serial := b.serial
    boot := { b.boot with resetDue := none }
    net := { x.net with down := b.net.down }
    tiles := b.tiles.map (fun e => (e.1, e.2.warm))
    hbm := b.hbm.warm, stks := b.stks.map (fun e => (e.1, e.2.warm))
    pwr := { x.pwr with refLostAt := b.pwr.refLostAt, unlocked := b.pwr.unlocked }
    azn := { x.azn with progs := b.azn.progs }
    host := { x.host with linkUp := b.host.linkUp } }
  let x := (b.stopScrub (b.warmAzn x)).mbxAbandon
  if b.boot.run = .running then x.showAll else x.syncLog

/-- A warm reset takes place: its entry, unless the write that asked for it made it; the state it leaves; the event.
DEDUCED (notes/assumptions/20.md). -/
def warmReset (f : Fuses) (b : Block) : Block :=
  if b.boot.resetDue = some 1 ∨ b.boot.resetDue = some 3 then
    let b := if b.boot.resetDue = some 1 then b.logAppend .host LogKind.reset (addrOf .mod Reg.MOD_RESET) 0 1 else b
    (b.warmReset f).post Ev.WARM_RESET_DONE .mod 0
  else b

/-- WARM_RESET (R430 to R432). -/
def execWarmReset (s : State) : Host.Outcome State Fault Refusal := s.onPort warmReset

/-! ## The host port's own reset and link (R416, R429, R430) -/

/-- The link goes down without PERST#, or a hot reset or disable: configuration space, the MSI-X table, the windows and MOD_IRQ_VEC
return to reset; nothing else changes. -/
def hostPortReset (b : Block) : Block :=
  if !b.cmbUp then b
  else
    let b := { b with host := { b.host with msixEnable := false, msix := [], msixPend := [], irqVec := [] } }
    let b := b.wrN .mod Reg.MOD_IRQ_VEC 0
    let b := (List.range 4).foldl (fun y w => (y.wrN .mod (Reg.MOD_WIN_BASE_LO w) 0).wrN .mod (Reg.MOD_WIN_BASE_HI w) (2 * w)) b
    b.portDown

/-- HOST_PORT_RESET (R429, R430). -/
def execHostPortReset (s : State) : Host.Outcome State Fault Refusal := s.onPort (fun _ => hostPortReset)

/-- Rate of the link in GT/s (R416). -/
def linkRate (i : Fin 3) : Nat := if i.val = 0 then 64 else if i.val = 1 then 32 else 16

/-- The link trains with all eight lanes (R416); `msix` is the enable bit of configuration space as the host leaves it. -/
def hostLinkUp (rate : Fin 3) (msix : Bool) (b : Block) : Block :=
  if !(b.canWarm || decide (b.boot.run = .stages)) ∨ b.host.linkUp then b
  else
    let b := { b with host := { b.host with linkUp := true, dstate := .d0, msixEnable := msix }
                      pins := { b.pins with perst := false } }
    (b.wrBit .mod Reg.MOD_SIDEBAND 0 false).wrN .mod Reg.MOD_HOST_STAT (2 ^ 31 + 8 * 2 ^ 16 + linkRate rate)

/-- HOST_LINK_UP (R416, R429). -/
def execHostLinkUp (rate : Fin 3) (msix : Bool) (s : State) : Host.Outcome State Fault Refusal :=
  s.onPort (fun _ => hostLinkUp rate msix)

/-- A power-management write of the host. -/
def d3hotTransition (d3 : Bool) (b : Block) : Block :=
  if b.host.linkUp ∧ b.canWarm then { b with host := { b.host with dstate := if d3 then .d3hot else .d0 } } else b

/-- D3HOT_TRANSITION (R416). -/
def execD3hotTransition (d3 : Bool) (s : State) : Host.Outcome State Fault Refusal := s.onPort (fun _ => d3hotTransition d3)

/-! ## The boot ROM (R433 to R437) -/

/-- SEC_BOOT_STAT. -/
def bootStat (ready recovery isB : Bool) (stage code : Nat) : Nat :=
  b2n ready * 2 ^ 31 + b2n recovery * 2 ^ 30 + b2n isB * 2 ^ 24 + stage % 16 * 2 ^ 16 + code % 2 ^ 16

/-- What the ROM finds in a bank: the code of its first failure and the stages checked; a bank marked invalid does not pass. -/
def Bank.check (k : Bank) (minSvn : Nat) : Nat × Nat := if k.valid then checkStages minSvn k.stages else (Ev.FW_FORMAT, 0)

/-- The measurements start the log's chain, and the BOOT entry is its first (R443, R446). DEDUCED (notes/assumptions/20.md). -/
def Block.startLog (b : Block) : Block :=
  let h := sm3 ((List.range 5).flatMap (fun i => hashBytes (b.boot.measures.getD i 0)))
  ({ b with log := { b.log with chain := h } }).logAppend .firmware LogKind.boot 0 b.nv.bootCount b.boot.svn

/-- A bank that passed runs: its measurements are taken, its stages start (R435); a rail that fails stops the sequence (R459). -/
def Block.runBank (b : Block) (isB : Bool) (code : Nat) (railFault : Option Nat) : Block :=
  let l := (b.nv.bank isB).stages
  let last := l.getD 4 ⟨0, 0, 0, 0, false, 0⟩
  let b := { b with boot := { b.boot with run := .stages, bankB := isB, svn := last.svn, version := last.version,
                                          measures := l.map (fun (x : StageImg) => x.measure) } }
  let b := ((b.wrN .sec Reg.SEC_BOOT_STAT (bootStat false false isB 5 code)).showSec).startLog
  match railFault with
  | none => b
  | some _ =>
    let b := b.wrField .sec Reg.SEC_BOOT_STAT 15 0 (if code = 0 then Ev.RAIL_FAULT else code)
    ({ b with boot := { b.boot with run := .railsDown } }).post Ev.RAIL_FAULT .pwr 0

/-- Both banks failed: recovery (R436). -/
def Block.recover (b : Block) (code stage : Nat) (measures : List (BitVec 256)) : Block :=
  let b := { b with boot := { b.boot with run := .recovery, measures := measures } }
  let b := ((b.wrN .sec Reg.SEC_BOOT_STAT (bootStat false true false stage code)).showSec).startLog
  b.post Ev.BOOT_RECOVERY .sec 0

/-- The boot ROM counts the boot, checks the NEXT bank and then, where it fails, the other one. Memory reads as the new boot leaves
it: nothing written. DEDUCED (notes/assumptions/20.md). -/
def bootStageCheck (railFault : Option Nat) (b : Block) : Block :=
  if b.boot.run ≠ .bootRom then b
  else
    let b := { b with nv := { b.nv with bootCount := b.nv.bootCount + 1 }, mem := [], poison := [] }
    let b := b.wr64 .llyMod Reg.LLY_LS_SEQ (b.nv.bootCount % 2 ^ 24 * 2 ^ 40)
    let first := b.nv.nextB
    let c1 := (b.nv.bank first).check b.nv.minSvn
    if c1.1 = 0 then b.runBank first 0 railFault
    else
      let b := { b with nv := b.nv.setBank first { b.nv.bank first with valid := false } }
      let c2 := (b.nv.bank !first).check b.nv.minSvn
      if c2.1 = 0 then (b.runBank (!first) c1.1 railFault).post Ev.BOOT_BANK_FALLBACK .sec 0
      else
        let b := { b with nv := b.nv.setBank (!first) { b.nv.bank (!first) with valid := false } }
        (b.recover c1.1 c2.2 (((b.nv.bank !first).stages.take c2.2).map (fun (x : StageImg) => x.measure))).post Ev.BOOT_BANK_FALLBACK .sec 0

/-- BOOT_STAGE_CHECK (R435 to R437, R459). -/
def execBootStageCheck (railFault : Option Nat) (s : State) : Host.Outcome State Fault Refusal :=
  s.onPort (fun _ => bootStageCheck railFault)

/-- Stage 5 takes over: READY. The CXL port's width, rate, devices and capacity in far frames are what stage 3 found, up
to 4 TiB (R298); none where it has no device.
DEDUCED (notes/assumptions/20.md). DESIGN CHOICE (notes/assumptions/47.md). -/
def bootDone (width rate devices capacity : Nat) (b : Block) : Block :=
  if b.boot.run ≠ .stages then b
  else
    let b := { b with boot := { b.boot with run := .running } }
    let up := decide (devices ≠ 0)
    let b := b.wrN .cxl Reg.CXL_LINK (if up then 2 ^ 31 + width % 256 * 2 ^ 16 + rate % 256 else 0)
    let b := b.wrN .cxl Reg.CXL_DEVICES (min 4 devices)
    let b := b.wrN .cxl Reg.CXL_CAPACITY (if up then min capacity (2 ^ 21) else 0)
    let b := { b with hbm := { b.hbm with farDown := !up } }
    let b := (b.wrN .clk Reg.CLK_LOCK0 (2 ^ 31 + 0x3FFFF)).wrN .clk Reg.CLK_LOCK1 0xFFFFF
    let b := (b.wrField .sec Reg.SEC_BOOT_STAT 31 31 1).showAll
    b.post Ev.BOOT_DONE .sec 0

/-- BOOT_DONE (R438). -/
def execBootDone (width rate devices capacity : Nat) (s : State) : Host.Outcome State Fault Refusal :=
  s.onPort (fun _ => bootDone width rate devices capacity)

/-! ## The input (R456 to R459) -/

/-- The input rises through 40.0 V: the management block is powered and held in reset. -/
def cmbPowered (dv : Nat) (f : Fuses) (b : Block) : Block :=
  if b.boot.run ≠ .off ∨ dv < 400 then b
  else
    let b := { b with pins := { b.pins with volts := dv, powerGood := false }, jtag := .empty }
    b.coldReset f

/-- CMB_POWERED (R456, R458). -/
def execCmbPowered (dv : Nat) (s : State) : Host.Outcome State Fault Refusal := s.onPort (cmbPowered dv)

/-- The input has been at or above 46.0 V for 10 ms: power good. -/
def powerGood (dv : Nat) (f : Fuses) (b : Block) : Block :=
  if b.boot.run ≠ .cmbHeld ∨ b.pins.powerGood ∨ dv < 460 ∨ 600 < dv then b
  else ({ b with pins := { b.pins with volts := dv, powerGood := true } }).coldReset f

/-- POWER_GOOD (R456, R467). -/
def execPowerGood (dv : Nat) (s : State) : Host.Outcome State Fault Refusal := s.onPort (powerGood dv)

/-- The input falls below 40.0 V: everything is off. -/
def inputOff (dv : Nat) (f : Fuses) (b : Block) : Block :=
  if 400 ≤ dv ∨ b.boot.run = .off then b
  else
    let x := ({ b with pins := { b.pins with volts := dv, powerGood := false }, jtag := .empty }).coldReset f
    { x with boot := { x.boot with run := .off } }

/-- INPUT_OFF (R456). -/
def execInputOff (dv : Nat) (s : State) : Host.Outcome State Fault Refusal := s.onPort (inputOff dv)

/-- Does a log run: from the stages on (R446, R456)? -/
def Block.logRuns (b : Block) : Bool := b.cmbUp && decide (b.boot.run ≠ .bootRom)

/-- An input event: the voltage, its log entry, the event. -/
def Block.inputEvent (b : Block) (e dv : Nat) : Block :=
  let old := b.rdN .pwr Reg.PWR_INPUT
  let b := b.setVolts dv
  let b := if b.logRuns then b.logState .self .pwr Reg.PWR_INPUT old (b.rdN .pwr Reg.PWR_INPUT) else b
  b.post e .pwr 0

/-- The input stayed below 46.0 V for 10 µs while the module operates: the current brake applies. -/
def inputLow (dv : Nat) (b : Block) : Block :=
  if !b.running ∨ 460 ≤ dv ∨ b.pins.inputLow then b
  else (({ b with pins := { b.pins with inputLow := true } }).inputEvent Ev.INPUT_LOW dv).applyBrakes

/-- INPUT_LOW (R456). -/
def execInputLow (dv : Nat) (s : State) : Host.Outcome State Fault Refusal := s.onPort (fun _ => inputLow dv)

/-- The input stayed at or above 46.5 V for 1 ms: the brake is lifted. -/
def inputLowClear (dv : Nat) (b : Block) : Block :=
  if dv < 465 ∨ !b.pins.inputLow then b
  else
    let b := ({ b with pins := { b.pins with inputLow := false } }).setVolts dv
    if b.running then b.applyBrakes else b

/-- INPUT_LOW_CLEAR (R456). -/
def execInputLowClear (dv : Nat) (s : State) : Host.Outcome State Fault Refusal := s.onPort (fun _ => inputLowClear dv)

/-- The rails go down for the input: recorded in the non-volatile store too, and kept down until a cold reset (R456, R457, R459). -/
def Block.cutInput (b : Block) (e dv : Nat) : Block :=
  let b := { b with nv := { b.nv with notes := b.nv.notes ++ [e + dv * 2 ^ 16] } }
  let b := (b.inputEvent e dv).railsOff.portDown
  { b with boot := { b.boot with inputCut := true } }

/-- The input stayed above 60.0 V for 1 µs. -/
def inputOvervolt (dv : Nat) (b : Block) : Block := if !b.cmbUp ∨ dv ≤ 600 then b else b.cutInput Ev.INPUT_OVERVOLT dv

/-- INPUT_OVERVOLT (R456, R457). -/
def execInputOvervolt (dv : Nat) (s : State) : Host.Outcome State Fault Refusal := s.onPort (fun _ => inputOvervolt dv)

/-- The input stayed below 42.0 V for 10 µs. -/
def inputFail (dv : Nat) (b : Block) : Block := if !b.cmbUp ∨ 420 ≤ dv then b else b.cutInput Ev.INPUT_FAIL dv

/-- INPUT_FAIL (R456, R457). -/
def execInputFail (dv : Nat) (s : State) : Host.Outcome State Fault Refusal := s.onPort (fun _ => inputFail dv)

/-- The input has been back between 46.0 V and 58.0 V for 10 ms after an input event turned off the rails: a cold reset. -/
def inputRecoverColdReset (dv : Nat) (f : Fuses) (b : Block) : Block :=
  if !b.boot.inputCut ∨ dv < 460 ∨ 580 < dv then b
  else ({ b with pins := { b.pins with volts := dv } }).coldReset f

/-- INPUT_RECOVER_COLD_RESET (R457). -/
def execInputRecoverColdReset (dv : Nat) (s : State) : Host.Outcome State Fault Refusal := s.onPort (inputRecoverColdReset dv)

/-! ## Sideband pins (R429, R460 to R464) -/

/-- COLD_RST_N held low for 10 µs: a cold reset, held while the pin is low. -/
def coldRstNAssert (f : Fuses) (b : Block) : Block :=
  if b.boot.run = .off then { b with pins := { b.pins with coldRst := true } }
  else ({ b with pins := { b.pins with coldRst := true } }).coldReset f

/-- COLD_RST_N_ASSERT (R429). -/
def execColdRstNAssert (s : State) : Host.Outcome State Fault Refusal := s.onPort coldRstNAssert

/-- COLD_RST_N is released: the boot ROM starts where power is good; EXTEST and HIGHZ act as BYPASS from then on (R465). -/
def coldRstNRelease (b : Block) : Block :=
  let pins := { b.pins with coldRst := false }
  let drops := b.jtag.driving || b.jtag.floating
  let jtag := if drops then { b.jtag with instr := .bypass, dataReg := 0, driving := false, floating := false } else b.jtag
  { b with pins := pins, jtag := jtag
           boot := { b.boot with run := if b.boot.run = .cmbHeld then pins.bootRun else b.boot.run } }

/-- COLD_RST_N_RELEASE (R429). -/
def execColdRstNRelease (s : State) : Host.Outcome State Fault Refusal := s.onPort (fun _ => coldRstNRelease)

/-- A filtered level of MOD_AUX: while the input role holds the pin it asks for the brake or releases it (R460).
DEDUCED (notes/assumptions/48.md). -/
def modAuxInput (low : Bool) (b : Block) : Block := (b.auxLevel low).auxBrake

/-- MOD_AUX_INPUT (R460). -/
def execModAuxInput (low : Bool) (s : State) : Host.Outcome State Fault Refusal := s.onBlock (modAuxInput low)

/-- The effect of a write of MOD_AUX_CFG: roles, CONFLICT, the event of each write that leaves both set, and the pin as the role that
now holds it has it (R460, R461). DEDUCED (notes/assumptions/48.md). -/
def Block.auxCfg (b : Block) (v : Word) : Block :=
  let b := b.writeFields .mod Reg.MOD_AUX_CFG v
  let w := b.rd .mod Reg.MOD_AUX_CFG
  let both := wbit w 0 && wbit w 1
  let b := b.wrBit .mod Reg.MOD_AUX_CFG 2 both
  let b := if both then b.post Ev.CFG_CONFLICT .mod 0 else b
  if b.running then b.auxBrake else b

/-- Write MOD_AUX_CFG. -/
def modAuxCfgWrite (o : Origin) (v : Word) (b : Block) : Block := b.gate o .mod Reg.MOD_AUX_CFG .change (fun x => x.auxCfg v)

/-- MOD_AUX_CFG_WRITE (R460, R461). -/
def execModAuxCfgWrite (o : Origin) (v : Word) (s : State) : Host.Outcome State Fault Refusal := s.onWrite o (modAuxCfgWrite o v)

/-- The coolant sensors are read (R464): outlet above inlet, in tenths of a degree. A warning needs both readings 2 °C below their
thresholds before it is posted again. -/
def coolantSample (raw : Word) (b : Block) : Block :=
  let b := b.wr .mod Reg.MOD_COOLANT raw
  let cfg := b.rd .mod Reg.MOD_COOLANT_CFG
  let inlet := signed 16 (wfield raw 15 0)
  let rise := signed 16 (wfield raw 31 16) - inlet
  let limit : Int := (10 * wfield cfg 7 0 : Nat)
  let delta : Int := (wfield cfg 15 8 : Nat)
  if b.pwr.coolantWarned then
    if inlet ≤ limit - 20 ∧ rise ≤ delta - 20 then { b with pwr := { b.pwr with coolantWarned := false } } else b
  else if limit < inlet ∨ delta < rise then
    ({ b with pwr := { b.pwr with coolantWarned := true } }).post Ev.COOLANT_WARN .mod 0
  else b

/-- COOLANT_SAMPLE (R464). -/
def execCoolantSample (raw : Word) (s : State) : Host.Outcome State Fault Refusal := s.onBlock (coolantSample raw)

/-! ## The test port (R465 to R467) -/

/-- The identification code (R417, R466). -/
def Block.idCode (b : Block) : Nat :=
  let grade := b.rdN .mod Reg.MOD_GRADE % 256
  let dev := if grade = 1 then 0x4B80 else if grade = 2 then 0x4B78 else 0x4B70
  Config.vendorId 3 % 16 * 2 ^ 28 + dev * 2 ^ 12 + Config.vendorId 1 % 2 ^ 11 * 2 + 1

/-- Select an instruction, where the management block is powered. DEDUCED (notes/assumptions/27.md). -/
def Block.jtagSelect (b : Block) (f : JtagSt → JtagSt) : Block := if b.boot.run = .off then b else { b with jtag := f b.jtag }

/-- The bypass register captures 0. -/
def JtagSt.toBypass (j : JtagSt) : JtagSt := { j with instr := .bypass, dataReg := 0, driving := false, floating := false }

/-- BYPASS (R465). -/
def execBypass (s : State) : Host.Outcome State Fault Refusal := s.onPort (fun _ b => b.jtagSelect JtagSt.toBypass)

/-- The identification register is selected and captured. -/
def Block.jtagId (b : Block) : Block :=
  b.jtagSelect (fun j => { j with instr := .idcode, dataReg := b.idCode, driving := false, floating := false })

/-- IDCODE (R466). -/
def execIdcode (s : State) : Host.Outcome State Fault Refusal := s.onPort (fun _ => Block.jtagId)

/-- Test-logic reset: IDCODE is the instruction. DEDUCED (notes/assumptions/27.md). -/
def testLogicReset (b : Block) : Block :=
  b.jtagSelect (fun j => { j with instr := .idcode, dataReg := b.idCode, driving := false, floating := false })

/-- TEST_LOGIC_RESET (R465). -/
def execTestLogicReset (s : State) : Host.Outcome State Fault Refusal := s.onPort (fun _ => testLogicReset)

/-- The boundary-scan register captures the pins, an open value, and `load`, where given, becomes what it drives.
DEDUCED (notes/assumptions/27.md). -/
def samplePreload (load : Option Nat) (b : Block) : Block :=
  let d := if b.boot.run = .off then (0, b) else b.fresh
  d.2.jtagSelect (fun j => { j with instr := .samplePreload, dataReg := d.1, boundary := load.getD j.boundary,
                                    driving := false, floating := false })

/-- SAMPLE_PRELOAD (R465). -/
def execSamplePreload (load : Option Nat) (s : State) : Host.Outcome State Fault Refusal := s.onPort (fun _ => samplePreload load)

/-- The boundary-scan register drives the pins while COLD_RST_N is asserted; otherwise the bypass register is selected.
DEDUCED (notes/assumptions/27.md). -/
def extest (b : Block) : Block :=
  let d := if b.boot.run = .off then (0, b) else b.fresh
  d.2.jtagSelect (fun j =>
    if b.pins.coldRst then { j with instr := .extest, dataReg := d.1, driving := true, floating := false } else j.toBypass)

/-- EXTEST (R465). -/
def execExtest (s : State) : Host.Outcome State Fault Refusal := s.onPort (fun _ => extest)

/-- The pins float while COLD_RST_N is asserted; the bypass register is selected. DEDUCED (notes/assumptions/27.md). -/
def highz (b : Block) : Block :=
  b.jtagSelect (fun j =>
    if b.pins.coldRst then { j with instr := .highz, dataReg := 0, driving := false, floating := true } else j.toBypass)

/-- HIGHZ (R465). -/
def execHighz (s : State) : Host.Outcome State Fault Refusal := s.onPort (fun _ => highz)

/-- Private instructions (R465): without TEST_EN at power good they act as BYPASS; with it the manual gives them no effect. -/
def execJtagPrivate (code : Nat) (s : State) : Host.Outcome State Fault Refusal :=
  if code < 0x80 ∨ 0xFE < code ∨ s.block.boot.run = .off then .next s
  else if s.block.pins.testEn then .refused .jtagPrivate
  else s.onPort (fun _ b => b.jtagSelect JtagSt.toBypass)

end Sys2Proof.Machine
end

