-- ==== Sys2Proof/Machine/Pel.lean ====
section
/-! DEFINITION. The peloton (R343 to R358): domains, groups, arrivals, releases, timeouts, the configuration digest; and drafting (R382
to R385). -/

namespace Sys2Proof.Machine

open Sys2Proof

/-! ## Domains -/

/-- PEL_DOM_CFGd. -/
def Block.domCfg (b : Block) (d : Nat) : Word := b.rd .pel (Reg.PEL_DOM_CFG (d % 8))
/-- ENABLE. -/
def Block.domOn (b : Block) (d : Nat) : Bool := wbit (b.domCfg d) 31
/-- ROOT. -/
def Block.domRoot (b : Block) (d : Nat) : Bool := wbit (b.domCfg d) 30
/-- LOCAL. -/
def Block.domLocal (b : Block) (d : Nat) : Bool := wbit (b.domCfg d) 29
/-- PARENT. -/
def Block.domParent (b : Block) (d : Nat) : Nat := wfield (b.domCfg d) 26 24
/-- CHILDREN, rising. -/
def Block.domChildren (b : Block) (d : Nat) : List (Fin 8) := (List.finRange 8).filter (fun k => wbit (b.domCfg d) (16 + k.val))
/-- PEL_SEQd. -/
def Block.pelSeq (b : Block) (d : Nat) : Nat := b.rd64 .pel (Reg.PEL_SEQ (d % 8)) % 2 ^ 48

/-- The top 64 bits of this module's configuration digest, byte 0 highest (R356). -/
def Block.digest64 (b : Block) : Nat := b.pel.digest.toNat / 2 ^ 192

/-- A write of PEL_DOM_CFGd, refused while the node holds an arrival or a BARRIER task of the domain is started (R344). -/
def Block.domWrite (b : Block) (d : Fin 8) (v : Word) : Block :=
  let x := b.dom d.val
  if !x.inputs.isEmpty ∨ x.task.isSome then b.post Ev.PEL_DOM_BUSY .pel 0
  else
    let new := b.writeFields .pel (Reg.PEL_DOM_CFG d.val) v
    if new.domOn d.val ∧ !b.domOn d.val then new.wr64 .pel (Reg.PEL_SEQ d.val) 0 else new

/-- Write a domain's configuration. -/
def pelDomCfgWrite (o : Origin) (d : Fin 8) (v : Word) (b : Block) : Block :=
  b.gate o .pel (Reg.PEL_DOM_CFG d.val) .change (fun x => x.domWrite d v)

/-- PEL_DOM_CFG_WRITE (R344). -/
def execPelDomCfgWrite (o : Origin) (d : Fin 8) (v : Word) (s : State) : Host.Outcome State Fault Refusal :=
  s.onWrite o (pelDomCfgWrite o d v)

/-! ## Groups (R345) -/

/-- May a group be enabled on a domain? -/
def Block.groupOk (b : Block) (d : Nat) : Bool :=
  let l := b.groupMembers
  b.domRoot d && wfield (b.domCfg d) 12 0 == l.length && decide (l.length ≤ 512) && l.contains b.moduleId

/-- Abandon a task of the group: a FAULTED record where a slot is free, and its shares here lose their decision.
DEDUCED (notes/assumptions/35.md). -/
def Block.abandon (b : Block) (t : TaskSt) : Block :=
  let u : UnitId := .group
  let b := b.postTask u t noChild Ev.GROUP_ABANDONED
  let b := if b.mustStall u t.task then b else b.writeRecord u t ⟨.faulted, Ev.GROUP_ABANDONED, noChild, t.verdict.cycles⟩
  let b := if t.task.spec ∧ !t.decided then
      let b := match t.shadow with
        | some (sh, _) => b.discardShadow sh
        | none => b.cancelShadow t.serial
      b.markDecided t.serial .discard
    else b
  b.dropTask u t.serial

/-- Is a register word one of the group unit's block-specific words? -/
def isGroupWord (k : Nat) : Bool :=
  (k / 4096 == pageIndex (.sch .group) || k / 4096 == pageIndex (.sem .group)) && decide (0x040 ≤ k % 4096)

/-- The group ceases: its tasks are abandoned, its ring, record ring and counters cease. -/
def Block.endGroup (b : Block) : Block :=
  let b := (b.unit .group).board.foldl (fun x t => x.abandon t) b
  let b := b.setUnit .group .idle
  { b with regs := Sparse.clear isGroupWord b.regs, pel := { b.pel with reported := [] } }

/-- The effect of a write of PEL_GROUP: an ENABLE that the checks forbid stays 0. DEDUCED (notes/assumptions/35.md). -/
def Block.groupWrite (b : Block) (v : Word) : Block :=
  let was := wbit (b.rd .pel Reg.PEL_GROUP) 31
  let new := b.writeFields .pel Reg.PEL_GROUP v
  if wbit v 31 then
    if b.groupOk (wfield v 2 0) then new
    else if was then b.post Ev.PEL_CFG_FIELD .pel 0
    else (new.wrBit .pel Reg.PEL_GROUP 31 false).post Ev.PEL_CFG_FIELD .pel 0
  else if was then new.endGroup else new

/-- Write PEL_GROUP. -/
def pelGroupWrite (o : Origin) (v : Word) (b : Block) : Block :=
  b.gate o .pel Reg.PEL_GROUP .change (fun x => x.groupWrite v)

/-- PEL_GROUP_WRITE (R345). -/
def execPelGroupWrite (o : Origin) (v : Word) (s : State) : Host.Outcome State Fault Refusal := s.onWrite o (pelGroupWrite o v)

/-! ## Packets (R348, R352) -/

/-- What a release or abort says (R348). `last` holds LAST with its CAUSE in bits 15:12. -/
structure PelMsg where
  seq : Nat
  domain : Nat
  flags : Nat
  count : Nat
  last : Nat
  brake : Nat
  pace : Nat
  braked : Nat
  digest : Nat
  diffs : List Nat
  diffCount : Nat
  lag : Nat
  deriving DecidableEq, Repr

/-- DIFF0 to DIFF3 as four 16-bit fields: VALID above the identifier, unused slots 0. -/
def diffWords (l : List Nat) : List Nat := (List.range 4).map (fun i => match l[i]? with | some m => 2 ^ 15 + m % 4096 | none => 0)

/-- The 48 data bytes of a peloton packet. -/
def PelMsg.bytes (m : PelMsg) : List Byte :=
  toBytes 6 m.seq ++ toBytes 1 m.domain ++ toBytes 1 m.flags ++ toBytes 2 m.count ++ toBytes 2 m.last ++ toBytes 1 m.brake ++
    toBytes 1 m.pace ++ toBytes 2 m.braked ++ toBytes 8 m.digest ++ (diffWords m.diffs).flatMap (toBytes 2) ++ toBytes 2 m.diffCount ++
    toBytes 2 0 ++ toBytes 4 m.lag ++ toBytes 8 0

/-- A peloton packet's data bytes as a message; reserved bits are not looked at. -/
def PelMsg.ofBytes (l : List Byte) : PelMsg :=
  { seq := rdLE l 0 6, domain := rdLE l 6 1 % 8, flags := rdLE l 7 1 % 8, count := rdLE l 8 2 % 8192, last := rdLE l 10 2,
    brake := rdLE l 12 1 % 16, pace := rdLE l 13 1, braked := rdLE l 14 2 % 8192, digest := rdLE l 16 8
    diffs := ((List.range 4).map (fun i => rdLE l (24 + 2 * i) 2)).filterMap (fun w => if bit w 15 then some (w % 4096) else none)
    diffCount := rdLE l 32 2 % 8192, lag := rdLE l 36 4 }

/-- Opcode of an arrival. -/
abbrev Op.pelArrive : Nat := 0x10
/-- Opcode of a release. -/
abbrev Op.pelRelease : Nat := 0x11

/-- Send a peloton packet on a spoke, ahead of every other packet there (R352): dropped and counted where the spoke is not ACTIVE
(R355) or the module is fenced (R339). -/
def Block.sendPel (b : Block) (k : Fin 8) (opcode : Nat) (m : PelMsg) : Block :=
  if b.fenced then b.fencedDrop
  else if !b.active k.val then b.count .pel Reg.PEL_DROPS 1
  else
    let s := b.spoke k.val
    let p := b.packet s.partner 0 opcode 48 0 0 m.bytes
    let p := { p with vc := b.outVc p k }
    b.setSpoke k.val { s with outq := s.outq.takeWhile isPeloton ++ p :: s.outq.dropWhile isPeloton }

/-! ## A node's inputs (R349) -/

/-- Does the input of `x` count as later than that of `y`: by cycle, then the node's own above a spoke, then the higher spoke? -/
def PelInput.later (x y : PelInput) : Bool :=
  let k := fun (i : PelInput) => match i.spoke with | some s => s | none => 8
  decide (y.at_ < x.at_) || (x.at_ == y.at_ && decide (k y < k x))

/-- The input that arrived last. -/
def lastInput (l : List PelInput) : Option PelInput :=
  l.foldl (fun best x => match best with
    | none => some x
    | some y => if x.later y then some x else some y) none

/-- Insert an identifier into a rising list once. -/
def insertId (m : Nat) : List Nat → List Nat
  | [] => [m]
  | x :: r => if m < x then m :: x :: r else if m = x then x :: r else x :: insertId m r

/-- The inputs of a domain merged at this node. -/
def Block.merge (b : Block) (d : Nat) (l : List PelInput) : PelMsg :=
  let own := b.digest64
  let differ := l.filter (fun i => i.spoke.isSome && i.digest != own)
  let ids := (l.flatMap (fun i => i.diffs) ++ differ.map (fun i => i.ident)).foldl (fun m i => insertId i m) []
  let sat := fun (n : Nat) => min n 4096
  let base : PelMsg :=
    { seq := b.pelSeq d, domain := d, flags := 0, count := sat (l.map (fun i => i.count)).sum, last := 0, brake := 0, pace := 0
      braked := sat (l.map (fun i => i.braked)).sum, digest := own, diffs := ids.take 4
      diffCount := sat ((l.map (fun i => i.diffCount)).sum + differ.length), lag := 0 }
  match lastInput l with
  | some i => { base with last := i.last, brake := i.brake, pace := i.pace }
  | none => base

/-- Has the node every input of the domain? -/
def Block.nodeFull (b : Block) (d : Nat) : Bool :=
  let l := (b.dom d).inputs
  (b.domChildren d).all (fun k => l.any (fun i => i.spoke == some k.val)) && (!b.domLocal d || l.any (fun i => i.spoke.isNone))

/-! ## Release and abort (R350, R351, R354) -/

/-- Flags of a release. -/
abbrev PelFlag.aborted : Nat := 1
/-- TREE_FAULT. -/
abbrev PelFlag.treeFault : Nat := 2
/-- MISMATCH. -/
abbrev PelFlag.mismatch : Nat := 4

/-- The 64-byte barrier record (R351). -/
def barrierRecord (m : PelMsg) (arrived released : Nat) : List Byte :=
  toBytes 8 m.seq ++ toBytes 1 m.domain ++
    toBytes 1 (b2n (decide (m.brake ≠ 0)) + 2 * b2n (bit m.flags 2) + 4 * b2n (bit m.flags 0) + 8 * b2n (bit m.flags 1)) ++
    toBytes 2 m.last ++ toBytes 1 m.brake ++ toBytes 1 m.pace ++ toBytes 2 m.braked ++ toBytes 4 m.lag ++ toBytes 2 m.count ++
    toBytes 2 m.diffCount ++ (diffWords m.diffs).flatMap (toBytes 2) ++ toBytes 8 arrived ++ toBytes 8 released ++
    toBytes 8 m.digest ++ toBytes 8 0

/-- Write the record of a BARRIER task where it names one; `arrived` is when the module arrived. A place that does not exist or is protected
faults the task (R93). -/
def Block.putBarrier (b : Block) (t : TaskSt) (arrived : Nat) (m : PelMsg) : Option Nat × Block :=
  let a := t.task.par 8 8
  if a = 0 then (none, b)
  else if !b.recordFits a 64 then (some Ev.ADDR_UNMAPPED, b)
  else if b.protected_ a 64 then (some Ev.DESC_PROTECT, b)
  else (none, b.store a (barrierRecord m arrived b.now))

/-- The running BARRIER task of a domain, its cycles counted (R45); one whose count has reached BUDGET faults first (R46). -/
def Block.barrierTask (b : Block) (d : Nat) : Option TaskSt × Block :=
  match (b.dom d).task.bind (fun n => b.bySerial .wholeModule n) with
  | none => (none, b)
  | some t =>
    if t.phase ≠ .running then (none, b)
    else
      let cyc := b.now - t.arriveTime
      let b := b.mapTask .wholeModule t.serial (fun x => { x with cycles := cyc })
      let b := if t.task.budget.toNat ≤ cyc ∧ !t.exceeded then b.overBudget .wholeModule t else b
      match b.bySerial .wholeModule t.serial with
      | some x => if x.phase = .running then (some x, b) else (none, b)
      | none => (none, b)

/-- At a release whose last arriver was braked, each core's BARRIER_WAIT cycles for that barrier move (R71). The domain then counts those of
the next one. DEDUCED (notes/assumptions/37.md). -/
def Block.moveWaits (b : Block) (d : Nat) (braked : Bool) : Block :=
  let b := if braked then (List.finRange 128).foldl (fun x c =>
      let n := Sparse.get (fun _ => 0) (x.dom d).waits c.val
      if n = 0 then x else x.recharge c Cause.barrierWait Cause.peerBraked n) b
    else b
  b.setDom d { b.dom d with waits := [] }

/-- The ACLK setting of a draft's target (R383, R406). -/
def draftSetting (pace : Nat) : Nat := max 8 (ceilDiv (28 * pace) 255)

/-- What a release does to drafting (R382 to R384): a qualifying one starts or adjusts a draft; another of a drafting domain ends it.
DEDUCED (notes/assumptions/37.md). -/
def Block.draftRelease (b : Block) (d : Nat) (m : PelMsg) : Block :=
  let cfg := b.rd .pel Reg.PEL_DRAFT_CFG
  let who := m.last % 4096
  if !wbit cfg 31 ∨ !wbit cfg d then b
  else if m.brake ≠ 0 ∧ who ≠ b.moduleId then
    if m.lag < b.rdN .pel Reg.PEL_DRAFT_LAG then b
    else
      let pace := max m.pace (wfield cfg 23 16)
      let fresh := b.pel.draft.isNone
      let until_ := b.now + msToMclk (wfield (b.eff .pwr Reg.PWR_WINDOW) 12 0)
      let b := { b with pel := { b.pel with draft := some { leader := who, pace := pace, until_ := until_ } }
                        pwr := { b.pwr with draft := some (draftSetting pace) } }
      let b := b.wrN .pel Reg.PEL_DRAFT_STAT (2 ^ 31 + pace * 2 ^ 16 + who)
      let b := (b.count .pel Reg.PEL_DRAFTS 1).applyBrakes
      if fresh then b.post Ev.DRAFT_STARTED .pel (pace * 2 ^ 16 + who) else b
  else match b.pel.draft with
    | none => b
    | some x => { b with pel := { b.pel with draft := some { x with until_ := b.now } } }

/-- Show which domains have an abort pending. -/
def Block.showAborts (b : Block) : Block :=
  b.wrField .pel Reg.PEL_DIGEST_STAT 7 0 ((List.range 8).map (fun d => if (b.dom d).abortCode ≠ 0 then 2 ^ d else 0)).sum

/-- When a task's module arrived: at its own input, or, where the arrival was still held, when the task started.
DEDUCED (notes/assumptions/37.md). -/
def arrivedAt (t : TaskSt) : Option PelInput → Nat
  | some i => i.at_
  | none => t.arriveTime

/-- The running BARRIER task completes at a release (R351); `own` is the module's own input. -/
def Block.releaseTask (b : Block) (d : Nat) (own : Option PelInput) (m : PelMsg) : Block :=
  let u : UnitId := .wholeModule
  let x := b.barrierTask d
  match x.1 with
  | none => x.2
  | some t =>
    let w := x.2.putBarrier t (arrivedAt t own) m
    match w.1 with
    | some code => (w.2.faultTask u t.serial code).endShareTask 6 u t.serial
    | none =>
      let b := w.2.mapTask u t.serial (fun y => { y with
        phase := .finished, statusCode := if bit m.flags 2 then Ev.DIGEST_MISMATCH else 0 })
      let b := match t.confirm with
        | some s => b.signalSem (.task u t.serial) s (t.task.par 4 2)
        | none => b
      b.endShareTask 6 u t.serial

/-- The running BARRIER task faults at an abort, or the next one will (R354). A tree fault is posted by the module and not again by the
task. -/
def Block.abortTask (b : Block) (d : Nat) (own : Option PelInput) (m : PelMsg) : Block :=
  let u : UnitId := .wholeModule
  let code := if bit m.flags 1 then Ev.PEL_TREE_FAULT else Ev.BARRIER_TIMEOUT
  let x := b.barrierTask d
  match x.1 with
  | some t =>
    let w := x.2.putBarrier t (arrivedAt t own) m
    let b := (w.2.faultTask u t.serial code).mapTask u t.serial (fun y => { y with
      statusCode := if code = Ev.PEL_TREE_FAULT then code else y.statusCode })
    b.endShareTask 6 u t.serial
  | none =>
    if own.isSome ∨ !x.2.domLocal d then x.2 else (x.2.setDom d { x.2.dom d with abortCode := code }).showAborts

/-- Take a release or an abort of the current sequence (R351, R354): pass it to the children, advance the sequence, and act on it.
DEDUCED (notes/assumptions/37.md). -/
def Block.takeRelease (b : Block) (d : Nat) (m : PelMsg) : Block :=
  let b := (b.domChildren d).foldl (fun x k => x.sendPel k Op.pelRelease m) b
  let own := (b.dom d).inputs.find? (fun i => i.spoke.isNone)
  let b := b.setDom d { b.dom d with inputs := [], timer := none }
  let b := b.wr64 .pel (Reg.PEL_SEQ (d % 8)) ((m.seq + 1) % 2 ^ 48)
  if bit m.flags 0 then
    let b := b.count .pel Reg.PEL_ABORTS 1
    let b := if bit m.flags 1 ∧ b.domLocal d then b.post Ev.PEL_TREE_FAULT .pel 0 else b
    let b := (b.moveWaits d false).abortTask d own m
    b.setDom d { b.dom d with task := none }
  else
    let b := { b.count .pel Reg.PEL_RELEASES 1 with pel := { b.pel with lastSeq := m.seq } }
    let b := b.ocBarrier
    let ctl := b.rd .shm Reg.SHM_REC_CTL
    let b := if wbit ctl 4 ∧ wfield ctl 2 0 = d then b.clearRecord else b
    let b := b.moveWaits d (decide (m.brake ≠ 0))
    let b := b.releaseTask d own m
    let b := b.setDom d { b.dom d with task := none }
    let b := if bit m.flags 2 then
        (b.count .pel Reg.PEL_MISMATCHES 1).post Ev.DIGEST_MISMATCH .pel (ofBytes ((diffWords m.diffs).flatMap (toBytes 2)))
      else b
    (b.stepRelease d).draftRelease d m

/-- The second greatest arrival count of a root's inputs, for LAG. -/
def lagOf (l : List PelInput) : Nat :=
  match lastInput l with
  | none => 0
  | some x =>
    let rest := (l.map (fun i => i.at_)).erase x.at_
    if rest.isEmpty then 0 else min (x.at_ - rest.foldl max 0) (2 ^ 32 - 1)

/-- The root holds every input: it releases, or aborts with TREE_FAULT where COUNT is not EXPECT (R350).
DEDUCED (notes/assumptions/37.md). -/
def Block.rootDone (b : Block) (d : Nat) : Block :=
  let l := (b.dom d).inputs
  let m := b.merge d l
  if m.count = wfield (b.domCfg d) 12 0 then
    b.takeRelease d { m with flags := if m.diffCount ≠ 0 then PelFlag.mismatch else 0, lag := lagOf l }
  else b.takeRelease d { m with flags := PelFlag.aborted + PelFlag.treeFault }

/-- A node takes an input; with the last one it sends its arrival to its parent, or the root decides. An input it holds already changes
nothing. DEDUCED (notes/assumptions/37.md). -/
def Block.takeInput (b : Block) (d : Nat) (i : PelInput) : Block :=
  let x := b.dom d
  if x.inputs.any (fun j => j.spoke == i.spoke) then b
  else
    let b := b.setDom d { x with inputs := x.inputs ++ [i], timer := if x.timer.isNone then some b.now else x.timer }
    if !b.nodeFull d then b
    else if b.domRoot d then b.rootDone d
    else b.sendPel ⟨b.domParent d % 8, Nat.mod_lt _ (by decide)⟩ Op.pelArrive (b.merge d (b.dom d).inputs)

/-! ## The BARRIER task -/

/-- The idle cause whose counter of the module unit grew most, BARRIER_WAIT and BARRIER_PEER_BRAKED left out; the lower at a tie, 0
where none grew (R348). -/
def growthCause (old new : List Nat) : Nat :=
  ([1, 2, 3, 6, 7, 8, 9, 10].foldl (fun (best : Nat × Nat) k =>
    let g := new.getD k 0 - old.getD k 0
    if best.2 < g then (k, g) else best) (0, 0)).1

/-- This module's own arrival (R348). -/
def Block.ownInput (b : Block) (d : Nat) : PelInput × List Nat :=
  let now := (List.range 11).map (fun k => b.charged .wholeModule k)
  let cause := growthCause (b.dom d).idleAt now
  let brake := b.brakeState
  ({ spoke := none, ident := b.moduleId, count := 1, last := b.moduleId + cause * 4096, brake := brake, pace := b.pace
     braked := b2n (decide (brake ≠ 0)), digest := b.digest64, diffs := [], diffCount := 0, at_ := b.now }, now)

/-- The module's arrival in a domain. -/
def Block.arrive (b : Block) (d : Nat) : Block :=
  let own := b.ownInput d
  (b.setDom d { b.dom d with idleAt := own.2 }).takeInput d own.1

/-- Does the node hold an arrival of its own? -/
def Block.selfArrived (b : Block) (d : Nat) : Bool := (b.dom d).inputs.any (fun i => i.spoke.isNone)

/-- Start a ready BARRIER task of the module unit, which is its module's arrival; or end it, where an abort is pending (R354). A task that
starts while the digest is out of date holds its arrival, which a later command of the row brings (R357).
DEDUCED (notes/assumptions/37.md). -/
def barrier (i : Nat) (b : Block) : Block :=
  let u : UnitId := .wholeModule
  match b.task? u i with
  | none => b
  | some t =>
    let d := t.task.par 0 1 % 8
    let x := b.dom d
    let first := (b.unit u).board.find? (fun y => decide (y.task.kind = 7) && decide (y.phase = .admitted) && !y.isEmpty &&
      y.task.par 0 1 % 8 == d)
    let stale := wbit (b.rd .pel Reg.PEL_DIGEST_STAT) 31
    if x.task = some t.serial then
      if t.phase ≠ .running ∨ b.selfArrived d ∨ stale ∨ b.fenced then b else b.arrive d
    else if t.task.kind ≠ 7 ∨ t.isEmpty ∨ !b.startable u t ∨ x.task.isSome ∨ first ≠ some t ∨ b.fenced ∨ !b.net.down.isEmpty ∨
        !b.domOn d ∨ !b.domLocal d then b
    else if x.abortCode ≠ 0 then
      let b := (b.setDom d { x with abortCode := 0 }).showAborts
      let b := b.mapTask u t.serial (fun y => { y with
        phase := .finished, faultCode := some x.abortCode
        statusCode := if x.abortCode = Ev.PEL_TREE_FAULT then x.abortCode else 0 })
      b.endShareTask 6 u t.serial
    else if b.selfArrived d then b
    else
      let b := (b.begin u t.serial).setDom d { x with task := some t.serial }
      if stale then b else b.arrive d

/-- BARRIER (R347, R348). -/
def execBarrier (i : Nat) (s : State) : Host.Outcome State Fault Refusal := s.onBlock (barrier i)

/-! ## Packets that arrive -/

/-- A peloton packet that does not fit the node's state is discarded and reported (R355). -/
def Block.seqError (b : Block) (p : Packet) : Block :=
  (b.count .pel Reg.PEL_SEQ_ERR 1).post Ev.PEL_SEQ_MISMATCH .pel (p.src % 4096)

/-- Take the first PEL_ARRIVE delivered. DEDUCED (notes/assumptions/37.md). -/
def pelArrive (b : Block) : Block :=
  match b.takePacket (fun p => p.opcode == Op.pelArrive) with
  | none => b
  | some (p, b) =>
    let m := PelMsg.ofBytes p.data
    let d := m.domain
    let child := match p.inSpoke with | some k => (b.domChildren d).contains k | none => false
    if !b.domOn d ∨ m.seq ≠ b.pelSeq d ∨ !child then b.seqError p
    else b.takeInput d
      { spoke := p.inSpoke.map (fun k => k.val), ident := p.src, count := m.count, last := m.last, brake := m.brake, pace := m.pace
        braked := m.braked, digest := m.digest, diffs := m.diffs, diffCount := m.diffCount, at_ := b.now }

/-- PEL_ARRIVE (R349, R350). -/
def execPelArrive (s : State) : Host.Outcome State Fault Refusal := s.onBlock pelArrive

/-- Take the first PEL_RELEASE delivered. DEDUCED (notes/assumptions/37.md). -/
def pelRelease (b : Block) : Block :=
  match b.takePacket (fun p => p.opcode == Op.pelRelease) with
  | none => b
  | some (p, b) =>
    let m := PelMsg.ofBytes p.data
    let d := m.domain
    let parent := match p.inSpoke with | some k => !b.domRoot d && k.val == b.domParent d | none => false
    if !b.domOn d ∨ m.seq ≠ b.pelSeq d ∨ !parent then b.seqError p else b.takeRelease d m

/-- PEL_RELEASE (R351). -/
def execPelRelease (s : State) : Host.Outcome State Fault Refusal := s.onBlock pelRelease

/-- The root's timer passes PEL_TIMEOUT before the barrier completes. DEDUCED (notes/assumptions/37.md). -/
def barrierTimeout (d : Fin 8) (b : Block) : Block :=
  let n := b.rdN .pel Reg.PEL_TIMEOUT % 2 ^ 24
  match (b.dom d.val).timer with
  | none => b
  | some t =>
    if !b.domOn d.val ∨ !b.domRoot d.val ∨ n = 0 ∨ b.now < t + usToMclk n then b
    else b.takeRelease d.val { b.merge d.val (b.dom d.val).inputs with flags := PelFlag.aborted }

/-- BARRIER_TIMEOUT (R354). -/
def execBarrierTimeout (d : Fin 8) (s : State) : Host.Outcome State Fault Refusal := s.onBlock (barrierTimeout d)

/-! ## The configuration digest (R356) -/

/-- The message the digest hashes: the measurements in stage order, then offset and word of each marked register. -/
def Block.digestMessage (b : Block) : List Byte :=
  b.boot.measures.flatMap hashBytes ++ digestOffsets.flatMap (fun k => toBytes 4 k ++ toBytes 4 (b.reg k).toNat)

/-- Recompute the digest and show it. -/
def Block.redigest (b : Block) : Block :=
  let h := sm3 b.digestMessage
  let b := { b with pel := { b.pel with digest := h } }
  let b := (b.wr .pel Reg.PEL_DIGEST_HI (hashWord h 0)).wr .pel Reg.PEL_DIGEST_LO (hashWord h 1)
  b.wrBit .pel Reg.PEL_DIGEST_STAT 31 false

/-- The CMB recomputes the digest while that is due. -/
def digestRecompute (b : Block) : Block := if wbit (b.rd .pel Reg.PEL_DIGEST_STAT) 31 then b.redigest else b

/-- DIGEST_RECOMPUTE (R356). -/
def execDigestRecompute (s : State) : Host.Outcome State Fault Refusal := s.onBlock digestRecompute

/-- Clear the peloton's counters. -/
def pelCntClr (o : Origin) (v : Word) (b : Block) : Block :=
  b.gate o .pel Reg.PEL_CNT_CLR .none (fun x =>
    let x := x.clearOn v .pel [Reg.PEL_RELEASES, Reg.PEL_ABORTS, Reg.PEL_DROPS, Reg.PEL_SEQ_ERR, Reg.PEL_MISMATCHES]
    if wbit v 1 then x.clear64 .pel [Reg.PEL_DRAFTS] else x)

/-- PEL_CNT_CLR (R373). -/
def execPelCntClr (o : Origin) (v : Word) (s : State) : Host.Outcome State Fault Refusal := s.onWrite o (pelCntClr o v)

/-! ## The end of a draft (R384) -/

/-- A draft ends: the limit is removed. DEDUCED (notes/assumptions/37.md). -/
def draftEnded (b : Block) : Block :=
  match b.pel.draft with
  | none => b
  | some x =>
    if b.now < x.until_ ∧ wbit (b.rd .pel Reg.PEL_DRAFT_CFG) 31 ∧ !b.fenced then b
    else
      let b := { b with pel := { b.pel with draft := none }, pwr := { b.pwr with draft := none } }
      ((b.wrN .pel Reg.PEL_DRAFT_STAT 0).applyBrakes).post Ev.DRAFT_ENDED .pel 0

/-- DRAFT_ENDED (R384). -/
def execDraftEnded (s : State) : Host.Outcome State Fault Refusal := s.onBlock draftEnded

end Sys2Proof.Machine
end

