-- ==== Sys2Proof/Machine/Sem.lean ====
section
/-! DEFINITION. Semaphores as registers and signals (R59 to R64, R490) and the sync lines of compact mode (R65 to R68, R473). -/

namespace Sys2Proof.Machine

open Sys2Proof

/-! ## Semaphores -/

/-- A signal reaches a semaphore of a schedulable core. -/
def semaphoreSignal (c : Fin 128) (p : Fin 64) (inc : Half) (b : Block) : Block :=
  if b.coreOn c then b.addSem c.val p.val inc.toNat else b

/-- SEMAPHORE_SIGNAL (R62, R64): modulo 2³²; waits read the value when their tasks start. -/
def execSemaphoreSignal (c : Fin 128) (p : Fin 64) (inc : Half) (s : State) : Host.Outcome State Fault Refusal :=
  s.onBlock (semaphoreSignal c p inc)

/-- Set a semaphore by its register. -/
def semPhysWrite (o : Origin) (c : Fin 128) (p : Fin 64) (v : Word) (b : Block) : Block :=
  b.gate o (.sem (.core c)) (Reg.SEM_PHYS p.val) .none (fun x => x.wr (.sem (.core c)) (Reg.SEM_PHYS p.val) v)

/-- SEM_PHYS_WRITE (R61). -/
def execSemPhysWrite (o : Origin) (c : Fin 128) (p : Fin 64) (v : Word) (s : State) : Host.Outcome State Fault Refusal :=
  s.onWrite o (semPhysWrite o c p v)

/-- The context in which a unit's tasks run. -/
def Block.context (b : Block) (u : UnitId) : Nat := wfield (b.rd (.sch u) Reg.SCH_RING_CFG) 18 16

/-- The reference of a semaphore field in a unit's context, none where it is unused, badly encoded or fails its translation. -/
def Block.semRef (b : Block) (u : UnitId) (f : Nat) : Option SemRef × Block :=
  if !bit f 15 ∨ !semFieldOk b.fixedMode f then (none, b) else b.translate u (b.context u) false f

/-- The effect of a write of SEM_SIG. -/
def Block.sigWrite (b : Block) (u : UnitId) (v : Word) : Block :=
  let r := b.semRef u (wfield v 15 0)
  match r.1 with
  | none => r.2.post Ev.SEM_XLAT_FAULT (.sem u) 0
  | some s => r.2.signalSem (.semPage u) s (wfield v 31 16)

/-- Signal through a SEM page. -/
def semSig (o : Origin) (u : UnitId) (v : Word) (b : Block) : Block :=
  b.gate o (.sem u) Reg.SEM_SIG .none (fun x => x.sigWrite u v)

/-- SEM_SIG (R490). -/
def execSemSig (o : Origin) (u : UnitId) (v : Word) (s : State) : Host.Outcome State Fault Refusal := s.onWrite o (semSig o u v)

/-- What SEM_READ_VAL returns: the value of the selected semaphore of this module, 0 in every other case (R490). -/
def Block.semRead (b : Block) (u : UnitId) : Nat × Block :=
  let r := b.semRef u (b.rdN (.sem u) Reg.SEM_READ_SEL)
  match r.1 with
  | some s => if s.here then (r.2.semVal s.core s.phys, r.2) else (0, r.2)
  | none => (0, r.2)

/-- Show the value of the selected semaphore. -/
def Block.showSem (b : Block) (u : UnitId) : Block :=
  let r := b.semRead u
  r.2.wrN (.sem u) Reg.SEM_READ_VAL r.1

/-- Select a semaphore to read. -/
def semReadSelWrite (o : Origin) (u : UnitId) (v : Word) (b : Block) : Block :=
  b.gate o (.sem u) Reg.SEM_READ_SEL .none (fun x => (x.writeFields (.sem u) Reg.SEM_READ_SEL v).showSem u)

/-- SEM_READ_SEL_WRITE (R490). -/
def execSemReadSelWrite (o : Origin) (u : UnitId) (v : Word) (s : State) : Host.Outcome State Fault Refusal :=
  s.onWrite o (semReadSelWrite o u v)

/-- Is a register word a physical semaphore? -/
def isSemPhys (k : Nat) : Bool :=
  match pageAt? (k / 4096) with
  | some (.sem (.core _)) => decide (0x100 ≤ k % 4096) && decide (k % 4096 < 0x200)
  | _ => false

/-- The effect of a write of SEM_MODE (R60). -/
def Block.modeWrite (b : Block) (v : Word) : Block :=
  let p : Page := .sem .wholeModule
  if wbit v 0 = b.fixedMode then b
  else if allUnits.any (fun u => !(b.unit u).board.isEmpty) then b.post Ev.SEM_MODE_BUSY p 0
  else { (b.writeFields p Reg.SEM_MODE v) with regs := Sparse.clear isSemPhys (b.writeFields p Reg.SEM_MODE v).regs }

/-- Change the mode of semaphore fields. -/
def semModeWrite (o : Origin) (v : Word) (b : Block) : Block :=
  b.gate o (.sem .wholeModule) Reg.SEM_MODE .change (fun x => x.modeWrite v)

/-- SEM_MODE_WRITE (R60): every physical semaphore reads 0 after a change, its value at reset. -/
def execSemModeWrite (o : Origin) (v : Word) (s : State) : Host.Outcome State Fault Refusal := s.onWrite o (semModeWrite o v)

/-- Empty the die hubs' caches of a context. DEDUCED (notes/assumptions/36.md). -/
def semXlatInv (o : Origin) (v : Word) (b : Block) : Block :=
  b.gate o (.sem .wholeModule) Reg.SEM_XLAT_INV .none (fun x =>
    (List.range 16).foldl (fun y t => let z := y.tile t
                                      y.setTile t { z with xlat := z.xlat.filter (fun e => e.ctx != wfield v 2 0) }) x)

/-- SEM_XLAT_INV (R59). -/
def execSemXlatInv (o : Origin) (v : Word) (s : State) : Host.Outcome State Fault Refusal := s.onWrite o (semXlatInv o v)

/-! ## Sync lines -/

/-- A sync line of a tile. -/
def TileSt.line (x : TileSt) (i : Nat) : SyncLine := Sparse.get (fun _ => .empty) x.lines i

/-- What an operation does to a line: the line after it and the bytes it writes out, none where it waits (R66).
DEDUCED (notes/assumptions/36.md). -/
def lineAct (op : Nat) (l : SyncLine) (data : DWord) : Option (SyncLine × Option (List Byte)) :=
  match op with
  | 1 => if l.full then none else some ({ l with data := data, full := true }, none)
  | 2 => if l.full then some ({ l with overrun := true }, none) else some ({ l with data := data, full := true }, none)
  | 3 => if l.full then some ({ l with full := false }, some (toBytes 8 l.data.toNat)) else none
  | 4 => if l.full then some ({ l with full := false }, some (toBytes 8 l.data.toNat)) else some (l, none)
  | 5 => some (l, some (toBytes 8 l.data.toNat ++ toBytes 8 (b2n l.full + 2 * b2n l.overrun)))
  | _ => some ({ l with full := false, overrun := false }, none)

/-- Can a waiting operation proceed now? DEDUCED (notes/assumptions/36.md). -/
def TileSt.canGo (x : TileSt) (w : SyncWait) : Bool := (lineAct w.op (x.line w.line) 0).isSome

/-- Carry out an operation that does not wait: the write of a load or of PEEK, then the line. A load of an empty line completes with
STATUS SYNC_LINE_EMPTY. A destination whose page is away is asked for and waited for: SYNC has no PAGE_IN_OK.
DEDUCED and DESIGN CHOICE (notes/assumptions/36.md). -/
def Block.doSync (b : Block) (c : Fin 128) (t : TaskSt) : Block :=
  let u : UnitId := .core c
  let i := (coreTile c)
  let op := t.task.par 0 2
  let n := t.task.par 2 2
  let l := (b.tile i.val).line n
  match lineAct op l (BitVec.ofNat 64 (t.task.par 8 8)) with
  | none => b
  | some (l', out) =>
    let w : Ready × Block := match out with
      | some bytes => b.taskWrite t (some i) [(t.task.par 0x10 8, bytes)] true
      | none => (.ok, b)
    match w.1 with
    | .wait => w.2
    | .fault code =>
      let x := w.2.tile i.val
      (w.2.setTile i.val { x with syncWaits := x.syncWaits.filter (fun q => q.serial != t.serial) }).faultTask u t.serial code
    | .ok =>
      let x := w.2.tile i.val
      let b := w.2.setTile i.val { x with lines := Sparse.put (fun _ => SyncLine.empty) x.lines n l'
                                          syncWaits := x.syncWaits.filter (fun q => q.serial != t.serial) }
      let empty := decide (op = 4) && !l.full
      let b := b.mapTask u t.serial (fun y => { y with items := 1, statusCode := if empty then Ev.SYNC_LINE_EMPTY else y.statusCode })
      if empty then b.postTask u t noChild Ev.SYNC_LINE_EMPTY else b

/-- The operation of a core's first running SYNC task with a code that has not been carried out and does not wait yet: it is carried out
in its turn on its line, or takes a place at the die hub (R67). -/
def syncOp (op : Nat) (c : Fin 128) (b : Block) : Block :=
  let x := b.tile (coreTile c).val
  match (b.unit (.core c)).board.find? (fun t => decide (t.phase = .running) && decide (t.task.kind = 9) && t.task.par 0 2 == op &&
      t.items == 0 && !x.syncWaits.any (fun w => w.serial == t.serial)) with
  | none => b
  | some t =>
    let n := t.task.par 2 2
    if x.syncWaits.any (fun w => w.line == n && x.canGo w) then b
    else match lineAct op (x.line n) 0 with
      | some _ => b.doSync c t
      | none =>
        if x.syncWaits.length < 64 then
          b.setTile (coreTile c).val { x with syncWaits := x.syncWaits ++ [{ core := c.val, serial := t.serial, op := op, line := n }] }
        else b

/-- STORE_BLOCKING (R66). -/
def execStoreBlocking (c : Fin 128) (s : State) : Host.Outcome State Fault Refusal := s.onBlock (syncOp 1 c)
/-- STORE_NONBLOCKING (R66). -/
def execStoreNonblocking (c : Fin 128) (s : State) : Host.Outcome State Fault Refusal := s.onBlock (syncOp 2 c)
/-- LOAD_BLOCKING (R66). -/
def execLoadBlocking (c : Fin 128) (s : State) : Host.Outcome State Fault Refusal := s.onBlock (syncOp 3 c)
/-- LOAD_NONBLOCKING (R66). -/
def execLoadNonblocking (c : Fin 128) (s : State) : Host.Outcome State Fault Refusal := s.onBlock (syncOp 4 c)
/-- PEEK (R66). -/
def execPeek (c : Fin 128) (s : State) : Host.Outcome State Fault Refusal := s.onBlock (syncOp 5 c)
/-- CLEAR (R66). -/
def execClear (c : Fin 128) (s : State) : Host.Outcome State Fault Refusal := s.onBlock (syncOp 6 c)

/-- The first operation that waits on a line goes on when the line's state allows; the cycles it waited count against its task (R68).
DEDUCED (notes/assumptions/36.md). -/
def syncBlockedResume (t : Fin 16) (line : Fin 1024) (cycles : Nat) (b : Block) : Block :=
  let x := b.tile t.val
  match x.syncWaits.find? (fun w => w.line == line.val) with
  | none => b
  | some w =>
    if h : w.core < 128 then
      if x.canGo w then
        match b.bySerial (.core ⟨w.core, h⟩) w.serial with
        | some k =>
          let y := b.doSync ⟨w.core, h⟩ k
          if (y.tile t.val).syncWaits.any (fun q => q.serial == w.serial) then y else y.addCycles (.core ⟨w.core, h⟩) w.serial cycles
        | none => b.setTile t.val { x with syncWaits := x.syncWaits.filter (fun q => q.serial != w.serial) }
      else b
    else b

/-- SYNC_BLOCKED_RESUME (R67, R68). -/
def execSyncBlockedResume (t : Fin 16) (line : Fin 1024) (cycles : Nat) (s : State) : Host.Outcome State Fault Refusal :=
  s.onBlock (syncBlockedResume t line cycles)

/-- Latch a line for reading. -/
def Block.latchLine (b : Block) (t : Fin 16) : Block :=
  let l := (b.tile t.val).line (b.rdN (.tile t) Reg.TILE_SYNC_SEL % 1024)
  (b.wrN (.tile t) Reg.TILE_SYNC_FLAGS (b2n l.full + 2 * b2n l.overrun)).wr64 (.tile t) Reg.TILE_SYNC_DATA_LO l.data.toNat

/-- Select a sync line. -/
def tileSyncSelWrite (o : Origin) (t : Fin 16) (v : Word) (b : Block) : Block :=
  b.gate o (.tile t) Reg.TILE_SYNC_SEL .none (fun x => (x.writeFields (.tile t) Reg.TILE_SYNC_SEL v).latchLine t)

/-- TILE_SYNC_SEL_WRITE (R473). -/
def execTileSyncSelWrite (o : Origin) (t : Fin 16) (v : Word) (s : State) : Host.Outcome State Fault Refusal :=
  s.onWrite o (tileSyncSelWrite o t v)

end Sys2Proof.Machine
end

