-- ==== Sys2Proof/Machine/Host.lean ====
section
/-! DEFINITION. The host port's accesses (R416 to R424), the event ring's registers (R482 to R485), and the register map as a whole:
where a write of any offset goes and what a read returns (R13, R18 to R20, R419, R470 to R475). -/

namespace Sys2Proof.Machine

open Sys2Proof

/-! ## The event ring's registers (R482 to R485) -/

/-- The effect of a write of MOD_EVT_CFG: LOG2 keeps its value while ENABLE is 1; ENABLE is not set over a misaligned base. -/
def Block.evtCfg (b : Block) (v : Word) : Block :=
  let old := b.rd .mod Reg.MOD_EVT_CFG
  let v := if wbit old 31 then wset v 3 0 (wfield old 3 0) else v
  let b := b.writeFields .mod Reg.MOD_EVT_CFG v
  if wbit v 31 ∧ b.rd64 .mod Reg.MOD_EVT_BASE_LO % (32 * 2 ^ wfield (b.rd .mod Reg.MOD_EVT_CFG) 3 0) ≠ 0 then
    (b.wrBit .mod Reg.MOD_EVT_CFG 31 false).post Ev.RING_ALIGN .mod 0
  else b

/-- Write MOD_EVT_CFG. DEDUCED (notes/assumptions/49.md). -/
def modEvtCfgWrite (o : Origin) (v : Word) (b : Block) : Block := b.gate o .mod Reg.MOD_EVT_CFG .change (fun x => x.evtCfg v)

/-- MOD_EVT_CFG_WRITE (R483). -/
def execModEvtCfgWrite (o : Origin) (v : Word) (s : State) : Host.Outcome State Fault Refusal := s.onWrite o (modEvtCfgWrite o v)

/-- The effect of a write of MOD_EVT_HEAD: ignored where the head would pass the tail; the vector is sent again while records are
unread. -/
def Block.evtHead (b : Block) (v : Word) : Block :=
  let cfg := b.rd .mod Reg.MOD_EVT_CFG
  let tail := b.rdN .mod Reg.MOD_EVT_TAIL
  if 2 ^ wfield cfg 3 0 < diff32 tail v.toNat then b
  else
    let b := b.wr .mod Reg.MOD_EVT_HEAD v
    if wbit cfg 31 ∧ v.toNat ≠ tail then b.ringSend else b

/-- Write MOD_EVT_HEAD. DEDUCED (notes/assumptions/41.md). -/
def modEvtHeadWrite (o : Origin) (v : Word) (b : Block) : Block := b.gate o .mod Reg.MOD_EVT_HEAD .none (fun x => x.evtHead v)

/-- MOD_EVT_HEAD_WRITE (R483, R484). -/
def execModEvtHeadWrite (o : Origin) (v : Word) (s : State) : Host.Outcome State Fault Refusal := s.onWrite o (modEvtHeadWrite o v)

/-- The effect of a write of MOD_EVT_CNT_SEL: the count of a listed code is latched, 0 for any other. -/
def Block.evtSel (b : Block) (v : Word) : Block :=
  let b := b.writeFields .mod Reg.MOD_EVT_CNT_SEL v
  let e := wfield v 15 0
  b.wr64 .mod Reg.MOD_EVT_CNT (if evListed e then (b.evtCount e).toNat else 0)

/-- Write MOD_EVT_CNT_SEL. -/
def modEvtCntSelWrite (o : Origin) (v : Word) (b : Block) : Block := b.gate o .mod Reg.MOD_EVT_CNT_SEL .none (fun x => x.evtSel v)

/-- MOD_EVT_CNT_SEL_WRITE (R485). -/
def execModEvtCntSelWrite (o : Origin) (v : Word) (s : State) : Host.Outcome State Fault Refusal :=
  s.onWrite o (modEvtCntSelWrite o v)

/-- Clear every event counter and MOD_EVT_LOST. -/
def modEvtCntClr (o : Origin) (v : Word) (b : Block) : Block :=
  b.gate o .mod Reg.MOD_EVT_CNT_CLR .none (fun x =>
    if wbit v 0 then ({ x with evt := [] }).clear64 .mod [Reg.MOD_EVT_LOST] else x)

/-- MOD_EVT_CNT_CLR (R485). -/
def execModEvtCntClr (o : Origin) (v : Word) (s : State) : Host.Outcome State Fault Refusal := s.onWrite o (modEvtCntClr o v)

/-! ## Interrupt lines (R423, R470) -/

/-- Set INT_STAT bits by INT_FORCE; reserved bits stay 0. -/
def intForceWrite (o : Origin) (p : Page) (v : Word) (b : Block) : Block :=
  b.gate o p Reg.INT_FORCE .none (fun x => x.setInt p (v.toNat &&& intBits p))

/-- INT_FORCE_WRITE (R470). -/
def execIntForceWrite (o : Origin) (p : Page) (v : Word) (s : State) : Host.Outcome State Fault Refusal :=
  s.onWrite o (intForceWrite o p v)

/-- A page's line rises: its vector is sent once, and an in-band interrupt when its IBI bit asks for one.
DEDUCED (notes/assumptions/15.md). -/
def interruptLineRise (p : Page) (b : Block) : Block :=
  let i := pageIndex p
  if !b.cmbUp ∨ !b.lineHigh p ∨ b.host.high.contains i then b
  else
    let w := Sparse.get (fun _ => (0 : Word)) b.host.irqVec i
    let b := ({ b with host := { b.host with high := b.host.high ++ [i] } }).sendVector (wfield w 7 0)
    if wbit w 8 then b.raiseIbi (0x02 :: toBytes 2 i) else b

/-- INTERRUPT_LINE_RISE (R423, R452). -/
def execInterruptLineRise (p : Page) (s : State) : Host.Outcome State Fault Refusal := s.onPort (fun _ => interruptLineRise p)

/-- MOD_ALERT_N is low while the line of a page whose IBI bit is set is high (chapter "Module connectors", sideband pins). -/
def Block.alertLow (b : Block) : Bool :=
  b.host.irqVec.any (fun e => wbit e.2 8 && (match pageAt? e.1 with | some p => b.lineHigh p | none => false))

/-- The effect of a write of the control word of an MSI-X vector: unmasked, a pending message goes out. -/
def Block.vectorCtl (b : Block) (n : Nat) (v : Word) : Block :=
  let b := { b with host := { b.host with msix := Sparse.put msixReset b.host.msix (4 * n + 3) (v &&& 1) } }
  if !wbit v 0 ∧ b.host.msixEnable ∧ b.host.msixPend.contains n then
    { b with host := { b.host with msixPend := b.host.msixPend.filter (fun x => x != n), sent := b.host.sent ++ [n] } }
  else b

/-- MSIX_UNMASK (R423). -/
def execMsixUnmask (n : Fin 256) (v : Word) (s : State) : Host.Outcome State Fault Refusal :=
  s.onWrite .host (fun b => b.vectorCtl n.val v)

/-! ## The memory aperture (R420 to R422, R436) -/

/-- Size of a window. -/
def windowSize : Nat := 2 ^ 33

/-- The module address that an offset of the memory aperture reaches, at the base that its window has now. -/
def Block.windowAddr (b : Block) (off : Nat) : Nat :=
  b.rd64 .mod (Reg.MOD_WIN_BASE_LO (off / windowSize % 4)) + off % windowSize

/-- The effect of a write of a window base. -/
def modWinBaseWrite (o : Origin) (w : Fin 4) (hi : Bool) (v : Word) (b : Block) : Block :=
  let off := if hi then Reg.MOD_WIN_BASE_HI w else Reg.MOD_WIN_BASE_LO w
  b.gate o .mod off .none (fun x => x.writeFields .mod off v)

/-- MOD_WIN_BASE_WRITE (R420). -/
def execModWinBaseWrite (o : Origin) (w : Fin 4) (hi : Bool) (v : Word) (s : State) : Host.Outcome State Fault Refusal :=
  s.onWrite o (modWinBaseWrite o w hi v)

/-- What the host port last answered. -/
def Block.answer (b : Block) (r : HostReply) : Block := { b with host := { b.host with reply := r } }

/-- Ask for the page that an access of the host waits for, ranked with demands (R421). -/
def Block.hostWait (b : Block) (a n : Nat) : Block :=
  match b.probe a n with
  | .nonResident v => (b.requestPageIn v .demand none).answer .none
  | _ => b.answer .none

/-- Must an access of the host wait: a page is away or on the move, and the far tier is up (R301, R303, R421)?
DEDUCED (notes/assumptions/41.md). -/
def Block.hostWaits (b : Block) (a n : Nat) : Bool :=
  (pieces 65536 a n).any (fun p => match b.resolve p.1 with
    | .nonResident _ => !b.hbm.farDown
    | .moving _ => true
    | _ => false)

/-- The pieces of an access that lead nowhere: unmapped, or to far-tier memory that is down. -/
def Block.lost (b : Block) (a n : Nat) : List (Nat × Nat) :=
  (pieces 65536 a n).filter (fun p => match b.resolve p.1 with | .phys _ => false | _ => true)

/-- The first address of an access that is unmapped or in no allocation. -/
def Block.firstUnmapped (b : Block) (a n : Nat) : Option Nat :=
  ((b.lost a n).find? (fun p => match b.resolve p.1 with | .unmapped => true | _ => false)).map (fun p => p.1)

/-- Page that a poisoned word is reported from (R480). -/
def Block.poisonPage (b : Block) (a : Nat) : Page :=
  if a < hbmBase then .tile ⟨a / 2 ^ 33 % 16, by omega⟩
  else if inHbm a then .hbc (stackFin (b.pte (pageOf a)).stack)
  else .hbcMod

/-- The bytes a host read returns: all ones where the address leads nowhere or the word is poisoned (R226, R291, R421). -/
def Block.hostBytes (b : Block) (a n : Nat) : List Byte :=
  let bad := b.poisoned a n
  (pieces 8 a n).flatMap (fun p => match b.resolve p.1 with
    | .phys _ => if bad.contains p.1 then List.replicate p.2 0xFF else b.bytes p.1 p.2
    | _ => List.replicate p.2 0xFF)

/-- A read of the host through the memory aperture; `errs` names the words that the read finds in error. In recovery the
aperture reaches the recovery buffer alone. An access that waits has no answer: it is served when it is given again.
DEDUCED (notes/assumptions/41.md). -/
def memoryApertureRead (off n : Nat) (errs : Errs) (b : Block) : Block :=
  if !b.host.linkUp then b
  else if !b.hostOpen then b.answer (if b.boot.resetDue.isSome then .bytes (List.replicate n 0xFF) else .unsupported)
  else if 4096 < n ∨ 2 ^ 35 < off + n then b.answer .unsupported
  else if b.boot.run = .recovery then
    b.answer (.bytes ((b.physBytes (recoveryBase + off) (min n (recoverySize - off))) ++ List.replicate (n - (recoverySize - off)) 0xFF))
  else
    let a := b.windowAddr off
    if b.hostWaits a n then b.hostWait a n
    else
      let b := b.foundIn errs (fun u => decide (a ≤ u ∧ u < a + n))
      let b := (b.poisoned a n).foldl (fun y w => y.post (poisonCode w) (y.poisonPage w) w) b
      let b := match b.firstUnmapped a n with
        | some x => b.post Ev.HOST_ADDR_UNMAPPED .mod x
        | none => b
      (b.touched 16 [(a, n)]).answer (.bytes (b.hostBytes a n))

/-- MEMORY_APERTURE_READ (R421). -/
def execMemoryApertureRead (off : Nat) (n : Nat) (errs : Errs) (s : State) : Host.Outcome State Fault Refusal :=
  s.onPort (fun _ => memoryApertureRead off n errs)

/-- Is an address in a DESCRIPTOR or LIST allocation (R93)? -/
def Block.sealed (b : Block) (a : Nat) : Bool :=
  match b.kindAt a with
  | some .descriptor => true
  | some .list => true
  | _ => false

/-- A write of the host through the memory aperture, in order of arrival: pieces that lead nowhere or into a sealed allocation are
dropped. DEDUCED (notes/assumptions/41.md). -/
def memoryApertureWrite (off : Nat) (data : List Byte) (b : Block) : Block :=
  let n := data.length
  if !b.hostOpen ∨ 2 ^ 35 < off + n then b
  else if b.boot.run = .recovery then
    b.pokePhys (recoveryBase + off) (data.take (recoverySize - off))
  else
    let a := b.windowAddr off
    if b.hostWaits a n then b.hostWait a n
    else
      let shut := (pieces 65536 a n).filter (fun p => b.sealed p.1)
      let open_ := (pieces 65536 a n).filter (fun p => !b.sealed p.1)
      let x := open_.foldl (fun y p => y.store p.1 ((data.drop (p.1 - a)).take p.2)) b
      let x := match b.firstUnmapped a n with
        | some u => x.post Ev.HOST_ADDR_UNMAPPED .mod u
        | none => x
      (if shut.isEmpty then x else x.post Ev.DESC_PROTECT .mod 0).answer .done

/-- MEMORY_APERTURE_WRITE (R421, R422). -/
def execMemoryApertureWrite (off : Nat) (data : List Byte) (s : State) : Host.Outcome State Fault Refusal :=
  s.onPort (fun _ => memoryApertureWrite off data)

/-- A register access of the host that is no aligned 32-bit one completes with Unsupported Request and changes nothing. -/
def registerAccessUnaligned (off : BitVec 26) (bytes : Nat) (b : Block) : Block :=
  if !b.host.linkUp ∨ (bytes = 4 ∧ off.toNat % 4 = 0) then b else b.answer .unsupported

/-- REGISTER_ACCESS_UNALIGNED (R419). -/
def execRegisterAccessUnaligned (off : BitVec 26) (bytes : Nat) (s : State) : Host.Outcome State Fault Refusal :=
  s.onPort (fun _ => registerAccessUnaligned off bytes)

/-! ## Where a register write goes -/

/-- A write that follows the register's access codes alone (R18, R19). -/
def Block.plain (b : Block) (o : Origin) (p : Page) (off : Nat) (v : Word) : Block :=
  b.gate o p off .change (fun x => x.writeFields p off v)

/-- A plain write, ignored while a command or an enable holds the register. -/
def Block.plainUnless (b : Block) (busy : Bool) (o : Origin) (p : Page) (off : Nat) (v : Word) : Block :=
  if busy then b else b.plain o p off v

/-- A write that starts no command: it passes the gate and changes nothing. DEDUCED (notes/assumptions/41.md). -/
def Block.noCommand (b : Block) (o : Origin) (p : Page) (off : Nat) : Block := b.gate o p off .none id

/-- Is the instance a stack in service? -/
def Block.stackOn (b : Block) (st : Fin 20) : Bool := (b.stk st.val).inService

/-- The MOD page. -/
def Block.writeMod (b : Block) (o : Origin) (off : Nat) (v : Word) : Block :=
  if off = Reg.MOD_RESET then modReset o v b
  else if off = Reg.MOD_IRQ_SEL then
    b.gate o .mod off .none (fun x =>
      let x := x.writeFields .mod off v
      x.wr .mod Reg.MOD_IRQ_VEC (Sparse.get (fun _ => 0) x.host.irqVec (wfield v 13 0)))
  else if off = Reg.MOD_IRQ_VEC then
    b.gate o .mod off .none (fun x =>
      let x := x.writeFields .mod off v
      { x with host := { x.host with
        irqVec := Sparse.put (fun _ => 0) x.host.irqVec (x.rdN .mod Reg.MOD_IRQ_SEL) (x.rd .mod Reg.MOD_IRQ_VEC) } })
  else if off = Reg.MOD_AUX_CFG then modAuxCfgWrite o v b
  else if off = Reg.MOD_EVT_CFG then modEvtCfgWrite o v b
  else if off = Reg.MOD_EVT_HEAD then modEvtHeadWrite o v b
  else if off = Reg.MOD_EVT_CNT_SEL then modEvtCntSelWrite o v b
  else if off = Reg.MOD_EVT_CNT_CLR then modEvtCntClr o v b
  else if off = Reg.MOD_EVT_BASE_LO ∨ off = Reg.MOD_EVT_BASE_HI then
    b.plainUnless (wbit (b.rd .mod Reg.MOD_EVT_CFG) 31) o .mod off v
  else b.plain o .mod off v

/-- SCH pages. -/
def Block.writeSch (b : Block) (o : Origin) (u : UnitId) (off : Nat) (v : Word) : Block :=
  if off = Reg.SCH_RING_CFG then schRingCfgWrite o u v b
  else if off = Reg.SCH_TRING_TAIL then doorbell o u v b
  else if off = Reg.SCH_CRING_HEAD then schCringHeadWrite o u v b
  else if off = Reg.SCH_IDLE_CLR then schIdleClr o u v b
  else if off < 0x064 then b.plainUnless (wbit (b.rd (.sch u) Reg.SCH_RING_CFG) 24) o (.sch u) off v
  else b.plain o (.sch u) off v

/-- SEM pages. -/
def Block.writeSem (b : Block) (o : Origin) (u : UnitId) (off : Nat) (v : Word) : Block :=
  if off = Reg.SEM_SIG then semSig o u v b
  else if off = Reg.SEM_READ_SEL then semReadSelWrite o u v b
  else match u with
    | .wholeModule =>
      if off = Reg.SEM_MODE then semModeWrite o v b
      else if off = Reg.SEM_XLAT_INV then semXlatInv o v b
      else b.plain o (.sem u) off v
    | .core c => if 0x100 ≤ off ∧ off < 0x200 then semPhysWrite o c ⟨(off - 0x100) / 4 % 64, by omega⟩ v b else b.plain o (.sem u) off v
    | _ => b.plain o (.sem u) off v

/-- The SHM page. -/
def Block.writeShm (b : Block) (o : Origin) (off : Nat) (v : Word) : Block :=
  let busy := wbit (b.rd .shm Reg.SHM_STAT) 31
  if off = Reg.SHM_CMD then
    if wfield v 1 0 = 1 then shmCmdRead o b else if wfield v 1 0 = 2 then shmCmdWrite o b else b.noCommand o .shm off
  else if off = Reg.SHM_LOAD_CTL then shmBulkLoadStart o v b
  else if off = Reg.SHM_REC_CTL then shmRecClear o v b
  else if off = Reg.SHM_REC_STAT then taintedClear o v b
  else if off = Reg.SHM_REC_CNT_CLR then shmRecCntClr o v b
  else if off = Reg.SHM_REC_SEL then
    b.gate o .shm off .none (fun x =>
      let x := x.writeFields .shm off v
      x.wrN .shm Reg.SHM_REC_DATA (let n := Sparse.get (fun _ => 0) x.shm.record (wfield v 16 0)
                                   n / 2 ^ 16 % 2 * 2 ^ 31 + n % 2 ^ 16))
  else if off = Reg.SHM_SEL ∨ (Reg.SHM_DATA 0 ≤ off ∧ off < Reg.SHM_DATA 4) then b.plainUnless busy o .shm off v
  else b.plain o .shm off v

/-- The EXD page. -/
def Block.writeExd (b : Block) (o : Origin) (off : Nat) (v : Word) : Block :=
  if off = Reg.EXD_CMD then
    if wfield v 1 0 = 1 then exdCmdRead o b else if wfield v 1 0 = 2 then exdCmdWrite o b else b.noCommand o .exd off
  else if off = Reg.EXD_BULK_CTL then exdBulkLoadStart o v b
  else if off = Reg.EXD_TALLY_CTL then tallyDumpStart o v b
  else if off = Reg.EXD_CNT_CLR then exdCntClrCounters o v b
  else if off = Reg.EXD_SEL ∨ (Reg.EXD_DATA 0 ≤ off ∧ off < Reg.EXD_DATA 16) then b.plainUnless b.exdBusy o .exd off v
  else b.plain o .exd off v

/-- The module AZN page. -/
def Block.writeAznMod (b : Block) (o : Origin) (off : Nat) (v : Word) : Block :=
  if off = Reg.AZN_PROG_CMD then
    if wfield v 1 0 = 1 then aznProgRead o b
    else if wfield v 1 0 = 2 then aznProgWrite o b
    else if wfield v 1 0 = 3 then aznProgEmpty o b
    else b.noCommand o .aznMod off
  else if off < Reg.AZN_PROG_DATA 16 then b.plainUnless (wbit (b.rd .aznMod Reg.AZN_PROG_STAT) 31) o .aznMod off v
  else b.plain o .aznMod off v

/-- The module HBC page. -/
def Block.writeHbcMod (b : Block) (o : Origin) (off : Nat) (v : Word) : Block :=
  if off = Reg.HBC_ALLOC_CMD then
    if wfield v 1 0 = 1 then hbmAlloc o b else if wfield v 1 0 = 2 then hbmFree o b else b.noCommand o .hbcMod off
  else if off = Reg.HBC_PTE_SEL then hbcPteSelWrite o v b
  else if off = Reg.HBC_RETIRE_SEL then b.gate o .hbcMod off .none (fun x => (x.writeFields .hbcMod off v).showRetire)
  else b.plainUnless (wbit (b.rd .hbcMod Reg.HBC_ALLOC_STAT) 31) o .hbcMod off v

/-- The CXL page. -/
def Block.writeCxl (b : Block) (o : Origin) (off : Nat) (v : Word) : Block :=
  if off = Reg.CXL_PAGING_FRAMES then cxlPagingFramesWrite o v b
  else if off = Reg.CXL_CNT_CLR then cxlCntClr o v b
  else b.plain o .cxl off v

/-- The module LLY page. -/
def Block.writeLlyMod (b : Block) (o : Origin) (off : Nat) (v : Word) : Block :=
  if off = Reg.LLY_MODULE_ID then llyModuleIdWrite o v b
  else if off = Reg.LLY_EPOCH then llyEpochWrite o v b
  else if off = Reg.LLY_RT_DATA then llyRtDataWrite o v b
  else if off = Reg.LLY_RT_LOAD_CTL then llyRtLoadStart o v b
  else if off = Reg.LLY_CNT_CLR then llyCntClr o v b
  else if off = Reg.LLY_RT_SEL then
    if b.rtBusy then b else b.gate o .llyMod off .none (fun x => (x.writeFields .llyMod off v).showRoute)
  else b.plain o .llyMod off v

/-- The PEL page. -/
def Block.writePel (b : Block) (o : Origin) (off : Nat) (v : Word) : Block :=
  if off < 0x060 then pelDomCfgWrite o ⟨(off - 0x040) / 4 % 8, by omega⟩ v b
  else if off = Reg.PEL_GROUP then pelGroupWrite o v b
  else if off = Reg.PEL_CNT_CLR then pelCntClr o v b
  else if 0x200 ≤ off then b.plainUnless (wbit (b.rd .pel Reg.PEL_GROUP) 31) o .pel off v
  else b.plain o .pel off v

/-- The COL page. -/
def Block.writeCol (b : Block) (o : Origin) (off : Nat) (v : Word) : Block :=
  let busy := wbit (b.rd .col Reg.COL_TEAM_STAT) 31
  if off = Reg.COL_TEAM_CMD then
    if busy then b
    else if wfield v 1 0 = 1 then colTeamLoad o b
    else if wfield v 1 0 = 2 then colTeamClear o b
    else b.noCommand o .col off
  else if off = Reg.COL_CNT_CLR then colCntClr o v b
  else if off = Reg.COL_TEAM_SEL then
    if busy then b else b.gate o .col off .none (fun x => (x.writeFields .col off v).showTeam)
  else b.plainUnless busy o .col off v

/-- PWR, AGE and LOG pages. -/
def Block.writePwr (b : Block) (o : Origin) (off : Nat) (v : Word) : Block :=
  if off = Reg.PWR_TEMP then pwrTempClear o v b
  else if off = Reg.PWR_CNT_CLR then pwrCntClr o v b
  else if off = Reg.PWR_TEMP_SEL then b.gate o .pwr off .none (fun x => (x.writeFields .pwr off v).showTemp)
  else b.plain o .pwr off v

/-- The AGE page. -/
def Block.writeAge (b : Block) (o : Origin) (off : Nat) (v : Word) : Block :=
  if off = Reg.AGE_CNT_CLR then ageCntClr o v b
  else if off = Reg.AGE_SEL ∨ off = Reg.AGE_VSEL then b.gate o .age off .change (fun x => (x.writeFields .age off v).showAge)
  else b.plain o .age off v

/-- The LOG page. -/
def Block.writeLog (b : Block) (o : Origin) (off : Nat) (v : Word) : Block :=
  if off = Reg.LOG_ACK then logAckWrite o false v b
  else if off = Reg.LOG_ACK + 4 then logAckWrite o true v b
  else if off = Reg.LOG_RD_SEQ then logRdSeqWrite o false v b
  else if off = Reg.LOG_RD_SEQ + 4 then logRdSeqWrite o true v b
  else if off = Reg.LOG_CNT_CLR then logCntClr o v b
  else b.plain o .log off v

/-- An MBX page: arguments and buffer keep their values while a command runs (R427). -/
def Block.writeMbx (b : Block) (o : Origin) (p : Fin 2) (off : Nat) (v : Word) : Block :=
  if off = Reg.MBX_CMD then b.mbxCmdWrite o p v
  else if off = Reg.MBX_CNT_CLR then mbxCntClr o p v b
  else if off = Reg.MBX_STAT then b.plain o (.mbx p) off v
  else b.plainUnless b.mbx.run.isSome o (.mbx p) off v

/-- A TILE page. -/
def Block.writeTile (b : Block) (o : Origin) (t : Fin 16) (off : Nat) (v : Word) : Block :=
  let p : Page := .tile t
  if off < 0x060 then gangDefWrite o t ⟨(off - 0x040) / 4 % 8, by omega⟩ v b
  else if off = Reg.TILE_VAL_CTL then validatorStart o t v b
  else if 0x060 ≤ off ∧ off < 0x0A0 then b.plainUnless (wbit (b.rd p Reg.TILE_VAL_STAT) 31) o p off v
  else if off = Reg.TILE_ALLOC_CMD then
    if wfield v 1 0 = 1 then tileAlloc o t b else if wfield v 1 0 = 2 then tileFree o t b else b.noCommand o p off
  else if 0x0A0 ≤ off ∧ off < 0x0C0 then b.plainUnless (wbit (b.rd p Reg.TILE_ALLOC_STAT) 31) o p off v
  else if off = Reg.TILE_OC_CTL then
    b.gate o p off .change (fun x =>
      let x := x.writeFields p off v
      if wbit v 0 then x else x.ocFlush t.val)
  else if off = Reg.TILE_OC_INV then tileOcInv o t v b
  else if off = Reg.TILE_OC_CNT_CLR then tileOcCntClr o t v b
  else if off = Reg.TILE_SYNC_SEL then tileSyncSelWrite o t v b
  else if off = Reg.TILE_LINK_CNT_CLR then tileLinkCntClr o t v b
  else if off = Reg.TILE_SRAM_CNT_CLR then tileSramCntClr o t v b
  else b.plain o p off v

/-- Pages of cores, stacks and spokes. DEDUCED (notes/assumptions/39.md). -/
def Block.writeInst (b : Block) (o : Origin) (p : Page) (off : Nat) (v : Word) : Block :=
  match p with
  | .darr c => if off = Reg.DARR_CNT_CLR then darrCntClr o c v b else b.plain o p off v
  | .drn c => if off = Reg.DRN_SR_SEED_HI then drnSrSeedHiWrite o c v b
              else if off = Reg.DRN_CNT_CLR then drnCntClr o c v b else b.plain o p off v
  | .drl c => if off = Reg.DRL_PRED then drlPredWrite o c v b
              else if off = Reg.DRL_CNT_CLR then drlCntClr o c v b else b.plain o p off v
  | .fet c => if off = Reg.FET_CNT_CLR then fetCntClr o c v b else b.plain o p off v
  | .hbc st => if off = Reg.HBC_CNT_CLR then hbcCntClr o st v b
               else if off = Reg.HBC_LINK_CNT_CLR then hbcLinkCntClr o st v b else b.plain o p off v
  | .azn st => if off = Reg.AZN_SR_SEED_HI then aznSrSeedHiWrite o st v b
               else if off = Reg.AZN_CNT_CLR then aznCntClr o st v b else b.plain o p off v
  | .spoke k => if off = Reg.LLY_SPOKE_CFG then llySpokeCfgWrite o k v b
                else if off = Reg.LLY_SPOKE_CNT_CLR then llySpokeCntClr o k v b else b.plain o p off v
  | _ => b.plain o p off v

/-- The words of the common header (R469, R470). -/
def Block.writeHeader (b : Block) (o : Origin) (p : Page) (off : Nat) (v : Word) : Block :=
  if off = Reg.INT_STAT ∨ off = Reg.INT_EN then b.gate o p off .change (fun x => (x.writeFields p off v).settleLine p)
  else if off = Reg.INT_FORCE then intForceWrite o p v b
  else if off = Reg.LOCK then (b.lockGated o p v).1
  else b

/-- A write at a page offset. -/
def Block.writePage (b : Block) (o : Origin) (p : Page) (off : Nat) (v : Word) : Block :=
  if off < 0x040 then b.writeHeader o p off v
  else if (regAt? p off).isNone then b
  else match p with
    | .mod => b.writeMod o off v
    | .sch u => b.writeSch o u off v
    | .sem u => b.writeSem o u off v
    | .shm => b.writeShm o off v
    | .exd => b.writeExd o off v
    | .aznMod => b.writeAznMod o off v
    | .hbcMod => b.writeHbcMod o off v
    | .cxl => b.writeCxl o off v
    | .llyMod => b.writeLlyMod o off v
    | .pel => b.writePel o off v
    | .col => b.writeCol o off v
    | .pwr => b.writePwr o off v
    | .age => b.writeAge o off v
    | .log => b.writeLog o off v
    | .mbx i => b.writeMbx o i off v
    | .tile t => b.writeTile o t off v
    | p => b.writeInst o p off v

/-- A write of the MSI-X table, in page 254; the pending bits of page 255 are read-only (R471). -/
def Block.writeMsix (b : Block) (k : Nat) (v : Word) : Block :=
  if k % 4 = 3 then b.vectorCtl (k / 4) v
  else { b with host := { b.host with msix := Sparse.put msixReset b.host.msix k v } }

/-- A register write at an aperture offset: a row of its own where the register has one, its access codes otherwise. An offset that is
not aligned changes nothing, and one that no page occupies ignores the write (R419). -/
def Block.regWrite (b : Block) (o : Origin) (k : Nat) (v : Word) : Block :=
  if k % 4 ≠ 0 then b
  else if k / 4096 = 254 then b.writeMsix (k % 4096 / 4) v
  else match pageAt? (k / 4096) with
    | some p => b.writePage o p (k % 4096) v
    | none => b

/-- REGISTER_WRITE (R18 to R20, R419, R443, R474). -/
def execRegisterWrite (o : Origin) (off : BitVec 26) (v : Word) (s : State) : Host.Outcome State Fault Refusal :=
  s.onWrite o (fun b => b.regWrite o off.toNat v)

/-! ## What a read returns -/

/-- CAP of a page: FUSED and what a core's array and derailleur can do (R138, R196). DESIGN CHOICE (notes/assumptions/7.md). -/
def Block.capWord (b : Block) (p : Page) : Word :=
  match p with
  | .core c => if b.coreOn c then 0 else 0x80000000
  | .darr c => if b.coreOn c then 0x1F else 0x80000000
  | .drl c => if b.coreOn c then 0x1F else 0x80000000
  | _ => 0

/-- Does a page's instance show only zeros and reset values now: a core fused off, a gang or group not enabled? -/
def Block.shadowed (b : Block) (p : Page) (off : Nat) : Bool := !b.present p && (decide (0x040 ≤ off) || decide (off = Reg.STAT))

/-- Does a register hold a 64-bit count that reads through the latch (R13)? Two rows of the tables hold an address instead.
DEDUCED (notes/assumptions/39.md). -/
def isCounter (r : RegDef) : Bool := r.wide && decide (r.acc = .ro) && r.name != "HBC_ERR_ADDR" && r.name != "TILE_SRAM_ERR_ADDR"

/-- What a register of an absent instance shows (R138, R169, R196, R256; chapter "Register pages", pages that are absent). -/
def absentWord (p : Page) (off : Nat) : Word :=
  match p with
  | .sch _ => 0
  | .sem _ => 0
  | _ => regReset (addrOf p off)

/-- Does a stack page's word read 0 because the stack is out of service (R306)? -/
def Block.outOfServiceZero (b : Block) (p : Page) (off : Nat) : Bool :=
  let zero := fun (st : Fin 20) => !b.stackOn st && (decide (off = Reg.STAT) || (match regAt? p off with
    | some r => isCounter r || r.name == "HBC_FRAMES"
    | none => false))
  match p with
  | .hbc st => zero st
  | .azn st => zero st
  | _ => false

/-- The word that a read of a page offset returns now, before any latched high word. DESIGN CHOICE (notes/assumptions/7.md). -/
def Block.pageWord (b : Block) (p : Page) (off : Nat) : Word :=
  if off = Reg.CAP then b.capWord p
  else if b.shadowed p off then absentWord p off
  else if b.outOfServiceZero p off then 0
  else b.rd p off

/-- A read of an aperture offset: the word, and the module after it. A read of the low word of a 64-bit counter latches its high word,
which the following read of the high word returns (R13); SEM_READ_VAL reads its semaphore (R490).
DESIGN CHOICE (notes/assumptions/7.md). -/
def Block.readReg (b : Block) (k : Nat) : Word × Block :=
  if k / 4096 = 254 then (Sparse.get msixReset b.host.msix (k % 4096 / 4), b)
  else if k / 4096 = 255 then
    (BitVec.ofNat 32 ((b.host.msixPend.filter (fun v => v / 32 == k % 4096 / 4)).map (fun v => 2 ^ (v % 32))).sum, b)
  else match pageAt? (k / 4096) with
    | none => (0, b)
    | some p =>
      let off := k % 4096
      match p, regAt? p off with
      | _, none => (0, b)
      | .sem u, some r =>
        if r.off = Reg.SEM_READ_VAL ∧ b.present p then let q := b.semRead u; (BitVec.ofNat 32 q.1, q.2)
        else (b.pageWord p off, b)
      | p, some r =>
        if !isCounter r then (b.pageWord p off, b)
        else if (off - r.off) % r.stride = 0 then
          (b.pageWord p off, { b with latch := Sparse.insert (k + 4) (b.pageWord p (off + 4)) (Sparse.erase (k + 4) b.latch) })
        else match b.latch.find? (fun e => e.1 == k) with
          | some e => (e.2, { b with latch := Sparse.erase k b.latch })
          | none => (b.pageWord p off, b)

end Sys2Proof.Machine
end

