-- ==== Sys2Proof/Machine/Bus.lean ====
section
/-! DEFINITION. The management bus (R449 to R452): private transfers and the common commands. -/

namespace Sys2Proof.Machine

open Sys2Proof

/-! ## Private transfers (R450) -/

/-- Status byte OK. -/
abbrev Status.ok : Nat := 0
/-- A refused MBX_CMD. -/
abbrev Status.busy : Nat := 1
/-- A write ignored under write locking, STRICT or R425. -/
abbrev Status.refused : Nat := 2
/-- A malformed transfer. -/
abbrev Status.badOffset : Nat := 3

/-- Does the target answer a transfer: the management block up, an address assigned (R449, R451)? -/
def Block.busUp (b : Block) : Bool := b.cmbUp && b.i3c.dyn.isSome

/-- The bytes that the next read returns. -/
def Block.busAnswer (b : Block) (l : List Byte) : Block := { b with i3c := { b.i3c with answer := l } }

/-- Is an offset one that a transfer may name: aligned, in the aperture (R419)? -/
def offsetOk (off : Nat) : Bool := decide (off % 4 = 0) && decide (off < 2 ^ 26)

/-- Status and word of a selected register. DESIGN CHOICE (notes/assumptions/7.md). DEDUCED (notes/assumptions/26.md). -/
def i3cSelectRead (off : Nat) (b : Block) : Block :=
  if !b.busUp then b
  else if !offsetOk off then b.busAnswer (toBytes 1 Status.badOffset ++ toBytes 4 0)
  else
    let q := b.readReg off
    q.2.busAnswer (toBytes 1 Status.ok ++ toBytes 4 q.1.toNat)

/-- I3C_SELECT_READ (R450). -/
def execI3cSelectRead (off : Nat) (s : State) : Host.Outcome State Fault Refusal := s.onPort (fun _ => i3cSelectRead off)

/-- Would a write of the management bus be ignored for want of room in a full log under STRICT (R448)? -/
def Block.strictStops (b : Block) (p : Page) (off : Nat) (v : Word) : Bool :=
  b.strictFull && loggedReg p off &&
    decide (b.log.dropped < ((b.wrBit .log Reg.LOG_CTL 0 false).regWrite .mgmt (addrOf p off) v).log.dropped)

/-- The status byte of a write of the management bus. -/
def Block.writeStatus (b : Block) (off : Nat) (v : Word) : Nat :=
  match pageAt? (off / 4096) with
  | none => Status.ok
  | some p =>
    let o := off % 4096
    if !originFits .mgmt p then Status.refused
    else if o = Reg.LOCK then (if (b.lockGated .mgmt p v).2 then Status.refused else Status.ok)
    else if (match p with | .mbx _ => decide (o = Reg.MBX_CMD) && b.mbx.run.isSome | _ => false) then Status.busy
    else if (b.writable p o && loggedReg p o && b.locked .mgmt p) || b.strictStops p o v then Status.refused
    else Status.ok

/-- Write a register and answer the status byte. DEDUCED (notes/assumptions/26.md). -/
def i3cRegisterWrite (off : Nat) (v : Word) (b : Block) : Block :=
  if !b.busUp then b
  else if !offsetOk off then b.busAnswer (toBytes 1 Status.badOffset)
  else (b.regWrite .mgmt off v).busAnswer (toBytes 1 (b.writeStatus off v))

/-- I3C_REGISTER_WRITE (R425, R450). -/
def execI3cRegisterWrite (off : Nat) (v : Word) (s : State) : Host.Outcome State Fault Refusal :=
  s.onPort (fun _ => i3cRegisterWrite off v)

/-! ## Common commands (R449) -/

/-- A change of the bus state, while the management block is up. -/
def Block.onBus (b : Block) (f : I3cSt → I3cSt) : Block := if b.cmbUp then { b with i3c := f b.i3c } else b

/-- An address that a target may take: 7 bits. -/
def busAddr (a : Nat) : Nat := a % 128

/-- ENTDAA: a target without an address takes the one assigned. -/
def entdaa (a : Nat) (b : Block) : Block := b.onBus (fun x => if x.dyn.isNone then { x with dyn := some (busAddr a) } else x)

/-- ENTDAA (R449). -/
def execEntdaa (a : Nat) (s : State) : Host.Outcome State Fault Refusal := s.onPort (fun _ => entdaa a)

/-- The static address: 0x30 + ADDR_SEL (chapter "Module connectors", sideband pins). -/
def Block.staticAddr (b : Block) : Nat := 0x30 + b.pins.addrSel % 8

/-- SETDASA: the static address, sent to this target, becomes the dynamic address given. -/
def setdasa (a : Nat) (b : Block) : Block := b.onBus (fun x => if x.dyn.isNone then { x with dyn := some (busAddr a) } else x)

/-- SETDASA (R449). -/
def execSetdasa (a : Nat) (s : State) : Host.Outcome State Fault Refusal := s.onPort (fun _ => setdasa a)

/-- SETNEWDA: a target that has an address takes another. -/
def setnewda (a : Nat) (b : Block) : Block := b.onBus (fun x => if x.dyn.isSome then { x with dyn := some (busAddr a) } else x)

/-- SETNEWDA (R449). -/
def execSetnewda (a : Nat) (s : State) : Host.Outcome State Fault Refusal := s.onPort (fun _ => setnewda a)

/-- RSTDAA: the address is given up. -/
def rstdaa (b : Block) : Block := b.onBus (fun x => { x with dyn := none })

/-- RSTDAA (R449). -/
def execRstdaa (s : State) : Host.Outcome State Fault Refusal := s.onPort (fun _ => rstdaa)

/-- ENEC: bit 0 of the event byte enables in-band interrupts. -/
def enec (bits : Nat) (b : Block) : Block := b.onBus (fun x => if bits.testBit 0 then { x with ibiEnable := true } else x)

/-- ENEC (R449, R452). -/
def execEnec (bits : Nat) (s : State) : Host.Outcome State Fault Refusal := s.onPort (fun _ => enec bits)

/-- DISEC: bit 0 of the event byte disables in-band interrupts. -/
def disec (bits : Nat) (b : Block) : Block := b.onBus (fun x => if bits.testBit 0 then { x with ibiEnable := false } else x)

/-- DISEC (R449, R452). -/
def execDisec (bits : Nat) (s : State) : Host.Outcome State Fault Refusal := s.onPort (fun _ => disec bits)

/-- A directed read, answered by a target that has an address. -/
def Block.busGet (b : Block) (l : List Byte) : Block := if b.busUp then b.busAnswer l else b

/-- The provisional identifier, highest byte first: manufacturer, fixed type, part equal to MOD_GRADE.GRADE, the rest Borsarvo's.
DEDUCED (notes/assumptions/26.md). -/
def Block.provisionalId (b : Block) : List Byte :=
  (toBytes 6 (Config.vendorId 2 % 2 ^ 15 * 2 ^ 33 + b.rdN .mod Reg.MOD_GRADE % 2 ^ 8 * 2 ^ 16 + Config.i3cConst 4 % 2 ^ 16)).reverse

/-- GETPID. -/
def getpid (b : Block) : Block := b.busGet b.provisionalId

/-- GETPID (R449). -/
def execGetpid (s : State) : Host.Outcome State Fault Refusal := s.onPort (fun _ => getpid)

/-- GETBCR. -/
def getbcr (b : Block) : Block := b.busGet (toBytes 1 (Config.i3cConst 0))

/-- GETBCR (R449). -/
def execGetbcr (s : State) : Host.Outcome State Fault Refusal := s.onPort (fun _ => getbcr)

/-- GETDCR. -/
def getdcr (b : Block) : Block := b.busGet (toBytes 1 (Config.i3cConst 1))

/-- GETDCR (R449). -/
def execGetdcr (s : State) : Host.Outcome State Fault Refusal := s.onPort (fun _ => getdcr)

/-- GETSTATUS: the overflow of the interrupt queue in bit 0 of the first byte, the interrupts pending, at most 15, in the second; the
overflow has been told then. DEDUCED (notes/assumptions/26.md). -/
def getstatus (b : Block) : Block :=
  if b.busUp then
    let l := toBytes 1 (b2n b.i3c.overflow) ++ toBytes 1 (min 15 b.i3c.ibis.length)
    { b.busAnswer l with i3c := { (b.busAnswer l).i3c with overflow := false } }
  else b

/-- GETSTATUS (R449, R452). -/
def execGetstatus (s : State) : Host.Outcome State Fault Refusal := s.onPort (fun _ => getstatus)

/-- GETMWL. -/
def getmwl (b : Block) : Block := b.busGet ((toBytes 2 (Config.i3cConst 2)).reverse)

/-- GETMWL (R449). -/
def execGetmwl (s : State) : Host.Outcome State Fault Refusal := s.onPort (fun _ => getmwl)

/-- GETMRL. -/
def getmrl (b : Block) : Block := b.busGet ((toBytes 2 (Config.i3cConst 3)).reverse)

/-- GETMRL (R449). -/
def execGetmrl (s : State) : Host.Outcome State Fault Refusal := s.onPort (fun _ => getmrl)

/-- RSTACT: the action that the next target reset pattern takes. -/
def rstact (a : Nat) (b : Block) : Block := b.onBus (fun x => { x with rstAction := a % 256 })

/-- RSTACT (R449). -/
def execRstact (a : Nat) (s : State) : Host.Outcome State Fault Refusal := s.onPort (fun _ => rstact a)

end Sys2Proof.Machine
end

