-- ==== Sys2Proof/Machine/Filler.lean ====
section
/-! DEFINITION. Filler and the grant interval (R390, R395 to R398). -/

namespace Sys2Proof.Machine

open Sys2Proof

/-- Start PATTERN or PATTERN_PORT on an array, or keep it (R397, R398): PATTERN_PORT while PORT_FILL is 1 and the window is free. The pattern
tile takes the ACTIVE registers, a retained tile is dropped (R124), and the generator ends where it ends.
DESIGN CHOICE (notes/assumptions/23.md). -/
def Block.startPattern (b : Block) (c : Fin 128) : Block :=
  let w := b.rd (.drl c) Reg.DRL_SCRATCH
  let had := Sparse.get (fun _ => 0) b.pwr.filler c.val
  let port := wbit (b.eff .pwr Reg.PWR_FLOOR) 8 && (wfield w 1 0 == 0 || had == 3)
  let f := b.fresh
  let b := f.2
  let b := (b.setCore c.val { b.core c.val with active := none, retained := none, pattern := BitVec.ofNat 128 f.1 }).showTiles c false
  let b := { b with pwr := { b.pwr with filler := Sparse.put (fun _ => 0) b.pwr.filler c.val (if port then 3 else 2) } }
  if port then (b.wr (.drl c) Reg.DRL_SCRATCH (wset w 1 0 2)).spoilWindow c else b

/-- The oldest ready DEFER task of an array, which cadence takes as filler past tasks that are not ready (R51, R397). -/
def Block.deferred (b : Block) (c : Fin 128) : Option TaskSt :=
  if !b.net.down.isEmpty ∨ b.fenced ∨ !b.resourceOpen c 0 then none
  else (b.waiting (.core c) 0).find? (fun t => t.task.defer && !t.isEmpty && b.startable (.core c) t)

/-- Fill an idle array, in the order of R397: a DEFER task, which runs to its end as any task, or else the pattern generator. -/
def Block.startFiller (b : Block) (c : Fin 128) : Block :=
  match b.deferred c with
  | some t => b.launch c 0 t
  | none => b.startPattern c

/-- Is an array task of a core held for slew (R395)? -/
def Block.slewWaits (b : Block) (c : Fin 128) : Bool :=
  (b.unit (.core c)).board.any (fun t => decide (t.phase = .admitted) && t.slewHeld)

/-- Average input power in W over the 10 µs before the last 10 µs. -/
def Block.avgBefore (b : Block) : Nat :=
  let l := b.pwr.samples.filter (fun (s : Nat × Nat) => decide (b.now < s.1 + 10000 ∧ s.1 + 5000 ≤ b.now))
  (l.map (fun s => s.2)).sum / max 1 l.length / 1000

/-- Did the input power fall faster than SLEW over the last 10 µs, with neither a current nor a thermal brake in force (R395)?
DESIGN CHOICE (notes/assumptions/23.md). -/
def Block.fallsFast (b : Block) : Bool := !b.sharpBrake && decide (b.avgW 5000 + b.slewLimit / 1000 < b.avgBefore)

/-- Does cadence fill idle arrays: the floor is held (R396) and no current brake overrides it (R401), or a fall is limited (R395)? -/
def Block.fills (b : Block) : Bool := (b.pwr.floorSince.isSome && !b.pwr.floorDone && b.curLimit.isNone) || b.fallsFast

/-- Set the filler (R395 to R397): on a number of idle arrays that cadence chooses while it fills any, on none otherwise. An array whose task
is held for slew keeps what it runs. -/
def Block.setFiller (b : Block) : Block :=
  let idle := (List.finRange 128).filter (fun c => b.coreOn c && b.arrayFree c && !b.arrayClaimed c && !b.slewWaits c)
  let runs := fun (c : Fin 128) => decide (0 < Sparse.get (fun _ => 0) b.pwr.filler c.val)
  if !b.fills then (idle.filter runs).foldl (fun x c => x.stopFiller c) b
  else
    let n := b.fresh
    let d := n.2.fresh
    let b := d.2.wrField .pwr Reg.PWR_FLOOR 15 12 (d.1 % 16)
    let k := n.1 % (idle.length + 1)
    let b := (idle.take k).foldl (fun x c => x.startFiller c) b
    ((idle.drop k).filter runs).foldl (fun x c => x.stopFiller c) b

/-- A grant interval (R390). `claims` are the measured draws of the dies as PWR_TEMP_SEL numbers them, 38 the CMB, in mW; for a
stack what its waiting requests need. -/
def grantInterval (claims : List (Nat × Nat)) (b : Block) : Block :=
  let b := b.takeEff
  let a := b.allowance
  let b := a.2
  let left := a.1 - (claimOf claims 38 + claimOf claims 16 + claimOf claims 17)
  let lim := limited claims left b.bulkOrder
  let b := { b with pwr := { b.pwr with windowStacks := lim, lent := [], rise := 0 } }
  let left := left - ((List.range 20).map (fun s => claimOf claims (18 + s))).sum
  let total := ((List.range 16).map (fun t => (b.coresOf t).length)).sum
  let base := fun (t : Nat) => left * (b.coresOf t).length / max 1 total
  let b := (List.range 16).foldl (fun (x : Block) t =>
    let r := x.lendFrom claims base t
    { r.2 with pwr := { r.2.pwr with lent := r.2.pwr.lent ++ r.1 } }) b
  let b := b.showGrants claims base
  let b := (List.range 16).foldl (fun x t => x.liftWindow t) b
  let prof := b.pwr.profile
  let b := if wbit (b.eff .pwr Reg.PWR_CAD_CFG) 31 then
      { b with pwr := { b.pwr with profile := { prof with
        stepTile := (List.range 16).foldl (fun m t =>
          let i := t * 64 + b.slotNow
          Sparse.put (fun _ => 0) m i (Sparse.get (fun _ => 0) m i + 10 * claimOf claims t)) prof.stepTile } } }
    else b
  b.setFiller.applyBrakes

/-- GRANT_INTERVAL (R390). -/
def execGrantInterval (claims : List (Nat × Nat)) (s : State) : Host.Outcome State Fault Refusal := s.onBlock (grantInterval claims)

/-- The floor has been held for HOLD_MS: the power is let fall (R396). -/
def floorHoldExpire (b : Block) : Block :=
  match b.pwr.floorSince with
  | none => b
  | some t =>
    if b.pwr.floorDone ∨ b.now < t + msToMclk (wfield (b.eff .pwr Reg.PWR_FLOOR) 23 16) then b
    else { b with pwr := { b.pwr with floorDone := true } }.setFiller

/-- FLOOR_HOLD_EXPIRE (R396). -/
def execFloorHoldExpire (s : State) : Host.Outcome State Fault Refusal := s.onBlock floorHoldExpire


end Sys2Proof.Machine
end

