-- ==== Sys2Proof/Machine/Dispatch.lean ====
section
/-! DEFINITION. What each command does to everything but the queue: one arm for each constructor. -/

namespace Sys2Proof.Machine

open Sys2Proof

/-- The effect of a command. -/
def exec (i : Instr) (s : State) : Host.Outcome State Fault Refusal :=
  match i with
  | .registerWrite o off v => Sys2Proof.Machine.execRegisterWrite o off v s
  | .registerAccessUnaligned off bytes => Sys2Proof.Machine.execRegisterAccessUnaligned off bytes s
  | .modEvtCfgWrite o v => Sys2Proof.Machine.execModEvtCfgWrite o v s
  | .modEvtHeadWrite o v => Sys2Proof.Machine.execModEvtHeadWrite o v s
  | .modEvtCntSelWrite o v => Sys2Proof.Machine.execModEvtCntSelWrite o v s
  | .modEvtCntClr o v => Sys2Proof.Machine.execModEvtCntClr o v s
  | .intForceWrite o p v => Sys2Proof.Machine.execIntForceWrite o p v s
  | .interruptLineRise p => Sys2Proof.Machine.execInterruptLineRise p s
  | .lockWrite o p v => Sys2Proof.Machine.execLockWrite o p v s
  | .doorbell o u v => Sys2Proof.Machine.execDoorbell o u v s
  | .schCringHeadWrite o u v => Sys2Proof.Machine.execSchCringHeadWrite o u v s
  | .schRingCfgWrite o u v => Sys2Proof.Machine.execSchRingCfgWrite o u v s
  | .schIdleClr o u v => Sys2Proof.Machine.execSchIdleClr o u v s
  | .taskAdmit u offer => Sys2Proof.Machine.execTaskAdmit u offer s
  | .taskStart u r unspent => Sys2Proof.Machine.execTaskStart u r unspent s
  | .taskComplete u place cycles => Sys2Proof.Machine.execTaskComplete u place cycles s
  | .shareComplete u place remote counts => Sys2Proof.Machine.execShareComplete u place remote counts s
  | .cringResume u => Sys2Proof.Machine.execCringResume u s
  | .budgetExceeded u place cycles => Sys2Proof.Machine.execBudgetExceeded u place cycles s
  | .gangDefWrite o t g v => Sys2Proof.Machine.execGangDefWrite o t g v s
  | .shadowGrant t => Sys2Proof.Machine.execShadowGrant t s
  | .specDecide u place told => Sys2Proof.Machine.execSpecDecide u place told s
  | .specCommit u place => Sys2Proof.Machine.execSpecCommit u place s
  | .specDiscard u place => Sys2Proof.Machine.execSpecDiscard u place s
  | .semaphoreSignal c p inc => Sys2Proof.Machine.execSemaphoreSignal c p inc s
  | .semPhysWrite o c p v => Sys2Proof.Machine.execSemPhysWrite o c p v s
  | .semSig o u v => Sys2Proof.Machine.execSemSig o u v s
  | .semReadSelWrite o u v => Sys2Proof.Machine.execSemReadSelWrite o u v s
  | .semModeWrite o v => Sys2Proof.Machine.execSemModeWrite o v s
  | .semXlatInv o v => Sys2Proof.Machine.execSemXlatInv o v s
  | .storeBlocking c => Sys2Proof.Machine.execStoreBlocking c s
  | .storeNonblocking c => Sys2Proof.Machine.execStoreNonblocking c s
  | .loadBlocking c => Sys2Proof.Machine.execLoadBlocking c s
  | .loadNonblocking c => Sys2Proof.Machine.execLoadNonblocking c s
  | .peek c => Sys2Proof.Machine.execPeek c s
  | .clear c => Sys2Proof.Machine.execClear c s
  | .syncBlockedResume t line cycles => Sys2Proof.Machine.execSyncBlockedResume t line cycles s
  | .tileSyncSelWrite o t v => Sys2Proof.Machine.execTileSyncSelWrite o t v s
  | .validatorStart o t v => Sys2Proof.Machine.execValidatorStart o t v s
  | .validatorDone t => Sys2Proof.Machine.execValidatorDone t s
  | .shmCmdRead o => Sys2Proof.Machine.execShmCmdRead o s
  | .shmCmdWrite o => Sys2Proof.Machine.execShmCmdWrite o s
  | .shmBulkLoadStart o v => Sys2Proof.Machine.execShmBulkLoadStart o v s
  | .globalBlockConsume c port => Sys2Proof.Machine.execGlobalBlockConsume c port s
  | .shmRecClear o v => Sys2Proof.Machine.execShmRecClear o v s
  | .taintedClear o v => Sys2Proof.Machine.execTaintedClear o v s
  | .shmRecCntClr o v => Sys2Proof.Machine.execShmRecCntClr o v s
  | .denseLoad c cycles errs => Sys2Proof.Machine.execDenseLoad c cycles errs s
  | .denseStream c cycles feedDry drainFull eccCorr errs words => Sys2Proof.Machine.execDenseStream c cycles feedDry drainFull eccCorr errs words s
  | .denseDrain c cycles eccCorr errs words => Sys2Proof.Machine.execDenseDrain c cycles eccCorr errs words s
  | .darrCntClr o c v => Sys2Proof.Machine.execDarrCntClr o c v s
  | .drnSrSeedHiWrite o c v => Sys2Proof.Machine.execDrnSrSeedHiWrite o c v s
  | .drnCntClr o c v => Sys2Proof.Machine.execDrnCntClr o c v s
  | .gather c cycles lanes errs => Sys2Proof.Machine.execGather c cycles lanes errs s
  | .scatterAdd c cycles lanes errs => Sys2Proof.Machine.execScatterAdd c cycles lanes errs s
  | .scatterSet c cycles lanes errs => Sys2Proof.Machine.execScatterSet c cycles lanes errs s
  | .spmmLoad c cycles errs => Sys2Proof.Machine.execSpmmLoad c cycles errs s
  | .spmmStream c cycles errs => Sys2Proof.Machine.execSpmmStream c cycles errs s
  | .spmmFlush c cycles errs => Sys2Proof.Machine.execSpmmFlush c cycles errs s
  | .select c cycles lanes errs => Sys2Proof.Machine.execSelect c cycles lanes errs s
  | .fallbackPass c cycles eccCorr errs words => Sys2Proof.Machine.execFallbackPass c cycles eccCorr errs words s
  | .scratchYield c => Sys2Proof.Machine.execScratchYield c s
  | .sparseCapacity c => Sys2Proof.Machine.execSparseCapacity c s
  | .drlCntClr o c v => Sys2Proof.Machine.execDrlCntClr o c v s
  | .drlPredWrite o c v => Sys2Proof.Machine.execDrlPredWrite o c v s
  | .route c cycles lanes errs => Sys2Proof.Machine.execRoute c cycles lanes errs s
  | .combine c cycles lanes errs => Sys2Proof.Machine.execCombine c cycles lanes errs s
  | .dispatchCapacity c => Sys2Proof.Machine.execDispatchCapacity c s
  | .exdCmdRead o => Sys2Proof.Machine.execExdCmdRead o s
  | .exdCmdWrite o => Sys2Proof.Machine.execExdCmdWrite o s
  | .exdBulkLoadStart o v => Sys2Proof.Machine.execExdBulkLoadStart o v s
  | .tallyDumpStart o v => Sys2Proof.Machine.execTallyDumpStart o v s
  | .exdCntClrCounters o v => Sys2Proof.Machine.execExdCntClrCounters o v s
  | .exdCntClrTallies o v => Sys2Proof.Machine.execExdCntClrTallies o v s
  | .sramCeWriteback t a => Sys2Proof.Machine.execSramCeWriteback t a s
  | .tileSramCntClr o t v => Sys2Proof.Machine.execTileSramCntClr o t v s
  | .tileAlloc o t => Sys2Proof.Machine.execTileAlloc o t s
  | .tileFree o t => Sys2Proof.Machine.execTileFree o t s
  | .slabReturn t base => Sys2Proof.Machine.execSlabReturn t base s
  | .tileOcInv o t v => Sys2Proof.Machine.execTileOcInv o t v s
  | .tileOcCntClr o t v => Sys2Proof.Machine.execTileOcCntClr o t v s
  | .prefetchIssue c port => Sys2Proof.Machine.execPrefetchIssue c port s
  | .demandFetch c port uncorr => Sys2Proof.Machine.execDemandFetch c port uncorr s
  | .fetchDataArrive c port errs => Sys2Proof.Machine.execFetchDataArrive c port errs s
  | .deadlineLate c port => Sys2Proof.Machine.execDeadlineLate c port s
  | .bulkAgeLate c port => Sys2Proof.Machine.execBulkAgeLate c port s
  | .trackedBlockConsume c port => Sys2Proof.Machine.execTrackedBlockConsume c port s
  | .copyPlain c cycles errs => Sys2Proof.Machine.execCopyPlain c cycles errs s
  | .copyTranspose c cycles errs => Sys2Proof.Machine.execCopyTranspose c cycles errs s
  | .copyPermute c cycles errs => Sys2Proof.Machine.execCopyPermute c cycles errs s
  | .inPlaceTranspose c cycles errs => Sys2Proof.Machine.execInPlaceTranspose c cycles errs s
  | .chain c => Sys2Proof.Machine.execChain c s
  | .overlapPrologue c => Sys2Proof.Machine.execOverlapPrologue c s
  | .fetCntClr o c v => Sys2Proof.Machine.execFetCntClr o c v s
  | .updateDispatch u place => Sys2Proof.Machine.execUpdateDispatch u place s
  | .updateShare st => Sys2Proof.Machine.execUpdateShare st s
  | .updateEntry st cycles => Sys2Proof.Machine.execUpdateEntry st cycles s
  | .load st errs => Sys2Proof.Machine.execLoad st errs s
  | .store st => Sys2Proof.Machine.execStore st s
  | .add st => Sys2Proof.Machine.execAdd st s
  | .sub st => Sys2Proof.Machine.execSub st s
  | .mul st => Sys2Proof.Machine.execMul st s
  | .fma st => Sys2Proof.Machine.execFma st s
  | .div st => Sys2Proof.Machine.execDiv st s
  | .sqrt st => Sys2Proof.Machine.execSqrt st s
  | .rsqrt st => Sys2Proof.Machine.execRsqrt st s
  | .max st => Sys2Proof.Machine.execMax st s
  | .min st => Sys2Proof.Machine.execMin st s
  | .abs st => Sys2Proof.Machine.execAbs st s
  | .neg st => Sys2Proof.Machine.execNeg st s
  | .sign st => Sys2Proof.Machine.execSign st s
  | .qdq st => Sys2Proof.Machine.execQdq st s
  | .adds st => Sys2Proof.Machine.execAdds st s
  | .muls st => Sys2Proof.Machine.execMuls st s
  | .fmas st => Sys2Proof.Machine.execFmas st s
  | .lerps st => Sys2Proof.Machine.execLerps st s
  | .clamps st => Sys2Proof.Machine.execClamps st s
  | .bsum st => Sys2Proof.Machine.execBsum st s
  | .bamax st => Sys2Proof.Machine.execBamax st s
  | .sets st => Sys2Proof.Machine.execSets st s
  | .aznProgRead o => Sys2Proof.Machine.execAznProgRead o s
  | .aznProgWrite o => Sys2Proof.Machine.execAznProgWrite o s
  | .aznProgEmpty o => Sys2Proof.Machine.execAznProgEmpty o s
  | .aznSrSeedHiWrite o st v => Sys2Proof.Machine.execAznSrSeedHiWrite o st v s
  | .aznCntClr o st v => Sys2Proof.Machine.execAznCntClr o st v s
  | .stackTraining st trained failing => Sys2Proof.Machine.execStackTraining st trained failing s
  | .hbmAlloc o => Sys2Proof.Machine.execHbmAlloc o s
  | .hbmFree o => Sys2Proof.Machine.execHbmFree o s
  | .hbcPteSelWrite o v => Sys2Proof.Machine.execHbcPteSelWrite o v s
  | .hbmSlotServe st pc errs => Sys2Proof.Machine.execHbmSlotServe st pc errs s
  | .patrolScrub st errs ends => Sys2Proof.Machine.execPatrolScrub st errs ends s
  | .rowRepair st ends => Sys2Proof.Machine.execRowRepair st ends s
  | .hbcCntClr o st v => Sys2Proof.Machine.execHbcCntClr o st v s
  | .hbcLinkCntClr o st v => Sys2Proof.Machine.execHbcLinkCntClr o st v s
  | .pageInDone page poisoned => Sys2Proof.Machine.execPageInDone page poisoned s
  | .pageOutDone page errs => Sys2Proof.Machine.execPageOutDone page errs s
  | .pageIn place => Sys2Proof.Machine.execPageIn place s
  | .pageOut place => Sys2Proof.Machine.execPageOut place s
  | .pin place => Sys2Proof.Machine.execPin place s
  | .unpin place => Sys2Proof.Machine.execUnpin place s
  | .cxlLinkDrop recovered => Sys2Proof.Machine.execCxlLinkDrop recovered s
  | .cxlPagingFramesWrite o v => Sys2Proof.Machine.execCxlPagingFramesWrite o v s
  | .cxlCntClr o v => Sys2Proof.Machine.execCxlCntClr o v s
  | .pkgnetTransfer src dst what crcFail => Sys2Proof.Machine.execPkgnetTransfer src dst what crcFail s
  | .pkgnetLinkDown p k => Sys2Proof.Machine.execPkgnetLinkDown p k s
  | .tileLinkCntClr o t v => Sys2Proof.Machine.execTileLinkCntClr o t v s
  | .spokeDetect k => Sys2Proof.Machine.execSpokeDetect k s
  | .spokeEqualise k => Sys2Proof.Machine.execSpokeEqualise k s
  | .spokeAlign k polarity reversed => Sys2Proof.Machine.execSpokeAlign k polarity reversed s
  | .spokeParam k partner partnerSpoke version rtt => Sys2Proof.Machine.execSpokeParam k partner partnerSpoke version rtt s
  | .llyLinkUp k => Sys2Proof.Machine.execLlyLinkUp k s
  | .heldRetry k partner => Sys2Proof.Machine.execHeldRetry k partner s
  | .llyTrainFail k => Sys2Proof.Machine.execLlyTrainFail k s
  | .llySpokeCfgWrite o k v => Sys2Proof.Machine.execLlySpokeCfgWrite o k v s
  | .llyModuleIdWrite o v => Sys2Proof.Machine.execLlyModuleIdWrite o v s
  | .flitReceive k flit => Sys2Proof.Machine.execFlitReceive k flit s
  | .replayReq k => Sys2Proof.Machine.execReplayReq k s
  | .llyLinkDown k => Sys2Proof.Machine.execLlyLinkDown k s
  | .readReq errs => Sys2Proof.Machine.execReadReq errs s
  | .fabricTimeout place => Sys2Proof.Machine.execFabricTimeout place s
  | .llyEpochWrite o v => Sys2Proof.Machine.execLlyEpochWrite o v s
  | .llyRtDataWrite o v => Sys2Proof.Machine.execLlyRtDataWrite o v s
  | .llyRtLoadStart o v => Sys2Proof.Machine.execLlyRtLoadStart o v s
  | .llyCntClr o v => Sys2Proof.Machine.execLlyCntClr o v s
  | .llySpokeCntClr o k v => Sys2Proof.Machine.execLlySpokeCntClr o k v s
  | .pelDomCfgWrite o d v => Sys2Proof.Machine.execPelDomCfgWrite o d v s
  | .pelGroupWrite o v => Sys2Proof.Machine.execPelGroupWrite o v s
  | .barrier place => Sys2Proof.Machine.execBarrier place s
  | .barrierTimeout d => Sys2Proof.Machine.execBarrierTimeout d s
  | .pelCntClr o v => Sys2Proof.Machine.execPelCntClr o v s
  | .colTeamLoad o => Sys2Proof.Machine.execColTeamLoad o s
  | .colTeamClear o => Sys2Proof.Machine.execColTeamClear o s
  | .allReduce cycles errs => Sys2Proof.Machine.execAllReduce cycles errs s
  | .reduceScatter cycles errs => Sys2Proof.Machine.execReduceScatter cycles errs s
  | .allGather cycles errs => Sys2Proof.Machine.execAllGather cycles errs s
  | .allToAll cycles errs => Sys2Proof.Machine.execAllToAll cycles errs s
  | .permute cycles errs => Sys2Proof.Machine.execPermute cycles errs s
  | .colHello team src fields => Sys2Proof.Machine.execColHello team src fields s
  | .colData team src head data => Sys2Proof.Machine.execColData team src head data s
  | .colAck team src => Sys2Proof.Machine.execColAck team src s
  | .colAbort team src => Sys2Proof.Machine.execColAbort team src s
  | .colCntClr o v => Sys2Proof.Machine.execColCntClr o v s
  | .powerSample mw => Sys2Proof.Machine.execPowerSample mw s
  | .grantInterval claims => Sys2Proof.Machine.execGrantInterval claims s
  | .holdExpire u place => Sys2Proof.Machine.execHoldExpire u place s
  | .loanReclaim t => Sys2Proof.Machine.execLoanReclaim t s
  | .brakeRequestInput asserted => Sys2Proof.Machine.execBrakeRequestInput asserted s
  | .clkLockLost die => Sys2Proof.Machine.execClkLockLost die s
  | .clkRelock die => Sys2Proof.Machine.execClkRelock die s
  | .aclkChange t => Sys2Proof.Machine.execAclkChange t s
  | .tempSample temps => Sys2Proof.Machine.execTempSample temps s
  | .thermalBrakeStep t => Sys2Proof.Machine.execThermalBrakeStep t s
  | .pwrTempClear o v => Sys2Proof.Machine.execPwrTempClear o v s
  | .pwrCntClr o v => Sys2Proof.Machine.execPwrCntClr o v s
  | .ageMonitorRead slacks => Sys2Proof.Machine.execAgeMonitorRead slacks s
  | .ageCntClr o v => Sys2Proof.Machine.execAgeCntClr o v s
  | .memoryApertureRead off n errs => Sys2Proof.Machine.execMemoryApertureRead off n errs s
  | .memoryApertureWrite off data => Sys2Proof.Machine.execMemoryApertureWrite off data s
  | .modWinBaseWrite o w hi v => Sys2Proof.Machine.execModWinBaseWrite o w hi v s
  | .modResetWarm o v => Sys2Proof.Machine.execModResetWarm o v s
  | .modResetCold o v => Sys2Proof.Machine.execModResetCold o v s
  | .mbxCmdRefused o p v => Sys2Proof.Machine.execMbxCmdRefused o p v s
  | .mbxUnknownCmd o p v => Sys2Proof.Machine.execMbxUnknownCmd o p v s
  | .getInfo o p => Sys2Proof.Machine.execGetInfo o p s
  | .readDigest o p => Sys2Proof.Machine.execReadDigest o p s
  | .readMeasurement o p => Sys2Proof.Machine.execReadMeasurement o p s
  | .getIdentity o p => Sys2Proof.Machine.execGetIdentity o p s
  | .svnCommit o p => Sys2Proof.Machine.execSvnCommit o p s
  | .retireClear o p => Sys2Proof.Machine.execRetireClear o p s
  | .fwUpdate o p readback => Sys2Proof.Machine.execFwUpdate o p readback s
  | .attestQuote o p => Sys2Proof.Machine.execAttestQuote o p s
  | .marginReplan o p volts => Sys2Proof.Machine.execMarginReplan o p volts s
  | .fullScrub o p errs => Sys2Proof.Machine.execFullScrub o p errs s
  | .farMigrate o p => Sys2Proof.Machine.execFarMigrate o p s
  | .mbxCntClr o p v => Sys2Proof.Machine.execMbxCntClr o p v s
  | .logAckWrite o hi v => Sys2Proof.Machine.execLogAckWrite o hi v s
  | .logRdSeqWrite o hi v => Sys2Proof.Machine.execLogRdSeqWrite o hi v s
  | .logCntClr o v => Sys2Proof.Machine.execLogCntClr o v s
  | .bootStageCheck railFault => Sys2Proof.Machine.execBootStageCheck railFault s
  | .bootDone width rate devices capacity => Sys2Proof.Machine.execBootDone width rate devices capacity s
  | .i3cSelectRead off => Sys2Proof.Machine.execI3cSelectRead off s
  | .i3cRegisterWrite off v => Sys2Proof.Machine.execI3cRegisterWrite off v s
  | .entdaa a => Sys2Proof.Machine.execEntdaa a s
  | .setdasa a => Sys2Proof.Machine.execSetdasa a s
  | .setnewda a => Sys2Proof.Machine.execSetnewda a s
  | .enec bits => Sys2Proof.Machine.execEnec bits s
  | .disec bits => Sys2Proof.Machine.execDisec bits s
  | .rstact a => Sys2Proof.Machine.execRstact a s
  | .powerGood dv => Sys2Proof.Machine.execPowerGood dv s
  | .inputLow dv => Sys2Proof.Machine.execInputLow dv s
  | .inputLowClear dv => Sys2Proof.Machine.execInputLowClear dv s
  | .inputOvervolt dv => Sys2Proof.Machine.execInputOvervolt dv s
  | .inputFail dv => Sys2Proof.Machine.execInputFail dv s
  | .inputRecoverColdReset dv => Sys2Proof.Machine.execInputRecoverColdReset dv s
  | .modAuxInput low => Sys2Proof.Machine.execModAuxInput low s
  | .modAuxCfgWrite o v => Sys2Proof.Machine.execModAuxCfgWrite o v s
  | .coolantSample raw => Sys2Proof.Machine.execCoolantSample raw s
  | .samplePreload load => Sys2Proof.Machine.execSamplePreload load s
  | .jtagPrivate code => Sys2Proof.Machine.execJtagPrivate code s
  | .cmbPowered dv => Sys2Proof.Machine.execCmbPowered dv s
  | .inputOff dv => Sys2Proof.Machine.execInputOff dv s
  | .hostLinkUp rate msix => Sys2Proof.Machine.execHostLinkUp rate msix s
  | .msixUnmask n v => Sys2Proof.Machine.execMsixUnmask n v s
  | .d3hotTransition d3 => Sys2Proof.Machine.execD3hotTransition d3 s
  | .hbmPagesReturn base => Sys2Proof.Machine.execHbmPagesReturn base s
  | .migrationDone page errs => Sys2Proof.Machine.execMigrationDone page errs s
  | .shmBulkLoadDone => Sys2Proof.Machine.execShmBulkLoadDone s
  | .exdBulkLoadDone => Sys2Proof.Machine.execExdBulkLoadDone s
  | .tallyDumpDone => Sys2Proof.Machine.execTallyDumpDone s
  | .pageInStart => Sys2Proof.Machine.execPageInStart s
  | .packetRoute => Sys2Proof.Machine.execPacketRoute s
  | .write => Sys2Proof.Machine.execWrite s
  | .readRsp => Sys2Proof.Machine.execReadRsp s
  | .writeAck => Sys2Proof.Machine.execWriteAck s
  | .semSignal => Sys2Proof.Machine.execSemSignal s
  | .semAck => Sys2Proof.Machine.execSemAck s
  | .linkState => Sys2Proof.Machine.execLinkState s
  | .reachRecompute => Sys2Proof.Machine.execReachRecompute s
  | .settleEnd => Sys2Proof.Machine.execSettleEnd s
  | .llyRtLoadDone => Sys2Proof.Machine.execLlyRtLoadDone s
  | .pelArrive => Sys2Proof.Machine.execPelArrive s
  | .pelRelease => Sys2Proof.Machine.execPelRelease s
  | .digestRecompute => Sys2Proof.Machine.execDigestRecompute s
  | .draftEnded => Sys2Proof.Machine.execDraftEnded s
  | .currentBrake => Sys2Proof.Machine.execCurrentBrake s
  | .currentBrakeLift => Sys2Proof.Machine.execCurrentBrakeLift s
  | .floorHoldExpire => Sys2Proof.Machine.execFloorHoldExpire s
  | .clkRefLost => Sys2Proof.Machine.execClkRefLost s
  | .clkRefTimeout => Sys2Proof.Machine.execClkRefTimeout s
  | .warmReset => Sys2Proof.Machine.execWarmReset s
  | .perstAssert => Sys2Proof.Machine.execPerstAssert s
  | .functionLevelReset => Sys2Proof.Machine.execFunctionLevelReset s
  | .hostPortReset => Sys2Proof.Machine.execHostPortReset s
  | .coldReset => Sys2Proof.Machine.execColdReset s
  | .mbxCommandEnd => Sys2Proof.Machine.execMbxCommandEnd s
  | .rstdaa => Sys2Proof.Machine.execRstdaa s
  | .getpid => Sys2Proof.Machine.execGetpid s
  | .getbcr => Sys2Proof.Machine.execGetbcr s
  | .getdcr => Sys2Proof.Machine.execGetdcr s
  | .getstatus => Sys2Proof.Machine.execGetstatus s
  | .getmwl => Sys2Proof.Machine.execGetmwl s
  | .getmrl => Sys2Proof.Machine.execGetmrl s
  | .coldRstNAssert => Sys2Proof.Machine.execColdRstNAssert s
  | .bypass => Sys2Proof.Machine.execBypass s
  | .idcode => Sys2Proof.Machine.execIdcode s
  | .extest => Sys2Proof.Machine.execExtest s
  | .highz => Sys2Proof.Machine.execHighz s
  | .clkRefReturn => Sys2Proof.Machine.execClkRefReturn s
  | .coldRstNRelease => Sys2Proof.Machine.execColdRstNRelease s
  | .testLogicReset => Sys2Proof.Machine.execTestLogicReset s

end Sys2Proof.Machine
end

