-- ==== Sys2Proof/Machine/Tick.lean ====
section
/-! DEFINITION. One MCLK cycle in which no command arrives: what the block does by itself as time passes (R69, R95, R108, R240, R313, R405,
R452). -/

namespace Sys2Proof.Machine

open Sys2Proof

/-- Does run-ahead of a core wait for its tracking table: the block it would fetch next on a port is tracked and finds no room there (R240)? -/
def Block.trackWaits (b : Block) (c : Fin 128) : Bool :=
  let used := (b.core c.val).tracked
  decide (0 < used) && [0, 1, 2, 3].any (fun port => match b.portTask c port with
    | none => false
    | some t =>
      let b := { b with lens := t.kept }
      match b.nextAhead c t port t.runahead false with
      | none => false
      | some p =>
        let e := b.entryAt t p
        match b.source (b.descAt t p e) e with
        | none => false
        | some s => s.d.tracked && b.queueRoom c port (queueTakes port e.src s) && decide (256 < used + (b.granules s.ranges).length))

/-- ACLK cycles of a core: its array, while no task is dispatched to it, charges them to what it waits for (R69, R70), but for those a pass has
charged ahead of the clock. The cells of a pattern tile that hold zero gate (R129, R398). -/
def Block.tickCore (b : Block) (c : Fin 128) (n : Nat) : Block :=
  let b := if b.trackWaits c then b.count (.fet c) Reg.FET_TRACK_FULL n else b
  if !b.arrayFree c then b
  else
    let o := Sparse.get (fun _ => 0) b.owed c.val
    let k := min o n
    let b := if k = 0 then b else { b with owed := Sparse.put (fun _ => 0) b.owed c.val (o - k) }
    let b := if Sparse.get (fun _ => 0) b.pwr.filler c.val < 2 then b
      else b.addGated c ((n - k) * (16384 - 1024 * wfield (b.rd .pwr Reg.PWR_FLOOR) 15 12))
    b.chargeIdle c (n - k)

/-- The ACLK cycles that fall in an MCLK cycle on a tile: its setting in eighths (R406); a stopped clock has none.
DESIGN CHOICE (notes/assumptions/10.md). -/
def Block.tickTile (b : Block) (t : Fin 16) : Block :=
  let n := Sparse.get (fun _ => 0) b.idleRem t.val + b.setting t
  if n = 0 then b
  else
    let b := { b with idleRem := Sparse.put (fun _ => 0) b.idleRem t.val (n % 8) }
    if n / 8 = 0 then b else (b.coresOf t.val).foldl (fun x c => x.tickCore c (n / 8)) b

/-- A validator takes its next record once its check time has passed (R95). -/
def Block.tickValidator (b : Block) (t : Fin 16) : Block :=
  match (b.tile t.val).val with
  | none => b
  | some r => if r.dueAt ≤ b.now then b.validate t else b

/-- What the engines that need no command do in an MCLK cycle: validators, table loads, the tally dump, the spokes' flits, the arrays'
counters, and the time in which a brake is in force (R400). DESIGN CHOICE (notes/assumptions/2.md). -/
def Block.tickEngines (b : Block) : Block :=
  let b := if wfield (b.rd .pwr Reg.PWR_BRAKE_STAT) 3 0 = 0 then b else b.count .pwr Reg.PWR_BRAKE_TIME 1
  let b := (List.finRange 16).foldl (fun x t => x.tickValidator t) b
  let b := b.shmLoadOne.exdLoadOne.rtLoadOne.tallyDumpOne
  let b := (List.finRange 8).foldl (fun x k => x.spokeTick k) b
  (List.finRange 16).foldl (fun x t => x.tickTile t) b

/-- The bus, being idle, takes the oldest queued in-band interrupt (R452). -/
def Block.tickBus (b : Block) : Block :=
  match b.i3c.ibis with
  | [] => b
  | x :: r => { b with i3c := { b.i3c with ibis := r, raised := b.i3c.raised ++ [x] } }

/-- One MCLK cycle in which no command arrives: the count advances while the management block runs (R405); the engines go on while the module
does. DESIGN CHOICE (notes/assumptions/2.md). -/
def Block.tick (b : Block) : Block :=
  if !b.cmbUp then b
  else
    let b := (b.count .clk Reg.CLK_MCLK_COUNT 1).tickBus
    if b.running then b.tickEngines else b

end Sys2Proof.Machine
end

