-- ==== Sys2Proof/Machine/Step.lean ====
section
/-! DEFINITION. One step of the block: the command at the front of the queue, or, with no command waiting, one MCLK cycle. -/

namespace Sys2Proof.Machine

open Sys2Proof

/-- One step: the effect of the command at the front, with the queue's rest; on an empty queue one MCLK cycle passes.
DESIGN CHOICE (notes/assumptions/2.md). DESIGN CHOICE (notes/assumptions/9.md). -/
def step (s : State) : Host.Outcome State Fault Refusal :=
  match s.pending with
  | c :: rest => exec c { s with pending := rest }
  | [] => .next { s with block := s.block.cycle Block.tick }

/-- The command that a word of the table spells, put at the front of the queue. DESIGN CHOICE (notes/assumptions/9.md). -/
def State.withFetchWord (s : State) (nbits w : Nat) : State :=
  match decodeTableWord nbits w with
  | some c => { s with pending := c :: s.pending }
  | none => s

end Sys2Proof.Machine
end

