-- ==== Sys2Proof/Safety.lean ====
section
/-! DEFINITION. What a sound module is, in the terms the statements use: fuses that a grade may have, memory and tables in their one
canonical form, a core map that shows the fuses. -/

namespace Sys2Proof.Machine

open Sys2Proof

/-- Schedulable cores of a tile as the core map has them (R7). -/
def Fuses.coresOnTile (f : Fuses) (t : Nat) : Nat :=
  popCount 8 ((f.coreMap.getD (t / 4) 0).toNat / 2 ^ (8 * (t % 4)))

/-- Schedulable cores that a grade has (R7): 128, 120 or 112. -/
def gradeCores (g : Nat) : Option Nat :=
  if g = 1 then some 128 else if g = 2 then some 120 else if g = 3 then some 112 else none

/-- The fuses of a module that was issued (R4, R7): a grade that is issued, as many schedulable cores as it has, at least six of them on
every tile, MOD_GRADE telling the count and the least count of a tile. -/
def Fuses.issued (f : Fuses) : Bool :=
  let l := (List.range 16).map f.coresOnTile
  decide (f.coreMap.length = 4) &&
    decide (gradeCores (wfield f.grade 7 0) = some l.sum) &&
    decide (wfield f.grade 15 8 = l.sum) &&
    l.all (fun n => decide (6 ≤ n)) &&
    l.all (fun n => decide (wfield f.grade 23 16 ≤ n)) && l.any (fun n => decide (n = wfield f.grade 23 16)) &&
    decide (wfield f.grade 31 24 = 0)

/-- Does the module page show the fuses (R7)? -/
def State.showsFuses (s : State) : Bool :=
  decide (s.block.rd .mod Reg.MOD_GRADE = s.fuses.grade) &&
    (List.range 4).all (fun i => decide (s.block.rd .mod (Reg.MOD_CORE_MAP i) = s.fuses.coreMap.getD i 0))

/-- Memory in its canonical form: addresses rising, no byte listed that reads the same unlisted. -/
abbrev Memory.wf (unlisted : Nat → Byte) (m : Sparse Byte) : Bool := Sparse.wf unlisted m

/-- The module's memory in that form. -/
def Block.memWf (b : Block) : Bool := Memory.wf b.memDef b.mem

/-- The module's tables and memory in canonical form. -/
def Block.canonical (b : Block) : Bool :=
  b.memWf && Sparse.wf regReset b.regs && Sparse.wf (fun _ => false) b.poison && Sparse.wf (fun _ => 0) b.evt

end Sys2Proof.Machine

namespace Sys2Proof

/-- Is the command a step of the engines that run while the module runs (R431, R433)? -/
def Instr.isEngine : Instr → Bool
  | .taskAdmit .. => true
  | .shareComplete .. => true
  | .pkgnetTransfer .. => true
  | .grantInterval .. => true
  | .taskStart .. => true
  | .taskComplete .. => true
  | .cringResume .. => true
  | .budgetExceeded .. => true
  | .shadowGrant .. => true
  | .specDecide .. => true
  | .specCommit .. => true
  | .specDiscard .. => true
  | .semaphoreSignal .. => true
  | .storeBlocking .. => true
  | .storeNonblocking .. => true
  | .loadBlocking .. => true
  | .loadNonblocking .. => true
  | .peek .. => true
  | .clear .. => true
  | .syncBlockedResume .. => true
  | .validatorDone .. => true
  | .globalBlockConsume .. => true
  | .denseLoad .. => true
  | .denseStream .. => true
  | .denseDrain .. => true
  | .gather .. => true
  | .scatterAdd .. => true
  | .scatterSet .. => true
  | .spmmLoad .. => true
  | .spmmStream .. => true
  | .spmmFlush .. => true
  | .select .. => true
  | .fallbackPass .. => true
  | .scratchYield .. => true
  | .sparseCapacity .. => true
  | .route .. => true
  | .combine .. => true
  | .dispatchCapacity .. => true
  | .sramCeWriteback .. => true
  | .slabReturn .. => true
  | .prefetchIssue .. => true
  | .demandFetch .. => true
  | .fetchDataArrive .. => true
  | .deadlineLate .. => true
  | .bulkAgeLate .. => true
  | .trackedBlockConsume .. => true
  | .copyPlain .. => true
  | .copyTranspose .. => true
  | .copyPermute .. => true
  | .inPlaceTranspose .. => true
  | .chain .. => true
  | .overlapPrologue .. => true
  | .updateDispatch .. => true
  | .updateShare .. => true
  | .updateEntry .. => true
  | .load .. => true
  | .store .. => true
  | .add .. => true
  | .sub .. => true
  | .mul .. => true
  | .fma .. => true
  | .div .. => true
  | .sqrt .. => true
  | .rsqrt .. => true
  | .max .. => true
  | .min .. => true
  | .abs .. => true
  | .neg .. => true
  | .sign .. => true
  | .qdq .. => true
  | .adds .. => true
  | .muls .. => true
  | .fmas .. => true
  | .lerps .. => true
  | .clamps .. => true
  | .bsum .. => true
  | .bamax .. => true
  | .sets .. => true
  | .hbmSlotServe .. => true
  | .patrolScrub .. => true
  | .rowRepair .. => true
  | .pageInDone .. => true
  | .pageOutDone .. => true
  | .pageIn .. => true
  | .pageOut .. => true
  | .pin .. => true
  | .unpin .. => true
  | .cxlLinkDrop .. => true
  | .pkgnetLinkDown .. => true
  | .spokeDetect .. => true
  | .spokeEqualise .. => true
  | .spokeAlign .. => true
  | .spokeParam .. => true
  | .llyLinkUp .. => true
  | .heldRetry .. => true
  | .llyTrainFail .. => true
  | .flitReceive .. => true
  | .replayReq .. => true
  | .llyLinkDown .. => true
  | .fabricTimeout .. => true
  | .barrier .. => true
  | .barrierTimeout .. => true
  | .allReduce .. => true
  | .reduceScatter .. => true
  | .allGather .. => true
  | .allToAll .. => true
  | .permute .. => true
  | .colHello .. => true
  | .colData .. => true
  | .colAck .. => true
  | .colAbort .. => true
  | .powerSample .. => true
  | .holdExpire .. => true
  | .loanReclaim .. => true
  | .brakeRequestInput .. => true
  | .clkLockLost .. => true
  | .clkRelock .. => true
  | .aclkChange .. => true
  | .tempSample .. => true
  | .thermalBrakeStep .. => true
  | .ageMonitorRead .. => true
  | .modAuxInput .. => true
  | .coolantSample .. => true
  | .hbmPagesReturn .. => true
  | .migrationDone .. => true
  | .shmBulkLoadDone => true
  | .exdBulkLoadDone => true
  | .tallyDumpDone => true
  | .pageInStart => true
  | .packetRoute => true
  | .readReq _ => true
  | .write => true
  | .readRsp => true
  | .writeAck => true
  | .semSignal => true
  | .semAck => true
  | .linkState => true
  | .reachRecompute => true
  | .settleEnd => true
  | .llyRtLoadDone => true
  | .pelArrive => true
  | .pelRelease => true
  | .digestRecompute => true
  | .draftEnded => true
  | .currentBrake => true
  | .currentBrakeLift => true
  | .floorHoldExpire => true
  | .clkRefLost => true
  | .clkRefTimeout => true
  | .clkRefReturn => true
  | _ => false

/-- The origin whose register access a command is. -/
def Instr.writeOrigin : Instr → Option Origin
  | .registerWrite o _ _ => some o
  | .modEvtCfgWrite o _ => some o
  | .modEvtHeadWrite o _ => some o
  | .modEvtCntSelWrite o _ => some o
  | .modEvtCntClr o _ => some o
  | .intForceWrite o _ _ => some o
  | .lockWrite o _ _ => some o
  | .doorbell o _ _ => some o
  | .schCringHeadWrite o _ _ => some o
  | .schRingCfgWrite o _ _ => some o
  | .schIdleClr o _ _ => some o
  | .gangDefWrite o _ _ _ => some o
  | .semPhysWrite o _ _ _ => some o
  | .semSig o _ _ => some o
  | .semReadSelWrite o _ _ => some o
  | .semModeWrite o _ => some o
  | .semXlatInv o _ => some o
  | .tileSyncSelWrite o _ _ => some o
  | .validatorStart o _ _ => some o
  | .shmCmdRead o => some o
  | .shmCmdWrite o => some o
  | .shmBulkLoadStart o _ => some o
  | .shmRecClear o _ => some o
  | .taintedClear o _ => some o
  | .shmRecCntClr o _ => some o
  | .darrCntClr o _ _ => some o
  | .drnSrSeedHiWrite o _ _ => some o
  | .drnCntClr o _ _ => some o
  | .drlCntClr o _ _ => some o
  | .drlPredWrite o _ _ => some o
  | .exdCmdRead o => some o
  | .exdCmdWrite o => some o
  | .exdBulkLoadStart o _ => some o
  | .tallyDumpStart o _ => some o
  | .exdCntClrCounters o _ => some o
  | .exdCntClrTallies o _ => some o
  | .tileSramCntClr o _ _ => some o
  | .tileAlloc o _ => some o
  | .tileFree o _ => some o
  | .tileOcInv o _ _ => some o
  | .tileOcCntClr o _ _ => some o
  | .fetCntClr o _ _ => some o
  | .aznProgRead o => some o
  | .aznProgWrite o => some o
  | .aznProgEmpty o => some o
  | .aznSrSeedHiWrite o _ _ => some o
  | .aznCntClr o _ _ => some o
  | .hbmAlloc o => some o
  | .hbmFree o => some o
  | .hbcPteSelWrite o _ => some o
  | .hbcCntClr o _ _ => some o
  | .hbcLinkCntClr o _ _ => some o
  | .cxlPagingFramesWrite o _ => some o
  | .cxlCntClr o _ => some o
  | .tileLinkCntClr o _ _ => some o
  | .llySpokeCfgWrite o _ _ => some o
  | .llyModuleIdWrite o _ => some o
  | .llyEpochWrite o _ => some o
  | .llyRtDataWrite o _ => some o
  | .llyRtLoadStart o _ => some o
  | .llyCntClr o _ => some o
  | .llySpokeCntClr o _ _ => some o
  | .pelDomCfgWrite o _ _ => some o
  | .pelGroupWrite o _ => some o
  | .pelCntClr o _ => some o
  | .colTeamLoad o => some o
  | .colTeamClear o => some o
  | .colCntClr o _ => some o
  | .pwrTempClear o _ => some o
  | .pwrCntClr o _ => some o
  | .ageCntClr o _ => some o
  | .modWinBaseWrite o _ _ _ => some o
  | .modResetWarm o _ => some o
  | .modResetCold o _ => some o
  | .mbxCmdRefused o _ _ => some o
  | .mbxUnknownCmd o _ _ => some o
  | .getInfo o _ => some o
  | .readDigest o _ => some o
  | .readMeasurement o _ => some o
  | .getIdentity o _ => some o
  | .svnCommit o _ => some o
  | .retireClear o _ => some o
  | .fwUpdate o _ _ => some o
  | .attestQuote o _ => some o
  | .marginReplan o _ _ => some o
  | .fullScrub o _ _ => some o
  | .farMigrate o _ => some o
  | .mbxCntClr o _ _ => some o
  | .logAckWrite o _ _ => some o
  | .logRdSeqWrite o _ _ => some o
  | .logCntClr o _ => some o
  | .modAuxCfgWrite o _ => some o
  | .msixUnmask .. => some .host
  | _ => none

end Sys2Proof

namespace Sys2Proof.Machine

/-! ## Commands that complete, and what they leave -/

/-- The command is answered by a next state that differs in the module alone, and the module is then as `P` says. -/
def Completes (c : Instr) (s : State) (P : Block → Prop) : Prop :=
  ∃ b : Block, exec c s = .next { s with block := b } ∧ P b

/-- The module as a step of a task sees it: in place of records that have been written over since, those it has read (R100). -/
def Block.seenBy (b : Block) (t : TaskSt) : Block := { b with lens := t.kept }

/-- Does a register write of this origin pass the gate: the register exists, the page takes that origin, and neither its lock nor a
full strict log stops a logged write (R425, R448, R472, R474)? -/
def Block.admits (b : Block) (o : Origin) (p : Page) (off : Nat) : Bool :=
  b.writable p off && originFits o p && (!(loggedReg p off && isOutside o) || (!b.locked o p && !b.strictFull))

/-- A register write of this origin arrives and passes the gate. -/
def State.takes (s : State) (o : Origin) (p : Page) (off : Nat) : Bool := s.block.doorOpen o && s.block.admits o p off

/-- Is the page a stack's controller page? -/
def onStackPage : Page → Bool
  | .hbc _ => true
  | _ => false

/-- The words that an event or a store writes: MOD_EVT_TAIL, MOD_EVT_LAST, MOD_EVT_LOST, and HBC_SLOTS and HBC_OUTSTANDING of a stack. -/
def eventWord (p : Page) (o : Nat) : Bool :=
  (decide (p = .mod) && (decide (o = Reg.MOD_EVT_TAIL) || decide (o = Reg.MOD_EVT_LAST) || decide (o = Reg.MOD_EVT_LOST) ||
    decide (o = Reg.MOD_EVT_LOST + 4))) ||
  (onStackPage p && (decide (o = Reg.HBC_SLOTS) || decide (o = Reg.HBC_SLOTS + 4) || decide (o = Reg.HBC_OUTSTANDING)))

/-- The words of the LOG page that an entry writes. -/
def logWord (o : Nat) : Bool :=
  [Reg.LOG_STAT, Reg.LOG_HEAD, Reg.LOG_HEAD + 4, Reg.LOG_TAIL, Reg.LOG_TAIL + 4, Reg.LOG_DROPPED, Reg.LOG_DROPPED + 4].contains o ||
    (decide (Reg.LOG_CHAIN 0 ≤ o) && decide (o < Reg.LOG_CHAIN 8))

/-- The words that events, entries of the audit log and the mark of a changed digest word write beside a command's own effect (R356,
R443, R482). -/
def sideWord (p : Page) (o : Nat) : Bool :=
  eventWord p o || (decide (p = .log) && logWord o) || decide (o = Reg.CHANGE_SEQ) || (decide (p = .pel) && decide (o = Reg.PEL_DIGEST_STAT))

/-- Does a register have a rule of its own for writes, or a busy state that holds it, beside its access codes? The rows of the table
and the rules of its chapter name it. -/
def ownRow (p : Page) (o : Nat) : Bool :=
  decide (o < 0x040) ||
  match p with
  | .mod => [Reg.MOD_RESET, Reg.MOD_IRQ_SEL, Reg.MOD_IRQ_VEC, Reg.MOD_AUX_CFG, Reg.MOD_EVT_CFG, Reg.MOD_EVT_HEAD, Reg.MOD_EVT_CNT_SEL,
      Reg.MOD_EVT_CNT_CLR, Reg.MOD_EVT_BASE_LO, Reg.MOD_EVT_BASE_HI].contains o
  | .sch _ => decide (o < 0x064) || [Reg.SCH_RING_CFG, Reg.SCH_TRING_TAIL, Reg.SCH_CRING_HEAD, Reg.SCH_IDLE_CLR].contains o
  | .sem _ => [Reg.SEM_SIG, Reg.SEM_READ_SEL, Reg.SEM_MODE, Reg.SEM_XLAT_INV].contains o || (decide (0x100 ≤ o) && decide (o < 0x200))
  | .shm => decide (o = Reg.SHM_SEL) || (decide (Reg.SHM_DATA 0 ≤ o) && decide (o < Reg.SHM_DATA 4)) ||
      [Reg.SHM_CMD, Reg.SHM_LOAD_CTL, Reg.SHM_REC_CTL, Reg.SHM_REC_STAT, Reg.SHM_REC_CNT_CLR, Reg.SHM_REC_SEL].contains o
  | .exd => decide (o = Reg.EXD_SEL) || (decide (Reg.EXD_DATA 0 ≤ o) && decide (o < Reg.EXD_DATA 16)) ||
      [Reg.EXD_CMD, Reg.EXD_BULK_CTL, Reg.EXD_TALLY_CTL, Reg.EXD_CNT_CLR].contains o
  | .aznMod => decide (o = Reg.AZN_PROG_CMD) || decide (o < Reg.AZN_PROG_DATA 16)
  | .hbcMod => true
  | .cxl => [Reg.CXL_PAGING_FRAMES, Reg.CXL_CNT_CLR].contains o
  | .llyMod => [Reg.LLY_MODULE_ID, Reg.LLY_EPOCH, Reg.LLY_RT_DATA, Reg.LLY_RT_LOAD_CTL, Reg.LLY_CNT_CLR, Reg.LLY_RT_SEL].contains o
  | .pel => decide (o < 0x060) || [Reg.PEL_GROUP, Reg.PEL_CNT_CLR].contains o || decide (0x200 ≤ o)
  | .col => true
  | .pwr => [Reg.PWR_TEMP, Reg.PWR_CNT_CLR, Reg.PWR_TEMP_SEL].contains o
  | .age => [Reg.AGE_CNT_CLR, Reg.AGE_SEL, Reg.AGE_VSEL].contains o
  | .log => [Reg.LOG_ACK, Reg.LOG_ACK + 4, Reg.LOG_RD_SEQ, Reg.LOG_RD_SEQ + 4, Reg.LOG_CNT_CLR].contains o
  | .mbx _ => true
  | .tile _ => decide (o < 0x060) || (decide (0x0A0 ≤ o) && decide (o < 0x0C0)) ||
      [Reg.TILE_VAL_CTL, Reg.TILE_ALLOC_CMD, Reg.TILE_OC_CTL, Reg.TILE_OC_INV, Reg.TILE_OC_CNT_CLR, Reg.TILE_SYNC_SEL,
        Reg.TILE_LINK_CNT_CLR, Reg.TILE_SRAM_CNT_CLR].contains o
  | .darr _ => [Reg.DARR_CNT_CLR].contains o
  | .drn _ => [Reg.DRN_SR_SEED_HI, Reg.DRN_CNT_CLR].contains o
  | .drl _ => [Reg.DRL_PRED, Reg.DRL_CNT_CLR].contains o
  | .fet _ => [Reg.FET_CNT_CLR].contains o
  | .hbc _ => [Reg.HBC_CNT_CLR, Reg.HBC_LINK_CNT_CLR].contains o
  | .azn _ => [Reg.AZN_SR_SEED_HI, Reg.AZN_CNT_CLR].contains o
  | .spoke _ => [Reg.LLY_SPOKE_CFG, Reg.LLY_SPOKE_CNT_CLR].contains o
  | _ => false

/-- The clear registers (R13 and the register tables of the chapters): for a command that writes one its origin, page, offset, and the
64-bit counters that the written word clears; bit 0 clears them, bit 1 of PEL_CNT_CLR PEL_DRAFTS. -/
def clearRow : Instr → Option (Origin × Page × Nat × List Nat)
  | .darrCntClr o c v => some (o, .darr c, Reg.DARR_CNT_CLR, if wbit v 0 then
      [Reg.DARR_ROWS, Reg.DARR_LOADS, Reg.DARR_REUSED, Reg.DARR_GATED, Reg.DARR_PARITY_ERR] else [])
  | .drnCntClr o c v => some (o, .drn c, Reg.DRN_CNT_CLR, if wbit v 0 then
      [Reg.DRN_ECC_CORR, Reg.DRN_NAN_LOST, Reg.DRN_ROWS_OUT] ++ (List.range 10).flatMap (fun f => [Reg.DRN_OVF f, Reg.DRN_VANISH f]) else [])
  | .drlCntClr o c v => some (o, .drl c, Reg.DRL_CNT_CLR, if wbit v 0 then
      [Reg.DRL_BUSY, Reg.DRL_LANE_BUSY, Reg.DRL_ITEMS, Reg.DRL_COALESCED, Reg.DRL_OOR, Reg.DRL_SPLITS, Reg.DRL_FALLBACK,
        Reg.DRL_YIELDS, Reg.DRL_PRED_SKIPPED, Reg.DRL_PRED_SAMPLED, Reg.DRL_PRED_MISS, Reg.DRL_PRED_MAKEUP] else [])
  | .fetCntClr o c v => some (o, .fet c, Reg.FET_CNT_CLR, if wbit v 0 then
      [Reg.FET_PF_DROPPED, Reg.FET_PAGE_IN, Reg.FET_REFETCH, Reg.FET_LATE, Reg.FET_TRACK_FULL, Reg.FET_BYTES_IN] else [])
  | .tileSramCntClr o t v => some (o, .tile t, Reg.TILE_SRAM_CNT_CLR, if wbit v 0 then [Reg.TILE_SRAM_CE, Reg.TILE_SRAM_UE] else [])
  | .tileOcCntClr o t v => some (o, .tile t, Reg.TILE_OC_CNT_CLR, if wbit v 0 then [Reg.TILE_OC_HIT, Reg.TILE_OC_MISS] else [])
  | .tileLinkCntClr o t v => some (o, .tile t, Reg.TILE_LINK_CNT_CLR, if wbit v 0 then (List.range 4).map Reg.TILE_LINK_REPLAY else [])
  | .hbcCntClr o st v => some (o, .hbc st, Reg.HBC_CNT_CLR, if wbit v 0 then
      [Reg.HBC_CE, Reg.HBC_UE, Reg.HBC_SLOTS, Reg.HBC_MERGED, Reg.HBC_ROW_REPAIRS] else [])
  | .hbcLinkCntClr o st v => some (o, .hbc st, Reg.HBC_LINK_CNT_CLR, if wbit v 0 then (List.range 4).map Reg.HBC_LINK_REPLAY else [])
  | .aznCntClr o st v => some (o, .azn st, Reg.AZN_CNT_CLR, if wbit v 0 then
      [Reg.AZN_BUSY, Reg.AZN_ELEMENTS, Reg.AZN_HBM_BYTES, Reg.AZN_PUSH_BYTES, Reg.AZN_NAN_LOST, Reg.AZN_NONFINITE] ++
        (List.range 7).flatMap (fun k => [Reg.AZN_OVF k, Reg.AZN_VANISH k]) else [])
  | .cxlCntClr o v => some (o, .cxl, Reg.CXL_CNT_CLR, if wbit v 0 then
      [Reg.CXL_PAGE_INS, Reg.CXL_PAGE_OUTS, Reg.CXL_EVICTIONS, Reg.CXL_PAGE_FAIL, Reg.CXL_BYTES, Reg.CXL_POISON] else [])
  | .shmRecCntClr o v => some (o, .shm, Reg.SHM_REC_CNT_CLR, if wbit v 0 then [Reg.SHM_NEWER, Reg.SHM_VERSION_FAULTS] else [])
  | .colCntClr o v => some (o, .col, Reg.COL_CNT_CLR, if wbit v 0 then
      [Reg.COL_TASKS, Reg.COL_BYTES_TX, Reg.COL_BYTES_RX, Reg.COL_MISMATCHES] else [])
  | .llyCntClr o v => some (o, .llyMod, Reg.LLY_CNT_CLR, if wbit v 0 then
      [Reg.LLY_NO_ROUTE, Reg.LLY_TTL_DROP, Reg.LLY_FENCED_DROPS, Reg.LLY_BAD_PKT] else [])
  | .llySpokeCntClr o k v => some (o, .spoke k, Reg.LLY_SPOKE_CNT_CLR, if wbit v 0 then
      [Reg.LLY_FLITS_TX, Reg.LLY_FLITS_RX, Reg.LLY_FEC_CORR, Reg.LLY_CRC_ERR, Reg.LLY_REPLAYS, Reg.LLY_DUP, Reg.LLY_DOWNS,
        Reg.LLY_LOST] else [])
  | .pelCntClr o v => some (o, .pel, Reg.PEL_CNT_CLR, (if wbit v 0 then
      [Reg.PEL_RELEASES, Reg.PEL_ABORTS, Reg.PEL_DROPS, Reg.PEL_SEQ_ERR, Reg.PEL_MISMATCHES] else []) ++
        if wbit v 1 then [Reg.PEL_DRAFTS] else [])
  | .pwrCntClr o v => some (o, .pwr, Reg.PWR_CNT_CLR, if wbit v 0 then
      [Reg.PWR_ENERGY, Reg.PWR_BRAKE_TIME, Reg.PWR_FAST_TRIPS] else [])
  | .mbxCntClr o p v => some (o, .mbx p, Reg.MBX_CNT_CLR, if wbit v 0 then [Reg.MBX_REFUSALS] else [])
  | .logCntClr o v => some (o, .log, Reg.LOG_CNT_CLR, if wbit v 0 then [Reg.LOG_DROPPED] else [])
  | _ => none

/-- The element-wise operations of the Aznor units: opcode and unit (R268). -/
def aznRow : Instr → Option (Nat × Fin 20)
  | .add st => some (0x03, st)
  | .sub st => some (0x04, st)
  | .mul st => some (0x05, st)
  | .fma st => some (0x06, st)
  | .div st => some (0x07, st)
  | .sqrt st => some (0x08, st)
  | .rsqrt st => some (0x09, st)
  | .max st => some (0x0A, st)
  | .min st => some (0x0B, st)
  | .abs st => some (0x0C, st)
  | .neg st => some (0x0D, st)
  | .sign st => some (0x0E, st)
  | .adds st => some (0x10, st)
  | .muls st => some (0x11, st)
  | .fmas st => some (0x12, st)
  | .lerps st => some (0x13, st)
  | .clamps st => some (0x14, st)
  | .sets st => some (0x17, st)
  | _ => none

/-- `b'` differs from `b` at most in what register words, events and entries of the audit log reach. -/
def Block.Entered (b b' : Block) : Prop :=
  b' = { b with regs := b'.regs, mem := b'.mem, poison := b'.poison, evt := b'.evt, host := b'.host, i3c := b'.i3c,
                hbm := b'.hbm, stks := b'.stks, log := b'.log, posted := b'.posted }

/-- `b` is `a` with what the gate of register writes adds: side words, entries of the audit log, and LOG_FULL where an entry fills the
log. With the event ring disabled nothing else of the module differs. -/
def Block.Logged (a b : Block) : Prop :=
  (∀ p o, o < 4096 → sideWord p o = false → b.rd p o = a.rd p o) ∧
  (∀ e, e ≠ Ev.LOG_FULL → b.evtCount e = a.evtCount e) ∧
  a.Entered b ∧
  (wbit (a.rd .mod Reg.MOD_EVT_CFG) 31 = false → b = { a with regs := b.regs, evt := b.evt, log := b.log, posted := b.posted })

end Sys2Proof.Machine
end

