-- ==== Sys2Proof/Certificates/Slice0/Obligations.lean ====
section
/-! DEFINITION. The statements about the model. -/

open Sys2Proof Sys2Proof.Machine

/-! ## Steps and state -/

/-- A step gives the command at the front of the queue its effect, on the state that holds the queue's rest. -/
def Obligations.StepRunsFrontCommand : Prop :=
  ∀ (s : State) (c : Instr) (rest : List Instr), s.pending = c :: rest → step s = exec c { s with pending := rest }

/-- With no command waiting, a step is one MCLK cycle: a module whose management block is not up stays as it is; in one whose block is up
CLK_MCLK_COUNT advances by one; and where the engines do not run, the bus takes at most one queued in-band interrupt and nothing else
changes (the tick on an empty queue is the model's choice; R404, R405, R452). -/
def Obligations.IdleStepCountsOneCycle : Prop :=
  ∀ s : State, s.pending = [] →
    (s.block.cmbUp = false → step s = .next s) ∧
    (s.block.cmbUp = true → ∃ b, step s = .next { s with block := b } ∧
      (s.block.now < 2 ^ 64 - 1 → b.now = s.block.now + 1) ∧
      (s.block.running = false →
        b.i3c.raised ++ b.i3c.ibis = s.block.i3c.raised ++ s.block.i3c.ibis ∧ s.block.i3c.ibis.length ≤ b.i3c.ibis.length + 1 ∧
        b = { s.block with regs := b.regs, i3c := b.i3c } ∧
        ∀ p o, o < 4096 → p ≠ .clk → b.rd p o = s.block.rd p o))

/-- The fuses are as the factory set them after every step: their count of schedulable cores, the least of a tile and the grade stay those of
a module that was issued (R4, R7). -/
def Obligations.StepKeepsFusesIssued : Prop :=
  ∀ s t : State, s.fuses.issued = true → step s = .next t → t.fuses.issued = true ∧ t.fuses = s.fuses

/-- Memory keeps its canonical form at every step: addresses rise and no byte is listed that reads the same unlisted, so that equal contents
are equal data (the form is the model's own; R223, R279, R430). What it says beyond those rules is the model's choice: log entries 5 and
12. -/
def Obligations.StepKeepsMemoryCanonical : Prop :=
  ∀ s t : State, s.block.memWf = true → step s = .next t → t.block.memWf = true

/-- At reset the fuses are those of an issued module, MOD_GRADE and MOD_CORE_MAP show them, memory and tables are in canonical form, no
command waits, and the boot ROM runs (R7, R430, R435). What it says beyond those rules is the model's choice: log entries 3 and 4. -/
def Obligations.ResetIsSound : Prop :=
  State.reset.fuses.issued = true ∧ State.reset.showsFuses = true ∧ State.reset.block.canonical = true ∧ State.reset.pending = [] ∧
    State.reset.block.boot.run = .bootRom

/-- Every command but JTAG_PRIVATE is answered by a next state, with the queue and the fuses as they were: no ordinary data ends a run. Words
that an engine's reads find in error are poisoned, or counted, before its step, which then goes on as it does without (R225, R226, R290,
R291). While the module does not run, a command of its engines changes nothing (R431, R433, R438). A register write whose door is shut
changes nothing: the host's while the port does not answer, any other's while the management block is not up (R416, R429, R436, R456).
What it says beyond those rules is the model's choice: log entries 6 and 11 and 20. -/
def Obligations.CommandsAnswerAndDoorsHold : Prop :=
  (∀ (c : Instr) (s : State), (∀ k, c ≠ .jtagPrivate k) → Completes c s (fun _ => True)) ∧
  (∀ (s : State) (c : Fin 128) (errs : Errs), s.block.running = true →
     let y : State := { s with block := s.block.found errs }
     let finds := fun (x z : Instr) => exec x s = exec z y
     let busy := fun (p : Nat) => ∃ t, s.block.portTask c p = some t ∧ y.block.portTask c p = some t
     (∀ a ∈ errs.uncorr, ∀ k, s.block.resolve a.toNat = .phys k → s.block.resolveOwn a.toNat = .phys k →
       y.block.poisoned a.toNat 1 = [a.toNat]) ∧ y.block.mem = s.block.mem ∧ y.block.units = s.block.units ∧
     (busy 0 → (∀ n, finds (.denseLoad c n errs) (.denseLoad c n .none)) ∧
       ∀ n dry full ecc e, finds (.denseStream c n dry full ecc e errs) (.denseStream c n dry full ecc e .none)) ∧
     (busy 3 → ∀ n ecc e, finds (.denseDrain c n ecc e errs) (.denseDrain c n ecc e .none)) ∧
     (busy 1 → (∀ n l, finds (.gather c n l errs) (.gather c n l .none) ∧ finds (.scatterAdd c n l errs) (.scatterAdd c n l .none) ∧
         finds (.scatterSet c n l errs) (.scatterSet c n l .none) ∧ finds (.select c n l errs) (.select c n l .none) ∧
         finds (.route c n l errs) (.route c n l .none) ∧ finds (.combine c n l errs) (.combine c n l .none)) ∧
       ∀ n, finds (.spmmLoad c n errs) (.spmmLoad c n .none) ∧ finds (.spmmStream c n errs) (.spmmStream c n .none) ∧
         finds (.spmmFlush c n errs) (.spmmFlush c n .none)) ∧
     (busy 2 → ∀ n, finds (.copyPlain c n errs) (.copyPlain c n .none) ∧ finds (.copyTranspose c n errs) (.copyTranspose c n .none) ∧
       finds (.copyPermute c n errs) (.copyPermute c n .none) ∧ finds (.inPlaceTranspose c n errs) (.inPlaceTranspose c n .none))) ∧
  (∀ (c : Instr) (s : State), c.isEngine = true → s.block.running = false → exec c s = .next s) ∧
  (∀ (c : Instr) (s : State) (o : Origin), c.writeOrigin = some o → s.block.doorOpen o = false → exec c s = .next s)

/-- A store changes the bytes it names and no other: for every address of tile memory or HBM that resolves, a byte outside those written reads
as before, a byte inside reads as written, and memory keeps its canonical form (R223, R279). What it says beyond those rules is the
model's choice: log entry 12. -/
def Obligations.StoreWritesItsBytes : Prop :=
  ∀ (b : Block) (a : Nat) (l : List Byte) (k : Nat),
    (∀ i < l.length, b.resolveOwn (a + i) = .phys (k + i)) → a / 65536 = (a + l.length - 1) / 65536 → 0 < l.length →
    (∀ i, i < l.length → Sparse.get b.memDef (b.store a l).mem (k + i) = l.getD i 0) ∧
    (∀ j, j < k ∨ k + l.length ≤ j → Sparse.get b.memDef (b.store a l).mem j = Sparse.get b.memDef b.mem j) ∧
    (b.memWf = true → (b.store a l).memWf = true)

/-- The 128 bytes of a task record hold every field of it at its offset: what is read from the bytes of a record is the record, and the bytes
of what is read from any 128 bytes are those bytes (R42). -/
def Obligations.TaskRecordRoundTrip : Prop :=
  (∀ r : TaskRec, r.params.length = 32 → TaskRec.ofBytes r.bytes = r) ∧
  (∀ l : List Byte, l.length = 128 → (TaskRec.ofBytes l).bytes = l)

/-! ## Registers -/

/-- A write of a register that follows its access codes alone: a bit whose code is RW or RWS takes the value that the register's table stores
for the written one, a W1C bit is cleared by a written 1, every other bit keeps its value; and no other register word, no memory and no
other state changes (R18, R19). DRL_PRED takes a write as its fields say, and ignores one whose MODE is 3 (R193). A write of the high word
of a seed reloads the rounding generators: the 40 of a core, or the 8 of an Aznor unit (R153, R271). What it says beyond those rules is
the model's choice: log entry 13. -/
def Obligations.RegisterWritesFollowAccessCodes : Prop :=
  (∀ (s : State) (o : Origin) (p : Page) (off : Nat) (v : Word) (r : RegDef),
     regAt? p off = some r → off < 4096 → off % 4 = 0 → ownRow p off = false → s.takes o p off = true →
     Completes (.registerWrite o (BitVec.ofNat 26 (addrOf p off)) v) s (fun b =>
       ∃ w : Word, (s.block.wr p off w).Logged b ∧
         ∀ i < 32, w.getLsbD i =
           match r.acc with
           | .rw => if r.mask.testBit i then (storedAs p off (v &&& BitVec.ofNat 32 r.mask)).getLsbD i else (s.block.rd p off).getLsbD i
           | .rws => if r.mask.testBit i then (storedAs p off (v &&& BitVec.ofNat 32 r.mask)).getLsbD i else (s.block.rd p off).getLsbD i
           | .w1c => (s.block.rd p off).getLsbD i && !(r.mask.testBit i && v.getLsbD i)
           | _ => (s.block.rd p off).getLsbD i)) ∧
  (∀ (s : State) (o : Origin) (c : Fin 128) (v : Word), s.takes o (.drl c) Reg.DRL_PRED = true →
     (wfield v 1 0 = 3 → exec (.drlPredWrite o c v) s = .next s) ∧
     (wfield v 1 0 ≠ 3 → Completes (.drlPredWrite o c v) s (fun b => ∃ w : Word, (s.block.wr (.drl c) Reg.DRL_PRED w).Logged b ∧
       ∀ r, regAt? (.drl c) Reg.DRL_PRED = some r → ∀ i < 32,
         w.getLsbD i = if r.mask.testBit i then v.getLsbD i else (s.block.rd (.drl c) Reg.DRL_PRED).getLsbD i))) ∧
  (∀ (s : State) (o : Origin) (v : Word),
     (∀ c : Fin 128, s.takes o (.drn c) Reg.DRN_SR_SEED_HI = true →
       Completes (.drnSrSeedHiWrite o c v) s (fun b =>
         b.rd (.drn c) Reg.DRN_SR_SEED_HI = v ∧
         b.core c.val = { s.block.core c.val with
           gens := loadGens (BitVec.ofNat 64 (s.block.rdN (.drn c) Reg.DRN_SR_SEED_LO + 2 ^ 32 * v.toNat)) })) ∧
     (∀ st : Fin 20, s.takes o (.azn st) Reg.AZN_SR_SEED_HI = true →
       Completes (.aznSrSeedHiWrite o st v) s (fun b =>
         b.rd (.azn st) Reg.AZN_SR_SEED_HI = v ∧
         (b.aznUnit st.val).gens =
           (List.range 8).map (lfsrLoad (BitVec.ofNat 64 (s.block.rdN (.azn st) Reg.AZN_SR_SEED_LO + 2 ^ 32 * v.toNat))))))

/-- A read of the low word of a 64-bit counter latches its high word: the next read of the high word returns what it was then, however the
counter has counted on, and frees the latch (R13). -/
def Obligations.CounterReadsLatchTheHighWord : Prop :=
  ∀ (b later : Block) (p : Page) (off : Nat) (r : RegDef), regAt? p off = some r → isCounter r = true → off < 4092 →
    (off - r.off) % r.stride = 0 →
    let low := b.readReg (addrOf p off)
    let high := later.readReg (addrOf p off + 4)
    later.latch = low.2.latch →
    low.1 = b.pageWord p off ∧ high.1 = b.pageWord p (off + 4) ∧ low.2 = { b with latch := low.2.latch } ∧
    ∀ e ∈ high.2.latch, e.1 ≠ addrOf p off + 4

/-- A write of a clear register leaves 0 in the counters that it clears and changes nothing else of the module; its effect makes no audit
entry (R13 and the register tables). The clear registers that reach more than counters of their page: SCH_IDLE_CLR the busy and idle
counters of its unit, AGE_CNT_CLR AGE_BUMPS and the worst slacks, MOD_EVT_CNT_CLR the counts of every event code and MOD_EVT_LOST,
EXD_CNT_CLR by bit 0 the five counters and by bit 1 every tally (R74, R219, R415, R485). -/
def Obligations.ClearRegistersClear : Prop :=
  (∀ (c : Instr) (s : State) (o : Origin) (p : Page) (off : Nat) (l : List Nat),
     clearRow c = some (o, p, off, l) → s.takes o p off = true →
     Completes c s (fun b =>
       (∀ k ∈ l, b.rd64 p k = 0) ∧
       (∀ q r, r < 4096 → (q ≠ p ∨ ∀ k ∈ l, r ≠ k ∧ r ≠ k + 4) → (q ≠ .pel ∨ r ≠ Reg.PEL_DIGEST_STAT) → b.rd q r = s.block.rd q r) ∧
       b = { s.block with regs := b.regs })) ∧
  (∀ (s : State) (o : Origin) (v : Word),
     (∀ u : UnitId, s.takes o (.sch u) Reg.SCH_IDLE_CLR = true → wbit v 0 = true →
       Completes (.schIdleClr o u v) s (fun b => b.rd64 (.sch u) Reg.SCH_BUSY = 0 ∧
         (∀ k < 10, b.rd64 (.sch u) (Reg.SCH_IDLE k) = 0) ∧ b.mem = s.block.mem ∧
         (∀ q r, r < 4096 → q ≠ .sch u → q ≠ .pel → b.rd q r = s.block.rd q r))) ∧
     (s.takes o .age Reg.AGE_CNT_CLR = true → wbit v 0 = true →
       Completes (.ageCntClr o v) s (fun b => b.rd64 .age Reg.AGE_BUMPS = 0 ∧ b.pwr.worstSlack = [] ∧ b.mem = s.block.mem)) ∧
     (s.takes o .mod Reg.MOD_EVT_CNT_CLR = true → wbit v 0 = true →
       Completes (.modEvtCntClr o v) s (fun b => (∀ e, b.evtCount e = 0) ∧ b.rd64 .mod Reg.MOD_EVT_LOST = 0 ∧ b.mem = s.block.mem)) ∧
     (s.takes o .exd Reg.EXD_CNT_CLR = true → wbit v 0 = true →
       Completes (.exdCntClrCounters o v) s (fun b =>
         (∀ k ∈ [Reg.EXD_PLACED, Reg.EXD_DROPPED, Reg.EXD_SPILLED, Reg.EXD_PAD_ROWS, Reg.EXD_NAN_TOKENS], b.rd64 .exd k = 0) ∧
         (wbit v 1 = false → b.exd = s.block.exd) ∧ b.mem = s.block.mem)) ∧
     (s.takes o .exd Reg.EXD_CNT_CLR = true → wbit v 1 = true →
       Completes (.exdCntClrTallies o v) s (fun b => b.exd.placed = [] ∧ b.exd.refused = [] ∧
         (wbit v 0 = false → ∀ q r, r < 4096 → (q ≠ .pel ∨ r ≠ Reg.PEL_DIGEST_STAT) → b.rd q r = s.block.rd q r) ∧
         b.mem = s.block.mem)))

/-- The event ring's registers: a write of MOD_EVT_CFG sets LOG2 only while the ring is disabled and ENABLE only over an aligned base, and
posts RING_ALIGN otherwise; a write of MOD_EVT_HEAD moves the head unless it would pass the tail; a write of MOD_EVT_CNT_SEL latches the
count of the selected code, 0 for an unlisted one (R483, R485). An event leaves a record, here that of a write that a lock holds off:
where the ring is enabled, takes its severity and has a free slot in the module's memory, the record is written there, the tail advances,
and a record in an empty ring sends the ring's vector; where the ring is full MOD_EVT_LOST counts and memory stays (R479, R482, R483). The
events of a command stand in ascending page and then code, and an error that comes last of them stays in MOD_EVT_LAST (R484). An interrupt
line: a 1 written to a bit of INT_FORCE sets the INT_STAT bit where the page has one; the line sends the vector that MOD_IRQ_VEC holds for
the page once, when it rises, and while it stays high or low nothing; a masked vector stays pending, and its message goes out when it is
unmasked (R423, R470). What it says beyond those rules is the model's choice: log entries 15 and 52. -/
def Obligations.EventsAndInterrupts : Prop :=
  (∀ (s : State) (o : Origin) (v : Word),
     (s.takes o .mod Reg.MOD_EVT_CFG = true →
       Completes (.modEvtCfgWrite o v) s (fun b =>
         let old := s.block.rd .mod Reg.MOD_EVT_CFG
         let log2 := if 4 ≤ (if wbit old 31 then wfield old 3 0 else wfield v 3 0) then
           (if wbit old 31 then wfield old 3 0 else wfield v 3 0) else 4
         let base := s.block.rd64 .mod Reg.MOD_EVT_BASE_LO
         let new := b.rd .mod Reg.MOD_EVT_CFG
         wfield new 3 0 = log2 ∧
         wbit new 31 = (wbit v 31 && decide (base % (32 * 2 ^ log2) = 0)) ∧
         wfield new 20 8 = wfield v 20 8 ∧
         b.evtCount Ev.RING_ALIGN = (if wbit v 31 = true ∧ base % (32 * 2 ^ log2) ≠ 0 then satAdd64 (s.block.evtCount Ev.RING_ALIGN) 1
           else s.block.evtCount Ev.RING_ALIGN) ∧
         ∀ q r, r < 4096 → sideWord q r = false → (q ≠ .mod ∨ r ≠ Reg.MOD_EVT_CFG) → b.rd q r = s.block.rd q r)) ∧
     (s.takes o .mod Reg.MOD_EVT_HEAD = true →
       Completes (.modEvtHeadWrite o v) s (fun b =>
         let size := 2 ^ wfield (s.block.rd .mod Reg.MOD_EVT_CFG) 3 0
         (size < diff32 (s.block.rdN .mod Reg.MOD_EVT_TAIL) v.toNat → s.block.Logged b) ∧
         (diff32 (s.block.rdN .mod Reg.MOD_EVT_TAIL) v.toNat ≤ size → b.rd .mod Reg.MOD_EVT_HEAD = v ∧ b.mem = s.block.mem ∧
           ∀ q r, r < 4096 → sideWord q r = false → (q ≠ .mod ∨ r ≠ Reg.MOD_EVT_HEAD) → b.rd q r = s.block.rd q r))) ∧
     (s.takes o .mod Reg.MOD_EVT_CNT_SEL = true →
       Completes (.modEvtCntSelWrite o v) s (fun b =>
         b.rd64 .mod Reg.MOD_EVT_CNT = (if evListed (wfield v 15 0) then (s.block.evtCount (wfield v 15 0)).toNat else 0) ∧
         wfield (b.rd .mod Reg.MOD_EVT_CNT_SEL) 15 0 = wfield v 15 0 ∧ b.mem = s.block.mem))) ∧
  ((∀ (s : State) (o : Origin) (p : Page) (off : Nat) (v : Word) (r : RegDef) (k : Nat),
     regAt? p off = some r → off < 4096 → off % 4 = 0 → ownRow p off = false → s.block.doorOpen o = true →
     s.block.writable p off = true → originFits o p = true → isOutside o = true → loggedReg p off = true → s.block.locked o p = true →
     let cfg := s.block.rd .mod Reg.MOD_EVT_CFG
     let size := 2 ^ wfield cfg 3 0
     let head := s.block.rdN .mod Reg.MOD_EVT_HEAD
     let tail := s.block.rdN .mod Reg.MOD_EVT_TAIL
     let slot := s.block.rd64 .mod Reg.MOD_EVT_BASE_LO + 32 * (tail % size)
     let vec := wfield cfg 15 8
     let masked := (Sparse.get msixReset s.block.host.msix (4 * vec + 3)).getLsbD 0
     let record := evtRecord Ev.REG_LOCKED (pageIndex p) s.block.now s.block.pel.lastSeq (addrOf p off + 2 ^ 32 * o.code)
     wbit cfg 31 = true → wbit cfg (16 + evSeverity Ev.REG_LOCKED) = true →
     (size ≤ diff32 tail head → Completes (.registerWrite o (BitVec.ofNat 26 (addrOf p off)) v) s (fun b =>
       b.rd64 .mod Reg.MOD_EVT_LOST = min (s.block.rd64 .mod Reg.MOD_EVT_LOST + 1) (2 ^ 64 - 1) ∧
       b.rdN .mod Reg.MOD_EVT_TAIL = tail ∧ b.mem = s.block.mem)) ∧
     (diff32 tail head < size → (∀ i < 32, s.block.resolveOwn (slot + i) = .phys (k + i)) → slot / 65536 = (slot + 31) / 65536 →
       Completes (.registerWrite o (BitVec.ofNat 26 (addrOf p off)) v) s (fun b =>
         b.rdN .mod Reg.MOD_EVT_TAIL = (tail + 1) % 2 ^ 32 ∧
         (∀ i < 32, Sparse.get b.memDef b.mem (k + i) = record.getD i 0) ∧
         b.host.sent = s.block.host.sent ++ (if tail = head ∧ s.block.host.msixEnable = true ∧ masked = false then [vec] else [])))) ∧
   (∀ (b : Block) (e : Nat) (p : Page) (d : Nat),
     let before := fun (x y : Posted) => x.page < y.page ∨ (x.page = y.page ∧ x.code ≤ y.code)
     let new : Posted := { code := e, page := pageIndex p, data := d, barrierSeq := b.pel.lastSeq }
     b.posted.Pairwise before → (b.post e p d).posted.Pairwise before ∧ (b.post e p d).posted.Perm (new :: b.posted)) ∧
   (∀ (b : Block) (l : List Posted) (y : Posted), b.posted = l ++ [y] → evSeverity y.code = 3 →
     b.settle.rd .mod Reg.MOD_EVT_LAST = BitVec.ofNat 32 (y.page * 2 ^ 16 + y.code))) ∧
  (∀ s : State,
     (∀ (o : Origin) (p : Page) (v : Word), s.takes o p Reg.INT_FORCE = true →
       Completes (.intForceWrite o p v) s (fun b =>
         (s.block.wr p Reg.INT_STAT (s.block.rd p Reg.INT_STAT ||| (v &&& BitVec.ofNat 32 (intBits p)))).Logged b)) ∧
     (∀ p : Page, s.block.cmbUp = true → s.block.lineHigh p = true → s.block.host.high.contains (pageIndex p) = false →
       Completes (.interruptLineRise p) s (fun b =>
         let vec := wfield (Sparse.get (fun _ => (0 : Word)) s.block.host.irqVec (pageIndex p)) 7 0
         let masked := (Sparse.get msixReset s.block.host.msix (4 * vec + 3)).getLsbD 0
         b.host.high = s.block.host.high ++ [pageIndex p] ∧
         b.host.sent = s.block.host.sent ++ (if s.block.host.msixEnable && !masked then [vec] else []) ∧
         (s.block.host.msixEnable = true → masked = true → b.host.msixPend.contains vec = true) ∧
         b.regs = s.block.regs ∧ b.mem = s.block.mem)) ∧
     (∀ p : Page, s.block.lineHigh p = false ∨ s.block.host.high.contains (pageIndex p) = true →
       exec (.interruptLineRise p) s = .next s) ∧
     (∀ (n : Fin 256) (v : Word), s.block.hostOpen = true → wbit v 0 = false → s.block.host.msixEnable = true →
       s.block.host.msixPend.contains n.val = true →
       Completes (.msixUnmask n v) s (fun b =>
         b.host.sent = s.block.host.sent ++ [n.val] ∧ b.host.msixPend.contains n.val = false ∧
         Sparse.get msixReset b.host.msix (4 * n.val + 3) = 0 ∧ b.regs = s.block.regs ∧ b.mem = s.block.mem)))

/-- LOCK: an unlocked page takes the word as written; on a locked page a write of HOST or MGMT origin clears OPEN bits and does nothing else;
firmware writes it freely. No other register word changes (R475). A register write that the page's lock holds off: REG_LOCKED counts it,
and no word changes but the event's own (R474). What it says beyond those rules is the model's choice: log entry 13. -/
def Obligations.LocksHold : Prop :=
  (∀ (s : State) (o : Origin) (p : Page) (v : Word), s.block.doorOpen o = true → originFits o p = true →
     (isOutside o = true → s.block.strictFull = false) →
     Completes (.lockWrite o p v) s (fun b =>
       (∀ i < 32, wbit (b.rd p Reg.LOCK) i =
         (if isOutside o && wbit (s.block.rd p Reg.LOCK) 31 then
           wbit (s.block.rd p Reg.LOCK) i && (decide (i = 31) || (decide (i < 2) && wbit v i))
         else (decide (i = 31) || decide (i < 2)) && wbit v i)) ∧
       (∀ q r, r < 4096 → sideWord q r = false → (q ≠ p ∨ r ≠ Reg.LOCK) → b.rd q r = s.block.rd q r) ∧
       (wbit (s.block.rd .mod Reg.MOD_EVT_CFG) 31 = false → b.mem = s.block.mem))) ∧
  (∀ (s : State) (o : Origin) (p : Page) (off : Nat) (v : Word) (r : RegDef),
     regAt? p off = some r → off < 4096 → off % 4 = 0 → ownRow p off = false → s.block.doorOpen o = true →
     s.block.writable p off = true → originFits o p = true → isOutside o = true → loggedReg p off = true → s.block.locked o p = true →
     Completes (.registerWrite o (BitVec.ofNat 26 (addrOf p off)) v) s (fun b =>
       b.evtCount Ev.REG_LOCKED = satAdd64 (s.block.evtCount Ev.REG_LOCKED) 1 ∧
       (∀ q k, k < 4096 → sideWord q k = false → b.rd q k = s.block.rd q k) ∧
       (wbit (s.block.rd .mod Reg.MOD_EVT_CFG) 31 = false → b.mem = s.block.mem ∧ b.log = s.block.log)))

/-- The host's apertures while the module runs: a write of a window base moves the window; a read of bytes of one 64-bit word returns them and
writes nothing; a write lands in memory and nowhere else, or is dropped with HOST_ADDR_UNMAPPED; an access that is no aligned 32-bit one
completes with Unsupported Request (R419, R420, R421). What it says beyond those rules is the model's choice: log entry 41. -/
def Obligations.HostApertures : Prop :=
  ∀ s : State,
    (∀ (o : Origin) (w : Fin 4) (hi : Bool) (v : Word),
      s.takes o .mod (if hi then Reg.MOD_WIN_BASE_HI w else Reg.MOD_WIN_BASE_LO w) = true →
      Completes (.modWinBaseWrite o w hi v) s (fun b =>
        let off := if hi then Reg.MOD_WIN_BASE_HI w else Reg.MOD_WIN_BASE_LO w
        let m : Word := if hi then 0x1FFF else 0xFFE00000
        (s.block.wr .mod off ((s.block.rd .mod off &&& ~~~m) ||| (v &&& m))).Logged b)) ∧
    (∀ off n k : Nat, s.block.hostOpen = true → s.block.boot.run = .running → 0 < n → off + n ≤ 2 ^ 35 →
      s.block.windowAddr off / 8 = (s.block.windowAddr off + n - 1) / 8 → s.block.resolve (s.block.windowAddr off) = .phys k →
      Sparse.get (fun _ => false) s.block.poison (k / 8) = false →
      Completes (.memoryApertureRead off n .none) s (fun b =>
        b.host.reply = .bytes (s.block.physBytes k n) ∧ b.mem = s.block.mem ∧
        ∀ q r, r < 4096 → sideWord q r = false → b.rd q r = s.block.rd q r)) ∧
    (∀ (off k : Nat) (l : List Byte), s.block.hostOpen = true → s.block.boot.run = .running → 0 < l.length → off + l.length ≤ 2 ^ 35 →
      s.block.windowAddr off / 65536 = (s.block.windowAddr off + l.length - 1) / 65536 →
      s.block.resolve (s.block.windowAddr off) = .phys k → s.block.sealed (s.block.windowAddr off) = false →
      Completes (.memoryApertureWrite off l) s (fun b =>
        b.host.reply = .done ∧
        (∀ i < l.length, Sparse.get s.block.memDef b.mem (k + i) = l.getD i 0) ∧
        (∀ j, j < k ∨ k + l.length ≤ j → Sparse.get s.block.memDef b.mem j = Sparse.get s.block.memDef s.block.mem j) ∧
        ∀ q r, r < 4096 → sideWord q r = false → b.rd q r = s.block.rd q r)) ∧
    (∀ (off : Nat) (l : List Byte), s.block.hostOpen = true → s.block.boot.run = .running → 0 < l.length → off + l.length ≤ 2 ^ 35 →
      s.block.windowAddr off / 65536 = (s.block.windowAddr off + l.length - 1) / 65536 →
      s.block.resolve (s.block.windowAddr off) = .unmapped → s.block.sealed (s.block.windowAddr off) = false →
      Completes (.memoryApertureWrite off l) s (fun b =>
        b.host.reply = .done ∧ b.evtCount Ev.HOST_ADDR_UNMAPPED = satAdd64 (s.block.evtCount Ev.HOST_ADDR_UNMAPPED) 1 ∧
        (wbit (s.block.rd .mod Reg.MOD_EVT_CFG) 31 = false → b.mem = s.block.mem))) ∧
    (∀ (off : BitVec 26) (n : Nat), s.block.host.linkUp = true → ¬ (n = 4 ∧ off.toNat % 4 = 0) →
      Completes (.registerAccessUnaligned off n) s (fun b =>
        b = { s.block with host := { s.block.host with reply := .unsupported } }))

/-! ## Units, tasks and synchronisation -/

/-- The ring's indices: a doorbell advances the producer index; one that would leave more records outstanding than slots is ignored with
RING_OVERRUN, one on an absent unit with UNIT_ABSENT; a completion-ring head that would pass the tail is ignored with RING_OVERRUN (R6,
R37). SCH_RING_CFG: while ENABLE is 1 a write changes ENABLE alone; otherwise it sets the sizes, at least 16 slots each, and the context,
and ENABLE only over bases that are aligned to the rings' sizes, posting RING_ALIGN where they are not (R36). A gang definition is applied
where the gang has no task, names schedulable cores only, and nests at most two deep; otherwise it is ignored with GANG_BUSY, UNIT_ABSENT
or GANG_DEPTH (R24, R40). What it says beyond those rules is the model's choice: log entries 39 and 49. -/
def Obligations.RingWritesAreChecked : Prop :=
  (∀ (s : State) (o : Origin) (u : UnitId) (v : Word),
     let p : Page := .sch u
     let cfg := s.block.rd p Reg.SCH_RING_CFG
     (s.block.doorOpen o = true → s.block.present p = true → diff32 v.toNat (s.block.rdN p Reg.SCH_TRING_HEAD) ≤ 2 ^ wfield cfg 3 0 →
       Completes (.doorbell o u v) s (fun b => b = s.block.wr p Reg.SCH_TRING_TAIL v)) ∧
     (s.block.doorOpen o = true → s.block.present p = true → 2 ^ wfield cfg 3 0 < diff32 v.toNat (s.block.rdN p Reg.SCH_TRING_HEAD) →
       Completes (.doorbell o u v) s (fun b =>
         b.evtCount Ev.RING_OVERRUN = satAdd64 (s.block.evtCount Ev.RING_OVERRUN) 1 ∧
         ∀ q r, r < 4096 → sideWord q r = false → b.rd q r = s.block.rd q r)) ∧
     (s.block.doorOpen o = true → s.block.present p = false →
       Completes (.doorbell o u v) s (fun b =>
         b.evtCount Ev.UNIT_ABSENT = satAdd64 (s.block.evtCount Ev.UNIT_ABSENT) 1 ∧
         ∀ q r, r < 4096 → sideWord q r = false → b.rd q r = s.block.rd q r)) ∧
     (s.takes o p Reg.SCH_CRING_HEAD = true → diff32 (s.block.rdN p Reg.SCH_CRING_TAIL) v.toNat ≤ 2 ^ wfield cfg 11 8 →
       Completes (.schCringHeadWrite o u v) s (s.block.wr p Reg.SCH_CRING_HEAD v).Logged) ∧
     (s.takes o p Reg.SCH_CRING_HEAD = true → 2 ^ wfield cfg 11 8 < diff32 (s.block.rdN p Reg.SCH_CRING_TAIL) v.toNat →
       Completes (.schCringHeadWrite o u v) s (fun b =>
         b.evtCount Ev.RING_OVERRUN = satAdd64 (s.block.evtCount Ev.RING_OVERRUN) 1 ∧
         ∀ q r, r < 4096 → sideWord q r = false → b.rd q r = s.block.rd q r))) ∧
  (∀ (s : State) (o : Origin) (u : UnitId) (v : Word), s.takes o (.sch u) Reg.SCH_RING_CFG = true →
     let p : Page := .sch u
     let cfg := s.block.rd p Reg.SCH_RING_CFG
     let t := if 4 ≤ wfield v 3 0 then wfield v 3 0 else 4
     let c := if 4 ≤ wfield v 11 8 then wfield v 11 8 else 4
     let fits := decide (s.block.rd64 p Reg.SCH_TRING_BASE_LO % (128 * 2 ^ t) = 0) &&
       decide (s.block.rd64 p Reg.SCH_CRING_BASE_LO % (32 * 2 ^ c) = 0)
     Completes (.schRingCfgWrite o u v) s (fun b =>
       (wbit cfg 24 = true → wbit v 24 = true → s.block.Logged b) ∧
       (wbit cfg 24 = true → wbit v 24 = false → (s.block.wr p Reg.SCH_RING_CFG (wsetBit cfg 24 false)).Logged b) ∧
       (wbit cfg 24 = false →
         wfield (b.rd p Reg.SCH_RING_CFG) 3 0 = t ∧ wfield (b.rd p Reg.SCH_RING_CFG) 11 8 = c ∧
         wfield (b.rd p Reg.SCH_RING_CFG) 18 16 = wfield v 18 16 ∧ wbit (b.rd p Reg.SCH_RING_CFG) 24 = (wbit v 24 && fits) ∧
         b.evtCount Ev.RING_ALIGN = (if wbit v 24 && !fits then satAdd64 (s.block.evtCount Ev.RING_ALIGN) 1
           else s.block.evtCount Ev.RING_ALIGN) ∧
         ∀ q r, r < 4096 → sideWord q r = false → (q ≠ p ∨ r ≠ Reg.SCH_RING_CFG) → b.rd q r = s.block.rd q r))) ∧
  (∀ (s : State) (o : Origin) (t : Fin 16) (g : Fin 8) (v : Word), s.takes o (.tile t) (Reg.TILE_GANG_DEF g.val) = true →
     let new := s.block.writeFields (.tile t) (Reg.TILE_GANG_DEF g.val) v
     let w := new.rd (.tile t) (Reg.TILE_GANG_DEF g.val)
     let absent := (List.finRange 8).any (fun c => wbit w c.val && !s.block.coreOn (flatCore t c))
     w ≠ s.block.rd (.tile t) (Reg.TILE_GANG_DEF g.val) →
     Completes (.gangDefWrite o t g v) s (fun b =>
       ((s.block.unit (.gang t g)).board = [] → (wbit w 31 = true → absent = false ∧ depthOk (new.gangDef t) = true) →
         (s.block.wr (.tile t) (Reg.TILE_GANG_DEF g.val) w).Logged b) ∧
       ((s.block.unit (.gang t g)).board ≠ [] → b.evtCount Ev.GANG_BUSY = satAdd64 (s.block.evtCount Ev.GANG_BUSY) 1 ∧
         b.rd (.tile t) (Reg.TILE_GANG_DEF g.val) = s.block.rd (.tile t) (Reg.TILE_GANG_DEF g.val)) ∧
       ((s.block.unit (.gang t g)).board = [] → wbit w 31 = true → absent = true →
         b.evtCount Ev.UNIT_ABSENT = satAdd64 (s.block.evtCount Ev.UNIT_ABSENT) 1 ∧
         b.rd (.tile t) (Reg.TILE_GANG_DEF g.val) = s.block.rd (.tile t) (Reg.TILE_GANG_DEF g.val)) ∧
       ((s.block.unit (.gang t g)).board = [] → wbit w 31 = true → absent = false → depthOk (new.gangDef t) = false →
         b.evtCount Ev.GANG_DEPTH = satAdd64 (s.block.evtCount Ev.GANG_DEPTH) 1 ∧
         b.rd (.tile t) (Reg.TILE_GANG_DEF g.val) = s.block.rd (.tile t) (Reg.TILE_GANG_DEF g.val))))

/-- Admission at a core takes the record at the head of its ring: a record that passes its checks joins the board, and HEAD advances; one that
fails a check is not admitted, its event counts, HEAD passes it and ENABLE is cleared (R43). What it says beyond those rules is the
model's choice: log entries 49 and 56. -/
def Obligations.AdmissionTakesTheNextRecord : Prop :=
  ∀ (s : State) (c : Fin 128),
    let u : UnitId := .core c
    let p : Page := .sch u
    let head := s.block.rdN p Reg.SCH_TRING_HEAD
    let cfg := s.block.rd p Reg.SCH_RING_CFG
    let a := s.block.rd64 p Reg.SCH_TRING_BASE_LO + 128 * (head % 2 ^ wfield cfg 3 0)
    let r := TaskRec.ofBytes (s.block.bytes a 128)
    let x := { s.block.unit u with lastPath := 0 }
    let b0 := (s.block.setUnit u x).touched (unitDie u) ((a, 128) :: r.readsAtAdmission)
    let chk := b0.admitCheck u (wfield cfg 18 16) r
    s.block.running = true → s.block.holdsTasks = false → x.stalled = false → x.board.length < 16 → x.inbox = [] →
    s.block.ringReady u = true → s.block.recordFits a 128 = true → s.block.reuseOk u r = true →
      (chk.1 = 0 →
        Completes (.taskAdmit u none) s (fun b =>
          (∃ t : TaskSt, (b.unit u).board = x.board ++ [t] ∧ t.task = r ∧ t.phase = .admitted ∧ t.parent = none ∧
            t.ctx = wfield cfg 18 16) ∧
          b.rdN p Reg.SCH_ADMITTED = x.board.length + 1 ∧ b.rdN p Reg.SCH_TRING_HEAD = (head + 1) % 2 ^ 32 ∧
          b.mem = s.block.mem ∧
          ∀ q k, k < 4096 → sideWord q k = false → (q ≠ p ∨ (k ≠ Reg.SCH_ADMITTED ∧ k ≠ Reg.SCH_TRING_HEAD)) → b.rd q k = s.block.rd q k)) ∧
      (chk.1 ≠ 0 → chk.2.2.mustStall u r = false →
        Completes (.taskAdmit u none) s (fun b =>
          (b.unit u).board = x.board ∧ wbit (b.rd p Reg.SCH_RING_CFG) 24 = false ∧
          b.rdN p Reg.SCH_TRING_HEAD = (head + 1) % 2 ^ 32 ∧
          b.evtCount chk.1 = satAdd64 (s.block.evtCount chk.1) 1))

/-- Start: the task that the order of its resource picks runs from then on, with its arrival time noted; one that fails a check of its
dispatch is stopped with that code and its link; one that SLEW holds is marked and waits. Nothing of these changes a byte of memory or
posts an event (R51, R99, R253, R395). A task held for HOLD_US that still does not fit starts at a lower setting, unless slew holds it on,
which it then shows: the tile's window limit is the highest setting at or below its present limit at which the draw fits, 8 where none
does, and WINDOW is set in the brake state. With a package link down or the module fenced it stays as it is (R34, R339, R393, R395). What
it says beyond those rules is the model's choice: log entries 23 and 34 and 49 and 56. -/
def Obligations.StartRunsTheChosenTask : Prop :=
  (∀ (s : State) (t : TaskSt), s.block.running = true → s.block.net.down = [] → s.block.fenced = false →
     (∀ (c : Fin 128) (unspent : Nat),
       (s.block.waiting (.core c) 3).find? (fun x => s.block.startable (.core c) x &&
         (decide ((s.block.tile (coreTile c).val).syncWaits.length < 64) || !(x.task.kind == 9 && syncBlocks x.task))) = some t →
       Completes (.taskStart (.core c) 3 unspent) s (fun b =>
         (b.unit (.core c)).board = (s.block.unit (.core c)).board.map (fun x =>
           if x.serial = t.serial then { x with phase := .running, heldAt := 0, arriveTime := s.block.now } else x) ∧
         b.regs = s.block.regs ∧ b.mem = s.block.mem)) ∧
     (∀ (c : Fin 128) (r unspent : Nat), r < 3 → s.block.resourceOpen c r = true → s.block.nextTask (.core c) r = some t →
       (t.isEmpty = true ∨ s.block.drawOf c t.task.energyClass ≤ unspent) → s.block.needsShadow (.core c) t = false →
       (s.block.slewHolds c r t = true → Completes (.taskStart (.core c) r unspent) s (fun b =>
         b = s.block.mapTask (.core c) t.serial (fun x => { x with slewHeld := true }))) ∧
       (s.block.slewHolds c r t = false →
         Completes (.taskStart (.core c) r unspent) s (fun b =>
           (∃ x ∈ (b.unit (.core c)).board, x.serial = t.serial ∧ x.task = t.task ∧ x.arriveTime = s.block.now ∧ x.heldAt = 0 ∧
             (x.phase = .running ∧ x.faultCode = t.faultCode ∨ x.phase = .finished ∧ x.faultCode.isSome = true ∧ t.isEmpty = false)) ∧
           b.mem = s.block.mem ∧ b.evt = s.block.evt) ∧
         (r = 2 → t.isEmpty = false →
           let d := ((s.block.mapTask (.core c) t.serial (fun x => { x with slewHeld := false })).begin (.core c) t.serial).takeRecords c t
           Completes (.taskStart (.core c) r unspent) s (fun b => ∃ x ∈ (b.unit (.core c)).board, x.serial = t.serial ∧
             match d.startCheck t with
             | none => x.phase = .running
             | some p => x.phase = .finished ∧ x.faultCode = some p.1 ∧ x.link = p.2)))) ∧
     (∀ (i : Fin 16) (r unspent : Nat), (s.block.unit (.die i)).board.find? (s.block.startable (.die i)) = some t →
       Completes (.taskStart (.die i) r unspent) s (fun b =>
         (b.unit (.die i)).board = (s.block.unit (.die i)).board.map (fun x =>
           if x.serial = t.serial then { x with phase := .running, heldAt := 0, arriveTime := s.block.now } else x) ∧
         b.regs = s.block.regs ∧ b.mem = s.block.mem))) ∧
  (∀ (s : State) (c : Fin 128) (i : Nat) (t : TaskSt),
     let tile := (coreTile c).val
     let m := s.block.lowestLimit tile
     let r := kindResource t.task.kind.toNat
     let slewed := (s.block.fitClass tile t.task.energyClass (s.block.unspent tile)).slewHolds c r t
     let fits := fun (k : Nat) => s.block.scaleDraw tile (s.block.classDraw tile t.task.energyClass) k ≤ s.block.unspent tile
     s.block.running = true → s.block.task? (.core c) i = some t → 0 < t.heldAt →
     t.heldAt - 1 + usToMclk (wfield (s.block.eff .pwr Reg.PWR_CAD_CFG) 23 16) ≤ s.block.now →
     s.block.startable (.core c) t = true → r < 3 → s.block.resourceOpen c r = true → s.block.needsShadow (.core c) t = false → 8 ≤ m →
     ((s.block.net.down ≠ [] ∨ s.block.fenced = true) → exec (.holdExpire (.core c) i) s = .next s) ∧
     (s.block.net.down = [] → s.block.fenced = false → Completes (.holdExpire (.core c) i) s (fun b =>
       (∃ k, limitAt b.pwr.window tile = some k ∧ 8 ≤ k ∧ k ≤ m ∧ (fits k ∨ k = 8) ∧ ∀ j, k < j → j ≤ m → ¬ fits j) ∧
       (∃ x ∈ (b.unit (.core c)).board, x.serial = t.serial ∧ (slewed = true → x.phase = .admitted)) ∧
       (∀ x ∈ (b.unit (.core c)).board, x.serial = t.serial →
         if slewed then x.slewHeld = true else x.phase ≠ .admitted) ∧
       wbit (b.rd .pwr Reg.PWR_BRAKE_STAT) 0 = true ∧ wfield (b.rd .clk (Reg.CLK_TILE tile)) 12 8 = b.lowestLimit tile)))

/-- The end of a task on a unit's own ring: its completion record lies in the next slot of the completion ring, TAIL passes it, the task is
off the scoreboard; before that its signal has added its increment to the semaphore. It comes once its writes are complete and the records
of array tasks before it are written. While its work is not done, nothing happens (R53, R54, R255). A unit whose completion ring was full
goes on once a slot is free: the first task held on it completes as TASK_COMPLETE completes it, and with none held the unit is only no
longer stalled; while the ring stays full nothing happens (R39). What it says beyond those rules is the model's choice: log entry 51. -/
def Obligations.CompletionSignalsAndRecords : Prop :=
  (∀ (s : State) (u : UnitId) (i cycles : Nat) (t : TaskSt),
     let p : Page := .sch u
     let tail := s.block.rdN p Reg.SCH_CRING_TAIL
     let slot := s.block.rd64 p Reg.SCH_CRING_BASE_LO + 32 * (tail % 2 ^ wfield (s.block.rd p Reg.SCH_RING_CFG) 11 8)
     s.block.running = true → s.block.task? u i = some t →
     (t.phase = .running → s.block.workDone u t = false → exec (.taskComplete u i cycles) s = .next s) ∧
     (s.block.bySerial u t.serial = some t → t.phase = .finished → t.parent = none → t.settled = true → t.faultCode = none →
       s.block.awaits u t.serial = false → s.block.writesWait t.serial = false → s.block.recordWaits u t = false →
       s.block.mustStall u t.task = false →
       (t.sigDone = true → t.task.noCrec = false → s.block.recordFits slot 32 = true → slot / 65536 = (slot + 31) / 65536 →
         Completes (.taskComplete u i cycles) s (fun b =>
           b.bytes slot 32 = recordBytes u t.task t.verdict s.block.now s.block.pel.lastSeq ∧
           b.rdN p Reg.SCH_CRING_TAIL = (tail + 1) % 2 ^ 32 ∧ (∀ x ∈ (b.unit u).board, x.serial ≠ t.serial) ∧
           (t.task.irq = true → wbit (b.rd p Reg.INT_STAT) 0 = true))) ∧
       (t.sigDone = false → t.verdict.outcome.signals = true → t.sig1 = none →
         ∀ r : SemRef, t.sig0 = some r → r.here = true → r.core < 128 → r.phys < 64 →
         Completes (.taskComplete u i cycles) s (fun b =>
           b.semVal r.core r.phys = (s.block.semVal r.core r.phys + t.task.signal0Inc.toNat) % 2 ^ 32 ∧
           ∀ x ∈ (b.unit u).board, x.serial ≠ t.serial)))) ∧
  (∀ (s : State) (u : UnitId), s.block.running = true → (s.block.unit u).stalled = true →
     let held := fun (t : TaskSt) => decide (t.phase = .finished) && t.parent.isNone && !t.task.noCrec && t.settled
     let free : State := { s with block := s.block.setUnit u { s.block.unit u with stalled := false } }
     (s.block.cringFull u = true → exec (.cringResume u) s = .next s) ∧
     (s.block.cringFull u = false → (s.block.unit u).board.find? held = none → exec (.cringResume u) s = .next free) ∧
     (s.block.cringFull u = false → ∀ (i : Nat) (t : TaskSt), s.block.task? u i = some t → (s.block.unit u).board.find? held = some t →
       exec (.cringResume u) s = exec (.taskComplete u i 0) free ∧ Completes (.cringResume u) s (fun _ => True)))

/-- The end of a share that is not its parent's last: it leaves its unit, and its parent holds its outcome (R49). A running task whose count
reaches BUDGET posts BUDGET_EXCEEDED: with BUDGET_REPORT it runs on and is marked, otherwise it is stopped with that code (R46). What it
says beyond those rules is the model's choice: log entries 34 and 54. -/
def Obligations.SharesReportAndBudgetsStop : Prop :=
  (∀ (s : State) (u : UnitId) (i : Nat) (counts : List Nat) (t q : TaskSt) (p : ParentRef),
     s.block.running = true → s.block.task? u i = some t → s.block.bySerial u t.serial = some t → t.parent = some p → t.path ≠ 12 →
     t.phase = .finished → t.settled = true → t.faultCode = none → s.block.awaits u t.serial = false →
     p.unit ≠ u → p.unit ≠ .group → s.block.bySerial p.unit p.serial = some q → q.phase = .running →
     q.shares.length + 1 < q.shareCount →
     Completes (.shareComplete u i none counts) s (fun b =>
       (∀ x ∈ (b.unit u).board, x.serial ≠ t.serial) ∧
       ∃ q' : TaskSt, b.bySerial p.unit p.serial = some q' ∧ q'.phase = .running ∧ q'.shareCount = q.shareCount ∧
         q'.shares = q.shares ++
           [{ child := p.child, outcome := t.verdict.outcome, status := t.verdict.status, cycles := t.verdict.cycles }])) ∧
  (∀ (s : State) (u : UnitId) (i cycles : Nat) (t : TaskSt),
     s.block.running = true → s.block.task? u i = some t → s.block.bySerial u t.serial = some t → t.phase = .running →
     t.exceeded = false → runsHere u t.task.kind.toNat = true → t.task.kind ≠ 7 → t.task.kind ≠ 8 → t.isEmpty = false →
     t.task.budget.toNat ≤ t.cycles + cycles →
     Completes (.budgetExceeded u i cycles) s (fun b =>
       b.evtCount Ev.BUDGET_EXCEEDED = satAdd64 (s.block.evtCount Ev.BUDGET_EXCEEDED) 1 ∧
       ∃ t' : TaskSt, b.bySerial u t.serial = some t' ∧ t'.task = t.task ∧
         (t.task.budgetReport = true ∨ kindResource t.task.kind.toNat ≠ 0 → t'.cycles = t.cycles + cycles) ∧
         (t.task.budgetReport = true → t'.phase = .running ∧ t'.exceeded = true ∧ t'.faultCode = t.faultCode) ∧
         (t.task.budgetReport = false → t'.phase = .finished ∧ t'.faultCode = some Ev.BUDGET_EXCEEDED)))

/-- The decision on a speculative task that is still open: DISCARD_SEM wins where both semaphores have passed, CONFIRM_SEM decides where it
alone has, and with neither nothing changes; a share of another module's group takes the decision it is told (R57). Commit of a confirmed
speculative task of a core that has finished without a fault: the target's allocation holds the shadow's slabs, the shadow's allocation is
gone, and the task is decided or off the board (R58). Discard of a speculative task of a core: no semaphore is signalled, the shadow's
allocation is gone, and the task is decided or off the board (R58). The oldest waiting shadow request of a tile is granted when slabs, a
run and a place in the table are free: an allocation of kind SHADOW with slabs enough, known to the task, whose slabs alone of all memory
take other contents; otherwise it waits (R56, R231). What it says beyond those rules is the model's choice: log entries 5 and 34 and 40. -/
def Obligations.SpeculationIsDecidedOnce : Prop :=
  (∀ (s : State) (u : UnitId) (i : Nat) (told : Option Bool) (t : TaskSt),
     s.block.running = true → s.block.task? u i = some t → s.block.bySerial u t.serial = some t → t.task.spec = true →
     t.decided = false → t.decision = .open_ →
     let dis := s.block.decides t.discard t.task.decideTarget
     let con := s.block.decides t.confirm t.task.decideTarget
     let holds := fun (d : Decision) (b : Block) =>
       (∃ t' : TaskSt, b.bySerial u t.serial = some t' ∧ t'.decision = d ∧ t'.decided = false ∧ t'.phase = t.phase) ∧
       b.regs = s.block.regs ∧ b.mem = s.block.mem
     (t.parent = none → t.path ≠ 12 → dis = true → Completes (.specDecide u i told) s (holds .discard)) ∧
     (t.parent = none → t.path ≠ 12 → dis = false → con = true → Completes (.specDecide u i told) s (holds .confirm)) ∧
     (t.parent = none → t.path ≠ 12 → dis = false → con = false → exec (.specDecide u i told) s = .next s) ∧
     (t.path = 12 → told = some true → Completes (.specDecide u i told) s (holds .confirm)) ∧
     (t.path = 12 → told = some false → Completes (.specDecide u i told) s (holds .discard))) ∧
  (∀ (s : State) (c : Fin 128) (i sh tg a g : Nat) (t : TaskSt) (tile tile' : Fin 16) (x y : SramAlloc),
     let u : UnitId := .core c
     s.block.running = true → s.block.task? u i = some t → s.block.family t.serial = [(u, t)] → s.block.familyInbox t.serial = [] →
     t.task.spec = true → t.decided = false → t.decision = .confirm → t.parent = none → t.phase = .finished → t.faultCode = none →
     t.shadow = some (sh, tg) → slabAt sh = some (tile, a) → slabAt tg = some (tile', g) → a ≠ g →
     (s.block.tile tile.val).allocs.find? (fun z => z.base == a) = some x →
     (s.block.tile tile.val).allocs.find? (fun z => z.base == g) = some y →
     Completes (.specCommit u i) s (fun b =>
       (∃ z ∈ (b.tile tile.val).allocs, z.base = g ∧ z.slabs = x.slabs ∧ z.kind = y.kind) ∧
       (∀ z ∈ (b.tile tile.val).allocs, z.base ≠ a) ∧
       ∀ w ∈ (b.unit u).board, w.serial = t.serial → w.decided = true ∧ w.decision = .confirm)) ∧
  (∀ (s : State) (c : Fin 128) (i sh tg a : Nat) (t : TaskSt) (tile : Fin 16) (x : SramAlloc),
     let u : UnitId := .core c
     s.block.running = true → s.block.task? u i = some t → s.block.family t.serial = [(u, t)] → s.block.familyInbox t.serial = [] →
     t.task.spec = true → t.decided = false → t.decision = .discard → t.parent = none → t.phase = .finished →
     t.shadow = some (sh, tg) → slabAt sh = some (tile, a) →
     (s.block.tile tile.val).allocs.find? (fun z => z.base == a) = some x →
     Completes (.specDiscard u i) s (fun b =>
       (∀ d p, d < 128 → p < 64 → b.semVal d p = s.block.semVal d p) ∧
       (∀ z ∈ (b.tile tile.val).allocs, z.base ≠ a) ∧
       ∀ w ∈ (b.unit u).board, w.serial = t.serial → w.decided = true ∧ w.decision = .discard)) ∧
  (∀ (s : State) (t : Fin 16) (q : ShadowReq) (rest : List ShadowReq),
     let order := match q.home with
       | some c => sliceOrder c true
       | none => List.range 8
     let b0 := s.block.setTile t.val { s.block.tile t.val with shadowQ := rest }
     s.block.running = true → (s.block.tile t.val).shadowQ = q :: rest →
     (b0.slabAlloc t .shadow order q.slabs = none → exec (.shadowGrant t) s = .next s) ∧
     (∀ (base g : Nat) (y : Block) (k : TaskSt) (v : AllocView), b0.slabAlloc t .shadow order q.slabs = some (base, g, y) →
       y.bySerial q.unit q.serial = some k → y.specTarget k.task = some v →
       Completes (.shadowGrant t) s (fun b =>
         (b.tile t.val).shadowQ = rest ∧
         (∃ a ∈ (b.tile t.val).allocs, a.base = base ∧ a.kind = .shadow ∧ a.gen = g ∧ q.slabs ≤ a.slabs.length ∧
           ∀ j, (2 ^ 40 ≤ j ∨ ∀ i ∈ a.slabs, j / 65536 ≠ t.val * 65536 + i) →
             Sparse.get b.memDef b.mem j = Sparse.get s.block.memDef s.block.mem j) ∧
         ∀ w ∈ (b.unit q.unit).board, w.serial = q.serial → w.shadow = some (t.val * 2 ^ 33 + base * 65536, v.base))))

/-- A signal adds its increment to the semaphore modulo 2^32 and changes nothing else; one to a core that is not schedulable changes nothing;
a write of SEM_PHYSn sets the semaphore (R61, R62). SEM_SIG and SEM_READ_SEL translate their field in the unit's context: a reference to a
semaphore of this module is signalled, or read into SEM_READ_VAL; a field without one posts SEM_XLAT_FAULT, or reads 0 (R490). A write
that changes SEM_MODE while no task is admitted leaves every semaphore 0; while one is admitted it is ignored with SEM_MODE_BUSY;
SEM_XLAT_INV empties the die hubs' entries of its context and no others (R59, R60). What it says beyond those rules is the model's choice:
log entries 36 and 54. -/
def Obligations.SignalsAddModulo : Prop :=
  (∀ (s : State) (c : Fin 128) (p : Fin 64),
     (∀ inc : Half, s.block.running = true → s.block.coreOn c = true →
       Completes (.semaphoreSignal c p inc) s (fun b =>
         b.semVal c.val p.val = (s.block.semVal c.val p.val + inc.toNat) % 2 ^ 32 ∧
         b = { s.block with regs := b.regs } ∧
         ∀ q r, r < 4096 → (q ≠ .sem (.core c) ∨ r ≠ Reg.SEM_PHYS p.val) → b.rd q r = s.block.rd q r)) ∧
     (∀ inc : Half, s.block.coreOn c = false → exec (.semaphoreSignal c p inc) s = .next s) ∧
     (∀ (o : Origin) (v : Word), s.takes o (.sem (.core c)) (Reg.SEM_PHYS p.val) = true →
       Completes (.semPhysWrite o c p v) s (fun b => b.semVal c.val p.val = v.toNat ∧
         (s.block.wr (.sem (.core c)) (Reg.SEM_PHYS p.val) v).Logged b))) ∧
  (∀ (s : State) (o : Origin) (u : UnitId) (v : Word),
     let r := (s.block.semRef u (wfield v 15 0)).1
     (s.takes o (.sem u) Reg.SEM_SIG = true → ∀ x : SemRef, r = some x → x.here = true → x.core < 128 → x.phys < 64 →
       Completes (.semSig o u v) s (fun b =>
         b.semVal x.core x.phys = (s.block.semVal x.core x.phys + wfield v 31 16) % 2 ^ 32 ∧ b.mem = s.block.mem)) ∧
     (s.takes o (.sem u) Reg.SEM_SIG = true → r = none →
       Completes (.semSig o u v) s (fun b =>
         b.evtCount Ev.SEM_XLAT_FAULT = satAdd64 (s.block.evtCount Ev.SEM_XLAT_FAULT) 1 ∧
         ∀ c p, c < 128 → p < 64 → b.semVal c p = s.block.semVal c p)) ∧
     (s.takes o (.sem u) Reg.SEM_READ_SEL = true → wfield (s.block.rd (.sem u) Reg.SEM_READ_SEL) 31 16 = 0 →
       Completes (.semReadSelWrite o u v) s (fun b =>
         b.rdN (.sem u) Reg.SEM_READ_VAL =
           (match r with
           | some x => if x.here then s.block.semVal x.core x.phys else 0
           | none => 0) ∧
         b.rdN (.sem u) Reg.SEM_READ_SEL = wfield v 15 0 ∧ b.mem = s.block.mem))) ∧
  (∀ (s : State) (o : Origin) (v : Word),
     (s.takes o (.sem .wholeModule) Reg.SEM_MODE = true → wbit v 0 ≠ s.block.fixedMode →
       Completes (.semModeWrite o v) s (fun b =>
         ((∀ u ∈ allUnits, (s.block.unit u).board = []) →
           b.fixedMode = wbit v 0 ∧ ∀ c p, c < 128 → p < 64 → b.semVal c p = 0) ∧
         ((∃ u ∈ allUnits, (s.block.unit u).board ≠ []) →
           b.evtCount Ev.SEM_MODE_BUSY = satAdd64 (s.block.evtCount Ev.SEM_MODE_BUSY) 1 ∧ b.fixedMode = s.block.fixedMode ∧
           ∀ c p, c < 128 → p < 64 → b.semVal c p = s.block.semVal c p))) ∧
     (s.takes o (.sem .wholeModule) Reg.SEM_XLAT_INV = true →
       Completes (.semXlatInv o v) s (fun b =>
         (∀ t < 16, b.tile t = { s.block.tile t with xlat := (s.block.tile t).xlat.filter (fun e => e.ctx != wfield v 2 0) }) ∧
         b.mem = s.block.mem)))

/-- What the six sync operations do to their line, for the first running SYNC task of the core whose turn it is: STORE fills it, LOAD empties
it and delivers its data, PEEK leaves it, CLEAR clears it; a blocking operation on a line in the wrong state takes a place among the
tile's waiting operations, a non-blocking one sets OVERRUN or completes with SYNC_LINE_EMPTY (R66, R67). A waiting STORE goes on when its
line is empty: it fills the line, gives up its place, and the cycles it waited count against its task; while the line stays full nothing
happens. A write of TILE_SYNC_SEL shows a line's data, FULL and OVERRUN (R67, R68, R473). What it says beyond those rules is the model's
choice: log entries 36 and 44. -/
def Obligations.SyncOperationsOnTheirLine : Prop :=
  (∀ (s : State) (c : Fin 128) (op : Nat) (t : TaskSt),
     let i := (coreTile c).val
     let x := s.block.tile i
     let n := t.task.par 2 2
     let l := x.line n
     let data : DWord := BitVec.ofNat 64 (t.task.par 8 8)
     let a := t.task.par 0x10 8
     s.block.running = true →
     (s.block.unit (.core c)).board.find? (fun t => decide (t.phase = .running) && decide (t.task.kind = 9) && t.task.par 0 2 == op &&
       t.items == 0 && !x.syncWaits.any (fun w => w.serial == t.serial)) = some t →
     x.syncWaits.any (fun w => w.line == n && x.canGo w) = false →
     let landed := fun (l' : SyncLine) (b : Block) => (b.tile i).line n = l' ∧ (∀ k, k ≠ n → (b.tile i).line k = x.line k) ∧
       ∃ t' ∈ (b.unit (.core c)).board, t'.serial = t.serial ∧ t'.items = 1
     let canWrite := fun (k : Nat) => t.shadow = none ∧ s.block.protected_ a k = false ∧ s.block.probe a k = .ok ∧ s.block.reaches t a = true ∧
       a / 65536 = (a + k - 1) / 65536
     (op = 1 → l.full = false → Completes (.storeBlocking c) s (landed { l with data := data, full := true })) ∧
     (op = 1 → l.full = true → x.syncWaits.length < 64 → Completes (.storeBlocking c) s (fun b =>
       b = s.block.setTile i { x with syncWaits := x.syncWaits ++ [⟨c.val, t.serial, 1, n⟩] })) ∧
     (op = 2 → l.full = false → Completes (.storeNonblocking c) s (landed { l with data := data, full := true })) ∧
     (op = 2 → l.full = true → Completes (.storeNonblocking c) s (landed { l with overrun := true })) ∧
     (op = 3 → l.full = true → canWrite 8 → Completes (.loadBlocking c) s (fun b =>
       landed { l with full := false } b ∧ b.bytes a 8 = toBytes 8 l.data.toNat)) ∧
     (op = 3 → l.full = false → x.syncWaits.length < 64 → Completes (.loadBlocking c) s (fun b =>
       b = s.block.setTile i { x with syncWaits := x.syncWaits ++ [⟨c.val, t.serial, 3, n⟩] })) ∧
     (op = 4 → l.full = true → canWrite 8 → Completes (.loadNonblocking c) s (fun b =>
       landed { l with full := false } b ∧ b.bytes a 8 = toBytes 8 l.data.toNat)) ∧
     (op = 4 → l.full = false → Completes (.loadNonblocking c) s (fun b =>
       landed l b ∧ b.evtCount Ev.SYNC_LINE_EMPTY = satAdd64 (s.block.evtCount Ev.SYNC_LINE_EMPTY) 1)) ∧
     (op = 5 → canWrite 16 → Completes (.peek c) s (fun b =>
       landed l b ∧ b.bytes a 16 = toBytes 8 l.data.toNat ++ toBytes 8 (b2n l.full + 2 * b2n l.overrun))) ∧
     (op = 6 → Completes (.clear c) s (landed { l with full := false, overrun := false }))) ∧
  ((∀ (s : State) (i : Fin 16) (line : Fin 1024) (cycles : Nat) (w : SyncWait) (c : Fin 128) (t : TaskSt),
     let x := s.block.tile i.val
     s.block.running = true → x.syncWaits.find? (fun w => w.line == line.val) = some w → w.core = c.val → coreTile c = i →
     (x.canGo w = false → exec (.syncBlockedResume i line cycles) s = .next s) ∧
     (s.block.bySerial (.core c) w.serial = some t → w.op = 1 → t.task.par 0 2 = 1 → t.task.par 2 2 = line.val →
       (x.line line.val).full = false →
       Completes (.syncBlockedResume i line cycles) s (fun b =>
         (b.tile i.val).line line.val =
           { x.line line.val with data := BitVec.ofNat 64 (t.task.par 8 8), full := true } ∧
         (b.tile i.val).syncWaits = x.syncWaits.filter (fun q => q.serial != w.serial) ∧
         b.mem = s.block.mem ∧
         ∃ t' : TaskSt, b.bySerial (.core c) w.serial = some t' ∧ t'.items = 1 ∧ t'.cycles = t.cycles + cycles))) ∧
   (∀ (s : State) (o : Origin) (i : Fin 16) (v : Word), s.takes o (.tile i) Reg.TILE_SYNC_SEL = true →
     Completes (.tileSyncSelWrite o i v) s (fun b =>
       let l := (s.block.tile i.val).line (wfield v 9 0)
       b.rd64 (.tile i) Reg.TILE_SYNC_DATA_LO = l.data.toNat ∧
       b.rdN (.tile i) Reg.TILE_SYNC_FLAGS = b2n l.full + 2 * b2n l.overrun ∧ b.mem = s.block.mem)))

/-! ## Formats, layouts and the shard map -/

/-- START on TILE_VAL_CTL: with a COUNT the validator takes the run that its registers name and is busy, its first record due after the time
of one check; with COUNT 0 it completes at once; while it is busy the write changes nothing (R94, R95). The end of a validator's run, from
where it has come: a destination fault, found before the first record, or the first record to fail ends it, every byte of the destination
as it was, RESULT holding the code and FAIL_IDX the record; a run without a fault writes all its records to the destination, those taken
before as they were taken, a descriptor with the generation of its allocation. BUSY is 0 and INT_STAT bit 0 is 1 in every case (R94, R95,
R99). What it says beyond those rules is the model's choice: log entry 53. -/
def Obligations.ValidatorWritesAllOrNothing : Prop :=
  (∀ (s : State) (o : Origin) (t : Fin 16) (v : Word), s.takes o (.tile t) Reg.TILE_VAL_CTL = true →
     Completes (.validatorStart o t v) s (fun b =>
       (wbit (s.block.rd (.tile t) Reg.TILE_VAL_STAT) 31 = true → s.block.Logged b) ∧
       (wbit (s.block.rd (.tile t) Reg.TILE_VAL_STAT) 31 = false → wbit v 31 = true → wfield v 19 0 ≠ 0 →
         wbit (b.rd (.tile t) Reg.TILE_VAL_STAT) 31 = true ∧
         (b.tile t.val).val = some
           { isList := wbit v 24, count := wfield v 19 0, src := s.block.rd64 (.tile t) Reg.TILE_VAL_SRC_LO,
             dst := s.block.rd64 (.tile t) Reg.TILE_VAL_DST_LO,
             binds := (List.range 4).map (fun k => s.block.rd64 (.tile t) (Reg.TILE_VAL_BIND k)), taken := 0, image := [], code := 0,
             failIdx := 0, dueAt := s.block.now + if wbit v 24 then 4 else 16 } ∧
         b.mem = s.block.mem) ∧
       (wbit (s.block.rd (.tile t) Reg.TILE_VAL_STAT) 31 = false → wbit v 31 = true → wfield v 19 0 = 0 →
         b.rd (.tile t) Reg.TILE_VAL_STAT = 0 ∧ b.rd (.tile t) Reg.TILE_VAL_FAIL_IDX = 0xFFFFFFFF ∧
         wbit (b.rd (.tile t) Reg.INT_STAT) 0 = true))) ∧
  (∀ (s : State) (t : Fin 16) (r : ValRun), s.block.running = true → (s.block.tile t.val).val = some r →
     let done := fun (code idx : Nat) (b : Block) => (b.tile t.val).val = none ∧
       b.rd (.tile t) Reg.TILE_VAL_STAT = BitVec.ofNat 32 code ∧ b.rd (.tile t) Reg.TILE_VAL_FAIL_IDX = BitVec.ofNat 32 idx ∧
       wbit (b.rd (.tile t) Reg.INT_STAT) 0 = true
     let refused := fun (code idx : Nat) (b : Block) => done code idx b ∧ b.evtCount code = satAdd64 (s.block.evtCount code) 1 ∧
       (wbit (s.block.rd .mod Reg.MOD_EVT_CFG) 31 = false → b.mem = s.block.mem)
     (r.code ≠ 0 → Completes (.validatorDone t) s (refused r.code r.failIdx)) ∧
     (∀ c, r.code = 0 → r.taken = 0 → 0 < r.count → s.block.dstFault r = some c → c ≠ 0 →
       Completes (.validatorDone t) s (refused c 0xFFFFFFFF)) ∧
     (r.code = 0 → (r.taken = 0 → s.block.dstFault r = none) →
       (∀ i c, r.taken ≤ i → i < r.count → (∀ j, r.taken ≤ j → j < i → s.block.recordFault r j = none) →
         s.block.recordFault r i = some c → c ≠ 0 → Completes (.validatorDone t) s (refused c i)) ∧
       ((∀ j, r.taken ≤ j → j < r.count → s.block.recordFault r j = none) →
         let image := r.image ++ (List.range (r.count - r.taken)).flatMap (fun j => s.block.valImage r (r.taken + j))
         ∀ k : Nat, s.block.resolveOwn r.dst = .phys k → r.dst / 65536 = (r.dst + image.length - 1) / 65536 →
           Completes (.validatorDone t) s (fun b => done 0 0xFFFFFFFF b ∧ b.evt = s.block.evt ∧
             (∀ i < image.length, Sparse.get s.block.memDef b.mem (k + i) = image.getD i 0) ∧
             (∀ j, j < k ∨ k + image.length ≤ j → Sparse.get s.block.memDef b.mem j = Sparse.get s.block.memDef s.block.mem j)))))

/-- The shard map through its registers: SHM_CMD 1 shows the entry at SHM_SEL, SHM_CMD 2 writes it whole and no other, but for a valid entry
that would move without a new VERSION, which is refused with SHM_VERSION_HELD (R105, R106, R107). A bulk load of the shard map begins with
START unless COUNT overruns the map; when it ends, a first part of the entries that were still to come stands in the map, every other
entry is as before, SHM_LOAD_DONE counts what has landed, and RESULT is 0 exactly when it is the whole; a load that an entry has ended
lands nothing more (R108). The version record: CLEAR empties it, a 1 written to TAINTED clears the taint, and neither touches memory
(R378, R379). What it says beyond those rules is the model's choice: log entries 39 and 42. -/
def Obligations.ShardMapCommands : Prop :=
  (∀ (s : State) (o : Origin), s.takes o .shm Reg.SHM_CMD = true →
     let i := s.block.rdN .shm Reg.SHM_SEL
     let e := s.block.words .shm (Reg.SHM_DATA 0) 4
     Completes (.shmCmdRead o) s (fun b => b.words .shm (Reg.SHM_DATA 0) 4 = s.block.shard i % 2 ^ 128 ∧ b.shm = s.block.shm) ∧
     (shardHeld (s.block.shard i) e = false → Completes (.shmCmdWrite o) s (fun b =>
       (shardAddr (b.shard i) = shardAddr e ∧ shardHolder (b.shard i) = shardHolder e ∧ shardValid (b.shard i) = shardValid e ∧
         shardVersion (b.shard i) = shardVersion e) ∧
       (∀ j, j ≠ i → b.shard j = s.block.shard j) ∧ wfield (b.rd .shm Reg.SHM_STAT) 15 0 = 0)) ∧
     (shardHeld (s.block.shard i) e = true → Completes (.shmCmdWrite o) s (fun b =>
       b.shm = s.block.shm ∧ wfield (b.rd .shm Reg.SHM_STAT) 15 0 = Ev.SHM_VERSION_HELD ∧
       b.evtCount Ev.SHM_VERSION_HELD = satAdd64 (s.block.evtCount Ev.SHM_VERSION_HELD) 1))) ∧
  ((∀ (s : State) (o : Origin) (v : Word), s.takes o .shm Reg.SHM_LOAD_CTL = true → wbit (s.block.rd .shm Reg.SHM_STAT) 31 = false →
     wbit v 31 = true →
     Completes (.shmBulkLoadStart o v) s (fun b =>
       (s.block.rdN .shm Reg.SHM_SEL + wfield v 17 0 ≤ 131072 →
         b.shm.bulk = some { first := s.block.rdN .shm Reg.SHM_SEL, count := wfield v 17 0,
                             addr := s.block.rd64 .shm Reg.SHM_LOAD_SRC_LO, clear := false, origin := o, done := 0,
                             code := 0 } ∧
         b.shm.map = s.block.shm.map ∧ wbit (b.rd .shm Reg.SHM_STAT) 31 = true) ∧
       (131072 < s.block.rdN .shm Reg.SHM_SEL + wfield v 17 0 →
         b.shm = s.block.shm ∧ b.rd .shm Reg.SHM_LOAD_DONE = 0 ∧ wfield (b.rd .shm Reg.SHM_STAT) 15 0 = Ev.DESC_RANGE ∧
         b.evtCount Ev.DESC_RANGE = satAdd64 (s.block.evtCount Ev.DESC_RANGE) 1))) ∧
   (∀ (s : State) (r : BulkRun), s.block.running = true → s.block.shm.bulk = some r → r.count < 2 ^ 32 → r.done ≤ r.count →
     r.code < 2 ^ 32 →
     (r.code = 0 → Completes .shmBulkLoadDone s (fun b =>
       b.shm.bulk = none ∧ ∃ k, r.done ≤ k ∧ k ≤ r.count ∧ b.rdN .shm Reg.SHM_LOAD_DONE = k ∧
         (b.rd .shm Reg.SHM_STAT = 0 ↔ k = r.count) ∧
         (∀ i, r.done ≤ i → i < k → shardAddr (b.shard (r.first + i)) = shardAddr (s.block.num (r.addr + 16 * i) 16) ∧
           shardVersion (b.shard (r.first + i)) = shardVersion (s.block.num (r.addr + 16 * i) 16)) ∧
         ∀ j, j < r.first + r.done ∨ r.first + k ≤ j → b.shard j = s.block.shard j)) ∧
     (r.code ≠ 0 → Completes .shmBulkLoadDone s (fun b => b.shm.bulk = none ∧ b.shm.map = s.block.shm.map ∧
       b.rdN .shm Reg.SHM_STAT = r.code ∧ b.rdN .shm Reg.SHM_LOAD_DONE = r.done)))) ∧
  (∀ (s : State) (o : Origin) (v : Word),
     (s.takes o .shm Reg.SHM_REC_CTL = true → wbit v 31 = true →
       Completes (.shmRecClear o v) s (fun b => (∀ i, Sparse.get (fun _ => 0) b.shm.record i = 0) ∧ b.shm.map = s.block.shm.map ∧
         b.rd .shm Reg.SHM_REC_DATA = 0)) ∧
     (s.takes o .shm Reg.SHM_REC_STAT = true →
       Completes (.taintedClear o v) s (fun b =>
         wbit (b.rd .shm Reg.SHM_REC_STAT) 31 = (wbit (s.block.rd .shm Reg.SHM_REC_STAT) 31 && !wbit v 31) ∧
         ∀ q r, r < 4096 → sideWord q r = false → (q ≠ .shm ∨ r ≠ Reg.SHM_REC_STAT) → b.rd q r = s.block.rd q r)))

/-! ## The fetch engine -/

/-- Run-ahead on a port takes the next entry that has not been fetched: a local block within the queue's room and the tracking table whose
bytes all resolve and can be reached is requested, of urgency BULK without a deadline, LATE past it, and DEADLINE before it; one that is
unmapped is dropped and counted; one whose page is away is dropped and counted, and asks for the page where it may (R233, R235, R237). A
demand on a port for the entry its consumer has reached: a local block that resolves and can be reached is requested with urgency DEMAND,
and a prefetch of it under way becomes a demand; a block that does not resolve stops the task with the code of what stands in the way
(R234, R236). What it says beyond those rules is the model's choice: log entries 28 and 44. -/
def Obligations.BlocksAreFetched : Prop :=
  (∀ (s : State) (c : Fin 128) (port : Fin 4) (q t : TaskSt) (p : Nat × Nat) (src : Source),
     let v := s.block.seenBy q
     let e := v.entryAt t p
     let x := s.block.core c.val
     let due := v.deadlineOf c t src.e
     let more := fun (off : Nat) => min (s.block.rd64 (.fet c) off + 1) (2 ^ 64 - 1)
     let meets := src.ranges.findSome? (fun r => match v.probe (v.taskAddr t r.1) r.2 with
       | .ok => if v.reaches t (v.taskAddr t r.1) then none else some (.moving 0)
       | a => some a)
     s.block.running = true → s.block.portTask c port.val = some q → v.portTask c port.val = some t →
     v.nextAhead c t port.val t.runahead false = some p → v.chainHeld t p = false → v.linkWrites c t (v.descAt t p e) = false →
     v.source (v.descAt t p e) e = some src → src.holder = 0 → src.d.tracked = false →
     v.queueRoom c port.val (queueTakes port.val e.src src) = true → x.tracked ≤ 256 →
     (meets = none → v.sourceFits src = true →
       Completes (.prefetchIssue c port) s (fun b => b.mem = s.block.mem ∧ b.evt = s.block.evt ∧
         ∃ f : Fetched, (b.core c.val).fetched = x.fetched ++ [f] ∧ f.port = port.val ∧ f.serial = t.serial ∧ f.entry = posKey p ∧
           f.arrived = false ∧ f.deadline = due ∧ f.urgency = (if due = 0 then 3 else if due ≤ s.block.now then 1 else 2))) ∧
     (meets = some .unmapped →
       Completes (.prefetchIssue c port) s (fun b => (b.core c.val).fetched = x.fetched ∧
         b.rd64 (.fet c) Reg.FET_PF_DROPPED = more Reg.FET_PF_DROPPED)) ∧
     (∀ k, meets = some (.nonResident k) →
       Completes (.prefetchIssue c port) s (fun b => (b.core c.val).fetched = x.fetched ∧
         b.rd64 (.fet c) Reg.FET_PF_DROPPED = more Reg.FET_PF_DROPPED ∧
         (src.e.pageInOk = false → b.hbm = s.block.hbm ∧ b.rd64 (.fet c) Reg.FET_PAGE_IN = s.block.rd64 (.fet c) Reg.FET_PAGE_IN) ∧
         (src.e.pageInOk = true → s.block.hbm.farDown = false → s.block.hbm.moves = [] →
           (b.hbm.moves.map (fun m => m.page)) = [k] ∧ b.rd64 (.fet c) Reg.FET_PAGE_IN = more Reg.FET_PAGE_IN)))) ∧
  (∀ (s : State) (c : Fin 128) (port : Fin 4) (q t : TaskSt) (src : Source),
     let v := s.block.seenBy q
     let p := t.pos
     let e := v.entryAt t p
     s.block.running = true → s.block.portTask c port.val = some q → v.portTask c port.val = some t →
     s.block.bySerial (.core c) t.serial = some t → t.listDone = false → portFor (t.recAt p.1).kind.toNat e.src = some port.val →
     v.linkWrites c t (v.descAt t p e) = false →
     (∀ f, s.block.fetched? c port.val t.serial (posKey p) = some f → f.arrived = false → f.urgency ≠ 0 →
       Completes (.demandFetch c port []) s (fun b =>
         (b.core c.val).fetched = (s.block.core c.val).fetched.map (fun y => if y.id = f.id then { y with urgency := 0 } else y) ∧
         b.regs = s.block.regs ∧ b.mem = s.block.mem)) ∧
     (s.block.fetched? c port.val t.serial (posKey p) = none → v.source (v.descAt t p e) e = some src → src.holder = 0 →
       v.sourceFits src = true →
       ((v.demand t src.ranges src.e.pageInOk).1 = .ok →
         Completes (.demandFetch c port []) s (fun b => b.mem = s.block.mem ∧
           ∃ f : Fetched, (b.core c.val).fetched = (s.block.core c.val).fetched ++ [f] ∧ f.port = port.val ∧ f.serial = t.serial ∧
             f.entry = posKey p ∧ f.arrived = false ∧ f.urgency = 0)) ∧
       (∀ code, (v.demand t src.ranges src.e.pageInOk).1 = .fault code →
         Completes (.demandFetch c port []) s (fun b => b.mem = s.block.mem ∧
           ∃ t' : TaskSt, b.bySerial (.core c) t.serial = some t' ∧ t'.phase = .finished ∧ t'.faultCode = some code))))

/-- FETCH_DATA_ARRIVE: of the blocks that a port awaits, the one that the die hub serves first of those that their stacks or module have
delivered arrives: it may be consumed, FET_BYTES_IN counts the bytes that the port delivers, FET_LATE a block past its deadline, and
memory stays as it is. With none delivered nothing changes, and a block that is not in the core's home slice waits while the die hub
serves another before it; a block whose task has gone is dropped (R113, R224, R238). DEADLINE_LATE and BULK_AGE_LATE: a DEADLINE request
whose deadline has passed, and a BULK request that has waited 2,048 MCLK cycles, become LATE, with the slot requests of theirs that wait;
no register and no memory changes. Before that time the commands change nothing (R238). What it says beyond those rules is the model's
choice: log entry 28. -/
def Obligations.ArrivalsAndLateness : Prop :=
  (∀ (s : State) (c : Fin 128) (port : Fin 4) (errs : Errs) (q : TaskSt), s.block.running = true →
     s.block.portTask c port.val = some q →
     let v := s.block.seenBy q
     let first := firstPlace (s.block.tile (c.val / 8)).turn c
       ((s.block.core c.val).fetched.filter (fun f => f.port == port.val && v.deliverable c f))
     (first = none → Completes (.fetchDataArrive c port errs) s (fun b => b = { s.block with lens := [] })) ∧
     (∀ f, first = some f → v.blockOf c f = none → Completes (.fetchDataArrive c port errs) s (fun b =>
       (b.core c.val).fetched = (s.block.core c.val).fetched.filter (fun y => y.id != f.id) ∧ b.mem = s.block.mem ∧ b.regs = s.block.regs)) ∧
     (∀ (f : Fetched) (t : TaskSt) (src : Source), first = some f → v.blockOf c f = some (t, src) →
       (v.atHome c f = true ∨ v.hubBusy c f = false →
         Completes (.fetchDataArrive c port errs) s (fun b =>
           (∃ f' ∈ (b.core c.val).fetched, f'.id = f.id) ∧ (∀ f' ∈ (b.core c.val).fetched, f'.id = f.id → f'.arrived = true) ∧
           (∀ f' ∈ (s.block.core c.val).fetched, f'.id ≠ f.id → f' ∈ (b.core c.val).fetched) ∧
           b.rd64 (.fet c) Reg.FET_BYTES_IN = min (s.block.rd64 (.fet c) Reg.FET_BYTES_IN + src.portBytes) (2 ^ 64 - 1) ∧
           b.rd64 (.fet c) Reg.FET_LATE = (if f.deadline ≠ 0 ∧ f.deadline < s.block.now then
             min (s.block.rd64 (.fet c) Reg.FET_LATE + 1) (2 ^ 64 - 1) else s.block.rd64 (.fet c) Reg.FET_LATE) ∧
           b.mem = s.block.mem)) ∧
       (v.atHome c f = false → v.hubBusy c f = true →
         Completes (.fetchDataArrive c port errs) s (fun b => b = { s.block with lens := [] })))) ∧
  (∀ (s : State) (c : Fin 128) (port : Fin 4), s.block.running = true →
     let dead := (s.block.core c.val).fetched.find? (fun f => f.port == port.val && !f.arrived && f.urgency == 2 &&
       decide (f.deadline ≤ s.block.now))
     let old := (s.block.core c.val).fetched.find? (fun f => f.port == port.val && !f.arrived && f.urgency == 3 &&
       decide (f.issued + 2048 ≤ s.block.now))
     let raised := fun (f : Fetched) (b : Block) =>
       (b.core c.val).fetched = (s.block.core c.val).fetched.map (fun y => if y.id = f.id then { y with urgency := 1 } else y) ∧
       (∀ st, ∀ q ∈ (b.stk st).queue, q.owner = .block f.id → q.urgency = 1) ∧ b.regs = s.block.regs ∧ b.mem = s.block.mem
     (dead = none → exec (.deadlineLate c port) s = .next s) ∧
     (∀ f, dead = some f → Completes (.deadlineLate c port) s (raised f)) ∧
     (old = none → exec (.bulkAgeLate c port) s = .next s) ∧
     (∀ f, old = some f → Completes (.bulkAgeLate c port) s (raised f)))

/-- The consumer takes a tracked block whose granules have not moved on; one that has is fetched again once and counted, and a second time
stops the task with STALE_PREFETCH (R241). The consumer of a global block compares the version attached to it with the record of its
shard: with no version recorded it is recorded; the recorded one is accepted; another is accepted and recorded where the descriptor allows
newer versions, and otherwise stops the task with SHARD_VERSION, counts, and taints the step (R376, R377, R379). What it says beyond those
rules is the model's choice: log entry 28. -/
def Obligations.ConsumedBlocksAreChecked : Prop :=
  (∀ (s : State) (c : Fin 128) (port : Fin 4) (q t : TaskSt) (f : Fetched) (p : Nat × Nat) (src : Source),
     let v := s.block.seenBy q
     s.block.running = true → s.block.portTask c port.val = some q → v.consumerBlock c port.val = some (t, f, p, src) →
     src.d.tracked = true → f.checked = false → s.block.bySerial (.core c) t.serial = some t →
     (f.grans = v.granules src.ranges →
       Completes (.trackedBlockConsume c port) s (fun b => b.regs = s.block.regs ∧ b.mem = s.block.mem ∧
         (b.core c.val).fetched = (s.block.core c.val).fetched.map (fun y => if y.id = f.id then { y with checked := true } else y))) ∧
     (f.grans ≠ v.granules src.ranges → f.refetched = true →
       Completes (.trackedBlockConsume c port) s (fun b =>
         ∃ t' : TaskSt, b.bySerial (.core c) t.serial = some t' ∧ t'.phase = .finished ∧ t'.faultCode = some Ev.STALE_PREFETCH)) ∧
     (f.grans ≠ v.granules src.ranges → f.refetched = false →
       Completes (.trackedBlockConsume c port) s (fun b =>
         b.rd64 (.fet c) Reg.FET_REFETCH = min (s.block.rd64 (.fet c) Reg.FET_REFETCH + 1) (2 ^ 64 - 1)))) ∧
  (∀ (s : State) (c : Fin 128) (port : Fin 4) (q t : TaskSt) (f : Fetched) (p : Nat × Nat) (src : Source) (i ver : Nat),
     let v := s.block.seenBy q
     let r := Sparse.get (fun _ => 0) s.block.shm.record i
     let newer := (v.descAt t p src.e).allowNewer
     let taken := fun (b : Block) =>
       (b.core c.val).fetched = (s.block.core c.val).fetched.map (fun y => if y.id = f.id then { y with checked := true } else y)
     s.block.running = true → s.block.portTask c port.val = some q → v.consumerBlock c port.val = some (t, f, p, src) →
     f.version = some (i, ver) → f.checked = false →
     s.block.bySerial (.core c) t.serial = some t → ver < 2 ^ 16 → i < 131072 →
     (r = 0 → Completes (.globalBlockConsume c port) s (fun b => taken b ∧ b.mem = s.block.mem ∧
       Sparse.get (fun _ => 0) b.shm.record i = 2 ^ 16 + ver ∧ ∀ j, j ≠ i →
         Sparse.get (fun _ => 0) b.shm.record j = Sparse.get (fun _ => 0) s.block.shm.record j)) ∧
     (r ≠ 0 → r % 2 ^ 16 = ver → Completes (.globalBlockConsume c port) s (fun b => taken b ∧ b.shm = s.block.shm ∧
       b.regs = s.block.regs ∧ b.mem = s.block.mem)) ∧
     (r ≠ 0 → r % 2 ^ 16 ≠ ver → newer = true → Completes (.globalBlockConsume c port) s (fun b => taken b ∧ b.mem = s.block.mem ∧
       Sparse.get (fun _ => 0) b.shm.record i = 2 ^ 16 + ver ∧
       b.rd64 .shm Reg.SHM_NEWER = min (s.block.rd64 .shm Reg.SHM_NEWER + 1) (2 ^ 64 - 1))) ∧
     (r ≠ 0 → r % 2 ^ 16 ≠ ver → newer = false → Completes (.globalBlockConsume c port) s (fun b => b.shm = s.block.shm ∧
       wbit (b.rd .shm Reg.SHM_REC_STAT) 31 = true ∧
       b.rd64 .shm Reg.SHM_VERSION_FAULTS = min (s.block.rd64 .shm Reg.SHM_VERSION_FAULTS + 1) (2 ^ 64 - 1) ∧
       ∃ t' : TaskSt, b.bySerial (.core c) t.serial = some t' ∧ t'.phase = .finished ∧ t'.faultCode = some Ev.SHARD_VERSION)))

/-! ## The array and the derailleur -/

/-- A LOAD entry of an array task fills STANDBY: under REUSE the first LOAD that names the retained tile is skipped and counted; one beyond
the gear's limits stops the task with DENSE_SHAPE; any other takes its block, makes its tile, counts, and the sequencer passes the entry
(R117, R123). A STREAM entry makes its tile ACTIVE and lands sums in the bank rows that it names: every other row of the bank, and memory,
is as before; a single row without stochastic rounding lands the chain sum of each output (R110, R118, R126, R143). A drain operand entry
is kept for the DRAIN that follows; a DRAIN whose rows all went out reads the bank and leaves every word of it, uses up its operand, and
the sequencer passes it; one whose shape breaks its limits stops the task (R120, R156). What it says beyond those rules is the model's
choice: log entries 16 and 29. -/
def Obligations.ArrayTasksRun : Prop :=
  (∀ (s : State) (c : Fin 128) (cycles : Nat) (q t : TaskSt),
     let v := s.block.seenBy q
     let r := t.cur
     let e := v.entryAt t t.pos
     let x := s.block.core c.val
     let key := tileKey r (v.desc r.descB.toNat) e
     let same : Bool := match x.active with
       | some a => a.desc == key.1 && a.gen == key.2.1 && a.block == key.2.2
       | none => false
     let reused := x.firstLoad = true ∧ r.reuse = true ∧ t.task.kind = 1 ∧ same = true
     let passed := fun (b : Block) => ∃ t' : TaskSt, b.bySerial (.core c) t.serial = some t' ∧ t'.pos = t.after t.pos ∧
       t'.cycles = t.cycles + cycles ∧ t'.phase = t.phase
     s.block.running = true → s.block.portTask c 0 = some q → v.portTask c 0 = some t → s.block.bySerial (.core c) t.serial = some t →
     t.listDone = false → e.src = 1 →
     (loadOk r.gear e = false → Completes (.denseLoad c cycles .none) s (fun b =>
       ∃ t' : TaskSt, b.bySerial (.core c) t.serial = some t' ∧ t'.phase = .finished ∧ t'.faultCode = some Ev.DENSE_SHAPE)) ∧
     (loadOk r.gear e = true → reused → Completes (.denseLoad c cycles .none) s (fun b => passed b ∧ b.mem = s.block.mem ∧
       (b.core c.val).active = x.active ∧ (b.core c.val).standby = x.standby ∧
       b.rd64 (.darr c) Reg.DARR_REUSED = min (s.block.rd64 (.darr c) Reg.DARR_REUSED + 1) (2 ^ 64 - 1))) ∧
     (∀ (y : Block) (w : WTile), loadOk r.gear e = true → ¬ reused → v.loadTile c t = ((.ok, some w), y) →
       y.bySerial (.core c) t.serial = some t →
       Completes (.denseLoad c cycles .none) s (fun b => passed b ∧ b.mem = y.mem ∧ (w.desc, w.gen, w.block) = key ∧
         (b.core c.val).standby = some w ∧ (b.core c.val).active = (y.core c.val).active ∧
         (b.core c.val).bank = (y.core c.val).bank ∧
         b.rd64 (.darr c) Reg.DARR_LOADS = min (y.rd64 (.darr c) Reg.DARR_LOADS + 1) (2 ^ 64 - 1)))) ∧
  (∀ (s : State) (c : Fin 128) (cycles feedDry drainFull eccCorr : Nat) (q t : TaskSt) (w : WTile) (k : Took) (y : Block),
     let v := s.block.seenBy q
     let r := t.cur
     let e := v.entryAt t t.pos
     let x := s.block.core c.val
     let tile := match x.standby with
       | some w => some w
       | none => x.active
     let gear := streamGear r.gear w
     let f := gearRows gear e.axis
     s.block.running = true → s.block.portTask c 0 = some q → v.portTask c 0 = some t → t.listDone = false → e.src = 0 →
     tile = some w → streamCheck r e (some w) = none → v.drainsBefore c t e.accRow (f * e.rowCount) = false →
     v.take c t 0 false = (k, y) → k.ready = .ok →
     Completes (.denseStream c cycles feedDry drainFull eccCorr 0 .none) s (fun b =>
       b.mem = y.mem ∧ (0 < e.rowCount → (b.core c.val).active = some w ∧ (b.core c.val).standby = none) ∧
       b.rd64 (.darr c) Reg.DARR_ROWS = min (y.rd64 (.darr c) Reg.DARR_ROWS + e.rowCount) (2 ^ 64 - 1) ∧
       (∀ row j, j < 128 → row < e.accRow ∨ e.accRow + f * e.rowCount ≤ row →
         (b.core c.val).bankWord row j = (y.core c.val).bankWord row j) ∧
       (e.rowCount = 1 → r.roundBit 1 = false →
         let mode := (accMode r.gear (y.desc r.descA.toNat) (y.desc r.descB.toNat)).getD 1
         let row := k.d.unscaled.values k.rd k.e.rowStart k.e.colStart e.colCount
         ∀ o < 128 * f, (b.core c.val).bankWord (e.accRow + o / 128) (o % 128) =
           (bankUpdate mode e.accInit .nearest ((y.core c.val).bankWord (e.accRow + o / 128) (o % 128))
             (chain mode (w.cells (gearPer gear) e.axis row o)).val).1))) ∧
  (∀ (s : State) (c : Fin 128) (cycles eccCorr : Nat) (q t : TaskSt),
     let v := s.block.seenBy q
     let r := t.cur
     let e := v.entryAt t t.pos
     let x := s.block.core c.val
     let d := v.desc r.descC.toNat
     let fixed := decide (r.statDesc ≠ 0) && (v.desc r.statDesc).readOnly
     let passed := fun (b : Block) => ∃ t' : TaskSt, b.bySerial (.core c) t.serial = some t' ∧ t'.pos = t.after t.pos ∧ t'.phase = t.phase
     s.block.running = true → s.block.portTask c 3 = some q → v.portTask c 3 = some t → s.block.bySerial (.core c) t.serial = some t →
     t.listDone = false →
     (e.src = 3 → r.par 0x11 1 ≠ 0 → x.opnd = none → entryClean e 0 = true →
       Completes (.denseDrain c cycles eccCorr 0 .none) s (fun b => passed b ∧ b.regs = s.block.regs ∧ b.mem = s.block.mem ∧
         (b.core c.val).opnd = some (posKey t.pos) ∧ (b.core c.val).bank = x.bank)) ∧
     (∀ code, e.src = 2 → r.descC ≠ 0 →
       drainCheck r e d (x.opnd.map (fun k => v.entryAt t (k / 2 ^ 32, k % 2 ^ 32))) fixed = some code →
       Completes (.denseDrain c cycles eccCorr 0 .none) s (fun b => b.mem = s.block.mem ∧
         ∃ t' : TaskSt, b.bySerial (.core c) t.serial = some t' ∧ t'.phase = .finished ∧ t'.faultCode = some code)) ∧
     (∀ (src : Source), e.src = 2 → r.descC ≠ 0 → x.opnd = none → drainCheck r e d none fixed = none →
       v.source d e = some src → (v.drainReady c t r e src).1 = .ok →
       (((v.drainReady c t r e src).2.drnCount c Reg.DRN_ECC_CORR eccCorr 0).drainRows c t r e src none e.rowCount).1 = .ok →
       Completes (.denseDrain c cycles eccCorr 0 .none) s (fun b =>
         (b.core c.val).bank = x.bank ∧ (b.core c.val).opnd = none ∧
         ∃ t' ∈ (b.unit (.core c)).board, t'.serial = t.serial ∧ t'.pos = t.after t.pos)))

/-- The derailleur moves whole rows: a GATHER entry of one row copies the row that its index names, or writes zeros where the index is out of
range without INDEX_FAULT; a SCATTER_SET entry of one row copies it to the row that its index names; a SCATTER_ADD entry of one row puts
it into the sum of that row, and adds the sums that are due into theirs. Each counts one work item and the sequencer passes the entry
(R174, R177, R179, R180, R181, R183). What it says beyond those rules is the model's choice: log entries 28 and 29. -/
def Obligations.DerailleurMovesRows : Prop :=
  ∀ (s : State) (c : Fin 128) (cycles lanes : Nat) (q t : TaskSt) (k : Took) (y : Block) (i : Int) (q1 q2 : Block),
    let v := s.block.seenBy q
    let r := t.task
    let e := v.entryAt t t.pos
    let o := v.desc r.descC.toNat
    let x := v.desc r.descD.toNat
    let cols := t.cut (e.kp 1) (e.kp 2)
    let z := (q2.take c t 1 false).2
    let moved := fun (m b : Block) => b.mem = m.mem ∧
      b.rd64 (.drl c) Reg.DRL_ITEMS = min (m.rd64 (.drl c) Reg.DRL_ITEMS + 1) (2 ^ 64 - 1) ∧
      ∃ t' : TaskSt, b.bySerial (.core c) t.serial = some t' ∧ t'.pos = t.after t.pos ∧ t'.items = t.items + 1 ∧
        t'.cycles = t.cycles + cycles ∧ t'.phase = t.phase
    s.block.running = true → s.block.portTask c 1 = some q → e.empty = false → e.rowCount = 1 → 1 ≤ t.room →
    v.take c t 1 false = (k, y) → k.ready = .ok → indexList k 1 = [i] →
    (let d := v.desc r.descB.toNat;
      let want := ((r.descB.toNat, d, i.toNat, cols.1, cols.2) : RowWant);
      v.drlTask c 2 1 = some t → moveEntryOk e o d o = true →
      (inRange i d.rows = true → v.rowsReady c t true [want] e.pageInOk = (.ok, q1) →
        q1.rowsOpen c t o [e.kp 0] cols.1 cols.2 e.pageInOk false = (.ok, q2) →
        let a := z.readRow c t true want
        let m := a.2.moveRow c t a.1 o (e.kp 0) cols.1 cols.2 e.pageInOk
        m.1 = .ok → m.2.bySerial (.core c) t.serial = some t → Completes (.gather c cycles lanes .none) s (moved m.2)) ∧
      (inRange i d.rows = false → x.indexFault = false → v.rowsReady c t true [] e.pageInOk = (.ok, q1) →
        q1.rowsOpen c t o [e.kp 0] cols.1 cols.2 e.pageInOk false = (.ok, q2) →
        let m := (z.count (.drl c) Reg.DRL_OOR 1).zeroRow c t o (e.kp 0) cols.1 cols.2 e.pageInOk
        m.1 = .ok → m.2.bySerial (.core c) t.serial = some t → Completes (.gather c cycles lanes .none) s (moved m.2)) ∧
      (inRange i d.rows = false → x.indexFault = true → v.rowsReady c t true [] e.pageInOk = (.ok, q1) →
        q1.rowsOpen c t o [] cols.1 cols.2 e.pageInOk false = (.ok, q2) →
        Completes (.gather c cycles lanes .none) s (fun b => b.mem = z.mem ∧
          (z.bySerial (.core c) t.serial = some t → ∃ t' : TaskSt, b.bySerial (.core c) t.serial = some t' ∧ t'.phase = .finished ∧
            t'.faultCode = some Ev.INDEX_RANGE)))) ∧
    (let d := v.desc r.descA.toNat;
      let want := ((r.descA.toNat, d, e.kp 0, cols.1, cols.2) : RowWant);
      moveEntryOk e d d o = true → inRange i o.rows = true → v.rowsReady c t true [want] e.pageInOk = (.ok, q1) →
      (v.drlTask c 2 3 = some t → q1.rowsOpen c t o [i.toNat] cols.1 cols.2 e.pageInOk false = (.ok, q2) →
        let a := (z.count (.drl c) Reg.DRL_OOR 0).readRow c t true want
        let m := a.2.moveRow c t a.1 o i.toNat cols.1 cols.2 e.pageInOk
        m.1 = .ok → m.2.bySerial (.core c) t.serial = some t → Completes (.scatterSet c cycles lanes .none) s (moved m.2)) ∧
      (v.drlTask c 2 2 = some t →
        let int := d.format == 9 && o.format == 9
        let plan := v.planSums c [(want, i.toNat)] e.pageInOk
        (sumsDue plan.1 plan.2 t.advance.listDone).foldl (fun (st : Ready × Block) (g : RowSum) => match st.1 with
          | .ok => st.2.rowsOpen c t o [g.row] g.first g.cols g.pageIn true
          | _ => st) (.ok, q1) = (.ok, q2) →
        let a := (z.count (.drl c) Reg.DRL_OOR 0).contribute c t want i.toNat int e.pageInOk
        let w := a.2.core c.val
        let sums := sumsDue w.sums w.requests t.advance.listDone
        let m := (a.2.setCore c.val { w with sums := w.sums.filter (fun g => !sums.contains g) }).addSums c t o int sums
        poisonStop [a.1] = none → m.1 = .ok → m.2.bySerial (.core c) t.serial = some t →
        Completes (.scatterAdd c cycles lanes .none) s (moved m.2)))

/-- The steps of an SPMM: LOAD keeps its block as the next slab; a STREAM of one non-zero within the slab adds its product, rounded once to
FP32, into the merge row of its output row; FLUSH of one row writes the merged sums under the TENSOR scales and clears the merge words it
wrote; each passes its entry. An entry of a SRC that SPMM does not have stops the task with SPARSE_SHAPE (R172, R176, R184, R185, R186). A
fallback pass runs on an array that no STREAM still needs, once compaction holds the scratch window: it leaves no tile ACTIVE, takes its
run off the queue, charges its task the cycles, and of all memory writes the scratch window of its core alone; filler that is asked gives
the window up to a waiting pass; a pass that finds filler in the window asks for it (R189, R190). What it says beyond those rules is the
model's choice: log entries 29 and 55. -/
def Obligations.SparseProductsAndFallback : Prop :=
  (∀ (s : State) (c : Fin 128) (cycles : Nat) (q t : TaskSt),
     let v := s.block.seenBy q
     let r := t.task
     let e := v.entryAt t t.pos
     let a := v.desc r.descA.toNat
     let w := v.desc r.descB.toNat
     let o := v.desc r.descC.toNat
     let passed := fun (n : Nat) (b : Block) => ∃ t' : TaskSt, b.bySerial (.core c) t.serial = some t' ∧ t'.pos = t.after t.pos ∧
       t'.items = t.items + n ∧ t'.cycles = t.cycles + cycles ∧ t'.phase = t.phase
     s.block.running = true → s.block.portTask c 1 = some q → v.drlTask c 2 4 = some t →
     (e.src = 0 → s.block.bySerial (.core c) t.serial = some t → Completes (.spmmStream c cycles .none) s (fun b =>
       ∃ t' : TaskSt, b.bySerial (.core c) t.serial = some t' ∧ t'.phase = .finished ∧ t'.faultCode = some Ev.SPARSE_SHAPE)) ∧
     (∀ (k : Took) (y : Block), drlClean e = true → e.src = 1 → e.kind.all (fun z => z == 0) = true → e.rowCount ≤ 128 →
       e.colCount ≤ 512 → v.take c t 1 false = (k, y) → k.ready = .ok → y.bySerial (.core c) t.serial = some t →
       Completes (.spmmLoad c cycles .none) s (fun b => passed 0 b ∧ b.mem = y.mem ∧ (b.core c.val).slab = (y.core c.val).slab ∧
         (b.core c.val).merge = (y.core c.val).merge ∧ ∃ sl : Slab, (b.core c.val).slabNext = some sl ∧ sl.rowStart = e.rowStart ∧
           sl.rows = e.rowCount ∧ sl.cols = e.colCount)) ∧
     (∀ (q1 y : Block) (k : Took) (sl : Slab) (row col : Nat), drlClean e = true → e.src = 3 → e.kp 1 = 0 → e.kp 2 = 0 →
       e.empty = false → e.rowCount = 1 → e.colStart = 0 → e.colCount = 2 → 1 ≤ t.room →
       let want := ((r.descA.toNat, a, e.rowStart, 0, 1) : RowWant)
       v.rowsReady c t false [want] e.pageInOk = (.ok, q1) → q1.take c t 1 false = (k, y) → k.ready = .ok →
       (s.block.core c.val).slabNext = some sl → sl.cols ≤ 512 → bit (r.par 1 1) 0 = false → 1 ≤ (s.block.core c.val).thr →
       (k.d.codes k.rd k.e.rowStart 0 2).map (signed 32) = [(row : Int), (col : Int)] → e.kp 0 ≤ row → row ≤ e.kp 0 + 255 → row < o.rows →
       sl.rowStart ≤ col → col < sl.rowStart + sl.rows → (s.block.core c.val).fallbacks = [] →
       let d := y.readRow c t false want
       poisonStop [d.1] = none → d.2.bySerial (.core c) t.serial = some t →
       Completes (.spmmStream c cycles .none) s (fun b =>
         let val := (d.1.values false).getD 0 Machine.Num.zero
         passed 1 b ∧ b.mem = d.2.mem ∧ (b.core c.val).slab = some sl ∧ (b.core c.val).slabNext = none ∧
         (∀ j < sl.cols, (b.core c.val).mergeVal (row - e.kp 0) j =
           val32 (f32 (((d.2.core c.val).mergeVal (row - e.kp 0) j).add (laneSum [(val, (sl.row col).getD j Machine.Num.zero)]))).1) ∧
         (∀ m j, j < 512 → m ≠ row - e.kp 0 → (b.core c.val).mergeVal m j = (d.2.core c.val).mergeVal m j))) ∧
     (∀ q1 : Block, drlClean e = true → e.src = 2 → e.kp 1 = 0 → e.kp 2 = 0 → e.empty = false → e.rowCount = 1 → e.colCount ≤ 512 →
       e.kp 0 ≤ e.rowStart → e.rowStart - e.kp 0 ≤ 255 → ¬ (o.mx = true ∧ e.colCount % 32 ≠ 0 ∧ e.colStart + e.colCount ≠ o.d0) →
       (s.block.core c.val).rowsPending [e.rowStart - e.kp 0] = false →
       let cols := t.cut e.colStart e.colCount
       cols.2 ≠ 0 → v.rowsOpen c t o [e.rowStart] cols.1 cols.2 e.pageInOk false = (.ok, q1) →
       let vals := (List.range cols.2).map (fun j =>
         tensorScaled a w ((q1.core c.val).mergeVal (e.rowStart - e.kp 0) (cols.1 - e.colStart + j)))
       let z := (q1.drnOvf c 1 (vals.map (fun x => x.2)).sum).putRow c t o e.rowStart cols.1 false (vals.map (fun x => x.1)) e.pageInOk
       z.1 = .ok → z.2.bySerial (.core c) t.serial = some t →
       Completes (.spmmFlush c cycles .none) s (fun b => passed 0 b ∧ b.mem = z.2.mem ∧
         (∀ j < e.colCount, (b.core c.val).mergeVal (e.rowStart - e.kp 0) j = val32 0) ∧
         (∀ m j, j < 512 → m ≠ e.rowStart - e.kp 0 → (b.core c.val).mergeVal m j = (z.2.core c.val).mergeVal m j)))) ∧
  (∀ (s : State) (c : Fin 128) (cycles eccCorr : Nat),
     let w := s.block.rd (.drl c) Reg.DRL_SCRATCH
     s.block.running = true →
     (∀ (f : Fallback) (rest : List Fallback) (t : TaskSt) (src : Source) (q : Block),
       (s.block.core c.val).fallbacks = f :: rest → s.block.bySerial (.core c) f.serial = some t → wfield w 1 0 = 1 →
       let v := s.block.seenBy t
       let a := v.desc t.task.descA.toNat
       let wd := v.desc t.task.descB.toNat
       let n := f.rows.length
       let base := sramPhys (coreTile c).val (8192 * (coreSlot c).val + 7168)
       let size := roundUp (denseRowBytes a.format f.slab.rows * n) 64 + 512 * n * ceilDiv f.slab.cols 128
       v.arrayFree c = true → v.drainsBefore c t (t.task.par 4 2) n = false → v.source wd f.slab.entry = some src →
       v.sourcesReady c t [(src, src.ranges)] wd.allowNewer f.slab.pageIn = (.ok, q) →
       let k := (q.stopFiller c).portSource c t src src.portBytes src.ranges
       k.1.2 = [] → k.2.bySerial (.core c) f.serial = some t → t.phase = .running → (k.2.core c.val).fallbacks = f :: rest →
       (k.2.begunAhead c).all (fun y => y.serial != f.serial) = true → size ≤ 2 ^ 26 →
       Completes (.fallbackPass c cycles eccCorr 0 .none) s (fun b => (b.core c.val).fallbacks = rest ∧
         (b.core c.val).active = none ∧ (b.core c.val).slab = (k.2.core c.val).slab ∧
         (∀ j, j < base ∨ base + size ≤ j → Sparse.get b.memDef b.mem j = Sparse.get k.2.memDef k.2.mem j) ∧
         ∃ t' : TaskSt, b.bySerial (.core c) f.serial = some t' ∧ t'.cycles = t.cycles + cycles ∧ t'.busy = t.busy + cycles ∧
           t'.pos = t.pos ∧ t'.items = t.items)) ∧
     (wfield w 1 0 = 2 → wbit w 8 = true →
       Completes (.scratchYield c) s (fun b => b.mem = s.block.mem ∧ b.cores = s.block.cores ∧ b.units = s.block.units ∧
         wbit (b.rd (.drl c) Reg.DRL_SCRATCH) 8 = false ∧
         wfield (b.rd (.drl c) Reg.DRL_SCRATCH) 1 0 = if (s.block.core c.val).fallbacks.isEmpty then 0 else 1)) ∧
     (wfield w 1 0 = 2 → wbit w 8 = false →
       let b := s.block.wantScratch c
       wfield (b.rd (.drl c) Reg.DRL_SCRATCH) 1 0 = 2 ∧ wbit (b.rd (.drl c) Reg.DRL_SCRATCH) 8 = true ∧
         b.rd64 (.drl c) Reg.DRL_YIELDS = min (s.block.rd64 (.drl c) Reg.DRL_YIELDS + 1) (2 ^ 64 - 1)))

/-- A SELECT entry of one row whose pairs CAPACITY admits counts the pairs that it skips, samples, recomputes and misses, writes the row and
passes the entry; a task that has counted CAPACITY work items and has another due stops with SPARSE_CAPACITY (R174, R191, R192, R195).
What it says beyond those rules is the model's choice: log entries 28 and 29. -/
def Obligations.SelectCountsItsPairs : Prop :=
  ∀ (s : State) (c : Fin 128) (cycles lanes : Nat) (q t : TaskSt),
    let v := s.block.seenBy q
    let e := v.entryAt t t.pos
    s.block.running = true → s.block.portTask c 1 = some q →
    (∀ (q1 q2 y : Block) (l : List Pair) (read : List RowData),
      let o := v.desc t.task.descC.toNat
      let cols := t.cut e.colStart e.colCount
      v.drlTask c 2 5 = some t → selectOk e (v.desc t.task.descA.toNat) (v.desc t.task.descB.toNat) o = true → e.empty = false →
      e.rowCount = 1 → cols.2 ≠ 0 → v.selectReady c t e = (.ok, q1) →
      q1.rowsOpen c t o [e.rowStart] cols.1 cols.2 e.pageInOk false = (.ok, q2) → q2.selectBlock c t e = (([l], read), y) →
      poisonStop read = none → selectItems [l] ≤ t.room →
      let z := (y.selectCount c [l]).putRow c t o e.rowStart cols.1 false (l.map (fun k => k.val)) e.pageInOk
      let grown := fun (b : Block) (off : Nat) (f : Pair → Bool) =>
        b.rd64 (.drl c) off = min (y.rd64 (.drl c) off + (l.filter f).length) (2 ^ 64 - 1)
      z.1 = .ok → z.2.bySerial (.core c) t.serial = some t →
      Completes (.select c cycles lanes .none) s (fun b => b.mem = z.2.mem ∧
        grown b Reg.DRL_PRED_SKIPPED (fun p => p.skipped) ∧ grown b Reg.DRL_PRED_SAMPLED (fun p => p.sampled) ∧
        grown b Reg.DRL_PRED_MAKEUP (fun p => p.makeup) ∧ grown b Reg.DRL_PRED_MISS (fun p => p.miss) ∧
        grown b Reg.DRL_ITEMS (fun p => p.item) ∧
        ∃ t' : TaskSt, b.bySerial (.core c) t.serial = some t' ∧ t'.pos = t.after t.pos ∧ t'.items = t.items + selectItems [l] ∧
          t'.phase = t.phase)) ∧
    (v.portTask c 1 = some t → s.block.bySerial (.core c) t.serial = some t → t.task.kind = 2 → t.listDone = false →
      t.room = 0 → e.empty = false → t.task.par 0 1 ≠ 5 → e.src = 3 →
      Completes (.sparseCapacity c) s (fun b => b.mem = s.block.mem ∧ ∃ t' : TaskSt, b.bySerial (.core c) t.serial = some t' ∧
        t'.phase = .finished ∧ t'.faultCode = some Ev.SPARSE_CAPACITY))

/-! ## Expert routing -/

/-- The expert directory through its registers: EXD_CMD 1 shows the entry at EXD_SEL, EXD_CMD 2 writes it whole and no other, but for a new
entry that the rules refuse, which changes nothing and is reported (R197, R199). A bulk load of the directory and a dump of its tallies
begin with START unless their range passes the directory, and each is busy until it ends; a load leaves a first part of the entries still
to come in the directory and every other as it was, and one that an entry has ended lands nothing more; the dump stores an entry's two
tallies in 16 bytes and clears the tallies it stored where it was asked to (R220, R222). What it says beyond those rules is the model's
choice: log entry 42. -/
def Obligations.DirectoryCommands : Prop :=
  (∀ (s : State) (o : Origin), s.takes o .exd Reg.EXD_CMD = true →
     let i := s.block.rdN .exd Reg.EXD_SEL
     let e := s.block.words .exd (Reg.EXD_DATA 0) 16
     Completes (.exdCmdRead o) s (fun b => b.words .exd (Reg.EXD_DATA 0) 16 = s.block.expert i % 2 ^ 512 ∧ b.exd = s.block.exd) ∧
     (expRefused (s.block.expert i) e = 0 → Completes (.exdCmdWrite o) s (fun b =>
       b.expert i = e ∧ (∀ j, j ≠ i → b.expert j = s.block.expert j) ∧ wfield (b.rd .exd Reg.EXD_STAT) 15 0 = 0 ∧
       b.exd.placed = s.block.exd.placed ∧ b.exd.refused = s.block.exd.refused)) ∧
     (∀ code, expRefused (s.block.expert i) e = code → code ≠ 0 → Completes (.exdCmdWrite o) s (fun b =>
       b.exd = s.block.exd ∧ wfield (b.rd .exd Reg.EXD_STAT) 15 0 = code ∧
       b.evtCount code = satAdd64 (s.block.evtCount code) 1))) ∧
  ((∀ (s : State) (o : Origin) (v : Word),
     let first := s.block.rdN .exd Reg.EXD_SEL
     wbit (s.block.rd .exd Reg.EXD_STAT) 31 = false → wbit v 31 = true →
     (s.takes o .exd Reg.EXD_BULK_CTL = true → Completes (.exdBulkLoadStart o v) s (fun b =>
       b.exd.dir = s.block.exd.dir ∧
       (first + wfield v 14 0 ≤ 16384 → wbit (b.rd .exd Reg.EXD_STAT) 31 = true ∧
         b.exd.bulk = some { first := first, count := wfield v 14 0, addr := s.block.rd64 .exd Reg.EXD_BULK_SRC_LO, clear := false,
                             origin := o, done := 0, code := 0 }) ∧
       (16384 < first + wfield v 14 0 → b.exd = s.block.exd ∧ b.rd .exd Reg.EXD_BULK_DONE = 0 ∧
         wfield (b.rd .exd Reg.EXD_STAT) 15 0 = Ev.DESC_RANGE))) ∧
     (s.takes o .exd Reg.EXD_TALLY_CTL = true → Completes (.tallyDumpStart o v) s (fun b =>
       (first + wfield v 14 0 ≤ 16384 → wbit (b.rd .exd Reg.EXD_STAT) 31 = true ∧
         b.exd.dump = some { first := first, count := wfield v 14 0, addr := s.block.rd64 .exd Reg.EXD_TALLY_DST_LO,
                             clear := wbit v 30, origin := o, done := 0, code := 0 }) ∧
       (16384 < first + wfield v 14 0 → b.exd = s.block.exd ∧ wfield (b.rd .exd Reg.EXD_STAT) 15 0 = Ev.DESC_RANGE)))) ∧
   (∀ (s : State) (r : BulkRun), s.block.running = true → r.count < 2 ^ 32 → r.done ≤ r.count → r.code < 2 ^ 32 →
     (s.block.exd.bulk = some r → r.code = 0 → Completes .exdBulkLoadDone s (fun b => b.exd.bulk = none ∧
       ∃ k, r.done ≤ k ∧ k ≤ r.count ∧ b.rdN .exd Reg.EXD_BULK_DONE = k ∧ (b.rd .exd Reg.EXD_STAT = 0 ↔ k = r.count) ∧
         (∀ i, r.done ≤ i → i < k → b.expert (r.first + i) = s.block.num (r.addr + 64 * i) 64) ∧
         ∀ j, j < r.first + r.done ∨ r.first + k ≤ j → b.expert j = s.block.expert j)) ∧
     (s.block.exd.bulk = some r → r.code ≠ 0 → Completes .exdBulkLoadDone s (fun b => b.exd.bulk = none ∧ b.exd.dir = s.block.exd.dir ∧
       b.rdN .exd Reg.EXD_STAT = r.code ∧ b.rdN .exd Reg.EXD_BULK_DONE = r.done)) ∧
     (s.block.exd.dump = some r → r.code = 0 → Completes .tallyDumpDone s (fun b => b.exd.dump = none ∧ b.exd.dir = s.block.exd.dir ∧
       ∃ k, r.done ≤ k ∧ k ≤ r.count ∧ (b.rd .exd Reg.EXD_STAT = 0 ↔ k = r.count) ∧
         ∀ j, let hit := r.clear = true ∧ r.first + r.done ≤ j ∧ j < r.first + k
           tallyAt b.exd.placed j = (if hit then 0 else tallyAt s.block.exd.placed j) ∧
           tallyAt b.exd.refused j = if hit then 0 else tallyAt s.block.exd.refused j)) ∧
     (∀ a : Nat, s.block.exd.dump = some r → r.count = 1 → r.done = 0 → r.code = 0 → s.block.protected_ r.addr 16 = false → s.block.probe r.addr 16 = .ok →
       s.block.resolveOwn r.addr = .phys a → r.addr / 65536 = (r.addr + 15) / 65536 →
       Completes .tallyDumpDone s (fun b =>
         (∀ i < 16, Sparse.get s.block.memDef b.mem (a + i) =
           (toBytes 8 (tallyAt s.block.exd.placed r.first).toNat ++ toBytes 8 (tallyAt s.block.exd.refused r.first).toNat).getD i 0) ∧
         ∀ j, j < a ∨ a + 16 ≤ j → Sparse.get s.block.memDef b.mem j = Sparse.get s.block.memDef s.block.mem j))))

/-- Placement places or drops every choice of every token, and fills no segment beyond its capacity (R208, R210). What it says beyond those
rules is the model's choice: log entry 46. -/
def Obligations.EveryChoiceIsPlacedOrDropped : Prop :=
  ∀ (segs : List Seg) (r : TaskRec) (self : Nat) (ranks : List (List Nat)),
    let p := placeAll segs r self ranks
    p.placed.length + p.dropped = r.topk * ranks.length ∧ p.fill.length = segs.length ∧
    (∀ i < segs.length, p.fill.getD i 0 ≤ (segs.getD i ⟨0, 0, 0, 0, 0, 0⟩).cap) ∧
    (∀ q ∈ p.placed, q.seg < segs.length ∧ (segs.getD q.seg ⟨0, 0, 0, 0, 0, 0⟩).base ≤ q.row ∧
      q.row < (segs.getD q.seg ⟨0, 0, 0, 0, 0, 0⟩).base + p.fill.getD q.seg 0) ∧
    p.placed.length = p.fill.sum

/-- A ROUTE task whose placement CAPACITY admits moves its rows and writes its tables, and then holds its five counts, counts its placements
as work items, has done its list, and notes the list that it wrote for its completion to bind; a COMBINE entry of one row writes the
weighted sum of the rows its groups name, in the columns that the task covers, and passes; either stops with DISPATCH_CAPACITY where it
has counted CAPACITY work items and has another due (R48, R97, R201, R203, R210, R216, R219). What it says beyond those rules is the
model's choice: log entries 46 and 57. -/
def Obligations.RouteAndCombineComplete : Prop :=
  ∀ (s : State) (c : Fin 128) (cycles lanes : Nat) (q t : TaskSt),
    let v := s.block.seenBy q
    let r := t.task
    let e := v.entryAt t t.pos
    let all := t.ahead r.listCount.toNat t.pos
    s.block.running = true → s.block.portTask c 1 = some q →
    (∀ (p : RoutePlan) (y q1 z : Block), v.drlTask c 3 1 = some t →
      (∀ x ∈ all, dispatchEntryOk (v.desc r.descA.toNat) (v.entryAt t x) = true) → v.listBlocked c t all = none →
      v.routePlan c t all = (p, y) → p.place.items ≤ t.room →
      v.routeReady c t p (all.all (fun x => (v.entryAt t x).pageInOk)) = (.ok, q1) →
      (q1.routePlan c t all).2.routeMove c t p = (.ok, z) → z.bySerial (.core c) t.serial = some t →
      Completes (.route c cycles lanes .none) s (fun b => b.mem = z.mem ∧
        b.rd64 (.drl c) Reg.DRL_ITEMS = min (z.rd64 (.drl c) Reg.DRL_ITEMS + p.place.items) (2 ^ 64 - 1) ∧
        ∃ t' : TaskSt, b.bySerial (.core c) t.serial = some t' ∧ t'.cursor = r.listCount.toNat ∧
          t'.items = t.items + p.place.items ∧ t'.dispCnt = p.counts ∧ t'.tally = placeTally r p.segs p.place ∧
          t'.listsOut = (if r.listOut = 0 then t.listsOut else t.listsOut ++ [(r.listOut, [0, 0, r.descC.toNat, 0])]) ∧
          t'.phase = t.phase)) ∧
    (∀ (k : Took) (y q1 q2 : Block),
      let a := v.desc r.descA.toNat
      let w := v.desc r.descB.toNat
      let o := v.desc r.descC.toNat
      let cols := t.cut 0 o.d0
      let gs := liveGroups (routeGroups (k.d.codes k.rd k.e.rowStart 0 a.d0))
      let z := (q2.take c t 1 false).2.combineRow c t e.rowStart gs cols e.pageInOk
      v.drlTask c 3 2 = some t → dispatchEntryOk a e = true → e.empty = false → e.rowCount = 1 → 4 ≤ a.d0 →
      a.d0 / 4 ≤ t.room → v.take c t 1 false = (k, y) → k.ready = .ok → (∀ g ∈ gs, g.1 < w.rows) →
      v.rowsReady c t true (combineWants r.descB.toNat w gs cols) e.pageInOk = (.ok, q1) →
      q1.rowsOpen c t o [e.rowStart] cols.1 cols.2 e.pageInOk (r.dflag 3) = (.ok, q2) → z.1 = .ok →
      z.2.bySerial (.core c) t.serial = some t →
      Completes (.combine c cycles lanes .none) s (fun b => b.mem = z.2.mem ∧
        ∃ t' : TaskSt, b.bySerial (.core c) t.serial = some t' ∧ t'.pos = t.after t.pos ∧ t'.items = t.items + a.d0 / 4 ∧
          t'.phase = t.phase)) ∧
    (v.portTask c 1 = some t → s.block.bySerial (.core c) t.serial = some t → r.kind = 3 → t.listDone = false → t.room = 0 →
      (r.par 0 1 = 1 ∨ e.empty = false) →
      Completes (.dispatchCapacity c) s (fun b => b.mem = s.block.mem ∧ ∃ t' : TaskSt, b.bySerial (.core c) t.serial = some t' ∧
        t'.phase = .finished ∧ t'.faultCode = some Ev.DISPATCH_CAPACITY))

/-! ## SRAM, copies and the Aznor units -/

/-- ALLOC makes one allocation of the asked kind and size from free slabs, shows its address and generation, and keeps the slabs of different
allocations apart and none of them retired; without room it is refused and changes no allocation (R223, R228, R229). FREE marks the
allocation that it names and advances the generation of each of its slabs; its slabs return to the pool once nothing uses them; an address
that begins no allocation is refused (R99, R227, R230). TILE_OC_INV empties its tile's operand cache and no other; a corrected word counts
at its tile; neither changes memory (R225, R243). What it says beyond those rules is the model's choice: log entry 40. -/
def Obligations.AllocationsKeepSlabsApart : Prop :=
  (∀ (s : State) (o : Origin) (t : Fin 16) (k : AllocKind),
     let q := s.block.rd (.tile t) Reg.TILE_ALLOC_REQ
     let n := s.block.rdN (.tile t) Reg.TILE_ALLOC_SIZE
     let x := s.block.tile t.val
     let apart := fun (x : TileSt) =>
       x.allocs.Pairwise (fun a a' => (∀ j ∈ a.slabs, j ∉ a'.slabs) ∧
         (a.base + a.slabs.length ≤ a'.base ∨ a'.base + a'.slabs.length ≤ a.base)) ∧
       ∀ a ∈ x.allocs, a.slabs.Nodup ∧ (∀ j ∈ a.slabs, j ∉ x.retired) ∧ a.base + a.slabs.length ≤ 0x1C000
     s.takes o (.tile t) Reg.TILE_ALLOC_CMD = true → allocKind? (wfield q 1 0) = some k → 0 < n → n ≤ 65536 →
     x.allocs.length < 4096 → x.shadowQ = [] →
     (∀ base g y, s.block.slabAlloc t k (sliceOrder (wfield q 18 16) (wbit q 19)) n = some (base, g, y) →
       Completes (.tileAlloc o t) s (fun b =>
         b.rd64 (.tile t) Reg.TILE_ALLOC_ADDR_LO = t.val * 2 ^ 33 + base * 65536 ∧ b.rd (.tile t) Reg.TILE_ALLOC_STAT = 0 ∧
         b.rd (.tile t) Reg.TILE_ALLOC_GEN = BitVec.ofNat 32 g ∧ (b.tile t.val).retired = x.retired ∧
         (∃ a : SramAlloc, (b.tile t.val).allocs = x.allocs ++ [a] ∧ a.base = base ∧ a.slabs.length = n ∧ a.kind = k ∧ a.gen = g ∧
           a.freed = false) ∧
         (apart x → apart (b.tile t.val)))) ∧
     (s.block.slabAlloc t k (sliceOrder (wfield q 18 16) (wbit q 19)) n = none →
       Completes (.tileAlloc o t) s (fun b => b.tile t.val = x ∧
         b.rd (.tile t) Reg.TILE_ALLOC_STAT = BitVec.ofNat 32 Ev.ALLOC_NO_SPACE ∧
         b.evtCount Ev.ALLOC_NO_SPACE = satAdd64 (s.block.evtCount Ev.ALLOC_NO_SPACE) 1))) ∧
  (∀ (s : State) (t : Fin 16),
     let x := s.block.tile t.val
     (∀ (o : Origin), s.takes o (.tile t) Reg.TILE_ALLOC_CMD = true →
       let found := x.allocs.find? (fun y => !y.freed && decide (y.kind ≠ .shadow) &&
         decide (t.val * 2 ^ 33 + y.base * 65536 = s.block.rd64 (.tile t) Reg.TILE_ALLOC_ADDR_LO))
       (∀ y, found = some y → Completes (.tileFree o t) s (fun b =>
         b.rd (.tile t) Reg.TILE_ALLOC_STAT = 0 ∧
         (b.tile t.val).allocs = x.allocs.map (fun z => if z.base = y.base then { z with freed := true } else z) ∧
         (∀ i < y.slabs.length, Sparse.get (fun _ => 0) (b.tile t.val).gens (y.base + i) =
           (Sparse.get (fun _ => 0) x.gens (y.base + i) + 1) % 2 ^ 16) ∧
         ∀ j, j < y.base ∨ y.base + y.slabs.length ≤ j →
           Sparse.get (fun _ => 0) (b.tile t.val).gens j = Sparse.get (fun _ => 0) x.gens j)) ∧
       (found = none → Completes (.tileFree o t) s (fun b => b.tile t.val = x ∧
         b.rd (.tile t) Reg.TILE_ALLOC_STAT = BitVec.ofNat 32 Ev.ALLOC_BAD_FREE ∧
         b.evtCount Ev.ALLOC_BAD_FREE = satAdd64 (s.block.evtCount Ev.ALLOC_BAD_FREE) 1))) ∧
     (∀ (base : Nat) (a : SramAlloc), s.block.running = true → x.allocs.find? (fun a => a.freed && a.base == base) = some a →
       (∀ z ∈ x.allocs, z.base = base → z = a) → x.bad = [] →
       (s.block.stillUsed (t.val * 2 ^ 33 + base * 65536) (a.slabs.length * 65536) = true → exec (.slabReturn t base) s = .next s) ∧
       (s.block.stillUsed (t.val * 2 ^ 33 + base * 65536) (a.slabs.length * 65536) = false →
         s.block.rdN (.tile t) Reg.TILE_ALLOC_FREE + a.slabs.length < 2 ^ 32 →
         Completes (.slabReturn t base) s (fun b => b.mem = s.block.mem ∧
           (b.tile t.val).allocs = x.allocs.filter (fun y => y.base != base) ∧
           b.rdN (.tile t) Reg.TILE_ALLOC_FREE = s.block.rdN (.tile t) Reg.TILE_ALLOC_FREE + a.slabs.length ∧
           ∀ j ∈ a.slabs, (∀ z ∈ x.allocs, z.base ≠ base → j ∉ z.slabs) → j ∉ x.retired → (b.tile t.val).slabFree j = true)))) ∧
  (∀ (s : State) (t : Fin 16),
     (∀ (o : Origin) (v : Word), s.takes o (.tile t) Reg.TILE_OC_INV = true →
       Completes (.tileOcInv o t v) s (fun b => (b.tile t.val).oc = (if wbit v 0 then [] else (s.block.tile t.val).oc) ∧
         (b.tile t.val).allocs = (s.block.tile t.val).allocs ∧ ∀ u, u ≠ t.val → b.tile u = s.block.tile u)) ∧
     (∀ a : DWord, s.block.running = true → a.toNat / 2 ^ 33 = t.val →
       Completes (.sramCeWriteback t a) s (fun b => b.mem = s.block.mem ∧ b.tiles = s.block.tiles ∧
         b.rd64 (.tile t) Reg.TILE_SRAM_CE = min (s.block.rd64 (.tile t) Reg.TILE_SRAM_CE + 1) (2 ^ 64 - 1))))

/-- An entry of a COPY task that can be read and written is moved whole under each MODE, charged, and passed; an in-place transpose waits for
an array that no STREAM still needs. A chain goes on in the link of its next entry. Under overlap the first LOAD of the next array task,
once fetched, fills STANDBY, and the fetch engine goes on into its list (R245, R246, R249, R250, R252, R254). What it says beyond those
rules is the model's choice: log entries 38 and 44. -/
def Obligations.CopiesMoveTheirEntries : Prop :=
  ∀ (s : State) (c : Fin 128) (cycles : Nat), s.block.running = true →
    (∀ (q t : TaskSt) (q1 y z : Block) (k : Took) (n : Nat),
      let v := s.block.seenBy q
      let e := v.entryAt t t.pos
      let passed := fun (b : Block) => b.mem = z.mem ∧ ∃ t' : TaskSt, b.bySerial (.core c) t.serial = some t' ∧
        t'.pos = t.after t.pos ∧ t'.cycles = t.cycles + cycles ∧ t'.items = n ∧ t'.phase = t.phase
      s.block.portTask c 2 = some q → v.demand t (v.copyDst t) e.pageInOk = (.ok, q1) → q1.take c t 2 true = (k, y) → k.ready = .ok →
      y.copyBlock c t (v.descAt t t.pos e) e k = (.ok, z) → z.bySerial (.core c) t.serial = some { t with items := n } →
      (v.copyTask c 0 false = some t → Completes (.copyPlain c cycles .none) s passed) ∧
      (v.copyTask c 1 false = some t → Completes (.copyTranspose c cycles .none) s passed) ∧
      (v.copyTask c 2 false = some t → Completes (.copyPermute c cycles .none) s passed) ∧
      (v.copyTask c 1 true = some t → v.arrayFree c = true → (z.begunAhead c).all (fun x => x.serial != t.serial) = true →
        Completes (.inPlaceTranspose c cycles .none) s (fun b => passed b ∧ (b.core c.val).standby = none ∧
          ∃ t' : TaskSt, b.bySerial (.core c) t.serial = some t' ∧ t'.busy = t.busy + cycles)) ∧
      (v.copyTask c 1 true = some t → v.arrayFree c = false →
        Completes (.inPlaceTranspose c cycles .none) s (fun b => b = { s.block with lens := [] }))) ∧
    (∀ t : TaskSt, s.block.portTask c 0 = some t → s.block.bySerial (.core c) t.serial = some t → t.links ≠ [] →
      (t.settle 9 t.pos).1 < t.linkCount →
      Completes (.chain c) s (fun b => b.mem = s.block.mem ∧
        wfield (b.rd (.darr c) Reg.STAT) 2 0 = (t.recAt (t.settle 9 t.pos).1).gear % 8 ∧
        ∃ t' : TaskSt, b.bySerial (.core c) t.serial = some t' ∧ t'.pos = t.settle 9 t.pos ∧ t'.items = t.items)) ∧
    (∀ n : TaskSt, s.block.prologueTask c = some n →
      let e := s.block.entryAt n n.pos
      let x := s.block.core c.val
      (∀ (f : Fetched) (w : WTile) (y : Block) (n' : TaskSt), n.pos = (0, 0) → e.src = 1 → n.task.reuse = false → loadOk n.cur.gear e = true →
        s.block.startCheck n = none → s.block.standbyFreed c = true → s.block.fetched? c 0 n.serial (posKey n.pos) = some f →
        f.arrived = true → s.block.loadTile c n = ((.ok, some w), y) → y.bySerial (.core c) n.serial = some n' →
        Completes (.overlapPrologue c) s (fun b => b.mem = y.mem ∧ (b.core c.val).standby = some w ∧
          (b.core c.val).active = (y.core c.val).active ∧
          b.rd64 (.darr c) Reg.DARR_LOADS = min (y.rd64 (.darr c) Reg.DARR_LOADS + 1) (2 ^ 64 - 1) ∧
          ∃ t' : TaskSt, b.bySerial (.core c) n.serial = some t' ∧ t'.pos = n'.after n'.pos ∧ t'.phase = n'.phase)) ∧
      (∀ (p : Nat × Nat) (src : Source),
        let f := s.block.entryAt n p
        let d := s.block.descAt n p f
        s.block.fetched? c 0 n.serial (posKey n.pos) = none → s.block.nextAhead c n 0 n.runahead true = some p →
        s.block.chainHeld n p = false → s.block.linkWrites c n d = false → s.block.source d f = some src → src.holder = 0 →
        src.d.tracked = false → s.block.queueRoom c 0 (queueTakes 0 f.src src) = true → x.tracked ≤ 256 →
        (∀ r ∈ src.ranges, s.block.probe (s.block.taskAddr n r.1) r.2 = .ok ∧ s.block.reaches n (s.block.taskAddr n r.1) = true) →
        s.block.sourceFits src = true →
        Completes (.overlapPrologue c) s (fun b => b.mem = s.block.mem ∧ b.evt = s.block.evt ∧
          ∃ g : Fetched, (b.core c.val).fetched = x.fetched ++ [g] ∧ g.port = 0 ∧ g.serial = n.serial ∧ g.entry = posKey p ∧
            g.arrived = false)))

/-- Programs through the module's registers: a read shows the selected program's length and words; a write that passes every check replaces
the selected program alone; an empty command empties it; a refused command changes no program and reports its code (R270, R275). An UPDATE
task that passes its checks gives each stack's unit the share of its entries, and waits while a unit is full; a unit takes the next share
at once, and then entry by entry, counting the elements of each (R259, R260, R263, R265, R276). What it says beyond those rules is the
model's choice: log entries 50 and 56. -/
def Obligations.UpdateProgramsAndShares : Prop :=
  (∀ (s : State) (o : Origin), s.takes o .aznMod Reg.AZN_PROG_CMD = true →
     let i := s.block.progSel
     let refused := fun (r : Nat × Nat) (b : Block) => b.azn = s.block.azn ∧
       b.rd .aznMod Reg.AZN_PROG_STAT = BitVec.ofNat 32 (r.2 * 2 ^ 16 + r.1) ∧ b.evtCount r.1 = satAdd64 (s.block.evtCount r.1) 1
     let kept := fun (l : List Nat) (b : Block) => b.prog i = l ∧ (∀ j, j ≠ i → b.prog j = s.block.prog j) ∧
       b.azn.units = s.block.azn.units ∧ b.rd .aznMod Reg.AZN_PROG_STAT = 0
     Completes (.aznProgRead o) s (fun b => b.azn = s.block.azn ∧
       b.rd .aznMod Reg.AZN_PROG_LEN = BitVec.ofNat 32 (s.block.prog i).length ∧
       ∀ k < 16, b.rd .aznMod (Reg.AZN_PROG_DATA k) = BitVec.ofNat 32 ((s.block.prog i).getD k 0)) ∧
     (s.block.progRefused = none → Completes (.aznProgWrite o) s (kept s.block.progImage)) ∧
     (∀ r, s.block.progRefused = some r → Completes (.aznProgWrite o) s (refused r)) ∧
     (s.block.progBusy i = false → Completes (.aznProgEmpty o) s (kept [])) ∧
     (s.block.progBusy i = true → Completes (.aznProgEmpty o) s (refused (Ev.AZN_PROG_BUSY, 0)))) ∧
  (∀ (s : State), s.block.running = true →
     (∀ (i : Nat) (t : TaskSt), s.block.task? .wholeModule i = some t → s.block.bySerial .wholeModule t.serial = some t →
       t.task.kind = 8 → t.phase = .running → t.shareCount = 0 → t.isEmpty = false →
       let l := s.block.updateShares t.task t.serial
       (s.block.updateCheck t.task = none → (∀ p ∈ l, (s.block.aznUnit p.1.val).held < 8) →
         Completes (.updateDispatch .wholeModule i) s (fun b => b.mem = s.block.mem ∧
           (∃ t' : TaskSt, b.bySerial .wholeModule t.serial = some t' ∧ t'.shareCount = l.length ∧ t'.phase = .running) ∧
           ∀ st : Fin 20, (b.aznUnit st.val).waiting = (s.block.aznUnit st.val).waiting ++
               (l.filter (fun p => p.1 == st)).map (fun p => p.2) ∧
             (b.aznUnit st.val).running = (s.block.aznUnit st.val).running)) ∧
       (s.block.updateCheck t.task = none → (∃ p ∈ l, 8 ≤ (s.block.aznUnit p.1.val).held) →
         exec (.updateDispatch .wholeModule i) s = .next s) ∧
       (∀ code, s.block.updateCheck t.task = some code → Completes (.updateDispatch .wholeModule i) s (fun b => b.mem = s.block.mem ∧
         b.azn = s.block.azn ∧ ∃ t' : TaskSt, b.bySerial .wholeModule t.serial = some t' ∧ t'.phase = .finished ∧
           t'.faultCode = some code))) ∧
     (∀ (st : Fin 20) (h : AznShare) (rest : List AznShare), s.block.lock (18 + st.val) = true → (s.block.aznUnit st.val).running = none →
       (s.block.aznUnit st.val).waiting = h :: rest →
       Completes (.updateShare st) s (fun b => b.mem = s.block.mem ∧ (b.aznUnit st.val).waiting = rest ∧
         (b.aznUnit st.val).running = some { h with share := wfield (s.block.rd (.azn st) Reg.AZN_CFG) 4 0, since := s.block.now } ∧
         (b.aznUnit st.val).regs = (s.block.aznUnit st.val).regs ∧ (b.aznUnit st.val).gens = (s.block.aznUnit st.val).gens)) ∧
     (∀ (st : Fin 20) (cycles : Nat) (h : AznShare) (l : List Byte) (rest : List (List Byte)) (y : Block),
       let e := Entry32.ofBytes l
       let used := (progSlots h.prog).filter (fun k => progLoads h.prog k || progStores h.prog k)
       s.block.lock (18 + st.val) = true → (s.block.aznUnit st.val).running = some h → (s.block.aznUnit st.val).work = none →
       h.entries = l :: rest →
       s.block.updateEntryBad st h e = none → h.cycles + cycles < h.budget → 0 < e.rowCount * e.vecs →
       s.block.demand (s.block.updateTask h) (used.flatMap (h.slotRanges e)) e.pageInOk = (.ok, y) →
       Completes (.updateEntry st cycles) s (fun b => b.mem = y.mem ∧
         (b.aznUnit st.val).running = some { h with entries := rest, cycles := h.cycles + cycles } ∧
         (b.aznUnit st.val).work = some { entry := l, batch := 0, batches := ceilDiv (e.rowCount * e.vecs) 4, pc := 0,
                                               asked := false, got := [] } ∧
         (b.aznUnit st.val).regs = (y.aznUnit st.val).regs ∧
         b.rd64 (.azn st) Reg.AZN_ELEMENTS = min (y.rd64 (.azn st) Reg.AZN_ELEMENTS + 32 * (e.rowCount * e.vecs)) (2 ^ 64 - 1))))

/-- Every element-wise operation writes each element whose value its row of the operation table gives into its destination register, leaves
the other seven, and the unit goes on to the next operation; an element to which the table gives no value is open (R266, R268). LOAD of a
slot in HBM asks the stack's controller for the batch, and once that has served it, or at once from SRAM, brings the values into its
register; QDQ what a store of it would read back, BSUM and BAMAX one value for each block of 32; STORE writes what its conversion gives,
steps the generators exactly where it rounds stochastically, and leaves the registers (R265, R268, R269, R271, R273). What it says beyond
those rules is the model's choice: log entries 16 and 25 and 50. -/
def Obligations.UpdateOperations : Prop :=
  (∀ (s : State) (c : Instr) (opc : Nat) (st : Fin 20) (h : AznShare) (w : AznWork) (op : Nat),
     let u := s.block.aznUnit st.val
     aznRow c = some (opc, st) → s.block.running = true → s.block.aznDue st opc = some (h, w, op) → opD op < u.regs.length →
     Completes c s (fun b =>
       (∀ j < 128, ∀ v, aznElem opc ((u.reg (opA op)).vals.getD j 0) ((u.reg (opB op)).vals.getD j 0) ((u.reg (opC op)).vals.getD j 0)
           (h.scalars.getD (opK op) 0) = some v → ((b.aznUnit st.val).reg (opD op)).vals.getD j 0 = v) ∧
       (∀ i, i ≠ opD op → (b.aznUnit st.val).reg i = u.reg i) ∧ (b.aznUnit st.val).gens = u.gens ∧
       (w.pc + 1 < h.prog.length → b.mem = s.block.mem ∧ b.regs = s.block.regs ∧
         (b.aznUnit st.val).work = some { w with pc := w.pc + 1, asked := false, got := [] } ∧ (b.aznUnit st.val).running = u.running))) ∧
  (∀ (s : State) (st : Fin 20) (h : AznShare) (w : AznWork) (op : Nat),
     let u := s.block.aznUnit st.val
     let d := h.desc (opK op)
     let t := s.block.updateTask h
     let e := Entry32.ofBytes w.entry
     let next : AznWork := { w with pc := w.pc + 1, asked := false, got := [] }
     let others := fun (b : Block) => ∀ i, i ≠ opD op → (b.aznUnit st.val).reg i = u.reg i
     let dest := fun (b : Block) (j : Nat) => ((b.aznUnit st.val).reg (opD op)).vals.getD j 0
     s.block.running = true → opD op < u.regs.length → w.pc + 1 < h.prog.length →
     (s.block.aznDue st 0x01 = some (h, w, op) →
       let loaded := fun (y b : Block) => others b ∧ b.mem = y.mem ∧ (b.aznUnit st.val).work = some next ∧
         ∀ q < 4, ∀ r v lo n, w.place q = some (r, v, lo, n) → ∀ i < n,
           dest b (32 * q + lo + i) = (f32 ((d.values (w.reader y.reader) r (32 * v + lo) n).getD i Machine.Num.zero)).1
       (w.asked = true → s.block.aznReads st = false → s.block.poisonIn t (batchRanges d w) = none →
         Completes (.load st .none) s (loaded s.block)) ∧
       (w.asked = true → s.block.aznReads st = true → exec (.load st .none) s = .next s) ∧
       (∀ y, w.asked = false → s.block.demand t (batchRanges d w) e.pageInOk = (.ok, y) →
         (inHbm d.base = false → y.poisonIn (y.updateTask h) (batchRanges d w) = none → Completes (.load st .none) s (loaded y)) ∧
         (inHbm d.base = true → y.aznWrites st (batchRanges d w) = false → Completes (.load st .none) s (fun b => b.mem = y.mem ∧
           (b.aznUnit st.val).regs = (y.aznUnit st.val).regs ∧ (b.aznUnit st.val).work = some { w with asked := true })))) ∧
     (∀ y, s.block.aznDue st 0x02 = some (h, w, op) →
       let gens := if h.rounds d then u.gens.map (lfsrSteps 128) else u.gens
       let writes := (w.stored h d (opKeep op) gens (u.reg (opA op))).flatMap (fun x => d.putConv s.block.reader x.1 x.2.1 x.2.2.1)
       s.block.aznWrite st h e writes = (.ok, y) →
       Completes (.store st) s (fun b => b.mem = y.mem ∧ (b.aznUnit st.val).regs = (y.aznUnit st.val).regs ∧
         (b.aznUnit st.val).gens = gens ∧ (b.aznUnit st.val).work = some next ∧
         let off := if inHbm d.base then Reg.AZN_HBM_BYTES else Reg.AZN_PUSH_BYTES
         b.rd64 (.azn st) off = min (y.rd64 (.azn st) off + (writes.map (fun x => x.2.length)).sum) (2 ^ 64 - 1))) ∧
     (s.block.aznDue st 0x0F = some (h, w, op) →
       Completes (.qdq st) s (fun b => others b ∧ b.mem = s.block.mem ∧ (b.aznUnit st.val).gens = u.gens ∧
         ∀ q < 4, ∀ r v lo n, w.place q = some (r, v, lo, n) → ∀ i < n,
           let k := convertBlock h d (opKeep op) u.gens (u.reg (opA op)) q v lo n
           dest b (32 * q + lo + i) = (f32 (d.value (k.codes.getD i 0) (k.scales.headD 0))).1)) ∧
     (s.block.aznDue st 0x15 = some (h, w, op) →
       Completes (.bsum st) s (fun b => others b ∧ b.mem = s.block.mem ∧ ((b.aznUnit st.val).reg (opD op)).tags = (u.reg (opA op)).tags ∧
         ∀ q < 4, ∀ i < 32, dest b (32 * q + i) = dest b (32 * q))) ∧
     (s.block.aznDue st 0x16 = some (h, w, op) →
       Completes (.bamax st) s (fun b => others b ∧ b.mem = s.block.mem ∧ ((b.aznUnit st.val).reg (opD op)).tags = (u.reg (opA op)).tags ∧
         ∀ q < 4, let l := (((u.reg (opA op)).vals.drop (32 * q)).take 32).map val32
           ∀ i < 32, dest b (32 * q + i) = (f32 (if l.any Machine.Num.isNan then .nan
             else l.foldl (fun m y => numMax m y.abs) Machine.Num.zero)).1)))

/-! ## HBM and the far tier -/

/-- HBM allocation: ALLOC gives a run of pages, each a page-table entry on a stack that serves it, and shows address and generation; FREE
marks the allocation and advances its pages' generations; once nothing uses or moves them its entries are cleared; a write of HBC_PTE_SEL
shows an entry (R281, R284, R285). A stack's controller: training puts a stack in service or leaves it out; it serves the waiting requests
of one row together, each slot counted once; a patrol's corrected word counts and moves its granule on; a repair holds the bank of a
marked row, and ends with a spare of that bank while there is one; otherwise the row's free frame leaves service (R278, R286, R289, R290,
R292, R294, R295, R296). What it says beyond those rules is the model's choice: log entries 25 and 33. -/
def Obligations.HbmServesAndAllocates : Prop :=
  (∀ (s : State) (o : Origin),
     (let q := s.block.rd .hbcMod Reg.HBC_ALLOC_REQ;
       let n := s.block.rdN .hbcMod Reg.HBC_ALLOC_SIZE;
       let stks := s.block.placeStacks (wfield q 3 2 == 1) (wfield q 20 16) (s.block.rdN .hbcMod Reg.HBC_ALLOC_MASK);
       let placed := fun (base s0 : Nat) => (List.range n).foldl (fun (y : Option Block) i => y.bind (fun y =>
         y.placePage (base + i) (stks.getD (i % stks.length) s0) (wbit q 21) (wbit q 22))) (some s.block);
       s.takes o .hbcMod Reg.HBC_ALLOC_CMD = true → s.block.hbmFieldBad = false → s.block.hbm.allocs.length < 65536 →
       (∀ base s0 rest y, s.block.pageRun n = some base → stks = s0 :: rest → placed base s0 = some y →
         Completes (.hbmAlloc o) s (fun b =>
           b.rd64 .hbcMod Reg.HBC_ALLOC_ADDR_LO = hbmBase + base * 2 ^ 21 ∧ b.rd .hbcMod Reg.HBC_ALLOC_STAT = 0 ∧
           (∃ a : HbmAlloc, b.hbm.allocs = s.block.hbm.allocs ++ [a] ∧ a.base = base ∧ a.pages = n ∧ a.freed = false ∧
             ∀ z ∈ s.block.hbm.allocs, base + n ≤ z.base ∨ z.base + z.pages ≤ base) ∧
           ∀ i < n, (b.pte (base + i)).valid = true ∧ (b.pte (base + i)).stack = stks.getD (i % stks.length) s0 ∧
             (b.pte (base + i)).resident = !wbit q 22 ∧ (b.pte (base + i)).evictable = (wbit q 21 || wbit q 22))) ∧
       (s.block.pageRun n = none → Completes (.hbmAlloc o) s (fun b => b.hbm.allocs = s.block.hbm.allocs ∧
         b.rd .hbcMod Reg.HBC_ALLOC_STAT = BitVec.ofNat 32 Ev.ALLOC_NO_SPACE))) ∧
     (∀ x, s.takes o .hbcMod Reg.HBC_ALLOC_CMD = true →
       s.block.hbm.allocs.find? (fun x => !x.freed && hbmBase + x.base * 2 ^ 21 == s.block.rd64 .hbcMod Reg.HBC_ALLOC_ADDR_LO) = some x →
       Completes (.hbmFree o) s (fun b => b.rd .hbcMod Reg.HBC_ALLOC_STAT = 0 ∧
         b.hbm.allocs = s.block.hbm.allocs.map (fun y => if y.base = x.base then { y with freed := true } else y) ∧
         b.hbm.ptes = s.block.hbm.ptes ∧ ∀ i < x.pages, Sparse.get (fun _ => 0) b.hbm.gens (x.base + i) =
           (Sparse.get (fun _ => 0) s.block.hbm.gens (x.base + i) + 1) % 2 ^ 16)) ∧
     (∀ (base : Nat) (a : HbmAlloc), s.block.running = true → s.block.hbm.leaving = [] →
       s.block.hbm.allocs.find? (fun a => a.freed && a.base == base) = some a →
       let used := s.block.stillUsed (hbmBase + base * 2 ^ 21) (a.pages * 2 ^ 21) = true ∨ ∃ i < a.pages, (s.block.pte (base + i)).moving = true
       (used → exec (.hbmPagesReturn base) s = .next s) ∧
       (¬ used → Completes (.hbmPagesReturn base) s (fun b => b.mem = s.block.mem ∧
         b.hbm.allocs = s.block.hbm.allocs.filter (fun x => x.base != base) ∧ (∀ i < a.pages, b.pte (base + i) = Pte.none) ∧
         ∀ v, v < base ∨ base + a.pages ≤ v → b.pte v = s.block.pte v))) ∧
     (∀ v : Word, s.takes o .hbcMod Reg.HBC_PTE_SEL = true →
       Completes (.hbcPteSelWrite o v) s (fun b => b.rd64 .hbcMod Reg.HBC_PTE_LO = (s.block.pte (b.rdN .hbcMod Reg.HBC_PTE_SEL)).word))) ∧
  (∀ (s : State) (st : Fin 20),
     let x := s.block.stk st.val
     (∀ trained failing, s.block.boot.run = .stages → s.block.boot.resetDue = none →
       let ok := trained && (failing.eraseDups.all (fun c => decide ((failing.filter (fun x => x == c)).length ≤ 2)))
       Completes (.stackTraining st trained failing) s (fun b => (b.stk st.val).inService = ok ∧ wbit (b.rd (.hbc st) Reg.STAT) 31 = ok ∧
         b.hbm.retire = s.block.nv.retire.map (fun e => if e.stack = st.val then { e with pendingOut := false } else e))) ∧
     (∀ (pc : Fin 64) (q : SlotReq),
       let room := s.block.aznRoom st
       let held := s.block.heldBank st
       let may := fun (r : SlotReq) => s.block.lock (18 + st.val) && r.pc == pc.val && !(s.block.aznBulk r && room == some 0) &&
         !(held == some (Config.bankOf r.frame r.row.2))
       let hit := fun (r : SlotReq) => r.pc == pc.val && r.row == q.row
       let parts := s.block.splitQueue hit room x.queue
       let reads := parts.1.filter (fun r => !r.write)
       let distinct := fun (l : List SlotReq) => ((l.map (fun r => r.slot)).eraseDups).length
       let slots := distinct reads + distinct (parts.1.filter (fun r => r.write))
       s.block.running = true → s.block.firstSlot x.turn (x.queue.filter may) = some q →
       Completes (.hbmSlotServe st pc .none) s (fun b => b.mem = s.block.mem ∧
         (x.beyond = [] → (b.stk st.val).queue = parts.2) ∧
         (x.beyond = [] → room = none → (b.stk st.val).queue = x.queue.filter (fun r => !hit r)) ∧
         b.rd64 (.hbc st) Reg.HBC_SLOTS = min (s.block.rd64 (.hbc st) Reg.HBC_SLOTS + slots) (2 ^ 64 - 1) ∧
         b.rd64 (.hbc st) Reg.HBC_MERGED =
           min (s.block.rd64 (.hbc st) Reg.HBC_MERGED + (reads.length - distinct reads)) (2 ^ 64 - 1))) ∧
     (∀ (a : DWord) (ends : Bool), s.block.running = true → x.inService = true → wbit (s.block.rd (.hbc st) Reg.HBC_CFG) 0 = true →
       s.block.frameServes st.val (a.toNat / 2 ^ 21) = true →
       let g := a.toNat / 2 ^ 21 * 32 + a.toNat % 2 ^ 21 / 65536
       Completes (.patrolScrub st { corrected := [a], uncorr := [] } ends) s (fun b => b.mem = s.block.mem ∧ b.poison = s.block.poison ∧
         wbit (b.rd (.hbc st) Reg.STAT) 30 = !ends ∧
         b.rd64 (.hbc st) Reg.HBC_CE = min (s.block.rd64 (.hbc st) Reg.HBC_CE + 1) (2 ^ 64 - 1) ∧
         Sparse.get (fun _ => 0) (b.stk st.val).gran g = (Sparse.get (fun _ => 0) x.gran g + 1) % 2 ^ 16)) ∧
     (∀ frame row rest, s.block.running = true → x.marked = (frame, row) :: rest →
       let bank := Config.bankOf frame row
       let used := Sparse.get (fun _ => 0) x.spares bank
       (used < 4 → Completes (.rowRepair st false) s (fun b => b.mem = s.block.mem ∧ b.stk st.val = x ∧
         wbit (b.rd (.hbc st) Reg.STAT) 29 = true)) ∧
       (used < 4 → Completes (.rowRepair st true) s (fun b => (b.stk st.val).marked = rest ∧
         wbit (b.rd (.hbc st) Reg.STAT) 29 = false ∧
         Sparse.get (fun _ => 0) (b.stk st.val).spares bank = used + 1 ∧ (b.stk st.val).outOfService = x.outOfService ∧
         b.nv.repairs = s.block.nv.repairs ++ [(st.val, frame, row)] ∧
         b.rd64 (.hbc st) Reg.HBC_ROW_REPAIRS = min (s.block.rd64 (.hbc st) Reg.HBC_ROW_REPAIRS + 1) (2 ^ 64 - 1) ∧
         b.evtCount Ev.HBM_ROW_REPAIRED = satAdd64 (s.block.evtCount Ev.HBM_ROW_REPAIRED) 1)) ∧
       (4 ≤ used → x.outOfService.contains frame = false → s.block.hbm.leaving.contains (st.val, frame) = false →
         s.block.frameAwaits st.val frame = false → s.block.pageIn? st.val frame = none →
         Completes (.rowRepair st true) s (fun b => (b.stk st.val).marked = rest ∧ (b.stk st.val).outOfService = x.outOfService ++ [frame] ∧
           b.nv.repairs = s.block.nv.repairs ∧ b.evtCount Ev.PAGE_RETIRED = satAdd64 (s.block.evtCount Ev.PAGE_RETIRED) 1))))

/-- The paging engine: a waiting page-in takes a free frame and its page moves; its end brings every byte of the page and makes it resident;
the end of a page-out brings a dirty page's bytes to its far frame; the end of a migration brings the bytes to the new frame, and the old
one leaves service; a drop of the CXL link that outlasts 1 ms brings the far tier down (R296, R300, R301, R302, R303). PAGE tasks, page by
page: PIN pins a resident page, UNPIN unpins one, PAGE_OUT starts an evictable page's move out, PAGE_IN asks for an absent page; each
counts a work item. The frames of the far tier are set only while no page holds one (R299, R305). What it says beyond those rules is the
model's choice: log entry 25. -/
def Obligations.PagesMoveWhole : Prop :=
  (∀ (s : State), s.block.running = true →
     let same := fun (b : Block) (dst src : Nat) => ∀ i < 2 ^ 21,
       Sparse.get s.block.memDef b.mem (dst + i) = Sparse.get s.block.memDef s.block.mem (src + i)
     let quiet := fun (b : Block) (dst : Nat) => ∀ k, k < dst ∨ dst + 2 ^ 21 ≤ k →
       Sparse.get s.block.memDef b.mem k = Sparse.get s.block.memDef s.block.mem k
     (∀ (m : Move) (f : Nat), nextMove s.block.hbm.moves = some m → s.block.movesRunning < 16 → s.block.hbm.farDown = false →
       (s.block.pte m.page).valid = true → (s.block.pte m.page).resident = false → (s.block.pte m.page).moving = false →
       (s.block.setPte m.page { s.block.pte m.page with moving := true }).freeFrame (s.block.pte m.page).stack = some f →
       Completes .pageInStart s (fun b => b.mem = s.block.mem ∧ b.pte m.page = { s.block.pte m.page with moving := true } ∧
         b.hbm.moves = s.block.hbm.moves.map (fun x => if x.page = m.page ∧ x.inward then { x with started := true, frame := f } else x))) ∧
     (∀ (page : Nat) (m : Move) (poisoned : List Nat),
       s.block.hbm.moves.find? (fun m => m.page == page && m.inward && m.started && m.frame != 0) = some m → s.block.hbm.leaving = [] →
       let e := s.block.pte page
       Completes (.pageInDone page poisoned) s (fun b => same b (hbmPhys e.stack m.frame) (farPhys e.farFrame) ∧ quiet b (hbmPhys e.stack m.frame) ∧
         b.pte page = { e with resident := true, frame := m.frame, farCurrent := true, accessed := true, dirty := false, moving := false } ∧
         b.hbm.moves = s.block.hbm.moves.filter (fun m => !(m.page == page && m.inward == true)))) ∧
     (∀ (page : Nat) (m : Move), s.block.hbm.moves.find? (fun m => m.page == page && !m.inward && m.started) = some m →
       let e := s.block.pte page
       s.block.hbm.leaving = [] →
       Completes (.pageOutDone page .none) s (fun b =>
         (e.dirty = true → same b (farPhys e.farFrame) (hbmPhys e.stack e.frame) ∧ quiet b (farPhys e.farFrame)) ∧
         (e.dirty = false → b.mem = s.block.mem) ∧
         b.pte page = { e with resident := false, dirty := false, farCurrent := true, moving := false } ∧
         ∀ x ∈ b.hbm.moves, ¬ (x.page = page ∧ x.inward = false))) ∧
     (∀ (page : Nat) (m : Migration), s.block.hbm.migrations.find? (fun m => m.page == page) = some m → m.stack < 20 →
       wbit (s.block.rd .mod Reg.MOD_EVT_CFG) 31 = false → s.block.hbm.leaving = [] →
       Completes (.migrationDone page .none) s (fun b => same b (hbmPhys m.stack m.toFrame) (hbmPhys m.stack m.fromFrame) ∧
         quiet b (hbmPhys m.stack m.toFrame) ∧ b.pte page = { s.block.pte page with frame := m.toFrame, moving := false } ∧
         (b.stk m.stack).outOfService = (s.block.stk m.stack).outOfService ++ [m.fromFrame])) ∧
     exec (.cxlLinkDrop true) s = .next s ∧
     (s.block.hbm.farDown = false → wbit (s.block.rd .cxl Reg.CXL_LINK) 31 = true →
       Completes (.cxlLinkDrop false) s (fun b => b.hbm.farDown = true ∧ wbit (b.rd .cxl Reg.CXL_LINK) 31 = false ∧
         b.evtCount Ev.CXL_LINK_DOWN = satAdd64 (s.block.evtCount Ev.CXL_LINK_DOWN) 1))) ∧
  (∀ (s : State) (i : Nat) (t : TaskSt) (v : Nat),
     let r := t.task
     let own := s.block.seenBy t
     let e := own.entry r.list.toNat t.cursor
     let p := s.block.pte v
     let passed := fun (b : Block) => b.mem = s.block.mem ∧ ∃ t' : TaskSt, b.bySerial .wholeModule t.serial = some t' ∧
       t'.items = t.items + 1 ∧ t'.cursor = t.cursor ∧ t'.dispCnt = [t.dispCnt.headD 0 + 1]
     (∀ (o : Origin) (w : Word), s.takes o .cxl Reg.CXL_PAGING_FRAMES = true →
       Completes (.cxlPagingFramesWrite o w) s (fun b =>
         wfield (b.rd .cxl Reg.CXL_PAGING_FRAMES) 21 0 =
           if s.block.farTaken = [] then wfield w 21 0 else wfield (s.block.rd .cxl Reg.CXL_PAGING_FRAMES) 21 0)) ∧
     (s.block.running = true → s.block.task? .wholeModule i = some t → s.block.bySerial .wholeModule t.serial = some t → r.kind = 11 →
       t.phase = .running → t.cursor < r.listCount.toNat →
       (own.entryPages r e)[t.dispCnt.headD 0]? = some v → t.items < r.capacity.toNat → p.valid = true → p.moving = false →
       (r.par 0 1 = 3 → p.resident = true → Completes (.pin i) s (fun b => passed b ∧ b.pte v = { p with pinned := true } ∧
         b.hbm.moves = s.block.hbm.moves)) ∧
       (r.par 0 1 = 4 → Completes (.unpin i) s (fun b => passed b ∧ b.pte v = { p with pinned := false } ∧
         b.hbm.moves = s.block.hbm.moves)) ∧
       (r.par 0 1 = 2 → p.resident = true → p.evictable = true → s.block.hbm.farDown = false → s.block.movesRunning < 16 →
         Completes (.pageOut i) s (fun b => passed b ∧ b.pte v = { p with pinned := false, moving := true } ∧
           ∃ m : Move, b.hbm.moves = s.block.hbm.moves ++ [m] ∧ m.page = v ∧ m.inward = false ∧ m.started = true)) ∧
       (r.par 0 1 = 1 → p.resident = false → s.block.hbm.farDown = false → s.block.hbm.moves = [] →
         Completes (.pageIn i) s (fun b => passed b ∧ b.pte v = p ∧
           ∃ m : Move, b.hbm.moves = [m] ∧ m.page = v ∧ m.inward = true ∧ m.started = false ∧ m.owners = [t.serial]))))

/-! ## Links and the fabric -/

/-- A transfer of the package network takes its one fixed path: it ends at its destination, meets no die twice, and between two tiles it is as
long as their distance. Alone on the network it is delivered; a flit of it whose CRC fails on a link is replayed there and counted; at a
link that is down it waits, and goes no other way; behind a CTL flit another class waits. A link at which one flit has failed sixteen
replays in a row goes down, both ways (R29, R32, R33, R34). What it says beyond those rules is the model's choice: log entry 44. -/
def Obligations.NetworkPathsAreFixed : Prop :=
  (∀ a z : Fin 38, a ≠ z → ((path a.val z.val).getLast?.map (fun h => h.die)) = some z.val ∧
    ((path a.val z.val).map (fun h => h.die)).Nodup ∧
    (a.val < 16 → z.val < 16 → (path a.val z.val).length =
      (max (a.val % 4) (z.val % 4) - min (a.val % 4) (z.val % 4)) + (max (a.val / 4) (z.val / 4) - min (a.val / 4) (z.val / 4)))) ∧
  (∀ (s : State) (src dst : Fin 38) (what : Traffic) (fail : Option (Page × Fin 4)), s.block.running = true →
    let l := path src.val dst.val
    let clear := ∀ h ∈ l, s.block.linkDown h.page h.link = false
    let waits := fun (t : Transfer) (key fails : Nat) => t.src = src.val ∧ t.dst = dst.val ∧ t.cls = what.cls ∧ t.at_ = key ∧ t.fails = fails
    (clear → s.block.net.waiting = [] → fail = none → Completes (.pkgnetTransfer src dst what fail) s (fun b =>
      b = { s.block with net := b.net } ∧ b.net.last = [src.val, dst.val, what.cls, l.length] ∧ b.net.down = s.block.net.down ∧
      b.net.waiting = [])) ∧
    (∀ p k, clear → s.block.net.waiting = [] → fail = some (p, k) → (∃ h ∈ l, h.page = p ∧ h.link = k.val) →
      Completes (.pkgnetTransfer src dst what fail) s (fun b => b.mem = s.block.mem ∧ b.net.last = s.block.net.last ∧
        (∃ t, b.net.waiting = [t] ∧ waits t (linkKey p k.val) 1) ∧
        b.rd64 p (replayOff p k.val) = min (s.block.rd64 p (replayOff p k.val) + 1) (2 ^ 64 - 1))) ∧
    (¬ clear → s.block.net.waiting = [] → fail = none → Completes (.pkgnetTransfer src dst what fail) s (fun b =>
      b = { s.block with net := b.net } ∧ b.net.last = s.block.net.last ∧
      ∃ t, b.net.waiting = [t] ∧ ∃ h ∈ l, s.block.linkDown h.page h.link = true ∧ waits t (linkKey h.page h.link) 0)) ∧
    (∀ (w : Transfer) (h : Hop), l.head? = some h → s.block.net.waiting = [w] → w.cls = 2 → what.cls ≠ 2 → w.at_ = linkKey h.page h.link →
      Completes (.pkgnetTransfer src dst what fail) s (fun b => b = { s.block with net := b.net } ∧ b.net.last = s.block.net.last ∧
        ∃ t, b.net.waiting = [w, t] ∧ waits t (linkKey h.page h.link) 0))) ∧
  (∀ (s : State) (p : Page) (k : Fin 4), s.block.running = true → s.block.linkDown p k.val = false →
    (∃ t ∈ s.block.net.waiting, t.at_ = linkKey p k.val ∧ 16 ≤ t.fails) →
    Completes (.pkgnetLinkDown p k) s (fun b => b.linkDown p k.val = true ∧
      (∀ q j, farEnd p k.val = some (q, j) → b.linkDown q j = true) ∧
      b.evtCount Ev.PKGNET_LINK_DOWN = satAdd64 (s.block.evtCount Ev.PKGNET_LINK_DOWN) 1))

/-- A spoke trains step by step from DOWN: DETECT, EQUALISE, ALIGN, PARAM, where a PARAM flit goes out, and then ACTIVE, or HELD where its
partner bears this module's own identifier or another version; a training that outlasts 100 ms ends in DOWN for a second; a HELD spoke
trains again when an identity has changed; clearing ENABLE takes a spoke to DOWN (R309, R310, R311). Entry to ACTIVE starts the sequence
numbers from 0 and raises SEQ; an ACTIVE spoke that has a reason to goes down, loses its replay buffer, and trains again while it is
enabled (R316, R320, R335). What it says beyond those rules is the model's choice: log entry 32. -/
def Obligations.SpokesTrainStepByStep : Prop :=
  (∀ (s : State) (k : Fin 8),
     let x := s.block.spoke k.val
     let moved := fun (n : Nat) (b : Block) => (b.spoke k.val).state = n ∧ wfield (b.rd (.spoke k) Reg.STAT) 31 29 = n ∧
       ∀ j, j ≠ k.val → b.spoke j = s.block.spoke j
     (s.block.running = true →
       (x.state = 0 → s.block.spokeOn k = true → wbit (s.block.rd .llyMod Reg.LLY_MODULE_ID) 31 = true → x.retryAt ≤ s.block.now →
         Completes (.spokeDetect k) s (fun b => moved 1 b ∧ (b.spoke k.val).detectAt = s.block.now ∧ b.mem = s.block.mem)) ∧
       (x.state = 1 → Completes (.spokeEqualise k) s (fun b => moved 2 b ∧ b.mem = s.block.mem)) ∧
       (∀ pol rev, x.state = 2 → Completes (.spokeAlign k pol rev) s (fun b => moved 3 b ∧ b.mem = s.block.mem)) ∧
       (∀ pol rev, x.state = 3 → Completes (.spokeAlign k pol rev) s (fun b => moved 4 b ∧ (b.spoke k.val).polarity = pol.toNat ∧
         (b.spoke k.val).reversed = rev ∧ (b.spoke k.val).wire.length = 1)) ∧
       (∀ partner ps version rtt, x.state = 4 → Completes (.spokeParam k partner ps version rtt) s (fun b =>
         (b.spoke k.val).partner = partner.val ∧ (b.spoke k.val).partnerSpoke = ps.val ∧ (b.spoke k.val).started = false ∧
         b.rdN (.spoke k) Reg.LLY_RTT = rtt % 65536 ∧
         (partner.val ≠ s.block.moduleId → version = 1 → moved 5 b ∧ b.evt = s.block.evt) ∧
         (partner.val = s.block.moduleId ∨ version ≠ 1 → moved 6 b ∧
           b.evtCount Ev.LLY_ID_CONFLICT = satAdd64 (s.block.evtCount Ev.LLY_ID_CONFLICT) 1))) ∧
       (∀ partner : Fin 4096, x.state = 6 → (partner.val ≠ x.partner ∨ s.block.moduleId ≠ x.ownId) →
         Completes (.heldRetry k partner) s (fun b => moved 1 b ∧ b.mem = s.block.mem)) ∧
       (1 ≤ x.state → x.state ≤ 4 → x.detectAt + 50000000 ≤ s.block.now → Completes (.llyTrainFail k) s (fun b => moved 0 b ∧
         (b.spoke k.val).retryAt = s.block.now + 500000000 ∧
         b.evtCount Ev.LLY_TRAIN_FAIL = satAdd64 (s.block.evtCount Ev.LLY_TRAIN_FAIL) 1))) ∧
     (∀ (o : Origin) (v : Word), s.takes o (.spoke k) Reg.LLY_SPOKE_CFG = true → Completes (.llySpokeCfgWrite o k v) s (fun b =>
       (wbit v 31 = false → (b.spoke k.val).state = 0) ∧ (wbit v 31 = true → b.spoke k.val = x) ∧
       wbit (b.rd (.spoke k) Reg.LLY_SPOKE_CFG) 31 = wbit v 31)) ∧
     (∀ (o : Origin) (v : Word), s.takes o .llyMod Reg.LLY_MODULE_ID = true → Completes (.llyModuleIdWrite o v) s (fun b =>
       b.rd .llyMod Reg.LLY_MODULE_ID = (if (List.range 8).all (fun j => (s.block.spoke j).state == 0) then
         (s.block.writeFields .llyMod Reg.LLY_MODULE_ID v).rd .llyMod Reg.LLY_MODULE_ID else s.block.rd .llyMod Reg.LLY_MODULE_ID)))) ∧
  (∀ (s : State) (k : Fin 8), s.block.running = true → (s.block.spoke k.val).state = 5 → s.block.rd64 .llyMod Reg.LLY_LS_SEQ < 2 ^ 64 - 1 →
     ((s.block.spoke k.val).started = false → Completes (.llyLinkUp k) s (fun b =>
       (b.spoke k.val).state = 5 ∧ (b.spoke k.val).started = true ∧ (b.spoke k.val).txSeq = 0 ∧ (b.spoke k.val).expect = 0 ∧
       (b.spoke k.val).held = [] ∧ b.rd64 .llyMod Reg.LLY_LS_SEQ = s.block.rd64 .llyMod Reg.LLY_LS_SEQ + 1 ∧
       b.evtCount Ev.LLY_LINK_UP = satAdd64 (s.block.evtCount Ev.LLY_LINK_UP) 1)) ∧
     (s.block.linkLost k = true → Completes (.llyLinkDown k) s (fun b =>
       (b.spoke k.val).state = (if s.block.spokeOn k then 1 else 0) ∧ (b.spoke k.val).started = false ∧ (b.spoke k.val).held = [] ∧
       (b.spoke k.val).outq = [] ∧ b.rd64 .llyMod Reg.LLY_LS_SEQ = s.block.rd64 .llyMod Reg.LLY_LS_SEQ + 1 ∧
       b.rd64 (.spoke k) Reg.LLY_DOWNS = min (s.block.rd64 (.spoke k) Reg.LLY_DOWNS + 1) (2 ^ 64 - 1) ∧
       b.evtCount Ev.LLY_LINK_DOWN = satAdd64 (s.block.evtCount Ev.LLY_LINK_DOWN) 1)) ∧
     (s.block.linkLost k = false → exec (.llyLinkDown k) s = .next s))

/-- A spoke accepts DATA flits in order alone: the flit with the expected number is accepted and its packets arrive; a later one is answered
with a replay request; an earlier one is a duplicate; a flit whose CRC fails is dropped and counted. A replay request sends every held
flit from the one named again, in order; a spoke whose port die's clocks stand takes none (R314, R317, R318, R319, R403). -/
def Obligations.FlitsAreAcceptedInOrder : Prop :=
  ∀ (s : State) (k : Fin 8),
    let x := s.block.spoke k.val
    s.block.running = true → x.state = 5 →
    (∀ flit : List Byte, s.block.lock (16 + k.val / 4) = false → exec (.flitReceive k flit) s = .next s) ∧
    (∀ flit : List Byte, s.block.lock (16 + k.val / 4) = true → x.started = true → flit.length = 272 →
      let f := (fecDecode flit).1
      let h := rdLE f 0 8
      let d := (field h 59 44 + 65536 - x.expect) % 65536
      let more := fun (b : Block) (off : Nat) => b.rd64 (.spoke k) off = min (s.block.rd64 (.spoke k) off + 1) (2 ^ 64 - 1)
      (flitGood f = false → Completes (.flitReceive k flit) s (fun b => b.lly = s.block.lly ∧ b.mem = s.block.mem ∧
        more b Reg.LLY_CRC_ERR)) ∧
      (flitGood f = true → field h 63 60 = 1 → d = 0 → Completes (.flitReceive k flit) s (fun b => b.mem = s.block.mem ∧
        (b.spoke k.val).expect = (x.expect + 1) % 65536 ∧ more b Reg.LLY_FLITS_RX ∧
        ∃ l, b.lly.arrivals = s.block.lly.arrivals ++ l)) ∧
      (flitGood f = true → field h 63 60 = 1 → 0 < d → d < 2 ^ 15 → Completes (.flitReceive k flit) s (fun b =>
        b.mem = s.block.mem ∧ (b.spoke k.val).expect = x.expect ∧ b.lly.arrivals = s.block.lly.arrivals ∧
        ((∀ t, x.lastReq = some t → t + 1000 ≤ s.block.now) → (b.spoke k.val).owesReplay = true) ∧
        (∀ t, x.lastReq = some t → s.block.now < t + 1000 → (b.spoke k.val).owesReplay = x.owesReplay))) ∧
      (flitGood f = true → field h 63 60 = 1 → 2 ^ 15 ≤ d → Completes (.flitReceive k flit) s (fun b =>
        b.mem = s.block.mem ∧ (b.spoke k.val).expect = x.expect ∧ b.lly.arrivals = s.block.lly.arrivals ∧ more b Reg.LLY_DUP)) ∧
      (flitGood f = true → field h 63 60 = 2 → Completes (.flitReceive k flit) s (fun b =>
        b.mem = s.block.mem ∧ (b.spoke k.val).wanted = some (field h 59 44) ∧ b.lly.arrivals = s.block.lly.arrivals))) ∧
    (∀ n, x.wanted = some n → x.holds n = true →
      let again := fun (f : HeldFlit) => decide ((f.seq + 65536 - n) % 65536 < 2 ^ 15)
      Completes (.replayReq k) s (fun b => b.mem = s.block.mem ∧ (b.spoke k.val).wanted = none ∧ (b.spoke k.val).txSeq = x.txSeq ∧
        (b.spoke k.val).held = x.held.map (fun f => if again f then { f with resends := f.resends + 1 } else f) ∧
        (x.sinceIdle + (x.held.filter again).length ≤ 4095 →
          (b.spoke k.val).wire.map (fun l => (field (rdLE l 0 8) 63 60, field (rdLE l 0 8) 59 44)) =
            (x.held.filter again).map (fun f => (1, f.seq % 65536))) ∧
        b.rd64 (.spoke k) Reg.LLY_REPLAYS = min (s.block.rd64 (.spoke k) Reg.LLY_REPLAYS + 1) (2 ^ 64 - 1) ∧
        b.rd64 (.spoke k) Reg.LLY_FLITS_TX =
          min (s.block.rd64 (.spoke k) Reg.LLY_FLITS_TX + (x.held.filter again).length) (2 ^ 64 - 1)))

/-- What goes into a flit comes out of it: the receiver finds nothing to correct, the CRC good, and every field and the payload as they were
sent; with any one byte of its 272 damaged on the way it is restored (R313, R314). What it says beyond those rules is the model's choice:
log entry 32. -/
def Obligations.FlitRoundTrip : Prop :=
  ∀ (type seq ack vc count sop : Nat) (payload : List Byte), type ≤ 3 → seq < 65536 → ack < 65536 → vc < 8 → count < 256 → sop < 256 →
    payload.length = 256 →
    let l := flitBytes type seq ack vc count sop payload
    l.length = 272 ∧ flitGood l = true ∧ fecDecode l = (l, 0) ∧
    (field (rdLE l 0 8) 63 60 = type ∧ field (rdLE l 0 8) 59 44 = seq ∧ field (rdLE l 0 8) 43 28 = ack ∧ field (rdLE l 0 8) 27 25 = vc ∧
      field (rdLE l 0 8) 24 17 = count ∧ field (rdLE l 0 8) 16 9 = sop) ∧
    (l.drop 8).take 256 = payload ∧
    ∀ i < 272, ∀ v : Byte, (fecDecode (l.set i v)).1 = l

/-- The packet that arrived first is discarded and counted where it is malformed or out of hops, kept where it is for this module, and
otherwise goes on, with one hop fewer, by the spoke that the route table names (R323, R331). Requests of other modules are served: a
READ_REQ inside the allocation that holds the shard is answered with its bytes, after the poison that travels with them, a WRITE inside a
DATA allocation stores its bytes and is acknowledged, one outside is refused with DESC_RANGE and stores nothing; the answer goes out with
the request's tag (R103, R226, R326, R372). A response ends the request that it answers: READ_RSP brings its bytes, but for one that only
bears poison, WRITE_ACK and SEM_ACK end theirs; a SEM_SIGNAL adds to its semaphore and is acknowledged; a request without a response after
LLY_RSP_TIMEOUT faults its task with FABRIC_TIMEOUT (R326). What it says beyond those rules is the model's choice: log entries 14 and 28. -/
def Obligations.PacketsAreRoutedAndServed : Prop :=
  (∀ (s : State) (p : Packet) (rest : List Packet), s.block.running = true → s.block.lly.arrivals = p :: rest →
     let bad := opKnown p.opcode = false ∨ p.cls = 3 ∨ 512 < p.length
     let more := fun (b : Block) (off : Nat) => b.rd64 .llyMod off = min (s.block.rd64 .llyMod off + 1) (2 ^ 64 - 1)
     (bad → Completes .packetRoute s (fun b => b.lly.arrivals = rest ∧ b.lly.inbox = s.block.lly.inbox ∧ more b Reg.LLY_BAD_PKT)) ∧
     (¬ bad → p.dst = s.block.moduleId → (s.block.fenced = false ∨ p.opcode = Op.linkState) →
       Completes .packetRoute s (fun b => b.lly.arrivals = rest ∧ b.lly.inbox = s.block.lly.inbox ++ [p] ∧ b.regs = s.block.regs)) ∧
     (¬ bad → p.dst = s.block.moduleId → s.block.fenced = true → p.opcode ≠ Op.linkState →
       Completes .packetRoute s (fun b => b.lly.arrivals = rest ∧ b.lly.inbox = s.block.lly.inbox ∧ more b Reg.LLY_FENCED_DROPS)) ∧
     (¬ bad → p.dst ≠ s.block.moduleId → p.ttl = 0 →
       Completes .packetRoute s (fun b => b.lly.arrivals = rest ∧ b.lly.inbox = s.block.lly.inbox ∧ more b Reg.LLY_TTL_DROP)) ∧
     (∀ k : Fin 8, ¬ bad → p.dst ≠ s.block.moduleId → p.ttl ≠ 0 → s.block.outSpoke p.dst = some k →
       Completes .packetRoute s (fun b => b.lly.arrivals = rest ∧ b.lly.inbox = s.block.lly.inbox ∧
         ∃ q : Packet, (b.spoke k.val).outq = (s.block.spoke k.val).outq ++ [q] ∧ q.ttl = p.ttl - 1 ∧ q.dst = p.dst ∧ q.src = p.src ∧
           q.opcode = p.opcode ∧ q.tag = p.tag ∧ q.data = p.data))) ∧
  (∀ (s : State) (p : Packet) (x : Block) (k : Fin 8), s.block.running = true → s.block.fenced = false → p.src ≠ s.block.moduleId →
     p.src < 4096 → s.block.outSpoke p.src = some k →
     let answered := fun (op : Nat) (code : Nat) (data : List Byte) (b : Block) =>
       ∃ q : Packet, (b.spoke k.val).outq = (s.block.spoke k.val).outq ++ [q] ∧ q.opcode = op ∧ q.tag = p.tag % 65536 ∧ q.dst = p.src ∧
         q.addr = code ∧ q.data = data
     (s.block.takePacket (fun p => p.opcode == Op.readReq) = some (p, x) → s.block.probe p.addr p.length = .ok →
       (∀ v, s.block.within p.addr p.length = some v → s.block.shardFits p.addr p.length = true →
         (s.block.poisoned p.addr p.length = [] →
           Completes (.readReq .none) s (fun b => b.mem = s.block.mem ∧ b.lly.inbox = x.lly.inbox ∧
             answered Op.readRsp 0 (s.block.bytes p.addr p.length) b)) ∧
         (∀ a l, s.block.poisoned p.addr p.length = a :: l →
           Completes (.readReq .none) s (fun b => b.mem = s.block.mem ∧ b.lly.inbox = x.lly.inbox ∧
             ∃ q q' : Packet, (b.spoke k.val).outq = (s.block.spoke k.val).outq ++ [q, q'] ∧ q.addr = poisonCode a ∧
               q'.opcode = Op.readRsp ∧ q'.addr = 0 ∧ q'.tag = p.tag % 65536 ∧ q'.data = s.block.bytes p.addr p.length))) ∧
       ((s.block.within p.addr p.length = none ∨ s.block.shardFits p.addr p.length = false) →
         Completes (.readReq .none) s (fun b => b.mem = s.block.mem ∧ answered Op.readRsp Ev.DESC_RANGE [] b))) ∧
     (∀ a : Nat, s.block.takePacket (fun p => p.opcode == Op.write) = some (p, x) →
       let l := p.data.take p.length
       (∀ v, s.block.within p.addr p.length = some v → v.kind = .data → s.block.probe p.addr p.length = .ok → 0 < l.length →
         s.block.resolveOwn p.addr = .phys a → p.addr / 65536 = (p.addr + l.length - 1) / 65536 →
         Completes .write s (fun b => answered Op.writeAck 0 [] b ∧
           (∀ i < l.length, Sparse.get s.block.memDef b.mem (a + i) = l.getD i 0) ∧
           ∀ j, j < a ∨ a + l.length ≤ j → Sparse.get s.block.memDef b.mem j = Sparse.get s.block.memDef s.block.mem j)) ∧
       ((∀ v, s.block.within p.addr p.length = some v → v.kind ≠ .data) →
         Completes .write s (fun b => b.mem = s.block.mem ∧ answered Op.writeAck Ev.DESC_RANGE [] b)))) ∧
  (∀ (s : State), s.block.running = true →
     (∀ (p : Packet) (x : Block) (q : RemoteReq),
       let ended := fun (b : Block) => b.lly.requests = s.block.lly.requests.filter (fun r => r.tag != q.tag) ∧
         b.lly.inbox = x.lly.inbox ∧ b.mem = s.block.mem
       (s.block.takePacket (fun p => p.opcode == Op.readRsp) = some (p, x) →
         s.block.request? p.tag p.src (fun o => o == Op.readReq) = some q → p.addr = 0 →
         Completes .readRsp s (fun b => ended b ∧ ∀ i < (p.data.take q.length).length,
           Sparse.get (fun _ => 0) b.lly.remote (remoteKey q.dst q.addr + i) = (p.data.take q.length).getD i 0)) ∧
       (s.block.takePacket (fun p => p.opcode == Op.readRsp) = some (p, x) →
         s.block.request? p.tag p.src (fun o => o == Op.readReq) = some q → (p.addr = Ev.SRAM_UNCORR ∨ p.addr = Ev.HBM_UNCORR) →
         Completes .readRsp s (fun b => b.lly.requests = s.block.lly.requests ∧ b.lly.inbox = x.lly.inbox ∧ b.mem = s.block.mem)) ∧
       (s.block.takePacket (fun p => p.opcode == Op.writeAck) = some (p, x) →
         s.block.request? p.tag p.src (fun o => o == Op.write) = some q → p.addr = 0 → Completes .writeAck s ended) ∧
       (s.block.takePacket (fun p => p.opcode == Op.semAck) = some (p, x) →
         s.block.request? p.tag p.src (fun o => o == Op.semSignal) = some q → Completes .semAck s ended)) ∧
     (∀ (p : Packet) (x : Block) (k : Fin 8) (c : Fin 128), s.block.takePacket (fun p => p.opcode == Op.semSignal) = some (p, x) →
       let w := BitVec.ofNat 32 (rdLE p.data 0 4)
       wfield w 12 6 = c.val → wbit w 31 = true → s.block.coreOn c = true → s.block.fenced = false → p.src ≠ s.block.moduleId →
       p.src < 4096 → s.block.outSpoke p.src = some k →
       Completes .semSignal s (fun b => b.mem = s.block.mem ∧
         b.semVal c.val (wfield w 5 0) = (s.block.semVal c.val (wfield w 5 0) + rdLE p.data 4 4) % 2 ^ 32 ∧
         ∃ q : Packet, (b.spoke k.val).outq = (s.block.spoke k.val).outq ++ [q] ∧ q.opcode = Op.semAck ∧ q.tag = p.tag % 65536)) ∧
     (∀ (i : Nat) (q : RemoteReq), s.block.lly.requests[i]? = some q →
       let due := q.sentAt + usToMclk (s.block.rdN .llyMod Reg.LLY_RSP_TIMEOUT) ≤ s.block.now
       (¬ due → exec (.fabricTimeout i) s = .next s) ∧
       (∀ u n t, due → q.owner = .task u n → s.block.bySerial u n = some t → t.phase = .running →
         Completes (.fabricTimeout i) s (fun b => b.mem = s.block.mem ∧
           b.lly.requests = s.block.lly.requests.filter (fun r => r.tag != q.tag) ∧
           ∃ t' : TaskSt, b.bySerial u n = some t' ∧ t'.phase = .finished ∧ t'.faultCode = some Ev.FABRIC_TIMEOUT))))

/-- Membership: a newer link-state record is stored and the reachable set is due; the reachable set holds this module and every member with a
record that a link reported up at both ends joins to it; a module that would fence does, and stops every ring; it leaves the fenced state
only at the end of a settle period (R335, R336, R338, R339, R340). The route table: a write of LLY_RT_DATA sets the entry at LLY_RT_SEL
and no other; a bulk load begins unless its range passes the table, and fills entries in order (R331, R341). What it says beyond those
rules is the model's choice: log entries 32 and 42. -/
def Obligations.MembershipAndRoutes : Prop :=
  ((∀ b : Block,
     b.moduleId ∈ b.reachable ∧ (∀ m ∈ b.reachable, m = b.moduleId ∨ m ∈ b.members) ∧
     ∀ n ∈ b.reachable, ∀ m ∈ b.members, recordUp (b.linkRecord n) m = true → recordUp (b.linkRecord m) n = true → m ∈ b.reachable) ∧
   (∀ (s : State), s.block.running = true →
     (∀ (p : Packet) (x : Block), s.block.takePacket (fun p => p.opcode == Op.linkState) = some (p, x) →
       let newer := (s.block.linkRecord p.src).isEmpty = true ∨ rdLE (s.block.linkRecord p.src) 0 8 < rdLE p.data 0 8
       (newer → Completes .linkState s (fun b => b.linkRecord p.src = p.data.take 32 ∧ b.lly.reachDue = true ∧
         ∀ m, m ≠ p.src → b.linkRecord m = s.block.linkRecord m)) ∧
       (¬ newer → Completes .linkState s (fun b => b.lly.records = s.block.lly.records ∧ b.lly.reachDue = s.block.lly.reachDue))) ∧
     (s.block.lly.reachDue = true → Completes .reachRecompute s (fun b => b.lly.reachDue = false ∧
       (s.block.wouldFence s.block.reachable = true → s.block.lly.fenced = false → s.block.lly.settleEnd = none →
         b.lly.fenced = true ∧ wbit (b.rd .llyMod Reg.LLY_MEMBER_STAT) 31 = true ∧
         (∀ u ∈ allUnits, wbit (b.rd (.sch u) Reg.SCH_RING_CFG) 24 = false) ∧
         ((∀ k < 8, (s.block.spoke k).outq = []) → b.evtCount Ev.FENCED = satAdd64 (s.block.evtCount Ev.FENCED) 1)) ∧
       (s.block.wouldFence s.block.reachable = false → b.lly.fenced = s.block.lly.fenced ∧
         ∀ m < 4096, wbit (b.rd .llyMod (Reg.LLY_REACH (m / 32))) (m % 32) = decide (m ∈ s.block.reachable)))) ∧
     (∀ t, s.block.lly.settleEnd = some t → t ≤ s.block.now → Completes .settleEnd s (fun b => b.lly.settleEnd = none ∧
       b.lly.fenced = s.block.wouldFence s.block.reachable ∧
       (s.block.lly.fenced = true → s.block.wouldFence s.block.reachable = false →
         b.evtCount Ev.FENCE_CLEARED = satAdd64 (s.block.evtCount Ev.FENCE_CLEARED) 1))) ∧
     (∀ t, s.block.lly.settleEnd = some t → s.block.now < t → exec .settleEnd s = .next s)) ∧
   (∀ (s : State) (o : Origin) (v : Word), s.takes o .llyMod Reg.LLY_EPOCH = true →
     Completes (.llyEpochWrite o v) s (fun b => b.rd .llyMod Reg.LLY_EPOCH = v ∧ b.lly.fenced = s.block.lly.fenced ∧
       (s.block.lly.fenced = true → s.block.lly.settleEnd = none → v = s.block.lly.fenceEpoch → b.lly.settleEnd = none) ∧
       ((s.block.lly.fenced = false ∨ v ≠ s.block.lly.fenceEpoch) →
         b.lly.settleEnd = some (s.block.now + 500000 * wfield (s.block.rd .llyMod Reg.LLY_CFG) 23 16))))) ∧
  ((∀ (s : State) (o : Origin) (v : Word), s.block.rtBusy = false →
     let i := s.block.rdN .llyMod Reg.LLY_RT_SEL % 4096
     let kept := fun (e : Nat) => field e 15 15 * 2 ^ 15 + field e 7 4 * 2 ^ 4 + field e 2 0
     (s.takes o .llyMod Reg.LLY_RT_DATA = true → Completes (.llyRtDataWrite o v) s (fun b =>
       b.route i = kept v.toNat ∧ (∀ j < 4096, j ≠ i → b.route j = s.block.route j) ∧
       b.rd .llyMod Reg.LLY_RT_DATA = BitVec.ofNat 32 (kept v.toNat))) ∧
     (s.takes o .llyMod Reg.LLY_RT_LOAD_CTL = true → wbit v 31 = true → Completes (.llyRtLoadStart o v) s (fun b =>
       b.lly.routes = s.block.lly.routes ∧
       (s.block.rdN .llyMod Reg.LLY_RT_SEL + wfield v 12 0 ≤ 4096 → wbit (b.rd .llyMod Reg.LLY_RT_STAT) 31 = true ∧
         b.lly.bulk = some { first := s.block.rdN .llyMod Reg.LLY_RT_SEL, count := wfield v 12 0,
                             addr := s.block.rd64 .llyMod Reg.LLY_RT_LOAD_SRC_LO, clear := false, origin := o, done := 0, code := 0 }) ∧
       (4096 < s.block.rdN .llyMod Reg.LLY_RT_SEL + wfield v 12 0 → b.lly = s.block.lly ∧
         wfield (b.rd .llyMod Reg.LLY_RT_STAT) 15 0 = Ev.DESC_RANGE)))) ∧
   (∀ (s : State) (r : BulkRun), s.block.running = true → s.block.lly.bulk = some r → r.first + r.count ≤ 4096 →
     r.done ≤ r.count → r.code = 0 →
     Completes .llyRtLoadDone s (fun b => b.lly.bulk = none ∧ ∃ k, r.done ≤ k ∧ k ≤ r.count ∧
       (b.rd .llyMod Reg.LLY_RT_STAT = 0 ↔ k = r.count) ∧
       (∀ i, r.done ≤ i → i < k → let e := s.block.num (r.addr + 2 * i) 2
         b.route (r.first + i) = field e 15 15 * 2 ^ 15 + field e 7 4 * 2 ^ 4 + field e 2 0) ∧
       ∀ j < 4096, j < r.first + r.done ∨ r.first + k ≤ j → b.route j = s.block.route j)))

/-! ## The peloton and collectives -/

/-- A started BARRIER task gives its node the module's own arrival, at once or, where the digest is out of date, once it no longer is; an
arrival from a child that fits the sequence joins the node's inputs, one that does not is counted and reported; with its last input a root
releases the barrier if the count is what it expects, and otherwise aborts it (R347, R348, R349, R350, R355, R357). A release of the
current sequence empties its node, advances the sequence and counts; an abort does the same and counts as an abort; one that does not fit
is reported. A root whose timer passes PEL_TIMEOUT aborts (R351, R354, R355). A domain is set while its node is empty: enabling it starts
its sequence at 0; a busy one keeps its configuration and posts PEL_DOM_BUSY. A group is enabled where its domain allows it, and otherwise
posts PEL_CFG_FIELD; disabling it leaves its unit empty. The CMB recomputes the digest while that is due; a draft ends when its timer
does, when drafting is off, or in a fenced module (R344, R345, R356, R384). What it says beyond those rules is the model's choice: log
entries 37 and 45. -/
def Obligations.BarriersGatherAndRelease : Prop :=
  (∀ (s : State), s.block.running = true →
     (∀ (i : Nat) (t : TaskSt),
       let d := t.task.par 0 1 % 8
       let x := s.block.dom d
       let stale := wbit (s.block.rd .pel Reg.PEL_DIGEST_STAT) 31
       let started := fun (b : Block) => b.mem = s.block.mem ∧ (b.dom d).task = some t.serial ∧
         ∃ t' : TaskSt, b.bySerial .wholeModule t.serial = some t' ∧ t'.phase = .running
       let arrives := fun (b : Block) => ∃ j : PelInput, (b.dom d).inputs = x.inputs ++ [j] ∧ j.spoke = none ∧ j.ident = s.block.moduleId ∧
         j.count = 1 ∧ j.at_ = s.block.now
       s.block.task? .wholeModule i = some t → s.block.bySerial .wholeModule t.serial = some t → s.block.fenced = false →
       (∀ j ∈ x.inputs, j.spoke ≠ none) →
       (t.task.kind = 7 → t.isEmpty = false → s.block.startable .wholeModule t = true → x.task = none → x.abortCode = 0 →
         (s.block.unit .wholeModule).board.find? (fun y => decide (y.task.kind = 7) && decide (y.phase = .admitted) && !y.isEmpty &&
           y.task.par 0 1 % 8 == d) = some t → s.block.net.down = [] → s.block.domOn d = true → s.block.domLocal d = true →
         (stale = true → Completes (.barrier i) s (fun b => started b ∧ (b.dom d).inputs = x.inputs)) ∧
         (∀ k ∈ s.block.domChildren d, stale = false → (∀ j ∈ x.inputs, j.spoke ≠ some k.val) →
           Completes (.barrier i) s (fun b => started b ∧ arrives b))) ∧
       (x.task = some t.serial → t.phase = .running →
         (stale = true → exec (.barrier i) s = .next s) ∧
         (∀ k ∈ s.block.domChildren d, stale = false → (∀ j ∈ x.inputs, j.spoke ≠ some k.val) →
           Completes (.barrier i) s (fun b => started b ∧ arrives b)))) ∧
     (∀ (p : Packet) (y : Block), s.block.takePacket (fun p => p.opcode == Op.pelArrive) = some (p, y) →
       let m := PelMsg.ofBytes p.data
       let d := m.domain
       let x := s.block.dom d
       let fits := s.block.domOn d = true ∧ m.seq = s.block.pelSeq d ∧ ∃ k, p.inSpoke = some k ∧ k ∈ s.block.domChildren d
       (¬ fits → Completes .pelArrive s (fun b => b.pel = s.block.pel ∧
         b.rd64 .pel Reg.PEL_SEQ_ERR = min (s.block.rd64 .pel Reg.PEL_SEQ_ERR + 1) (2 ^ 64 - 1) ∧
         b.evtCount Ev.PEL_SEQ_MISMATCH = satAdd64 (s.block.evtCount Ev.PEL_SEQ_MISMATCH) 1)) ∧
       (∀ k q : Fin 8, fits → p.inSpoke = some k → (∀ j ∈ x.inputs, j.spoke ≠ some k.val) → q ∈ s.block.domChildren d → q ≠ k →
         (∀ j ∈ x.inputs, j.spoke ≠ some q.val) →
         Completes .pelArrive s (fun b => b.mem = s.block.mem ∧ b.lly.inbox = y.lly.inbox ∧ b.regs = s.block.regs ∧
           ∃ j : PelInput, (b.dom d).inputs = x.inputs ++ [j] ∧ j.spoke = some k.val ∧ j.ident = p.src ∧ j.count = m.count ∧
             j.digest = m.digest)) ∧
       (∀ k : Fin 8, fits → p.inSpoke = some k → (∀ j ∈ x.inputs, j.spoke ≠ some k.val) → s.block.domRoot d = true →
         (∀ q ∈ s.block.domChildren d, q = k ∨ ∃ j ∈ x.inputs, j.spoke = some q.val) →
         (s.block.domLocal d = true → ∃ j ∈ x.inputs, j.spoke = none) →
         let n := min ((x.inputs.map (fun j => j.count)).sum + m.count) 4096
         Completes .pelArrive s (fun b => (b.dom d).inputs = [] ∧ b.pelSeq d = (s.block.pelSeq d + 1) % 2 ^ 48 ∧
           (n = wfield (s.block.domCfg d) 12 0 →
             b.rd64 .pel Reg.PEL_RELEASES = min (s.block.rd64 .pel Reg.PEL_RELEASES + 1) (2 ^ 64 - 1) ∧
             b.rd64 .pel Reg.PEL_ABORTS = s.block.rd64 .pel Reg.PEL_ABORTS ∧ b.pel.lastSeq = s.block.pelSeq d) ∧
           (n ≠ wfield (s.block.domCfg d) 12 0 →
             b.rd64 .pel Reg.PEL_ABORTS = min (s.block.rd64 .pel Reg.PEL_ABORTS + 1) (2 ^ 64 - 1) ∧
             b.rd64 .pel Reg.PEL_RELEASES = s.block.rd64 .pel Reg.PEL_RELEASES))))) ∧
  (∀ (s : State), s.block.running = true →
     let ended := fun (d seq : Nat) (aborted : Bool) (b : Block) => (b.dom d).inputs = [] ∧ (b.dom d).task = none ∧ (b.dom d).timer = none ∧
       b.pelSeq d = (seq + 1) % 2 ^ 48 ∧
       b.rd64 .pel Reg.PEL_RELEASES = min (s.block.rd64 .pel Reg.PEL_RELEASES + if aborted then 0 else 1) (2 ^ 64 - 1) ∧
       b.rd64 .pel Reg.PEL_ABORTS = min (s.block.rd64 .pel Reg.PEL_ABORTS + if aborted then 1 else 0) (2 ^ 64 - 1)
     (∀ (p : Packet) (y : Block), s.block.takePacket (fun p => p.opcode == Op.pelRelease) = some (p, y) →
       let m := PelMsg.ofBytes p.data
       let d := m.domain
       let fits := s.block.domOn d = true ∧ m.seq = s.block.pelSeq d ∧
         ∃ k, p.inSpoke = some k ∧ s.block.domRoot d = false ∧ k.val = s.block.domParent d
       (fits → Completes .pelRelease s (fun b => ended d m.seq (bit m.flags 0) b ∧ (bit m.flags 0 = false → b.pel.lastSeq = m.seq))) ∧
       (¬ fits → Completes .pelRelease s (fun b => b.pel = s.block.pel ∧
         b.evtCount Ev.PEL_SEQ_MISMATCH = satAdd64 (s.block.evtCount Ev.PEL_SEQ_MISMATCH) 1))) ∧
     (∀ (d : Fin 8) (t : Nat), (s.block.dom d.val).timer = some t →
       let n := s.block.rdN .pel Reg.PEL_TIMEOUT % 2 ^ 24
       let due := s.block.domOn d.val = true ∧ s.block.domRoot d.val = true ∧ n ≠ 0 ∧ t + 500 * n ≤ s.block.now
       (due → Completes (.barrierTimeout d) s (ended d.val (s.block.pelSeq d.val) true)) ∧
       (¬ due → exec (.barrierTimeout d) s = .next s))) ∧
  ((∀ (s : State) (o : Origin) (d : Fin 8) (v : Word), s.takes o .pel (Reg.PEL_DOM_CFG d.val) = true →
     let busy := (s.block.dom d.val).inputs ≠ [] ∨ (s.block.dom d.val).task ≠ none
     Completes (.pelDomCfgWrite o d v) s (fun b => b.pel.doms = s.block.pel.doms ∧
       (busy → b.domCfg d.val = s.block.domCfg d.val ∧ b.evtCount Ev.PEL_DOM_BUSY = satAdd64 (s.block.evtCount Ev.PEL_DOM_BUSY) 1) ∧
       (¬ busy → (∀ i ≤ 31, i = 31 ∨ i = 30 ∨ i = 29 ∨ (16 ≤ i ∧ i ≤ 26) ∨ i ≤ 12 → wbit (b.domCfg d.val) i = wbit v i) ∧
         (wbit v 31 = true → s.block.domOn d.val = false → b.pelSeq d.val = 0)))) ∧
   (∀ (s : State) (o : Origin) (v : Word), s.takes o .pel Reg.PEL_GROUP = true →
     Completes (.pelGroupWrite o v) s (fun b =>
       (wbit v 31 = true → s.block.groupOk (wfield v 2 0) = true → wbit (b.rd .pel Reg.PEL_GROUP) 31 = true ∧
         wfield (b.rd .pel Reg.PEL_GROUP) 2 0 = wfield v 2 0 ∧ b.unit .group = s.block.unit .group) ∧
       (wbit v 31 = true → s.block.groupOk (wfield v 2 0) = false →
         wbit (b.rd .pel Reg.PEL_GROUP) 31 = wbit (s.block.rd .pel Reg.PEL_GROUP) 31 ∧
         b.evtCount Ev.PEL_CFG_FIELD = satAdd64 (s.block.evtCount Ev.PEL_CFG_FIELD) 1) ∧
       (wbit v 31 = false → wbit (s.block.rd .pel Reg.PEL_GROUP) 31 = true → wbit (b.rd .pel Reg.PEL_GROUP) 31 = false ∧
         (b.unit .group).board = []))) ∧
   (∀ (s : State), s.block.running = true →
     (wbit (s.block.rd .pel Reg.PEL_DIGEST_STAT) 31 = true → Completes .digestRecompute s (fun b => b.mem = s.block.mem ∧
       b.pel.digest = sm3 s.block.digestMessage ∧ wbit (b.rd .pel Reg.PEL_DIGEST_STAT) 31 = false ∧
       b.rd .pel Reg.PEL_DIGEST_HI = hashWord (sm3 s.block.digestMessage) 0)) ∧
     (∀ x, s.block.pel.draft = some x →
       let due := x.until_ ≤ s.block.now ∨ wbit (s.block.rd .pel Reg.PEL_DRAFT_CFG) 31 = false ∨ s.block.fenced = true
       (due → Completes .draftEnded s (fun b => b.pel.draft = none ∧ b.pwr.draft = none ∧ b.rd .pel Reg.PEL_DRAFT_STAT = 0 ∧
         b.evtCount Ev.DRAFT_ENDED = satAdd64 (s.block.evtCount Ev.DRAFT_ENDED) 1)) ∧
       (¬ due → exec .draftEnded s = .next s))))

/-- What a peloton packet says is what the receiver reads, and the header of any packet carries its fields (R323, R348). -/
def Obligations.FabricMessagesRoundTrip : Prop :=
  (∀ m : PelMsg, m.seq < 2 ^ 48 → m.domain < 8 → m.flags < 8 → m.count < 8192 → m.last < 65536 → m.brake < 16 → m.pace < 256 →
    m.braked < 8192 → m.digest < 2 ^ 64 → m.diffs.length ≤ 4 → (∀ i ∈ m.diffs, i < 4096) → m.diffCount < 8192 → m.lag < 2 ^ 32 →
    m.bytes.length = 48 ∧ PelMsg.ofBytes m.bytes = m) ∧
  (∀ p : Packet, p.dst < 4096 → p.src < 4096 → p.cls < 4 → p.vc < 2 → p.ttl < 64 → p.opcode < 256 → p.length < 1024 → p.tag < 65536 →
    p.addr < 2 ^ 48 → p.vcIn = p.vc → Packet.ofHeader p.header p.data p.inSpoke p.arrived = p)

/-- The parts of a ring cover what they divide: the chunks of a range, and the parts that the channels carry, put together in order, are the
whole (R362, R364). What it says beyond those rules is the model's choice: log entry 31. -/
def Obligations.RingPartsCoverTheRange : Prop :=
  ∀ (l : List Word),
    (∀ p, 0 < p → (List.range p).flatMap (fun k => slice l (chunkRange l.length p k)) = l) ∧
    (∀ ch, 0 < ch → (List.range ch).flatMap (fun c => slice l (channelPart l.length ch c)) = l) ∧
    (∀ p k, k + 1 < p → (chunkRange l.length p k).1 % 32 = 0 ∨ (chunkRange l.length p k).1 = l.length)

/-- Team commands: a load takes the bitmap's modules in ascending order with this module's rank, a clear empties the team, each starts the
team's sequence from 0 and leaves the other teams; a refused command changes none and reports its code (R359). Once the words that its
reads find in error are noted, a collective whose messages are all in and out writes its result and is done: an ALL_REDUCE, a
REDUCE_SCATTER and an ALL_GATHER place the values of the ring, an ALL_TO_ALL its rows and tables, a PERMUTE ends when its last write is
acknowledged; each counts (R362, R370, R372, R373). The engine's packets: a COL_HELLO that agrees with the team's run greets it, one that
differs faults the task with COL_MISMATCH and counts, one for a collective not yet started is held; COL_DATA of the run's sequence joins
it, other data is held; a COL_ACK ends the oldest message to its sender; a COL_ABORT faults the running collective (R361, R364, R373).
What it says beyond those rules is the model's choice: log entries 30 and 31. -/
def Obligations.CollectivesFinish : Prop :=
  (∀ (s : State) (o : Origin), s.takes o .col Reg.COL_TEAM_CMD = true →
     let n := s.block.rdN .col Reg.COL_TEAM_SEL % 16
     let others := fun (b : Block) => ∀ k, k ≠ n → b.team? k = s.block.team? k
     let seq := fun (b : Block) => Sparse.get (fun _ => 0) b.col.seqs n = 0
     let refused := fun (code : Nat) (b : Block) => b.col = s.block.col ∧ b.rd .col Reg.COL_TEAM_RESULT = BitVec.ofNat 32 code ∧
       b.evtCount code = satAdd64 (s.block.evtCount code) 1
     let l := bitmapModules (s.block.bytes (s.block.rd64 .col Reg.COL_TEAM_SRC_LO) 512)
     (s.block.teamLoadCode = 0 → Completes (.colTeamLoad o) s (fun b => others b ∧ seq b ∧
       b.team? n = some { members := l, rank := l.idxOf s.block.moduleId } ∧ l.Pairwise (· < ·) ∧ s.block.moduleId ∈ l ∧
       b.rd .col Reg.COL_TEAM_RESULT = 0)) ∧
     (∀ code, s.block.teamLoadCode = code → code ≠ 0 → Completes (.colTeamLoad o) s (refused code)) ∧
     (s.block.teamBusy n = false → Completes (.colTeamClear o) s (fun b => others b ∧ seq b ∧ b.team? n = none ∧
       b.rd .col Reg.COL_TEAM_RESULT = 0)) ∧
     (s.block.teamBusy n = true → Completes (.colTeamClear o) s (refused Ev.COL_TEAM_BUSY))) ∧
  (∀ (s : State) (cycles : Nat) (errs : Errs) (op : Nat) (t : TaskSt) (x : ColRun), s.block.running = true →
     s.block.collectives.find? (fun t => t.task.colOp == op && s.block.colDue t) = some t →
     let e := (s.block.seenBy t).found errs
     s.block.bySerial colUnit t.serial = some t → s.block.run? t.serial = some x →
     let r := t.task
     let b0 := e.addCycles colUnit t.serial cycles
     let v := e.colView t x
     let done := fun (y b : Block) => b.mem = y.mem ∧
       b.rd64 .col Reg.COL_TASKS = min (y.rd64 .col Reg.COL_TASKS + 1) (2 ^ 64 - 1) ∧
       ∃ t' : TaskSt, b.bySerial colUnit t.serial = some t' ∧ t'.items = 1 ∧ t'.cycles = t.cycles + cycles ∧ t'.phase = t.phase
     (∀ (vals : List Machine.Num) (y : Block), v.ringDue = [] → v.result = some vals → r.colFlag 1 = false →
       let a := e.desc r.descA.toNat
       let o := e.desc r.descC.toNat
       let places := if op = 1 then (rangeCoords (e.colEntries r)).map (a.sameCoords o) else (List.range vals.length).map o.flat
       b0.taskWrite t none (b0.placeValues o (r.colFlag 3) (places.zip vals)) (b0.colPageIn r) = (.ok, y) →
       (op = 1 → Completes (.allReduce cycles errs) s (done y)) ∧ (op = 2 → Completes (.reduceScatter cycles errs) s (done y)) ∧
       (op = 3 → Completes (.allGather cycles errs) s (done y))) ∧
     (∀ (q y : Block) (gs : List (List RowGroup)) (w : List (Nat × List Byte)), op = 4 →
       (∀ g ∈ e.rowGroups r, g.row + g.n ≤ (e.desc r.descA.toNat).rows) →
       b0.demand t (e.rowReads r) (b0.colPageIn r) = (.ok, q) → b0.poisonIn t (e.rowReads r) = none → x.sent ≠ [] →
       v.allGroups (e.rowGroups r) = some gs → q.countsFault r x.members gs = none → q.rowsDue v (e.rowGroups r) true = [] →
       q.rowWrites v (e.rowGroups r) gs = some w → q.taskWrite t none w (q.colPageIn r) = (.ok, y) → r.colListOut = 0 →
       Completes (.allToAll cycles errs) s (done y)) ∧
     (op = 5 → x.sent.contains [x.seq] = true → s.block.awaits colUnit t.serial = false →
       Completes (.permute cycles errs) s (done e)) ∧
     (op = 5 → x.sent.contains [x.seq] = true → s.block.awaits colUnit t.serial = true →
       Completes (.permute cycles errs) s (fun b => b = { b0 with lens := [] })) ∧
     (∀ (q : Block) (ss : List Source) (w : Nat × List Byte), b0.colSources r = some ss →
       let es := e.colEntries r
       let reads := (ss.filter (fun y => y.holder == 0)).flatMap Source.ranges
       op = 5 → x.sent = [] → b0.demand t reads (b0.colPageIn r) = (.ok, q) → b0.poisonIn t reads = none →
       (es.zip ss).flatMap (fun p => (q.permuteWrites r p.1 p.2).map (fun w => (p.1.param 0 2 % 4096, w))) = [(s.block.moduleId, w)] →
       (q.remoteAccess w.1 w.2.length true).1 = .ok → t.phase = .running →
       Completes (.permute cycles errs) s (fun b => b.mem = (q.store w.1 w.2).mem ∧
         b.run? t.serial = some { x with sent := [[x.seq]] }))) ∧
  (∀ (s : State) (team src : Nat), s.block.running = true → s.block.fenced = false →
     let bytes := fun (n : Nat) => min (s.block.rd64 .col Reg.COL_BYTES_RX + n) (2 ^ 64 - 1)
     (s.block.teamRun team = none →
       (∀ fields, Completes (.colHello team src fields) s (fun b => b.mem = s.block.mem ∧ b.col.runs = s.block.col.runs ∧
         b.col.hellos = s.block.col.hellos ++ [{ team := team, src := src, fields := fields }])) ∧
       (∀ head data, Completes (.colData team src head data) s (fun b => b.mem = s.block.mem ∧ b.col.runs = s.block.col.runs ∧
         b.col.early = s.block.col.early ++ [{ team := team, src := src, head := head, data := data }] ∧
         b.rd64 .col Reg.COL_BYTES_RX = bytes data.length))) ∧
     (∀ (x : ColRun) (t : TaskSt), s.block.teamRun team = some x → s.block.bySerial colUnit x.serial = some t → t.phase = .running →
       let faulted := fun (b : Block) => b.mem = s.block.mem ∧
         b.rd64 .col Reg.COL_MISMATCHES = min (s.block.rd64 .col Reg.COL_MISMATCHES + 1) (2 ^ 64 - 1) ∧
         ∃ t' : TaskSt, b.bySerial colUnit x.serial = some t' ∧ t'.phase = .finished ∧ t'.faultCode = some Ev.COL_MISMATCH
       (∀ fields, x.greeted.contains src = false → fields = (s.block.seenBy t).helloFields t.task x.seq x.members.length →
         Completes (.colHello team src fields) s (fun b => b.mem = s.block.mem ∧
           b.run? x.serial = some { x with greeted := x.greeted ++ [src] })) ∧
       (∀ fields, x.greeted.contains src = false → fields ≠ (s.block.seenBy t).helloFields t.task x.seq x.members.length →
         Completes (.colHello team src fields) s faulted) ∧
       (∀ head data, head.headD 0 = x.seq → Completes (.colData team src head data) s (fun b => b.mem = s.block.mem ∧
         b.run? x.serial = some { x with inbox := x.inbox ++ [{ team := team, src := src, head := head, data := data }] } ∧
         b.rd64 .col Reg.COL_BYTES_RX = bytes data.length)) ∧
       Completes (.colAbort team src) s faulted ∧
       (∀ q, s.block.lly.requests.find? (fun q => decide (q.owner = .task colUnit x.serial) && q.dst == src &&
           (q.opcode == Op.colHello || q.opcode == Op.colData)) = some q →
         Completes (.colAck team src) s (fun b => b.mem = s.block.mem ∧
           b.lly.requests = s.block.lly.requests.filter (fun r => r.tag != q.tag)))))

/-! ## Power, clocks, heat and ageing -/

/-- The input power is measured once a microsecond: each sample adds its energy and renews the averages; above 2,640 W the current brake falls
on every tile, and it is lifted once the input has stayed below 2,400 W for 100 µs (R387, R399, R400, R401). At a grant interval the
limits written before it take effect, every tile's draw and grant are shown, no grant passes the draw of ARRAY_HEAVY work at the tile's
top setting, slew counts the interval's rises from 0, and, with no DEFER task to fill an idle array, neither the scoreboards nor the
accumulator banks nor the STANDBY tiles change (R388, R390, R394, R395, R397, R398). A loan is reclaimed when its lender has array work
again; a floor held for HOLD_MS ends, and unless a fall is limited no idle array runs filler then (R394, R395, R396). The brake-request
input: while MOD_AUX has the input role and the pin is low, every tile's limit is at most PWR_FAST.EXT_SETTING and EXTERNAL is set;
released, the limit is gone (R402). What it says beyond those rules is the model's choice: log entry 23. -/
def Obligations.PowerIsHeld : Prop :=
  (∀ (s : State), s.block.running = true →
     (∀ mw : Nat, (∀ x, s.block.pwr.samples.head? = some x → x.1 + 500 ≤ s.block.now) → Completes (.powerSample mw) s (fun b =>
       b.pwr.samples.head? = some (s.block.now, mw) ∧ b.pwr.energyRem = (s.block.pwr.energyRem + mw) % 1000000 ∧
       b.rd64 .pwr Reg.PWR_ENERGY = min (s.block.rd64 .pwr Reg.PWR_ENERGY + (s.block.pwr.energyRem + mw) / 1000000) (2 ^ 64 - 1) ∧
       wfield (b.rd .pwr Reg.PWR_INPUT) 15 0 = min 65535 (b.avgW 50000) ∧
       wfield (b.rd .pwr Reg.PWR_AVG_FAST) 15 0 = min 65535 (b.avgW (msToMclk 10)) ∧
       wfield (b.rd .pwr Reg.PWR_AVG_FAST) 31 16 = min 65535 (b.avgW (msToMclk 100)) ∧
       b.mem = s.block.mem ∧ b.evt = s.block.evt)) ∧
     (∀ mw : Nat, ∀ x, s.block.pwr.samples.head? = some x → s.block.now < x.1 + 500 → exec (.powerSample mw) s = .next s) ∧
     (∀ x, s.block.pwr.samples.head? = some x → 2640000 < x.2 → s.block.pwr.cur = none → Completes .currentBrake s (fun b =>
       let m := wfield (s.block.eff .pwr Reg.PWR_FAST) 4 0
       b.pwr.cur = some m ∧ wbit (b.rd .pwr Reg.PWR_BRAKE_STAT) 1 = true ∧
       (∀ t < 16, wfield (b.rd .clk (Reg.CLK_TILE t)) 12 8 = b.lowestLimit t ∧ wfield (b.rd .clk (Reg.CLK_TILE t)) 12 8 ≤ m) ∧
       b.rd64 .pwr Reg.PWR_FAST_TRIPS = min (s.block.rd64 .pwr Reg.PWR_FAST_TRIPS + 1) (2 ^ 64 - 1) ∧
       b.evtCount Ev.CURRENT_BRAKE = satAdd64 (s.block.evtCount Ev.CURRENT_BRAKE) 1)) ∧
     (s.block.pwr.cur ≠ none → (∀ x ∈ s.block.pwr.samples, s.block.now < x.1 + 50000 → x.2 < 2400000) →
       Completes .currentBrakeLift s (fun b => b.pwr.cur = none ∧
         (∀ t < 16, wfield (b.rd .clk (Reg.CLK_TILE t)) 12 8 = b.lowestLimit t) ∧
         wfield (b.rd .pwr Reg.PWR_BRAKE_STAT) 3 0 = b.brakeState)) ∧
     (∀ x ∈ s.block.pwr.samples, s.block.now < x.1 + 50000 → 2400000 ≤ x.2 → exec .currentBrakeLift s = .next s)) ∧
  (∀ (s : State), s.block.running = true →
     (∀ claims : List (Nat × Nat), Completes (.grantInterval claims) s (fun b =>
       (∀ r ∈ effRegs, b.eff r.1 r.2 = s.block.rd r.1 r.2) ∧
       (∀ t < 16, wfield (b.rd .pwr (Reg.PWR_TILE t)) 31 16 = min 65535 (claimOf claims t / 1000) ∧
         wfield (b.rd .pwr (Reg.PWR_TILE t)) 15 0 ≤ b.grantCap t / 1000) ∧
       (∀ t < 16, wfield (b.rd .clk (Reg.CLK_TILE t)) 12 8 = b.lowestLimit t) ∧
       wfield (b.rd .pwr Reg.PWR_BRAKE_STAT) 3 0 = b.brakeState ∧
       ((∀ c : Fin 128, ∀ x ∈ (s.block.unit (.core c)).board, x.phase = .admitted → x.task.defer = false) → b.pwr.rise = 0 ∧
         b.units = s.block.units ∧ ∀ c : Fin 128, (b.core c.val).bank = (s.block.core c.val).bank ∧
           (b.core c.val).standby = (s.block.core c.val).standby))) ∧
     (∀ t : Fin 16,
       let mine := s.block.pwr.lent.filter (fun l => decide (l.1 = t.val))
       let wants := ∃ c ∈ s.block.coresOf t.val, ∃ x ∈ (s.block.unit (.core c)).board,
         x.phase = .admitted ∧ kindResource x.task.kind.toNat = 0 ∧ s.block.ready x = true
       ((mine ≠ [] ∧ wants) → Completes (.loanReclaim t) s (fun b =>
         b.pwr.lent = s.block.pwr.lent.filter (fun l => decide (l.1 ≠ t.val)) ∧ b.units = s.block.units ∧
         wfield (b.rd .pwr (Reg.PWR_TILE t.val)) 15 0 ≤ b.grantCap t.val / 1000 ∧
         (∀ l ∈ mine, l.2.1 < 16 → l.2.1 ≠ t.val →
           wfield (b.rd .pwr (Reg.PWR_TILE l.2.1)) 15 0 ≤ wfield (s.block.rd .pwr (Reg.PWR_TILE l.2.1)) 15 0 - l.2.2))) ∧
       (¬ (mine ≠ [] ∧ wants) → exec (.loanReclaim t) s = .next s)) ∧
     (∀ t, s.block.pwr.floorSince = some t → s.block.pwr.floorDone = false →
       t + msToMclk (wfield (s.block.eff .pwr Reg.PWR_FLOOR) 23 16) ≤ s.block.now → Completes .floorHoldExpire s (fun b =>
         b.pwr.floorDone = true ∧ (s.block.fallsFast = false →
           (∀ c : Fin 128, s.block.coreOn c = true → s.block.arrayBusy c = false → s.block.arrayClaimed c = false →
             s.block.slewWaits c = false → Sparse.get (fun _ => 0) b.pwr.filler c.val = 0) ∧
           b.mem = s.block.mem ∧ b.units = s.block.units ∧ b.evt = s.block.evt)))) ∧
  (∀ (s : State) (low : Bool), s.block.running = true →
     let m := wfield (s.block.eff .pwr Reg.PWR_FAST) 12 8
     let role := wbit (s.block.rd .mod Reg.MOD_AUX_CFG) 0
     ∀ c ∈ [Instr.brakeRequestInput low, Instr.modAuxInput low], Completes c s (fun b =>
       b.pins.auxLow = low ∧ wbit (b.rd .mod Reg.MOD_SIDEBAND) 1 = !low ∧ b.pwr.ext = (if role && low then some m else none) ∧
       (∀ t < 16, wfield (b.rd .clk (Reg.CLK_TILE t)) 12 8 = b.lowestLimit t) ∧
       (wbit (b.rd .pwr Reg.PWR_BRAKE_STAT) 3 = true ↔ (role = true ∧ low = true)) ∧
       (role = true → low = true → ∀ t < 16, wfield (b.rd .clk (Reg.CLK_TILE t)) 12 8 ≤ m) ∧
       (let old := wfield (s.block.rd .pwr Reg.PWR_BRAKE_STAT) 3 0
        (old = 0 → wfield (b.rd .pwr Reg.PWR_BRAKE_STAT) 3 0 ≠ 0 →
          b.evtCount Ev.BRAKE_ON = satAdd64 (s.block.evtCount Ev.BRAKE_ON) 1) ∧
        (old ≠ 0 → wfield (b.rd .pwr Reg.PWR_BRAKE_STAT) 3 0 = 0 →
          b.evtCount Ev.BRAKE_OFF = satAdd64 (s.block.evtCount Ev.BRAKE_OFF) 1))))

/-- The reference: its loss is posted and its return within 10 ms resumes work; after 10 ms every die is handled as a failed package link. A
synthesiser that loses lock stops its die; the die resumes when it locks again within 1 ms, and later is handled as a failed package link.
A tile takes the lowest of its limits, and a stopped one stays stopped (R400, R403). The sensors: each reading and each die's hottest
reading are kept and shown; a stack serves half its slots from 95 °C and a quarter from 100 °C, and comes to it with an event; a reading
at the trip temperature turns the rails off. A tile's limit falls one setting per millisecond while it or a port die is at BRAKE_C, and
rises one per 10 ms once all are 3 °C below (R408, R409, R410, R411). The monitors: each slack and each die's worst are kept; a tile below
WARN_PS gets 10 mV more at every setting, or, where that would pass 0.950 V, a top setting lower by one (R412, R413). What it says beyond
those rules is the model's choice: log entries 22 and 24. -/
def Obligations.ClocksHeatAndAgeing : Prop :=
  (∀ (s : State), s.block.running = true →
     (wbit (s.block.rd .clk Reg.CLK_LOCK0) 31 = true → Completes .clkRefLost s (fun b =>
       b.pwr.refLostAt = some s.block.now ∧ wbit (b.rd .clk Reg.CLK_LOCK0) 31 = false ∧
       b.evtCount Ev.CLK_REF_LOST = satAdd64 (s.block.evtCount Ev.CLK_REF_LOST) 1)) ∧
     (∀ t, s.block.pwr.refLostAt = some t →
       (s.block.now < t + msToMclk 10 → exec .clkRefTimeout s = .next s ∧ Completes .clkRefReturn s (fun b =>
         b.pwr.refLostAt = none ∧ wbit (b.rd .clk Reg.CLK_LOCK0) 31 = true ∧ b.mem = s.block.mem ∧ b.evt = s.block.evt)) ∧
       (t + msToMclk 10 ≤ s.block.now → exec .clkRefReturn s = .next s ∧ Completes .clkRefTimeout s (fun b =>
         ∀ d < 38, ∀ l ∈ dieLinks d, l ∈ b.net.down))) ∧
     (∀ die : Fin 38, s.block.lock die.val = true → Completes (.clkLockLost die) s (fun b =>
       b.lock die.val = false ∧ (die.val, s.block.now) ∈ b.pwr.unlocked ∧
       (die.val < 16 → wfield (b.rd .clk (Reg.CLK_TILE die.val)) 4 0 = 0) ∧
       (∀ t < 16, t ≠ die.val → b.rd .clk (Reg.CLK_TILE t) = s.block.rd .clk (Reg.CLK_TILE t)) ∧
       b.evtCount Ev.CLK_LOCK_LOST = satAdd64 (s.block.evtCount Ev.CLK_LOCK_LOST) 1)) ∧
     (∀ (die : Fin 38) (at_ : Nat), s.block.pwr.unlocked.find? (fun u => u.1 == die.val) = some (die.val, at_) →
       (at_ + msToMclk 1 ≤ s.block.now → Completes (.clkRelock die) s (fun b => ∀ l ∈ dieLinks die.val, l ∈ b.net.down)) ∧
       (s.block.now < at_ + msToMclk 1 → s.block.pwr.refLostAt = none → Completes (.clkRelock die) s (fun b =>
         b.lock die.val = true ∧ (∀ u ∈ b.pwr.unlocked, u.1 ≠ die.val) ∧
         (die.val < 16 → wfield (b.rd .clk (Reg.CLK_TILE die.val)) 4 0 = s.block.lowestLimit die.val) ∧
         b.net = s.block.net ∧ b.mem = s.block.mem ∧ b.evt = s.block.evt))) ∧
     (∀ t : Fin 16, s.block.setting t ≠ 0 → Completes (.aclkChange t) s (fun b =>
       b.setting t = b.lowestLimit t.val ∧ b.units = s.block.units)) ∧
     (∀ t : Fin 16, s.block.setting t = 0 → exec (.aclkChange t) s = .next s)) ∧
  (∀ (s : State), s.block.running = true →
     (∀ temps : List Nat, temps.length ≤ 38 → (∀ x ∈ temps, x < 256) →
       let hot := fun (b : Block) (d : Nat) => Sparse.get (fun _ => 0) b.pwr.hottest d
       let stk := fun (b : Block) (k : Nat) => Sparse.get (fun _ => 0) b.pwr.hotStacks k
       Completes (.tempSample temps) s (fun b =>
         (∀ d < temps.length, Sparse.get (fun _ => 0) b.pwr.temps d = temps.getD d 0 ∧ hot b d = max (temps.getD d 0) (hot s.block d)) ∧
         (∀ k, 18 + k < temps.length →
           stk b k = (if 100 ≤ temps.getD (18 + k) 0 then 4 else if 95 ≤ temps.getD (18 + k) 0 then 2 else 0)) ∧
         ((∃ d < temps.length, tripC d ≤ temps.getD d 0) → s.block.pwr.tripped = false →
           b.boot.run = .railsDown ∧ b.pwr.tripped = true ∧ b.pins.thermTrip = true ∧
           b.nv.notes.length = s.block.nv.notes.length + 1 ∧
           b.evtCount Ev.THERMAL_TRIP = satAdd64 (s.block.evtCount Ev.THERMAL_TRIP) 1) ∧
         ((∀ d < temps.length, temps.getD d 0 < tripC d) → b.boot = s.block.boot ∧ b.pwr.tripped = s.block.pwr.tripped))) ∧
     (∀ t : Fin 16,
       let lim := wfield (s.block.rd .pwr Reg.PWR_THERM_CFG) 7 0
       let temp := fun (d : Nat) => Sparse.get (fun _ => 0) s.block.pwr.temps d
       let hot := ∃ d ∈ [t.val, 16, 17], lim ≤ temp d
       let last := Sparse.get (fun _ => 0) s.block.pwr.thermAt t.val
       let old := Sparse.get (fun _ => 0) s.block.pwr.therm t.val
       let now := fun (b : Block) => Sparse.get (fun _ => 0) b.pwr.therm t.val
       (hot → old = 0 → Completes (.thermalBrakeStep t) s (fun b => now b = max 8 (s.block.topOf t.val - 1) ∧
         wbit (b.rd .pwr Reg.PWR_BRAKE_STAT) 2 = true ∧ wfield (b.rd .clk (Reg.CLK_TILE t.val)) 12 8 ≤ now b ∧
         b.evtCount Ev.THERMAL_BRAKE = satAdd64 (s.block.evtCount Ev.THERMAL_BRAKE) 1)) ∧
       (hot → old ≠ 0 → last + msToMclk 1 ≤ s.block.now → Completes (.thermalBrakeStep t) s (fun b => now b = max 8 (old - 1) ∧
         wfield (b.rd .clk (Reg.CLK_TILE t.val)) 12 8 ≤ now b)) ∧
       (old ≠ 0 → (∀ d ∈ [t.val, 16, 17], temp d + 3 ≤ lim) → last + msToMclk 10 ≤ s.block.now →
         Completes (.thermalBrakeStep t) s (fun b => now b = if s.block.topOf t.val ≤ old + 1 then 0 else old + 1)) ∧
       ((old = 0 ∧ ¬ hot) ∨ (old ≠ 0 ∧ s.block.now < last + msToMclk 1) → exec (.thermalBrakeStep t) s = .next s)) ∧
     (∀ (o : Origin) (v : Word), s.takes o .pwr Reg.PWR_TEMP = true → wbit v 31 = true →
       let d := wfield (s.block.rd .pwr Reg.PWR_TEMP_SEL) 5 0
       Completes (.pwrTempClear o v) s (fun b => Sparse.get (fun _ => 0) b.pwr.hottest d = 0 ∧
         (∀ e, e ≠ d → Sparse.get (fun _ => 0) b.pwr.hottest e = Sparse.get (fun _ => 0) s.block.pwr.hottest e) ∧
         b.pwr.temps = s.block.pwr.temps ∧ wfield (b.rd .pwr Reg.PWR_TEMP) 15 8 = 0))) ∧
  (∀ (s : State) (slack : Int) (t : Fin 16),
     let l : List Int := List.replicate t.val 10000 ++ [slack]
     let b0 := s.block
     let top := b0.topOf t.val
     let worst := fun (b : Block) => Sparse.get (fun _ => none) b.pwr.worstSlack t.val
     let past := ∃ m, 8 ≤ m ∧ m ≤ top ∧ 90 < b0.volt t.val m + 2
     let warn := slack < ((wfield (b0.rd .age Reg.AGE_CFG) 7 0 : Nat) : Int)
     b0.running = true → wbit (b0.rd .age Reg.AGE_CFG) 31 = true →
     (¬ warn → Completes (.ageMonitorRead l) s (fun b =>
       Sparse.get (fun _ => none) b.pwr.slacks t.val = some slack ∧ (∃ w, worst b = some w ∧ w ≤ slack) ∧ b.nv = b0.nv ∧ b.mem = b0.mem)) ∧
     (warn → ¬ past → Completes (.ageMonitorRead l) s (fun b =>
       (∀ m, 8 ≤ m → m ≤ 28 → b.volt t.val m = min 90 (b0.volt t.val m + 2)) ∧ b.topOf t.val = top ∧
       b.rd64 .age Reg.AGE_BUMPS = min (b0.rd64 .age Reg.AGE_BUMPS + 1) (2 ^ 64 - 1) ∧
       b.evtCount Ev.AGE_MARGIN_LOW = satAdd64 (b0.evtCount Ev.AGE_MARGIN_LOW) 1)) ∧
     (warn → past → t.val < b0.nv.tops.length → Completes (.ageMonitorRead l) s (fun b =>
       b.nv.volts = b0.nv.volts ∧ b.topOf t.val = max 8 (top - 1) ∧ b.nv.tops.getD t.val 28 = max 8 (top - 1) ∧
       b.evtCount Ev.AGE_MARGIN_EXHAUSTED = satAdd64 (b0.evtCount Ev.AGE_MARGIN_EXHAUSTED) 1)))

/-! ## Host, boot and management -/

/-- The host port: the link comes up with all eight lanes at the rate found, in D0; D3hot shuts both apertures alone; its own reset returns
configuration space, the MSI-X table, the windows and MOD_IRQ_VEC to reset, takes the link down and changes nothing else (R416, R429,
R430). Resets are asked for: MOD_RESET with the key and KIND 1 or 2 makes a warm or a cold reset due and an audit entry of kind RESET, and
without either does nothing; PERST# takes the link down and starts a warm reset; a Function Level Reset starts one with the link up (R429,
R431, R443). What it says beyond those rules is the model's choice: log entry 20. -/
def Obligations.HostPortAndResetRequests : Prop :=
  (∀ (s : State),
     (∀ (rate : Fin 3) (msix : Bool), (s.block.canWarm = true ∨ s.block.boot.run = .stages) → s.block.host.linkUp = false →
       Completes (.hostLinkUp rate msix) s (fun b =>
         b.host = { s.block.host with linkUp := true, dstate := .d0, msixEnable := msix } ∧
         wbit (b.rd .mod Reg.MOD_HOST_STAT) 31 = true ∧ wfield (b.rd .mod Reg.MOD_HOST_STAT) 7 0 = linkRate rate ∧
         wfield (b.rd .mod Reg.MOD_HOST_STAT) 21 16 = 8 ∧ wbit (b.rd .mod Reg.MOD_SIDEBAND) 0 = false ∧
         b = { s.block with regs := b.regs, host := b.host, pins := { s.block.pins with perst := false } })) ∧
     (s.block.host.linkUp = true → ∀ (rate : Fin 3) (msix : Bool), exec (.hostLinkUp rate msix) s = .next s) ∧
     (∀ d3 : Bool, s.block.host.linkUp = true → s.block.canWarm = true → Completes (.d3hotTransition d3) s (fun b =>
       b = { s.block with host := { s.block.host with dstate := if d3 then .d3hot else .d0 } } ∧
       b.hostOpen = !d3)) ∧
     (s.block.cmbUp = true → Completes .hostPortReset s (fun b =>
       b.host = { s.block.host with linkUp := false, dstate := .d0, msixEnable := false, msix := [], msixPend := [], irqVec := [] } ∧
       (∀ w < 4, b.rd64 .mod (Reg.MOD_WIN_BASE_LO w) = w * 2 ^ 33) ∧ b.rd .mod Reg.MOD_IRQ_VEC = 0 ∧ b.rd .mod Reg.MOD_HOST_STAT = 0 ∧
       (∀ p o, o < 4096 → p ≠ .mod → b.rd p o = s.block.rd p o) ∧ b = { s.block with regs := b.regs, host := b.host }))) ∧
  (∀ (s : State),
     (∀ (o : Origin) (v : Word), s.takes o .mod Reg.MOD_RESET = true → wfield v 31 16 = 0xB0C5 → s.block.log.entries.length + 1 < logSize →
       let made := fun (b : Block) (kind : Nat) => ∃ e, b.log.entries.getLast? = some e ∧ e.kind = LogKind.reset ∧ e.origin = o.code ∧
         e.old = 0 ∧ e.new = kind ∧ e.time = s.block.now
       (wfield v 1 0 = 1 → Completes (.modResetWarm o v) s (fun b => b.boot = { s.block.boot with resetDue := some 3 } ∧ made b 1 ∧
         b.units = s.block.units)) ∧
       (wfield v 1 0 = 2 → Completes (.modResetCold o v) s (fun b => b.boot = { s.block.boot with resetDue := some 2 } ∧ made b 2 ∧
         b.units = s.block.units))) ∧
     (∀ (o : Origin) (v : Word), wfield v 31 16 ≠ 0xB0C5 → exec (.modResetWarm o v) s = .next s ∧ exec (.modResetCold o v) s = .next s) ∧
     (s.block.cmbUp = true → Completes .perstAssert s (fun b =>
       b.pins = { s.block.pins with perst := true } ∧ b.host = { s.block.host with linkUp := false, dstate := .d0 } ∧
       b.rd .mod Reg.MOD_HOST_STAT = 0 ∧ wbit (b.rd .mod Reg.MOD_SIDEBAND) 0 = true ∧
       b.boot.resetDue = (if s.block.canWarm then some 1 else s.block.boot.resetDue) ∧
       b = { s.block with regs := b.regs, boot := b.boot, pins := b.pins, host := b.host })) ∧
     (s.block.host.linkUp = true → s.block.canWarm = true → Completes .functionLevelReset s (fun b =>
       b = { s.block with boot := { s.block.boot with resetDue := some 1 } })))

/-- A warm reset that is due keeps RWS fields, fuse registers, the MCLK count, measurements, the audit log, HBM contents and allocations,
event counts and the non-volatile store; it clears scheduling, semaphores, the shard map, the directory, routes, domains and teams, loses
SRAM, keeps retired slabs out of the pool and retires those found bad, with a record while there is room for one, leaves the mailbox idle
with RESULT as it was, and ends with WARM_RESET_DONE (R227, R430, R431, R432). A cold reset clears everything but the fuses, the
non-volatile store and the pins, and starts the boot ROM, or holds the management block where the pins ask for it; COLD_RST_N starts one
and holds it, and the ROM starts when it is released with power good (R429, R430, R435, R456). What it says beyond those rules is the
model's choice: log entries 20 and 40. -/
def Obligations.ResetsKeepAndClear : Prop :=
  (∀ (s : State), s.block.boot.run = .running → (s.block.boot.resetDue = some 1 ∨ s.block.boot.resetDue = some 3) →
     Completes .warmReset s (fun b =>
       (b.boot = { s.block.boot with resetDue := none } ∧ b.nv = { s.block.nv with slabs := b.nv.slabs } ∧
         (∃ l, b.nv.slabs = s.block.nv.slabs ++ l) ∧ b.now = s.block.now ∧
         (∃ l, b.log.entries = s.block.log.entries ++ l) ∧ (∀ k, 2 ^ 40 ≤ k → b.physBytes k 1 = s.block.physBytes k 1) ∧
         b.hbm.ptes = s.block.hbm.ptes ∧ b.azn.progs = s.block.azn.progs ∧
         (∀ p off r, regAt? p off = some r → off < 4096 → r.acc = .rws → p ≠ .clk → b.rd p off = s.block.rd p off) ∧
         (∀ off, 0x040 ≤ off → off < 0x054 → b.rd .mod off = s.block.rd .mod off) ∧
         (∀ e, e ≠ Ev.WARM_RESET_DONE → e ≠ Ev.LOG_FULL → e ≠ Ev.BRAKE_ON → b.evtCount e = s.block.evtCount e)) ∧
       (b.units = [] ∧ b.shm = { map := [], record := [], bulk := none } ∧ b.exd.dir = [] ∧ b.lly = .empty ∧ b.pel = .empty ∧ b.col = .empty ∧
         b.cores = [] ∧ (∀ c i, c < 128 → i < 64 → b.semVal c i = 0) ∧ (∀ e ∈ b.mem, 2 ^ 40 ≤ e.1)) ∧
       (∀ t < 16, ∀ k, (k ∈ (s.block.tile t).retired ∨ k ∈ (s.block.tile t).bad) → k ∈ (b.tile t).retired) ∧
       b.mbx.run = none ∧ (∀ p : Fin 2, wfield (b.rd (.mbx p) Reg.MBX_STAT) 15 0 = wfield (s.block.rd (.mbx p) Reg.MBX_STAT) 15 0 ∧
         wbit (b.rd (.mbx p) Reg.MBX_STAT) 31 = false ∧ wbit (b.rd (.mbx p) Reg.MBX_STAT) 30 = false) ∧
       b.host.linkUp = s.block.host.linkUp ∧ b.evtCount Ev.WARM_RESET_DONE = satAdd64 (s.block.evtCount Ev.WARM_RESET_DONE) 1)) ∧
  (∀ (s : State),
     let cleared := fun (b : Block) => b.nv = s.block.nv ∧ b.mem = [] ∧ b.units = [] ∧ b.evt = [] ∧ b.log = .empty ∧ b.hbm = .empty ∧
       b.boot.measures = [] ∧ b.boot.resetDue = none ∧ b.host = .empty ∧ b.i3c = .empty ∧ b.now = 0 ∧
       b.rd .mod Reg.MOD_GRADE = s.fuses.grade ∧
       ∀ p off, off < 4096 → p ≠ .mod → b.rd p off = regReset (addrOf p off)
     (s.block.boot.resetDue = some 2 → Completes .coldReset s (fun b => cleared b ∧
       b.pins = { s.block.pins with thermTrip := false, inputLow := false } ∧ b.boot.run = s.block.pins.bootRun)) ∧
     (s.block.boot.resetDue ≠ some 2 → exec .coldReset s = .next s) ∧
     (s.block.boot.run ≠ .off → Completes .coldRstNAssert s (fun b => cleared b ∧ b.pins.coldRst = true ∧ b.boot.run = .cmbHeld)) ∧
     (s.block.boot.run = .cmbHeld → Completes .coldRstNRelease s (fun b => b.pins = { s.block.pins with coldRst := false } ∧
       b.boot.run = (if s.block.pins.powerGood then (if s.block.pins.testEn then .testOnly else .bootRom) else .cmbHeld) ∧
       b.regs = s.block.regs)))

/-- The boot ROM counts the boot and runs the first bank, NEXT before the other, in which all five stages pass: their measurements are held. A
bank that fails is marked invalid, with BOOT_BANK_FALLBACK; where both fail the module is in recovery. A rail that fails stops the
sequence (R435, R436, R437, R459). Stage 5 takes over: the module runs, READY is set with BOOT_DONE, every synthesiser is locked, and the
far tier is there if its port found a device, with at most 4 TiB of it (R298, R403, R438). What it says beyond those rules is the model's
choice: log entries 20 and 33. -/
def Obligations.BootRunsTheFirstBankThatPasses : Prop :=
  (∀ (s : State),
     let nv := s.block.nv
     let bank := fun (x : Bool) => if x then nv.bankB else nv.bankA
     let code := fun (x : Bool) => (if (bank x).valid then checkStages nv.minSvn (bank x).stages else (Ev.FW_FORMAT, 0)).1
     let first := nv.nextB
     let runs := fun (b : Block) (x : Bool) => b.boot.bankB = x ∧ b.boot.measures = (bank x).stages.map (fun i => i.measure) ∧
       b.boot.svn = ((bank x).stages.getD 4 ⟨0, 0, 0, 0, false, 0⟩).svn ∧ b.nv.bootCount = nv.bootCount + 1 ∧
       wbit (b.rd .sec Reg.SEC_BOOT_STAT) 24 = x ∧ wbit (b.rd .sec Reg.SEC_BOOT_STAT) 31 = false
     let more := fun (b : Block) (e : Nat) => b.evtCount e = satAdd64 (s.block.evtCount e) 1
     s.block.boot.run = .bootRom →
     (code first = 0 → Completes (.bootStageCheck none) s (fun b => runs b first ∧ b.boot.run = .stages ∧
       b.nv.bankA = nv.bankA ∧ b.nv.bankB = nv.bankB)) ∧
     (∀ rail : Nat, code first = 0 → Completes (.bootStageCheck (some rail)) s (fun b => runs b first ∧ b.boot.run = .railsDown ∧
       more b Ev.RAIL_FAULT)) ∧
     (code first ≠ 0 → code (!first) = 0 → Completes (.bootStageCheck none) s (fun b => runs b (!first) ∧ b.boot.run = .stages ∧
       (if first then b.nv.bankB.valid = false ∧ b.nv.bankA = nv.bankA else b.nv.bankA.valid = false ∧ b.nv.bankB = nv.bankB) ∧
       wfield (b.rd .sec Reg.SEC_BOOT_STAT) 15 0 = code first % 2 ^ 16 ∧ more b Ev.BOOT_BANK_FALLBACK)) ∧
     (code first ≠ 0 → code (!first) ≠ 0 → Completes (.bootStageCheck none) s (fun b => b.boot.run = .recovery ∧
       b.nv.bankA.valid = false ∧ b.nv.bankB.valid = false ∧ wbit (b.rd .sec Reg.SEC_BOOT_STAT) 30 = true ∧
       more b Ev.BOOT_BANK_FALLBACK ∧ more b Ev.BOOT_RECOVERY))) ∧
  (∀ (s : State) (width rate devices capacity : Nat), s.block.boot.run = .stages →
     Completes (.bootDone width rate devices capacity) s (fun b =>
       b.boot = { s.block.boot with run := .running } ∧ wbit (b.rd .sec Reg.SEC_BOOT_STAT) 31 = true ∧
       b.evtCount Ev.BOOT_DONE = satAdd64 (s.block.evtCount Ev.BOOT_DONE) 1 ∧ (∀ d < 38, b.lock d = true) ∧
       b.hbm.farDown = decide (devices = 0) ∧ wbit (b.rd .cxl Reg.CXL_LINK) 31 = decide (devices ≠ 0) ∧ b.nv = { s.block.nv with slabs := b.nv.slabs } ∧
       b.rdN .cxl Reg.CXL_CAPACITY = (if devices = 0 then 0 else min capacity (2 ^ 21)) ∧
       ∀ t : Fin 16, s.block.nv.tops.getD t.val 28 ≤ 28 → b.topOf t.val = s.block.nv.tops.getD t.val 28))

/-- The input: from 40.0 V the management block is powered, held until power is good at 46.0 to 60.0 V, and everything is off below; an input
above 60.0 V or below 42.0 V turns the rails off and is recorded, and once it is back between 46.0 and 58.0 V a cold reset follows; an
input below 46.0 V applies the current brake until it is back at 46.5 V (R456, R457). MOD_AUX has one role at a time: both bits set are a
conflict, posted at each such write, and the input role wins; and a coolant reading warns above its thresholds once, and again only after
both have been 2 °C below (R460, R461, R464). What it says beyond those rules is the model's choice: log entry 48. -/
def Obligations.InputAndPins : Prop :=
  (∀ (s : State) (dv : Nat),
     let run := s.block.boot.run
     let afresh := fun (b : Block) => b.mem = [] ∧ b.units = [] ∧ b.now = 0 ∧ b.nv = s.block.nv ∧ b.pins.volts = dv
     let cut := fun (b : Block) (e : Nat) => b.boot.run = .railsDown ∧ b.boot.inputCut = true ∧ b.host.linkUp = false ∧
       b.nv.notes = s.block.nv.notes ++ [e + dv * 2 ^ 16] ∧ b.evtCount e = satAdd64 (s.block.evtCount e) 1 ∧
       wfield (b.rd .pwr Reg.PWR_INPUT) 31 16 = min 65535 dv
     let limits := fun (b : Block) => ∀ t < 16, wfield (b.rd .clk (Reg.CLK_TILE t)) 12 8 = b.lowestLimit t
     (run = .off → 400 ≤ dv → Completes (.cmbPowered dv) s (fun b => afresh b ∧ b.boot.run = .cmbHeld ∧ b.pins.powerGood = false)) ∧
     (run = .cmbHeld → s.block.pins.powerGood = false → s.block.pins.coldRst = false → s.block.pins.testEn = false → 460 ≤ dv → dv ≤ 600 →
       Completes (.powerGood dv) s (fun b => afresh b ∧ b.boot.run = .bootRom ∧ b.pins.powerGood = true)) ∧
     (run ≠ .off → dv < 400 → Completes (.inputOff dv) s (fun b => afresh b ∧ b.boot.run = .off ∧ b.pins.powerGood = false)) ∧
     (s.block.running = true → dv < 460 → s.block.pins.inputLow = false → Completes (.inputLow dv) s (fun b =>
       b.pins.inputLow = true ∧ wbit (b.rd .pwr Reg.PWR_BRAKE_STAT) 1 = true ∧ limits b ∧ b.boot = s.block.boot ∧
       b.evtCount Ev.INPUT_LOW = satAdd64 (s.block.evtCount Ev.INPUT_LOW) 1 ∧
       (s.block.pwr.cur = none → ∀ t < 16, wfield (b.rd .clk (Reg.CLK_TILE t)) 12 8 ≤ wfield (s.block.eff .pwr Reg.PWR_FAST) 4 0))) ∧
     (s.block.running = true → 465 ≤ dv → s.block.pins.inputLow = true → Completes (.inputLowClear dv) s (fun b =>
       b.pins.inputLow = false ∧ limits b ∧ (s.block.pwr.cur = none → wbit (b.rd .pwr Reg.PWR_BRAKE_STAT) 1 = false))) ∧
     (s.block.cmbUp = true → 600 < dv → Completes (.inputOvervolt dv) s (fun b => cut b Ev.INPUT_OVERVOLT)) ∧
     (s.block.cmbUp = true → dv < 420 → Completes (.inputFail dv) s (fun b => cut b Ev.INPUT_FAIL)) ∧
     (dv ≤ 600 → exec (.inputOvervolt dv) s = .next s) ∧ (420 ≤ dv → exec (.inputFail dv) s = .next s) ∧
     (s.block.boot.inputCut = true → 460 ≤ dv → dv ≤ 580 → Completes (.inputRecoverColdReset dv) s (fun b => afresh b ∧
       b.boot.inputCut = false ∧ b.boot.run = s.block.pins.bootRun))) ∧
  (∀ (s : State), s.block.running = true →
     (∀ (o : Origin) (v : Word), s.takes o .mod Reg.MOD_AUX_CFG = true → Completes (.modAuxCfgWrite o v) s (fun b =>
       let both := wbit v 0 && wbit v 1
       wbit (b.rd .mod Reg.MOD_AUX_CFG) 0 = wbit v 0 ∧ wbit (b.rd .mod Reg.MOD_AUX_CFG) 1 = wbit v 1 ∧
       wbit (b.rd .mod Reg.MOD_AUX_CFG) 2 = both ∧
       b.evtCount Ev.CFG_CONFLICT = (if both then satAdd64 (s.block.evtCount Ev.CFG_CONFLICT) 1 else s.block.evtCount Ev.CFG_CONFLICT) ∧
       b.pwr.ext = (if wbit v 0 && s.block.pins.auxLow then some (wfield (s.block.eff .pwr Reg.PWR_FAST) 12 8) else none))) ∧
     (∀ raw : Word,
       let cfg := s.block.rd .mod Reg.MOD_COOLANT_CFG
       let inlet := signed 16 (wfield raw 15 0)
       let rise := signed 16 (wfield raw 31 16) - inlet
       let limit : Int := (10 * wfield cfg 7 0 : Nat)
       let delta : Int := (wfield cfg 15 8 : Nat)
       let high := limit < inlet ∨ delta < rise
       let low := inlet ≤ limit - 20 ∧ rise ≤ delta - 20
       (s.block.pwr.coolantWarned = false → high → Completes (.coolantSample raw) s (fun b => b.rd .mod Reg.MOD_COOLANT = raw ∧
         b.pwr.coolantWarned = true ∧ b.evtCount Ev.COOLANT_WARN = satAdd64 (s.block.evtCount Ev.COOLANT_WARN) 1)) ∧
       (s.block.pwr.coolantWarned = false → ¬ high → Completes (.coolantSample raw) s (fun b =>
         b = { s.block with regs := b.regs } ∧ b.rd .mod Reg.MOD_COOLANT = raw)) ∧
       (s.block.pwr.coolantWarned = true → Completes (.coolantSample raw) s (fun b => b.rd .mod Reg.MOD_COOLANT = raw ∧
         (b.pwr.coolantWarned = false ↔ low) ∧ b.mem = s.block.mem ∧ b.evt = s.block.evt))))

/-- Every command of the table starts on an idle mailbox of a running module: BUSY reads 1 on both pages, CODE shows it, and the run belongs
to the page that was written (R425, R426, R428). A write of MBX_CMD while a command runs is refused: REFUSED and the count on the writer's
page, the run undisturbed; one with a code that the table does not list ends at once with MBX_UNKNOWN_CMD (R427, R428). What it says
beyond those rules is the model's choice: log entry 19. -/
def Obligations.MailboxCommandsStart : Prop :=
  (∀ (s : State) (o : Origin) (p : Fin 2), s.block.doorOpen o = true → originFits o (.mbx p) = true → s.block.running = true →
     s.block.mbx.run = none → s.block.strictFull = false →
     let starts := fun (c : Instr) (code : Nat) => Completes c s (fun b =>
       (∃ r, b.mbx.run = some r ∧ r.page = p ∧ r.code = code ∧ r.startedAt = s.block.now) ∧
       wbit (b.rd (.mbx 0) Reg.MBX_STAT) 31 = true ∧ wbit (b.rd (.mbx 1) Reg.MBX_STAT) 31 = true ∧
       wfield (b.rd (.mbx p) Reg.MBX_STAT) 23 16 = code)
     starts (.getInfo o p) 0x01 ∧ starts (.readDigest o p) 0x02 ∧ starts (.readMeasurement o p) 0x03 ∧ starts (.getIdentity o p) 0x04 ∧
     starts (.svnCommit o p) 0x05 ∧ starts (.retireClear o p) 0x06 ∧ (∀ ok, starts (.fwUpdate o p ok) 0x10) ∧
     starts (.attestQuote o p) 0x11 ∧ (∀ v, starts (.marginReplan o p v) 0x12) ∧ (∀ errs, starts (.fullScrub o p errs) 0x13) ∧
     starts (.farMigrate o p) 0x14) ∧
  (∀ (s : State) (o : Origin) (p : Fin 2) (v : Word), s.block.doorOpen o = true → originFits o (.mbx p) = true → s.block.mbxUp = true →
     (∀ r, s.block.mbx.run = some r → Completes (.mbxCmdRefused o p v) s (fun b =>
       b.mbx = s.block.mbx ∧ wbit (b.rd (.mbx p) Reg.MBX_STAT) 29 = true ∧ wbit (b.rd (.mbx p) Reg.INT_STAT) 1 = true ∧
       b.rd64 (.mbx p) Reg.MBX_REFUSALS = min (s.block.rd64 (.mbx p) Reg.MBX_REFUSALS + 1) (2 ^ 64 - 1) ∧ b.log = s.block.log ∧
       b.mem = s.block.mem)) ∧
     (s.block.mbx.run = none → exec (.mbxCmdRefused o p v) s = .next s) ∧
     (s.block.mbx.run = none → mbxDefined (wfield v 7 0) = false → Completes (.mbxUnknownCmd o p v) s (fun b =>
       b.mbx.run = none ∧ wfield (b.rd (.mbx p) Reg.MBX_STAT) 23 16 = wfield v 7 0 ∧
       wfield (b.rd (.mbx p) Reg.MBX_STAT) 15 0 = Ev.MBX_UNKNOWN_CMD ∧ wbit (b.rd (.mbx p) Reg.MBX_STAT) 31 = false ∧
       wbit (b.rd (.mbx p) Reg.MBX_STAT) 30 = true ∧ b.log = s.block.log ∧
       b.evtCount Ev.MBX_UNKNOWN_CMD = satAdd64 (s.block.evtCount Ev.MBX_UNKNOWN_CMD) 1)))

/-- What the commands do: GET_INFO, READ_DIGEST, READ_MEASUREMENT and GET_IDENTITY answer; SVN_COMMIT raises the fused minimum to the running
SVN; RETIRE_CLEAR empties the retirement table; FW_UPDATE leaves a bank that passed marked invalid until it is read back; MARGIN_REPLAN
holds admission (R356, R414, R428, R439, R440, R441). FAR_MIGRATE, FULL_SCRUB and ATTEST_QUOTE refuse what lies outside their ranges; a
quote is written in one place, 448 bytes long, once no digest is pending (R428, R442). The end of a command whose work is done: the
starting page's responses, RESULT and CODE, BUSY clear on both pages, DONE with its interrupt. FW_UPDATE's bank is then valid and NEXT; a
replan counts and releases admission, or ends with MBX_TIMEOUT and nothing changed. While the work is not done nothing happens (R414,
R426, R439). What it says beyond those rules is the model's choice: log entries 19 and 43. -/
def Obligations.MailboxCommandsWorkAndEnd : Prop :=
  (∀ (s : State) (o : Origin) (p : Fin 2), s.block.doorOpen o = true → originFits o (.mbx p) = true → s.block.running = true →
     s.block.mbx.run = none → s.block.strictFull = false →
     let arg := fun (i : Nat) => s.block.rdN (.mbx p) (Reg.MBX_ARG i)
     let buf := s.block.rd64 (.mbx p) Reg.MBX_BUF_LO
     let len := s.block.rdN (.mbx p) Reg.MBX_BUF_LEN
     let ends := fun (c : Instr) (result : Nat) (rsp : List Word) (more : Block → Prop) => Completes c s (fun b =>
       ∃ r, b.mbx.run = some r ∧ r.ready = true ∧ r.result = result ∧ r.rsp = rsp ∧ more b)
     let alone := fun (b : Block) => b.mem = s.block.mem ∧ b.nv = s.block.nv ∧ b.evt = s.block.evt
     ends (.getInfo o p) 0 [BitVec.ofNat 32 s.block.boot.version,
       BitVec.ofNat 32 (s.block.boot.svn % 2 ^ 16 + s.block.nv.minSvn % 2 ^ 16 * 2 ^ 16), s.block.rd .sec Reg.SEC_BANKS,
       BitVec.ofNat 32 s.block.nv.bootCount] alone ∧
     (wbit (s.block.rd .pel Reg.PEL_DIGEST_STAT) 31 = false → ends (.readDigest o p) 0 (hashWords s.block.pel.digest) alone) ∧
     (1 ≤ arg 0 → arg 0 ≤ 5 → ends (.readMeasurement o p) 0 (hashWords (s.block.boot.measures.getD (arg 0 - 1) 0)) alone) ∧
     (arg 0 = 0 ∨ 5 < arg 0 → ends (.readMeasurement o p) Ev.MBX_ARG_FIELD [] alone) ∧
     (let l := s.block.nv.pubKey ++ s.block.nv.certs
      4096 ≤ len → l.length ≤ len → (s.block.within buf len).isSome = true → buf / 65536 = (buf + l.length) / 65536 →
       (∃ k, s.block.resolve buf = .phys k) →
       ends (.getIdentity o p) 0 [BitVec.ofNat 32 l.length] (fun b => b.bytes buf l.length = l ∧ b.nv = s.block.nv)) ∧
     (len < 4096 → ends (.getIdentity o p) Ev.MBX_ARG_FIELD [] alone) ∧
     (s.block.nv.minSvn < s.block.boot.svn → 0 < s.block.nv.raisesLeft → ends (.svnCommit o p) 0 [] (fun b =>
       b.nv = { s.block.nv with minSvn := s.block.boot.svn, raisesLeft := s.block.nv.raisesLeft - 1 } ∧ b.mem = s.block.mem)) ∧
     (s.block.nv.minSvn < s.block.boot.svn → s.block.nv.raisesLeft = 0 → ends (.svnCommit o p) Ev.MBX_ARG_FIELD [] alone) ∧
     (arg 0 = 0xFFFFFFFF → ends (.retireClear o p) 0 [] (fun b => b.hbm.retire = [] ∧ b.hbm.ptes = s.block.hbm.ptes ∧ b.mem = s.block.mem)) ∧
     (4095 < arg 0 → arg 0 ≠ 0xFFFFFFFF → ends (.retireClear o p) Ev.MBX_ARG_FIELD [] alone) ∧
     (∀ ok : Bool,
       let l := parsePackage (s.block.bytes buf len) 5 0
       s.block.bufFits p 1 = true → len ≤ recoverySize → s.block.poisoned buf len = [] → (checkStages s.block.nv.minSvn l).1 = 0 →
       Completes (.fwUpdate o p ok) s (fun b => ∃ r, b.mbx.run = some r ∧ r.result = (if ok then 0 else Ev.FW_SIG_INVALID) ∧
         (if s.block.boot.bankB then b.nv.bankA else b.nv.bankB) = { valid := false, stages := l } ∧
         (if s.block.boot.bankB then b.nv.bankB = s.block.nv.bankB else b.nv.bankA = s.block.nv.bankA) ∧
         b.nv.nextB = s.block.nv.nextB)) ∧
     (arg 0 ≤ 60000 → ∀ volts, Completes (.marginReplan o p volts) s (fun b => b.pwr.replanHold = true ∧ alone b ∧
       ∃ r, b.mbx.run = some r ∧ r.todo = volts))) ∧
  (∀ (s : State) (o : Origin) (p : Fin 2), s.block.doorOpen o = true → originFits o (.mbx p) = true → s.block.running = true →
     s.block.mbx.run = none → s.block.strictFull = false →
     let arg := fun (i : Nat) => s.block.rdN (.mbx p) (Reg.MBX_ARG i)
     let buf := s.block.rd64 (.mbx p) Reg.MBX_BUF_LO
     let len := s.block.rdN (.mbx p) Reg.MBX_BUF_LEN
     let stops := fun (c : Instr) (code : Nat) => Completes c s (fun b =>
       (∃ r, b.mbx.run = some r ∧ r.ready = true ∧ r.result = code) ∧ b.mem = s.block.mem ∧ b.hbm = s.block.hbm)
     ((arg 0 ≠ 1 ∧ arg 0 ≠ 2) ∨ arg 2 = 0 ∨ 4194304 < arg 2 → stops (.farMigrate o p) Ev.MBX_ARG_FIELD) ∧
     ((arg 0 = 1 ∨ arg 0 = 2) → 1 ≤ arg 2 → arg 2 ≤ 4194304 → s.block.hbm.farDown = true → stops (.farMigrate o p) Ev.FAR_UNREACHABLE) ∧
     (2 ^ 20 ≤ arg 0 → ∀ errs, stops (.fullScrub o p errs) Ev.MBX_ARG_FIELD) ∧
     (len < 448 → stops (.attestQuote o p) Ev.MBX_ARG_FIELD) ∧
     (448 ≤ len → (s.block.within buf len).isSome = true → wbit (s.block.rd .pel Reg.PEL_DIGEST_STAT) 31 = false →
       buf / 65536 = (buf + 447) / 65536 → (∃ k, s.block.resolve buf = .phys k) →
       Completes (.attestQuote o p) s (fun b => (∃ r, b.mbx.run = some r ∧ r.ready = true ∧ r.result = 0) ∧
         b.rdN .mod Reg.MOD_GRADE = rdLE (b.bytes (buf + 4) 4) 0 4 ∧
         rdLE (b.bytes buf 4) 0 2 = 1 ∧ rdLE (b.bytes buf 4) 2 2 = 448 ∧
         rdLE (b.bytes (buf + 0x60) 8) 0 8 = s.block.now % 2 ^ 64 ∧ b.bytes buf 384 = s.block.quote p ∧
         ∃ f, b.bytes (buf + 384) 64 = (Config.sm2Sign (sm3 (s.block.quote p)) f ++ List.replicate 64 0).take 64))) ∧
  (∀ (s : State) (r : MbxRun), s.block.running = true → s.block.mbx.run = some r → r.ready = true → r.code < 256 → r.result < 65536 →
     let p := r.page
     let done := fun (b : Block) (result : Nat) (rsp : List Word) => b.mbx.run = none ∧
       wfield (b.rd (.mbx p) Reg.MBX_STAT) 23 16 = r.code ∧ wfield (b.rd (.mbx p) Reg.MBX_STAT) 15 0 = result ∧
       wbit (b.rd (.mbx 0) Reg.MBX_STAT) 31 = false ∧ wbit (b.rd (.mbx 1) Reg.MBX_STAT) 31 = false ∧
       wbit (b.rd (.mbx p) Reg.MBX_STAT) 30 = true ∧ wbit (b.rd (.mbx p) Reg.INT_STAT) 0 = true ∧
       ∀ i < 8, b.rd (.mbx p) (Reg.MBX_RSP i) = rsp.getD i 0
     (r.code ≠ 0x10 → r.code ≠ 0x12 → r.code ≠ 0x14 → Completes .mbxCommandEnd s (fun b => done b r.result r.rsp ∧ b.nv = s.block.nv)) ∧
     (r.code = 0x10 → r.result = 0 →
       let side := r.todo.headD 0 == 1
       Completes .mbxCommandEnd s (fun b => done b 0 r.rsp ∧ b.nv.nextB = side ∧
         (if side then b.nv.bankB else b.nv.bankA) = { (if side then s.block.nv.bankB else s.block.nv.bankA) with valid := true } ∧
         b.evtCount Ev.FW_UPDATED = satAdd64 (s.block.evtCount Ev.FW_UPDATED) 1)) ∧
     (r.code = 0x12 → r.result = 0 → s.block.quiet = true → Completes .mbxCommandEnd s (fun b => done b 0 [] ∧ b.pwr.replanHold = false ∧
       b.nv.replans = min (2 ^ 64 - 1) (s.block.nv.replans + 1) ∧ b.evtCount Ev.MARGIN_REPLAN_DONE = satAdd64 (s.block.evtCount Ev.MARGIN_REPLAN_DONE) 1 ∧
       (∀ t < 16, ∀ m, 8 ≤ m → m ≤ 28 → b.volt t m = min 90 (s.block.swept r.todo t m)))) ∧
     (r.code = 0x12 → r.result = 0 → s.block.quiet = false →
       let ms := s.block.rdN (.mbx p) (Reg.MBX_ARG 0)
       let bound := msToMclk (if ms = 0 then 10000 else ms)
       (bound ≤ s.block.now - r.startedAt → Completes .mbxCommandEnd s (fun b => done b Ev.MBX_TIMEOUT [] ∧ b.pwr.replanHold = false ∧
         b.nv = s.block.nv)) ∧
       (s.block.now - r.startedAt < bound → exec .mbxCommandEnd s = .next s)) ∧
     (r.code = 0x14 → r.result = 0 → s.block.hbm.farDown = false → r.todo = [] →
       ((∃ v ∈ r.asked, ∃ m ∈ s.block.hbm.moves, m.page = v ∧ m.victimFor = none) → exec .mbxCommandEnd s = .next s) ∧
       ((∀ v ∈ r.asked, ∀ m ∈ s.block.hbm.moves, m.page = v → m.victimFor ≠ none) →
         let inward := s.block.rdN (.mbx p) (Reg.MBX_ARG 0) = 1
         let moved := (r.asked.filter (fun v => (s.block.pte v).valid && decide ((s.block.pte v).resident = true ↔ inward))).length
         Completes .mbxCommandEnd s (fun b => done b 0 [BitVec.ofNat 32 moved,
           BitVec.ofNat 32 (s.block.rdN (.mbx p) (Reg.MBX_ARG 2) - moved)] ∧ b.nv = s.block.nv))))

/-- A logged register write that changes its register makes one entry: the next sequence number, the time, the origin, the offset, OLD and
NEW, and a chain value over the one before it and the entry's bytes; CHANGE_SEQ of the page is its number. In a full log without STRICT
the change is made and counted as dropped (R443, R445, R446, R448). The entry that LOG_RD_SEQ names, written high word last, shows in
LOG_DATA, zeros where none is held; a write of LOG_ACK's high word discards every entry up to the number written, and one of them that
LOG_DATA shows then reads as zeros; a low word is stored alone (R447). What it says beyond those rules is the model's choice: log entry
42. -/
def Obligations.LogIsKeptAndRead : Prop :=
  (∀ (s : State) (o : Origin) (p : Page) (off : Nat) (v : Word) (r : RegDef),
     let new := fieldWrite r p off (s.block.rd p off) v
     let c := Instr.registerWrite o (BitVec.ofNat 26 (addrOf p off)) v
     regAt? p off = some r → off < 4096 → off % 4 = 0 → ownRow p off = false → loggedReg p off = true → s.takes o p off = true →
     s.block.rd p off ≠ new →
     (s.block.log.entries.length < logSize → s.block.log.dropped = 0 → Completes c s (fun b => ∃ e : LogEntry,
       b.log.entries = s.block.log.entries ++ [e] ∧ e.seq = s.block.logHead ∧ e.time = s.block.now ∧ e.origin = o.code ∧
       e.kind = LogKind.regWrite ∧ e.offset = addrOf p off ∧ e.old = (s.block.rd p off).toNat ∧ e.new = new.toNat ∧
       b.log.chain = sm3 (hashBytes s.block.log.chain ++ e.head) ∧ e.chain = b.log.chain.toNat / 2 ^ 128 ∧
       b.rdN p Reg.CHANGE_SEQ = e.seq % 2 ^ 32 ∧ b.rd p off = new ∧ b.rd64 .log Reg.LOG_HEAD = b.logHead % 2 ^ 64)) ∧
     (logSize ≤ s.block.log.entries.length → Completes c s (fun b => b.log.entries = s.block.log.entries ∧
       b.log.dropped = s.block.log.dropped + 1 ∧ b.rd p off = new ∧
       b.rd64 .log Reg.LOG_DROPPED = min (s.block.rd64 .log Reg.LOG_DROPPED + 1) (2 ^ 64 - 1)))) ∧
  (∀ (s : State) (o : Origin) (v : Word),
     (s.takes o .log (Reg.LOG_RD_SEQ + 4) = true →
       let n := s.block.rdN .log Reg.LOG_RD_SEQ + 2 ^ 32 * v.toNat
       Completes (.logRdSeqWrite o true v) s (fun b => b.log = s.block.log ∧ b.mem = s.block.mem ∧
         (∀ e, s.block.log.entries.find? (fun x => x.seq == n) = some e → ∀ i < 16,
           b.rdN .log (Reg.LOG_DATA i) = rdLE e.bytes (4 * i) 4) ∧
         ((∀ e ∈ s.block.log.entries, e.seq ≠ n) → ∀ i < 16, b.rd .log (Reg.LOG_DATA i) = 0))) ∧
     (s.takes o .log (Reg.LOG_ACK + 4) = true →
       let n := s.block.rdN .log Reg.LOG_ACK + 2 ^ 32 * v.toNat
       Completes (.logAckWrite o true v) s (fun b =>
         b.log = { s.block.log with entries := s.block.log.entries.filter (fun e => decide (n < e.seq)) } ∧
         wfield (b.rd .log Reg.LOG_STAT) 30 0 = b.log.entries.length % 2 ^ 31 ∧ b.mem = s.block.mem ∧
         (s.block.rd64 .log (Reg.LOG_DATA 0) ≤ n → ∀ i < 16, b.rd .log (Reg.LOG_DATA i) = 0))) ∧
     (s.takes o .log Reg.LOG_ACK = true → Completes (.logAckWrite o false v) s (fun b => b.log = s.block.log ∧
       b.rd .log Reg.LOG_ACK = v)) ∧
     (s.takes o .log Reg.LOG_RD_SEQ = true → Completes (.logRdSeqWrite o false v) s (fun b => b.log = s.block.log ∧
       b.rd .log Reg.LOG_RD_SEQ = v)))

/-- A private transfer selects a register, whose status and word the next read returns, or writes one as the management side and returns a
status: 0 OK, 3 where the offset names no register word; I3C_REGISTER_WRITE completes for every offset and value, with the effect that
REGISTER_WRITE of MGMT origin has. No transfer is answered without an address (R449, R450, R451). The common commands: addresses are
assigned, changed and given up, in-band interrupts enabled and disabled, the reset action set, and every directed read answers, from a
module whose management block is up; nothing but the bus state changes (R449, R452). The test port: each instruction selects its register;
EXTEST drives the pins and HIGHZ floats them while COLD_RST_N is asserted, and both act as BYPASS otherwise; private instructions act as
BYPASS without TEST_EN. Nothing but the test port changes (R465, R466). -/
def Obligations.BusAndTestPort : Prop :=
  (∀ (s : State) (off : Nat) (v : Word),
     let named := off % 4 = 0 ∧ off < 2 ^ 26
     (s.block.busUp = false → exec (.i3cSelectRead off) s = .next s ∧ exec (.i3cRegisterWrite off v) s = .next s) ∧
     (s.block.busUp = true →
       (named → Completes (.i3cSelectRead off) s (fun b => b.i3c.answer = 0 :: toBytes 4 (s.block.readReg off).1.toNat ∧
         ((∀ u, pageAt? (off / 4096) ≠ some (.sem u)) →
           b = { s.block with i3c := { s.block.i3c with answer := b.i3c.answer }, latch := b.latch }))) ∧
       (¬ named → Completes (.i3cSelectRead off) s (fun b => b = { s.block with i3c := { s.block.i3c with answer := 3 :: toBytes 4 0 } })) ∧
       (¬ named → Completes (.i3cRegisterWrite off v) s (fun b => b = { s.block with i3c := { s.block.i3c with answer := [3] } })) ∧
       (named → ∃ w : Block, exec (.registerWrite .mgmt (BitVec.ofNat 26 off) v) s = .next { s with block := w } ∧
         Completes (.i3cRegisterWrite off v) s (fun b =>
         ∃ st : Byte, b = { w with i3c := { w.i3c with answer := [st] } } ∧
           (∀ p, pageAt? (off / 4096) = some p →
             (originFits .mgmt p = false → st = 2) ∧
             (s.block.writable p (off % 4096) = true → loggedReg p (off % 4096) = true → s.block.locked .mgmt p = true →
               off % 4096 ≠ Reg.LOCK → p ≠ .mbx 0 → p ≠ .mbx 1 → st = 2) ∧
             (originFits .mgmt p = true → off % 4096 ≠ Reg.LOCK → p ≠ .mbx 0 → p ≠ .mbx 1 →
               s.block.locked .mgmt p = false → s.block.strictFull = false → st = 0)))))) ∧
  (∀ (s : State) (a : Nat), s.block.cmbUp = true →
     let i := s.block.i3c
     let only := fun (c : Instr) (j : I3cSt) => Completes c s (fun b => b = { s.block with i3c := j })
     (i.dyn = none → only (.entdaa a) { i with dyn := some (a % 128) } ∧ only (.setdasa a) { i with dyn := some (a % 128) } ∧
       only (.setnewda a) i) ∧
     (i.dyn ≠ none → only (.entdaa a) i ∧ only (.setdasa a) i ∧ only (.setnewda a) { i with dyn := some (a % 128) }) ∧
     only .rstdaa { i with dyn := none } ∧
     only (.enec a) { i with ibiEnable := i.ibiEnable || a.testBit 0 } ∧
     only (.disec a) { i with ibiEnable := i.ibiEnable && !a.testBit 0 } ∧
     only (.rstact a) { i with rstAction := a % 256 } ∧
     (i.dyn ≠ none →
       (∀ c ∈ [Instr.getpid, .getbcr, .getdcr, .getmwl, .getmrl], ∃ l, only c { i with answer := l } ∧
         (c = .getpid → l.length = 6 ∧ l.getD 3 0 = BitVec.ofNat 8 (s.block.rdN .mod Reg.MOD_GRADE))) ∧
       only .getstatus { i with answer := toBytes 1 (b2n i.overflow) ++ toBytes 1 (min 15 i.ibis.length), overflow := false }) ∧
     (i.dyn = none → ∀ c ∈ [Instr.getpid, .getbcr, .getdcr, .getmwl, .getmrl, .getstatus], exec c s = .next s)) ∧
  (∀ (s : State), s.block.boot.run ≠ .off →
     let j := s.block.jtag
     let bypass : JtagSt := { j with instr := .bypass, dataReg := 0, driving := false, floating := false }
     let only := fun (c : Instr) (ok : JtagSt → Prop) => Completes c s (fun b =>
       b = { s.block with jtag := b.jtag, free := b.free } ∧ ok b.jtag)
     only .bypass (fun k => k = bypass) ∧
     (∀ c ∈ [Instr.idcode, .testLogicReset], only c (fun k => k.instr = .idcode ∧ k.driving = false ∧ k.floating = false ∧
       field k.dataReg 31 28 = Config.vendorId 3 % 16 ∧ field k.dataReg 11 1 = Config.vendorId 1 % 2 ^ 11 ∧ k.dataReg % 2 = 1 ∧
       (let grade := s.block.rdN .mod Reg.MOD_GRADE % 256
        (grade = 1 → field k.dataReg 27 12 = 0x4B80) ∧ (grade = 2 → field k.dataReg 27 12 = 0x4B78) ∧
        (grade = 3 → field k.dataReg 27 12 = 0x4B70)))) ∧
     (∀ load : Option Nat, only (.samplePreload load) (fun k => k.instr = .samplePreload ∧ k.boundary = load.getD j.boundary ∧
       k.driving = false ∧ k.floating = false)) ∧
     (s.block.pins.coldRst = true →
       only .extest (fun k => k.instr = .extest ∧ k.driving = true ∧ k.boundary = j.boundary ∧ k.floating = false) ∧
       only .highz (fun k => k.instr = .highz ∧ k.floating = true ∧ k.driving = false)) ∧
     (s.block.pins.coldRst = false → only .extest (fun k => k = bypass) ∧ only .highz (fun k => k = bypass)) ∧
     (∀ code, 0x80 ≤ code → code ≤ 0xFE → s.block.pins.testEn = false → only (.jtagPrivate code) (fun k => k = bypass)) ∧
     (∀ code, 0x80 ≤ code → code ≤ 0xFE → s.block.pins.testEn = true → exec (.jtagPrivate code) s = .refused .jtagPrivate))
end

