-- ==== Sys2Proof/Laws/Bits.lean ====
section
/-! SUPPORT. Bit fields of words: what a field reads after a field was set. -/

namespace Sys2Proof.Machine

open Sys2Proof

theorem withField_testBit (w v i : Nat) {hi lo : Nat} (h : lo ≤ hi) :
    (withField w hi lo v).testBit i = if lo ≤ i ∧ i ≤ hi then v.testBit (i - lo) else w.testBit i := by
  have e1 : w = 2 ^ lo * (2 ^ (hi + 1 - lo) * (w / 2 ^ lo / 2 ^ (hi + 1 - lo)) + w / 2 ^ lo % 2 ^ (hi + 1 - lo)) + w % 2 ^ lo := by
    rw [Nat.div_add_mod, Nat.div_add_mod]
  have e2 : withField w hi lo v
      = 2 ^ lo * (2 ^ (hi + 1 - lo) * (w / 2 ^ lo / 2 ^ (hi + 1 - lo)) + v % 2 ^ (hi + 1 - lo)) + w % 2 ^ lo := by
    unfold withField field
    generalize w / 2 ^ lo / 2 ^ (hi + 1 - lo) = a at *
    generalize w / 2 ^ lo % 2 ^ (hi + 1 - lo) = f at *
    generalize w % 2 ^ lo = l at *
    rw [e1]
    generalize v % 2 ^ (hi + 1 - lo) = x
    generalize 2 ^ (hi + 1 - lo) * a = y
    have : 2 ^ lo * (y + f) + l - f * 2 ^ lo = 2 ^ lo * y + l := by
      rw [Nat.mul_add, Nat.mul_comm f]
      omega
    rw [this, Nat.mul_add, Nat.mul_comm x]
    omega
  rw [e2, Nat.testBit_two_pow_mul_add _ (Nat.mod_lt _ (by positivity)), Nat.testBit_two_pow_mul_add _ (Nat.mod_lt _ (by positivity))]
  have k : w.testBit i = if i < lo then (w % 2 ^ lo).testBit i else if i - lo < hi + 1 - lo then
      (w / 2 ^ lo % 2 ^ (hi + 1 - lo)).testBit (i - lo) else (w / 2 ^ lo / 2 ^ (hi + 1 - lo)).testBit (i - lo - (hi + 1 - lo)) := by
    conv => lhs; rw [e1]
    rw [Nat.testBit_two_pow_mul_add _ (Nat.mod_lt _ (by positivity)), Nat.testBit_two_pow_mul_add _ (Nat.mod_lt _ (by positivity))]
  by_cases h1 : i < lo
  · rw [if_pos h1, if_neg (by omega), k, if_pos h1]
  · by_cases h2 : i ≤ hi
    · rw [if_neg h1, if_pos (by omega), if_pos (by omega), Nat.testBit_mod_two_pow]
      simp
      omega
    · rw [if_neg h1, if_neg (by omega), if_neg (by omega), k, if_neg h1, if_neg (by omega)]

/-- The bits of a word after one of its fields was set. -/
theorem getLsbD_wset (w : Word) (v i : Nat) {hi lo : Nat} (h : lo ≤ hi) :
    (wset w hi lo v).getLsbD i = if i < 32 ∧ lo ≤ i ∧ i ≤ hi then v.testBit (i - lo) else w.getLsbD i := by
  unfold wset
  rw [BitVec.getLsbD_ofNat, withField_testBit _ _ _ h]
  by_cases h1 : i < 32
  · simp [h1, BitVec.getLsbD]
  · simp [h1, BitVec.getLsbD_of_ge w i (Nat.le_of_not_lt h1)]

theorem wfield_testBit (w : Word) (hi lo i : Nat) : (wfield w hi lo).testBit i = (decide (i < hi + 1 - lo) && w.getLsbD (lo + i)) := by
  unfold wfield field
  rw [Nat.testBit_mod_two_pow, Nat.testBit_div_two_pow, BitVec.getLsbD, Nat.add_comm i lo]

/-- A field that was set reads as set. -/
theorem wfield_wset_self (w : Word) (v : Nat) {hi lo : Nat} (h : lo ≤ hi) (h32 : hi < 32) :
    wfield (wset w hi lo v) hi lo = v % 2 ^ (hi + 1 - lo) := by
  refine Nat.eq_of_testBit_eq fun i => ?_
  rw [wfield_testBit, getLsbD_wset _ _ _ h, Nat.testBit_mod_two_pow]
  by_cases hi1 : i < hi + 1 - lo
  · rw [if_pos (by omega)]
    simp
  · simp [hi1]

/-- A field that was not touched reads as before. -/
theorem wfield_wset_other (w : Word) (v : Nat) {hi lo h l : Nat} (hl : lo ≤ hi) (hd : h < lo ∨ hi < l) :
    wfield (wset w hi lo v) h l = wfield w h l := by
  refine Nat.eq_of_testBit_eq fun i => ?_
  rw [wfield_testBit, wfield_testBit, getLsbD_wset _ _ _ hl]
  by_cases hi1 : i < h + 1 - l
  · rw [if_neg (by omega)]
  · simp [hi1]

theorem wbit_wset_other (w : Word) (v i : Nat) {hi lo : Nat} (hl : lo ≤ hi) (hd : i < lo ∨ hi < i) :
    wbit (wset w hi lo v) i = wbit w i := by
  unfold wbit
  rw [getLsbD_wset _ _ _ hl, if_neg (by omega)]

theorem wbit_wsetBit_self (w : Word) (i : Nat) (b : Bool) (h : i < 32) : wbit (wsetBit w i b) i = b := by
  unfold wbit wsetBit
  rw [getLsbD_wset _ _ _ (Nat.le_refl i), if_pos ⟨h, Nat.le_refl i, Nat.le_refl i⟩]
  cases b <;> simp

theorem wbit_wsetBit_other (w : Word) (i j : Nat) (b : Bool) (h : j ≠ i) : wbit (wsetBit w i b) j = wbit w j :=
  wbit_wset_other _ _ _ (Nat.le_refl i) (by omega)

theorem wfield_wsetBit_other (w : Word) (i : Nat) (b : Bool) {h l : Nat} (hd : h < i ∨ i < l) :
    wfield (wsetBit w i b) h l = wfield w h l := wfield_wset_other _ _ (Nat.le_refl i) hd

end Sys2Proof.Machine
end

