-- ==== Sys2Proof/Laws/Sparse.lean ====
section
/-! SUPPORT. Sparse maps: a key reads what was put there, every other key reads as before, and every operation keeps the
canonical form. -/

namespace Sys2Proof.Machine.Sparse

variable {ν : Type} (d : Nat → ν)

@[simp] theorem get_nil (k : Nat) : get d [] k = d k := rfl

@[simp] theorem get_cons (p : Nat × ν) (r : Sparse ν) (k : Nat) :
    get d (p :: r) k = if p.1 = k then p.2 else get d r k := rfl

theorem get_filter (q : Nat → Bool) (m : Sparse ν) (j : Nat) :
    get d (m.filter (fun e => q e.1)) j = if q j then get d m j else d j := by
  induction m with
  | nil => simp
  | cons p r ih =>
    by_cases hp : q p.1 <;> by_cases hj : p.1 = j
    · subst hj; simp [hp]
    · simp [hp, hj, ih]
    · subst hj; simp [hp, ih]
    · simp [hp, hj, ih]

@[simp] theorem get_erase (k : Nat) (m : Sparse ν) (j : Nat) :
    get d (erase k m) j = if j = k then d j else get d m j := by
  rw [erase, get_filter (q := fun i => i != k)]
  by_cases h : j = k <;> simp [h]

theorem get_insert_other {k j : Nat} (v : ν) (m : Sparse ν) (h : j ≠ k) : get d (insert k v m) j = get d m j := by
  induction m with
  | nil => simp [insert, h.symm]
  | cons p r ih =>
    unfold insert
    split
    · simp [h.symm]
    · simp [ih]

theorem get_insert_self {k : Nat} (v : ν) (m : Sparse ν) (h : ∀ p ∈ m, p.1 ≠ k) : get d (insert k v m) k = v := by
  induction m with
  | nil => simp [insert]
  | cons p r ih =>
    unfold insert
    split
    · simp
    · have hp := h p (by simp)
      simp only [get_cons, hp, if_false]
      exact ih (fun q hq => h q (by simp [hq]))

theorem not_mem_erase (k : Nat) (m : Sparse ν) : ∀ p ∈ erase k m, p.1 ≠ k := by
  intro p hp
  simp only [erase, List.mem_filter, bne_iff_ne] at hp
  exact hp.2

variable [DecidableEq ν]

/-- A key that was set reads as what was set. -/
@[simp] theorem get_put_self (m : Sparse ν) (k : Nat) (v : ν) : get d (put d m k v) k = v := by
  unfold put
  split
  · next h => simp [h]
  · exact get_insert_self d v _ (not_mem_erase k m)

/-- Setting one key leaves every other. -/
theorem get_put_other (m : Sparse ν) {k j : Nat} (v : ν) (h : j ≠ k) : get d (put d m k v) j = get d m j := by
  unfold put
  split
  · simp [h]
  · rw [get_insert_other d v _ h]; simp [h]

/-- Both at once. -/
theorem get_put (m : Sparse ν) (k j : Nat) (v : ν) : get d (put d m k v) j = if j = k then v else get d m j := by
  by_cases h : j = k
  · subst h; simp
  · simp [h, get_put_other d m v h]

omit [DecidableEq ν] in
/-- A cleared key reads as its default, every other as before. -/
theorem get_clear (q : Nat → Bool) (m : Sparse ν) (j : Nat) : get d (clear q m) j = if q j then d j else get d m j := by
  rw [clear, get_filter (q := fun i => !q i)]
  by_cases h : q j <;> simp [h]

/-- A list of values put from a key on: each key of the range reads its value, every other as before. -/
theorem get_putList (l : List ν) (m : Sparse ν) (k j : Nat) :
    get d (putList d m k l) j = if k ≤ j then l.getD (j - k) (get d m j) else get d m j := by
  induction l generalizing m k with
  | nil => simp [putList]
  | cons v r ih =>
    rw [putList, ih, get_put]
    by_cases h : j = k
    · subst h; simp
    · by_cases hk : k ≤ j
      · have : j - k = (j - (k + 1)) + 1 := by omega
        simp [h, hk, show k + 1 ≤ j by omega, this]
      · simp [h, hk, show ¬ k + 1 ≤ j by omega]

/-! ## The canonical form -/

theorem wf_iff (m : Sparse ν) : wf d m = true ↔ m.Pairwise (fun a b => a.1 < b.1) ∧ ∀ e ∈ m, e.2 ≠ d e.1 := by
  simp [wf]

@[simp] theorem wf_nil : wf d ([] : Sparse ν) = true := by simp [wf]

theorem wf_filter (q : Nat × ν → Bool) (m : Sparse ν) (h : wf d m = true) : wf d (m.filter q) = true := by
  rw [wf_iff] at *
  exact ⟨h.1.filter q, fun e he => h.2 e (List.mem_filter.1 he).1⟩

omit [DecidableEq ν] in
theorem mem_insert (k : Nat) (v : ν) (m : Sparse ν) (e : Nat × ν) : e ∈ insert k v m ↔ e = (k, v) ∨ e ∈ m := by
  induction m with
  | nil => simp [insert]
  | cons p r ih =>
    unfold insert
    split
    · simp
    · simp [ih, or_left_comm]

omit [DecidableEq ν] in
theorem pairwise_insert (k : Nat) (v : ν) (m : Sparse ν) (hm : m.Pairwise (fun a b => a.1 < b.1))
    (hk : ∀ p ∈ m, p.1 ≠ k) : (insert k v m).Pairwise (fun a b => a.1 < b.1) := by
  induction m with
  | nil => simp [insert]
  | cons p r ih =>
    rw [List.pairwise_cons] at hm
    unfold insert
    split
    · next h =>
      refine List.pairwise_cons.2 ⟨?_, List.pairwise_cons.2 hm⟩
      intro e he
      rcases List.mem_cons.1 he with rfl | he
      · exact h
      · exact Nat.lt_trans h (hm.1 e he)
    · next h =>
      refine List.pairwise_cons.2 ⟨?_, ih hm.2 (fun q hq => hk q (by simp [hq]))⟩
      intro e he
      rcases (mem_insert k v r e).1 he with rfl | he
      · have := hk p (by simp)
        show p.1 < k
        omega
      · exact hm.1 e he

/-- Setting a key keeps the canonical form. -/
theorem wf_put (m : Sparse ν) (k : Nat) (v : ν) (h : wf d m = true) : wf d (put d m k v) = true := by
  have he : wf d (erase k m) = true := wf_filter d _ m h
  unfold put
  split
  · exact he
  · next hv =>
    rw [wf_iff] at *
    refine ⟨pairwise_insert k v _ he.1 (not_mem_erase k m), ?_⟩
    intro e hm
    rcases (mem_insert k v _ e).1 hm with rfl | hm
    · exact hv
    · exact he.2 e hm

/-- Clearing keys keeps the canonical form. -/
theorem wf_clear (q : Nat → Bool) (m : Sparse ν) (h : wf d m = true) : wf d (clear q m) = true := wf_filter d _ m h

/-- Setting a run of keys keeps the canonical form. -/
theorem wf_putList (l : List ν) (m : Sparse ν) (k : Nat) (h : wf d m = true) : wf d (putList d m k l) = true := by
  induction l generalizing m k with
  | nil => exact h
  | cons v r ih => exact ih _ _ (wf_put d m k v h)

/-- Copying a run of keys keeps the canonical form. -/
theorem wf_copyRange (m : Sparse ν) (src dst n : Nat) (h : wf d m = true) : wf d (copyRange d m src dst n) = true := by
  have step : ∀ (l : List (Nat × ν)) (a : Sparse ν), wf d a = true →
      wf d (l.foldl (fun a e => put d a (e.1 - src + dst) e.2) a) = true := by
    intro l
    induction l with
    | nil => exact fun a ha => ha
    | cons e r ih => exact fun a ha => ih _ (wf_put d a _ _ ha)
  exact step _ _ (wf_clear d _ m h)

end Sys2Proof.Machine.Sparse
end

