-- ==== Sys2Proof/Laws/State.lean ====
section
/-! SUPPORT. What each update of the module leaves alone: one lemma per field and update, and what the field written reads as. -/

namespace Sys2Proof.Machine

open Sys2Proof

variable (b : Block)

@[simp] theorem Block.setReg_mem (k : Nat) (v : Word) : (b.setReg k v).mem = b.mem := rfl
@[simp] theorem Block.setReg_poison (k : Nat) (v : Word) : (b.setReg k v).poison = b.poison := rfl
@[simp] theorem Block.setReg_evt (k : Nat) (v : Word) : (b.setReg k v).evt = b.evt := rfl
@[simp] theorem Block.setReg_log (k : Nat) (v : Word) : (b.setReg k v).log = b.log := rfl
@[simp] theorem Block.setReg_host (k : Nat) (v : Word) : (b.setReg k v).host = b.host := rfl
@[simp] theorem Block.setReg_i3c (k : Nat) (v : Word) : (b.setReg k v).i3c = b.i3c := rfl
@[simp] theorem Block.setReg_jtag (k : Nat) (v : Word) : (b.setReg k v).jtag = b.jtag := rfl
@[simp] theorem Block.setReg_mbx (k : Nat) (v : Word) : (b.setReg k v).mbx = b.mbx := rfl
@[simp] theorem Block.setReg_boot (k : Nat) (v : Word) : (b.setReg k v).boot = b.boot := rfl
@[simp] theorem Block.setReg_pins (k : Nat) (v : Word) : (b.setReg k v).pins = b.pins := rfl
@[simp] theorem Block.setReg_net (k : Nat) (v : Word) : (b.setReg k v).net = b.net := rfl
@[simp] theorem Block.setReg_pwr (k : Nat) (v : Word) : (b.setReg k v).pwr = b.pwr := rfl
@[simp] theorem Block.setReg_units (k : Nat) (v : Word) : (b.setReg k v).units = b.units := rfl
@[simp] theorem Block.setReg_tiles (k : Nat) (v : Word) : (b.setReg k v).tiles = b.tiles := rfl
@[simp] theorem Block.setReg_cores (k : Nat) (v : Word) : (b.setReg k v).cores = b.cores := rfl
@[simp] theorem Block.setReg_hbm (k : Nat) (v : Word) : (b.setReg k v).hbm = b.hbm := rfl
@[simp] theorem Block.setReg_stks (k : Nat) (v : Word) : (b.setReg k v).stks = b.stks := rfl
@[simp] theorem Block.setReg_shm (k : Nat) (v : Word) : (b.setReg k v).shm = b.shm := rfl
@[simp] theorem Block.setReg_exd (k : Nat) (v : Word) : (b.setReg k v).exd = b.exd := rfl
@[simp] theorem Block.setReg_azn (k : Nat) (v : Word) : (b.setReg k v).azn = b.azn := rfl
@[simp] theorem Block.setReg_lly (k : Nat) (v : Word) : (b.setReg k v).lly = b.lly := rfl
@[simp] theorem Block.setReg_pel (k : Nat) (v : Word) : (b.setReg k v).pel = b.pel := rfl
@[simp] theorem Block.setReg_col (k : Nat) (v : Word) : (b.setReg k v).col = b.col := rfl
@[simp] theorem Block.setReg_nv (k : Nat) (v : Word) : (b.setReg k v).nv = b.nv := rfl
@[simp] theorem Block.setReg_latch (k : Nat) (v : Word) : (b.setReg k v).latch = b.latch := rfl
@[simp] theorem Block.setReg_winFree (k : Nat) (v : Word) : (b.setReg k v).winFree = b.winFree := rfl
@[simp] theorem Block.setReg_slabFree (k : Nat) (v : Word) : (b.setReg k v).slabFree = b.slabFree := rfl
@[simp] theorem Block.setReg_idleRem (k : Nat) (v : Word) : (b.setReg k v).idleRem = b.idleRem := rfl
@[simp] theorem Block.setReg_owed (k : Nat) (v : Word) : (b.setReg k v).owed = b.owed := rfl
@[simp] theorem Block.setReg_lens (k : Nat) (v : Word) : (b.setReg k v).lens = b.lens := rfl
@[simp] theorem Block.setReg_posted (k : Nat) (v : Word) : (b.setReg k v).posted = b.posted := rfl
@[simp] theorem Block.setReg_free (k : Nat) (v : Word) : (b.setReg k v).free = b.free := rfl
@[simp] theorem Block.setReg_serial (k : Nat) (v : Word) : (b.setReg k v).serial = b.serial := rfl

@[simp] theorem Block.wr_mem (p : Page) (o : Nat) (v : Word) : (b.wr p o v).mem = b.mem := rfl
@[simp] theorem Block.wr_poison (p : Page) (o : Nat) (v : Word) : (b.wr p o v).poison = b.poison := rfl
@[simp] theorem Block.wr_evt (p : Page) (o : Nat) (v : Word) : (b.wr p o v).evt = b.evt := rfl
@[simp] theorem Block.wr_log (p : Page) (o : Nat) (v : Word) : (b.wr p o v).log = b.log := rfl
@[simp] theorem Block.wr_host (p : Page) (o : Nat) (v : Word) : (b.wr p o v).host = b.host := rfl
@[simp] theorem Block.wr_i3c (p : Page) (o : Nat) (v : Word) : (b.wr p o v).i3c = b.i3c := rfl
@[simp] theorem Block.wr_jtag (p : Page) (o : Nat) (v : Word) : (b.wr p o v).jtag = b.jtag := rfl
@[simp] theorem Block.wr_mbx (p : Page) (o : Nat) (v : Word) : (b.wr p o v).mbx = b.mbx := rfl
@[simp] theorem Block.wr_boot (p : Page) (o : Nat) (v : Word) : (b.wr p o v).boot = b.boot := rfl
@[simp] theorem Block.wr_pins (p : Page) (o : Nat) (v : Word) : (b.wr p o v).pins = b.pins := rfl
@[simp] theorem Block.wr_net (p : Page) (o : Nat) (v : Word) : (b.wr p o v).net = b.net := rfl
@[simp] theorem Block.wr_pwr (p : Page) (o : Nat) (v : Word) : (b.wr p o v).pwr = b.pwr := rfl
@[simp] theorem Block.wr_units (p : Page) (o : Nat) (v : Word) : (b.wr p o v).units = b.units := rfl
@[simp] theorem Block.wr_tiles (p : Page) (o : Nat) (v : Word) : (b.wr p o v).tiles = b.tiles := rfl
@[simp] theorem Block.wr_cores (p : Page) (o : Nat) (v : Word) : (b.wr p o v).cores = b.cores := rfl
@[simp] theorem Block.wr_hbm (p : Page) (o : Nat) (v : Word) : (b.wr p o v).hbm = b.hbm := rfl
@[simp] theorem Block.wr_stks (p : Page) (o : Nat) (v : Word) : (b.wr p o v).stks = b.stks := rfl
@[simp] theorem Block.wr_shm (p : Page) (o : Nat) (v : Word) : (b.wr p o v).shm = b.shm := rfl
@[simp] theorem Block.wr_exd (p : Page) (o : Nat) (v : Word) : (b.wr p o v).exd = b.exd := rfl
@[simp] theorem Block.wr_azn (p : Page) (o : Nat) (v : Word) : (b.wr p o v).azn = b.azn := rfl
@[simp] theorem Block.wr_lly (p : Page) (o : Nat) (v : Word) : (b.wr p o v).lly = b.lly := rfl
@[simp] theorem Block.wr_pel (p : Page) (o : Nat) (v : Word) : (b.wr p o v).pel = b.pel := rfl
@[simp] theorem Block.wr_col (p : Page) (o : Nat) (v : Word) : (b.wr p o v).col = b.col := rfl
@[simp] theorem Block.wr_nv (p : Page) (o : Nat) (v : Word) : (b.wr p o v).nv = b.nv := rfl
@[simp] theorem Block.wr_latch (p : Page) (o : Nat) (v : Word) : (b.wr p o v).latch = b.latch := rfl
@[simp] theorem Block.wr_winFree (p : Page) (o : Nat) (v : Word) : (b.wr p o v).winFree = b.winFree := rfl
@[simp] theorem Block.wr_slabFree (p : Page) (o : Nat) (v : Word) : (b.wr p o v).slabFree = b.slabFree := rfl
@[simp] theorem Block.wr_idleRem (p : Page) (o : Nat) (v : Word) : (b.wr p o v).idleRem = b.idleRem := rfl
@[simp] theorem Block.wr_owed (p : Page) (o : Nat) (v : Word) : (b.wr p o v).owed = b.owed := rfl
@[simp] theorem Block.wr_lens (p : Page) (o : Nat) (v : Word) : (b.wr p o v).lens = b.lens := rfl
@[simp] theorem Block.wr_posted (p : Page) (o : Nat) (v : Word) : (b.wr p o v).posted = b.posted := rfl
@[simp] theorem Block.wr_free (p : Page) (o : Nat) (v : Word) : (b.wr p o v).free = b.free := rfl
@[simp] theorem Block.wr_serial (p : Page) (o : Nat) (v : Word) : (b.wr p o v).serial = b.serial := rfl

@[simp] theorem Block.wrN_mem (p : Page) (o v : Nat) : (b.wrN p o v).mem = b.mem := rfl
@[simp] theorem Block.wrN_poison (p : Page) (o v : Nat) : (b.wrN p o v).poison = b.poison := rfl
@[simp] theorem Block.wrN_evt (p : Page) (o v : Nat) : (b.wrN p o v).evt = b.evt := rfl
@[simp] theorem Block.wrN_log (p : Page) (o v : Nat) : (b.wrN p o v).log = b.log := rfl
@[simp] theorem Block.wrN_host (p : Page) (o v : Nat) : (b.wrN p o v).host = b.host := rfl
@[simp] theorem Block.wrN_i3c (p : Page) (o v : Nat) : (b.wrN p o v).i3c = b.i3c := rfl
@[simp] theorem Block.wrN_jtag (p : Page) (o v : Nat) : (b.wrN p o v).jtag = b.jtag := rfl
@[simp] theorem Block.wrN_mbx (p : Page) (o v : Nat) : (b.wrN p o v).mbx = b.mbx := rfl
@[simp] theorem Block.wrN_boot (p : Page) (o v : Nat) : (b.wrN p o v).boot = b.boot := rfl
@[simp] theorem Block.wrN_pins (p : Page) (o v : Nat) : (b.wrN p o v).pins = b.pins := rfl
@[simp] theorem Block.wrN_net (p : Page) (o v : Nat) : (b.wrN p o v).net = b.net := rfl
@[simp] theorem Block.wrN_pwr (p : Page) (o v : Nat) : (b.wrN p o v).pwr = b.pwr := rfl
@[simp] theorem Block.wrN_units (p : Page) (o v : Nat) : (b.wrN p o v).units = b.units := rfl
@[simp] theorem Block.wrN_tiles (p : Page) (o v : Nat) : (b.wrN p o v).tiles = b.tiles := rfl
@[simp] theorem Block.wrN_cores (p : Page) (o v : Nat) : (b.wrN p o v).cores = b.cores := rfl
@[simp] theorem Block.wrN_hbm (p : Page) (o v : Nat) : (b.wrN p o v).hbm = b.hbm := rfl
@[simp] theorem Block.wrN_stks (p : Page) (o v : Nat) : (b.wrN p o v).stks = b.stks := rfl
@[simp] theorem Block.wrN_shm (p : Page) (o v : Nat) : (b.wrN p o v).shm = b.shm := rfl
@[simp] theorem Block.wrN_exd (p : Page) (o v : Nat) : (b.wrN p o v).exd = b.exd := rfl
@[simp] theorem Block.wrN_azn (p : Page) (o v : Nat) : (b.wrN p o v).azn = b.azn := rfl
@[simp] theorem Block.wrN_lly (p : Page) (o v : Nat) : (b.wrN p o v).lly = b.lly := rfl
@[simp] theorem Block.wrN_pel (p : Page) (o v : Nat) : (b.wrN p o v).pel = b.pel := rfl
@[simp] theorem Block.wrN_col (p : Page) (o v : Nat) : (b.wrN p o v).col = b.col := rfl
@[simp] theorem Block.wrN_nv (p : Page) (o v : Nat) : (b.wrN p o v).nv = b.nv := rfl
@[simp] theorem Block.wrN_latch (p : Page) (o v : Nat) : (b.wrN p o v).latch = b.latch := rfl
@[simp] theorem Block.wrN_winFree (p : Page) (o v : Nat) : (b.wrN p o v).winFree = b.winFree := rfl
@[simp] theorem Block.wrN_slabFree (p : Page) (o v : Nat) : (b.wrN p o v).slabFree = b.slabFree := rfl
@[simp] theorem Block.wrN_idleRem (p : Page) (o v : Nat) : (b.wrN p o v).idleRem = b.idleRem := rfl
@[simp] theorem Block.wrN_owed (p : Page) (o v : Nat) : (b.wrN p o v).owed = b.owed := rfl
@[simp] theorem Block.wrN_lens (p : Page) (o v : Nat) : (b.wrN p o v).lens = b.lens := rfl
@[simp] theorem Block.wrN_posted (p : Page) (o v : Nat) : (b.wrN p o v).posted = b.posted := rfl
@[simp] theorem Block.wrN_free (p : Page) (o v : Nat) : (b.wrN p o v).free = b.free := rfl
@[simp] theorem Block.wrN_serial (p : Page) (o v : Nat) : (b.wrN p o v).serial = b.serial := rfl

@[simp] theorem Block.wrField_mem (p : Page) (o hi lo v : Nat) : (b.wrField p o hi lo v).mem = b.mem := rfl
@[simp] theorem Block.wrField_poison (p : Page) (o hi lo v : Nat) : (b.wrField p o hi lo v).poison = b.poison := rfl
@[simp] theorem Block.wrField_evt (p : Page) (o hi lo v : Nat) : (b.wrField p o hi lo v).evt = b.evt := rfl
@[simp] theorem Block.wrField_log (p : Page) (o hi lo v : Nat) : (b.wrField p o hi lo v).log = b.log := rfl
@[simp] theorem Block.wrField_host (p : Page) (o hi lo v : Nat) : (b.wrField p o hi lo v).host = b.host := rfl
@[simp] theorem Block.wrField_i3c (p : Page) (o hi lo v : Nat) : (b.wrField p o hi lo v).i3c = b.i3c := rfl
@[simp] theorem Block.wrField_jtag (p : Page) (o hi lo v : Nat) : (b.wrField p o hi lo v).jtag = b.jtag := rfl
@[simp] theorem Block.wrField_mbx (p : Page) (o hi lo v : Nat) : (b.wrField p o hi lo v).mbx = b.mbx := rfl
@[simp] theorem Block.wrField_boot (p : Page) (o hi lo v : Nat) : (b.wrField p o hi lo v).boot = b.boot := rfl
@[simp] theorem Block.wrField_pins (p : Page) (o hi lo v : Nat) : (b.wrField p o hi lo v).pins = b.pins := rfl
@[simp] theorem Block.wrField_net (p : Page) (o hi lo v : Nat) : (b.wrField p o hi lo v).net = b.net := rfl
@[simp] theorem Block.wrField_pwr (p : Page) (o hi lo v : Nat) : (b.wrField p o hi lo v).pwr = b.pwr := rfl
@[simp] theorem Block.wrField_units (p : Page) (o hi lo v : Nat) : (b.wrField p o hi lo v).units = b.units := rfl
@[simp] theorem Block.wrField_tiles (p : Page) (o hi lo v : Nat) : (b.wrField p o hi lo v).tiles = b.tiles := rfl
@[simp] theorem Block.wrField_cores (p : Page) (o hi lo v : Nat) : (b.wrField p o hi lo v).cores = b.cores := rfl
@[simp] theorem Block.wrField_hbm (p : Page) (o hi lo v : Nat) : (b.wrField p o hi lo v).hbm = b.hbm := rfl
@[simp] theorem Block.wrField_stks (p : Page) (o hi lo v : Nat) : (b.wrField p o hi lo v).stks = b.stks := rfl
@[simp] theorem Block.wrField_shm (p : Page) (o hi lo v : Nat) : (b.wrField p o hi lo v).shm = b.shm := rfl
@[simp] theorem Block.wrField_exd (p : Page) (o hi lo v : Nat) : (b.wrField p o hi lo v).exd = b.exd := rfl
@[simp] theorem Block.wrField_azn (p : Page) (o hi lo v : Nat) : (b.wrField p o hi lo v).azn = b.azn := rfl
@[simp] theorem Block.wrField_lly (p : Page) (o hi lo v : Nat) : (b.wrField p o hi lo v).lly = b.lly := rfl
@[simp] theorem Block.wrField_pel (p : Page) (o hi lo v : Nat) : (b.wrField p o hi lo v).pel = b.pel := rfl
@[simp] theorem Block.wrField_col (p : Page) (o hi lo v : Nat) : (b.wrField p o hi lo v).col = b.col := rfl
@[simp] theorem Block.wrField_nv (p : Page) (o hi lo v : Nat) : (b.wrField p o hi lo v).nv = b.nv := rfl
@[simp] theorem Block.wrField_latch (p : Page) (o hi lo v : Nat) : (b.wrField p o hi lo v).latch = b.latch := rfl
@[simp] theorem Block.wrField_winFree (p : Page) (o hi lo v : Nat) : (b.wrField p o hi lo v).winFree = b.winFree := rfl
@[simp] theorem Block.wrField_slabFree (p : Page) (o hi lo v : Nat) : (b.wrField p o hi lo v).slabFree = b.slabFree := rfl
@[simp] theorem Block.wrField_idleRem (p : Page) (o hi lo v : Nat) : (b.wrField p o hi lo v).idleRem = b.idleRem := rfl
@[simp] theorem Block.wrField_owed (p : Page) (o hi lo v : Nat) : (b.wrField p o hi lo v).owed = b.owed := rfl
@[simp] theorem Block.wrField_lens (p : Page) (o hi lo v : Nat) : (b.wrField p o hi lo v).lens = b.lens := rfl
@[simp] theorem Block.wrField_posted (p : Page) (o hi lo v : Nat) : (b.wrField p o hi lo v).posted = b.posted := rfl
@[simp] theorem Block.wrField_free (p : Page) (o hi lo v : Nat) : (b.wrField p o hi lo v).free = b.free := rfl
@[simp] theorem Block.wrField_serial (p : Page) (o hi lo v : Nat) : (b.wrField p o hi lo v).serial = b.serial := rfl

@[simp] theorem Block.wrBit_mem (p : Page) (o i : Nat) (v : Bool) : (b.wrBit p o i v).mem = b.mem := rfl
@[simp] theorem Block.wrBit_poison (p : Page) (o i : Nat) (v : Bool) : (b.wrBit p o i v).poison = b.poison := rfl
@[simp] theorem Block.wrBit_evt (p : Page) (o i : Nat) (v : Bool) : (b.wrBit p o i v).evt = b.evt := rfl
@[simp] theorem Block.wrBit_log (p : Page) (o i : Nat) (v : Bool) : (b.wrBit p o i v).log = b.log := rfl
@[simp] theorem Block.wrBit_host (p : Page) (o i : Nat) (v : Bool) : (b.wrBit p o i v).host = b.host := rfl
@[simp] theorem Block.wrBit_i3c (p : Page) (o i : Nat) (v : Bool) : (b.wrBit p o i v).i3c = b.i3c := rfl
@[simp] theorem Block.wrBit_jtag (p : Page) (o i : Nat) (v : Bool) : (b.wrBit p o i v).jtag = b.jtag := rfl
@[simp] theorem Block.wrBit_mbx (p : Page) (o i : Nat) (v : Bool) : (b.wrBit p o i v).mbx = b.mbx := rfl
@[simp] theorem Block.wrBit_boot (p : Page) (o i : Nat) (v : Bool) : (b.wrBit p o i v).boot = b.boot := rfl
@[simp] theorem Block.wrBit_pins (p : Page) (o i : Nat) (v : Bool) : (b.wrBit p o i v).pins = b.pins := rfl
@[simp] theorem Block.wrBit_net (p : Page) (o i : Nat) (v : Bool) : (b.wrBit p o i v).net = b.net := rfl
@[simp] theorem Block.wrBit_pwr (p : Page) (o i : Nat) (v : Bool) : (b.wrBit p o i v).pwr = b.pwr := rfl
@[simp] theorem Block.wrBit_units (p : Page) (o i : Nat) (v : Bool) : (b.wrBit p o i v).units = b.units := rfl
@[simp] theorem Block.wrBit_tiles (p : Page) (o i : Nat) (v : Bool) : (b.wrBit p o i v).tiles = b.tiles := rfl
@[simp] theorem Block.wrBit_cores (p : Page) (o i : Nat) (v : Bool) : (b.wrBit p o i v).cores = b.cores := rfl
@[simp] theorem Block.wrBit_hbm (p : Page) (o i : Nat) (v : Bool) : (b.wrBit p o i v).hbm = b.hbm := rfl
@[simp] theorem Block.wrBit_stks (p : Page) (o i : Nat) (v : Bool) : (b.wrBit p o i v).stks = b.stks := rfl
@[simp] theorem Block.wrBit_shm (p : Page) (o i : Nat) (v : Bool) : (b.wrBit p o i v).shm = b.shm := rfl
@[simp] theorem Block.wrBit_exd (p : Page) (o i : Nat) (v : Bool) : (b.wrBit p o i v).exd = b.exd := rfl
@[simp] theorem Block.wrBit_azn (p : Page) (o i : Nat) (v : Bool) : (b.wrBit p o i v).azn = b.azn := rfl
@[simp] theorem Block.wrBit_lly (p : Page) (o i : Nat) (v : Bool) : (b.wrBit p o i v).lly = b.lly := rfl
@[simp] theorem Block.wrBit_pel (p : Page) (o i : Nat) (v : Bool) : (b.wrBit p o i v).pel = b.pel := rfl
@[simp] theorem Block.wrBit_col (p : Page) (o i : Nat) (v : Bool) : (b.wrBit p o i v).col = b.col := rfl
@[simp] theorem Block.wrBit_nv (p : Page) (o i : Nat) (v : Bool) : (b.wrBit p o i v).nv = b.nv := rfl
@[simp] theorem Block.wrBit_latch (p : Page) (o i : Nat) (v : Bool) : (b.wrBit p o i v).latch = b.latch := rfl
@[simp] theorem Block.wrBit_winFree (p : Page) (o i : Nat) (v : Bool) : (b.wrBit p o i v).winFree = b.winFree := rfl
@[simp] theorem Block.wrBit_slabFree (p : Page) (o i : Nat) (v : Bool) : (b.wrBit p o i v).slabFree = b.slabFree := rfl
@[simp] theorem Block.wrBit_idleRem (p : Page) (o i : Nat) (v : Bool) : (b.wrBit p o i v).idleRem = b.idleRem := rfl
@[simp] theorem Block.wrBit_owed (p : Page) (o i : Nat) (v : Bool) : (b.wrBit p o i v).owed = b.owed := rfl
@[simp] theorem Block.wrBit_lens (p : Page) (o i : Nat) (v : Bool) : (b.wrBit p o i v).lens = b.lens := rfl
@[simp] theorem Block.wrBit_posted (p : Page) (o i : Nat) (v : Bool) : (b.wrBit p o i v).posted = b.posted := rfl
@[simp] theorem Block.wrBit_free (p : Page) (o i : Nat) (v : Bool) : (b.wrBit p o i v).free = b.free := rfl
@[simp] theorem Block.wrBit_serial (p : Page) (o i : Nat) (v : Bool) : (b.wrBit p o i v).serial = b.serial := rfl

@[simp] theorem Block.wr64_mem (p : Page) (o v : Nat) : (b.wr64 p o v).mem = b.mem := rfl
@[simp] theorem Block.wr64_poison (p : Page) (o v : Nat) : (b.wr64 p o v).poison = b.poison := rfl
@[simp] theorem Block.wr64_evt (p : Page) (o v : Nat) : (b.wr64 p o v).evt = b.evt := rfl
@[simp] theorem Block.wr64_log (p : Page) (o v : Nat) : (b.wr64 p o v).log = b.log := rfl
@[simp] theorem Block.wr64_host (p : Page) (o v : Nat) : (b.wr64 p o v).host = b.host := rfl
@[simp] theorem Block.wr64_i3c (p : Page) (o v : Nat) : (b.wr64 p o v).i3c = b.i3c := rfl
@[simp] theorem Block.wr64_jtag (p : Page) (o v : Nat) : (b.wr64 p o v).jtag = b.jtag := rfl
@[simp] theorem Block.wr64_mbx (p : Page) (o v : Nat) : (b.wr64 p o v).mbx = b.mbx := rfl
@[simp] theorem Block.wr64_boot (p : Page) (o v : Nat) : (b.wr64 p o v).boot = b.boot := rfl
@[simp] theorem Block.wr64_pins (p : Page) (o v : Nat) : (b.wr64 p o v).pins = b.pins := rfl
@[simp] theorem Block.wr64_net (p : Page) (o v : Nat) : (b.wr64 p o v).net = b.net := rfl
@[simp] theorem Block.wr64_pwr (p : Page) (o v : Nat) : (b.wr64 p o v).pwr = b.pwr := rfl
@[simp] theorem Block.wr64_units (p : Page) (o v : Nat) : (b.wr64 p o v).units = b.units := rfl
@[simp] theorem Block.wr64_tiles (p : Page) (o v : Nat) : (b.wr64 p o v).tiles = b.tiles := rfl
@[simp] theorem Block.wr64_cores (p : Page) (o v : Nat) : (b.wr64 p o v).cores = b.cores := rfl
@[simp] theorem Block.wr64_hbm (p : Page) (o v : Nat) : (b.wr64 p o v).hbm = b.hbm := rfl
@[simp] theorem Block.wr64_stks (p : Page) (o v : Nat) : (b.wr64 p o v).stks = b.stks := rfl
@[simp] theorem Block.wr64_shm (p : Page) (o v : Nat) : (b.wr64 p o v).shm = b.shm := rfl
@[simp] theorem Block.wr64_exd (p : Page) (o v : Nat) : (b.wr64 p o v).exd = b.exd := rfl
@[simp] theorem Block.wr64_azn (p : Page) (o v : Nat) : (b.wr64 p o v).azn = b.azn := rfl
@[simp] theorem Block.wr64_lly (p : Page) (o v : Nat) : (b.wr64 p o v).lly = b.lly := rfl
@[simp] theorem Block.wr64_pel (p : Page) (o v : Nat) : (b.wr64 p o v).pel = b.pel := rfl
@[simp] theorem Block.wr64_col (p : Page) (o v : Nat) : (b.wr64 p o v).col = b.col := rfl
@[simp] theorem Block.wr64_nv (p : Page) (o v : Nat) : (b.wr64 p o v).nv = b.nv := rfl
@[simp] theorem Block.wr64_latch (p : Page) (o v : Nat) : (b.wr64 p o v).latch = b.latch := rfl
@[simp] theorem Block.wr64_winFree (p : Page) (o v : Nat) : (b.wr64 p o v).winFree = b.winFree := rfl
@[simp] theorem Block.wr64_slabFree (p : Page) (o v : Nat) : (b.wr64 p o v).slabFree = b.slabFree := rfl
@[simp] theorem Block.wr64_idleRem (p : Page) (o v : Nat) : (b.wr64 p o v).idleRem = b.idleRem := rfl
@[simp] theorem Block.wr64_owed (p : Page) (o v : Nat) : (b.wr64 p o v).owed = b.owed := rfl
@[simp] theorem Block.wr64_lens (p : Page) (o v : Nat) : (b.wr64 p o v).lens = b.lens := rfl
@[simp] theorem Block.wr64_posted (p : Page) (o v : Nat) : (b.wr64 p o v).posted = b.posted := rfl
@[simp] theorem Block.wr64_free (p : Page) (o v : Nat) : (b.wr64 p o v).free = b.free := rfl
@[simp] theorem Block.wr64_serial (p : Page) (o v : Nat) : (b.wr64 p o v).serial = b.serial := rfl

@[simp] theorem Block.count_mem (p : Page) (o n : Nat) : (b.count p o n).mem = b.mem := rfl
@[simp] theorem Block.count_poison (p : Page) (o n : Nat) : (b.count p o n).poison = b.poison := rfl
@[simp] theorem Block.count_evt (p : Page) (o n : Nat) : (b.count p o n).evt = b.evt := rfl
@[simp] theorem Block.count_log (p : Page) (o n : Nat) : (b.count p o n).log = b.log := rfl
@[simp] theorem Block.count_host (p : Page) (o n : Nat) : (b.count p o n).host = b.host := rfl
@[simp] theorem Block.count_i3c (p : Page) (o n : Nat) : (b.count p o n).i3c = b.i3c := rfl
@[simp] theorem Block.count_jtag (p : Page) (o n : Nat) : (b.count p o n).jtag = b.jtag := rfl
@[simp] theorem Block.count_mbx (p : Page) (o n : Nat) : (b.count p o n).mbx = b.mbx := rfl
@[simp] theorem Block.count_boot (p : Page) (o n : Nat) : (b.count p o n).boot = b.boot := rfl
@[simp] theorem Block.count_pins (p : Page) (o n : Nat) : (b.count p o n).pins = b.pins := rfl
@[simp] theorem Block.count_net (p : Page) (o n : Nat) : (b.count p o n).net = b.net := rfl
@[simp] theorem Block.count_pwr (p : Page) (o n : Nat) : (b.count p o n).pwr = b.pwr := rfl
@[simp] theorem Block.count_units (p : Page) (o n : Nat) : (b.count p o n).units = b.units := rfl
@[simp] theorem Block.count_tiles (p : Page) (o n : Nat) : (b.count p o n).tiles = b.tiles := rfl
@[simp] theorem Block.count_cores (p : Page) (o n : Nat) : (b.count p o n).cores = b.cores := rfl
@[simp] theorem Block.count_hbm (p : Page) (o n : Nat) : (b.count p o n).hbm = b.hbm := rfl
@[simp] theorem Block.count_stks (p : Page) (o n : Nat) : (b.count p o n).stks = b.stks := rfl
@[simp] theorem Block.count_shm (p : Page) (o n : Nat) : (b.count p o n).shm = b.shm := rfl
@[simp] theorem Block.count_exd (p : Page) (o n : Nat) : (b.count p o n).exd = b.exd := rfl
@[simp] theorem Block.count_azn (p : Page) (o n : Nat) : (b.count p o n).azn = b.azn := rfl
@[simp] theorem Block.count_lly (p : Page) (o n : Nat) : (b.count p o n).lly = b.lly := rfl
@[simp] theorem Block.count_pel (p : Page) (o n : Nat) : (b.count p o n).pel = b.pel := rfl
@[simp] theorem Block.count_col (p : Page) (o n : Nat) : (b.count p o n).col = b.col := rfl
@[simp] theorem Block.count_nv (p : Page) (o n : Nat) : (b.count p o n).nv = b.nv := rfl
@[simp] theorem Block.count_latch (p : Page) (o n : Nat) : (b.count p o n).latch = b.latch := rfl
@[simp] theorem Block.count_winFree (p : Page) (o n : Nat) : (b.count p o n).winFree = b.winFree := rfl
@[simp] theorem Block.count_slabFree (p : Page) (o n : Nat) : (b.count p o n).slabFree = b.slabFree := rfl
@[simp] theorem Block.count_idleRem (p : Page) (o n : Nat) : (b.count p o n).idleRem = b.idleRem := rfl
@[simp] theorem Block.count_owed (p : Page) (o n : Nat) : (b.count p o n).owed = b.owed := rfl
@[simp] theorem Block.count_lens (p : Page) (o n : Nat) : (b.count p o n).lens = b.lens := rfl
@[simp] theorem Block.count_posted (p : Page) (o n : Nat) : (b.count p o n).posted = b.posted := rfl
@[simp] theorem Block.count_free (p : Page) (o n : Nat) : (b.count p o n).free = b.free := rfl
@[simp] theorem Block.count_serial (p : Page) (o n : Nat) : (b.count p o n).serial = b.serial := rfl

@[simp] theorem Block.setUnit_regs (u : UnitId) (x : UnitSt) : (b.setUnit u x).regs = b.regs := rfl
@[simp] theorem Block.setUnit_mem (u : UnitId) (x : UnitSt) : (b.setUnit u x).mem = b.mem := rfl
@[simp] theorem Block.setUnit_poison (u : UnitId) (x : UnitSt) : (b.setUnit u x).poison = b.poison := rfl
@[simp] theorem Block.setUnit_evt (u : UnitId) (x : UnitSt) : (b.setUnit u x).evt = b.evt := rfl
@[simp] theorem Block.setUnit_log (u : UnitId) (x : UnitSt) : (b.setUnit u x).log = b.log := rfl
@[simp] theorem Block.setUnit_host (u : UnitId) (x : UnitSt) : (b.setUnit u x).host = b.host := rfl
@[simp] theorem Block.setUnit_i3c (u : UnitId) (x : UnitSt) : (b.setUnit u x).i3c = b.i3c := rfl
@[simp] theorem Block.setUnit_jtag (u : UnitId) (x : UnitSt) : (b.setUnit u x).jtag = b.jtag := rfl
@[simp] theorem Block.setUnit_mbx (u : UnitId) (x : UnitSt) : (b.setUnit u x).mbx = b.mbx := rfl
@[simp] theorem Block.setUnit_boot (u : UnitId) (x : UnitSt) : (b.setUnit u x).boot = b.boot := rfl
@[simp] theorem Block.setUnit_pins (u : UnitId) (x : UnitSt) : (b.setUnit u x).pins = b.pins := rfl
@[simp] theorem Block.setUnit_net (u : UnitId) (x : UnitSt) : (b.setUnit u x).net = b.net := rfl
@[simp] theorem Block.setUnit_pwr (u : UnitId) (x : UnitSt) : (b.setUnit u x).pwr = b.pwr := rfl
@[simp] theorem Block.setUnit_tiles (u : UnitId) (x : UnitSt) : (b.setUnit u x).tiles = b.tiles := rfl
@[simp] theorem Block.setUnit_cores (u : UnitId) (x : UnitSt) : (b.setUnit u x).cores = b.cores := rfl
@[simp] theorem Block.setUnit_hbm (u : UnitId) (x : UnitSt) : (b.setUnit u x).hbm = b.hbm := rfl
@[simp] theorem Block.setUnit_stks (u : UnitId) (x : UnitSt) : (b.setUnit u x).stks = b.stks := rfl
@[simp] theorem Block.setUnit_shm (u : UnitId) (x : UnitSt) : (b.setUnit u x).shm = b.shm := rfl
@[simp] theorem Block.setUnit_exd (u : UnitId) (x : UnitSt) : (b.setUnit u x).exd = b.exd := rfl
@[simp] theorem Block.setUnit_azn (u : UnitId) (x : UnitSt) : (b.setUnit u x).azn = b.azn := rfl
@[simp] theorem Block.setUnit_lly (u : UnitId) (x : UnitSt) : (b.setUnit u x).lly = b.lly := rfl
@[simp] theorem Block.setUnit_pel (u : UnitId) (x : UnitSt) : (b.setUnit u x).pel = b.pel := rfl
@[simp] theorem Block.setUnit_col (u : UnitId) (x : UnitSt) : (b.setUnit u x).col = b.col := rfl
@[simp] theorem Block.setUnit_nv (u : UnitId) (x : UnitSt) : (b.setUnit u x).nv = b.nv := rfl
@[simp] theorem Block.setUnit_latch (u : UnitId) (x : UnitSt) : (b.setUnit u x).latch = b.latch := rfl
@[simp] theorem Block.setUnit_winFree (u : UnitId) (x : UnitSt) : (b.setUnit u x).winFree = b.winFree := rfl
@[simp] theorem Block.setUnit_slabFree (u : UnitId) (x : UnitSt) : (b.setUnit u x).slabFree = b.slabFree := rfl
@[simp] theorem Block.setUnit_idleRem (u : UnitId) (x : UnitSt) : (b.setUnit u x).idleRem = b.idleRem := rfl
@[simp] theorem Block.setUnit_owed (u : UnitId) (x : UnitSt) : (b.setUnit u x).owed = b.owed := rfl
@[simp] theorem Block.setUnit_lens (u : UnitId) (x : UnitSt) : (b.setUnit u x).lens = b.lens := rfl
@[simp] theorem Block.setUnit_posted (u : UnitId) (x : UnitSt) : (b.setUnit u x).posted = b.posted := rfl
@[simp] theorem Block.setUnit_free (u : UnitId) (x : UnitSt) : (b.setUnit u x).free = b.free := rfl
@[simp] theorem Block.setUnit_serial (u : UnitId) (x : UnitSt) : (b.setUnit u x).serial = b.serial := rfl

@[simp] theorem Block.setTile_regs (t : Nat) (x : TileSt) : (b.setTile t x).regs = b.regs := rfl
@[simp] theorem Block.setTile_mem (t : Nat) (x : TileSt) : (b.setTile t x).mem = b.mem := rfl
@[simp] theorem Block.setTile_poison (t : Nat) (x : TileSt) : (b.setTile t x).poison = b.poison := rfl
@[simp] theorem Block.setTile_evt (t : Nat) (x : TileSt) : (b.setTile t x).evt = b.evt := rfl
@[simp] theorem Block.setTile_log (t : Nat) (x : TileSt) : (b.setTile t x).log = b.log := rfl
@[simp] theorem Block.setTile_host (t : Nat) (x : TileSt) : (b.setTile t x).host = b.host := rfl
@[simp] theorem Block.setTile_i3c (t : Nat) (x : TileSt) : (b.setTile t x).i3c = b.i3c := rfl
@[simp] theorem Block.setTile_jtag (t : Nat) (x : TileSt) : (b.setTile t x).jtag = b.jtag := rfl
@[simp] theorem Block.setTile_mbx (t : Nat) (x : TileSt) : (b.setTile t x).mbx = b.mbx := rfl
@[simp] theorem Block.setTile_boot (t : Nat) (x : TileSt) : (b.setTile t x).boot = b.boot := rfl
@[simp] theorem Block.setTile_pins (t : Nat) (x : TileSt) : (b.setTile t x).pins = b.pins := rfl
@[simp] theorem Block.setTile_net (t : Nat) (x : TileSt) : (b.setTile t x).net = b.net := rfl
@[simp] theorem Block.setTile_pwr (t : Nat) (x : TileSt) : (b.setTile t x).pwr = b.pwr := rfl
@[simp] theorem Block.setTile_units (t : Nat) (x : TileSt) : (b.setTile t x).units = b.units := rfl
@[simp] theorem Block.setTile_cores (t : Nat) (x : TileSt) : (b.setTile t x).cores = b.cores := rfl
@[simp] theorem Block.setTile_hbm (t : Nat) (x : TileSt) : (b.setTile t x).hbm = b.hbm := rfl
@[simp] theorem Block.setTile_stks (t : Nat) (x : TileSt) : (b.setTile t x).stks = b.stks := rfl
@[simp] theorem Block.setTile_shm (t : Nat) (x : TileSt) : (b.setTile t x).shm = b.shm := rfl
@[simp] theorem Block.setTile_exd (t : Nat) (x : TileSt) : (b.setTile t x).exd = b.exd := rfl
@[simp] theorem Block.setTile_azn (t : Nat) (x : TileSt) : (b.setTile t x).azn = b.azn := rfl
@[simp] theorem Block.setTile_lly (t : Nat) (x : TileSt) : (b.setTile t x).lly = b.lly := rfl
@[simp] theorem Block.setTile_pel (t : Nat) (x : TileSt) : (b.setTile t x).pel = b.pel := rfl
@[simp] theorem Block.setTile_col (t : Nat) (x : TileSt) : (b.setTile t x).col = b.col := rfl
@[simp] theorem Block.setTile_nv (t : Nat) (x : TileSt) : (b.setTile t x).nv = b.nv := rfl
@[simp] theorem Block.setTile_latch (t : Nat) (x : TileSt) : (b.setTile t x).latch = b.latch := rfl
@[simp] theorem Block.setTile_winFree (t : Nat) (x : TileSt) : (b.setTile t x).winFree = b.winFree := rfl
@[simp] theorem Block.setTile_slabFree (t : Nat) (x : TileSt) : (b.setTile t x).slabFree = b.slabFree := rfl
@[simp] theorem Block.setTile_idleRem (t : Nat) (x : TileSt) : (b.setTile t x).idleRem = b.idleRem := rfl
@[simp] theorem Block.setTile_owed (t : Nat) (x : TileSt) : (b.setTile t x).owed = b.owed := rfl
@[simp] theorem Block.setTile_lens (t : Nat) (x : TileSt) : (b.setTile t x).lens = b.lens := rfl
@[simp] theorem Block.setTile_posted (t : Nat) (x : TileSt) : (b.setTile t x).posted = b.posted := rfl
@[simp] theorem Block.setTile_free (t : Nat) (x : TileSt) : (b.setTile t x).free = b.free := rfl
@[simp] theorem Block.setTile_serial (t : Nat) (x : TileSt) : (b.setTile t x).serial = b.serial := rfl

@[simp] theorem Block.setCore_regs (c : Nat) (x : CoreSt) : (b.setCore c x).regs = b.regs := rfl
@[simp] theorem Block.setCore_mem (c : Nat) (x : CoreSt) : (b.setCore c x).mem = b.mem := rfl
@[simp] theorem Block.setCore_poison (c : Nat) (x : CoreSt) : (b.setCore c x).poison = b.poison := rfl
@[simp] theorem Block.setCore_evt (c : Nat) (x : CoreSt) : (b.setCore c x).evt = b.evt := rfl
@[simp] theorem Block.setCore_log (c : Nat) (x : CoreSt) : (b.setCore c x).log = b.log := rfl
@[simp] theorem Block.setCore_host (c : Nat) (x : CoreSt) : (b.setCore c x).host = b.host := rfl
@[simp] theorem Block.setCore_i3c (c : Nat) (x : CoreSt) : (b.setCore c x).i3c = b.i3c := rfl
@[simp] theorem Block.setCore_jtag (c : Nat) (x : CoreSt) : (b.setCore c x).jtag = b.jtag := rfl
@[simp] theorem Block.setCore_mbx (c : Nat) (x : CoreSt) : (b.setCore c x).mbx = b.mbx := rfl
@[simp] theorem Block.setCore_boot (c : Nat) (x : CoreSt) : (b.setCore c x).boot = b.boot := rfl
@[simp] theorem Block.setCore_pins (c : Nat) (x : CoreSt) : (b.setCore c x).pins = b.pins := rfl
@[simp] theorem Block.setCore_net (c : Nat) (x : CoreSt) : (b.setCore c x).net = b.net := rfl
@[simp] theorem Block.setCore_pwr (c : Nat) (x : CoreSt) : (b.setCore c x).pwr = b.pwr := rfl
@[simp] theorem Block.setCore_units (c : Nat) (x : CoreSt) : (b.setCore c x).units = b.units := rfl
@[simp] theorem Block.setCore_tiles (c : Nat) (x : CoreSt) : (b.setCore c x).tiles = b.tiles := rfl
@[simp] theorem Block.setCore_hbm (c : Nat) (x : CoreSt) : (b.setCore c x).hbm = b.hbm := rfl
@[simp] theorem Block.setCore_stks (c : Nat) (x : CoreSt) : (b.setCore c x).stks = b.stks := rfl
@[simp] theorem Block.setCore_shm (c : Nat) (x : CoreSt) : (b.setCore c x).shm = b.shm := rfl
@[simp] theorem Block.setCore_exd (c : Nat) (x : CoreSt) : (b.setCore c x).exd = b.exd := rfl
@[simp] theorem Block.setCore_azn (c : Nat) (x : CoreSt) : (b.setCore c x).azn = b.azn := rfl
@[simp] theorem Block.setCore_lly (c : Nat) (x : CoreSt) : (b.setCore c x).lly = b.lly := rfl
@[simp] theorem Block.setCore_pel (c : Nat) (x : CoreSt) : (b.setCore c x).pel = b.pel := rfl
@[simp] theorem Block.setCore_col (c : Nat) (x : CoreSt) : (b.setCore c x).col = b.col := rfl
@[simp] theorem Block.setCore_nv (c : Nat) (x : CoreSt) : (b.setCore c x).nv = b.nv := rfl
@[simp] theorem Block.setCore_latch (c : Nat) (x : CoreSt) : (b.setCore c x).latch = b.latch := rfl
@[simp] theorem Block.setCore_winFree (c : Nat) (x : CoreSt) : (b.setCore c x).winFree = b.winFree := rfl
@[simp] theorem Block.setCore_slabFree (c : Nat) (x : CoreSt) : (b.setCore c x).slabFree = b.slabFree := rfl
@[simp] theorem Block.setCore_idleRem (c : Nat) (x : CoreSt) : (b.setCore c x).idleRem = b.idleRem := rfl
@[simp] theorem Block.setCore_owed (c : Nat) (x : CoreSt) : (b.setCore c x).owed = b.owed := rfl
@[simp] theorem Block.setCore_lens (c : Nat) (x : CoreSt) : (b.setCore c x).lens = b.lens := rfl
@[simp] theorem Block.setCore_posted (c : Nat) (x : CoreSt) : (b.setCore c x).posted = b.posted := rfl
@[simp] theorem Block.setCore_free (c : Nat) (x : CoreSt) : (b.setCore c x).free = b.free := rfl
@[simp] theorem Block.setCore_serial (c : Nat) (x : CoreSt) : (b.setCore c x).serial = b.serial := rfl

@[simp] theorem Block.setStk_regs (i : Nat) (x : StackSt) : (b.setStk i x).regs = b.regs := rfl
@[simp] theorem Block.setStk_mem (i : Nat) (x : StackSt) : (b.setStk i x).mem = b.mem := rfl
@[simp] theorem Block.setStk_poison (i : Nat) (x : StackSt) : (b.setStk i x).poison = b.poison := rfl
@[simp] theorem Block.setStk_evt (i : Nat) (x : StackSt) : (b.setStk i x).evt = b.evt := rfl
@[simp] theorem Block.setStk_log (i : Nat) (x : StackSt) : (b.setStk i x).log = b.log := rfl
@[simp] theorem Block.setStk_host (i : Nat) (x : StackSt) : (b.setStk i x).host = b.host := rfl
@[simp] theorem Block.setStk_i3c (i : Nat) (x : StackSt) : (b.setStk i x).i3c = b.i3c := rfl
@[simp] theorem Block.setStk_jtag (i : Nat) (x : StackSt) : (b.setStk i x).jtag = b.jtag := rfl
@[simp] theorem Block.setStk_mbx (i : Nat) (x : StackSt) : (b.setStk i x).mbx = b.mbx := rfl
@[simp] theorem Block.setStk_boot (i : Nat) (x : StackSt) : (b.setStk i x).boot = b.boot := rfl
@[simp] theorem Block.setStk_pins (i : Nat) (x : StackSt) : (b.setStk i x).pins = b.pins := rfl
@[simp] theorem Block.setStk_net (i : Nat) (x : StackSt) : (b.setStk i x).net = b.net := rfl
@[simp] theorem Block.setStk_pwr (i : Nat) (x : StackSt) : (b.setStk i x).pwr = b.pwr := rfl
@[simp] theorem Block.setStk_units (i : Nat) (x : StackSt) : (b.setStk i x).units = b.units := rfl
@[simp] theorem Block.setStk_tiles (i : Nat) (x : StackSt) : (b.setStk i x).tiles = b.tiles := rfl
@[simp] theorem Block.setStk_cores (i : Nat) (x : StackSt) : (b.setStk i x).cores = b.cores := rfl
@[simp] theorem Block.setStk_hbm (i : Nat) (x : StackSt) : (b.setStk i x).hbm = b.hbm := rfl
@[simp] theorem Block.setStk_shm (i : Nat) (x : StackSt) : (b.setStk i x).shm = b.shm := rfl
@[simp] theorem Block.setStk_exd (i : Nat) (x : StackSt) : (b.setStk i x).exd = b.exd := rfl
@[simp] theorem Block.setStk_azn (i : Nat) (x : StackSt) : (b.setStk i x).azn = b.azn := rfl
@[simp] theorem Block.setStk_lly (i : Nat) (x : StackSt) : (b.setStk i x).lly = b.lly := rfl
@[simp] theorem Block.setStk_pel (i : Nat) (x : StackSt) : (b.setStk i x).pel = b.pel := rfl
@[simp] theorem Block.setStk_col (i : Nat) (x : StackSt) : (b.setStk i x).col = b.col := rfl
@[simp] theorem Block.setStk_nv (i : Nat) (x : StackSt) : (b.setStk i x).nv = b.nv := rfl
@[simp] theorem Block.setStk_latch (i : Nat) (x : StackSt) : (b.setStk i x).latch = b.latch := rfl
@[simp] theorem Block.setStk_winFree (i : Nat) (x : StackSt) : (b.setStk i x).winFree = b.winFree := rfl
@[simp] theorem Block.setStk_slabFree (i : Nat) (x : StackSt) : (b.setStk i x).slabFree = b.slabFree := rfl
@[simp] theorem Block.setStk_idleRem (i : Nat) (x : StackSt) : (b.setStk i x).idleRem = b.idleRem := rfl
@[simp] theorem Block.setStk_owed (i : Nat) (x : StackSt) : (b.setStk i x).owed = b.owed := rfl
@[simp] theorem Block.setStk_lens (i : Nat) (x : StackSt) : (b.setStk i x).lens = b.lens := rfl
@[simp] theorem Block.setStk_posted (i : Nat) (x : StackSt) : (b.setStk i x).posted = b.posted := rfl
@[simp] theorem Block.setStk_free (i : Nat) (x : StackSt) : (b.setStk i x).free = b.free := rfl
@[simp] theorem Block.setStk_serial (i : Nat) (x : StackSt) : (b.setStk i x).serial = b.serial := rfl

@[simp] theorem Block.setAznUnit_regs (i : Nat) (x : AznUnit) : (b.setAznUnit i x).regs = b.regs := rfl
@[simp] theorem Block.setAznUnit_mem (i : Nat) (x : AznUnit) : (b.setAznUnit i x).mem = b.mem := rfl
@[simp] theorem Block.setAznUnit_poison (i : Nat) (x : AznUnit) : (b.setAznUnit i x).poison = b.poison := rfl
@[simp] theorem Block.setAznUnit_evt (i : Nat) (x : AznUnit) : (b.setAznUnit i x).evt = b.evt := rfl
@[simp] theorem Block.setAznUnit_log (i : Nat) (x : AznUnit) : (b.setAznUnit i x).log = b.log := rfl
@[simp] theorem Block.setAznUnit_host (i : Nat) (x : AznUnit) : (b.setAznUnit i x).host = b.host := rfl
@[simp] theorem Block.setAznUnit_i3c (i : Nat) (x : AznUnit) : (b.setAznUnit i x).i3c = b.i3c := rfl
@[simp] theorem Block.setAznUnit_jtag (i : Nat) (x : AznUnit) : (b.setAznUnit i x).jtag = b.jtag := rfl
@[simp] theorem Block.setAznUnit_mbx (i : Nat) (x : AznUnit) : (b.setAznUnit i x).mbx = b.mbx := rfl
@[simp] theorem Block.setAznUnit_boot (i : Nat) (x : AznUnit) : (b.setAznUnit i x).boot = b.boot := rfl
@[simp] theorem Block.setAznUnit_pins (i : Nat) (x : AznUnit) : (b.setAznUnit i x).pins = b.pins := rfl
@[simp] theorem Block.setAznUnit_net (i : Nat) (x : AznUnit) : (b.setAznUnit i x).net = b.net := rfl
@[simp] theorem Block.setAznUnit_pwr (i : Nat) (x : AznUnit) : (b.setAznUnit i x).pwr = b.pwr := rfl
@[simp] theorem Block.setAznUnit_units (i : Nat) (x : AznUnit) : (b.setAznUnit i x).units = b.units := rfl
@[simp] theorem Block.setAznUnit_tiles (i : Nat) (x : AznUnit) : (b.setAznUnit i x).tiles = b.tiles := rfl
@[simp] theorem Block.setAznUnit_cores (i : Nat) (x : AznUnit) : (b.setAznUnit i x).cores = b.cores := rfl
@[simp] theorem Block.setAznUnit_hbm (i : Nat) (x : AznUnit) : (b.setAznUnit i x).hbm = b.hbm := rfl
@[simp] theorem Block.setAznUnit_stks (i : Nat) (x : AznUnit) : (b.setAznUnit i x).stks = b.stks := rfl
@[simp] theorem Block.setAznUnit_shm (i : Nat) (x : AznUnit) : (b.setAznUnit i x).shm = b.shm := rfl
@[simp] theorem Block.setAznUnit_exd (i : Nat) (x : AznUnit) : (b.setAznUnit i x).exd = b.exd := rfl
@[simp] theorem Block.setAznUnit_lly (i : Nat) (x : AznUnit) : (b.setAznUnit i x).lly = b.lly := rfl
@[simp] theorem Block.setAznUnit_pel (i : Nat) (x : AznUnit) : (b.setAznUnit i x).pel = b.pel := rfl
@[simp] theorem Block.setAznUnit_col (i : Nat) (x : AznUnit) : (b.setAznUnit i x).col = b.col := rfl
@[simp] theorem Block.setAznUnit_nv (i : Nat) (x : AznUnit) : (b.setAznUnit i x).nv = b.nv := rfl
@[simp] theorem Block.setAznUnit_latch (i : Nat) (x : AznUnit) : (b.setAznUnit i x).latch = b.latch := rfl
@[simp] theorem Block.setAznUnit_winFree (i : Nat) (x : AznUnit) : (b.setAznUnit i x).winFree = b.winFree := rfl
@[simp] theorem Block.setAznUnit_slabFree (i : Nat) (x : AznUnit) : (b.setAznUnit i x).slabFree = b.slabFree := rfl
@[simp] theorem Block.setAznUnit_idleRem (i : Nat) (x : AznUnit) : (b.setAznUnit i x).idleRem = b.idleRem := rfl
@[simp] theorem Block.setAznUnit_owed (i : Nat) (x : AznUnit) : (b.setAznUnit i x).owed = b.owed := rfl
@[simp] theorem Block.setAznUnit_lens (i : Nat) (x : AznUnit) : (b.setAznUnit i x).lens = b.lens := rfl
@[simp] theorem Block.setAznUnit_posted (i : Nat) (x : AznUnit) : (b.setAznUnit i x).posted = b.posted := rfl
@[simp] theorem Block.setAznUnit_free (i : Nat) (x : AznUnit) : (b.setAznUnit i x).free = b.free := rfl
@[simp] theorem Block.setAznUnit_serial (i : Nat) (x : AznUnit) : (b.setAznUnit i x).serial = b.serial := rfl

@[simp] theorem Block.setSpoke_regs (k : Nat) (x : SpokeSt) : (b.setSpoke k x).regs = b.regs := rfl
@[simp] theorem Block.setSpoke_mem (k : Nat) (x : SpokeSt) : (b.setSpoke k x).mem = b.mem := rfl
@[simp] theorem Block.setSpoke_poison (k : Nat) (x : SpokeSt) : (b.setSpoke k x).poison = b.poison := rfl
@[simp] theorem Block.setSpoke_evt (k : Nat) (x : SpokeSt) : (b.setSpoke k x).evt = b.evt := rfl
@[simp] theorem Block.setSpoke_log (k : Nat) (x : SpokeSt) : (b.setSpoke k x).log = b.log := rfl
@[simp] theorem Block.setSpoke_host (k : Nat) (x : SpokeSt) : (b.setSpoke k x).host = b.host := rfl
@[simp] theorem Block.setSpoke_i3c (k : Nat) (x : SpokeSt) : (b.setSpoke k x).i3c = b.i3c := rfl
@[simp] theorem Block.setSpoke_jtag (k : Nat) (x : SpokeSt) : (b.setSpoke k x).jtag = b.jtag := rfl
@[simp] theorem Block.setSpoke_mbx (k : Nat) (x : SpokeSt) : (b.setSpoke k x).mbx = b.mbx := rfl
@[simp] theorem Block.setSpoke_boot (k : Nat) (x : SpokeSt) : (b.setSpoke k x).boot = b.boot := rfl
@[simp] theorem Block.setSpoke_pins (k : Nat) (x : SpokeSt) : (b.setSpoke k x).pins = b.pins := rfl
@[simp] theorem Block.setSpoke_net (k : Nat) (x : SpokeSt) : (b.setSpoke k x).net = b.net := rfl
@[simp] theorem Block.setSpoke_pwr (k : Nat) (x : SpokeSt) : (b.setSpoke k x).pwr = b.pwr := rfl
@[simp] theorem Block.setSpoke_units (k : Nat) (x : SpokeSt) : (b.setSpoke k x).units = b.units := rfl
@[simp] theorem Block.setSpoke_tiles (k : Nat) (x : SpokeSt) : (b.setSpoke k x).tiles = b.tiles := rfl
@[simp] theorem Block.setSpoke_cores (k : Nat) (x : SpokeSt) : (b.setSpoke k x).cores = b.cores := rfl
@[simp] theorem Block.setSpoke_hbm (k : Nat) (x : SpokeSt) : (b.setSpoke k x).hbm = b.hbm := rfl
@[simp] theorem Block.setSpoke_stks (k : Nat) (x : SpokeSt) : (b.setSpoke k x).stks = b.stks := rfl
@[simp] theorem Block.setSpoke_shm (k : Nat) (x : SpokeSt) : (b.setSpoke k x).shm = b.shm := rfl
@[simp] theorem Block.setSpoke_exd (k : Nat) (x : SpokeSt) : (b.setSpoke k x).exd = b.exd := rfl
@[simp] theorem Block.setSpoke_azn (k : Nat) (x : SpokeSt) : (b.setSpoke k x).azn = b.azn := rfl
@[simp] theorem Block.setSpoke_pel (k : Nat) (x : SpokeSt) : (b.setSpoke k x).pel = b.pel := rfl
@[simp] theorem Block.setSpoke_col (k : Nat) (x : SpokeSt) : (b.setSpoke k x).col = b.col := rfl
@[simp] theorem Block.setSpoke_nv (k : Nat) (x : SpokeSt) : (b.setSpoke k x).nv = b.nv := rfl
@[simp] theorem Block.setSpoke_latch (k : Nat) (x : SpokeSt) : (b.setSpoke k x).latch = b.latch := rfl
@[simp] theorem Block.setSpoke_winFree (k : Nat) (x : SpokeSt) : (b.setSpoke k x).winFree = b.winFree := rfl
@[simp] theorem Block.setSpoke_slabFree (k : Nat) (x : SpokeSt) : (b.setSpoke k x).slabFree = b.slabFree := rfl
@[simp] theorem Block.setSpoke_idleRem (k : Nat) (x : SpokeSt) : (b.setSpoke k x).idleRem = b.idleRem := rfl
@[simp] theorem Block.setSpoke_owed (k : Nat) (x : SpokeSt) : (b.setSpoke k x).owed = b.owed := rfl
@[simp] theorem Block.setSpoke_lens (k : Nat) (x : SpokeSt) : (b.setSpoke k x).lens = b.lens := rfl
@[simp] theorem Block.setSpoke_posted (k : Nat) (x : SpokeSt) : (b.setSpoke k x).posted = b.posted := rfl
@[simp] theorem Block.setSpoke_free (k : Nat) (x : SpokeSt) : (b.setSpoke k x).free = b.free := rfl
@[simp] theorem Block.setSpoke_serial (k : Nat) (x : SpokeSt) : (b.setSpoke k x).serial = b.serial := rfl

@[simp] theorem Block.setDom_regs (d : Nat) (x : DomSt) : (b.setDom d x).regs = b.regs := rfl
@[simp] theorem Block.setDom_mem (d : Nat) (x : DomSt) : (b.setDom d x).mem = b.mem := rfl
@[simp] theorem Block.setDom_poison (d : Nat) (x : DomSt) : (b.setDom d x).poison = b.poison := rfl
@[simp] theorem Block.setDom_evt (d : Nat) (x : DomSt) : (b.setDom d x).evt = b.evt := rfl
@[simp] theorem Block.setDom_log (d : Nat) (x : DomSt) : (b.setDom d x).log = b.log := rfl
@[simp] theorem Block.setDom_host (d : Nat) (x : DomSt) : (b.setDom d x).host = b.host := rfl
@[simp] theorem Block.setDom_i3c (d : Nat) (x : DomSt) : (b.setDom d x).i3c = b.i3c := rfl
@[simp] theorem Block.setDom_jtag (d : Nat) (x : DomSt) : (b.setDom d x).jtag = b.jtag := rfl
@[simp] theorem Block.setDom_mbx (d : Nat) (x : DomSt) : (b.setDom d x).mbx = b.mbx := rfl
@[simp] theorem Block.setDom_boot (d : Nat) (x : DomSt) : (b.setDom d x).boot = b.boot := rfl
@[simp] theorem Block.setDom_pins (d : Nat) (x : DomSt) : (b.setDom d x).pins = b.pins := rfl
@[simp] theorem Block.setDom_net (d : Nat) (x : DomSt) : (b.setDom d x).net = b.net := rfl
@[simp] theorem Block.setDom_pwr (d : Nat) (x : DomSt) : (b.setDom d x).pwr = b.pwr := rfl
@[simp] theorem Block.setDom_units (d : Nat) (x : DomSt) : (b.setDom d x).units = b.units := rfl
@[simp] theorem Block.setDom_tiles (d : Nat) (x : DomSt) : (b.setDom d x).tiles = b.tiles := rfl
@[simp] theorem Block.setDom_cores (d : Nat) (x : DomSt) : (b.setDom d x).cores = b.cores := rfl
@[simp] theorem Block.setDom_hbm (d : Nat) (x : DomSt) : (b.setDom d x).hbm = b.hbm := rfl
@[simp] theorem Block.setDom_stks (d : Nat) (x : DomSt) : (b.setDom d x).stks = b.stks := rfl
@[simp] theorem Block.setDom_shm (d : Nat) (x : DomSt) : (b.setDom d x).shm = b.shm := rfl
@[simp] theorem Block.setDom_exd (d : Nat) (x : DomSt) : (b.setDom d x).exd = b.exd := rfl
@[simp] theorem Block.setDom_azn (d : Nat) (x : DomSt) : (b.setDom d x).azn = b.azn := rfl
@[simp] theorem Block.setDom_lly (d : Nat) (x : DomSt) : (b.setDom d x).lly = b.lly := rfl
@[simp] theorem Block.setDom_col (d : Nat) (x : DomSt) : (b.setDom d x).col = b.col := rfl
@[simp] theorem Block.setDom_nv (d : Nat) (x : DomSt) : (b.setDom d x).nv = b.nv := rfl
@[simp] theorem Block.setDom_latch (d : Nat) (x : DomSt) : (b.setDom d x).latch = b.latch := rfl
@[simp] theorem Block.setDom_winFree (d : Nat) (x : DomSt) : (b.setDom d x).winFree = b.winFree := rfl
@[simp] theorem Block.setDom_slabFree (d : Nat) (x : DomSt) : (b.setDom d x).slabFree = b.slabFree := rfl
@[simp] theorem Block.setDom_idleRem (d : Nat) (x : DomSt) : (b.setDom d x).idleRem = b.idleRem := rfl
@[simp] theorem Block.setDom_owed (d : Nat) (x : DomSt) : (b.setDom d x).owed = b.owed := rfl
@[simp] theorem Block.setDom_lens (d : Nat) (x : DomSt) : (b.setDom d x).lens = b.lens := rfl
@[simp] theorem Block.setDom_posted (d : Nat) (x : DomSt) : (b.setDom d x).posted = b.posted := rfl
@[simp] theorem Block.setDom_free (d : Nat) (x : DomSt) : (b.setDom d x).free = b.free := rfl
@[simp] theorem Block.setDom_serial (d : Nat) (x : DomSt) : (b.setDom d x).serial = b.serial := rfl

@[simp] theorem Block.setPte_regs (v : Nat) (x : Pte) : (b.setPte v x).regs = b.regs := rfl
@[simp] theorem Block.setPte_mem (v : Nat) (x : Pte) : (b.setPte v x).mem = b.mem := rfl
@[simp] theorem Block.setPte_poison (v : Nat) (x : Pte) : (b.setPte v x).poison = b.poison := rfl
@[simp] theorem Block.setPte_evt (v : Nat) (x : Pte) : (b.setPte v x).evt = b.evt := rfl
@[simp] theorem Block.setPte_log (v : Nat) (x : Pte) : (b.setPte v x).log = b.log := rfl
@[simp] theorem Block.setPte_host (v : Nat) (x : Pte) : (b.setPte v x).host = b.host := rfl
@[simp] theorem Block.setPte_i3c (v : Nat) (x : Pte) : (b.setPte v x).i3c = b.i3c := rfl
@[simp] theorem Block.setPte_jtag (v : Nat) (x : Pte) : (b.setPte v x).jtag = b.jtag := rfl
@[simp] theorem Block.setPte_mbx (v : Nat) (x : Pte) : (b.setPte v x).mbx = b.mbx := rfl
@[simp] theorem Block.setPte_boot (v : Nat) (x : Pte) : (b.setPte v x).boot = b.boot := rfl
@[simp] theorem Block.setPte_pins (v : Nat) (x : Pte) : (b.setPte v x).pins = b.pins := rfl
@[simp] theorem Block.setPte_net (v : Nat) (x : Pte) : (b.setPte v x).net = b.net := rfl
@[simp] theorem Block.setPte_pwr (v : Nat) (x : Pte) : (b.setPte v x).pwr = b.pwr := rfl
@[simp] theorem Block.setPte_units (v : Nat) (x : Pte) : (b.setPte v x).units = b.units := rfl
@[simp] theorem Block.setPte_tiles (v : Nat) (x : Pte) : (b.setPte v x).tiles = b.tiles := rfl
@[simp] theorem Block.setPte_cores (v : Nat) (x : Pte) : (b.setPte v x).cores = b.cores := rfl
@[simp] theorem Block.setPte_stks (v : Nat) (x : Pte) : (b.setPte v x).stks = b.stks := rfl
@[simp] theorem Block.setPte_shm (v : Nat) (x : Pte) : (b.setPte v x).shm = b.shm := rfl
@[simp] theorem Block.setPte_exd (v : Nat) (x : Pte) : (b.setPte v x).exd = b.exd := rfl
@[simp] theorem Block.setPte_azn (v : Nat) (x : Pte) : (b.setPte v x).azn = b.azn := rfl
@[simp] theorem Block.setPte_lly (v : Nat) (x : Pte) : (b.setPte v x).lly = b.lly := rfl
@[simp] theorem Block.setPte_pel (v : Nat) (x : Pte) : (b.setPte v x).pel = b.pel := rfl
@[simp] theorem Block.setPte_col (v : Nat) (x : Pte) : (b.setPte v x).col = b.col := rfl
@[simp] theorem Block.setPte_nv (v : Nat) (x : Pte) : (b.setPte v x).nv = b.nv := rfl
@[simp] theorem Block.setPte_latch (v : Nat) (x : Pte) : (b.setPte v x).latch = b.latch := rfl
@[simp] theorem Block.setPte_winFree (v : Nat) (x : Pte) : (b.setPte v x).winFree = b.winFree := rfl
@[simp] theorem Block.setPte_slabFree (v : Nat) (x : Pte) : (b.setPte v x).slabFree = b.slabFree := rfl
@[simp] theorem Block.setPte_idleRem (v : Nat) (x : Pte) : (b.setPte v x).idleRem = b.idleRem := rfl
@[simp] theorem Block.setPte_owed (v : Nat) (x : Pte) : (b.setPte v x).owed = b.owed := rfl
@[simp] theorem Block.setPte_lens (v : Nat) (x : Pte) : (b.setPte v x).lens = b.lens := rfl
@[simp] theorem Block.setPte_posted (v : Nat) (x : Pte) : (b.setPte v x).posted = b.posted := rfl
@[simp] theorem Block.setPte_free (v : Nat) (x : Pte) : (b.setPte v x).free = b.free := rfl
@[simp] theorem Block.setPte_serial (v : Nat) (x : Pte) : (b.setPte v x).serial = b.serial := rfl

@[simp] theorem Block.pokePhys_regs (k : Nat) (l : List Byte) : (b.pokePhys k l).regs = b.regs := rfl
@[simp] theorem Block.pokePhys_evt (k : Nat) (l : List Byte) : (b.pokePhys k l).evt = b.evt := rfl
@[simp] theorem Block.pokePhys_log (k : Nat) (l : List Byte) : (b.pokePhys k l).log = b.log := rfl
@[simp] theorem Block.pokePhys_host (k : Nat) (l : List Byte) : (b.pokePhys k l).host = b.host := rfl
@[simp] theorem Block.pokePhys_i3c (k : Nat) (l : List Byte) : (b.pokePhys k l).i3c = b.i3c := rfl
@[simp] theorem Block.pokePhys_jtag (k : Nat) (l : List Byte) : (b.pokePhys k l).jtag = b.jtag := rfl
@[simp] theorem Block.pokePhys_mbx (k : Nat) (l : List Byte) : (b.pokePhys k l).mbx = b.mbx := rfl
@[simp] theorem Block.pokePhys_boot (k : Nat) (l : List Byte) : (b.pokePhys k l).boot = b.boot := rfl
@[simp] theorem Block.pokePhys_pins (k : Nat) (l : List Byte) : (b.pokePhys k l).pins = b.pins := rfl
@[simp] theorem Block.pokePhys_net (k : Nat) (l : List Byte) : (b.pokePhys k l).net = b.net := rfl
@[simp] theorem Block.pokePhys_pwr (k : Nat) (l : List Byte) : (b.pokePhys k l).pwr = b.pwr := rfl
@[simp] theorem Block.pokePhys_units (k : Nat) (l : List Byte) : (b.pokePhys k l).units = b.units := rfl
@[simp] theorem Block.pokePhys_tiles (k : Nat) (l : List Byte) : (b.pokePhys k l).tiles = b.tiles := rfl
@[simp] theorem Block.pokePhys_cores (k : Nat) (l : List Byte) : (b.pokePhys k l).cores = b.cores := rfl
@[simp] theorem Block.pokePhys_hbm (k : Nat) (l : List Byte) : (b.pokePhys k l).hbm = b.hbm := rfl
@[simp] theorem Block.pokePhys_stks (k : Nat) (l : List Byte) : (b.pokePhys k l).stks = b.stks := rfl
@[simp] theorem Block.pokePhys_shm (k : Nat) (l : List Byte) : (b.pokePhys k l).shm = b.shm := rfl
@[simp] theorem Block.pokePhys_exd (k : Nat) (l : List Byte) : (b.pokePhys k l).exd = b.exd := rfl
@[simp] theorem Block.pokePhys_azn (k : Nat) (l : List Byte) : (b.pokePhys k l).azn = b.azn := rfl
@[simp] theorem Block.pokePhys_lly (k : Nat) (l : List Byte) : (b.pokePhys k l).lly = b.lly := rfl
@[simp] theorem Block.pokePhys_pel (k : Nat) (l : List Byte) : (b.pokePhys k l).pel = b.pel := rfl
@[simp] theorem Block.pokePhys_col (k : Nat) (l : List Byte) : (b.pokePhys k l).col = b.col := rfl
@[simp] theorem Block.pokePhys_nv (k : Nat) (l : List Byte) : (b.pokePhys k l).nv = b.nv := rfl
@[simp] theorem Block.pokePhys_latch (k : Nat) (l : List Byte) : (b.pokePhys k l).latch = b.latch := rfl
@[simp] theorem Block.pokePhys_winFree (k : Nat) (l : List Byte) : (b.pokePhys k l).winFree = b.winFree := rfl
@[simp] theorem Block.pokePhys_slabFree (k : Nat) (l : List Byte) : (b.pokePhys k l).slabFree = b.slabFree := rfl
@[simp] theorem Block.pokePhys_idleRem (k : Nat) (l : List Byte) : (b.pokePhys k l).idleRem = b.idleRem := rfl
@[simp] theorem Block.pokePhys_owed (k : Nat) (l : List Byte) : (b.pokePhys k l).owed = b.owed := rfl
@[simp] theorem Block.pokePhys_lens (k : Nat) (l : List Byte) : (b.pokePhys k l).lens = b.lens := rfl
@[simp] theorem Block.pokePhys_posted (k : Nat) (l : List Byte) : (b.pokePhys k l).posted = b.posted := rfl
@[simp] theorem Block.pokePhys_free (k : Nat) (l : List Byte) : (b.pokePhys k l).free = b.free := rfl
@[simp] theorem Block.pokePhys_serial (k : Nat) (l : List Byte) : (b.pokePhys k l).serial = b.serial := rfl

/-! ## Reading what was written -/

theorem Block.reg_setReg (k j : Nat) (v : Word) : (b.setReg k v).reg j = if j = k then v else b.reg j := Sparse.get_put _ _ _ _ _

@[simp] theorem Block.reg_setReg_self (k : Nat) (v : Word) : (b.setReg k v).reg k = v := Sparse.get_put_self _ _ _ _

@[simp] theorem Block.rd_wr_self (p : Page) (o : Nat) (v : Word) : (b.wr p o v).rd p o = v := Sparse.get_put_self _ _ _ _

/-- A register write at one offset leaves every other word. -/
theorem Block.rd_wr (p q : Page) (o r : Nat) (v : Word) :
    (b.wr p o v).rd q r = if addrOf q r = addrOf p o then v else b.rd q r := Sparse.get_put _ _ _ _ _

theorem Block.unit_setUnit (u w : UnitId) (x : UnitSt) :
    (b.setUnit u x).unit w = if w.key = u.key then x else b.unit w := Sparse.get_put _ _ _ _ _

@[simp] theorem Block.unit_setUnit_self (u : UnitId) (x : UnitSt) : (b.setUnit u x).unit u = x := Sparse.get_put_self _ _ _ _

theorem Block.tile_setTile (u w : Nat) (x : TileSt) :
    (b.setTile u x).tile w = if w = u then x else b.tile w := Sparse.get_put _ _ _ _ _

@[simp] theorem Block.tile_setTile_self (u : Nat) (x : TileSt) : (b.setTile u x).tile u = x := Sparse.get_put_self _ _ _ _

theorem Block.core_setCore (u w : Nat) (x : CoreSt) :
    (b.setCore u x).core w = if w = u then x else b.core w := Sparse.get_put _ _ _ _ _

@[simp] theorem Block.core_setCore_self (u : Nat) (x : CoreSt) : (b.setCore u x).core u = x := Sparse.get_put_self _ _ _ _

theorem Block.stk_setStk (u w : Nat) (x : StackSt) :
    (b.setStk u x).stk w = if w = u then x else b.stk w := Sparse.get_put _ _ _ _ _

@[simp] theorem Block.stk_setStk_self (u : Nat) (x : StackSt) : (b.setStk u x).stk u = x := Sparse.get_put_self _ _ _ _

theorem Block.aznUnit_setAznUnit (u w : Nat) (x : AznUnit) :
    (b.setAznUnit u x).aznUnit w = if w = u then x else b.aznUnit w := Sparse.get_put _ _ _ _ _

@[simp] theorem Block.aznUnit_setAznUnit_self (u : Nat) (x : AznUnit) : (b.setAznUnit u x).aznUnit u = x := Sparse.get_put_self _ _ _ _

theorem Block.spoke_setSpoke (u w : Nat) (x : SpokeSt) :
    (b.setSpoke u x).spoke w = if w = u then x else b.spoke w := Sparse.get_put _ _ _ _ _

@[simp] theorem Block.spoke_setSpoke_self (u : Nat) (x : SpokeSt) : (b.setSpoke u x).spoke u = x := Sparse.get_put_self _ _ _ _

theorem Block.dom_setDom (u w : Nat) (x : DomSt) :
    (b.setDom u x).dom w = if w = u then x else b.dom w := Sparse.get_put _ _ _ _ _

@[simp] theorem Block.dom_setDom_self (u : Nat) (x : DomSt) : (b.setDom u x).dom u = x := Sparse.get_put_self _ _ _ _

theorem Block.pte_setPte (u w : Nat) (x : Pte) :
    (b.setPte u x).pte w = if w = u then x else b.pte w := Sparse.get_put _ _ _ _ _

@[simp] theorem Block.pte_setPte_self (u : Nat) (x : Pte) : (b.setPte u x).pte u = x := Sparse.get_put_self _ _ _ _

/-- Two units have one key only if they are one unit. -/
theorem UnitId.key_injective (u w : UnitId) (h : u.key = w.key) : u = w := by
  cases u <;> cases w <;> simp only [UnitId.key] at h <;> first
    | omega
    | rfl
    | (congr 1 <;> (apply Fin.ext; omega))

end Sys2Proof.Machine
end

