-- ==== Sys2Proof/Laws/Ops.lean ====
section
/-! SUPPORT. What each shared operation can do, said once: outcomes, the register map, memory, events, the audit log, the write
gate. -/

namespace Sys2Proof.Machine

open Sys2Proof

/-! ## Outcomes -/

theorem State.onBlock_next (s : State) (f : Block → Block) (h : s.block.running = true) :
    s.onBlock f = .next { s with block := s.block.cycle f } := by simp [State.onBlock, h]

theorem State.onBlock_idle (s : State) (f : Block → Block) (h : s.block.running = false) : s.onBlock f = .next s := by
  simp [State.onBlock, h]

theorem State.onWrite_next (s : State) (o : Origin) (f : Block → Block) (h : s.block.doorOpen o = true) :
    s.onWrite o f = .next { s with block := s.block.cycle f } := by simp [State.onWrite, h]

theorem State.onWrite_shut (s : State) (o : Origin) (f : Block → Block) (h : s.block.doorOpen o = false) :
    s.onWrite o f = .next s := by simp [State.onWrite, h]

/-- An engine's step answers a next state that differs in the module alone. -/
theorem State.onBlock_cases (s : State) (f : Block → Block) :
    ∃ b, s.onBlock f = .next { s with block := b } ∧ (b = s.block ∨ b = s.block.cycle f) := by
  unfold State.onBlock
  split
  · exact ⟨_, rfl, .inr rfl⟩
  · exact ⟨s.block, rfl, .inl rfl⟩

theorem State.onWrite_cases (s : State) (o : Origin) (f : Block → Block) :
    ∃ b, s.onWrite o f = .next { s with block := b } ∧ (b = s.block ∨ b = s.block.cycle f) := by
  unfold State.onWrite
  split
  · exact ⟨_, rfl, .inr rfl⟩
  · exact ⟨s.block, rfl, .inl rfl⟩

theorem State.onPort_cases (s : State) (f : Fuses → Block → Block) :
    s.onPort f = .next { s with block := s.block.cycle (f s.fuses) } := rfl

/-! ## The register map -/

theorem pageAt_core : ∀ c : Fin 128, pageAt? (corePage 0 c) = some (.core c) := by decide
theorem pageAt_darr : ∀ c : Fin 128, pageAt? (corePage 3 c) = some (.darr c) := by decide
theorem pageAt_drn : ∀ c : Fin 128, pageAt? (corePage 4 c) = some (.drn c) := by decide
theorem pageAt_drl : ∀ c : Fin 128, pageAt? (corePage 5 c) = some (.drl c) := by decide
theorem pageAt_fet : ∀ c : Fin 128, pageAt? (corePage 6 c) = some (.fet c) := by decide
theorem pageAt_schCore : ∀ c : Fin 128, pageAt? (pageIndex (.sch (.core c))) = some (.sch (.core c)) := by decide
theorem pageAt_semCore : ∀ c : Fin 128, pageAt? (pageIndex (.sem (.core c))) = some (.sem (.core c)) := by decide
theorem pageAt_schGang : ∀ (t : Fin 16) (g : Fin 8), pageAt? (pageIndex (.sch (.gang t g))) = some (.sch (.gang t g)) := by decide
theorem pageAt_semGang : ∀ (t : Fin 16) (g : Fin 8), pageAt? (pageIndex (.sem (.gang t g))) = some (.sem (.gang t g)) := by decide
theorem pageAt_schDie : ∀ t : Fin 16, pageAt? (pageIndex (.sch (.die t))) = some (.sch (.die t)) := by decide
theorem pageAt_semDie : ∀ t : Fin 16, pageAt? (pageIndex (.sem (.die t))) = some (.sem (.die t)) := by decide
theorem pageAt_tile : ∀ t : Fin 16, pageAt? (pageIndex (.tile t)) = some (.tile t) := by decide
theorem pageAt_mbx : ∀ i : Fin 2, pageAt? (pageIndex (.mbx i)) = some (.mbx i) := by decide
theorem pageAt_spoke : ∀ k : Fin 8, pageAt? (pageIndex (.spoke k)) = some (.spoke k) := by decide
theorem pageAt_hbc : ∀ s : Fin 20, pageAt? (pageIndex (.hbc s)) = some (.hbc s) := by decide
theorem pageAt_azn : ∀ s : Fin 20, pageAt? (pageIndex (.azn s)) = some (.azn s) := by decide

/-- The page at a page's index is that page. -/
theorem pageAt_pageIndex (p : Page) : pageAt? (pageIndex p) = some p := by
  cases p with
  | mod | shm | exd | aznMod | hbcMod | cxl | llyMod | pel | col | pwr | clk | age | sec | log => rfl
  | sch u =>
    cases u with
    | core c => exact pageAt_schCore c
    | gang t g => exact pageAt_schGang t g
    | die t => exact pageAt_schDie t
    | wholeModule | group => rfl
  | sem u =>
    cases u with
    | core c => exact pageAt_semCore c
    | gang t g => exact pageAt_semGang t g
    | die t => exact pageAt_semDie t
    | wholeModule | group => rfl
  | mbx i => exact pageAt_mbx i
  | spoke k => exact pageAt_spoke k
  | hbc s => exact pageAt_hbc s
  | azn s => exact pageAt_azn s
  | tile t => exact pageAt_tile t
  | core c => exact pageAt_core c
  | darr c => exact pageAt_darr c
  | drn c => exact pageAt_drn c
  | drl c => exact pageAt_drl c
  | fet c => exact pageAt_fet c

theorem pageIndex_injective {p q : Page} (h : pageIndex p = pageIndex q) : p = q := by
  have := pageAt_pageIndex p
  rw [h, pageAt_pageIndex q] at this
  exact (Option.some.inj this).symm

/-- Two words of the aperture are one only if page and offset agree. -/
theorem addrOf_injective {p q : Page} {o r : Nat} (ho : o < 4096) (hr : r < 4096) (h : addrOf p o = addrOf q r) :
    p = q ∧ o = r := by
  unfold addrOf at h
  exact ⟨pageIndex_injective (by omega), by omega⟩

/-- A register write leaves every other word. -/
theorem Block.rd_wr_other (b : Block) {p q : Page} {o r : Nat} (v : Word) (ho : o < 4096) (hr : r < 4096)
    (h : q ≠ p ∨ r ≠ o) : (b.wr p o v).rd q r = b.rd q r := by
  rw [Block.rd_wr, if_neg]
  intro he
  have := addrOf_injective hr ho he
  rcases h with h | h
  · exact h this.1
  · exact h this.2

/-! ## What an event and a store can change -/

/-- `b'` differs from `b` at most in what a store and an event reach: register words, memory and its poison, event counters, the events
that wait for their records, the host port, the management bus, the page table and the controllers. -/
def Block.Reached (b b' : Block) : Prop :=
  b' = { b with regs := b'.regs, mem := b'.mem, poison := b'.poison, evt := b'.evt, host := b'.host, i3c := b'.i3c,
                hbm := b'.hbm, stks := b'.stks, posted := b'.posted }

theorem Block.Reached.refl (b : Block) : b.Reached b := rfl

theorem Block.Reached.trans {a b c : Block} (h : a.Reached b) (k : b.Reached c) : a.Reached c := by
  unfold Block.Reached at *
  rw [k, h]

theorem Block.reached_wr (b : Block) (p : Page) (o : Nat) (v : Word) : b.Reached (b.wr p o v) := rfl
theorem Block.reached_setPte (b : Block) (v : Nat) (x : Pte) : b.Reached (b.setPte v x) := rfl
theorem Block.reached_setStk (b : Block) (v : Nat) (x : StackSt) : b.Reached (b.setStk v x) := rfl
theorem Block.reached_pokePhys (b : Block) (k : Nat) (l : List Byte) : b.Reached (b.pokePhys k l) := rfl

theorem eventWord_lt {p : Page} {o : Nat} (h : eventWord p o = true) : o < 4096 := by
  simp only [eventWord, Bool.or_eq_true, Bool.and_eq_true, decide_eq_true_eq] at h
  rcases h with ⟨-, ((rfl | rfl) | rfl) | rfl⟩ | ⟨-, (rfl | rfl) | rfl⟩ <;> decide

theorem Block.rd_wr_event (b : Block) {p : Page} {o : Nat} (ho : o < 4096) (h : eventWord p o = false) {q : Page} {r : Nat} (v : Word)
    (hr : eventWord q r = true) : (b.wr q r v).rd p o = b.rd p o := by
  refine b.rd_wr_other v (eventWord_lt hr) ho ?_
  by_cases hp : p = q
  · right
    rintro rfl
    rw [hp, hr] at h
    cases h
  · exact .inl hp

theorem Block.markHbm_reached (b : Block) (a n : Nat) (w : Bool) :
    b.Reached (b.markHbm a n w) ∧ (b.markHbm a n w).regs = b.regs := by
  unfold Block.markHbm
  split
  · dsimp only
    split
    · split
      · exact ⟨rfl, rfl⟩
      · exact ⟨rfl, rfl⟩
    · exact ⟨rfl, rfl⟩
  · exact ⟨rfl, rfl⟩

theorem Block.rd_of_regs {b b' : Block} (h : b'.regs = b.regs) (p : Page) (o : Nat) : b'.rd p o = b.rd p o := by
  unfold Block.rd Block.reg
  rw [h]

theorem Block.setQueue_reached (b : Block) (st : Nat) (s : StackSt) {p : Page} {o : Nat} (ho : o < 4096) (h : eventWord p o = false) :
    b.Reached (b.setQueue st s) ∧ (b.setQueue st s).rd p o = b.rd p o := by
  refine ⟨(b.reached_setStk st s).trans (Block.reached_wr _ _ _ _), ?_⟩
  exact (Block.rd_wr_event _ ho h _ rfl).trans (Block.rd_of_regs rfl p o)

theorem Block.queueSlots_reached (b : Block) (l : List (Nat × SlotReq)) {p : Page} {o : Nat} (ho : o < 4096)
    (h : eventWord p o = false) : b.Reached (b.queueSlots l) ∧ (b.queueSlots l).rd p o = b.rd p o := by
  unfold Block.queueSlots
  induction l generalizing b with
  | nil => exact ⟨rfl, rfl⟩
  | cons q r ih =>
    have k := b.setQueue_reached q.1 (if (b.stk q.1).takes q.2 then { b.stk q.1 with queue := (b.stk q.1).queue ++ [q.2] }
      else { b.stk q.1 with beyond := (b.stk q.1).beyond ++ [q.2] }) ho h
    have t := ih (b.queueSlot q.1 q.2)
    exact ⟨k.1.trans t.1, t.2.trans k.2⟩

theorem Block.freezeReads_reached (b : Block) (k n : Nat) :
    b.Reached (b.freezeReads k n) ∧ (b.freezeReads k n).regs = b.regs := by
  unfold Block.freezeReads
  split
  · exact ⟨rfl, rfl⟩
  · dsimp only
    split <;> exact ⟨rfl, rfl⟩

theorem Block.touchHbm_reached (b : Block) (a n : Nat) {p : Page} {o : Nat} (ho : o < 4096) (h : eventWord p o = false) :
    b.Reached (b.touchHbm a n) ∧ (b.touchHbm a n).rd p o = b.rd p o := by
  unfold Block.touchHbm
  dsimp only
  split
  · have k := b.markHbm_reached a n false
    refine ⟨k.1.trans rfl, ?_⟩
    exact (Block.rd_wr_event _ ho h _ rfl).trans ((Block.rd_wr_event _ ho h _ rfl).trans (Block.rd_of_regs k.2 p o))
  · exact ⟨rfl, rfl⟩

/-- All a store can do to registers: queue slots. -/
theorem Block.storeAs_reached (b : Block) (owner : SlotOwner) (u d g a : Nat) (l : List Byte) {p : Page} {o : Nat} (ho : o < 4096)
    (h : eventWord p o = false) : b.Reached (b.storeAs owner u d g a l) ∧ (b.storeAs owner u d g a l).rd p o = b.rd p o := by
  unfold Block.storeAs
  generalize pieces 65536 a l.length = ps
  have step : ∀ (ps : List (Nat × Nat)) (x : Block) (f : Block → Nat × Nat → Block),
      (∀ y q, y.Reached (f y q) ∧ (f y q).rd p o = y.rd p o) → x.Reached (ps.foldl f x) ∧ (ps.foldl f x).rd p o = x.rd p o := by
    intro ps
    induction ps with
    | nil => exact fun x f _ => ⟨rfl, rfl⟩
    | cons q r ih =>
      intro x f k
      have t := ih (f x q) f k
      exact ⟨(k x q).1.trans t.1, t.2.trans (k x q).2⟩
  refine step ps b _ (fun y q => ?_)
  dsimp only
  split
  · next d _ =>
    have k := y.freezeReads_reached d q.2
    have m := ((y.freezeReads d q.2).pokePhys d ((l.drop (q.1 - a)).take q.2)).markHbm_reached q.1 q.2 true
    have r1 := Block.rd_of_regs (m.2.trans k.2) p o
    refine ⟨(k.1.trans ((Block.reached_pokePhys _ _ _).trans m.1)).trans (Block.queueSlots_reached _ _ ho h).1,
      (Block.queueSlots_reached _ _ ho h).2.trans r1⟩
  · exact ⟨rfl, rfl⟩

/-- All a store of the module itself can do to registers: queue slots. -/
theorem Block.store_reached (b : Block) (a : Nat) (l : List Byte) {p : Page} {o : Nat} (ho : o < 4096) (h : eventWord p o = false) :
    b.Reached (b.store a l) ∧ (b.store a l).rd p o = b.rd p o := b.storeAs_reached .other 0 0 16 a l ho h

theorem Block.sendVector_reached (b : Block) (v : Nat) : b.Reached (b.sendVector v) ∧ (b.sendVector v).regs = b.regs := by
  unfold Block.sendVector
  split
  · exact ⟨rfl, rfl⟩
  · split <;> exact ⟨rfl, rfl⟩

theorem Block.raiseIbi_reached (b : Block) (l : List Byte) : b.Reached (b.raiseIbi l) ∧ (b.raiseIbi l).regs = b.regs := by
  unfold Block.raiseIbi
  split
  · exact ⟨rfl, rfl⟩
  · split <;> exact ⟨rfl, rfl⟩

theorem Block.ringSend_reached (b : Block) : b.Reached b.ringSend ∧ b.ringSend.regs = b.regs := by
  unfold Block.ringSend
  dsimp only
  split
  · have h := b.sendVector_reached (wfield (b.rd .mod Reg.MOD_EVT_CFG) 15 8)
    have k := Block.raiseIbi_reached (b.sendVector (wfield (b.rd .mod Reg.MOD_EVT_CFG) 15 8))
    exact ⟨h.1.trans (k _).1, (k _).2.trans h.2⟩
  · exact b.sendVector_reached _

theorem Block.ringWrite_spec (b : Block) (x : Posted) {p : Page} {o : Nat} (ho : o < 4096) (h : eventWord p o = false) :
    b.Reached (b.ringWrite x) ∧ (b.ringWrite x).rd p o = b.rd p o := by
  unfold Block.ringWrite
  dsimp only
  split
  · next hc =>
    have h1 := b.store_reached (b.rd64 .mod Reg.MOD_EVT_BASE_LO + 32 * (b.rdN .mod Reg.MOD_EVT_TAIL %
      2 ^ wfield (b.rd .mod Reg.MOD_EVT_CFG) 3 0)) (evtRecord x.code x.page b.now x.barrierSeq x.data) ho h
    generalize b.store _ _ = y at h1
    have h2 : b.Reached (y.wrN .mod Reg.MOD_EVT_TAIL (b.rdN .mod Reg.MOD_EVT_TAIL + 1)) := h1.1.trans (y.reached_wr _ _ _)
    have h3 : (y.wrN .mod Reg.MOD_EVT_TAIL (b.rdN .mod Reg.MOD_EVT_TAIL + 1)).rd p o = b.rd p o :=
      (y.rd_wr_event ho h _ rfl).trans h1.2
    split
    · have k := (y.wrN .mod Reg.MOD_EVT_TAIL (b.rdN .mod Reg.MOD_EVT_TAIL + 1)).ringSend_reached
      exact ⟨h2.trans k.1, (Block.rd_of_regs k.2 p o).trans h3⟩
    · exact ⟨h2, h3⟩
  · refine ⟨rfl, ?_⟩
    exact (Block.rd_wr_event _ ho h _ rfl).trans (Block.rd_wr_event _ ho h _ rfl)

/-- An event counts and takes its place; no word of the aperture changes before its record is due. -/
theorem Block.post_spec (b : Block) (e : Nat) (pg : Page) (data : Nat) :
    b.Reached (b.post e pg data) ∧ (b.post e pg data).regs = b.regs := ⟨rfl, rfl⟩

/-- All that the record of an event can do: it reaches what a store reaches, and no register word but an event's own. -/
theorem Block.ringEvent_spec (b : Block) (x : Posted) {p : Page} {o : Nat} (ho : o < 4096) (h : eventWord p o = false) :
    b.Reached (b.ringEvent x) ∧ (b.ringEvent x).rd p o = b.rd p o := by
  unfold Block.ringEvent
  dsimp only
  have key : b.Reached (if wbit (b.rd .mod Reg.MOD_EVT_CFG) 31 && wbit (b.rd .mod Reg.MOD_EVT_CFG) (16 + evSeverity x.code)
      then b.ringWrite x else b) ∧
      (if wbit (b.rd .mod Reg.MOD_EVT_CFG) 31 && wbit (b.rd .mod Reg.MOD_EVT_CFG) (16 + evSeverity x.code)
      then b.ringWrite x else b).rd p o = b.rd p o := by
    split
    · exact b.ringWrite_spec x ho h
    · exact ⟨rfl, rfl⟩
  split
  · exact ⟨key.1.trans (Block.reached_wr _ _ _ _), (Block.rd_wr_event _ ho h _ rfl).trans key.2⟩
  · exact key

/-- All that a cycle's events can do once its effect is there. -/
theorem Block.settle_spec (b : Block) {p : Page} {o : Nat} (ho : o < 4096) (h : eventWord p o = false) :
    b.Reached b.settle ∧ b.settle.rd p o = b.rd p o := by
  unfold Block.settle
  generalize b.posted = l
  induction l generalizing b with
  | nil => exact ⟨rfl, rfl⟩
  | cons x r ih =>
    have k := b.ringEvent_spec x ho h
    have t := ih (b.ringEvent x)
    exact ⟨k.1.trans t.1, t.2.trans k.2⟩

/-- A cycle leaves its effect, with what the records of its events reach. -/
theorem Block.cycle_spec (b : Block) (f : Block → Block) {p : Page} {o : Nat} (ho : o < 4096) (h : eventWord p o = false) :
    (f { b with posted := [] }).Reached (b.cycle f) ∧ (b.cycle f).rd p o = (f { b with posted := [] }).rd p o := by
  have k := (f { b with posted := [] }).settle_spec ho h
  exact ⟨k.1.trans rfl, k.2⟩

/-- A cycle that raises no event is its effect. -/
theorem Block.cycle_none (b : Block) (f : Block → Block) (h : (f { b with posted := [] }).posted = []) :
    b.cycle f = { f { b with posted := [] } with posted := b.posted } := by
  unfold Block.cycle Block.settle
  rw [h]
  rfl

end Sys2Proof.Machine
end

