-- ==== Sys2Proof/Laws/Log.lean ====
section
/-! SUPPORT. What an entry of the audit log and a write through the gate can change. -/

namespace Sys2Proof.Machine

open Sys2Proof

theorem Block.Entered.refl (b : Block) : b.Entered b := rfl

theorem Block.Entered.trans {a b c : Block} (h : a.Entered b) (k : b.Entered c) : a.Entered c := by
  unfold Block.Entered at *
  rw [k, h]

theorem Block.Reached.entered {a b : Block} (h : a.Reached b) : a.Entered b := by
  unfold Block.Reached Block.Entered at *
  rw [h]

/-- A word that neither an event nor an entry of the log writes. -/
def quietWord (p : Page) (o : Nat) : Bool :=
  decide (o < 4096) && !eventWord p o && !(decide (p = .log) && logWord o) && decide (o ≠ Reg.CHANGE_SEQ)

theorem quietWord_iff {p : Page} {o : Nat} (h : quietWord p o = true) :
    o < 4096 ∧ eventWord p o = false ∧ (decide (p = .log) && logWord o) = false ∧ o ≠ Reg.CHANGE_SEQ := by
  simp only [quietWord, Bool.and_eq_true, decide_eq_true_eq, Bool.not_eq_true'] at h
  exact ⟨h.1.1.1, h.1.1.2, h.1.2, h.2⟩

theorem Block.settle_quiet (b : Block) {p : Page} {o : Nat} (h : quietWord p o = true) : b.settle.rd p o = b.rd p o :=
  (b.settle_spec (quietWord_iff h).1 (quietWord_iff h).2.1).2

theorem Block.entered_wr (b : Block) (p : Page) (o : Nat) (v : Word) : b.Entered (b.wr p o v) := rfl

theorem Block.entered_wr64 (b : Block) (p : Page) (o v : Nat) : b.Entered (b.wr64 p o v) :=
  (b.entered_wr p o _).trans (Block.entered_wr _ p (o + 4) _)

/-! ## The gate -/

/-- A change of a digest word marks PEL_DIGEST_STAT and nothing else. -/
theorem Block.noteDigest_cases (b old : Block) (k : Nat) :
    b.noteDigest old k = b ∨ b.noteDigest old k = b.wrBit .pel Reg.PEL_DIGEST_STAT 31 true := by
  unfold Block.noteDigest
  split
  · exact .inr rfl
  · exact .inl rfl

/-- Through an open gate a write with no entry is its effect, the mark of a digest word aside. -/
theorem Block.gate_none (b : Block) (o : Origin) (p : Page) (off : Nat) (eff : Block → Block)
    (hw : b.writable p off = true) (ho : originFits o p = true) (hl : (loggedReg p off && isOutside o && b.locked o p) = false) :
    b.gate o p off .none eff = (eff b).noteDigest b (addrOf p off) := by
  unfold Block.gate Block.gated
  rw [hw, ho, hl]
  rfl

/-- A write that the gate stops leaves the module, or posts REG_LOCKED. -/
theorem Block.gate_stopped (b : Block) (o : Origin) (p : Page) (off : Nat) (en : Entry) (eff : Block → Block)
    (h : (b.writable p off && originFits o p) = false) : b.gate o p off en eff = b := by
  unfold Block.gate Block.gated
  cases hw : b.writable p off
  · rfl
  · cases ho : originFits o p
    · rfl
    · rw [hw, ho] at h
      cases h

end Sys2Proof.Machine
end

