-- ==== Sys2Proof/Laws/Words.lean ====
section
/-! SUPPORT. What register words read as after the updates of one word, of a 64-bit pair, of a counter. -/

namespace Sys2Proof.Machine

open Sys2Proof

variable (b : Block)

theorem Block.rdN_wrN_self (p : Page) (o v : Nat) : (b.wrN p o v).rdN p o = v % 2 ^ 32 := by
  unfold Block.rdN Block.wrN
  rw [Block.rd_wr_self, BitVec.toNat_ofNat]

theorem Block.rd_wrN_other {p q : Page} {o r : Nat} (v : Nat) (ho : o < 4096) (hr : r < 4096) (h : q ≠ p ∨ r ≠ o) :
    (b.wrN p o v).rd q r = b.rd q r := b.rd_wr_other _ ho hr h

theorem Block.rd_wr64_other {p q : Page} {o r : Nat} (v : Nat) (ho : o + 4 < 4096) (hr : r < 4096)
    (h : q ≠ p ∨ (r ≠ o ∧ r ≠ o + 4)) : (b.wr64 p o v).rd q r = b.rd q r := by
  unfold Block.wr64
  rw [Block.rd_wrN_other _ _ (by omega) hr (h.imp id And.right), Block.rd_wrN_other _ _ (by omega) hr (h.imp id And.left)]

theorem Block.rd64_wr64 (p : Page) (o v : Nat) (ho : o + 4 < 4096) : (b.wr64 p o v).rd64 p o = v % 2 ^ 64 := by
  unfold Block.rd64
  have h1 : (b.wr64 p o v).rdN p o = v % 2 ^ 32 := by
    unfold Block.wr64 Block.rdN
    rw [Block.rd_wrN_other _ _ (by omega) (by omega) (.inr (by omega))]
    exact b.rdN_wrN_self p o v
  have h2 : (b.wr64 p o v).rdN p (o + 4) = v / 2 ^ 32 % 2 ^ 32 := Block.rdN_wrN_self _ p (o + 4) (v / 2 ^ 32)
  rw [h1, h2]
  omega

theorem Block.rd64_lt (p : Page) (o : Nat) : b.rd64 p o < 2 ^ 64 := by
  unfold Block.rd64 Block.rdN
  have h1 := (b.rd p o).isLt
  have h2 := (b.rd p (o + 4)).isLt
  omega

/-- A counter that advances holds its greatest value (R14). -/
theorem Block.rd64_count (p : Page) (o n : Nat) (ho : o + 4 < 4096) :
    (b.count p o n).rd64 p o = min (b.rd64 p o + n) (2 ^ 64 - 1) := by
  unfold Block.count
  rw [Block.rd64_wr64 _ _ _ _ ho]
  exact Nat.mod_eq_of_lt (by omega)

theorem Block.rd_count_other {p q : Page} {o r : Nat} (n : Nat) (ho : o + 4 < 4096) (hr : r < 4096)
    (h : q ≠ p ∨ (r ≠ o ∧ r ≠ o + 4)) : (b.count p o n).rd q r = b.rd q r := b.rd_wr64_other _ ho hr h

theorem Block.rd64_other {c : Block} {p : Page} {o : Nat} (h1 : c.rd p o = b.rd p o) (h2 : c.rd p (o + 4) = b.rd p (o + 4)) :
    c.rd64 p o = b.rd64 p o := by
  unfold Block.rd64 Block.rdN
  rw [h1, h2]

/-- Counters cleared read 0, and every other word of the register map as before. -/
theorem Block.clear64_spec (p : Page) (l : List Nat) (hl : ∀ k ∈ l, k + 4 < 4096) :
    (∀ q r, r < 4096 → (q ≠ p ∨ ∀ k ∈ l, r ≠ k ∧ r ≠ k + 4) → (b.clear64 p l).rd q r = b.rd q r) ∧
    (b.clear64 p l) = { b with regs := (b.clear64 p l).regs } ∧
    ∀ k ∈ l, (∀ j ∈ l, j = k ∨ (j ≠ k + 4 ∧ j + 4 ≠ k)) → (b.clear64 p l).rd64 p k = 0 := by
  unfold Block.clear64
  induction l generalizing b with
  | nil => exact ⟨fun _ _ _ _ => rfl, rfl, fun _ h => absurd h (by simp)⟩
  | cons a l ih =>
    have i := ih (b.wr64 p a 0) (fun k hk => hl k (List.mem_cons_of_mem _ hk))
    have ha := hl a (List.mem_cons_self ..)
    rw [List.foldl_cons]
    refine ⟨fun q r hr h => ?_, ?_, fun k hk hd => ?_⟩
    · rw [i.1 q r hr (h.imp id fun g k hk => g k (List.mem_cons_of_mem _ hk))]
      exact b.rd_wr64_other _ ha hr (h.imp id fun g => g a (List.mem_cons_self ..))
    · rw [i.2.1]
      rfl
    · by_cases hm : k ∈ l
      · exact i.2.2 k hm (fun j hj => hd j (List.mem_cons_of_mem _ hj))
      · have e : k = a := by
          rcases List.mem_cons.1 hk with h | h
          · exact h
          · exact absurd h hm
        subst e
        have e1 : ∀ r, r < 4096 → (r = k ∨ r = k + 4) →
            (List.foldl (fun a o => a.wr64 p o 0) (b.wr64 p k 0) l).rd p r = (b.wr64 p k 0).rd p r := by
          intro r hr h
          refine i.1 p r hr (.inr fun j hj => ?_)
          have hjk : j ≠ k := fun e => hm (e ▸ hj)
          rcases hd j (List.mem_cons_of_mem _ hj) with h' | h'
          · exact absurd h' hjk
          · omega
        rw [Block.rd64_other (b.wr64 p k 0) (e1 k (by omega) (.inl rfl)) (e1 (k + 4) (by omega) (.inr rfl)),
          Block.rd64_wr64 _ _ _ _ ha, Nat.zero_mod]

end Sys2Proof.Machine
end

