-- ==== Sys2Proof/Laws/Gate.lean ====
section
/-! SUPPORT. What a register write through the gate leaves: its effect, and beside it only side words. -/

namespace Sys2Proof.Machine

open Sys2Proof

theorem sideWord_quiet {p : Page} {o : Nat} (ho : o < 4096) (h : sideWord p o = false) : quietWord p o = true := by
  simp only [sideWord, Bool.or_eq_false_iff, decide_eq_false_iff_not] at h
  simp only [quietWord, ho, h.1.1.1, h.1.1.2, h.1.2, decide_true, Bool.not_false, Bool.and_self, ne_eq, not_false_eq_true]

theorem sideWord_digest {p : Page} {o : Nat} (h : sideWord p o = false) : p ≠ .pel ∨ o ≠ Reg.PEL_DIGEST_STAT := by
  simp only [sideWord, Bool.or_eq_false_iff, Bool.and_eq_false_iff, decide_eq_false_iff_not] at h
  exact h.2

/-- MOD_EVT_CFG is a quiet word. -/
theorem quiet_evtCfg : quietWord .mod Reg.MOD_EVT_CFG = true := by decide

/-- Is the event ring off? -/
abbrev Block.ringOff (b : Block) : Prop := wbit (b.rd .mod Reg.MOD_EVT_CFG) 31 = false

/-- `b` is `a` in all but words, events and the audit log. -/
abbrev Block.Apart (a b : Block) : Prop := b = { a with regs := b.regs, evt := b.evt, log := b.log, posted := b.posted }

theorem Block.Apart.trans {a b c : Block} (h : a.Apart b) (k : b.Apart c) : a.Apart c := by
  unfold Block.Apart at *
  rw [k, h]

theorem Block.ringOff_event {b : Block} (h : b.ringOff) (x : Posted) : b.ringEvent x = { b with regs := (b.ringEvent x).regs } ∧
    (b.ringEvent x).ringOff := by
  refine ⟨?_, ?_⟩
  · unfold Block.ringEvent
    dsimp only
    rw [h]
    simp only [Bool.false_and, Bool.false_eq_true, if_false]
    split <;> rfl
  · have k := (b.ringEvent_spec x (p := .mod) (o := Reg.MOD_EVT_CFG) (by decide) (by decide)).2
    unfold Block.ringOff at *
    rw [k]
    exact h

/-- Events whose records the ring does not take change words alone. -/
theorem Block.settle_off (b : Block) (h : b.ringOff) : ∃ r, b.settle = { b with regs := r } := by
  have step : ∀ (l : List Posted) (x : Block), x.ringOff → ∃ r, l.foldl (fun y e => y.ringEvent e) x = { x with regs := r } := by
    intro l
    induction l with
    | nil => exact fun x _ => ⟨x.regs, rfl⟩
    | cons e r ih =>
      intro x hx
      have k := ringOff_event hx e
      obtain ⟨q, hq⟩ := ih _ k.2
      refine ⟨q, ?_⟩
      rw [List.foldl_cons, hq, k.1]
  exact step _ _ h

theorem Block.markHbm_evt (b : Block) (a n : Nat) (w : Bool) : (b.markHbm a n w).evt = b.evt := by
  unfold Block.markHbm
  dsimp only
  repeat' split
  all_goals rfl

theorem Block.queueSlots_evt (b : Block) (l : List (Nat × SlotReq)) : (b.queueSlots l).evt = b.evt := by
  unfold Block.queueSlots
  induction l generalizing b with
  | nil => rfl
  | cons q r ih => exact ih (b.queueSlot q.1 q.2)

theorem Block.freezeReads_evt (b : Block) (k n : Nat) : (b.freezeReads k n).evt = b.evt := by
  unfold Block.freezeReads
  dsimp only
  repeat' split
  all_goals rfl

theorem Block.storeAs_evt (b : Block) (owner : SlotOwner) (u d g a : Nat) (l : List Byte) :
    (b.storeAs owner u d g a l).evt = b.evt := by
  unfold Block.storeAs
  generalize pieces 65536 a l.length = ps
  induction ps generalizing b with
  | nil => rfl
  | cons p r ih =>
    refine (ih _).trans ?_
    dsimp only
    split
    · exact (Block.queueSlots_evt _ _).trans ((Block.markHbm_evt _ _ _ _).trans (Block.freezeReads_evt _ _ _))
    · rfl

theorem Block.store_evt (b : Block) (a : Nat) (l : List Byte) : (b.store a l).evt = b.evt := b.storeAs_evt .other 0 0 16 a l

theorem Block.ringSend_evt (b : Block) : b.ringSend.evt = b.evt := by
  have v : ∀ n, (b.sendVector n).evt = b.evt := by
    intro n
    unfold Block.sendVector
    repeat' split
    all_goals rfl
  have i : ∀ (x : Block) (l : List Byte), (x.raiseIbi l).evt = x.evt := by
    intro x l
    unfold Block.raiseIbi
    repeat' split
    all_goals rfl
  unfold Block.ringSend
  dsimp only
  split
  · exact (i _ _).trans (v _)
  · exact v _

theorem Block.ringWrite_evt (b : Block) (x : Posted) : (b.ringWrite x).evt = b.evt := by
  suffices h : ∀ z, z = b.ringWrite x → z.evt = b.evt from h _ rfl
  intro z hz
  unfold Block.ringWrite at hz
  dsimp only at hz
  split at hz
  · split at hz <;> rw [hz]
    · rw [Block.ringSend_evt, Block.wrN_evt, Block.store_evt]
    · rw [Block.wrN_evt, Block.store_evt]
  · rw [hz, Block.count_evt]

theorem Block.ringEvent_evt (b : Block) (x : Posted) : (b.ringEvent x).evt = b.evt := by
  unfold Block.ringEvent
  dsimp only
  split <;> split
  · rw [Block.wrN_evt, Block.ringWrite_evt]
  · rw [Block.wrN_evt]
  · rw [Block.ringWrite_evt]
  · rfl

theorem Block.settle_evt (b : Block) : b.settle.evt = b.evt := by
  unfold Block.settle
  generalize b.posted = l
  induction l generalizing b with
  | nil => rfl
  | cons x r ih => rw [List.foldl_cons, ih, Block.ringEvent_evt]

theorem Block.evtCount_of_evt {a b : Block} (h : a.evt = b.evt) (k : Nat) : a.evtCount k = b.evtCount k := by
  unfold Block.evtCount
  rw [h]

/-- The records of a cycle count nothing: its events have been counted. -/
theorem Block.cycle_evtCount (b : Block) (f : Block → Block) (k : Nat) :
    (b.cycle f).evtCount k = (f { b with posted := [] }).evtCount k :=
  Block.evtCount_of_evt (f { b with posted := [] }).settle_evt k

/-- An event counts under its code and under no other. -/
theorem Block.post_evtCount (b : Block) (e : Nat) (p : Page) (data k : Nat) :
    (b.post e p data).evtCount k = if k = e then satAdd64 (b.evtCount e) 1 else b.evtCount k := by
  have h : (b.post e p data).evtCount k = Sparse.get (fun _ => 0) (b.post e p data).evt k := rfl
  rw [h, show (b.post e p data).evt = Sparse.put (fun _ => 0) b.evt e (satAdd64 (b.evtCount e) 1) from rfl, Sparse.get_put]
  rfl

theorem Block.Logged.refl (b : Block) : b.Logged b := ⟨fun _ _ _ _ => rfl, fun _ _ => rfl, rfl, fun _ => rfl⟩

theorem Block.Logged.ringOff {a b : Block} (h : a.Logged b) (k : a.ringOff) : b.ringOff := by
  unfold Block.ringOff
  rw [h.1 _ _ (by decide) (by decide)]
  exact k

theorem Block.Logged.trans {a b c : Block} (h : a.Logged b) (k : b.Logged c) : a.Logged c :=
  ⟨fun p o ho hs => (k.1 p o ho hs).trans (h.1 p o ho hs), fun e he => (k.2.1 e he).trans (h.2.1 e he), h.2.2.1.trans k.2.2.1,
    fun r => Block.Apart.trans (h.2.2.2 r) (k.2.2.2 (h.ringOff r))⟩

/-- A side word is no other's. -/
theorem Block.logged_wr (b : Block) (p : Page) (o : Nat) (v : Word) (ho : o < 4096) (h : sideWord p o = true) :
    b.Logged (b.wr p o v) := by
  refine ⟨fun q r hr hs => b.rd_wr_other v ho hr ?_, fun _ _ => rfl, rfl, fun _ => rfl⟩
  by_cases e : q = p ∧ r = o
  · rw [e.1, e.2, h] at hs
    cases hs
  · by_cases e1 : q = p
    · exact .inr fun e2 => e ⟨e1, e2⟩
    · exact .inl e1

theorem Block.logged_wr64 (b : Block) (p : Page) (o v : Nat) (ho : o + 4 < 4096) (h : sideWord p o = true)
    (k : sideWord p (o + 4) = true) : b.Logged (b.wr64 p o v) :=
  (b.logged_wr p o _ (by omega) h).trans (Block.logged_wr _ p _ _ ho k)

theorem Block.syncLog_logged (b : Block) : b.Logged b.syncLog := by
  have step : ∀ (l : List Nat) (x : Block), (∀ i ∈ l, Reg.LOG_CHAIN i < 4096 ∧ sideWord .log (Reg.LOG_CHAIN i) = true) → b.Logged x →
      b.Logged (l.foldl (fun a i => a.wr .log (Reg.LOG_CHAIN i) (hashWord a.log.chain i)) x) := by
    intro l
    induction l with
    | nil => exact fun _ _ h => h
    | cons i r ih =>
      intro x hl hx
      refine ih _ (fun j hj => hl j (List.mem_cons_of_mem _ hj)) (hx.trans ?_)
      exact x.logged_wr _ _ _ (hl i List.mem_cons_self).1 (hl i List.mem_cons_self).2
  unfold Block.syncLog
  refine step _ _ (by decide) ?_
  exact ((b.logged_wr .log _ _ (by decide) (by decide)).trans (Block.logged_wr64 _ .log _ _ (by decide) (by decide) (by decide))).trans
    (Block.logged_wr64 _ .log _ _ (by decide) (by decide) (by decide))

theorem Block.logged_full (b : Block) : b.Logged (b.post Ev.LOG_FULL .log 0) := by
  refine ⟨fun _ _ _ _ => rfl, fun e he => ?_, rfl, fun _ => rfl⟩
  rw [b.post_evtCount, if_neg he]

/-- Records of events write side words, and where the ring is off nothing else. -/
theorem Block.settle_logged (b : Block) : b.Logged b.settle := by
  refine ⟨fun p o ho hs => b.settle_quiet (sideWord_quiet ho hs), fun e _ => Block.evtCount_of_evt b.settle_evt e,
    (b.settle_spec (p := .mod) (o := Reg.MOD_EVT_CFG) (by decide) (by decide)).1.entered, fun h => ?_⟩
  obtain ⟨r, k⟩ := b.settle_off h
  rw [k]

theorem Block.logged_posted (b : Block) (l : List Posted) : b.Logged { b with posted := l } :=
  ⟨fun _ _ _ _ => rfl, fun _ _ => rfl, rfl, fun _ => rfl⟩

theorem Block.logged_log (b : Block) (l : LogSt) : b.Logged { b with log := l } :=
  ⟨fun _ _ _ _ => rfl, fun _ _ => rfl, rfl, fun _ => rfl⟩

theorem Block.logPush_logged (b : Block) (og : Origin) (kind offset old new : Nat) : b.Logged (b.logPush og kind offset old new) := by
  unfold Block.logPush
  dsimp only
  generalize hc : ({ b with log := _ } : Block) = c
  have h0 : b.Logged c := by subst hc; exact b.logged_log _
  refine h0.trans ?_
  have last : ∀ d : Block, c.Logged d →
      c.Logged (if d.syncLog.log.entries.length = logSize then d.syncLog.post Ev.LOG_FULL .log 0 else d.syncLog) := by
    intro d hd
    split
    · exact (hd.trans d.syncLog_logged).trans d.syncLog.logged_full
    · exact hd.trans d.syncLog_logged
  split
  · refine last _ (c.logged_wr _ _ _ (by decide) (by simp [sideWord]))
  · exact last _ (.refl c)

theorem Block.logAppend_logged (b : Block) (og : Origin) (kind offset old new : Nat) :
    b.Logged (b.logAppend og kind offset old new) := by
  unfold Block.logAppend
  dsimp only
  have drop : ∀ x : Block, x.Logged { x.count .log Reg.LOG_DROPPED 1 with log := { x.log with dropped := x.log.dropped + 1 } } :=
    fun x => (x.logged_wr64 .log _ _ (by decide) (by decide) (by decide)).trans (Block.logged_log _ _)
  split
  · exact drop b
  · generalize hc : (if b.log.dropped = 0 then b
      else ({ b with log := { b.log with dropped := 0 } } : Block).logPush .self LogKind.gap 0 0
        (min b.log.dropped (2 ^ 32 - 1))) = c
    have h0 : b.Logged c := by
      subst hc
      split
      · exact .refl b
      · exact (b.logged_log _).trans (Block.logPush_logged _ _ _ _ _ _)
    split
    · exact h0.trans (drop c)
    · exact h0.trans (c.logPush_logged _ _ _ _ _)

theorem Block.noteDigest_logged (b old : Block) (k : Nat) : b.Logged (b.noteDigest old k) := by
  rcases b.noteDigest_cases old k with e | e <;> rw [e]
  · exact .refl b
  · exact b.logged_wr _ _ _ (by decide) (by decide)

/-- A write that the gate admits is its effect, with an entry or without one. -/
theorem Block.gate_cases (b : Block) (o : Origin) (p : Page) (off : Nat) (en : Entry) (eff : Block → Block)
    (h : b.admits o p off = true) :
    b.gate o p off en eff = (eff b).noteDigest b (addrOf p off) ∨
    ∃ k x y, b.gate o p off en eff = ((eff b).noteDigest b (addrOf p off)).logAppend o k (addrOf p off) x y := by
  simp only [Block.admits, Bool.and_eq_true, Bool.or_eq_true, Bool.not_eq_true'] at h
  obtain ⟨⟨hw, ho⟩, hl⟩ := h
  have hl1 : (loggedReg p off && isOutside o && b.locked o p) = false := by
    rcases hl with hl | hl
    · rw [hl]; rfl
    · rw [hl.1, Bool.and_false]
  have hl2 : (isOutside o && loggedReg p off && b.strictFull) = false := by
    rcases hl with hl | hl
    · rw [Bool.and_comm (isOutside o), hl]; rfl
    · rw [hl.2, Bool.and_false]
  unfold Block.gate Block.gated
  rw [hw, ho, hl1]
  simp only [Bool.not_true, Bool.false_eq_true, if_false, hl2]
  cases en with
  | none => exact .inl rfl
  | deferred => exact .inl rfl
  | change =>
    dsimp only
    split
    · exact .inl rfl
    · exact .inr ⟨_, _, _, rfl⟩
  | command v =>
    dsimp only
    split
    · exact .inr ⟨_, _, _, rfl⟩
    · exact .inl rfl
  | table x y => exact .inr ⟨_, _, _, rfl⟩
  | reset k => exact .inr ⟨_, _, _, rfl⟩

/-- All that an admitted write leaves: its effect, with what the gate adds. -/
theorem Block.gate_spec (b : Block) (o : Origin) (p : Page) (off : Nat) (en : Entry) (eff : Block → Block)
    (h : b.admits o p off = true) : (eff b).Logged (b.gate o p off en eff) := by
  have d := (eff b).noteDigest_logged b (addrOf p off)
  rcases b.gate_cases o p off en eff h with g | ⟨k, x, y, g⟩ <;> rw [g]
  · exact d
  · exact d.trans (Block.logAppend_logged _ _ _ _ _ _)

/-- A register write whose gate admits it completes with its effect. -/
theorem completes_gate {c : Instr} {s : State} {o : Origin} {p : Page} {off : Nat} {en : Entry} {eff : Block → Block}
    {f : Block → Block} {P : Block → Prop} (he : exec c s = s.onWrite o f)
    (hf : ∀ b, b = { s.block with posted := [] } → f b = b.gate o p off en eff)
    (hd : s.block.doorOpen o = true) (ha : s.block.admits o p off = true)
    (hp : ∀ b : Block, (eff { s.block with posted := [] }).Logged b → P b) : Completes c s P := by
  refine ⟨s.block.cycle f, ?_, hp _ ?_⟩
  · rw [he, State.onWrite_next _ _ _ hd]
  · unfold Block.cycle
    rw [hf _ rfl]
    exact ((Block.gate_spec { s.block with posted := [] } o p off en eff ha).trans (Block.settle_logged _)).trans
      (Block.logged_posted _ _)

/-- A step of an engine completes while the module runs. -/
theorem completes_block {c : Instr} {s : State} {f : Block → Block} {P : Block → Prop} (he : exec c s = s.onBlock f)
    (hr : s.block.running = true) (hp : P (s.block.cycle f)) : Completes c s P :=
  ⟨s.block.cycle f, by rw [he, State.onBlock_next _ _ hr], hp⟩

/-- An event at a pin or a port completes. -/
theorem completes_port {c : Instr} {s : State} {f : Fuses → Block → Block} {P : Block → Prop} (he : exec c s = s.onPort f)
    (hp : P (s.block.cycle (f s.fuses))) : Completes c s P := ⟨s.block.cycle (f s.fuses), he, hp⟩

end Sys2Proof.Machine
end

