-- ==== Sys2Proof/Laws/Memory.lean ====
section
/-! SUPPORT. Every operation on memory keeps its canonical form: a poke, a store, the marks of an access, and reset memory has it. -/

namespace Sys2Proof.Machine

open Sys2Proof

theorem Block.memWf_of_eq {a b : Block} (hm : b.mem = a.mem) (hd : b.memDef = a.memDef) (h : a.memWf = true) : b.memWf = true := by
  unfold Block.memWf at *
  rw [hm, hd]
  exact h

theorem Block.memDef_pokePhys (b : Block) (k : Nat) (l : List Byte) : (b.pokePhys k l).memDef = b.memDef := rfl

theorem Block.memWf_pokePhys (b : Block) (k : Nat) (l : List Byte) (h : b.memWf = true) : (b.pokePhys k l).memWf = true :=
  Sparse.wf_putList _ l _ k h

theorem Block.mem_markHbm (b : Block) (a n : Nat) (w : Bool) :
    (b.markHbm a n w).mem = b.mem ∧ (b.markHbm a n w).memDef = b.memDef := by
  unfold Block.markHbm
  dsimp only
  constructor <;> (repeat' split) <;> rfl

theorem Block.mem_queueSlots (b : Block) (l : List (Nat × SlotReq)) :
    (b.queueSlots l).mem = b.mem ∧ (b.queueSlots l).memDef = b.memDef := by
  unfold Block.queueSlots
  induction l generalizing b with
  | nil => exact ⟨rfl, rfl⟩
  | cons q r ih => exact ih (b.queueSlot q.1 q.2)

theorem Block.mem_freezeReads (b : Block) (k n : Nat) :
    (b.freezeReads k n).mem = b.mem ∧ (b.freezeReads k n).memDef = b.memDef := by
  unfold Block.freezeReads
  split
  · exact ⟨rfl, rfl⟩
  · dsimp only
    split <;> exact ⟨rfl, rfl⟩

theorem Block.mem_touchHbm (b : Block) (a n : Nat) :
    (b.touchHbm a n).mem = b.mem ∧ (b.touchHbm a n).memDef = b.memDef := by
  unfold Block.touchHbm
  dsimp only
  split
  · exact b.mem_markHbm a n false
  · exact ⟨rfl, rfl⟩

theorem Block.memWf_touchHbm (b : Block) (a n : Nat) (h : b.memWf = true) : (b.touchHbm a n).memWf = true :=
  Block.memWf_of_eq (b.mem_touchHbm a n).1 (b.mem_touchHbm a n).2 h

theorem Block.memWf_storeAs (b : Block) (owner : SlotOwner) (u d g a : Nat) (l : List Byte) (h : b.memWf = true) :
    (b.storeAs owner u d g a l).memWf = true := by
  unfold Block.storeAs
  generalize pieces 65536 a l.length = ps
  induction ps generalizing b with
  | nil => exact h
  | cons p ps ih =>
    rw [List.foldl_cons]
    apply ih
    split
    · next k _ =>
      have f := b.mem_freezeReads k p.2
      refine Block.memWf_of_eq (Block.mem_queueSlots _ _).1 (Block.mem_queueSlots _ _).2 ?_
      refine Block.memWf_of_eq (Block.mem_markHbm _ _ _ _).1 (Block.mem_markHbm _ _ _ _).2 ?_
      exact Block.memWf_pokePhys _ _ _ (Block.memWf_of_eq f.1 f.2 h)
    · exact h

theorem Block.memWf_store (b : Block) (a : Nat) (l : List Byte) (h : b.memWf = true) : (b.store a l).memWf = true :=
  b.memWf_storeAs .other 0 0 16 a l h

theorem Block.memWf_storeNum (b : Block) (a n v : Nat) (h : b.memWf = true) : (b.storeNum a n v).memWf = true :=
  b.memWf_store a (toBytes n v) h

theorem Block.memWf_setPoison (b : Block) (a : Nat) (v : Bool) (h : b.memWf = true) : (b.setPoison a v).memWf = true := by
  unfold Block.setPoison
  split <;> exact h

theorem State.reset_memWf : State.reset.block.memWf = true := rfl

end Sys2Proof.Machine
end

