-- ==== Sys2Proof/Tests/Slice0.lean ====
section
/-! SUPPORT. Tests: an ill-formed command for each check of WellFormed, a state and operands that meet the hypotheses of each
statement (clause by clause at boundary values), and results worked out by hand from the manual. -/

open Sys2Proof Sys2Proof.Machine

namespace Sys2Proof.Tests

set_option Elab.async false

/-! ## States to start from -/

/-- A running module whose host port is up, in D0, its synthesisers locked. -/
def up : State :=
  let b := (State.reset.block.wrN .clk Reg.CLK_LOCK0 (2 ^ 31 + 0x3FFFF)).wrN .clk Reg.CLK_LOCK1 0xFFFFF
  { State.reset with block := { b with boot := { b.boot with run := .running }, host := { b.host with linkUp := true } } }

/-- The running module after a change. -/
def upWith (f : Block → Block) : State := { up with block := f up.block }

/-- Set register words. -/
def setRegs (l : List (Page × Nat × Nat)) (b : Block) : Block := l.foldl (fun x r => x.wrN r.1 r.2.1 r.2.2) b

/-- The running module with register words set. -/
def upRegs (l : List (Page × Nat × Nat)) : State := upWith (setRegs l)

/-- A record of a kind, a BUDGET of 1,000, its other fields 0. -/
def recOf (kind : Nat) : TaskRec := { TaskRec.ofBytes (List.replicate 128 0) with kind := BitVec.ofNat 16 kind, budget := 1000 }

/-- An admitted task of a record on its unit's own ring. -/
def taskOf (r : TaskRec) : TaskSt :=
  { serial := 7, path := 0, ctx := 0, task := r, parent := none, root := none, wait0 := none, wait1 := none, sig0 := none, sig1 := none,
    confirm := none, discard := none, phase := .admitted, links := [r], link := 0, cursor := 0, items := 0, cycles := 0, busy := 0,
    faultCode := none, statusCode := 0, exceeded := false, decision := .open_, decided := false, shadow := none, shadowAsked := false,
    colFirst := 0, colCount := none, tally := [], dispCnt := [], acks := [], shareCount := 0, shares := [], sigDone := false,
    heldAt := 0, slewHeld := false, arriveTime := 0, group := [],
    runahead := 0, overlap := false, kept := [], listsOut := [], dropped := [], refetch := [] }

/-- The block with tasks on a unit's board. -/
def onBoard (u : UnitId) (l : List TaskSt) (b : Block) : Block := b.setUnit u { b.unit u with board := l }

/-! ## Operands (WellFormed): an ill-formed term for each check, and what the check lets pass -/

theorem test_ill_formed_register_write : (Instr.registerWrite .host 2 0).wellFormed = false := by decide
theorem test_ill_formed_unaligned_access : (Instr.registerAccessUnaligned 8 4).wellFormed = false ∧
    (Instr.registerAccessUnaligned 8 0).wellFormed = false := by decide
theorem test_ill_formed_admit : (Instr.taskAdmit (.core 0) (some (1, 2, [0]))).wellFormed = false := by decide
theorem test_ill_formed_hello : (Instr.colHello 1 4096 [0, 0, 0, 0, 0, 0, 0, 0]).wellFormed = false ∧
    (Instr.colHello 1 5 [0]).wellFormed = false := by decide
theorem test_ill_formed_data : (Instr.colData 1 4096 [] []).wellFormed = false := by decide
theorem test_ill_formed_ack : (Instr.colAck 1 4096).wellFormed = false := by decide
theorem test_ill_formed_abort : (Instr.colAbort 1 4096).wellFormed = false := by decide
theorem test_ill_formed_flit : (Instr.flitReceive 0 [0]).wellFormed = false := by decide
theorem test_ill_formed_grant : (Instr.grantInterval [(39, 1)]).wellFormed = false := by decide
theorem test_ill_formed_temps : (Instr.tempSample [25]).wellFormed = false := by decide
theorem test_ill_formed_slacks : (Instr.ageMonitorRead [25]).wellFormed = false := by decide
theorem test_ill_formed_training : (Instr.stackTraining 0 true [64]).wellFormed = false := by decide
theorem test_ill_formed_transfer : (Instr.pkgnetTransfer 3 3 .semSignal none).wellFormed = false := by decide
theorem test_ill_formed_aperture_read : (Instr.memoryApertureRead 0 0 .none).wellFormed = false ∧
    (Instr.memoryApertureRead 0 4097 .none).wellFormed = false ∧ (Instr.memoryApertureRead (2 ^ 35) 1 .none).wellFormed = false := by decide
theorem test_ill_formed_aperture_write : (Instr.memoryApertureWrite 0 []).wellFormed = false ∧
    (Instr.memoryApertureWrite (2 ^ 35) [0]).wellFormed = false := by decide
theorem test_ill_formed_bus_write : (Instr.i3cRegisterWrite 2 0).wellFormed = false := by decide
theorem test_ill_formed_bus_read : (Instr.i3cSelectRead (2 ^ 26)).wellFormed = false := by decide
theorem test_ill_formed_address : (Instr.entdaa 128).wellFormed = false ∧ (Instr.setdasa 0).wellFormed = false ∧
    (Instr.setnewda 128).wellFormed = false := by decide
theorem test_ill_formed_events : (Instr.enec 256).wellFormed = false ∧ (Instr.disec 256).wellFormed = false := by decide
theorem test_ill_formed_rstact : (Instr.rstact 256).wellFormed = false := by decide
theorem test_ill_formed_private : (Instr.jtagPrivate 0x7F).wellFormed = false ∧ (Instr.jtagPrivate 0xFF).wellFormed = false := by decide
theorem test_ill_formed_replan : (Instr.marginReplan .host 0 [0]).wellFormed = false := by decide
theorem test_well_formed : (Instr.registerWrite .host 0x40 0).wellFormed = true ∧ (Instr.bypass).wellFormed = true ∧
    (Instr.pkgnetTransfer 0 1 .semSignal none).wellFormed = true ∧ (Instr.jtagPrivate 0x80).wellFormed = true := by decide

/-! ## Witnesses: states and operands that meet the hypotheses of each statement -/

theorem test_front_hyp : ({ State.reset with pending := [.bypass, .idcode] }).pending = .bypass :: [.idcode] := by decide
theorem test_idle_hyp : up.pending = [] ∧ up.block.cmbUp = true ∧ up.block.now < 2 ^ 64 - 1 := by decide
theorem test_fuses_hyp : up.fuses.issued = true ∧ ∃ t, step up = .next t := ⟨by decide, _, rfl⟩
theorem test_canonical_hyp : up.block.memWf = true ∧ ∃ t, step up = .next t := ⟨by decide, _, rfl⟩
theorem test_answers_hyp : ∀ k, Instr.bypass ≠ .jtagPrivate k := by intro k h; cases h
theorem test_engines_hyp : (Instr.grantInterval []).isEngine = true ∧ State.reset.block.running = false := by decide
theorem test_door_hyp : (Instr.registerWrite .host 0x40 0).writeOrigin = some .host ∧ State.reset.block.doorOpen .host = false := by decide
set_option maxRecDepth 4000 in
theorem test_record_hyp : (recOf 4).params.length = 32 ∧ (List.replicate 128 (0 : Byte)).length = 128 := by decide

/-- A running module with one DATA allocation of two slabs at the start of TILE[0]. -/
def withSlab : State :=
  upWith (fun b => b.setTile 0 { b.tile 0 with allocs := [{ base := 0, slabs := [5, 6], kind := .data, gen := 1, binds := [], freed := false }] })

theorem test_store_hyp : (∀ i < [(1 : Byte), 2].length, withSlab.block.resolveOwn (16 + i) = .phys (327696 + i)) ∧
    16 / 65536 = (16 + [(1 : Byte), 2].length - 1) / 65536 ∧ 0 < [(1 : Byte), 2].length := by decide
theorem test_plain_write_hyp : (regAt? .pwr Reg.PWR_LIMIT).isSome = true ∧ Reg.PWR_LIMIT < 4096 ∧ Reg.PWR_LIMIT % 4 = 0 ∧
    ownRow .pwr Reg.PWR_LIMIT = false ∧ up.takes .host .pwr Reg.PWR_LIMIT = true := by decide
theorem test_predictor_hyp : up.takes .host (.drl 5) Reg.DRL_PRED = true ∧ wfield (3 : Word) 1 0 = 3 ∧ wfield (2 : Word) 1 0 ≠ 3 := by decide
theorem test_seed_hyp : up.takes .mgmt (.drn 127) Reg.DRN_SR_SEED_HI = true ∧ up.takes .host (.azn 19) Reg.AZN_SR_SEED_HI = true := by
  decide
theorem test_counter_read_hyp : ∃ r, regAt? .clk Reg.CLK_MCLK_COUNT = some r ∧ isCounter r = true ∧
    (Reg.CLK_MCLK_COUNT - r.off) % r.stride = 0 := ⟨_, rfl, by decide, by decide⟩
theorem test_counter_read_wide_hyp : ∃ r, regAt? (.drn 3) (Reg.DRN_VANISH 9) = some r ∧ isCounter r = true ∧
    (Reg.DRN_VANISH 9 - r.off) % r.stride = 0 := ⟨_, rfl, by decide, by decide⟩
/-- R13 on a counter at 2^32 - 1 that counts on between the two reads: the high word is that of the first read. -/
theorem test_counter_latch :
    let b := setRegs [(.clk, 0x048, 0xFFFFFFFF)] up.block
    let low := b.readReg (addrOf .clk 0x048)
    let later := setRegs [(.clk, 0x048, 0), (.clk, 0x04C, 1)] low.2
    low.1 = 0xFFFFFFFF ∧ (later.readReg (addrOf .clk 0x04C)).1 = 0 := by decide
theorem test_clear_hyp : clearRow (.tileSramCntClr .host 15 1) = some (.host, .tile 15, Reg.TILE_SRAM_CNT_CLR, [Reg.TILE_SRAM_CE, Reg.TILE_SRAM_UE]) ∧
    up.takes .host (.tile 15) Reg.TILE_SRAM_CNT_CLR = true := by decide
theorem test_clear_tables_hyp : up.takes .host (.sch .wholeModule) Reg.SCH_IDLE_CLR = true ∧ up.takes .mgmt .age Reg.AGE_CNT_CLR = true ∧
    up.takes .host .mod Reg.MOD_EVT_CNT_CLR = true ∧ up.takes .host .exd Reg.EXD_CNT_CLR = true ∧
    wbit (3 : Word) 0 = true ∧ wbit (3 : Word) 1 = true ∧ wbit (1 : Word) 1 = false ∧ wbit (2 : Word) 0 = false := by decide
theorem test_event_ring_hyp : up.takes .host .mod Reg.MOD_EVT_CFG = true ∧ up.takes .host .mod Reg.MOD_EVT_HEAD = true ∧
    up.takes .host .mod Reg.MOD_EVT_CNT_SEL = true ∧
    2 ^ wfield (up.block.rd .mod Reg.MOD_EVT_CFG) 3 0 < diff32 (up.block.rdN .mod Reg.MOD_EVT_TAIL) (1 : Word).toNat ∧
    diff32 (up.block.rdN .mod Reg.MOD_EVT_TAIL) (0 : Word).toNat ≤ 2 ^ wfield (up.block.rd .mod Reg.MOD_EVT_CFG) 3 0 := by decide
theorem test_line_hyp :
    let s := upWith (fun b => { setRegs [(.mbx 0, 0x010, 1), (.mbx 0, 0x014, 1)] b with host := { b.host with msixEnable := true } })
    s.block.cmbUp = true ∧ s.block.lineHigh (.mbx 0) = true ∧ s.block.host.high.contains (pageIndex (.mbx 0)) = false ∧
    s.block.host.msixEnable = true ∧ s.block.lineHigh (.mbx 1) = false ∧ s.takes .host (.mbx 0) Reg.INT_FORCE = true := by decide
theorem test_unmask_hyp :
    let s := upWith (fun b => { b with host := { b.host with msixEnable := true, msixPend := [255] } })
    s.block.hostOpen = true ∧ wbit (0 : Word) 0 = false ∧ s.block.host.msixEnable = true ∧ s.block.host.msixPend.contains 255 = true := by
  decide
theorem test_lock_hyp : up.block.doorOpen .host = true ∧ originFits .host .pwr = true ∧ up.block.strictFull = false := by decide
theorem test_locked_write_hyp :
    let s := upRegs [(.pwr, Reg.LOCK, 2 ^ 31)]
    (regAt? .pwr Reg.PWR_LIMIT).isSome = true ∧ ownRow .pwr Reg.PWR_LIMIT = false ∧ s.block.doorOpen .host = true ∧
    s.block.writable .pwr Reg.PWR_LIMIT = true ∧ originFits .host .pwr = true ∧ isOutside .host = true ∧
    loggedReg .pwr Reg.PWR_LIMIT = true ∧ s.block.locked .host .pwr = true := by decide
/-- The locked page with the event ring on, its 256 slots in the slab of `withSlab`. -/
def ringUp (tail : Nat) : State :=
  { withSlab with block := setRegs [(.pwr, Reg.LOCK, 2 ^ 31), (.mod, Reg.MOD_EVT_CFG, 0x800E0008), (.mod, Reg.MOD_EVT_TAIL, tail)] withSlab.block }
theorem test_event_record_hyp :
    let s := ringUp 0
    s.block.doorOpen .host = true ∧ s.block.writable .pwr Reg.PWR_LIMIT = true ∧ s.block.locked .host .pwr = true ∧
    wbit (s.block.rd .mod Reg.MOD_EVT_CFG) 31 = true ∧ wbit (s.block.rd .mod Reg.MOD_EVT_CFG) (16 + evSeverity Ev.REG_LOCKED) = true ∧
    diff32 (s.block.rdN .mod Reg.MOD_EVT_TAIL) (s.block.rdN .mod Reg.MOD_EVT_HEAD) < 256 ∧
    (∀ i < 32, s.block.resolveOwn i = .phys (327680 + i)) ∧
    256 ≤ diff32 ((ringUp 256).block.rdN .mod Reg.MOD_EVT_TAIL) ((ringUp 256).block.rdN .mod Reg.MOD_EVT_HEAD) := by decide
theorem test_event_order :
    let b := ((up.block.post Ev.BRAKE_ON .pwr 0).post Ev.CLK_REF_LOST .clk 0).post Ev.RING_ALIGN .mod 0
    b.posted.map (fun x => x.code) = [Ev.RING_ALIGN, Ev.BRAKE_ON, Ev.CLK_REF_LOST] := by decide
theorem test_error_last_hyp : evSeverity Ev.THERMAL_TRIP = 3 ∧ (up.block.post Ev.THERMAL_TRIP .pwr 0).posted =
    [] ++ [{ code := Ev.THERMAL_TRIP, page := pageIndex .pwr, data := 0, barrierSeq := up.block.pel.lastSeq }] := by decide
theorem test_window_hyp : up.takes .host .mod (Reg.MOD_WIN_BASE_HI 3) = true ∧ up.takes .mgmt .mod (Reg.MOD_WIN_BASE_LO 0) = true := by decide
theorem test_aperture_hyp : withSlab.block.hostOpen = true ∧ withSlab.block.boot.run = .running ∧ withSlab.block.windowAddr 16 = 16 ∧
    withSlab.block.resolve 16 = .phys 327696 ∧ Sparse.get (fun _ => false) withSlab.block.poison (327696 / 8) = false ∧
    withSlab.block.sealed 16 = false ∧ withSlab.block.resolve (2 * 65536) = .unmapped ∧ withSlab.block.sealed (2 * 65536) = false ∧
    withSlab.block.windowAddr (2 * 65536) = 2 * 65536 := by decide
theorem test_unaligned_hyp : up.block.host.linkUp = true ∧ ¬ ((8 : Nat) = 4 ∧ (0x40 : BitVec 26).toNat % 4 = 0) := by decide
theorem test_ring_index_hyp :
    let s := upRegs [(.sch (.core 0), Reg.SCH_TRING_HEAD, 0xFFFFFFFF)]
    s.block.doorOpen .host = true ∧ s.block.present (.sch (.core 0)) = true ∧
    diff32 (15 : Word).toNat (s.block.rdN (.sch (.core 0)) Reg.SCH_TRING_HEAD) ≤ 2 ^ wfield (s.block.rd (.sch (.core 0)) Reg.SCH_RING_CFG) 3 0 ∧
    2 ^ wfield (s.block.rd (.sch (.core 0)) Reg.SCH_RING_CFG) 3 0 < diff32 (16 : Word).toNat (s.block.rdN (.sch (.core 0)) Reg.SCH_TRING_HEAD) ∧
    s.block.present (.sch (.gang 0 0)) = false ∧ s.takes .host (.sch (.core 0)) Reg.SCH_CRING_HEAD = true ∧
    diff32 (s.block.rdN (.sch (.core 0)) Reg.SCH_CRING_TAIL) (0 : Word).toNat ≤ 2 ^ wfield (s.block.rd (.sch (.core 0)) Reg.SCH_RING_CFG) 11 8 ∧
    2 ^ wfield (s.block.rd (.sch (.core 0)) Reg.SCH_RING_CFG) 11 8 < diff32 (s.block.rdN (.sch (.core 0)) Reg.SCH_CRING_TAIL) (1 : Word).toNat := by
  decide
theorem test_ring_config_hyp : up.takes .host (.sch .wholeModule) Reg.SCH_RING_CFG = true ∧
    wbit (up.block.rd (.sch .wholeModule) Reg.SCH_RING_CFG) 24 = false ∧
    wbit ((upRegs [(.sch .wholeModule, Reg.SCH_RING_CFG, 2 ^ 24)]).block.rd (.sch .wholeModule) Reg.SCH_RING_CFG) 24 = true := by decide
theorem test_gang_hyp :
    let v : Word := 0x80000003
    let p : Page := .tile 15
    let new := up.block.writeFields p (Reg.TILE_GANG_DEF 7) v
    up.takes .host p (Reg.TILE_GANG_DEF 7) = true ∧ new.rd p (Reg.TILE_GANG_DEF 7) ≠ up.block.rd p (Reg.TILE_GANG_DEF 7) ∧
    (up.block.unit (.gang 15 7)).board = [] ∧ depthOk (new.gangDef 15) = true := by decide

/-- A core's ring enabled in an allocation of TILE[0], one SEMOP record in it. -/
def withRing : State :=
  { withSlab with block :=
    (setRegs [(.sch (.core 0), Reg.SCH_CRING_BASE_LO, 65536), (.sch (.core 0), Reg.SCH_RING_CFG, 2 ^ 24 + 4 * 256 + 4),
      (.sch (.core 0), Reg.SCH_TRING_TAIL, 1)] withSlab.block).store 0 (recOf 10).bytes }

set_option maxRecDepth 8000 in
theorem test_admission_hyp :
    let u : UnitId := .core 0
    let s := withRing
    let r := TaskRec.ofBytes (s.block.bytes 0 128)
    s.block.running = true ∧ s.block.holdsTasks = false ∧ (s.block.unit u).stalled = false ∧ (s.block.unit u).inbox = [] ∧
    s.block.ringReady u = true ∧ s.block.recordFits 0 128 = true ∧ s.block.reuseOk u r = true ∧
    ((s.block.setUnit u { s.block.unit u with lastPath := 0 }).admitCheck u 0 r).1 = 0 := by decide

/-- A running module with one task on CORE[0][0]. -/
def withTask (t : TaskSt) : State := upWith (onBoard (.core 0) [t])

theorem test_start_free_hyp :
    let t := taskOf (recOf 10)
    let s := withTask t
    s.block.running = true ∧ s.block.net.down = [] ∧ s.block.fenced = false ∧
    (s.block.waiting (.core 0) 3).find? (fun x => s.block.startable (.core 0) x &&
      (decide ((s.block.tile (coreTile 0).val).syncWaits.length < 64) || !(x.task.kind == 9 && syncBlocks x.task))) = some t := by decide
theorem test_start_resource_hyp :
    let t := taskOf (recOf 4)
    let s := withTask t
    s.block.resourceOpen 0 2 = true ∧ s.block.nextTask (.core 0) 2 = some t ∧ t.isEmpty = true ∧ s.block.needsShadow (.core 0) t = false ∧
    s.block.slewHolds 0 2 t = false := by decide

/-- A COPY of one entry that faults at its dispatch, its records being nowhere. -/
theorem test_start_copy_hyp :
    let t := { taskOf (recOf 4) with task := { recOf 4 with listCount := 1 } }
    let s := upWith (fun b => (onBoard (.core 0) [t] b).wrN .pwr (Reg.PWR_CLASS_DRAW 0) 0)
    s.block.resourceOpen 0 2 = true ∧ s.block.nextTask (.core 0) 2 = some t ∧ t.isEmpty = false ∧
    s.block.drawOf 0 t.task.energyClass ≤ 0 ∧ s.block.needsShadow (.core 0) t = false ∧ s.block.slewHolds 0 2 t = false := by decide

/-- A DENSE task that slew holds: another has risen in the interval, and its own draw passes what SLEW allows. -/
theorem test_start_slew_hyp :
    let t := { taskOf (recOf 1) with task := { recOf 1 with listCount := 1 } }
    let s := upWith (fun b =>
      let b := setRegs [(.pwr, Reg.PWR_CLASS_DRAW 0, 800), (.clk, Reg.CLK_TILE 0, 28 * 2 ^ 24 + 28)] (onBoard (.core 0) [t] b)
      { b with pwr := { b.pwr with rise := 10000000 } })
    s.block.resourceOpen 0 0 = true ∧ s.block.nextTask (.core 0) 0 = some t ∧ s.block.drawOf 0 t.task.energyClass ≤ 80000 ∧
    s.block.needsShadow (.core 0) t = false ∧ s.block.slewHolds 0 0 t = true := by decide
theorem test_start_die_hyp :
    let t := taskOf (recOf 4)
    (upWith (onBoard (.die 15) [t])).block.unit (.die 15) |>.board.find? ((upWith (onBoard (.die 15) [t])).block.startable (.die 15)) |>.isSome := by
  decide

theorem test_held_hyp :
    let t := { taskOf (recOf 1) with heldAt := 1, task := { recOf 1 with listCount := 1 } }
    let s := upWith (fun b => (setRegs [(.clk, Reg.CLK_MCLK_COUNT, 60000)] (onBoard (.core 0) [t] b)).takeEff)
    s.block.running = true ∧ s.block.task? (.core 0) 0 = some t ∧ 0 < t.heldAt ∧
    t.heldAt - 1 + usToMclk (wfield (s.block.eff .pwr Reg.PWR_CAD_CFG) 23 16) ≤ s.block.now ∧ s.block.startable (.core 0) t = true ∧
    kindResource t.task.kind.toNat < 3 ∧ s.block.resourceOpen 0 (kindResource t.task.kind.toNat) = true ∧ s.block.net.down = [] ∧
    s.block.fenced = false ∧
    s.block.needsShadow (.core 0) t = false ∧ 8 ≤ s.block.lowestLimit 0 := by decide

/-- A running SYNC task: operation, line, data in the word that follows. -/
def syncTask (op line : Nat) : TaskSt :=
  let r := { recOf 9 with params := toBytes 2 op ++ toBytes 2 line ++ toBytes 28 0 }
  { taskOf r with phase := .running, task := r }

theorem test_not_done_hyp :
    let t := syncTask 1 1023
    let s := withTask t
    s.block.task? (.core 0) 0 = some t ∧ t.phase = .running ∧ s.block.workDone (.core 0) t = false := by decide

set_option maxRecDepth 8000 in
theorem test_completion_hyp :
    let t := { taskOf (recOf 10) with phase := .finished, sigDone := true }
    let s := { withRing with block := onBoard (.core 0) [t] withRing.block }
    s.block.running = true ∧ s.block.task? (.core 0) 0 = some t ∧ s.block.bySerial (.core 0) t.serial = some t ∧ t.parent = none ∧
    t.settled = true ∧ t.faultCode = none ∧ s.block.awaits (.core 0) t.serial = false ∧ s.block.mustStall (.core 0) t.task = false ∧
    t.task.noCrec = false ∧ s.block.recordFits (s.block.rd64 (.sch (.core 0)) Reg.SCH_CRING_BASE_LO) 32 = true ∧
    s.block.writesWait t.serial = false ∧ s.block.recordWaits (.core 0) t = false ∧ 65536 / 65536 = (65536 + 31) / 65536 := by decide

theorem test_signal_hyp :
    let r : SemRef := { here := true, modId := 0, core := 127, phys := 63 }
    let t := { taskOf (recOf 10) with phase := .finished, sig0 := some r }
    t.sigDone = false ∧ t.verdict.outcome.signals = true ∧ t.sig1 = none ∧ t.sig0 = some r ∧ r.here = true ∧ r.core < 128 ∧
    r.phys < 64 := by decide

theorem test_share_hyp :
    let q := { taskOf (recOf 4) with serial := 3, phase := .running, shareCount := 2 }
    let p : ParentRef := { unit := .die 0, serial := 3, child := 1 }
    let t := { taskOf (recOf 4) with phase := .finished, parent := some p, path := 9 }
    let s := upWith (fun b => onBoard (.core 0) [t] (onBoard (.die 0) [q] b))
    s.block.task? (.core 0) 0 = some t ∧ s.block.bySerial (.core 0) t.serial = some t ∧ t.path ≠ 12 ∧ t.settled = true ∧ t.faultCode = none ∧
    s.block.awaits (.core 0) t.serial = false ∧ p.unit ≠ .core 0 ∧ p.unit ≠ .group ∧ s.block.bySerial p.unit p.serial = some q ∧
    q.phase = .running ∧ q.shares.length + 1 < q.shareCount := by decide

theorem test_resume_hyp :
    let t := { taskOf (recOf 10) with phase := .finished }
    let s := upWith (fun b => b.setUnit (.core 0) { b.unit (.core 0) with board := [t], stalled := true })
    let held := fun (t : TaskSt) => decide (t.phase = .finished) && t.parent.isNone && !t.task.noCrec && t.settled
    s.block.running = true ∧ (s.block.unit (.core 0)).stalled = true ∧ s.block.cringFull (.core 0) = false ∧
    (s.block.unit (.core 0)).board.find? held = some t ∧ s.block.task? (.core 0) 0 = some t ∧
    (setRegs [(.sch (.core 0), Reg.SCH_CRING_TAIL, 16)] s.block).cringFull (.core 0) = true := by decide

theorem test_budget_hyp :
    let t := { taskOf (recOf 4) with phase := .running, cycles := 999, task := { recOf 4 with listCount := 1 } }
    let s := withTask t
    s.block.task? (.core 0) 0 = some t ∧ s.block.bySerial (.core 0) t.serial = some t ∧ t.exceeded = false ∧
    runsHere (.core 0) t.task.kind.toNat = true ∧ t.task.kind ≠ 7 ∧ t.task.kind ≠ 8 ∧ t.isEmpty = false ∧
    t.task.budget.toNat ≤ t.cycles + 1 ∧ t.task.budgetReport = false ∧ { t.task with flags := 8 }.budgetReport = true := by decide

/-- A speculative record. -/
def specRec : TaskRec := { recOf 1 with flags := 0x80 }

/-- A semaphore of this module, CORE[0][0]'s first. -/
def sem0 : SemRef := { here := true, modId := 0, core := 0, phys := 0 }

theorem test_decide_hyp :
    let t := { taskOf specRec with confirm := some sem0, discard := some { sem0 with phys := 1 }, task := { specRec with decideTarget := 5 } }
    let s := withTask t
    let d := fun (l : List (Page × Nat × Nat)) (x : Option SemRef) => (setRegs l s.block).decides x t.task.decideTarget
    let p : Page := .sem (.core 0)
    s.block.task? (.core 0) 0 = some t ∧ s.block.bySerial (.core 0) t.serial = some t ∧ t.task.spec = true ∧ t.decided = false ∧
    t.decision = .open_ ∧ t.parent = none ∧ t.path ≠ 12 ∧ d [] t.discard = false ∧ d [] t.confirm = false ∧
    d [(p, Reg.SEM_PHYS 0, 5)] t.confirm = true ∧ d [(p, Reg.SEM_PHYS 0, 5)] t.discard = false ∧
    d [(p, Reg.SEM_PHYS 1, 5)] t.discard = true := by decide

/-- A running module with a finished speculative task whose shadow and target lie on TILE[0]. -/
def specDone (d : Decision) : State :=
  upWith (fun b =>
    let a : SramAlloc := { base := 0, slabs := [5], kind := .data, gen := 1, binds := [], freed := false }
    onBoard (.core 0) [{ taskOf specRec with phase := .finished, decision := d, shadow := some (65536, 0) }]
      (b.setTile 0 { b.tile 0 with allocs := [a, { a with base := 1, slabs := [6], kind := .shadow }] }))

theorem test_commit_hyp :
    let s := specDone .confirm
    let t := { taskOf specRec with phase := .finished, decision := .confirm, shadow := some (65536, 0) }
    s.block.task? (.core 0) 0 = some t ∧ s.block.family t.serial = [(.core 0, t)] ∧ s.block.familyInbox t.serial = [] ∧
    t.task.spec = true ∧ slabAt 65536 = some (0, 1) ∧ slabAt 0 = some (0, 0) ∧
    ((s.block.tile 0).allocs.find? (fun z => z.base == 1)).isSome = true ∧
    ((s.block.tile 0).allocs.find? (fun z => z.base == 0)).isSome = true := by decide

theorem test_discard_hyp :
    let s := specDone .discard
    let t := { taskOf specRec with phase := .finished, decision := .discard, shadow := some (65536, 0) }
    s.block.task? (.core 0) 0 = some t ∧ s.block.family t.serial = [(.core 0, t)] ∧ s.block.familyInbox t.serial = [] ∧
    slabAt 65536 = some (0, 1) ∧ ((s.block.tile 0).allocs.find? (fun z => z.base == 1)).isSome = true := by decide

theorem test_shadow_wait_hyp :
    let q : ShadowReq := { unit := .core 0, serial := 7, slabs := 131072, home := some 0 }
    let b := up.block.setTile 0 { up.block.tile 0 with shadowQ := [q] }
    (b.tile 0).shadowQ = [q] ∧
    (b.setTile 0 { b.tile 0 with shadowQ := [] }).slabAlloc 0 .shadow (sliceOrder 0 true) 131072 = none := by decide +kernel

theorem test_semaphore_hyp : up.block.running = true ∧ up.block.coreOn 127 = true ∧
    (setRegs [(.mod, 0x044, 0xFFFFFFFE)] up.block).coreOn 0 = false ∧
    up.takes .host (.sem (.core 127)) (Reg.SEM_PHYS 63) = true := by decide

theorem test_sem_page_hyp :
    let s := upRegs [(.sem .wholeModule, Reg.SEM_MODE, 1)]
    (s.block.semRef (.core 0) 0x8001).1.isSome = true ∧ s.takes .host (.sem (.core 0)) Reg.SEM_SIG = true ∧
    s.takes .host (.sem (.core 0)) Reg.SEM_READ_SEL = true ∧ wfield (s.block.rd (.sem (.core 0)) Reg.SEM_READ_SEL) 31 16 = 0 ∧
    (s.block.semRef (.core 0) 0).1 = none := by decide

theorem test_sem_mode_hyp : up.takes .host (.sem .wholeModule) Reg.SEM_MODE = true ∧
    up.takes .host (.sem .wholeModule) Reg.SEM_XLAT_INV = true ∧ wbit (0 : Word) 0 ≠ wbit (1 : Word) 0 ∧
    (up.block.unit (.core 0)).board = [] ∧ ((withTask (taskOf (recOf 10))).block.unit (.core 0)).board ≠ [] := by decide

theorem test_sync_hyp :
    let s := withTask (syncTask 1 1023)
    let x := s.block.tile 0
    (s.block.unit (.core 0)).board.find? (fun t => decide (t.phase = .running) && decide (t.task.kind = 9) && t.task.par 0 2 == 1 &&
      t.items == 0 && !x.syncWaits.any (fun w => w.serial == t.serial)) = some (syncTask 1 1023) ∧
    x.syncWaits.any (fun w => w.line == 1023 && x.canGo w) = false ∧ (x.line 1023).full = false ∧ x.syncWaits.length < 64 := by decide

set_option maxRecDepth 8000 in
theorem test_sync_write_hyp :
    let r := { recOf 9 with params := toBytes 2 5 ++ toBytes 14 0 ++ toBytes 8 16 ++ toBytes 8 0 }
    let t := { taskOf r with phase := .running }
    let s := { withSlab with block := onBoard (.core 0) [t] withSlab.block }
    t.task.par 0 2 = 5 ∧ t.task.par 0x10 8 = 16 ∧ t.shadow = none ∧ s.block.protected_ 16 16 = false ∧ s.block.probe 16 16 = .ok := by decide

theorem test_sync_resume_hyp :
    let w : SyncWait := ⟨0, 7, 1, 1023⟩
    let s := upWith (fun b => onBoard (.core 0) [syncTask 1 1023] (b.setTile 0 { b.tile 0 with syncWaits := [w] }))
    let full := s.block.setTile 0 { s.block.tile 0 with lines := [(1023, { data := 1, full := true, overrun := false })] }
    (s.block.tile 0).syncWaits.find? (fun w => w.line == 1023) = some w ∧ coreTile 0 = 0 ∧
    s.block.bySerial (.core 0) 7 = some (syncTask 1 1023) ∧ (s.block.tile 0).canGo w = true ∧ ((s.block.tile 0).line 1023).full = false ∧
    (full.tile 0).canGo w = false ∧ up.takes .host (.tile 15) Reg.TILE_SYNC_SEL = true := by decide

/-! ### Validators and the shard map -/

theorem test_validator_hyp : up.takes .host (.tile 3) Reg.TILE_VAL_CTL = true ∧ wbit (up.block.rd (.tile 3) Reg.TILE_VAL_STAT) 31 = false ∧
    wbit (0x80000001 : Word) 31 = true ∧ wfield (0x80000001 : Word) 19 0 ≠ 0 ∧ wfield (0x80000000 : Word) 19 0 = 0 ∧
    wbit ((upRegs [(.tile 3, Reg.TILE_VAL_STAT, 2 ^ 31)]).block.rd (.tile 3) Reg.TILE_VAL_STAT) 31 = true := by decide

/-- The bytes of a tensor descriptor: FP8, one row of 32 elements at an address, generation 1. -/
def descBytes (fmt flags base : Nat) : List Byte :=
  toBytes 1 fmt ++ toBytes 1 0 ++ toBytes 2 flags ++ toBytes 2 1 ++ toBytes 2 0 ++ toBytes 8 base ++ toBytes 8 0 ++ toBytes 4 32 ++
    toBytes 4 1 ++ toBytes 4 1 ++ toBytes 4 1 ++ toBytes 4 1 ++ toBytes 4 1 ++ toBytes 4 1 ++ toBytes 12 0

/-- The bytes of a block-list entry: one row from row 0, 32 columns from column 0. -/
def entryBytes (src deadline : Nat) : List Byte :=
  toBytes 4 0 ++ toBytes 4 1 ++ toBytes 4 0 ++ toBytes 4 32 ++ toBytes 1 src ++ toBytes 1 0 ++ toBytes 2 deadline ++ toBytes 12 0

/-- A tensor of FP8 at address 0 of TILE[0], its descriptor, and two list entries, each in an allocation of its kind. -/
def jobMem (src deadline flags : Nat) (b : Block) : Block :=
  let a : SramAlloc := { base := 0, slabs := [5], kind := .data, gen := 1, binds := [], freed := false }
  let b := b.setTile 0 { b.tile 0 with allocs := [a, { a with base := 1, slabs := [6], kind := .descriptor }, { a with base := 2, slabs := [7], kind := .list }],
                                       gens := [(0, 1)] }
  (b.store 65536 (descBytes 3 flags 0)).store 131072 (entryBytes src deadline ++ entryBytes src deadline)

/-- A running task of a kind on CORE[0][0] over that memory. -/
def jobTask (kind : Nat) : TaskSt :=
  let r := { recOf kind with list := 131072, listCount := 2, descA := 65536, descB := 65536, descC := 65536, params := toBytes 4 0 ++ toBytes 2 1024 ++ toBytes 26 0 }
  { taskOf r with phase := .running, task := r, links := [], runahead := 1 }

/-- A running module with that task. -/
def job (kind src deadline flags : Nat) : State := upWith (fun b => jobMem src deadline flags (onBoard (.core 0) [jobTask kind] b))

/-- The source of the job's blocks. -/
def jobSrc (src deadline flags : Nat) : Source := ⟨Desc.ofBytes (descBytes 3 flags 0), Entry32.ofBytes (entryBytes src deadline), 0, none⟩

/-- A run of one descriptor from address 65,536 to 65,600. -/
def run1 : ValRun :=
  { isList := false, count := 1, src := 65536, dst := 65600, binds := [], taken := 0, image := [], code := 0, failIdx := 0, dueAt := 16 }

/-- A run of one list entry from address 131,072 to 131,104. -/
def run2 : ValRun := { run1 with isList := true, src := 131072, dst := 131104, binds := [65536, 0, 0, 0] }

theorem test_validator_end_hyp :
    let s := upWith (jobMem 0 0 0)
    s.block.dstFault run1 = none ∧ s.block.recordFault run1 0 = none ∧ s.block.resolveOwn 65600 = .phys (6 * 65536 + 64) ∧
    65600 / 65536 = (65600 + (s.block.valImage run1 0).length - 1) / 65536 ∧
    s.block.dstFault { run1 with dst := 65601 } = some Ev.DESC_ALIGN ∧ s.block.dstFault { run1 with dst := 0 } = some Ev.DESC_PROTECT ∧
    s.block.recordFault { run1 with src := 131072 } 0 = some Ev.DESC_FORMAT ∧ ({ run1 with code := Ev.DESC_FORMAT } : ValRun).code ≠ 0 := by
  decide +kernel

theorem test_validator_run_hyp :
    let s := upWith (fun b => let b := jobMem 0 0 0 b; b.setTile 0 { b.tile 0 with val := some run2 })
    s.block.running = true ∧ (s.block.tile 0).val = some run2 ∧ s.block.dstFault run2 = none ∧ s.block.recordFault run2 0 = none := by
  decide +kernel

theorem test_shard_map_hyp : up.takes .host .shm Reg.SHM_CMD = true ∧ shardHeld 0 (2 ^ 79) = false ∧ shardHeld (2 ^ 79) (2 ^ 79 + 1) = true ∧
    up.takes .mgmt .shm Reg.SHM_LOAD_CTL = true ∧ wbit (up.block.rd .shm Reg.SHM_STAT) 31 = false ∧ wbit (0x80000000 : Word) 31 = true ∧
    up.block.rdN .shm Reg.SHM_SEL + wfield (0x80020000 : Word) 17 0 ≤ 131072 ∧
    131072 < up.block.rdN .shm Reg.SHM_SEL + wfield (0x80020001 : Word) 17 0 := by decide
theorem test_shard_load_hyp :
    let r : BulkRun := { first := 131071, count := 1, addr := 0, clear := false, origin := .host, done := 0, code := 0 }
    let s := upWith (fun b => { b with shm := { b.shm with bulk := some r } })
    s.block.running = true ∧ s.block.shm.bulk = some r ∧ r.count < 2 ^ 32 ∧ r.done ≤ r.count ∧ r.code < 2 ^ 32 ∧ r.code = 0 ∧
    ({ r with code := Ev.ADDR_UNMAPPED } : BulkRun).code ≠ 0 := by decide
theorem test_version_record_hyp : up.takes .host .shm Reg.SHM_REC_CTL = true ∧ up.takes .host .shm Reg.SHM_REC_STAT = true ∧
    wbit (0x80000000 : Word) 31 = true := by decide

/-! ### The fetch engine -/

theorem test_prefetch_hyp :
    let s := job 1 0 0 0
    let v := s.block.seenBy (jobTask 1)
    let t := jobTask 1
    let p := (0, 1)
    let e := v.entryAt t p
    s.block.running = true ∧ s.block.portTask 0 0 = some t ∧ v.portTask 0 0 = some t ∧ v.nextAhead 0 t 0 t.runahead false = some p ∧
    v.chainHeld t p = false ∧ v.linkWrites 0 t (v.descAt t p e) = false ∧ v.source (v.descAt t p e) e = some (jobSrc 0 0 0) ∧
    (jobSrc 0 0 0).d.tracked = false ∧ v.queueRoom 0 0 (queueTakes 0 e.src (jobSrc 0 0 0)) = true ∧ (s.block.core 0).tracked ≤ 256 ∧
    (jobSrc 0 0 0).ranges = [(0, 32)] ∧ v.probe (v.taskAddr t 0) 32 = .ok ∧ v.reaches t 0 = true ∧ v.sourceFits (jobSrc 0 0 0) = true := by
  decide +kernel
theorem test_prefetch_urgency_hyp :
    let s := job 1 1 0 0
    let late := { jobTask 1 with phase := .running, arriveTime := 0 }
    s.block.deadlineOf 0 (jobTask 1) (jobSrc 1 0 0).e = 0 ∧ s.block.now < s.block.deadlineOf 0 late (jobSrc 1 2 0).e ∧
    (upRegs [(.clk, Reg.CLK_MCLK_COUNT, 2 ^ 20)]).block.deadlineOf 0 late (jobSrc 1 2 0).e ≤ 2 ^ 20 := by decide +kernel
/-- The job with its tensor at another address, that page of HBM not resident. -/
def jobAt (base : Nat) : State :=
  { job 1 0 0 0 with block := ((job 1 0 0 0).block.store 65536 (descBytes 3 0 base)).setPte 0 { Pte.none with valid := true } }

/-- What stands in the way of the bytes that run-ahead would fetch next there. -/
def jobMeets (base : Nat) : Option (Nat × Bool × Bool × Option Access) :=
  let v := (jobAt base).block.seenBy (jobTask 1)
  let t := jobTask 1
  let e := v.entryAt t (0, 1)
  (v.source (v.descAt t (0, 1) e) e).map (fun src => (src.holder, src.d.tracked, v.queueRoom 0 0 (queueTakes 0 e.src src),
    src.ranges.findSome? (fun r => match v.probe (v.taskAddr t r.1) r.2 with
      | .ok => if v.reaches t (v.taskAddr t r.1) then none else some (.moving 0)
      | a => some a)))

theorem test_prefetch_drops_hyp :
    (jobAt 262144).block.portTask 0 0 = some (jobTask 1) ∧ ((jobAt 262144).block.seenBy (jobTask 1)).nextAhead 0 (jobTask 1) 0 1 false = some (0, 1) ∧
    jobMeets 262144 = some (0, false, true, some .unmapped) ∧ jobMeets 0x2000000000 = some (0, false, true, some (.nonResident 0)) := by
  decide +kernel

/-- A block of the job that a port holds or awaits. -/
def held (urgency deadline : Nat) (arrived : Bool) (version : Option (Nat × Nat)) : Fetched :=
  { id := 9, port := 0, serial := 7, entry := 0, urgency := urgency, deadline := deadline, issued := 0, arrived := arrived, snap := [],
    poisoned := [], grans := [], refetched := false, checked := false, version := version, holder := 0, rowBytes := 0, sideBytes := 0,
    lines := [], joined := [] }

/-- A state whose first core's fetch engine holds a block. -/
def withHeld (f : Fetched) (s : State) : State :=
  { s with block := s.block.setCore 0 { s.block.core 0 with fetched := [f] } }

theorem test_demand_hyp :
    let s := job 1 1 0 0
    let t := jobTask 1
    let v := s.block.seenBy t
    let e := v.entryAt t t.pos
    let src := jobSrc 1 0 0
    s.block.portTask 0 0 = some t ∧ v.portTask 0 0 = some t ∧ s.block.bySerial (.core 0) t.serial = some t ∧ t.listDone = false ∧
    portFor (t.recAt t.pos.1).kind.toNat e.src = some 0 ∧ s.block.fetched? 0 0 t.serial (posKey t.pos) = none ∧
    v.linkWrites 0 t (v.descAt t t.pos e) = false ∧ v.source (v.descAt t t.pos e) e = some src ∧ v.sourceFits src = true ∧
    (v.demand t src.ranges src.e.pageInOk).1 = .ok ∧
    (up.block.demand t src.ranges src.e.pageInOk).1 = .fault Ev.ADDR_UNMAPPED ∧
    (withHeld (held 3 0 false none) s).block.fetched? 0 0 t.serial (posKey t.pos) = some (held 3 0 false none) := by decide +kernel

theorem test_arrival_hyp :
    let f := held 0 0 false none
    let s := withHeld f (job 1 1 0 0)
    let t := jobTask 1
    let v := s.block.seenBy t
    let first := fun (s : State) => firstPlace (s.block.tile 0).turn 0
      ((s.block.core 0).fetched.filter (fun f => f.port == 0 && (s.block.seenBy t).deliverable 0 f))
    let waits := { s with block := s.block.setStk 0 { s.block.stk 0 with queue := [{ owner := .block f.id, write := false, addr := 0, frame := 0, slot := 0, first := 0, len := 512, urgency := 0, deadline := 0, origin := 0, port := 0, arrived := 0, data := [] }] } }
    s.block.running = true ∧ s.block.portTask 0 0 = some t ∧ first s = some f ∧ v.blockOf 0 f = some (t, jobSrc 1 0 0) ∧
    v.atHome 0 f = true ∧ v.blockOf 0 { f with serial := 8 } = none ∧ first waits = none := by decide +kernel

theorem test_arrival_order_hyp :
    let f := { held 1 0 false none with issued := 5 }
    let s := withHeld f (job 1 1 0 0)
    let b := (s.block.setCore 1 { s.block.core 1 with fetched := [held 0 0 false none] }).setUnit (.core 1) { board := [jobTask 1], inbox := [], lastPath := 0, stalled := false, rems := [] }
    let b := b.setTile 0 { b.tile 0 with allocs := ((b.tile 0).allocs.map (fun a => { a with slabs := a.slabs.map (fun n => n + 16384) })) }
    let far := (b.store 65536 (descBytes 3 0 0)).store 131072 (entryBytes 1 0 ++ entryBytes 1 0)
    (far.seenBy (jobTask 1)).atHome 0 f = false ∧ (far.seenBy (jobTask 1)).hubBusy 0 f = true ∧
    (far.seenBy (jobTask 1)).hubBusy 1 (held 0 0 false none) = false := by decide +kernel

theorem test_late_hyp :
    let s := upRegs [(.clk, Reg.CLK_MCLK_COUNT, 2048)]
    let late := withHeld (held 2 2048 false none) s
    let aged := withHeld (held 3 0 false none) s
    late.block.running = true ∧ aged.block.running = true ∧
    (late.block.core 0).fetched.find? (fun f => f.port == 0 && !f.arrived && f.urgency == 2 && decide (f.deadline ≤ late.block.now)) =
      some (held 2 2048 false none) ∧
    (aged.block.core 0).fetched.find? (fun f => f.port == 0 && !f.arrived && f.urgency == 3 && decide (f.issued + 2048 ≤ aged.block.now)) =
      some (held 3 0 false none) ∧
    (late.block.core 0).fetched.find? (fun f => f.port == 0 && !f.arrived && f.urgency == 3 && decide (f.issued + 2048 ≤ late.block.now)) = none ∧
    (aged.block.core 0).fetched.find? (fun f => f.port == 0 && !f.arrived && f.urgency == 2 && decide (f.deadline ≤ aged.block.now)) = none := by
  decide +kernel

theorem test_tracked_hyp :
    let f := held 0 0 true none
    let s := withHeld f (job 1 1 0 4)
    let src := jobSrc 1 0 4
    let v := s.block.seenBy (jobTask 1)
    s.block.portTask 0 0 = some (jobTask 1) ∧ v.consumerBlock 0 0 = some (jobTask 1, f, (0, 0), src) ∧ src.d.tracked = true ∧ f.checked = false ∧
    s.block.bySerial (.core 0) 7 = some (jobTask 1) ∧ f.grans ≠ v.granules src.ranges ∧
    f.refetched = false ∧ ({ f with refetched := true } : Fetched).refetched = true ∧
    { f with grans := [(0, 0)] }.grans = v.granules src.ranges := by decide +kernel

theorem test_versioned_hyp :
    let f := held 0 0 true (some (131071, 65535))
    let s := withHeld f (job 1 1 0 0)
    s.block.portTask 0 0 = some (jobTask 1) ∧ (s.block.seenBy (jobTask 1)).consumerBlock 0 0 = some (jobTask 1, f, (0, 0), jobSrc 1 0 0) ∧ f.version = some (131071, 65535) ∧ f.checked = false ∧
    s.block.bySerial (.core 0) 7 = some (jobTask 1) ∧ Sparse.get (fun _ => 0) s.block.shm.record 131071 = 0 ∧
    (2 ^ 16 + 65535) % 2 ^ 16 = 65535 ∧ (jobSrc 1 0 16).d.allowNewer = true ∧ (jobSrc 1 0 0).d.allowNewer = false := by decide +kernel

/-! ### The dense array and its drain -/

theorem test_load_hyp :
    let s := job 1 1 0 0
    let t := jobTask 1
    let v := s.block.seenBy t
    let e := v.entryAt t t.pos
    let k := v.loadTile 0 t
    s.block.portTask 0 0 = some t ∧ v.portTask 0 0 = some t ∧ s.block.bySerial (.core 0) t.serial = some t ∧ e.src = 1 ∧
    loadOk t.cur.gear e = true ∧ t.cur.reuse = false ∧ k.1.1 = .ok ∧ k.1.2.isSome = true ∧ k.2.bySerial (.core 0) t.serial = some t ∧
    loadOk 0 (Entry32.ofBytes (toBytes 4 0 ++ toBytes 4 129 ++ toBytes 24 0)) = false ∧
    { t.cur with params := toBytes 2 0x200 }.reuse = true := by decide +kernel

/-- A loaded weight tile of one row of 32. -/
def tile32 : WTile :=
  { fmt := 3, rows := 1, dense := 32, codes := [List.replicate 32 0], scales := [List.replicate 32 127], mx := false, pos := [], sparse := false,
    desc := 65536, gen := 1, block := [0, 1, 0, 32] }

theorem test_stream_hyp :
    let s := { job 1 0 0 0 with block := (job 1 0 0 0).block.setCore 0 { (job 1 0 0 0).block.core 0 with standby := some tile32 } }
    let t := jobTask 1
    let v := s.block.seenBy t
    let r := t.cur
    let e := v.entryAt t t.pos
    s.block.portTask 0 0 = some t ∧ v.portTask 0 0 = some t ∧ t.listDone = false ∧ e.src = 0 ∧ (s.block.core 0).standby = some tile32 ∧
    r.gear = 0 ∧ streamCheck t.cur e (some tile32) = none ∧ v.drainsBefore 0 t e.accRow (gearRows 0 e.axis * e.rowCount) = false ∧
    (v.take 0 t 0 false).1.ready = .ok ∧ e.rowCount = 1 ∧ t.cur.roundBit 1 = false := by decide +kernel

theorem test_drain_hyp :
    let s := job 1 2 0 0
    let t := jobTask 1
    let v := s.block.seenBy t
    let r := t.cur
    let e := v.entryAt t t.pos
    let d := v.desc r.descC.toNat
    let src := jobSrc 2 0 0
    s.block.portTask 0 3 = some t ∧ v.portTask 0 3 = some t ∧ s.block.bySerial (.core 0) t.serial = some t ∧ t.listDone = false ∧
    e.src = 2 ∧ r.descC ≠ 0 ∧ r.statDesc = 0 ∧
    (s.block.core 0).opnd = none ∧ drainCheck r e d none false = none ∧ v.source d e = some src ∧ (v.drainReady 0 t r e src).1 = .ok ∧
    (((v.drainReady 0 t r e src).2.drnCount 0 Reg.DRN_ECC_CORR 0 0).drainRows 0 t r e src none e.rowCount).1 = .ok := by decide +kernel
theorem test_drain_operand_hyp :
    let e := Entry32.ofBytes (entryBytes 3 0)
    e.src = 3 ∧ entryClean e 0 = true ∧ { jobTask 1 with links := [] }.cur.par 0x11 1 = 0 ∧
    { (jobTask 1).cur with params := toBytes 17 0 ++ toBytes 1 1 ++ toBytes 14 0 }.par 0x11 1 ≠ 0 ∧
    drainCheck { (jobTask 1).cur with params := toBytes 32 0 } e (Desc.ofBytes (descBytes 3 0 0)) none false = some Ev.ACC_RANGE := by decide +kernel

/-! ### The derailleur, expert routing, SRAM, the copy path -/

/-- An entry: row, rows, column, columns, source, three kind-specific words. -/
def entryOf (row rows col cols src k0 k1 k2 : Nat) : List Byte :=
  toBytes 4 row ++ toBytes 4 rows ++ toBytes 4 col ++ toBytes 4 cols ++ toBytes 1 src ++ toBytes 3 0 ++ toBytes 4 k0 ++ toBytes 4 k1 ++ toBytes 4 k2

/-- A record of a kind over the descriptors 0 to 3 of the memory below, its list of one entry. -/
def workRec (kind : Nat) (params : List Byte) : TaskRec :=
  { recOf kind with list := 131072, listCount := 1, descA := 65536, descB := 65600, descC := 65664, descD := 65728, capacity := 8,
                    params := params ++ List.replicate (32 - params.length) 0 }

/-- A running task of that record on CORE[0][0]. -/
def workTask (r : TaskRec) : TaskSt := { taskOf r with phase := .running, links := [] }

/-- A running module with a task over descriptors and a list entry. -/
def work (r : TaskRec) (entry : List Byte) (descs : List (List Byte)) : State :=
  upWith (fun b =>
    let a : SramAlloc := { base := 0, slabs := [5], kind := .data, gen := 1, binds := [], freed := false }
    let b := b.setTile 0 { b.tile 0 with
      allocs := [a, { a with base := 1, slabs := [6], kind := .descriptor }, { a with base := 2, slabs := [7], kind := .list }], gens := [(0, 1)] }
    ((onBoard (.core 0) [workTask r] b).store 65536 (descs.flatMap (fun d => d))).store 131072 entry)

/-- Source and destination of FP8, and an INT32 tensor of indices. -/
def moveDescs : List (List Byte) := [descBytes 3 0 0, descBytes 3 0 0, descBytes 3 0 256, descBytes 9 32 512]

set_option maxRecDepth 4000 in
theorem test_gather_hyp :
    let r := workRec 2 [1]
    let s := work r (entryOf 0 1 0 1 3 0 0 32) moveDescs
    let t := workTask r
    let v := s.block.seenBy t
    let e := v.entryAt t t.pos
    let d := v.desc r.descB.toNat
    let o := v.desc r.descC.toNat
    let cols := t.cut (e.kp 1) (e.kp 2)
    let k := v.take 0 t 1 false
    let want := ((r.descB.toNat, d, 0, cols.1, cols.2) : RowWant)
    let q1 := v.rowsReady 0 t true [want] e.pageInOk
    let q2 := q1.2.rowsOpen 0 t o [e.kp 0] cols.1 cols.2 e.pageInOk false
    let z := (q2.2.take 0 t 1 false).2
    let g := z.readRow 0 t true want
    let m := g.2.moveRow 0 t g.1 o (e.kp 0) cols.1 cols.2 e.pageInOk
    let w := (z.count (.drl 0) Reg.DRL_OOR 1).zeroRow 0 t o (e.kp 0) cols.1 cols.2 e.pageInOk
    s.block.portTask 0 1 = some t ∧ e.empty = false ∧ e.rowCount = 1 ∧ 1 ≤ t.room ∧ k.1.ready = .ok ∧ indexList k.1 1 = [0] ∧
    v.drlTask 0 2 1 = some t ∧ moveEntryOk e o d o = true ∧ inRange 0 d.rows = true ∧ inRange 1 d.rows = false ∧ q1.1 = .ok ∧ q2.1 = .ok ∧
    m.1 = .ok ∧ m.2.bySerial (.core 0) 7 = some t ∧ w.1 = .ok ∧ w.2.bySerial (.core 0) 7 = some t ∧
    (v.desc r.descD.toNat).indexFault = true ∧ (v.rowsReady 0 t true [] e.pageInOk).1 = .ok ∧
    ((v.rowsReady 0 t true [] e.pageInOk).2.rowsOpen 0 t o [] cols.1 cols.2 e.pageInOk false).1 = .ok := by decide +kernel

set_option maxRecDepth 4000 in
theorem test_scatter_hyp :
    let r := workRec 2 [3]
    let s := work r (entryOf 0 1 0 1 3 0 0 32) moveDescs
    let t := workTask r
    let v := s.block.seenBy t
    let e := v.entryAt t t.pos
    let d := v.desc r.descA.toNat
    let o := v.desc r.descC.toNat
    let cols := t.cut (e.kp 1) (e.kp 2)
    let k := v.take 0 t 1 false
    let want := ((r.descA.toNat, d, e.kp 0, cols.1, cols.2) : RowWant)
    let q1 := v.rowsReady 0 t true [want] e.pageInOk
    let q2 := q1.2.rowsOpen 0 t o [0] cols.1 cols.2 e.pageInOk false
    let z := (q2.2.take 0 t 1 false).2
    let g := (z.count (.drl 0) Reg.DRL_OOR 0).readRow 0 t true want
    let m := g.2.moveRow 0 t g.1 o 0 cols.1 cols.2 e.pageInOk
    moveEntryOk e d d o = true ∧ inRange 0 o.rows = true ∧ v.drlTask 0 2 3 = some t ∧ k.1.ready = .ok ∧ indexList k.1 1 = [0] ∧
    q1.1 = .ok ∧ q2.1 = .ok ∧ m.1 = .ok ∧ m.2.bySerial (.core 0) 7 = some t := by decide +kernel

set_option maxRecDepth 4000 in
theorem test_scatter_add_hyp :
    let r := workRec 2 [2]
    let s := work r (entryOf 0 1 0 1 3 0 0 32) [descBytes 9 0 0, descBytes 9 0 0, descBytes 9 0 256, descBytes 9 0 512]
    let t := workTask r
    let v := s.block.seenBy t
    let e := v.entryAt t t.pos
    let d := v.desc r.descA.toNat
    let o := v.desc r.descC.toNat
    let cols := t.cut (e.kp 1) (e.kp 2)
    let k := v.take 0 t 1 false
    let want := ((r.descA.toNat, d, e.kp 0, cols.1, cols.2) : RowWant)
    let q1 := v.rowsReady 0 t true [want] e.pageInOk
    let plan := v.planSums 0 [(want, 0)] e.pageInOk
    let q2 := (sumsDue plan.1 plan.2 t.advance.listDone).foldl (fun (st : Ready × Block) (g : RowSum) => match st.1 with
      | .ok => st.2.rowsOpen 0 t o [g.row] g.first g.cols g.pageIn true
      | _ => st) (.ok, q1.2)
    let z := (q2.2.take 0 t 1 false).2
    let a := (z.count (.drl 0) Reg.DRL_OOR 0).contribute 0 t want 0 true e.pageInOk
    let w := a.2.core 0
    let sums := sumsDue w.sums w.requests t.advance.listDone
    let m := (a.2.setCore 0 { w with sums := w.sums.filter (fun g => !sums.contains g) }).addSums 0 t o true sums
    moveEntryOk e d d o = true ∧ d.format = 9 ∧ o.format = 9 ∧ v.drlTask 0 2 2 = some t ∧ k.1.ready = .ok ∧ indexList k.1 1 = [0] ∧
    q1.1 = .ok ∧ q2.1 = .ok ∧ sums.length = 1 ∧ poisonStop [a.1] = none ∧ m.1 = .ok ∧ m.2.bySerial (.core 0) 7 = some t := by decide +kernel

theorem test_spmm_load_hyp :
    let r := workRec 2 [4]
    let s := work r (entryOf 0 1 0 32 1 0 0 0) moveDescs
    let t := workTask r
    let v := s.block.seenBy t
    let e := v.entryAt t t.pos
    let k := v.take 0 t 1 false
    s.block.portTask 0 1 = some t ∧ v.drlTask 0 2 4 = some t ∧ drlClean e = true ∧ e.src = 1 ∧ e.kind.all (fun v => v == 0) = true ∧
    e.rowCount ≤ 128 ∧ e.colCount ≤ 512 ∧ k.1.ready = .ok ∧ k.2.bySerial (.core 0) 7 = some t := by decide +kernel
theorem test_spmm_src_hyp :
    let r := workRec 2 [4]
    let s := work r (entryOf 0 1 0 32 0 0 0 0) moveDescs
    let t := workTask r
    let v := s.block.seenBy t
    s.block.portTask 0 1 = some t ∧ v.drlTask 0 2 4 = some t ∧ (v.entryAt t t.pos).src = 0 ∧ s.block.bySerial (.core 0) 7 = some t := by
  decide +kernel

/-- A slab of one K row. -/
def slab1 : Slab := { rowStart := 0, colStart := 0, rows := 1, cols := 32, vals := [List.replicate 32 Machine.Num.zero], pageIn := false }

set_option maxRecDepth 4000 in
theorem test_spmm_stream_hyp :
    let r := workRec 2 [4]
    let s0 := work r (entryOf 0 1 0 2 3 0 0 0) moveDescs
    let s := s0.block.setCore 0 { s0.block.core 0 with slabNext := some slab1, thr := 1024 }
    let t := workTask r
    let v := s.seenBy t
    let e := v.entryAt t t.pos
    let a := v.desc r.descA.toNat
    let want := ((r.descA.toNat, a, e.rowStart, 0, 1) : RowWant)
    let q := v.rowsReady 0 t false [want] e.pageInOk
    let k := q.2.take 0 t 1 false
    let d := k.2.readRow 0 t false want
    s.portTask 0 1 = some t ∧ v.drlTask 0 2 4 = some t ∧ drlClean e = true ∧ e.src = 3 ∧ e.kp 1 = 0 ∧ e.kp 2 = 0 ∧ e.empty = false ∧
    e.rowCount = 1 ∧ e.colStart = 0 ∧ e.colCount = 2 ∧ 1 ≤ t.room ∧ q.1 = .ok ∧ k.1.ready = .ok ∧ bit (r.par 1 1) 0 = false ∧
    (k.1.d.codes k.1.rd k.1.e.rowStart 0 2).map (signed 32) = [0, 0] ∧ 0 < (v.desc r.descC.toNat).rows ∧ (s.core 0).fallbacks = [] ∧
    poisonStop [d.1] = none ∧ d.2.bySerial (.core 0) 7 = some t := by decide +kernel

set_option maxRecDepth 4000 in
theorem test_spmm_flush_hyp :
    let r := workRec 2 [4]
    let s := work r (entryOf 0 1 0 32 2 0 0 0) moveDescs
    let t := workTask r
    let v := s.block.seenBy t
    let e := v.entryAt t t.pos
    let a := v.desc r.descA.toNat
    let w := v.desc r.descB.toNat
    let o := v.desc r.descC.toNat
    let cols := t.cut e.colStart e.colCount
    let q := v.rowsOpen 0 t o [e.rowStart] cols.1 cols.2 e.pageInOk false
    let vals := (List.range cols.2).map (fun j => tensorScaled a w ((q.2.core 0).mergeVal (e.rowStart - e.kp 0) (cols.1 - e.colStart + j)))
    let z := (q.2.drnOvf 0 1 (vals.map (fun v => v.2)).sum).putRow 0 t o e.rowStart cols.1 false (vals.map (fun v => v.1)) e.pageInOk
    v.drlTask 0 2 4 = some t ∧ drlClean e = true ∧ e.src = 2 ∧ e.kp 1 = 0 ∧ e.kp 2 = 0 ∧ e.rowCount = 1 ∧ e.kp 0 ≤ e.rowStart ∧
    e.rowStart - e.kp 0 ≤ 255 ∧ o.mx = false ∧ cols.2 ≠ 0 ∧ (s.block.core 0).rowsPending [e.rowStart - e.kp 0] = false ∧ q.1 = .ok ∧ z.1 = .ok ∧
    z.2.bySerial (.core 0) 7 = some t := by decide +kernel

set_option maxRecDepth 4000 in
theorem test_fallback_hyp :
    let r := workRec 2 [4]
    let t := workTask r
    let f : Fallback := { serial := 7, rows := [], slab := slab1 }
    let s0 := work r (entryOf 0 1 0 32 2 0 0 0) moveDescs
    let s := (s0.block.setCore 0 { s0.block.core 0 with fallbacks := [f] }).wrN (.drl 0) Reg.DRL_SCRATCH 1
    let v := s.seenBy t
    let wd := v.desc t.task.descB.toNat
    let src : Source := ⟨wd, f.slab.entry, 0, none⟩
    let q := v.sourcesReady 0 t [(src, src.ranges)] wd.allowNewer f.slab.pageIn
    let k := (q.2.stopFiller 0).portSource 0 t src src.portBytes src.ranges
    (s.core 0).fallbacks = [f] ∧ s.bySerial (.core 0) 7 = some t ∧ wfield (s.rd (.drl 0) Reg.DRL_SCRATCH) 1 0 = 1 ∧ v.arrayFree 0 = true ∧
    v.drainsBefore 0 t (t.task.par 4 2) 0 = false ∧ v.source wd f.slab.entry = some src ∧ q.1 = .ok ∧ k.1.2 = [] ∧
    k.2.bySerial (.core 0) 7 = some t ∧ (k.2.core 0).fallbacks = [f] ∧ (k.2.begunAhead 0).all (fun y => y.serial != 7) = true ∧
    roundUp (denseRowBytes (v.desc r.descA.toNat).format 1 * 0) 64 ≤ 2 ^ 26 := by decide +kernel
theorem test_scratch_hyp : wfield (258 : Word) 1 0 = 2 ∧ wbit (258 : Word) 8 = true ∧ wfield (2 : Word) 1 0 = 2 ∧ wbit (2 : Word) 8 = false := by
  decide

set_option maxRecDepth 8000 in
theorem test_select_hyp :
    let r := workRec 2 [5]
    let s := work r (entryOf 0 1 0 1 2 0 0 0) [descBytes 3 0 0, descBytes 3 0 32, descBytes 3 0 256, descBytes 8 0 512]
    let t := workTask r
    let v := s.block.seenBy t
    let e := v.entryAt t t.pos
    let o := v.desc r.descC.toNat
    let cols := t.cut e.colStart e.colCount
    let q := v.selectReady 0 t e
    let q' := q.2.rowsOpen 0 t o [e.rowStart] cols.1 cols.2 e.pageInOk false
    let p := q'.2.selectBlock 0 t e
    let z := (p.2.selectCount 0 p.1.1).putRow 0 t o e.rowStart cols.1 false ((p.1.1.headD []).map (fun k => k.val)) e.pageInOk
    s.block.portTask 0 1 = some t ∧ v.drlTask 0 2 5 = some t ∧ selectOk e (v.desc r.descA.toNat) (v.desc r.descB.toNat) o = true ∧
    e.empty = false ∧ e.rowCount = 1 ∧ cols.2 ≠ 0 ∧ q.1 = .ok ∧ q'.1 = .ok ∧ p.1.1.length = 1 ∧ poisonStop p.1.2 = none ∧
    selectItems p.1.1 ≤ t.room ∧ z.1 = .ok ∧ z.2.bySerial (.core 0) 7 = some t := by decide +kernel

theorem test_sparse_capacity_hyp :
    let r := { workRec 2 [1] with capacity := 0 }
    let s := work r (entryOf 0 1 0 1 3 0 0 32) moveDescs
    let t := workTask r
    s.block.portTask 0 1 = some t ∧ s.block.bySerial (.core 0) 7 = some t ∧ t.task.kind = 2 ∧ t.listDone = false ∧ t.room = 0 ∧
    (s.block.entryAt t t.pos).empty = false ∧ t.task.par 0 1 ≠ 5 ∧ (s.block.entryAt t t.pos).src = 3 := by decide +kernel

theorem test_directory_hyp : up.takes .host .exd Reg.EXD_CMD = true ∧ expRefused 0 0 = 0 ∧ expRefused 0 (2 ^ 15 + 2 ^ 4) ≠ 0 ∧
    wbit (up.block.rd .exd Reg.EXD_STAT) 31 = false ∧ wbit (0x80004000 : Word) 31 = true ∧ up.takes .mgmt .exd Reg.EXD_BULK_CTL = true ∧
    up.takes .host .exd Reg.EXD_TALLY_CTL = true ∧ up.block.rdN .exd Reg.EXD_SEL + wfield (0x80004000 : Word) 14 0 ≤ 16384 ∧
    16384 < up.block.rdN .exd Reg.EXD_SEL + wfield (0x80004001 : Word) 14 0 := by decide +kernel
theorem test_directory_load_hyp :
    let r : BulkRun := { first := 16383, count := 1, addr := 16, clear := true, origin := .host, done := 0, code := 0 }
    let s := { withSlab with block := { withSlab.block with exd := { withSlab.block.exd with bulk := some r, dump := some r } } }
    s.block.running = true ∧ r.count < 2 ^ 32 ∧ r.done ≤ r.count ∧ r.code < 2 ^ 32 ∧ r.code = 0 ∧ s.block.exd.bulk = some r ∧ s.block.exd.dump = some r ∧ s.block.protected_ 16 16 = false ∧
    s.block.probe 16 16 = .ok ∧ s.block.resolveOwn 16 = .phys (5 * 65536 + 16) ∧ (16 : Nat) / 65536 = (16 + 15) / 65536 := by decide +kernel

set_option maxRecDepth 8000 in
theorem test_route_hyp :
    let r := workRec 3 [1]
    let s := work r (entryOf 0 1 0 32 0 0 0 0) [descBytes 1 0 0, descBytes 3 0 128, descBytes 3 0 256, descBytes 9 0 512]
    let t := workTask r
    let v := s.block.seenBy t
    let all := t.ahead r.listCount.toNat t.pos
    let p := v.routePlan 0 t all
    let q := v.routeReady 0 t p.1 (all.all (fun x => (v.entryAt t x).pageInOk))
    let z := (q.2.routePlan 0 t all).2.routeMove 0 t p.1
    s.block.portTask 0 1 = some t ∧ v.drlTask 0 3 1 = some t ∧
    (all.all (fun q => dispatchEntryOk (v.desc r.descA.toNat) (v.entryAt t q))) = true ∧
    (v.listBlocked 0 t all).isNone = true ∧ p.1.place.items ≤ t.room ∧ q.1 = .ok ∧
    z.1 = .ok ∧ r.listOut = 0 ∧ z.2.bySerial (.core 0) 7 = some t := by decide +kernel

set_option maxRecDepth 8000 in
theorem test_combine_hyp :
    let r := workRec 3 [2]
    let s := work r (entryOf 0 1 0 32 0 0 0 0) [descBytes 9 0 0, descBytes 3 0 128, descBytes 3 0 256, descBytes 9 0 512]
    let t := workTask r
    let v := s.block.seenBy t
    let e := v.entryAt t t.pos
    let a := v.desc r.descA.toNat
    let w := v.desc r.descB.toNat
    let o := v.desc r.descC.toNat
    let cols := t.cut 0 o.d0
    let k := v.take 0 t 1 false
    let gs := liveGroups (routeGroups (k.1.d.codes k.1.rd k.1.e.rowStart 0 a.d0))
    let q1 := v.rowsReady 0 t true (combineWants r.descB.toNat w gs cols) e.pageInOk
    let q2 := q1.2.rowsOpen 0 t o [e.rowStart] cols.1 cols.2 e.pageInOk (r.dflag 3)
    let z := (q2.2.take 0 t 1 false).2.combineRow 0 t e.rowStart gs cols e.pageInOk
    s.block.portTask 0 1 = some t ∧ v.drlTask 0 3 2 = some t ∧ dispatchEntryOk a e = true ∧ e.empty = false ∧ e.rowCount = 1 ∧ 4 ≤ a.d0 ∧
    a.d0 / 4 ≤ t.room ∧ k.1.ready = .ok ∧ gs.all (fun g => decide (g.1 < w.rows)) = true ∧ q1.1 = .ok ∧ q2.1 = .ok ∧ z.1 = .ok ∧
    z.2.bySerial (.core 0) 7 = some t := by decide +kernel

theorem test_dispatch_capacity_hyp :
    let r := { workRec 3 [1] with capacity := 0 }
    let s := work r (entryOf 0 1 0 32 0 0 0 0) moveDescs
    let t := workTask r
    s.block.portTask 0 1 = some t ∧ s.block.bySerial (.core 0) 7 = some t ∧ r.kind = 3 ∧ t.listDone = false ∧ t.room = 0 ∧ r.par 0 1 = 1 ∧
    (s.block.entryAt t t.pos).empty = false := by decide +kernel

theorem test_alloc_hyp :
    let s := upRegs [(.tile 2, Reg.TILE_ALLOC_SIZE, 2)]
    let q := s.block.rd (.tile 2) Reg.TILE_ALLOC_REQ
    s.takes .host (.tile 2) Reg.TILE_ALLOC_CMD = true ∧ allocKind? (wfield q 1 0) = some .data ∧ s.block.rdN (.tile 2) Reg.TILE_ALLOC_SIZE = 2 ∧
    (s.block.tile 2).allocs.length < 4096 ∧ (s.block.tile 2).shadowQ = [] ∧
    ((s.block.slabAlloc 2 .data (sliceOrder (wfield q 18 16) (wbit q 19)) 2).map (fun z => (z.1, z.2.1))) = some (0, 0) ∧
    (s.block.slabAlloc 2 .data (sliceOrder 0 false) 7169).isNone = true := by decide +kernel
theorem test_free_hyp :
    let x := withSlab.block.tile 0
    let a : SramAlloc := { base := 0, slabs := [5, 6], kind := .data, gen := 1, binds := [], freed := false }
    let freed := withSlab.block.setTile 0 { x with allocs := [{ a with freed := true }] }
    withSlab.takes .host (.tile 0) Reg.TILE_ALLOC_CMD = true ∧ x.allocs.find? (fun y => !y.freed && decide (y.kind ≠ .shadow) &&
      decide (y.base * 65536 = withSlab.block.rd64 (.tile 0) Reg.TILE_ALLOC_ADDR_LO)) = some a ∧
    (freed.tile 0).allocs.find? (fun a => a.freed && a.base == 0) = some { a with freed := true } ∧ (freed.tile 0).bad = [] ∧
    freed.stillUsed 0 131072 = false ∧ (onBoard (.core 0) [workTask (workRec 2 [1])] freed).stillUsed 0 131072 = true := by decide +kernel
theorem test_cache_hyp : up.takes .host (.tile 15) Reg.TILE_OC_INV = true ∧ (BitVec.ofNat 64 (15 * 2 ^ 33)).toNat / 2 ^ 33 = 15 := by decide

set_option maxRecDepth 8000 in
theorem test_copy_hyp :
    let r := workRec 4 [0]
    let s := work r (entryOf 0 1 0 32 0 0 0 0) moveDescs
    let t := workTask r
    let v := s.block.seenBy t
    let e := v.entryAt t t.pos
    let q := v.demand t (v.copyDst t) e.pageInOk
    let k := q.2.take 0 t 2 true
    let z := k.2.copyBlock 0 t (v.descAt t t.pos e) e k.1
    s.block.portTask 0 2 = some t ∧ q.1 = .ok ∧ k.1.ready = .ok ∧ z.1 = .ok ∧ z.2.bySerial (.core 0) 7 = some { t with items := e.rowCount * e.colCount } ∧
    v.copyTask 0 0 false = some t := by decide +kernel

set_option maxRecDepth 8000 in
theorem test_transpose_hyp :
    let r := { workRec 4 [1] with descC := 65536 }
    let s := work r (entryOf 0 1 0 1 0 0 0 0) [descBytes 3 8 0]
    let t := workTask r
    let v := s.block.seenBy t
    let e := v.entryAt t t.pos
    let q := v.demand t (v.copyDst t) e.pageInOk
    let k := q.2.take 0 t 2 true
    let z := k.2.copyBlock 0 t (v.descAt t t.pos e) e k.1
    s.block.portTask 0 2 = some t ∧ q.1 = .ok ∧ k.1.ready = .ok ∧ z.1 = .ok ∧ z.2.bySerial (.core 0) 7 = some { t with items := e.rowCount * e.colCount } ∧
    v.copyTask 0 1 true = some t ∧ v.arrayFree 0 = true ∧ (z.2.begunAhead 0).all (fun x => x.serial != 7) = true := by decide +kernel

theorem test_chain_hyp :
    let a := workRec 5 []
    let t := { workTask a with links := [workRec 1 [], workRec 1 []], link := 0, cursor := 1 }
    let b := onBoard (.core 0) [t] up.block
    b.portTask 0 0 = some t ∧ b.bySerial (.core 0) 7 = some t ∧ t.links ≠ [] ∧ (t.settle 9 t.pos).1 < t.linkCount := by decide +kernel
theorem test_overlap_hyp :
    let r := workRec 1 []
    let s0 := work r (entryOf 0 1 0 32 0 0 0 0) moveDescs
    let t := { workTask r with cursor := 1, overlap := true }
    let n := { taskOf r with serial := 8, links := [], runahead := wfield (up.block.rd (.fet 0) Reg.FET_RUNAHEAD) 8 0 }
    let b := onBoard (.core 0) [t, n] s0.block
    let e := b.entryAt n (0, 0)
    let src : Source := ⟨b.descAt n (0, 0) e, e, 0, none⟩
    b.prologueTask 0 = some n ∧ b.fetched? 0 0 8 0 = none ∧ b.nextAhead 0 n 0 n.runahead true = some (0, 0) ∧ b.chainHeld n (0, 0) = false ∧
    b.linkWrites 0 n (b.descAt n (0, 0) e) = false ∧ b.source (b.descAt n (0, 0) e) e = some src ∧ src.d.tracked = false ∧
    b.queueRoom 0 0 (queueTakes 0 e.src src) = true ∧ src.ranges = [(0, 32)] ∧ b.probe (b.taskAddr n 0) 32 = .ok ∧
    b.reaches n (b.taskAddr n 0) = true ∧ b.sourceFits src = true := by decide +kernel
theorem test_overlap_load_hyp :
    let r := workRec 1 [1]
    let s0 := work r (entryOf 0 1 0 32 1 0 0 0) moveDescs
    let t := { workTask r with cursor := 1, overlap := true }
    let n := { taskOf r with serial := 8, links := [], runahead := wfield (up.block.rd (.fet 0) Reg.FET_RUNAHEAD) 8 0 }
    let f := { held 0 0 true none with serial := 8, snap := (List.range 32).map (fun i => (i, 0)) }
    let b0 := onBoard (.core 0) [t, n] s0.block
    let b1 := b0.setCore 0 { b0.core 0 with fetched := [f] }
    let b := b1.setTile 0 { b1.tile 0 with allocs := (b1.tile 0).allocs.map (fun a => { a with binds := [65536, 65600, 65664, 65728] }) }
    let y := b.loadTile 0 n
    b.prologueTask 0 = some n ∧ n.pos = (0, 0) ∧ (b.entryAt n n.pos).src = 1 ∧ n.task.reuse = false ∧
    loadOk n.cur.gear (b.entryAt n n.pos) = true ∧ b.startCheck n = none ∧ b.standbyFreed 0 = true ∧
    b.fetched? 0 0 8 (posKey n.pos) = some f ∧ f.arrived = true ∧ y.1.1 = .ok ∧ y.1.2.isSome = true ∧ y.2.bySerial (.core 0) 8 = some n := by
  decide +kernel
theorem test_errors_hyp :
    let e : Errs := { corrected := [], uncorr := [16] }
    let s := fun (kind : Nat) => (work (workRec kind [1]) (entryOf 0 1 0 1 3 0 0 32) moveDescs).block
    let busy := fun (kind p : Nat) => (s kind).portTask 0 p == some (workTask (workRec kind [1])) &&
      ((s kind).found e).portTask 0 p == some (workTask (workRec kind [1]))
    busy 1 0 = true ∧ busy 1 3 = true ∧ busy 2 1 = true ∧ busy 4 2 = true ∧ (s 1).running = true ∧
    (s 1).resolve 16 = .phys (5 * 65536 + 16) ∧ (s 1).resolveOwn 16 = .phys (5 * 65536 + 16) ∧ ((s 1).found e).poisoned 16 1 = [16] := by
  decide +kernel

/-! ### The Aznor update units, HBM, the far tier -/

/-- Program 0 loads slot 0 into register 0 and stores register 0 in it. -/
def withProg (l : List Nat) (b : Block) : Block :=
  { (l.zipIdx.foldl (fun y p => y.wrN .aznMod (Reg.AZN_PROG_DATA p.2) p.1) (b.wrN .aznMod Reg.AZN_PROG_LEN l.length)) with
    azn := { b.azn with progs := [(0, l)] } }

/-- The words of that program. -/
def prog2 : List Nat := [0x01000000, 0x02000000]

theorem test_program_hyp :
    let b := withProg prog2 up.block
    up.takes .host .aznMod Reg.AZN_PROG_CMD = true ∧ b.progRefused = none ∧ up.block.progRefused = some (Ev.AZN_PROG_FIELD, 0) ∧
    b.progBusy 0 = false ∧ (onBoard .wholeModule [taskOf (recOf 8)] b).progBusy 0 = true := by decide +kernel

/-- Page 0 of HBM space, in frame 16 of stack 3. -/
def withPage (f : Pte → Pte) (b : Block) : Block :=
  b.setPte 0 (f { Pte.none with valid := true, resident := true, stack := 3, frame := 16 })

/-- An UPDATE task of one entry over a tensor of FP32 in HBM. -/
def updState : State :=
  let r := { recOf 8 with list := 131072, listCount := 1, descA := 65536 }
  let s := work (workRec 1 []) (entryOf 0 1 0 32 0 0 0 0) [descBytes 1 0 0x2000000000]
  let b := withPage id (withProg prog2 (onBoard .wholeModule [workTask r] s.block))
  let a : HbmAlloc := { base := 0, pages := 1, kind := .data, gen := 1, binds := [], freed := false }
  let b := b.setTile 0 { b.tile 0 with allocs := (b.tile 0).allocs.map (fun a => { a with binds := [65536, 0, 0, 0] }) }
  { s with block := { b with hbm := { b.hbm with gens := [(0, 1)], allocs := [a] } } }

theorem test_update_hyp :
    let s := updState
    let t := workTask { recOf 8 with list := 131072, listCount := 1, descA := 65536 }
    let l := s.block.updateShares t.task t.serial
    s.block.task? .wholeModule 0 = some t ∧ s.block.bySerial .wholeModule 7 = some t ∧ t.task.kind = 8 ∧ t.phase = .running ∧
    t.shareCount = 0 ∧ t.isEmpty = false ∧ s.block.updateCheck t.task = none ∧ l.length = 1 ∧
    l.all (fun p => decide ((s.block.aznUnit p.1.val).held < 8)) = true ∧ l.all (fun p => p.1 == 3) = true := by decide +kernel

/-- The share of that task. -/
def updShare : AznShare :=
  { serial := 7, prog := prog2, slots := descBytes 1 0 0x2000000000 :: List.replicate 6 [], scalars := List.replicate 16 0, uflags := 0,
    entries := [entryOf 0 1 0 32 0 0 0 0], cycles := 0, slot := 0, share := 8, budget := 1000, report := false, exceeded := false, since := 0 }

/-- A unit that works on the share's entry, at an operation of a program. -/
def updWork (prog : List Nat) (pc : Nat) : Block :=
  updState.block.setAznUnit 3 { AznUnit.empty with running := some { updShare with prog := prog },
                                                    work := some { entry := entryOf 0 1 0 32 0 0 0 0, batch := 0, batches := 1, pc := pc, asked := false, got := [] } }

theorem test_update_share_hyp :
    let b := updState.block.setAznUnit 3 { AznUnit.empty with waiting := [updShare] }
    (b.aznUnit 3).running = none ∧ (b.aznUnit 3).waiting = updShare :: [] := by decide +kernel
set_option maxRecDepth 4000 in
theorem test_update_entry_hyp :
    let b := updState.block.setAznUnit 3 { AznUnit.empty with running := some updShare }
    let e := Entry32.ofBytes (entryOf 0 1 0 32 0 0 0 0)
    let used := (progSlots prog2).filter (fun k => progLoads prog2 k || progStores prog2 k)
    (b.aznUnit 3).running = some updShare ∧ (b.aznUnit 3).work = none ∧ b.updateEntryBad 3 updShare e = none ∧
    updShare.cycles + 999 < updShare.budget ∧ updShare.entries = [entryOf 0 1 0 32 0 0 0 0] ∧ 0 < e.rowCount * e.vecs ∧
    (b.demand (b.updateTask updShare) (used.flatMap (updShare.slotRanges e)) e.pageInOk).1 = .ok := by decide +kernel
theorem test_element_hyp :
    let b := updWork [0x01000000, 0x03000000, 0x02000000] 1
    (b.aznDue 3 3).isSome = true ∧ opD 0x03000000 < (b.aznUnit 3).regs.length ∧ (aznElem 3 0 0 0 0).isSome = true := by decide +kernel
set_option maxRecDepth 4000 in
theorem test_block_hyp :
    let at_ := fun (op pc : Nat) => updWork [0x01000000, op, 0x02000000] pc
    let b := at_ 0x0F000000 0
    let asked := b.setAznUnit 3 { b.aznUnit 3 with work := (b.aznUnit 3).work.map (fun w => { w with asked := true }) }
    let d := updShare.desc 0
    let t := b.updateTask updShare
    let w : AznWork := { entry := entryOf 0 1 0 32 0 0 0 0, batch := 0, batches := 1, pc := 0, asked := false, got := [] }
    let waits := asked.setStk 3 { asked.stk 3 with queue := [{ owner := .azn, write := false, addr := 0x2000000000, frame := 16, slot := 0, first := 0, len := 128, urgency := 3, deadline := 0, origin := 18, port := 512, arrived := 0, data := [] }] }
    (b.aznDue 3 0x01).isSome = true ∧ (asked.aznDue 3 0x01).isSome = true ∧
    ((updWork ([0x01000000, 0x02000000, 0x0F000000]) 1).aznDue 3 0x02).isSome = true ∧
    ((at_ 0x0F000000 1).aznDue 3 0x0F).isSome = true ∧ ((at_ 0x15000000 1).aznDue 3 0x15).isSome = true ∧
    ((at_ 0x16000000 1).aznDue 3 0x16).isSome = true ∧ opD 0x01000000 < (b.aznUnit 3).regs.length ∧ inHbm d.base = true ∧
    (b.demand t (batchRanges d w) false).1 = .ok ∧ (b.demand t (batchRanges d w) false).2.aznWrites 3 (batchRanges d w) = false ∧
    asked.aznReads 3 = false ∧ asked.poisonIn t (batchRanges d w) = none ∧ waits.aznReads 3 = true ∧ (waits.aznDue 3 0x01).isSome = true ∧
    (b.aznWrite 3 updShare (Entry32.ofBytes w.entry) ((w.stored updShare d false (b.aznUnit 3).gens ((b.aznUnit 3).reg 0)).flatMap (fun x =>
      d.putConv b.reader x.1 x.2.1 x.2.2.1))).1 = .ok := by decide +kernel

theorem test_hbm_alloc_hyp :
    let s := { upRegs [(.hbcMod, Reg.HBC_ALLOC_SIZE, 2)] with pending := [] }
    let b := s.block.setStk 0 { s.block.stk 0 with inService := true }
    s.takes .host .hbcMod Reg.HBC_ALLOC_CMD = true ∧ b.hbmFieldBad = false ∧ b.hbm.allocs.length < 65536 ∧ b.pageRun 2 = some 0 ∧
    b.placeStacks (wfield (b.rd .hbcMod Reg.HBC_ALLOC_REQ) 3 2 == 1) (wfield (b.rd .hbcMod Reg.HBC_ALLOC_REQ) 20 16)
      (b.rdN .hbcMod Reg.HBC_ALLOC_MASK) = [0] ∧ (b.placePage 0 0 false false).isSome = true ∧
    ((List.range 2).foldl (fun (y : Option Block) i => y.bind (fun y => y.placePage i 0 false false)) (some b)).isSome = true ∧
    ({ b with hbm := { b.hbm with allocs := [{ base := 0, pages := hbmPages - 1, kind := .data, gen := 0, binds := [], freed := false }] } } : Block).pageRun 2 =
      none := by decide +kernel
theorem test_hbm_free_hyp :
    let a : HbmAlloc := { base := 0, pages := 1, kind := .data, gen := 1, binds := [], freed := false }
    let s := upRegs [(.hbcMod, Reg.HBC_ALLOC_ADDR_HI, 0x20)]
    let b := { s.block with hbm := { s.block.hbm with allocs := [a] } }
    let f := { s.block with hbm := { s.block.hbm with allocs := [{ a with freed := true }] } }
    b.hbm.allocs.find? (fun x => !x.freed && hbmBase + x.base * 2 ^ 21 == b.rd64 .hbcMod Reg.HBC_ALLOC_ADDR_LO) = some a ∧
    f.hbm.leaving = [] ∧ f.hbm.allocs.find? (fun a => a.freed && a.base == 0) = some { a with freed := true } ∧
    f.stillUsed hbmBase (2 ^ 21) = false ∧ (f.pte 0).moving = false ∧ ((withPage (fun p => { p with moving := true }) f).pte 0).moving = true := by
  decide +kernel

/-- A request of a block for a slot. -/
def slotReq : SlotReq :=
  { owner := .block 9, write := false, addr := 0x2000000000, frame := 16, slot := 0, first := 0, len := 512, urgency := 0, deadline := 0,
    origin := 0, port := 0, arrived := 0, data := [] }

theorem test_stack_hyp :
    let b := up.block.setStk 19 { up.block.stk 19 with queue := [slotReq], inService := true, marked := [(16, 3)] }
    let may := fun (r : SlotReq) => b.lock 37 && r.pc == slotReq.pc && !(b.aznBulk r && b.aznRoom 19 == some 0) &&
      !(b.heldBank 19 == some (Config.bankOf r.frame r.row.2))
    State.reset.block.boot.resetDue = none ∧ ({ State.reset.block with boot := { State.reset.block.boot with run := .stages } } : Block).boot.run = .stages ∧
    b.firstSlot (b.stk 19).turn ((b.stk 19).queue.filter may) = some slotReq ∧ slotReq.pc < 64 ∧ (b.stk 19).beyond = [] ∧
    (b.stk 19).inService = true ∧ wbit (b.rd (.hbc 19) Reg.HBC_CFG) 0 = true ∧ b.frameServes 19 16 = true ∧
    (b.stk 19).marked = (16, 3) :: [] ∧ (b.stk 19).outOfService.contains 16 = false ∧ b.hbm.leaving = [] ∧ b.frameAwaits 19 16 = false ∧
    b.pageIn? 19 16 = none ∧ (b.setStk 18 { b.stk 18 with ranAzn := 8 }).aznRoom 18 = none := by decide +kernel
theorem test_row_repair_hyp : ∀ k, Sparse.get (fun _ => 0) (up.block.stk 19).spares k < 4 := by intro k; exact (by decide : (0 : Nat) < 4)

/-- A paging move of page 0. -/
def move0 (inward started : Bool) (frame : Nat) : Move :=
  { page := 0, inward := inward, why := .demand, started := started, frame := frame, owners := [], victimFor := none }

/-- The running module with page 0 and one move of it. -/
def moving (m : Move) (f : Pte → Pte) : Block :=
  let b := withPage f up.block
  { b with hbm := { b.hbm with moves := [m], farDown := false } }

theorem test_page_moves_hyp :
    let b := moving (move0 true false 0) (fun p => { p with resident := false })
    let i := moving (move0 true true 16) (fun p => { p with resident := false, moving := true })
    let o := moving (move0 false true 0) (fun p => { p with moving := true })
    nextMove b.hbm.moves = some (move0 true false 0) ∧ b.movesRunning < 16 ∧ b.hbm.farDown = false ∧ (b.pte 0).valid = true ∧
    (b.pte 0).resident = false ∧ (b.pte 0).moving = false ∧ ((b.setPte 0 { b.pte 0 with moving := true }).freeFrame (b.pte 0).stack).isSome = true ∧
    i.hbm.moves.find? (fun m => m.page == 0 && m.inward && m.started && m.frame != 0) = some (move0 true true 16) ∧
    o.hbm.moves.find? (fun m => m.page == 0 && !m.inward && m.started) = some (move0 false true 0) ∧ o.hbm.leaving = [] := by decide +kernel
theorem test_migration_hyp :
    let m : Migration := { page := 0, stack := 19, fromFrame := 16, toFrame := 17 }
    let b := { up.block with hbm := { up.block.hbm with migrations := [m] } }
    b.hbm.migrations.find? (fun m => m.page == 0) = some m ∧ m.stack < 20 ∧ b.hbm.leaving = [] ∧ wbit (b.rd .mod Reg.MOD_EVT_CFG) 31 = false ∧
    (moving (move0 true false 0) id).hbm.farDown = false ∧ wbit ((setRegs [(.cxl, Reg.CXL_LINK, 2 ^ 31)] up.block).rd .cxl Reg.CXL_LINK) 31 = true := by
  decide +kernel

set_option maxRecDepth 4000 in
theorem test_page_task_hyp :
    let r := { workRec 11 [3] with descA := 65536 }
    let s := work (workRec 1 []) (entryOf 0 1 0 32 0 0 0 0) [descBytes 1 0 0x2000000000]
    let t := { workTask r with dispCnt := [0] }
    let far := fun (f : Pte → Pte) => withPage f { (onBoard .wholeModule [t] s.block) with hbm := { s.block.hbm with farDown := false } }
    let b := far id
    let e := (b.seenBy t).entry r.list.toNat t.cursor
    up.takes .host .cxl Reg.CXL_PAGING_FRAMES = true ∧ b.task? .wholeModule 0 = some t ∧ b.bySerial .wholeModule 7 = some t ∧ r.kind = 11 ∧
    t.phase = .running ∧ t.cursor < r.listCount.toNat ∧ ((b.seenBy t).entryPages r e)[0]? = some 0 ∧
    t.items < r.capacity.toNat ∧ (b.pte 0).valid = true ∧ (b.pte 0).moving = false ∧ r.par 0 1 = 3 ∧ (b.pte 0).resident = true ∧
    ((far (fun p => { p with evictable := true })).pte 0).evictable = true ∧ b.hbm.farDown = false ∧ b.movesRunning < 16 ∧
    ((far (fun p => { p with resident := false })).pte 0).resident = false ∧ b.hbm.moves = [] := by decide +kernel

/-! ### The package network and the links -/

/-- A transfer from tile 0 to the east port die that waits for its first link. -/
def waitingAt (cls fails : Nat) : Transfer :=
  { src := 0, dst := 37, cls := cls, at_ := ((path 0 37).head?.map (fun h => linkKey h.page h.link)).getD 0, from_ := 0, fails := fails }

theorem test_network_hyp : (0 : Fin 38) ≠ 37 ∧ (path 0 15).length = 6 ∧ up.block.linkDown (.tile 0) 0 = false ∧
    (path 0 37).all (fun h => !up.block.linkDown h.page h.link) = true ∧ up.block.net.waiting = [] ∧
    (path 0 37).head?.map (fun h => linkKey h.page h.link) = some (waitingAt 2 0).at_ ∧ (waitingAt 2 0).cls = 2 ∧ Traffic.request.cls ≠ 2 ∧
    (waitingAt 0 16).fails = 16 := by decide +kernel
theorem test_network_down_hyp :
    let h := ((path 0 37).headD ⟨0, .tile 0, 0⟩)
    let b := { up.block with net := { up.block.net with down := [(pageIndex h.page, h.link)], waiting := [] } }
    (path 0 37).any (fun h => b.linkDown h.page h.link) = true ∧ b.running = true := by decide +kernel

/-- The running module with a spoke in a state. -/
def spokeIn (x : SpokeSt) : State :=
  { up with block := setRegs [(.llyMod, Reg.LLY_MODULE_ID, 2 ^ 31), (.spoke 7, Reg.LLY_SPOKE_CFG, 2 ^ 31)] (up.block.setSpoke 7 x) }

theorem test_training_hyp :
    let s := spokeIn .down
    let late := setRegs [(.clk, Reg.CLK_MCLK_COUNT, 50000000)] (spokeIn { SpokeSt.down with state := 4 }).block
    let heldIn := (spokeIn { SpokeSt.down with state := 6, partner := 0, ownId := 1 }).block.spoke 7
    s.block.running = true ∧ (s.block.spoke 7).state = 0 ∧ s.block.spokeOn 7 = true ∧ wbit (s.block.rd .llyMod Reg.LLY_MODULE_ID) 31 = true ∧
    (s.block.spoke 7).retryAt ≤ s.block.now ∧ ((spokeIn { SpokeSt.down with state := 3 }).block.spoke 7).state = 3 ∧ heldIn.state = 6 ∧ s.block.moduleId ≠ heldIn.ownId ∧
    (4095 : Fin 4096).val ≠ s.block.moduleId ∧ (0 : Fin 4096).val = s.block.moduleId ∧ (late.spoke 7).state = 4 ∧
    (late.spoke 7).detectAt + 50000000 ≤ late.now ∧ up.takes .host (.spoke 7) Reg.LLY_SPOKE_CFG = true ∧
    up.takes .host .llyMod Reg.LLY_MODULE_ID = true := by decide +kernel

/-- An ACTIVE spoke. -/
def activeSpoke : SpokeSt := { SpokeSt.down with state := 5, started := true }

theorem test_link_hyp :
    let s := spokeIn activeSpoke
    let f : HeldFlit := { seq := 65535, sop := 0, payload := [], resends := 8 }
    s.block.running = true ∧ (s.block.spoke 7).state = 5 ∧ s.block.rd64 .llyMod Reg.LLY_LS_SEQ < 2 ^ 64 - 1 ∧ s.block.linkLost 7 = false ∧
    (spokeIn { activeSpoke with started := false }).block.linkLost 7 = false ∧ (spokeIn { activeSpoke with held := [f] }).block.linkLost 7 = true := by
  decide +kernel

set_option maxRecDepth 8000 in
theorem test_flit_hyp :
    let l := Machine.flitBytes 1 65535 0 0 0 0 (List.replicate 256 0)
    let s := spokeIn { activeSpoke with expect := 65535, wanted := some 65535, held := [{ seq := 65535, sop := 0, payload := [], resends := 0 }] }
    let h := rdLE (fecDecode l).1 0 8
    (s.block.spoke 7).state = 5 ∧ (s.block.spoke 7).started = true ∧ l.length = 272 ∧ flitGood (fecDecode l).1 = true ∧ field h 63 60 = 1 ∧
    (field h 59 44 + 65536 - (s.block.spoke 7).expect) % 65536 = 0 ∧ (s.block.spoke 7).wanted = some 65535 ∧ (s.block.spoke 7).holds 65535 = true ∧ (s.block.spoke 7).sinceIdle ≤ 4094 ∧
    flitGood (fecDecode (List.replicate 272 1)).1 = false := by decide +kernel

/-! ### The fabric, the peloton, the collective engine -/

/-- A packet from module 1 to this one. -/
def pkt (opcode addr length : Nat) (data : List Byte) : Packet :=
  { dst := 0, src := 1, cls := 0, vc := 0, ttl := 8, opcode := opcode, length := length, tag := 65535, addr := addr, data := data,
    inSpoke := some 7, vcIn := 0, arrived := 0 }

/-- A running module whose ACTIVE spoke 7 leads to module 1, over another state's memory, with packets that have arrived and been accepted. -/
def fabric (s : State) (arrivals inbox : List Packet) : State :=
  let b := s.block.setSpoke 7 activeSpoke
  { s with block := { b with lly := { b.lly with routes := [(1, 2 ^ 15 + 7)], arrivals := arrivals, inbox := inbox } } }

theorem test_route_packet_hyp :
    let p := pkt Op.readReq 0 512 []
    let s := fabric up [p] []
    s.block.lly.arrivals = p :: [] ∧ opKnown p.opcode = true ∧ p.cls ≠ 3 ∧ p.length ≤ 512 ∧ p.dst = s.block.moduleId ∧ s.block.fenced = false ∧
    { p with dst := 1 }.dst ≠ s.block.moduleId ∧ s.block.outSpoke 1 = some 7 ∧ opKnown 255 = false ∧ { p with length := 513 }.length > 512 ∧
    { p with ttl := 0 }.ttl = 0 := by decide +kernel
theorem test_remote_access_hyp :
    let r := pkt Op.readReq 16 2 []
    let w := pkt Op.write 16 2 [1, 2]
    let s := fabric withSlab [] [r, w]
    s.block.running = true ∧ r.src ≠ s.block.moduleId ∧ s.block.outSpoke r.src = some 7 ∧
    ((s.block.takePacket (fun p => p.opcode == Op.readReq)).map (fun x => x.1)) = some r ∧
    ((s.block.takePacket (fun p => p.opcode == Op.write)).map (fun x => x.1)) = some w ∧ s.block.probe 16 2 = .ok ∧
    s.block.poisoned 16 2 = [] ∧ (s.block.within 16 2).isSome = true ∧ s.block.shardFits 16 2 = true ∧ s.block.shardFits 131070 4 = false ∧
    (s.block.setPoison 16 true).poisoned 16 2 = [16] ∧ ((s.block.setPoison 16 true).within 16 2).isSome = true ∧
    (s.block.setPoison 16 true).shardFits 16 2 = true ∧ ((s.block.within 16 2).map (fun v => v.kind)) = some .data ∧
    s.block.within 131070 4 = none ∧ s.block.resolveOwn 16 = .phys 327696 := by decide +kernel

/-- A request of CORE[0][0]'s task to module 1. -/
def request (opcode : Nat) : RemoteReq := { tag := 65535, owner := .task (.core 0) 7, opcode := opcode, dst := 1, addr := 0, length := 2, sentAt := 0 }

theorem test_response_hyp :
    let s := fun (op rsp : Nat) =>
      let b := (fabric up [] [pkt rsp 0 2 [1, 2]]).block
      ({ b with lly := { b.lly with requests := [request op] } } : Block)
    let ok := fun (op rsp : Nat) => ((s op rsp).takePacket (fun p => p.opcode == rsp)).isSome &&
      ((s op rsp).request? 65535 1 (fun o => o == op) == some (request op))
    ok Op.readReq Op.readRsp = true ∧ (pkt Op.readRsp 0 2 [1, 2]).addr = 0 ∧ (pkt Op.readRsp Ev.SRAM_UNCORR 2 [1, 2]).addr = Ev.SRAM_UNCORR ∧ ok Op.write Op.writeAck = true ∧ ok Op.semSignal Op.semAck = true := by decide +kernel
theorem test_signal_packet_hyp :
    let p := pkt Op.semSignal 0 8 (toBytes 4 (2 ^ 31 + 127 * 64 + 63) ++ toBytes 4 1)
    let s := fabric up [] [p]
    let w := BitVec.ofNat 32 (rdLE p.data 0 4)
    (s.block.takePacket (fun p => p.opcode == Op.semSignal)).isSome = true ∧ wfield w 12 6 = 127 ∧ wbit w 31 = true ∧ s.block.coreOn 127 = true ∧
    s.block.fenced = false ∧ p.src ≠ s.block.moduleId ∧ s.block.outSpoke p.src = some 7 := by decide +kernel
theorem test_timeout_hyp :
    let b := onBoard (.core 0) [workTask (workRec 2 [])] up.block
    let b := { b with lly := { b.lly with requests := [request Op.readReq] } }
    let late := setRegs [(.clk, Reg.CLK_MCLK_COUNT, usToMclk (b.rdN .llyMod Reg.LLY_RSP_TIMEOUT))] b
    b.lly.requests[0]? = some (request Op.readReq) ∧ ¬ (request Op.readReq).sentAt + usToMclk (b.rdN .llyMod Reg.LLY_RSP_TIMEOUT) ≤ b.now ∧
    (request Op.readReq).sentAt + usToMclk (late.rdN .llyMod Reg.LLY_RSP_TIMEOUT) ≤ late.now ∧
    late.bySerial (.core 0) 7 = some (workTask (workRec 2 [])) := by decide +kernel

theorem test_membership_hyp :
    let s := fabric up [] [pkt Op.linkState 0 32 (toBytes 8 1 ++ toBytes 24 0)]
    let b := { s.block with lly := { s.block.lly with reachDue := true, settleEnd := some 5 } }
    let m := setRegs [(.llyMod, Reg.LLY_CFG, 2 ^ 31), (.llyMod, Reg.LLY_MEMBER 0, 7)] up.block
    (s.block.takePacket (fun p => p.opcode == Op.linkState)).isSome = true ∧ (s.block.linkRecord 1).isEmpty = true ∧ b.lly.reachDue = true ∧
    b.lly.settleEnd = some 5 ∧ b.now < 5 ∧ 5 ≤ (setRegs [(.clk, Reg.CLK_MCLK_COUNT, 5)] b).now ∧ m.wouldFence m.reachable = true ∧
    up.block.wouldFence up.block.reachable = false ∧ m.lly.fenced = false ∧ m.lly.settleEnd = none ∧
    up.takes .host .llyMod Reg.LLY_EPOCH = true := by decide +kernel
theorem test_route_table_hyp :
    let r : BulkRun := { first := 4095, count := 1, addr := 0, clear := false, origin := .host, done := 0, code := 0 }
    let b := { up.block with lly := { up.block.lly with bulk := some r } }
    up.block.rtBusy = false ∧ up.takes .host .llyMod Reg.LLY_RT_DATA = true ∧ up.takes .mgmt .llyMod Reg.LLY_RT_LOAD_CTL = true ∧
    wbit (0x80001000 : Word) 31 = true ∧ up.block.rdN .llyMod Reg.LLY_RT_SEL + wfield (0x80001000 : Word) 12 0 ≤ 4096 ∧
    4096 < up.block.rdN .llyMod Reg.LLY_RT_SEL + wfield (0x80001001 : Word) 12 0 ∧ b.lly.bulk = some r ∧ r.first + r.count ≤ 4096 ∧ r.done ≤ r.count ∧ r.code = 0 := by decide +kernel

/-- Domain 7 enabled as a root with the module's own arrival and a child on spoke 7, expecting a count. -/
def domain (count : Nat) (b : Block) : Block :=
  setRegs [(.pel, Reg.PEL_DOM_CFG 7, 2 ^ 31 + 2 ^ 30 + 2 ^ 29 + 2 ^ 23 + count)] b

/-- A peloton message of domain 7, sequence 0. -/
def pelMsg (seq : Nat) : PelMsg :=
  { seq := seq, domain := 7, flags := 0, count := 1, last := 0, brake := 0, pace := 0, braked := 0, digest := 0, diffs := [], diffCount := 0, lag := 0 }

theorem test_barrier_hyp :
    let r := { recOf 7 with params := [7] ++ List.replicate 31 0, listCount := 1 }
    let t := taskOf r
    let b := setRegs [(.pel, Reg.PEL_DIGEST_STAT, 0)] (domain 2 (onBoard .wholeModule [t] up.block))
    b.task? .wholeModule 0 = some t ∧ b.bySerial .wholeModule 7 = some t ∧ t.task.par 0 1 % 8 = 7 ∧ t.isEmpty = false ∧
    b.startable .wholeModule t = true ∧ (b.dom 7).task = none ∧ (b.dom 7).abortCode = 0 ∧
    (b.unit .wholeModule).board.find? (fun y => decide (y.task.kind = 7) && decide (y.phase = .admitted) && !y.isEmpty && y.task.par 0 1 % 8 == 7) =
      some t ∧ b.fenced = false ∧ b.net.down = [] ∧ b.domOn 7 = true ∧ b.domLocal 7 = true ∧
    wbit (b.rd .pel Reg.PEL_DIGEST_STAT) 31 = false ∧ (b.dom 7).inputs = [] ∧ (7 : Fin 8) ∈ b.domChildren 7 ∧
    (let held := (b.begin .wholeModule 7).setDom 7 { DomSt.empty with task := some 7 }
     (held.dom 7).task = some 7 ∧ (held.task? .wholeModule 0).map TaskSt.phase = some .running ∧ (held.dom 7).inputs = [] ∧
     held.fenced = false ∧ wbit ((setRegs [(.pel, Reg.PEL_DIGEST_STAT, 2 ^ 31)] b).rd .pel Reg.PEL_DIGEST_STAT) 31 = true) := by decide +kernel
set_option maxRecDepth 4000 in
theorem test_arrival_packet_hyp :
    let p := pkt Op.pelArrive 0 48 (pelMsg 0).bytes
    let s := fabric { up with block := domain 2 up.block } [] [p]
    let m := PelMsg.ofBytes p.data
    (s.block.takePacket (fun p => p.opcode == Op.pelArrive)).isSome = true ∧ m.domain = 7 ∧ s.block.domOn 7 = true ∧
    m.seq = s.block.pelSeq 7 ∧ p.inSpoke = some 7 ∧ (7 : Fin 8) ∈ s.block.domChildren 7 ∧ s.block.domRoot 7 = true ∧
    (PelMsg.ofBytes (pelMsg (2 ^ 48 - 1)).bytes).seq ≠ s.block.pelSeq 7 := by decide +kernel
set_option maxRecDepth 4000 in
theorem test_release_hyp :
    let p := pkt Op.pelRelease 0 48 (pelMsg 0).bytes
    let s := fabric (upRegs [(.pel, Reg.PEL_DOM_CFG 7, 2 ^ 31 + 2 ^ 29 + 7 * 2 ^ 24 + 2)]) [] [p]
    let b := (setRegs [(.pel, Reg.PEL_TIMEOUT, 1000)] (domain 2 up.block)).setDom 7 { DomSt.empty with timer := some 0 }
    let late := setRegs [(.clk, Reg.CLK_MCLK_COUNT, 500 * (b.rdN .pel Reg.PEL_TIMEOUT % 2 ^ 24))] b
    (s.block.takePacket (fun p => p.opcode == Op.pelRelease)).isSome = true ∧ s.block.domOn 7 = true ∧ (PelMsg.ofBytes p.data).seq = s.block.pelSeq 7 ∧
    s.block.domRoot 7 = false ∧ s.block.domParent 7 = 7 ∧ p.inSpoke = some 7 ∧ (late.dom 7).timer = some 0 ∧ late.domRoot 7 = true ∧
    late.rdN .pel Reg.PEL_TIMEOUT % 2 ^ 24 ≠ 0 ∧ 0 + 500 * (late.rdN .pel Reg.PEL_TIMEOUT % 2 ^ 24) ≤ late.now ∧
    b.now < 0 + 500 * (b.rdN .pel Reg.PEL_TIMEOUT % 2 ^ 24) := by decide +kernel
theorem test_peloton_config_hyp :
    let g := setRegs [(.pel, Reg.PEL_GMEMBER 0, 1)] (domain 1 up.block)
    let x : Draft := { leader := 1, pace := 0, until_ := 0 }
    let b := setRegs [(.pel, Reg.PEL_DIGEST_STAT, 2 ^ 31)] { up.block with pel := { up.block.pel with draft := some x } }
    up.takes .host .pel (Reg.PEL_DOM_CFG 7) = true ∧ up.takes .host .pel Reg.PEL_GROUP = true ∧ wbit (0x80000007 : Word) 31 = true ∧
    g.groupOk (wfield (0x80000007 : Word) 2 0) = true ∧ up.block.groupOk 7 = false ∧ wbit (0 : Word) 31 = false ∧
    wbit ((setRegs [(.pel, Reg.PEL_GROUP, 2 ^ 31)] up.block).rd .pel Reg.PEL_GROUP) 31 = true ∧ b.pel.draft = some x ∧ x.until_ ≤ b.now ∧
    wbit (b.rd .pel Reg.PEL_DIGEST_STAT) 31 = true := by decide +kernel

theorem test_message_hyp : (pelMsg 0).seq < 2 ^ 48 ∧ (pelMsg 0).diffs.length ≤ 4 ∧ (pkt Op.write 0 1023 []).length < 1024 ∧
    (pkt Op.write 0 1023 []).tag < 65536 ∧ (pkt Op.write 0 1023 []).vcIn = (pkt Op.write 0 1023 []).vc := by decide

theorem test_team_hyp :
    let s := fun (w : Nat) => withSlab.block.store 16 (toBytes 8 w)
    let at16 := fun (b : Block) => setRegs [(.col, Reg.COL_TEAM_SRC_LO, 16)] b
    withSlab.takes .host .col Reg.COL_TEAM_CMD = true ∧ (at16 (s 0x8000000000000001)).teamLoadCode = 0 ∧
    (at16 (s 2)).teamLoadCode = Ev.COL_TEAM_FIELD ∧ up.block.teamBusy 0 = false ∧
    (onBoard .wholeModule [taskOf (recOf 6)] up.block).teamBusy 0 = true := by decide +kernel

/-- A record of the collective engine over the memory of `work`. -/
def colRec (op : Nat) : TaskRec := workRec 6 [BitVec.ofNat 8 op]

/-- A run of it in a team of this module alone. -/
def colRun (op : Nat) : ColRun :=
  { team := 0, serial := 7, seq := 0, members := [0], rank := 0, own := [], form := [], localSq := 0, inbox := [], sent := if op = 4 then [[0]] else [],
    greeted := [] }

/-- A running module with that collective. -/
def colState (op : Nat) (entry : List Byte) (descs : List (List Byte)) : Block :=
  let s := work (workRec 1 []) entry descs
  let b := onBoard .wholeModule [workTask (colRec op)] s.block
  { b with col := { b.col with runs := [colRun op] } }

set_option maxRecDepth 4000 in
theorem test_ring_hyp :
    let go := fun (op : Nat) =>
      let b := colState op (entryOf 0 1 0 0 0 0 0 0) [descBytes 1 0 0, descBytes 1 0 128, descBytes 1 0 256, descBytes 9 0 512]
      let t := workTask (colRec op)
      let e := (b.seenBy t).found .none
      let v := e.colView t (colRun op)
      let b0 := e.addCycles colUnit 7 5
      b.collectives.find? (fun t => t.task.colOp == op && b.colDue t) == some t && b.bySerial colUnit 7 == some t && b.run? 7 == some (colRun op) &&
        v.ringDue.isEmpty && v.result.isSome && !t.task.colFlag 1 &&
        (b0.taskWrite t none (b0.placeValues (e.desc t.task.descC.toNat) (t.task.colFlag 3) ([].zip (v.result.getD []))) (b0.colPageIn t.task)).1 == .ok
    go 1 = true ∧ go 2 = true ∧ go 3 = true := by decide +kernel

set_option maxRecDepth 4000 in
theorem test_rows_hyp :
    let b := colState 4 (entryOf 0 1 0 32 0 0 0 0) [descBytes 1 0 0, descBytes 9 0 128, descBytes 1 0 256, descBytes 9 0 512]
    let t := workTask (colRec 4)
    let r := t.task
    let e := (b.seenBy t).found .none
    let v := e.colView t (colRun 4)
    let b0 := e.addCycles colUnit 7 5
    let q := b0.demand t (e.rowReads r) (b0.colPageIn r)
    let gs := v.allGroups (e.rowGroups r)
    let w := q.2.rowWrites v (e.rowGroups r) (gs.getD [])
    b.collectives.find? (fun t => t.task.colOp == 4 && b.colDue t) = some t ∧
    (e.rowGroups r).all (fun g => decide (g.row + g.n ≤ (e.desc r.descA.toNat).rows)) = true ∧ q.1 = .ok ∧ b0.poisonIn t (e.rowReads r) = none ∧
    (colRun 4).sent ≠ [] ∧ gs.isSome = true ∧ q.2.countsFault r [0] (gs.getD []) = none ∧ q.2.rowsDue v (e.rowGroups r) true = [] ∧
    w.isSome = true ∧ (q.2.taskWrite t none (w.getD []) (q.2.colPageIn r)).1 = .ok ∧ r.colListOut = 0 := by decide +kernel

set_option maxRecDepth 4000 in
theorem test_permute_hyp :
    let b := colState 5 (entryOf 0 1 0 32 0 0 0 0) [descBytes 1 0 0, descBytes 1 0 128, descBytes 1 0 256, descBytes 9 0 512]
    let t := workTask (colRec 5)
    let r := t.task
    let e := (b.seenBy t).found .none
    let b0 := e.addCycles colUnit 7 5
    let es := e.colEntries r
    let ss := (b0.colSources r).getD []
    let reads := (ss.filter (fun y => y.holder == 0)).flatMap Source.ranges
    let q := b0.demand t reads (b0.colPageIn r)
    let w := (es.zip ss).flatMap (fun p => (q.2.permuteWrites r p.1 p.2).map (fun w => (p.1.param 0 2 % 4096, w)))
    b.collectives.find? (fun t => t.task.colOp == 5 && b.colDue t) = some t ∧ (b0.colSources r).isSome = true ∧ (colRun 5).sent = [] ∧ q.1 = .ok ∧ b0.poisonIn t reads = none ∧
    w.length = 1 ∧ w.all (fun x => x.1 == b.moduleId) = true ∧ w.all (fun x => (q.2.remoteAccess x.2.1 x.2.2.length true).1 == .ok) = true ∧
    t.phase = .running ∧ { colRun 5 with sent := [[0]] }.sent.contains [(colRun 5).seq] = true ∧ b.awaits colUnit 7 = false ∧
    ({ b with lly := { b.lly with requests := [{ request Op.write with owner := .task colUnit 7 }] } } : Block).awaits colUnit 7 = true := by
  decide +kernel

theorem test_col_packet_hyp :
    let b := colState 1 (entryOf 0 1 0 0 0 0 0 0) [descBytes 1 0 0]
    let t := workTask (colRec 1)
    let q := { request Op.colData with owner := ReqOwner.task colUnit 7 }
    let c := { b with lly := { b.lly with requests := [q] } }
    up.block.running = true ∧ up.block.fenced = false ∧ up.block.teamRun 0 = none ∧ b.teamRun 0 = some (colRun 1) ∧
    b.bySerial colUnit (colRun 1).serial = some t ∧ t.phase = .running ∧ (colRun 1).greeted.contains 1 = false ∧
    (b.seenBy t).helloFields t.task 0 1 ≠ [] ∧ [(0 : Nat), 1].headD 0 = (colRun 1).seq ∧
    c.lly.requests.find? (fun q => decide (q.owner = .task colUnit (colRun 1).serial) && q.dst == 1 &&
      (q.opcode == Op.colHello || q.opcode == Op.colData)) = some q := by decide +kernel

/-! ### Power, clocks, heat, ageing -/

/-- The running module at a time, in MCLK cycles. -/
def at_ (n : Nat) (f : Block → Block) : Block := f (setRegs [(.clk, Reg.CLK_MCLK_COUNT, n)] up.block)

theorem test_power_hyp :
    let b := at_ 500 (fun b => { b with pwr := { b.pwr with samples := [(0, 2640001)] } })
    let c := at_ 50000 (fun b => { b with pwr := { b.pwr with samples := [(50000, 2399999), (0, 2640001)], cur := some 8 } })
    b.pwr.samples.head? = some (0, 2640001) ∧ 0 + 500 ≤ b.now ∧ 2640000 < 2640001 ∧ b.pwr.cur = none ∧
    (at_ 499 id).now < 0 + 500 ∧ c.pwr.cur ≠ none ∧ c.pwr.samples.all (fun x => !decide (c.now < x.1 + 50000) || decide (x.2 < 2400000)) = true ∧
    c.pwr.samples.head? = some (50000, 2399999) := by decide +kernel
theorem test_cadence_hyp :
    let b := onBoard (.core 0) [taskOf (recOf 1)] { up.block with pwr := { up.block.pwr with lent := [(0, 1, 5)], floorSince := some 0 } }
    let late := setRegs [(.clk, Reg.CLK_MCLK_COUNT, 500000 * 255)] b
    b.running = true ∧ b.pwr.lent.filter (fun l => decide (l.1 = (0 : Fin 16).val)) ≠ [] ∧
    (b.coresOf 0).any (fun c => (b.unit (.core c)).board.any (fun x =>
      decide (x.phase = .admitted) && decide (kindResource x.task.kind.toNat = 0) && b.ready x)) = true ∧ up.block.pwr.lent = [] ∧
    late.pwr.floorSince = some 0 ∧ late.pwr.floorDone = false ∧ late.fallsFast = false ∧ late.slewWaits 1 = false ∧ late.arrayClaimed 1 = false ∧
    late.coreOn 1 = true ∧ late.arrayBusy 1 = false ∧ (taskOf (recOf 1)).task.defer = false ∧
    0 + msToMclk (wfield (late.eff .pwr Reg.PWR_FLOOR) 23 16) ≤ late.now := by decide +kernel
theorem test_brake_request_hyp : up.block.running = true ∧ Instr.brakeRequestInput true ∈ [Instr.brakeRequestInput true, Instr.modAuxInput true] ∧
    wbit ((upRegs [(.mod, Reg.MOD_AUX_CFG, 1)]).block.rd .mod Reg.MOD_AUX_CFG) 0 = true ∧
    wbit (up.block.rd .mod Reg.MOD_AUX_CFG) 0 = false := by decide
theorem test_clock_hyp :
    let b := setRegs [(.clk, Reg.CLK_LOCK0, 2 ^ 31 + 1)] up.block
    let l := fun (n : Nat) => at_ n (fun b => { b with pwr := { b.pwr with refLostAt := some 0, unlocked := [(37, 0)] } })
    wbit (b.rd .clk Reg.CLK_LOCK0) 31 = true ∧ b.lock 0 = true ∧ (l 0).pwr.refLostAt = some 0 ∧ (l 0).now < 0 + msToMclk 10 ∧
    0 + msToMclk 10 ≤ (l (msToMclk 10)).now ∧ (l 0).pwr.unlocked.find? (fun u => u.1 == 37) = some (37, 0) ∧
    0 + msToMclk 1 ≤ (l (msToMclk 1)).now ∧ (l 0).now < 0 + msToMclk 1 ∧ (at_ 0 id).pwr.refLostAt = none ∧ up.block.setting 0 ≠ 0 ∧
    (setRegs [(.clk, Reg.CLK_TILE 0, 0)] up.block).setting 0 = 0 := by decide +kernel
theorem test_heat_hyp :
    let hot := List.replicate 38 255
    let cool := List.replicate 38 25
    let b := at_ (msToMclk 10) (fun b => { b with pwr := { b.pwr with temps := [(0, 255)], therm := [(15, 8)] } })
    hot.length ≤ 38 ∧ hot.all (fun x => decide (x < 256)) = true ∧ (List.range 38).all (fun d => decide (cool.getD d 0 < tripC d)) = true ∧
    tripC 0 ≤ hot.getD 0 0 ∧ up.block.pwr.tripped = false ∧ wfield (b.rd .pwr Reg.PWR_THERM_CFG) 7 0 ≤ Sparse.get (fun _ => 0) b.pwr.temps 0 ∧
    Sparse.get (fun _ => 0) b.pwr.therm 0 = 0 ∧ Sparse.get (fun _ => 0) b.pwr.therm 15 ≠ 0 ∧
    [15, 16, 17].all (fun d => decide (Sparse.get (fun _ => 0) b.pwr.temps d + 3 ≤ wfield (b.rd .pwr Reg.PWR_THERM_CFG) 7 0)) = true ∧
    Sparse.get (fun _ => 0) b.pwr.thermAt 15 + msToMclk 10 ≤ b.now ∧ up.takes .host .pwr Reg.PWR_TEMP = true ∧ wbit (0x80000000 : Word) 31 = true := by
  decide +kernel
theorem test_ageing_hyp :
    let b := setRegs [(.age, Reg.AGE_CFG, 2 ^ 31 + 20)] up.block
    b.running = true ∧ wbit (b.rd .age Reg.AGE_CFG) 31 = true ∧ ((20 : Int) < ((wfield (b.rd .age Reg.AGE_CFG) 7 0 : Nat) : Int)) = False ∧
    (19 : Int) < ((wfield (b.rd .age Reg.AGE_CFG) 7 0 : Nat) : Int) := by
  refine ⟨by decide, by decide, ?_, by decide⟩
  exact eq_false (by decide)

/-! ### The host port, resets, boot, the input and the pins -/

theorem test_host_link_hyp :
    State.reset.block.host.linkUp = false ∧ ({ State.reset.block with boot := { State.reset.block.boot with run := .stages } } : Block).boot.run = .stages ∧
    up.block.host.linkUp = true ∧ up.block.canWarm = true ∧ up.block.cmbUp = true := by decide
theorem test_reset_asks_hyp : up.takes .host .mod Reg.MOD_RESET = true ∧ wfield (0xB0C50001 : Word) 31 16 = 0xB0C5 ∧
    wfield (0xB0C50001 : Word) 1 0 = 1 ∧ wfield (0xB0C50002 : Word) 1 0 = 2 ∧ wfield (0xB0C40001 : Word) 31 16 ≠ 0xB0C5 ∧
    up.block.log.entries.length + 1 < logSize := by decide
theorem test_warm_hyp :
    let b := fun (k : Nat) => { up.block with boot := { up.block.boot with resetDue := some k } }
    (b 1).boot.run = .running ∧ (b 1).boot.resetDue = some 1 ∧ (b 3).boot.resetDue = some 3 := by decide
theorem test_cold_hyp :
    ({ up.block with boot := { up.block.boot with resetDue := some 2 } } : Block).boot.resetDue = some 2 ∧ up.block.boot.resetDue ≠ some 2 ∧
    up.block.boot.run ≠ .off ∧ ({ up.block with boot := { up.block.boot with run := .cmbHeld } } : Block).boot.run = .cmbHeld := by decide

/-- A stage image of the running security version that checks. -/
def image (n : Nat) : StageImg := { stage := n, svn := 1, length := 64, version := 0, sigOk := true, measure := 0 }

/-- A bank that passes. -/
def goodBank : Bank := { valid := true, stages := [image 1, image 2, image 3, image 4, image 5] }

theorem test_boot_hyp :
    let b := { up.block with boot := { up.block.boot with run := .bootRom }, nv := { up.block.nv with bankA := goodBank, bankB := { goodBank with valid := false }, nextB := true } }
    b.boot.run = .bootRom ∧ (checkStages b.nv.minSvn goodBank.stages).1 = 0 ∧ b.nv.bankB.valid = false ∧ b.nv.nextB = true ∧
    (checkStages b.nv.minSvn []).1 ≠ 0 ∧ ({ b with boot := { b.boot with run := .stages } } : Block).boot.run = .stages ∧
    b.nv.tops.getD 0 28 ≤ 28 := by decide
theorem test_input_hyp :
    let b := fun (r : RunState) => ({ State.reset.block with boot := { State.reset.block.boot with run := r, inputCut := true } } : Block)
    (b .off).boot.run = .off ∧ (400 : Nat) ≤ 400 ∧ (b .cmbHeld).boot.run = .cmbHeld ∧ (b .cmbHeld).pins.coldRst = false ∧
    (b .cmbHeld).pins.testEn = false ∧ { (b .cmbHeld).pins with powerGood := false }.powerGood = false ∧ up.block.boot.run ≠ .off ∧ (399 : Nat) < 400 ∧
    up.block.running = true ∧ up.block.pins.inputLow = false ∧ { up.block.pins with inputLow := true }.inputLow = true ∧ up.block.cmbUp = true ∧
    (b .railsDown).boot.inputCut = true := by decide
theorem test_pins_hyp : up.takes .host .mod Reg.MOD_AUX_CFG = true ∧ up.block.pwr.coolantWarned = false ∧
    { up.block.pwr with coolantWarned := true }.coolantWarned = true ∧
    ((10 * wfield (up.block.rd .mod Reg.MOD_COOLANT_CFG) 7 0 : Nat) : Int) < signed 16 (wfield (0x7FFF7FFF : Word) 15 0) ∧
    ¬ ((10 * wfield (up.block.rd .mod Reg.MOD_COOLANT_CFG) 7 0 : Nat) : Int) < signed 16 (wfield (0 : Word) 15 0) := by decide

/-! ### The mailbox, the log, the bus, the test port -/

/-- A run of the mailbox whose work is done. -/
def mbxRun (code : Nat) : MbxRun := { page := 1, code := code, startedAt := 0, ready := true, result := 0, rsp := [], todo := [], asked := [] }

theorem test_mailbox_hyp :
    up.block.doorOpen .host = true ∧ originFits .host (.mbx 0) = true ∧ originFits .mgmt (.mbx 1) = true ∧ up.block.running = true ∧
    up.block.mbx.run = none ∧ up.block.strictFull = false ∧ up.block.mbxUp = true ∧ mbxDefined (wfield (0x00 : Word) 7 0) = false ∧
    ({ up.block with mbx := { run := some (mbxRun 1) } } : Block).mbx.run = some (mbxRun 1) := by decide
theorem test_mailbox_work_hyp :
    let b := setRegs [(.mbx 0, Reg.MBX_BUF_LO, 0), (.mbx 0, Reg.MBX_BUF_LEN, 4096), (.mbx 0, Reg.MBX_ARG 0, 5)] withSlab.block
    let b := { b with boot := { b.boot with svn := 1 }, nv := { b.nv with minSvn := 0, raisesLeft := 1 } }
    let l := b.nv.pubKey ++ b.nv.certs
    b.nv.minSvn < b.boot.svn ∧ 0 < b.nv.raisesLeft ∧ b.rdN (.mbx 0) (Reg.MBX_ARG 0) ≤ 5 ∧ 4096 ≤ b.rdN (.mbx 0) Reg.MBX_BUF_LEN ∧
    l.length ≤ 4096 ∧ (b.within 0 4096).isSome = true ∧ 0 / 65536 = (0 + l.length) / 65536 ∧ b.resolve 0 = .phys (5 * 65536) ∧
    b.bufFits 0 1 = true ∧ 4096 ≤ recoverySize ∧ b.poisoned 0 4096 = [] ∧
    (setRegs [(.mbx 0, Reg.MBX_ARG 0, 0xFFFFFFFF)] b).rdN (.mbx 0) (Reg.MBX_ARG 0) = 0xFFFFFFFF ∧
    (setRegs [(.mbx 0, Reg.MBX_BUF_LEN, 447)] b).rdN (.mbx 0) Reg.MBX_BUF_LEN < 448 ∧
    wbit ((setRegs [(.pel, Reg.PEL_DIGEST_STAT, 0)] b).rd .pel Reg.PEL_DIGEST_STAT) 31 = false := by decide +kernel
theorem test_mailbox_long_hyp :
    let b := fun (a c : Nat) => setRegs [(.mbx 0, Reg.MBX_ARG 0, a), (.mbx 0, Reg.MBX_ARG 2, c)] up.block
    let arg := fun (b : Block) (i : Nat) => b.rdN (.mbx 0) (Reg.MBX_ARG i)
    arg (b 2 4194304) 0 = 2 ∧ arg (b 2 4194304) 2 ≤ 4194304 ∧ 4194304 < arg (b 1 4194305) 2 ∧ arg (b 3 1) 0 ≠ 1 ∧ 2 ^ 20 ≤ arg (b (2 ^ 20) 0) 0 ∧
    ({ up.block with hbm := { up.block.hbm with farDown := true } } : Block).hbm.farDown = true := by decide
theorem test_mailbox_end_hyp :
    let b := fun (code : Nat) => ({ up.block with mbx := { run := some (mbxRun code) }, hbm := { up.block.hbm with farDown := false } } : Block)
    (b 1).mbx.run = some (mbxRun 1) ∧ (mbxRun 1).ready = true ∧ (mbxRun 1).code < 256 ∧ (mbxRun 1).result < 65536 ∧ (b 0x12).quiet = true ∧
    (onBoard (.core 0) [workTask (workRec 1 [])] (b 0x12)).quiet = false ∧ (b 0x14).hbm.farDown = false ∧ (mbxRun 0x14).todo = [] ∧
    (b 0x12).now - 0 < msToMclk 10000 ∧ msToMclk 10000 ≤ (setRegs [(.clk, Reg.CLK_MCLK_COUNT, 705032704), (.clk, Reg.CLK_MCLK_COUNT + 4, 1)] (b 0x12)).now := by
  decide +kernel
theorem test_logged_hyp : ∃ r, regAt? .pwr Reg.PWR_LIMIT = some r ∧ ownRow .pwr Reg.PWR_LIMIT = false ∧ loggedReg .pwr Reg.PWR_LIMIT = true ∧
    up.takes .host .pwr Reg.PWR_LIMIT = true ∧ up.block.rd .pwr Reg.PWR_LIMIT ≠ fieldWrite r .pwr Reg.PWR_LIMIT (up.block.rd .pwr Reg.PWR_LIMIT) 0 ∧
    up.block.log.entries.length < logSize ∧ up.block.log.dropped = 0 := ⟨_, rfl, by decide, by decide, by decide, by decide, by decide, by decide⟩
theorem test_log_read_hyp : up.takes .host .log (Reg.LOG_RD_SEQ + 4) = true ∧ up.takes .host .log (Reg.LOG_ACK + 4) = true ∧
    up.takes .mgmt .log Reg.LOG_ACK = true ∧ up.takes .mgmt .log Reg.LOG_RD_SEQ = true := by decide
theorem test_bus_hyp : State.reset.block.busUp = false ∧
    ({ up.block with i3c := { up.block.i3c with dyn := some 8 } } : Block).busUp = true ∧ (0x3FFFFFC : Nat) % 4 = 0 ∧ (0x3FFFFFC : Nat) < 2 ^ 26 ∧
    ¬ ((0x4000000 : Nat) % 4 = 0 ∧ (0x4000000 : Nat) < 2 ^ 26) ∧ up.block.cmbUp = true ∧ up.block.i3c.dyn = none := by decide
theorem test_bus_write_hyp : ∃ w, exec (.registerWrite .mgmt (BitVec.ofNat 26 0x3FFFFFC) 0) up = .next w := ⟨_, rfl⟩
theorem test_port_hyp : up.block.boot.run ≠ .off ∧ up.block.pins.coldRst = false ∧ { up.block.pins with coldRst := true }.coldRst = true ∧
    up.block.pins.testEn = false ∧ { up.block.pins with testEn := true }.testEn = true ∧ (0x80 : Nat) ≤ 0xFE := by decide

/-! ## Results worked out from the manual -/

/-- R155, R157: σ(0) is exactly one half, tanh(0) and SILU(0) are 0, SOFTPLUS's derivative at 0 is one half. -/
theorem test_functions_at_zero : fixFn 7 0 0 = fixOne / 2 ∧ fixFn 8 0 0 = 0 ∧ fixFn 6 0 0 = 0 ∧ fixFn 9 1 0 = fixOne / 2 ∧
    withinBound (fixFn 7 0 0) 0x3F000000 = true ∧ withinBound (fixFn 7 0 0) 0x3F000008 = true ∧ withinBound (fixFn 7 0 0) 0x3F000009 = false := by
  decide +kernel
set_option maxRecDepth 4000 in
/-- R18: a write changes PWR_LIMIT, and a read-only counter ignores one. -/
theorem test_write_kinds :
    (execRegisterWrite .host (BitVec.ofNat 26 (addrOf .pwr Reg.PWR_LIMIT)) 1000 up).casesOn (fun t => t.block.rdN .pwr Reg.PWR_LIMIT == 1000)
      (fun _ => false) (fun _ => false) = true ∧
    (execRegisterWrite .host (BitVec.ofNat 26 (addrOf .clk Reg.CLK_MCLK_COUNT)) 7 up).casesOn (fun t => t.block.now == 0)
      (fun _ => false) (fun _ => false) = true := by decide
/-- R33: between tiles a transfer goes along its row and then along its column; from TILE 0 to TILE 5 that is by TILE 1. -/
theorem test_path : (path 0 5).map (fun h => h.die) = [1, 5] := by decide
/-- R271: the generators of an Aznor unit start from 8 seeds, all different. -/
theorem test_generators : (AznUnit.empty.gens).length = 8 ∧ AznUnit.empty.gens.Nodup := by decide +kernel

end Sys2Proof.Tests
end

section
/-! SUPPORT. What a command can answer, said once for all commands, and what follows for the fuses and for reset. -/

namespace Sys2Proof.Machine

open Sys2Proof

/-! ## What a command can answer -/

/-- A command of the engines is a step that happens only while the module runs. -/
theorem exec_eq_onBlock {c : Instr} (h : c.isEngine = true) (s : State) : ∃ f, exec c s = s.onBlock f := by
  cases c <;> cases h <;> exact ⟨_, rfl⟩

/-- A command that an origin makes is a register write of that origin. -/
theorem exec_eq_onWrite {c : Instr} {o : Origin} (h : c.writeOrigin = some o) (s : State) : ∃ f, exec c s = s.onWrite o f := by
  cases c <;> cases h <;> exact ⟨_, rfl⟩

/-- Every other command but JTAG_PRIVATE happens at a port or a pin. -/
theorem exec_eq_onPort {c : Instr} (he : c.isEngine = false) (hw : c.writeOrigin = none) (hj : ∀ k, c ≠ .jtagPrivate k) (s : State) :
    ∃ f, exec c s = s.onPort f := by
  cases c
  case jtagPrivate k => exact absurd rfl (hj k)
  all_goals cases he <;> cases hw <;> (dsimp only [exec]; exact ⟨_, rfl⟩)

/-- JTAG_PRIVATE is refused, or leaves the fuses and the queue. -/
theorem execJtagPrivate_cases (k : Nat) (s : State) :
    (∃ b, exec (.jtagPrivate k) s = .next { s with block := b }) ∨ ∃ r, exec (.jtagPrivate k) s = .refused r := by
  show (∃ b, execJtagPrivate k s = _) ∨ ∃ r, execJtagPrivate k s = _
  unfold execJtagPrivate
  split
  · exact .inl ⟨s.block, rfl⟩
  · split
    · exact .inr ⟨_, rfl⟩
    · exact .inl ⟨_, rfl⟩

/-- All that a command can answer: a state that differs in the module alone, or a refusal. -/
theorem exec_cases (c : Instr) (s : State) :
    (∃ b, exec c s = .next { s with block := b }) ∨ ∃ r, exec c s = .refused r := by
  by_cases hj : ∃ k, c = .jtagPrivate k
  · obtain ⟨k, rfl⟩ := hj
    exact execJtagPrivate_cases k s
  refine .inl ?_
  cases he : c.isEngine with
  | true =>
    obtain ⟨f, hf⟩ := exec_eq_onBlock he s
    obtain ⟨b, hb, -⟩ := s.onBlock_cases f
    exact ⟨b, hf.trans hb⟩
  | false =>
    cases hw : c.writeOrigin with
    | some o =>
      obtain ⟨f, hf⟩ := exec_eq_onWrite hw s
      obtain ⟨b, hb, -⟩ := s.onWrite_cases o f
      exact ⟨b, hf.trans hb⟩
    | none =>
      obtain ⟨f, hf⟩ := exec_eq_onPort he hw (fun k e => hj ⟨k, e⟩) s
      exact ⟨_, hf.trans (s.onPort_cases f)⟩

/-- A command leaves the fuses. -/
theorem exec_fuses {c : Instr} {s t : State} (h : exec c s = .next t) : t.fuses = s.fuses := by
  rcases exec_cases c s with ⟨b, hb⟩ | ⟨r, hr⟩
  · rw [hb] at h
    cases h
    rfl
  · rw [hr] at h
    cases h

/-- A step leaves the fuses, whether it takes a command or lets a cycle pass. -/
theorem step_fuses {s t : State} (h : step s = .next t) : t.fuses = s.fuses := by
  unfold step at h
  split at h
  · have hf := exec_fuses h
    exact hf
  · cases h
    rfl

/-- Settles O3: no step writes the fuses, so they stay those of an issued module. -/
theorem stepKeepsFusesIssued : Obligations.StepKeepsFusesIssued := by
  unfold Obligations.StepKeepsFusesIssued
  intro s t hs h
  have hf := step_fuses h
  exact ⟨hf ▸ hs, hf⟩

/-! ## Reset -/

/-- Settles O5: each part is about the concrete state of a new GK-128, so it evaluates. -/
theorem resetIsSound : Obligations.ResetIsSound := by
  unfold Obligations.ResetIsSound
  exact ⟨by decide, by decide, by decide, rfl, rfl⟩

end Sys2Proof.Machine
end

section
/-! SUPPORT. The two words of a wide register, and what reads of a 64-bit counter return. -/

namespace Sys2Proof.Machine

open Sys2Proof

/-! ## The two words of a wide register (R13) -/

/-- In a table of registers every wide register holds its two words apart, and no earlier row takes the high word of one. -/
def wideRowsApart (l : List RegDef) : Bool :=
  l.all (fun r => !r.wide || decide (4 < r.stride)) &&
    decide (l.Pairwise (fun a r => r.wide = true → ∀ i < r.count, a.covers (r.off + i * r.stride + 4) = false))

theorem wideRowsApart_page (p : Page) : wideRowsApart (headerRegs ++ blockRegs p) = true := by
  cases p
  case sem u => cases u <;> (dsimp only [blockRegs]; decide +kernel)
  all_goals (dsimp only [blockRegs]; decide +kernel)

/-- The word after the low word of a wide register is that register's too, 4 bytes into its place. -/
theorem regAt_high {p : Page} {off : Nat} {r : RegDef} (hr : regAt? p off = some r) (hw : r.wide = true)
    (hlow : (off - r.off) % r.stride = 0) : regAt? p (off + 4) = some r ∧ (off + 4 - r.off) % r.stride = 4 := by
  unfold regAt? at hr ⊢
  have hp := wideRowsApart_page p
  unfold wideRowsApart at hp
  rw [Bool.and_eq_true, decide_eq_true_eq, List.all_eq_true] at hp
  obtain ⟨hstride, hapart⟩ := hp
  obtain ⟨hcov, as, bs, hl, has⟩ := List.find?_eq_some_iff_append.1 hr
  rw [hl] at hstride hapart
  have h4 : 4 < r.stride := by simpa [hw] using hstride r (by simp)
  simp only [RegDef.covers, Bool.and_eq_true, decide_eq_true_eq] at hcov
  obtain ⟨⟨hle, hcount⟩, -⟩ := hcov
  have hoff : off = r.off + (off - r.off) / r.stride * r.stride := by
    have := Nat.div_add_mod' (off - r.off) r.stride
    omega
  have hsub : off + 4 - r.off = 4 + (off - r.off) / r.stride * r.stride := by omega
  have hmod : (off + 4 - r.off) % r.stride = 4 := by
    rw [hsub, Nat.add_mul_mod_self_right, Nat.mod_eq_of_lt h4]
  have hdiv : (off + 4 - r.off) / r.stride = (off - r.off) / r.stride := by
    rw [hsub, Nat.add_mul_div_right _ _ (by omega), Nat.div_eq_of_lt h4, Nat.zero_add]
  refine ⟨List.find?_eq_some_iff_append.2 ⟨?_, as, bs, hl, fun a ha => ?_⟩, hmod⟩
  · rw [RegDef.covers, hdiv, hmod, if_pos hw, decide_eq_true (show r.off ≤ off + 4 by omega), decide_eq_true hcount]
    rfl
  · obtain ⟨-, -, hbefore⟩ := List.pairwise_append.1 hapart
    have hfree := hbefore a ha r (by simp) hw _ hcount
    rw [← hoff] at hfree
    rw [hfree]
    rfl

/-! ## Reads of a counter -/

theorem addrOf_page {p : Page} {off : Nat} (h : off < 4096) : addrOf p off / 4096 = pageIndex p := by
  unfold addrOf
  omega

theorem addrOf_offset {p : Page} {off : Nat} (h : off < 4096) : addrOf p off % 4096 = off := by
  unfold addrOf
  omega

/-- Pages 254 and 255 of the aperture hold the MSI-X words and no page of the register map. -/
theorem pageIndex_ne_msix (p : Page) : pageIndex p ≠ 254 ∧ pageIndex p ≠ 255 := by
  have h := pageAt_pageIndex p
  constructor <;> intro e <;> rw [e] at h <;> cases h

/-- No row of a SEM page is a counter. -/
theorem isCounter_sem {u : UnitId} {off : Nat} {r : RegDef} (h : regAt? (.sem u) off = some r) : isCounter r = false := by
  have hm := List.mem_of_find?_eq_some h
  have all : ∀ q ∈ headerRegs ++ blockRegs (.sem u), (q.wide && decide (q.acc = .ro)) = false := by
    cases u <;> (dsimp only [blockRegs]; decide +kernel)
  unfold isCounter
  rw [all r hm]
  rfl

/-- A read of a counter's low word answers it and latches the high word. -/
theorem Block.readReg_low (b : Block) {p : Page} {off : Nat} {r : RegDef} (hr : regAt? p off = some r) (hc : isCounter r = true)
    (ho : off < 4096) (hlow : (off - r.off) % r.stride = 0) :
    b.readReg (addrOf p off) = (b.pageWord p off,
      { b with latch := Sparse.insert (addrOf p off + 4) (b.pageWord p (off + 4)) (Sparse.erase (addrOf p off + 4) b.latch) }) := by
  unfold Block.readReg
  rw [addrOf_page ho, addrOf_offset ho, if_neg (pageIndex_ne_msix p).1, if_neg (pageIndex_ne_msix p).2, pageAt_pageIndex]
  cases p
  case sem u => rw [isCounter_sem hr] at hc; cases hc
  all_goals simp only [hr, hc, hlow, Bool.not_true, Bool.false_eq_true, if_false, if_true]

/-- A read of a counter's high word answers what is latched for it, and frees the latch. -/
theorem Block.readReg_latched (b : Block) {p : Page} {off : Nat} {r : RegDef} {e : Nat × Word} (hr : regAt? p off = some r)
    (hc : isCounter r = true) (ho : off < 4096) (hhigh : (off - r.off) % r.stride ≠ 0)
    (he : b.latch.find? (fun e => e.1 == addrOf p off) = some e) :
    b.readReg (addrOf p off) = (e.2, { b with latch := Sparse.erase (addrOf p off) b.latch }) := by
  unfold Block.readReg
  rw [addrOf_page ho, addrOf_offset ho, if_neg (pageIndex_ne_msix p).1, if_neg (pageIndex_ne_msix p).2, pageAt_pageIndex]
  cases p
  case sem u => rw [isCounter_sem hr] at hc; cases hc
  all_goals simp only [hr, hc, hhigh, he, Bool.not_true, Bool.false_eq_true, if_false]

/-- What was put at a key that nothing listed is found there. -/
theorem Sparse.find?_insert_self {ν : Type} (k : Nat) (v : ν) (m : Sparse ν) (h : ∀ p ∈ m, p.1 ≠ k) :
    (Sparse.insert k v m).find? (fun e => e.1 == k) = some (k, v) := by
  induction m with
  | nil => simp [Sparse.insert]
  | cons p m ih =>
    unfold Sparse.insert
    split
    · simp
    · rw [List.find?_cons_of_neg (by simpa using h p (by simp))]
      exact ih fun q hq => h q (by simp [hq])

/-- Settles O10: the low word's read puts the high word into the latch, where the high word's read finds it and takes it out. -/
theorem counterReadsLatchTheHighWord : Obligations.CounterReadsLatchTheHighWord := by
  unfold Obligations.CounterReadsLatchTheHighWord
  intro b later p off r hr hc ho hlow low high hlatch
  have hw : r.wide = true := by
    simp only [isCounter, Bool.and_eq_true] at hc
    obtain ⟨⟨⟨hw, -⟩, -⟩, -⟩ := hc
    exact hw
  obtain ⟨hr4, hmod⟩ := regAt_high hr hw hlow
  have hl : low = _ := b.readReg_low hr hc (by omega) hlow
  rw [hl] at hlatch
  have hfound : later.latch.find? (fun e => e.1 == addrOf p (off + 4)) = some (addrOf p off + 4, b.pageWord p (off + 4)) := by
    rw [hlatch]
    exact Sparse.find?_insert_self _ _ _ (Sparse.not_mem_erase _ _)
  have hh : high = _ := later.readReg_latched hr4 hc (by omega) (by omega) hfound
  rw [hl, hh]
  exact ⟨rfl, rfl, rfl, Sparse.not_mem_erase _ _⟩

end Sys2Proof.Machine
end

section
/-! SUPPORT. Writes through the gate: what one that raises no event leaves, and what an event leaves. -/

namespace Sys2Proof.Machine

open Sys2Proof

/-- The module as a command finds it: no event of the cycle waits yet. -/
def Block.unposted (b : Block) : Block := { b with posted := [] }

/-- A cycle whose effect raises no event is that effect. -/
theorem Block.cycle_of_unposted {b c : Block} {f : Block → Block} (hf : f b.unposted = c) (hc : c.posted = []) :
    b.cycle f = { c with posted := b.posted } := by
  subst hf
  exact b.cycle_none f hc

/-- A word that a write leaves marks no digest. -/
theorem Block.noteDigest_same {b old : Block} {p : Page} {off : Nat} (h : b.rd p off = old.rd p off) :
    b.noteDigest old (addrOf p off) = b := by
  unfold Block.noteDigest
  exact if_neg fun hk => hk.2 h

/-- An admitted write with no entry is its effect, the mark of a digest word aside. -/
theorem Block.gate_none_of_admits {b : Block} {o : Origin} {p : Page} {off : Nat} (eff : Block → Block)
    (h : b.admits o p off = true) : b.gate o p off .none eff = (eff b).noteDigest b (addrOf p off) := by
  simp only [Block.admits, Bool.and_eq_true, Bool.or_eq_true, Bool.not_eq_true'] at h
  obtain ⟨⟨hw, ho⟩, hl⟩ := h
  refine b.gate_none o p off eff hw ho ?_
  rcases hl with hl | ⟨hl, -⟩
  · rw [hl]
    rfl
  · rw [hl, Bool.and_false]

theorem Block.gate_silent {b : Block} {o : Origin} {p : Page} {off : Nat} {eff : Block → Block} (ha : b.admits o p off = true)
    (hk : (eff b).rd p off = b.rd p off) : b.gate o p off .none eff = eff b :=
  (Block.gate_none_of_admits eff ha).trans (Block.noteDigest_same hk)

/-- A write that makes no entry, raises no event and leaves its own word completes with its effect. -/
theorem completes_silent {c : Instr} {s : State} {o : Origin} {p : Page} {off : Nat} {eff : Block → Block} {P : Block → Prop}
    (he : exec c s = s.onWrite o (fun b => b.gate o p off .none eff)) (ht : s.takes o p off = true)
    (hq : (eff s.block.unposted).posted = [])
    (hk : (eff s.block.unposted).rd p off = s.block.rd p off)
    (hp : P { eff s.block.unposted with posted := s.block.posted }) : Completes c s P := by
  simp only [State.takes, Bool.and_eq_true] at ht
  obtain ⟨hd, ha⟩ := ht
  have hg : s.block.unposted.gate o p off .none eff = eff s.block.unposted :=
    Block.gate_silent (b := s.block.unposted) ha hk
  refine ⟨_, he.trans (State.onWrite_next _ _ _ hd), ?_⟩
  rw [Block.cycle_of_unposted hg hq]
  exact hp

theorem Completes.imp {c : Instr} {s : State} {P Q : Block → Prop} (h : Completes c s P) (k : ∀ b, P b → Q b) : Completes c s Q := by
  obtain ⟨b, hb, hp⟩ := h
  exact ⟨b, hb, k b hp⟩

/-- A write that the gate admits completes with its effect, with what the gate and the records of events add. -/
theorem completes_takes {c : Instr} {s : State} {o : Origin} {p : Page} {off : Nat} {en : Entry} {eff : Block → Block}
    {P : Block → Prop} (he : exec c s = s.onWrite o (fun b => b.gate o p off en eff)) (ht : s.takes o p off = true)
    (hp : ∀ b : Block, (eff s.block.unposted).Logged b → P b) : Completes c s P := by
  simp only [State.takes, Bool.and_eq_true] at ht
  exact completes_gate he (fun _ _ => rfl) ht.1 ht.2 hp

/-- `b` differs from `a` in no word but those that events and entries write, and the event code `e` has counted once more. -/
def Block.OnlyPosts (a : Block) (e : Nat) (b : Block) : Prop :=
  b.evtCount e = satAdd64 (a.evtCount e) 1 ∧ ∀ q r, r < 4096 → sideWord q r = false → b.rd q r = a.rd q r

theorem Block.post_evtCount_self (b : Block) (e : Nat) (p : Page) (data : Nat) :
    (b.post e p data).evtCount e = satAdd64 (b.evtCount e) 1 := by
  rw [b.post_evtCount, if_pos rfl]

theorem Block.onlyPosts_of_logged {a b : Block} {e : Nat} {p : Page} {data : Nat} (he : e ≠ Ev.LOG_FULL)
    (h : (a.post e p data).Logged b) : a.OnlyPosts e b := by
  obtain ⟨hrd, hevt, -, -⟩ := h
  refine ⟨?_, hrd⟩
  rw [hevt e he, a.post_evtCount_self]

/-- What is logged over a register write is so whether or not events of the cycle stood before it. -/
theorem Block.logged_of_wr {a b : Block} {p : Page} {off : Nat} {w : Word}
    (h : (a.unposted.wr p off w).Logged b) : (a.wr p off w).Logged b :=
  ((a.wr p off w).logged_posted []).trans h

end Sys2Proof.Machine
end

section
/-! SUPPORT. The clear registers: each clears its counters and nothing else. -/

namespace Sys2Proof.Machine

open Sys2Proof

/-! ## Clear registers -/

/-- A set of counters whose words are apart from each other and from the clear register's. -/
def countersApart (off : Nat) (l : List Nat) : Bool :=
  decide (off < 4096) && l.all (fun k =>
    decide (k + 4 < 4096 ∧ off ≠ k ∧ off ≠ k + 4) && l.all (fun j => decide (j = k ∨ (j ≠ k + 4 ∧ j + 4 ≠ k))))

theorem Block.clear64_ite (b : Block) (c : Bool) (p : Page) (l : List Nat) :
    b.clear64 p (if c = true then l else []) = if c = true then b.clear64 p l else b := by
  split <;> rfl

theorem Block.clear64_ite_append (b : Block) (c : Bool) (p : Page) (l m : List Nat) :
    b.clear64 p ((if c = true then l else []) ++ m) = (if c = true then b.clear64 p l else b).clear64 p m := by
  rw [← b.clear64_ite c p l]
  exact List.foldl_append

theorem Block.clearOn_eq (b : Block) (v : Word) (p : Page) (l : List Nat) :
    b.clearOn v p l = if wbit v 0 = true then b.clear64 p l else b := rfl

theorem Block.clear64_apart (b : Block) (p : Page) {off : Nat} {l : List Nat} (h : countersApart off l = true) :
    (∀ k ∈ l, (b.clear64 p l).rd64 p k = 0) ∧
    (∀ q r, r < 4096 → (q ≠ p ∨ ∀ k ∈ l, r ≠ k ∧ r ≠ k + 4) → (b.clear64 p l).rd q r = b.rd q r) ∧
    b.clear64 p l = { b with regs := (b.clear64 p l).regs } ∧
    (b.clear64 p l).rd p off = b.rd p off := by
  simp only [countersApart, Bool.and_eq_true, List.all_eq_true, decide_eq_true_eq] at h
  obtain ⟨hoff, hl⟩ := h
  obtain ⟨hother, hregs, hzero⟩ := b.clear64_spec p l fun k hk => (hl k hk).1.1
  exact ⟨fun k hk => hzero k hk (hl k hk).2, hother, hregs, hother p off hoff (.inr fun k hk => (hl k hk).1.2)⟩

/-- A clear register clears its counters through the gate. -/
theorem exec_clearRow {c : Instr} {o : Origin} {p : Page} {off : Nat} {l : List Nat} (h : clearRow c = some (o, p, off, l))
    (s : State) : exec c s = s.onWrite o (fun b => b.gate o p off .none (fun x => x.clear64 p l)) ∧ countersApart off l = true := by
  unfold clearRow at h
  split at h <;> cases h
  all_goals simp only [Block.clear64_ite_append, Block.clear64_ite, ← Block.clearOn_eq]
  all_goals refine ⟨rfl, ?_⟩
  all_goals repeat' split
  all_goals decide

/-- Every clear register whose counters lie on its own page leaves them 0 and nothing else changed. -/
theorem completes_clearRow {c : Instr} {s : State} {o : Origin} {p : Page} {off : Nat} {l : List Nat}
    (h : clearRow c = some (o, p, off, l)) (ht : s.takes o p off = true) :
    Completes c s (fun b =>
      (∀ k ∈ l, b.rd64 p k = 0) ∧
      (∀ q r, r < 4096 → (q ≠ p ∨ ∀ k ∈ l, r ≠ k ∧ r ≠ k + 4) → b.rd q r = s.block.rd q r) ∧
      b = { s.block with regs := b.regs }) := by
  obtain ⟨he, hl⟩ := exec_clearRow h s
  obtain ⟨hzero, hother, hregs, hown⟩ := s.block.unposted.clear64_apart p hl
  refine completes_silent he ht (by rw [hregs]; rfl) hown ⟨hzero, hother, ?_⟩
  rw [hregs]
  rfl

/-! ## Busy and idle counters of a unit (R74) -/

/-- `b'` has the register words, the memory and the waiting events of `b`. -/
def Block.SameWords (b b' : Block) : Prop := b'.regs = b.regs ∧ b'.mem = b.mem ∧ b'.posted = b.posted

theorem Block.SameWords.trans {a b c : Block} (h : a.SameWords b) (k : b.SameWords c) : a.SameWords c :=
  ⟨k.1.trans h.1, k.2.1.trans h.2.1, k.2.2.trans h.2.2⟩

theorem Block.SameWords.clear64 {a b : Block} (h : a.SameWords b) (p : Page) (l : List Nat) :
    (a.clear64 p l).SameWords (b.clear64 p l) := by
  induction l generalizing a b with
  | nil => exact h
  | cons k l ih =>
    obtain ⟨hr, hm, hp⟩ := h
    refine ih (a := a.wr64 p k 0) (b := b.wr64 p k 0) ⟨?_, hm, hp⟩
    simp only [Block.wr64, Block.wrN, Block.wr, Block.setReg, hr]

theorem Block.SameWords.foldl {ι : Type} {f : Block → ι → Block} (h : ∀ (x : Block) (i : ι), x.SameWords (f x i)) (l : List ι)
    (b : Block) : b.SameWords (l.foldl f b) := by
  induction l generalizing b with
  | nil => exact ⟨rfl, rfl, rfl⟩
  | cons i l ih => exact (h b i).trans (ih _)

/-- What is kept of a cleared core's charges beside its counters lies in no word. -/
theorem Block.forgetCharges_sameWords (b : Block) (u : UnitId) : b.SameWords (b.forgetCharges u) := by
  cases u with
  | core c =>
    unfold Block.forgetCharges
    dsimp only
    refine Block.SameWords.trans (b := b.setUnit _ _) ⟨rfl, rfl, rfl⟩ (Block.SameWords.foldl (fun x d => ?_) _ _)
    split <;> exact ⟨rfl, rfl, rfl⟩
  | gang | die | wholeModule | group => exact ⟨rfl, rfl, rfl⟩

theorem Block.setCharged_zero_sameWords (b : Block) (u : UnitId) (k : Nat) :
    (b.wr64 (.sch u) (causeOff k) 0).SameWords (b.setCharged u k 0) := by
  unfold Block.setCharged
  simp only [Nat.zero_div, Nat.zero_min]
  split <;> exact ⟨rfl, rfl, rfl⟩

/-- Charging nothing to causes clears their counters. -/
theorem Block.foldl_setCharged_zero_sameWords (u : UnitId) (l : List Nat) (b : Block) :
    (b.clear64 (.sch u) (l.map causeOff)).SameWords (l.foldl (fun y k => y.setCharged u k 0) b) := by
  induction l generalizing b with
  | nil => exact ⟨rfl, rfl, rfl⟩
  | cons k l ih => exact ((b.setCharged_zero_sameWords u k).clear64 _ _).trans (ih _)

/-- SCH_IDLE_CLR leaves 0 in the busy counter and the ten idle counters of its unit, and no other word changed. -/
theorem completes_schIdleClr {s : State} {o : Origin} {u : UnitId} {v : Word} (ht : s.takes o (.sch u) Reg.SCH_IDLE_CLR = true)
    (hv : wbit v 0 = true) :
    Completes (.schIdleClr o u v) s (fun b => b.rd64 (.sch u) Reg.SCH_BUSY = 0 ∧ (∀ k < 10, b.rd64 (.sch u) (Reg.SCH_IDLE k) = 0) ∧
      b.mem = s.block.mem ∧ (∀ q r, r < 4096 → q ≠ .sch u → q ≠ .pel → b.rd q r = s.block.rd q r)) := by
  let a : Block := s.block.unposted
  have hl : countersApart Reg.SCH_IDLE_CLR ((List.range 11).map causeOff) = true := by decide
  obtain ⟨hzero, hother, hregs, hown⟩ := a.clear64_apart (.sch u) hl
  obtain ⟨hr, hm, hp⟩ := ((a.forgetCharges_sameWords u).clear64 (.sch u) ((List.range 11).map causeOff)).trans
    (Block.foldl_setCharged_zero_sameWords u (List.range 11) (a.forgetCharges u))
  have he : exec (.schIdleClr o u v) s = s.onWrite o (fun b => b.gate o (.sch u) Reg.SCH_IDLE_CLR .none (fun x =>
      (List.range 11).foldl (fun y k => y.setCharged u k 0) (x.forgetCharges u))) := by
    show s.onWrite o (schIdleClr o u v) = _
    unfold schIdleClr
    simp only [hv, if_true]
  generalize ha : (List.range 11).foldl (fun y k => Block.setCharged y u k 0) (a.forgetCharges u) = y at hr hm hp
  have hrd := fun q r => Block.rd_of_regs hr q r
  refine completes_silent he ht (by rw [ha, hp, hregs]; rfl) (by rw [ha, hrd, hown]; rfl) ?_
  rw [ha]
  have hz : ∀ k ∈ (List.range 11).map causeOff, y.rd64 (.sch u) k = 0 := fun k hk =>
    (Block.rd64_other _ (hrd _ _) (hrd _ _)).trans (hzero k hk)
  refine ⟨hz _ (by decide), fun k hk => hz _ (List.mem_map.2 ⟨k + 1, List.mem_range.2 (by omega), rfl⟩), ?_, fun q r hr4 hq _ => ?_⟩
  · rw [hm, hregs]
    rfl
  · exact (hrd q r).trans (hother q r hr4 (.inl hq))

/-! ## AGE_CNT_CLR, MOD_EVT_CNT_CLR and EXD_CNT_CLR (R415, R485, R219) -/

/-- What the AGE page shows of its selectors touches AGE_SLACK and AGE_VOLT alone. -/
theorem Block.showAge_spec (b : Block) : b.showAge = { b with regs := b.showAge.regs } ∧
    ∀ r, r < 4096 → r ≠ Reg.AGE_SLACK → r ≠ Reg.AGE_VOLT → b.showAge.rd .age r = b.rd .age r := by
  refine ⟨rfl, fun r hr hs hv => ?_⟩
  exact (Block.rd_wrN_other _ _ (by decide) hr (.inr hv)).trans (Block.rd_wrN_other _ _ (by decide) hr (.inr hs))

/-- AGE_CNT_CLR leaves 0 in AGE_BUMPS and no worst slack. -/
theorem completes_ageCntClr {s : State} {o : Origin} {v : Word} (ht : s.takes o .age Reg.AGE_CNT_CLR = true) (hv : wbit v 0 = true) :
    Completes (.ageCntClr o v) s (fun b => b.rd64 .age Reg.AGE_BUMPS = 0 ∧ b.pwr.worstSlack = [] ∧ b.mem = s.block.mem) := by
  have he : exec (.ageCntClr o v) s = s.onWrite o (fun b => b.gate o .age Reg.AGE_CNT_CLR .none (fun x =>
      { x.clear64 .age [Reg.AGE_BUMPS] with pwr := { x.pwr with worstSlack := [] } }.showAge)) := by
    show s.onWrite o (ageCntClr o v) = _
    unfold ageCntClr
    simp only [hv, if_true]
  obtain ⟨hzero, -, -, hown⟩ := s.block.unposted.clear64_apart .age
    (show countersApart Reg.AGE_CNT_CLR [Reg.AGE_BUMPS] = true by decide)
  refine completes_silent he ht rfl ?_ ⟨?_, rfl, rfl⟩
  · exact ((Block.showAge_spec _).2 _ (by decide) (by decide) (by decide)).trans hown
  · exact (Block.rd64_other _ ((Block.showAge_spec _).2 _ (by decide) (by decide) (by decide))
      ((Block.showAge_spec _).2 _ (by decide) (by decide) (by decide))).trans (hzero _ (by decide))

/-- MOD_EVT_CNT_CLR leaves 0 in the counter of every event code and in MOD_EVT_LOST. -/
theorem completes_modEvtCntClr {s : State} {o : Origin} {v : Word} (ht : s.takes o .mod Reg.MOD_EVT_CNT_CLR = true)
    (hv : wbit v 0 = true) :
    Completes (.modEvtCntClr o v) s (fun b => (∀ e, b.evtCount e = 0) ∧ b.rd64 .mod Reg.MOD_EVT_LOST = 0 ∧ b.mem = s.block.mem) := by
  have he : exec (.modEvtCntClr o v) s = s.onWrite o (fun b => b.gate o .mod Reg.MOD_EVT_CNT_CLR .none (fun x =>
      ({ x with evt := [] }).clear64 .mod [Reg.MOD_EVT_LOST])) := by
    show s.onWrite o (modEvtCntClr o v) = _
    unfold modEvtCntClr
    simp only [hv, if_true]
  obtain ⟨hzero, -, -, hown⟩ := ({ s.block.unposted with evt := [] } : Block).clear64_apart .mod
    (show countersApart Reg.MOD_EVT_CNT_CLR [Reg.MOD_EVT_LOST] = true by decide)
  exact completes_silent he ht rfl hown ⟨fun _ => rfl, hzero _ (by decide), rfl⟩

/-- The five counters of the expert directory. -/
def exdCounters : List Nat := [Reg.EXD_PLACED, Reg.EXD_DROPPED, Reg.EXD_SPILLED, Reg.EXD_PAD_ROWS, Reg.EXD_NAN_TOKENS]

/-- What a write of EXD_CNT_CLR leaves, whichever of its two commands it is: bit 0 clears the counters, bit 1 the tallies. -/
theorem Block.exdClear_spec (b : Block) (v : Word) :
    (b.exdClear v).posted = b.posted ∧ (b.exdClear v).mem = b.mem ∧
    (b.exdClear v).regs = (if wbit v 0 = true then b.clear64 .exd exdCounters else b).regs ∧
    (b.exdClear v).exd = if wbit v 1 = true then { b.exd with placed := [], refused := [] } else b.exd := by
  unfold Block.exdClear Block.clearOn exdCounters
  split <;> split <;> exact ⟨rfl, rfl, rfl, rfl⟩

/-- A write of EXD_CNT_CLR completes: set, bit 0 leaves 0 in the five counters and bit 1 leaves no tally; what a bit that is not set would
clear stays. -/
theorem completes_exdCntClr {c : Instr} {s : State} {o : Origin} {v : Word}
    (he : exec c s = s.onWrite o (fun b => b.gate o .exd Reg.EXD_CNT_CLR .none (fun x => x.exdClear v)))
    (ht : s.takes o .exd Reg.EXD_CNT_CLR = true) :
    Completes c s (fun b => b.mem = s.block.mem ∧
      (wbit v 0 = true → ∀ k ∈ exdCounters, b.rd64 .exd k = 0) ∧
      (wbit v 0 = false → ∀ q r, b.rd q r = s.block.rd q r) ∧
      (wbit v 1 = true → b.exd.placed = [] ∧ b.exd.refused = []) ∧
      (wbit v 1 = false → b.exd = s.block.exd)) := by
  obtain ⟨hposted, hmem, hregs, hexd⟩ := s.block.unposted.exdClear_spec v
  obtain ⟨hzero, -, -, hown⟩ := s.block.unposted.clear64_apart .exd
    (show countersApart Reg.EXD_CNT_CLR exdCounters = true by decide)
  have hrd := fun q r => Block.rd_of_regs hregs q r
  refine completes_silent he ht hposted ?_ ⟨hmem, fun h k hk => ?_, fun h q r => ?_, fun h => ?_, fun h => ?_⟩
  · rw [hrd]
    split
    · exact hown
    · rfl
  · rw [if_pos h] at hrd
    exact (Block.rd64_other _ (hrd _ _) (hrd _ _)).trans (hzero k hk)
  · rw [h] at hrd
    exact hrd q r
  · rw [if_pos h] at hexd
    dsimp only
    rw [hexd]
    exact ⟨rfl, rfl⟩
  · rw [h] at hexd
    exact hexd

/-- Settles O11: a clear register passes the gate without an entry and without an event, so that its effect is all that happens. -/
theorem clearRegistersClear : Obligations.ClearRegistersClear := by
  unfold Obligations.ClearRegistersClear
  refine ⟨fun c s o p off l hc ht => ?_, fun s o v => ⟨fun u => completes_schIdleClr, completes_ageCntClr, completes_modEvtCntClr,
    fun ht h0 => ?_, fun ht h1 => ?_⟩⟩
  · exact (completes_clearRow hc ht).imp fun b ⟨hzero, hother, hregs⟩ => ⟨hzero, fun q r hr h _ => hother q r hr h, hregs⟩
  · refine (completes_exdCntClr (c := .exdCntClrCounters o v) rfl ht).imp fun b ⟨hmem, hzero, _, _, hkeep⟩ => ?_
    exact ⟨hzero h0, hkeep, hmem⟩
  · refine (completes_exdCntClr (c := .exdCntClrTallies o v) rfl ht).imp fun b ⟨hmem, _, hother, hclear, _⟩ => ?_
    exact ⟨(hclear h1).1, (hclear h1).2, fun h0 q r _ _ => hother h0 q r, hmem⟩

end Sys2Proof.Machine
end

section
/-! SUPPORT. Ring indices, gang definitions and SCH_RING_CFG: what their writes leave. -/

namespace Sys2Proof.Machine

open Sys2Proof

/-! ## Doorbells and completion-ring heads (R6, R37) -/

theorem Block.ring_absent {b : Block} {u : UnitId} (v : Word) (h : b.present (.sch u) = false) :
    b.ring u v = b.post Ev.UNIT_ABSENT (.sch u) 0 := by
  unfold Block.ring
  simp [h]

theorem Block.ring_overrun {b : Block} {u : UnitId} {v : Word} (h : b.present (.sch u) = true)
    (hv : 2 ^ wfield (b.rd (.sch u) Reg.SCH_RING_CFG) 3 0 < diff32 v.toNat (b.rdN (.sch u) Reg.SCH_TRING_HEAD)) :
    b.ring u v = b.post Ev.RING_OVERRUN (.sch u) 0 := by
  unfold Block.ring
  simp [h, hv]

theorem Block.ring_advance {b : Block} {u : UnitId} {v : Word} (h : b.present (.sch u) = true)
    (hv : diff32 v.toNat (b.rdN (.sch u) Reg.SCH_TRING_HEAD) ≤ 2 ^ wfield (b.rd (.sch u) Reg.SCH_RING_CFG) 3 0) :
    b.ring u v = b.wr (.sch u) Reg.SCH_TRING_TAIL v := by
  unfold Block.ring
  simp [h, Nat.not_lt.2 hv]

theorem Block.cringHead_overrun {b : Block} {u : UnitId} {v : Word}
    (hv : 2 ^ wfield (b.rd (.sch u) Reg.SCH_RING_CFG) 11 8 < diff32 (b.rdN (.sch u) Reg.SCH_CRING_TAIL) v.toNat) :
    b.cringHead u v = b.post Ev.RING_OVERRUN (.sch u) 0 := by
  unfold Block.cringHead
  exact if_pos hv

theorem Block.cringHead_advance {b : Block} {u : UnitId} {v : Word}
    (hv : diff32 (b.rdN (.sch u) Reg.SCH_CRING_TAIL) v.toNat ≤ 2 ^ wfield (b.rd (.sch u) Reg.SCH_RING_CFG) 11 8) :
    b.cringHead u v = b.wr (.sch u) Reg.SCH_CRING_HEAD v := by
  unfold Block.cringHead
  exact if_neg (Nat.not_lt.2 hv)

/-- A doorbell completes with its effect, and the records of its events. -/
theorem completes_doorbell {s : State} {o : Origin} {u : UnitId} {v : Word} {P : Block → Prop} (hd : s.block.doorOpen o = true)
    (hp : ∀ b : Block, (s.block.unposted.ring u v).Logged b → P b) : Completes (.doorbell o u v) s P :=
  ⟨s.block.cycle (doorbell o u v), State.onWrite_next s o _ hd, hp _ ((Block.settle_logged _).trans (Block.logged_posted _ _))⟩

/-- A doorbell that the ring has room for advances the producer index, and nothing else happens. -/
theorem completes_doorbell_advance {s : State} {o : Origin} {u : UnitId} {v : Word} (hd : s.block.doorOpen o = true)
    (h : s.block.present (.sch u) = true)
    (hv : diff32 v.toNat (s.block.rdN (.sch u) Reg.SCH_TRING_HEAD) ≤ 2 ^ wfield (s.block.rd (.sch u) Reg.SCH_RING_CFG) 3 0) :
    Completes (.doorbell o u v) s (fun b => b = s.block.wr (.sch u) Reg.SCH_TRING_TAIL v) := by
  have hr : doorbell o u v s.block.unposted = s.block.unposted.wr (.sch u) Reg.SCH_TRING_TAIL v :=
    Block.ring_advance h hv
  refine ⟨_, State.onWrite_next s o _ hd, ?_⟩
  rw [Block.cycle_of_unposted hr rfl]
  rfl

/-- A doorbell on an absent unit posts UNIT_ABSENT and is ignored. -/
theorem completes_doorbell_absent {s : State} {o : Origin} {u : UnitId} {v : Word} (hd : s.block.doorOpen o = true)
    (h : s.block.present (.sch u) = false) : Completes (.doorbell o u v) s (s.block.OnlyPosts Ev.UNIT_ABSENT) := by
  refine completes_doorbell hd fun b hb => ?_
  rw [Block.ring_absent (b := s.block.unposted) v h] at hb
  exact Block.onlyPosts_of_logged (a := s.block.unposted) (by decide) hb

/-- A doorbell that would leave more records outstanding than slots posts RING_OVERRUN and is ignored. -/
theorem completes_doorbell_overrun {s : State} {o : Origin} {u : UnitId} {v : Word} (hd : s.block.doorOpen o = true)
    (h : s.block.present (.sch u) = true)
    (hv : 2 ^ wfield (s.block.rd (.sch u) Reg.SCH_RING_CFG) 3 0 < diff32 v.toNat (s.block.rdN (.sch u) Reg.SCH_TRING_HEAD)) :
    Completes (.doorbell o u v) s (s.block.OnlyPosts Ev.RING_OVERRUN) := by
  refine completes_doorbell hd fun b hb => ?_
  rw [Block.ring_overrun (b := s.block.unposted) h hv] at hb
  exact Block.onlyPosts_of_logged (a := s.block.unposted) (by decide) hb

theorem completes_cringHead_advance {s : State} {o : Origin} {u : UnitId} {v : Word} (ht : s.takes o (.sch u) Reg.SCH_CRING_HEAD = true)
    (hv : diff32 (s.block.rdN (.sch u) Reg.SCH_CRING_TAIL) v.toNat ≤ 2 ^ wfield (s.block.rd (.sch u) Reg.SCH_RING_CFG) 11 8) :
    Completes (.schCringHeadWrite o u v) s (s.block.wr (.sch u) Reg.SCH_CRING_HEAD v).Logged := by
  refine completes_takes rfl ht fun b hb => ?_
  rw [Block.cringHead_advance (b := s.block.unposted) hv] at hb
  exact Block.logged_of_wr hb

/-- A completion-ring head that would pass the tail posts RING_OVERRUN and is ignored. -/
theorem completes_cringHead_overrun {s : State} {o : Origin} {u : UnitId} {v : Word} (ht : s.takes o (.sch u) Reg.SCH_CRING_HEAD = true)
    (hv : 2 ^ wfield (s.block.rd (.sch u) Reg.SCH_RING_CFG) 11 8 < diff32 (s.block.rdN (.sch u) Reg.SCH_CRING_TAIL) v.toNat) :
    Completes (.schCringHeadWrite o u v) s (s.block.OnlyPosts Ev.RING_OVERRUN) := by
  refine completes_takes rfl ht fun b hb => ?_
  rw [Block.cringHead_overrun (b := s.block.unposted) hv] at hb
  exact Block.onlyPosts_of_logged (a := s.block.unposted) (by decide) hb

/-! ## Gang definitions (R24, R40) -/

/-- The module with a gang definition written by its fields. -/
def Block.newGang (b : Block) (t : Fin 16) (g : Fin 8) (v : Word) : Block := b.writeFields (.tile t) (Reg.TILE_GANG_DEF g.val) v

/-- The word of a gang definition. -/
def Block.gangWord (b : Block) (t : Fin 16) (g : Fin 8) : Word := b.rd (.tile t) (Reg.TILE_GANG_DEF g.val)

/-- Does a gang definition name a core of its tile that is not schedulable? -/
def Block.namesAbsent (b : Block) (t : Fin 16) (w : Word) : Bool :=
  (List.finRange 8).any (fun c => wbit w c.val && !b.coreOn (flatCore t c))

/-- A write of a gang definition: nothing where the word stays, else busy, absent and depth in that order, else the new definition. -/
theorem Block.gangWrite_eq (b : Block) (t : Fin 16) (g : Fin 8) (v : Word) :
    b.gangWrite t g v =
      if (b.newGang t g v).gangWord t g = b.gangWord t g then b
      else if !(b.unit (.gang t g)).board.isEmpty then b.post Ev.GANG_BUSY (.tile t) 0
      else if wbit ((b.newGang t g v).gangWord t g) 31 = true ∧ b.namesAbsent t ((b.newGang t g v).gangWord t g) = true then
        b.post Ev.UNIT_ABSENT (.tile t) 0
      else if wbit ((b.newGang t g v).gangWord t g) 31 = true ∧ (!depthOk ((b.newGang t g v).gangDef t)) = true then
        b.post Ev.GANG_DEPTH (.tile t) 0
      else b.newGang t g v := rfl

section
variable {b : Block} {t : Fin 16} {g : Fin 8} {v : Word} (hne : (b.newGang t g v).gangWord t g ≠ b.gangWord t g)
include hne

theorem Block.gangWrite_busy (hb : (b.unit (.gang t g)).board ≠ []) : b.gangWrite t g v = b.post Ev.GANG_BUSY (.tile t) 0 := by
  rw [b.gangWrite_eq, if_neg hne, if_pos (by simpa using hb)]

theorem Block.gangWrite_absent (hb : (b.unit (.gang t g)).board = []) (hon : wbit ((b.newGang t g v).gangWord t g) 31 = true)
    (ha : b.namesAbsent t ((b.newGang t g v).gangWord t g) = true) : b.gangWrite t g v = b.post Ev.UNIT_ABSENT (.tile t) 0 := by
  rw [b.gangWrite_eq, if_neg hne, if_neg (by simp [hb]), if_pos ⟨hon, ha⟩]

theorem Block.gangWrite_deep (hb : (b.unit (.gang t g)).board = []) (hon : wbit ((b.newGang t g v).gangWord t g) 31 = true)
    (ha : b.namesAbsent t ((b.newGang t g v).gangWord t g) = false) (hd : depthOk ((b.newGang t g v).gangDef t) = false) :
    b.gangWrite t g v = b.post Ev.GANG_DEPTH (.tile t) 0 := by
  rw [b.gangWrite_eq, if_neg hne, if_neg (by simp [hb]), if_neg (by simp [ha]), if_pos ⟨hon, by rw [hd]; rfl⟩]

theorem Block.gangWrite_apply (hb : (b.unit (.gang t g)).board = []) (hok : wbit ((b.newGang t g v).gangWord t g) 31 = true →
    b.namesAbsent t ((b.newGang t g v).gangWord t g) = false ∧ depthOk ((b.newGang t g v).gangDef t) = true) :
    b.gangWrite t g v = b.newGang t g v := by
  rw [b.gangWrite_eq, if_neg hne, if_neg (by simp [hb]), if_neg, if_neg]
  · rintro ⟨hon, hd⟩
    rw [(hok hon).2] at hd
    cases hd
  · rintro ⟨hon, ha⟩
    rw [(hok hon).1] at ha
    cases ha

end

theorem Block.writeFields_eq_wr (b : Block) {p : Page} {off : Nat} {r : RegDef} (hr : regAt? p off = some r) (v : Word) :
    b.writeFields p off v = b.wr p off (fieldWrite r p off (b.rd p off) v) := by
  unfold Block.writeFields
  rw [hr]

theorem regAt_gangDef (t : Fin 16) (g : Fin 8) : ∃ r, regAt? (.tile t) (Reg.TILE_GANG_DEF g.val) = some r := by
  have h : ∀ g : Fin 8, ((headerRegs ++ tileRegs).find? (fun r => r.covers (Reg.TILE_GANG_DEF g.val))).isSome = true := by decide
  exact Option.isSome_iff_exists.1 (h g)

/-- A gang definition that is applied changes its word alone. -/
theorem Block.newGang_eq_wr (b : Block) (t : Fin 16) (g : Fin 8) (v : Word) :
    b.newGang t g v = b.wr (.tile t) (Reg.TILE_GANG_DEF g.val) ((b.newGang t g v).gangWord t g) := by
  obtain ⟨r, hr⟩ := regAt_gangDef t g
  unfold Block.newGang Block.gangWord
  rw [b.writeFields_eq_wr hr, Block.rd_wr_self]

theorem sideWord_tile (t : Fin 16) {o : Nat} (h : o ≠ Reg.CHANGE_SEQ) : sideWord (.tile t) o = false := by
  simp [sideWord, eventWord, onStackPage, h]

theorem sideWord_gangDef (t : Fin 16) (g : Fin 8) : sideWord (.tile t) (Reg.TILE_GANG_DEF g.val) = false :=
  sideWord_tile t (by unfold Reg.TILE_GANG_DEF Reg.CHANGE_SEQ; omega)

/-- A refused gang definition counts its event and leaves the definition. -/
theorem Block.OnlyPosts.gangWord {a b : Block} {e : Nat} (h : a.OnlyPosts e b) (t : Fin 16) (g : Fin 8) :
    b.evtCount e = satAdd64 (a.evtCount e) 1 ∧ b.gangWord t g = a.gangWord t g :=
  ⟨h.1, h.2 _ _ (by show 0x040 + 4 * g.val < 4096; omega) (sideWord_gangDef t g)⟩

/-- What a write of a gang definition that changes its word leaves (R24, R40): the definition, or the first event of busy, absent and
depth. -/
def Block.GangChecked (a : Block) (t : Fin 16) (g : Fin 8) (new b : Block) : Prop :=
  let w := new.gangWord t g
  ((a.unit (.gang t g)).board = [] → (wbit w 31 = true → a.namesAbsent t w = false ∧ depthOk (new.gangDef t) = true) →
    (a.wr (.tile t) (Reg.TILE_GANG_DEF g.val) w).Logged b) ∧
  ((a.unit (.gang t g)).board ≠ [] → a.OnlyPosts Ev.GANG_BUSY b) ∧
  ((a.unit (.gang t g)).board = [] → wbit w 31 = true → a.namesAbsent t w = true → a.OnlyPosts Ev.UNIT_ABSENT b) ∧
  ((a.unit (.gang t g)).board = [] → wbit w 31 = true → a.namesAbsent t w = false → depthOk (new.gangDef t) = false →
    a.OnlyPosts Ev.GANG_DEPTH b)

theorem Block.gangChecked_of_logged {a b : Block} {t : Fin 16} {g : Fin 8} {v : Word}
    (hne : (a.newGang t g v).gangWord t g ≠ a.gangWord t g) (hb : (a.gangWrite t g v).Logged b) :
    a.GangChecked t g (a.newGang t g v) b := by
  refine ⟨fun hboard hok => ?_, fun hboard => ?_, fun hboard hon ha => ?_, fun hboard hon ha hd => ?_⟩
  · rw [Block.gangWrite_apply hne hboard hok] at hb
    rwa [← a.newGang_eq_wr]
  · rw [Block.gangWrite_busy hne hboard] at hb
    exact Block.onlyPosts_of_logged (by decide) hb
  · rw [Block.gangWrite_absent hne hboard hon ha] at hb
    exact Block.onlyPosts_of_logged (by decide) hb
  · rw [Block.gangWrite_deep hne hboard hon ha hd] at hb
    exact Block.onlyPosts_of_logged (by decide) hb

theorem Block.newGang_unposted (b : Block) (t : Fin 16) (g : Fin 8) (v : Word) :
    b.unposted.newGang t g v = (b.newGang t g v).unposted := by
  obtain ⟨r, hr⟩ := regAt_gangDef t g
  unfold Block.newGang
  rw [Block.writeFields_eq_wr _ hr, Block.writeFields_eq_wr _ hr]
  rfl

/-- A gang definition is checked as it is written. -/
theorem completes_gangDefWrite {s : State} {o : Origin} {t : Fin 16} {g : Fin 8} {v : Word}
    (ht : s.takes o (.tile t) (Reg.TILE_GANG_DEF g.val) = true)
    (hne : (s.block.newGang t g v).gangWord t g ≠ s.block.gangWord t g) :
    Completes (.gangDefWrite o t g v) s (s.block.GangChecked t g (s.block.newGang t g v)) := by
  refine completes_takes rfl ht fun b hb => ?_
  have h := Block.gangChecked_of_logged (a := s.block.unposted) (by rw [Block.newGang_unposted]; exact hne) hb
  rw [Block.newGang_unposted] at h
  obtain ⟨happly, hbusy, habsent, hdeep⟩ := h
  exact ⟨fun hboard hok => Block.logged_of_wr (happly hboard hok), hbusy, habsent, hdeep⟩

/-! ## SCH_RING_CFG (R36) -/

/-- The bits of an RW register after a write: the stored value's where the mask has them, else as before. -/
theorem getLsbD_fieldWrite_rw {r : RegDef} (hr : r.acc = .rw) (p : Page) (off : Nat) (old v : Word) {i : Nat} (hi : i < 32) :
    (fieldWrite r p off old v).getLsbD i =
      if r.mask.testBit i then (storedAs p off (v &&& BitVec.ofNat 32 r.mask)).getLsbD i else old.getLsbD i := by
  unfold fieldWrite
  rw [hr]
  have hm : (BitVec.ofNat 32 r.mask).getLsbD i = r.mask.testBit i := by
    rw [BitVec.getLsbD_ofNat, decide_eq_true hi, Bool.true_and]
  simp only [BitVec.getLsbD_or, BitVec.getLsbD_and, BitVec.getLsbD_not, hm, hi, decide_true, Bool.true_and]
  cases r.mask.testBit i <;> simp

/-- Does a mask hold every bit of a field? -/
def maskHolds (m hi lo : Nat) : Bool :=
  decide (hi < 32) && (List.range 32).all (fun i => !(decide (lo ≤ i) && decide (i ≤ hi)) || m.testBit i)

theorem testBit_of_maskHolds {m hi lo i : Nat} (h : maskHolds m hi lo = true) (hl : lo ≤ i) (hu : i ≤ hi) :
    i < 32 ∧ m.testBit i = true := by
  simp only [maskHolds, Bool.and_eq_true, decide_eq_true_eq, List.all_eq_true, List.mem_range, Bool.or_eq_true, Bool.not_eq_true'] at h
  obtain ⟨hhi, hbits⟩ := h
  have h32 : i < 32 := by omega
  refine ⟨h32, (hbits i h32).resolve_left ?_⟩
  simp [hl, hu]

/-- A field reads its own bits alone. -/
theorem wfield_congr {w x : Word} {hi lo : Nat} (h : ∀ i, lo ≤ i → i ≤ hi → w.getLsbD i = x.getLsbD i) :
    wfield w hi lo = wfield x hi lo := by
  refine Nat.eq_of_testBit_eq fun i => ?_
  rw [wfield_testBit, wfield_testBit]
  by_cases hi1 : i < hi + 1 - lo
  · rw [h (lo + i) (by omega) (by omega)]
  · simp [hi1]

theorem wfield_and_mask {m hi lo : Nat} (h : maskHolds m hi lo = true) (v : Word) :
    wfield (v &&& BitVec.ofNat 32 m) hi lo = wfield v hi lo :=
  wfield_congr fun i hl hu => by
    obtain ⟨hi32, hm⟩ := testBit_of_maskHolds h hl hu
    simp [BitVec.getLsbD_ofNat, hi32, hm]

theorem wfield_fieldWrite_rw {r : RegDef} (hr : r.acc = .rw) {hi lo : Nat} (h : maskHolds r.mask hi lo = true) (p : Page) (off : Nat)
    (old v : Word) : wfield (fieldWrite r p off old v) hi lo = wfield (storedAs p off (v &&& BitVec.ofNat 32 r.mask)) hi lo :=
  wfield_congr fun i hl hu => by
    obtain ⟨hi32, hm⟩ := testBit_of_maskHolds h hl hu
    rw [getLsbD_fieldWrite_rw hr p off old v hi32, if_pos hm]

/-- The row of SCH_RING_CFG. -/
def ringCfgRow : RegDef := ⟨"SCH_RING_CFG", 0x048, 1, 4, false, .rw, 0x1070F0F, 0x404, true⟩

theorem regAt_ringCfg (u : UnitId) : regAt? (.sch u) Reg.SCH_RING_CFG = some ringCfgRow := rfl

/-- The size field that a ring takes: at least 16 slots. -/
def ringLog (v : Word) (hi lo : Nat) : Nat := if 4 ≤ wfield v hi lo then wfield v hi lo else 4

theorem wfield_storedAs_ringCfg (u : UnitId) (w : Word) :
    let x := storedAs (.sch u) Reg.SCH_RING_CFG w
    wfield x 3 0 = ringLog w 3 0 ∧ wfield x 11 8 = ringLog w 11 8 ∧ wfield x 18 16 = wfield w 18 16 ∧ wbit x 24 = wbit w 24 := by
  intro x
  have hx : x = wset (wset w 11 8 (max 4 (wfield w 11 8))) 3 0 (max 4 (wfield w 3 0)) := by
    show storedAs _ _ _ = _
    unfold storedAs
    exact if_pos rfl
  have lt : ∀ hi lo, hi + 1 - lo = 4 → max 4 (wfield w hi lo) < 2 ^ (hi + 1 - lo) := fun hi lo h => by
    unfold wfield field
    rw [h]
    omega
  rw [hx]
  refine ⟨?_, ?_, ?_, ?_⟩
  · rw [wfield_wset_self _ _ (by decide) (by decide), Nat.mod_eq_of_lt (lt 3 0 rfl), Nat.max_def, ringLog]
  · rw [wfield_wset_other _ _ (by decide) (by decide), wfield_wset_self _ _ (by decide) (by decide), Nat.mod_eq_of_lt (lt 11 8 rfl),
      Nat.max_def, ringLog]
  · rw [wfield_wset_other _ _ (by decide) (by decide), wfield_wset_other _ _ (by decide) (by decide)]
  · rw [wbit_wset_other _ _ _ (by decide) (by decide), wbit_wset_other _ _ _ (by decide) (by decide)]

/-- The word that a write of SCH_RING_CFG stores in its fields. -/
theorem fieldWrite_ringCfg (u : UnitId) (old v : Word) :
    let w := fieldWrite ringCfgRow (.sch u) Reg.SCH_RING_CFG old v
    wfield w 3 0 = ringLog v 3 0 ∧ wfield w 11 8 = ringLog v 11 8 ∧ wfield w 18 16 = wfield v 18 16 ∧ wbit w 24 = wbit v 24 := by
  intro w
  obtain ⟨h1, h2, h3, h4⟩ := wfield_storedAs_ringCfg u (v &&& BitVec.ofNat 32 ringCfgRow.mask)
  have hacc : ringCfgRow.acc = .rw := rfl
  have hlog : ∀ hi lo, maskHolds ringCfgRow.mask hi lo = true →
      ringLog (v &&& BitVec.ofNat 32 ringCfgRow.mask) hi lo = ringLog v hi lo := fun hi lo h => by
    unfold ringLog
    rw [wfield_and_mask h]
  refine ⟨?_, ?_, ?_, ?_⟩
  · rw [wfield_fieldWrite_rw hacc (by decide), h1, hlog 3 0 (by decide)]
  · rw [wfield_fieldWrite_rw hacc (by decide), h2, hlog 11 8 (by decide)]
  · rw [wfield_fieldWrite_rw hacc (by decide), h3, wfield_and_mask (by decide)]
  · show (fieldWrite _ _ _ _ _).getLsbD 24 = _
    rw [getLsbD_fieldWrite_rw hacc _ _ _ _ (by decide), if_pos (by decide)]
    refine h4.trans ?_
    show (v &&& _).getLsbD 24 = v.getLsbD 24
    rw [BitVec.getLsbD_and, show (BitVec.ofNat 32 ringCfgRow.mask).getLsbD 24 = true by decide, Bool.and_true]

/-- Do the ring bases fit rings of these sizes (R36)? -/
def Block.basesFit (b : Block) (u : UnitId) (t c : Nat) : Bool :=
  decide (b.rd64 (.sch u) Reg.SCH_TRING_BASE_LO % (128 * 2 ^ t) = 0) && decide (b.rd64 (.sch u) Reg.SCH_CRING_BASE_LO % (32 * 2 ^ c) = 0)

/-- `b` has SCH_RING_CFG of a unit as a write of `v` sets it over a ring that was not enabled, and RING_ALIGN counts where ENABLE
was asked over a misaligned base. -/
def Block.RingConfigured (a : Block) (u : UnitId) (v : Word) (b : Block) : Prop :=
  let p : Page := .sch u
  let fits := a.basesFit u (ringLog v 3 0) (ringLog v 11 8)
  wfield (b.rd p Reg.SCH_RING_CFG) 3 0 = ringLog v 3 0 ∧ wfield (b.rd p Reg.SCH_RING_CFG) 11 8 = ringLog v 11 8 ∧
    wfield (b.rd p Reg.SCH_RING_CFG) 18 16 = wfield v 18 16 ∧ wbit (b.rd p Reg.SCH_RING_CFG) 24 = (wbit v 24 && fits) ∧
    b.evtCount Ev.RING_ALIGN = (if wbit v 24 && !fits then satAdd64 (a.evtCount Ev.RING_ALIGN) 1 else a.evtCount Ev.RING_ALIGN) ∧
    ∀ q r, r < 4096 → sideWord q r = false → (q ≠ p ∨ r ≠ Reg.SCH_RING_CFG) → b.rd q r = a.rd q r

theorem sideWord_ringCfg (u : UnitId) : sideWord (.sch u) Reg.SCH_RING_CFG = false := by simp [sideWord, eventWord, onStackPage]

theorem Block.RingConfigured.logged {a b c : Block} {u : UnitId} {v : Word} (h : a.RingConfigured u v b) (k : b.Logged c) :
    a.RingConfigured u v c := by
  obtain ⟨ht, hc, hx, hen, hevt, hrd⟩ := h
  obtain ⟨krd, kevt, -, -⟩ := k
  rw [← krd _ _ (by decide) (sideWord_ringCfg u)] at ht hc hx hen
  exact ⟨ht, hc, hx, hen, (kevt _ (by decide)).trans hevt, fun q r hr hs hne => (krd q r hr hs).trans (hrd q r hr hs hne)⟩

/-- While ENABLE is 1 a write changes ENABLE alone. -/
theorem Block.ringCfg_enabled {b : Block} {u : UnitId} {v : Word} (h : wbit (b.rd (.sch u) Reg.SCH_RING_CFG) 24 = true) :
    b.ringCfg u v = if wbit v 24 = true then b else b.wr (.sch u) Reg.SCH_RING_CFG (wsetBit (b.rd (.sch u) Reg.SCH_RING_CFG) 24 false) := by
  unfold Block.ringCfg
  exact if_pos h

/-- The module with SCH_RING_CFG of a unit written by its fields. -/
def Block.newRingCfg (b : Block) (u : UnitId) (v : Word) : Block :=
  b.wr (.sch u) Reg.SCH_RING_CFG (fieldWrite ringCfgRow (.sch u) Reg.SCH_RING_CFG (b.rd (.sch u) Reg.SCH_RING_CFG) v)

theorem Block.newRingCfg_rd_other (b : Block) (u : UnitId) (v : Word) {q : Page} {r : Nat} (hr : r < 4096)
    (h : q ≠ .sch u ∨ r ≠ Reg.SCH_RING_CFG) : (b.newRingCfg u v).rd q r = b.rd q r := b.rd_wr_other _ (by decide) hr h

theorem Block.newRingCfg_evt (b : Block) (u : UnitId) (v : Word) : (b.newRingCfg u v).evt = b.evt := Block.wr_evt _ _ _ _

theorem Block.disableRing_evt (b : Block) (u : UnitId) : (b.disableRing u).evt = b.evt := Block.wr_evt _ _ _ _

/-- Over a ring that is not enabled the fields are stored, and ENABLE is taken back over bases that do not fit. -/
theorem Block.ringCfg_stopped {b : Block} {u : UnitId} {v : Word} (h : wbit (b.rd (.sch u) Reg.SCH_RING_CFG) 24 = false) :
    b.ringCfg u v =
      if (wbit v 24 && !b.basesFit u (ringLog v 3 0) (ringLog v 11 8)) = true then
        ((b.newRingCfg u v).disableRing u).post Ev.RING_ALIGN (.sch u) 0
      else b.newRingCfg u v := by
  obtain ⟨ht, hc, -, -⟩ := fieldWrite_ringCfg u (b.rd (.sch u) Reg.SCH_RING_CFG) v
  have hw : b.writeFields (.sch u) Reg.SCH_RING_CFG v = b.newRingCfg u v := b.writeFields_eq_wr (regAt_ringCfg u) v
  have hbase : ∀ off, off + 4 < 4096 → Reg.SCH_RING_CFG ≠ off → Reg.SCH_RING_CFG ≠ off + 4 →
      (b.newRingCfg u v).rd64 (.sch u) off = b.rd64 (.sch u) off := fun off h4 h0 h1 =>
    Block.rd64_other _ (b.newRingCfg_rd_other u v (by omega) (.inr h0.symm)) (b.newRingCfg_rd_other u v (by omega) (.inr h1.symm))
  unfold Block.ringCfg
  dsimp only
  rw [if_neg (by rw [h]; decide), hw, hbase _ (by decide) (by decide) (by decide), hbase _ (by decide) (by decide) (by decide)]
  have hself : (b.newRingCfg u v).rd (.sch u) Reg.SCH_RING_CFG = _ := Block.rd_wr_self _ _ _ _
  rw [hself, ht, hc]
  refine if_congr ?_ rfl rfl
  simp only [Block.basesFit, Bool.and_eq_true, Bool.not_eq_true', Bool.and_eq_false_iff, decide_eq_false_iff_not, ne_eq]

/-- What a write of SCH_RING_CFG leaves over a ring that is not enabled. -/
theorem Block.ringConfigured_of_stopped {b : Block} {u : UnitId} {v : Word} (h : wbit (b.rd (.sch u) Reg.SCH_RING_CFG) 24 = false) :
    b.RingConfigured u v (b.ringCfg u v) := by
  obtain ⟨ht, hc, hx, hen⟩ := fieldWrite_ringCfg u (b.rd (.sch u) Reg.SCH_RING_CFG) v
  have hself : (b.newRingCfg u v).rd (.sch u) Reg.SCH_RING_CFG = _ := Block.rd_wr_self _ _ _ _
  rw [← hself] at ht hc hx hen
  rw [Block.ringCfg_stopped h]
  split
  · next hbad =>
    have hpost : ∀ q r, (((b.newRingCfg u v).disableRing u).post Ev.RING_ALIGN (.sch u) 0).rd q r
        = ((b.newRingCfg u v).disableRing u).rd q r := Block.rd_of_regs (Block.post_spec _ _ _ _).2
    have hoff := (hpost (.sch u) Reg.SCH_RING_CFG).trans
      (Block.rd_wr_self _ _ _ (wsetBit ((b.newRingCfg u v).rd (.sch u) Reg.SCH_RING_CFG) 24 false))
    have hfits : (wbit v 24 && b.basesFit u (ringLog v 3 0) (ringLog v 11 8)) = false := by
      rw [Bool.and_eq_true, Bool.not_eq_true'] at hbad
      rw [hbad.2, Bool.and_false]
    refine ⟨?_, ?_, ?_, ?_, ?_, fun q r hr _ hne => ?_⟩
    · rw [hoff, wfield_wsetBit_other _ _ _ (by decide), ht]
    · rw [hoff, wfield_wsetBit_other _ _ _ (by decide), hc]
    · rw [hoff, wfield_wsetBit_other _ _ _ (by decide), hx]
    · rw [hoff, wbit_wsetBit_self _ _ _ (by decide), hfits]
    · rw [if_pos hbad, Block.post_evtCount_self, Block.evtCount_of_evt ((Block.disableRing_evt _ u).trans (b.newRingCfg_evt u v))]
    · exact (hpost q r).trans <| (Block.rd_wr_other _ _ (by decide) hr hne).trans (b.newRingCfg_rd_other u v hr hne)
  · next hgood =>
    have hfits : (wbit v 24 && b.basesFit u (ringLog v 3 0) (ringLog v 11 8)) = wbit v 24 := by
      cases hv : wbit v 24 <;> simp_all
    exact ⟨ht, hc, hx, hen.trans hfits.symm, (Block.evtCount_of_evt (b.newRingCfg_evt u v) _).trans (if_neg hgood).symm,
      fun q r hr _ hne => b.newRingCfg_rd_other u v hr hne⟩

/-- Settles O15: each write is its effect with what the gate adds, and each effect is taken case by case in the order of its checks. -/
theorem ringWritesAreChecked : Obligations.RingWritesAreChecked := by
  unfold Obligations.RingWritesAreChecked
  refine ⟨fun s o u v => ⟨completes_doorbell_advance, completes_doorbell_overrun, completes_doorbell_absent,
    completes_cringHead_advance, completes_cringHead_overrun⟩, fun s o u v ht => ?_, fun s o t g v ht => ?_⟩
  · refine completes_takes rfl ht fun b hb => ⟨fun hen hv => ?_, fun hen hv => ?_, fun hstop => ?_⟩
    · rw [Block.ringCfg_enabled (b := s.block.unposted) hen, if_pos hv] at hb
      exact (s.block.logged_posted []).trans hb
    · rw [Block.ringCfg_enabled (b := s.block.unposted) hen, if_neg (by rw [hv]; decide)] at hb
      exact Block.logged_of_wr hb
    · exact (Block.ringConfigured_of_stopped (b := s.block.unposted) hstop).logged hb
  · intro new w absent hne
    refine (completes_gangDefWrite ht hne).imp fun b ⟨happly, hbusy, habsent, hdeep⟩ => ?_
    exact ⟨happly, fun h => (hbusy h).gangWord t g, fun h hon ha => (habsent h hon ha).gangWord t g,
      fun h hon ha hd => (hdeep h hon ha hd).gangWord t g⟩

end Sys2Proof.Machine
end

section
/-! SUPPORT. Register writes by access codes alone: a register that a busy validator holds. -/

namespace Sys2Proof.Machine

open Sys2Proof

/-- While a tile's validator is busy, a write of its source, destination or bindings changes nothing. -/
theorem Block.writePage_of_validating {b : Block} {t : Fin 16} {off : Nat} (o : Origin) (v : Word)
    (hbusy : wbit (b.rd (.tile t) Reg.TILE_VAL_STAT) 31 = true) (hlo : 0x060 ≤ off) (hhi : off < 0x0A0)
    (hctl : off ≠ Reg.TILE_VAL_CTL) : b.writePage o (.tile t) off v = b := by
  unfold Block.writePage
  rw [if_neg (by omega)]
  split
  · rfl
  · show b.writeTile o t off v = b
    unfold Block.writeTile Block.plainUnless
    dsimp only
    rw [if_neg (by omega), if_neg hctl, if_pos ⟨hlo, hhi⟩, if_pos hbusy]

/-- The write of TILE_VAL_CTL that starts the validator of TILE 0 on one record. -/
def startValidator : Instr := .validatorStart .mgmt 0 0x80000001

/-- A new module after that write: the validator of TILE 0 is busy. -/
def validatingState : State :=
  { State.reset with block := State.reset.block.cycle (validatorStart .mgmt 0 0x80000001) }

/-- The state is one that a new module reaches in one command. -/
theorem exec_startValidator : exec startValidator State.reset = .next validatingState :=
  State.onWrite_next _ _ _ (by decide)

theorem validatingState_takes : validatingState.takes .mgmt (.tile 0) Reg.TILE_VAL_SRC_LO = true := by decide

theorem exec_validatingState :
    exec (.registerWrite .mgmt (BitVec.ofNat 26 (addrOf (.tile 0) Reg.TILE_VAL_SRC_LO)) 1) validatingState = .next validatingState := by
  have hw : ∀ b : Block, wbit (b.rd (.tile 0) Reg.TILE_VAL_STAT) 31 = true →
      b.regWrite .mgmt (BitVec.ofNat 26 (addrOf (.tile 0) Reg.TILE_VAL_SRC_LO)).toNat 1 = b := fun b hb =>
    Block.writePage_of_validating (off := Reg.TILE_VAL_SRC_LO) .mgmt 1 hb (by decide) (by decide) (by decide)
  refine (State.onWrite_next _ _ _ (by decide)).trans ?_
  rw [Block.cycle_of_unposted (c := validatingState.block.unposted) (hw _ (by decide)) rfl]
  rfl

/-- Refutes O9: `ownRow` leaves out the validator's registers at 0x060 to 0x09F, whose writes are ignored while BUSY is 1 (R94, R95).
With the validator of TILE 0 started, a write of 1 to TILE_VAL_SRC_LO passes the gate and leaves bit 0 at 0. -/
theorem not_registerWritesFollowAccessCodes : ¬ Obligations.RegisterWritesFollowAccessCodes := by
  unfold Obligations.RegisterWritesFollowAccessCodes
  rintro ⟨h, -⟩
  obtain ⟨b, hb, w, ⟨hrd, -⟩, hw⟩ := h validatingState .mgmt (.tile 0) Reg.TILE_VAL_SRC_LO 1
    ⟨"TILE_VAL_SRC_LO", 0x060, 1, 4, false, .rw, 0xFFFFFFFF, 0x0, false⟩ rfl (by decide) (by decide) (by decide) validatingState_takes
  rw [exec_validatingState] at hb
  have hblock : b = validatingState.block := by
    cases hb
    rfl
  have hw0 : w.getLsbD 0 = true := hw 0 (by decide)
  have hold : b.rd (.tile 0) Reg.TILE_VAL_SRC_LO = w := (hrd _ _ (by decide) (by decide)).trans (Block.rd_wr_self _ _ _ _)
  rw [← hold, hblock] at hw0
  exact absurd hw0 (by decide)

end Sys2Proof.Machine
end

section
/-! SUPPORT. The fixed paths of the package network (R26, R29): where a path is cut, and the tiles of its two legs. -/

namespace Sys2Proof.Machine

open Sys2Proof

/-! ## A path ends where it first reaches its destination -/

/-- The dies of a way up to the first that is `z`. -/
def diesUpTo (z : Nat) (l : List Nat) : List Nat := l.takeWhile (fun d => d != z) ++ (l.dropWhile (fun d => d != z)).take 1

theorem diesUpTo_cons (z x : Nat) (l : List Nat) : diesUpTo z (x :: l) = if x = z then [x] else x :: diesUpTo z l := by
  unfold diesUpTo
  by_cases h : x = z
  · simp [h]
  · simp [h]

theorem diesUpTo_sublist (z : Nat) (l : List Nat) : (diesUpTo z l).Sublist l := by
  have h := (List.Sublist.refl (l.takeWhile (fun d => d != z))).append (List.take_sublist 1 (l.dropWhile (fun d => d != z)))
  rwa [List.takeWhile_append_dropWhile] at h

theorem getLast?_diesUpTo {z : Nat} {l : List Nat} (h : z ∈ l) : (diesUpTo z l).getLast? = some z := by
  induction l with
  | nil => cases h
  | cons x l ih =>
    rw [diesUpTo_cons]
    split
    · next hx => simp [hx]
    · next hx =>
      have hl : z ∈ l := (List.mem_cons.1 h).resolve_left fun e => hx e.symm
      rw [List.getLast?_cons, ih hl]
      rfl

/-- A way that meets no die twice and ends at `z` is not cut. -/
theorem diesUpTo_eq_self {z : Nat} {l : List Nat} (hn : l.Nodup) (hl : l.getLast? = some z) : diesUpTo z l = l := by
  induction l with
  | nil => rfl
  | cons x l ih =>
    obtain ⟨hx, hn⟩ := List.nodup_cons.1 hn
    rw [diesUpTo_cons]
    cases l with
    | nil =>
      cases hl
      simp
    | cons y l =>
      rw [List.getLast?_cons_cons] at hl
      have hne : x ≠ z := fun e => hx (e ▸ List.mem_of_getLast? hl)
      rw [if_neg hne, ih hn hl]

/-! ## The two legs of the mesh -/

/-- The coordinates that follow `p` on the way to `q`. -/
def coordsTo (p q : Nat) : List Nat :=
  if p ≤ q then (List.range (q - p)).map (fun i => p + i + 1) else (List.range (p - q)).map (fun i => p - i - 1)

theorem mem_coordsTo {p q c : Nat} (h : c ∈ coordsTo p q) : c ≠ p ∧ c ≤ max p q := by
  unfold coordsTo at h
  split at h
  all_goals
    obtain ⟨i, hi, rfl⟩ := List.mem_map.1 h
    rw [List.mem_range] at hi
    omega

theorem nodup_coordsTo (p q : Nat) : (coordsTo p q).Nodup := by
  unfold coordsTo
  split
  all_goals
    refine List.Nodup.map_on (fun i hi j hj e => ?_) List.nodup_range
    rw [List.mem_range] at hi hj
    omega

theorem length_coordsTo (p q : Nat) : (coordsTo p q).length = max p q - min p q := by
  unfold coordsTo
  split <;> rw [List.length_map, List.length_range] <;> omega

theorem getLast?_coordsTo {p q : Nat} (h : p ≠ q) : (coordsTo p q).getLast? = some q := by
  unfold coordsTo
  split
  all_goals
    rw [List.getLast?_map, List.getLast?_range, if_neg (by omega)]
    simp only [Option.map_some, Option.some.injEq]
    omega

theorem coordsTo_self (p : Nat) : coordsTo p p = [] := by simp [coordsTo]

/-- The tiles entered between two tiles: along the row of the first, then along the column of the second. -/
def meshDies (a z : Nat) : List Nat :=
  (coordsTo (a % 4) (z % 4)).map (fun c => 4 * (a / 4) + c) ++ (coordsTo (a / 4) (z / 4)).map (fun c => 4 * c + z % 4)

/-- A run of hops over tiles enters the tiles that it names, given by coordinate. -/
theorem map_die_hopTile {f coord tile : Nat → Nat} {n : Nat} (side : Nat)
    (hf : ∀ i < n, f i = tile (coord i) ∧ tile (coord i) < 16) :
    ((List.range n).map (fun i => hopTile (f i) side)).map (fun h => h.die) = ((List.range n).map coord).map tile := by
  rw [List.map_map, List.map_map]
  refine List.map_congr_left fun i hi => ?_
  obtain ⟨heq, hlt⟩ := hf i (List.mem_range.1 hi)
  exact (congrArg (· % 16) heq).trans (Nat.mod_eq_of_lt hlt)

theorem meshHops_dies {a z : Nat} (ha : a < 16) (hz : z < 16) : (meshHops a z).map (fun h => h.die) = meshDies a z := by
  unfold meshHops meshDies coordsTo
  dsimp only
  rw [List.map_append]
  congr 1
  all_goals
    split
    all_goals exact map_die_hopTile _ (by omega)

theorem mem_meshDies {a z d : Nat} (ha : a < 16) (hz : z < 16) (h : d ∈ meshDies a z) : d < 16 ∧ d ≠ a := by
  rcases List.mem_append.1 h with h | h
  all_goals
    obtain ⟨c, hc, rfl⟩ := List.mem_map.1 h
    have := mem_coordsTo hc
    omega

theorem nodup_meshDies (a z : Nat) : (meshDies a z).Nodup := by
  refine List.Nodup.append ((nodup_coordsTo _ _).map fun c d e => ?_) ((nodup_coordsTo _ _).map fun c d e => ?_) fun d hrow hcol => ?_
  · omega
  · omega
  · obtain ⟨c, hc, rfl⟩ := List.mem_map.1 hrow
    obtain ⟨r, hr, hd⟩ := List.mem_map.1 hcol
    have := mem_coordsTo hc
    have := mem_coordsTo hr
    omega

theorem length_meshDies (a z : Nat) :
    (meshDies a z).length = (max (a % 4) (z % 4) - min (a % 4) (z % 4)) + (max (a / 4) (z / 4) - min (a / 4) (z / 4)) := by
  rw [meshDies, List.length_append, List.length_map, List.length_map, length_coordsTo, length_coordsTo]

theorem getLast?_meshDies {a z : Nat} (h : a ≠ z) : (meshDies a z).getLast? = some z := by
  unfold meshDies
  by_cases hrow : a / 4 = z / 4
  · rw [hrow, coordsTo_self, List.map_nil, List.append_nil, List.getLast?_map, getLast?_coordsTo (by omega), Option.map_some,
      Nat.div_add_mod]
  · rw [List.getLast?_append, List.getLast?_map, getLast?_coordsTo hrow, Option.map_some, Option.some_or, Nat.div_add_mod]

end Sys2Proof.Machine
end

section
/-! SUPPORT. The fixed paths of the package network (R28, R29): the ends of a path outside the mesh, and the whole way. -/

namespace Sys2Proof.Machine

open Sys2Proof

/-! ## The ends of a path outside the mesh -/

/-- The stack by which a transfer leaves a port die. -/
def startStack (src dst : Nat) : Nat := if 36 ≤ dst then (if src = 36 then 18 else 8) else attach (src == 36) (meshEnd dst)

/-- The stack by which a transfer from mesh tile `t` on reaches a port die. -/
def stopStack (src dst t : Nat) : Nat := if 36 ≤ src then (if src = 36 then 7 else 17) else attach (dst == 36) t

/-- The hops from a die into the mesh, and the tile where they end. -/
def pathStart (src dst : Nat) : List Hop × Nat :=
  if src < 16 then ([], src)
  else if src < 36 then fromStack (src - 16)
  else (hopStack (startStack src dst) 2 :: (fromStack (startStack src dst)).1, (fromStack (startStack src dst)).2)

/-- The tile where a transfer from mesh tile `t` on leaves the mesh, and the hops from there to its destination. -/
def pathStop (src dst t : Nat) : Nat × List Hop :=
  if dst < 16 then (dst, [])
  else if dst < 36 then toStack (dst - 16)
  else ((toStack (stopStack src dst t)).1, (toStack (stopStack src dst t)).2 ++ [hopPort (stopStack src dst t) (dst == 36)])

/-- Does a stack stand at a corner, without a tile link (R28)? -/
def isCorner (d : Nat) : Bool := [16, 21, 26, 31].contains d

/-- The stacks that lie between a die and the mesh: the next one of a corner stack, the attachment stack `s` of a port die. -/
def stacksBetween (d s : Nat) : List Nat := if 36 ≤ d then [16 + s] else if isCorner d then [d + 1] else []

/-- Is a stack one that a port die has a link to (R28)? -/
def IsAttachment (s : Nat) : Prop := s = 7 ∨ s = 8 ∨ s = 17 ∨ s = 18

theorem attach_isAttachment (west : Bool) (t : Nat) : IsAttachment (attach west t) := by
  unfold attach IsAttachment
  repeat' split
  all_goals simp

theorem startStack_isAttachment (src dst : Nat) : IsAttachment (startStack src dst) := by
  unfold startStack
  split
  · unfold IsAttachment
    split <;> simp
  · exact attach_isAttachment _ _

theorem stopStack_isAttachment (src dst t : Nat) : IsAttachment (stopStack src dst t) := by
  unfold stopStack
  split
  · unfold IsAttachment
    split <;> simp
  · exact attach_isAttachment _ _

/-- Between the two port dies a transfer leaves and arrives by different stacks. -/
theorem startStack_ne_stopStack {src dst : Nat} (t : Nat) (hs : 36 ≤ src) (hd : 36 ≤ dst) :
    startStack src dst ≠ stopStack src dst t := by
  unfold startStack stopStack
  rw [if_pos hd, if_pos hs]
  split <;> decide

theorem fromStack_dies : ∀ s : Fin 20, (fromStack s.val).2 < 16 ∧
    (fromStack s.val).1.map (fun h => h.die) = stacksBetween (16 + s.val) 0 ++ [(fromStack s.val).2] := by decide

theorem toStack_dies : ∀ s : Fin 20, (toStack s.val).1 < 16 ∧
    (toStack s.val).2.map (fun h => h.die) = stacksBetween (16 + s.val) 0 ++ [16 + s.val] := by decide

theorem between_attachment {s : Nat} (h : IsAttachment s) : s < 20 ∧ stacksBetween (16 + s) 0 = [] := by
  rcases h with rfl | rfl | rfl | rfl <;> decide

theorem between_stack {d : Nat} (h : d < 36) (s : Nat) : stacksBetween d s = stacksBetween d 0 := by
  simp only [stacksBetween, show ¬ 36 ≤ d by omega, if_false]

theorem mem_between {d s x : Nat} (h : x ∈ stacksBetween d s) :
    (36 ≤ d ∧ x = 16 + s) ∨ ((d = 16 ∨ d = 21 ∨ d = 26 ∨ d = 31) ∧ x = d + 1) := by
  unfold stacksBetween at h
  split at h
  · next hd => exact .inl ⟨hd, List.mem_singleton.1 h⟩
  · split at h
    · next hc => exact .inr ⟨by simpa [isCorner] using hc, List.mem_singleton.1 h⟩
    · cases h

/-- At most one stack lies between a die and the mesh. -/
theorem between_eq_of_mem {d s x : Nat} (h : x ∈ stacksBetween d s) : stacksBetween d s = [x] := by
  unfold stacksBetween at h ⊢
  split at h
  · next hp => rw [if_pos hp, List.mem_singleton.1 h]
  · next hp =>
    split at h
    · next hc => rw [if_neg hp, if_pos hc, List.mem_singleton.1 h]
    · cases h

theorem nodup_between (d s : Nat) : (stacksBetween d s).Nodup := by
  unfold stacksBetween
  repeat' split
  all_goals simp

theorem die_hopStack {s : Nat} (h : s < 20) (k : Nat) : (hopStack s k).die = 16 + s := congrArg (16 + ·) (Nat.mod_eq_of_lt h)

theorem die_hopPort {dst : Nat} (h : dst < 38) (hp : 36 ≤ dst) (s : Nat) : (hopPort s (dst == 36)).die = dst := by
  show (if (dst == 36) = true then 36 else 37) = dst
  split
  · next e => exact (beq_iff_eq.1 e).symm
  · next e =>
    rw [beq_iff_eq] at e
    omega

/-- The dies from the source to the first tile of the mesh. -/
def entryDies (src dst : Nat) : List Nat := if src < 16 then [] else stacksBetween src (startStack src dst) ++ [(pathStart src dst).2]

/-- The dies from mesh tile `t` on to the destination, none where that is a tile. -/
def exitDies (src dst t : Nat) : List Nat := if dst < 16 then [] else stacksBetween dst (stopStack src dst t) ++ [dst]

/-- From a tile a path starts there; from any other die it goes over the stacks between to a tile. -/
theorem pathStart_dies {src : Nat} (dst : Nat) (h : src < 38) : (pathStart src dst).2 < 16 ∧
    (src < 16 → (pathStart src dst).2 = src) ∧
    (pathStart src dst).1.map (fun h => h.die) = entryDies src dst := by
  unfold entryDies pathStart
  split
  · next ht => exact ⟨ht, fun _ => rfl, rfl⟩
  · next ht =>
    split
    · next hs =>
      obtain ⟨htile, hdies⟩ := fromStack_dies ⟨src - 16, by omega⟩
      rw [between_stack hs]
      rw [show 16 + (src - 16) = src by omega] at hdies
      exact ⟨htile, fun h => absurd h ht, hdies⟩
    · next hs =>
      obtain ⟨hlt, hnone⟩ := between_attachment (startStack_isAttachment src dst)
      obtain ⟨htile, hdies⟩ := fromStack_dies ⟨startStack src dst, hlt⟩
      rw [hnone] at hdies
      refine ⟨htile, fun h => absurd h ht, ?_⟩
      rw [List.map_cons, hdies, die_hopStack hlt, stacksBetween, if_pos (by omega)]
      rfl

/-- To a tile a path ends in the mesh; to any other die it goes on from a tile over the stacks between. -/
theorem pathStop_dies (src : Nat) {dst : Nat} (t : Nat) (h : dst < 38) : (pathStop src dst t).1 < 16 ∧
    (dst < 16 → (pathStop src dst t).1 = dst) ∧
    (pathStop src dst t).2.map (fun h => h.die) = exitDies src dst t := by
  unfold exitDies pathStop
  split
  · next ht => exact ⟨ht, fun _ => rfl, rfl⟩
  · next ht =>
    split
    · next hs =>
      obtain ⟨htile, hdies⟩ := toStack_dies ⟨dst - 16, by omega⟩
      rw [between_stack hs]
      rw [show 16 + (dst - 16) = dst by omega] at hdies
      exact ⟨htile, fun h => absurd h ht, hdies⟩
    · next hs =>
      obtain ⟨hlt, hnone⟩ := between_attachment (stopStack_isAttachment src dst t)
      obtain ⟨htile, hdies⟩ := toStack_dies ⟨stopStack src dst t, hlt⟩
      rw [hnone] at hdies
      refine ⟨htile, fun h => absurd h ht, ?_⟩
      rw [List.map_append, hdies, stacksBetween, if_pos (by omega), List.map_singleton, die_hopPort h (by omega)]
      rfl

/-! ## The whole way -/

/-- The tile where a way leaves the mesh. -/
def stopTile (src dst : Nat) : Nat := (pathStop src dst (pathStart src dst).2).1

/-- The dies of a way before the mesh, in it and after it. -/
def wayDies (src dst : Nat) : List Nat :=
  entryDies src dst ++ meshDies (pathStart src dst).2 (stopTile src dst) ++ exitDies src dst (pathStart src dst).2

theorem path_dies {src dst : Nat} (hs : src < 38) (hd : dst < 38) (h : src ≠ dst) :
    (path src dst).map (fun h => h.die) = diesUpTo dst (wayDies src dst) := by
  have hpath : path src dst = _ := if_neg h
  obtain ⟨hstart, -, hbefore⟩ := pathStart_dies dst hs
  obtain ⟨hstop, -, hafter⟩ := pathStop_dies src (pathStart src dst).2 hd
  have hway : ((pathStart src dst).1 ++ meshHops (pathStart src dst).2 (pathStop src dst (pathStart src dst).2).1 ++
      (pathStop src dst (pathStart src dst).2).2).map (fun h => h.die) = wayDies src dst := by
    rw [List.map_append, List.map_append, hbefore, hafter, meshHops_dies hstart hstop]
    rfl
  rw [hpath, diesUpTo, ← hway, List.takeWhile_map, List.dropWhile_map, ← List.map_take, ← List.map_append]
  rfl

/-- A way reaches its destination. -/
theorem mem_wayDies {src dst : Nat} (hs : src < 38) (hd : dst < 38) (h : src ≠ dst) : dst ∈ wayDies src dst := by
  obtain ⟨-, hstart, -⟩ := pathStart_dies dst hs
  obtain ⟨-, hstop, -⟩ := pathStop_dies src (pathStart src dst).2 hd
  unfold wayDies exitDies
  by_cases hz : dst < 16
  · rw [if_pos hz, List.append_nil, stopTile, hstop hz, List.mem_append]
    by_cases ht : (pathStart src dst).2 = dst
    · have ha : ¬ src < 16 := fun ha => h ((hstart ha).symm.trans ht)
      rw [entryDies, if_neg ha, ht]
      simp
    · exact .inr (List.mem_of_getLast? (getLast?_meshDies ht))
  · rw [if_neg hz]
    simp

/-- No stack lies at both ends of a way. -/
theorem between_disjoint {src dst : Nat} (t : Nat) (h : src ≠ dst) :
    (stacksBetween src (startStack src dst)).Disjoint (stacksBetween dst (stopStack src dst t)) := by
  intro x hx hy
  have ha := startStack_isAttachment src dst
  have hz := stopStack_isAttachment src dst t
  have hne := startStack_ne_stopStack (src := src) (dst := dst) t
  unfold IsAttachment at ha hz
  have hx := mem_between hx
  have hy := mem_between hy
  rcases hx with ⟨hs, rfl⟩ | ⟨hs, rfl⟩ <;> rcases hy with ⟨hd, hy⟩ | ⟨hd, hy⟩
  · exact hne hs hd (by omega)
  · omega
  · omega
  · omega

/-- A stack between a die and the mesh lies outside the mesh, and is not the die itself. -/
theorem between_outside {d s x : Nat} (hs : IsAttachment s) (h : x ∈ stacksBetween d s) : 16 ≤ x ∧ x ≠ d := by
  unfold IsAttachment at hs
  have := mem_between h
  omega

theorem entryDies_spec {src dst : Nat} (hs : src < 38) : (entryDies src dst).Nodup ∧ ∀ x ∈ entryDies src dst,
    x = (pathStart src dst).2 ∨ 16 ≤ x ∧ x ∈ stacksBetween src (startStack src dst) := by
  obtain ⟨htile, -, -⟩ := pathStart_dies dst hs
  have hout := fun x => between_outside (x := x) (d := src) (startStack_isAttachment src dst)
  unfold entryDies
  split
  · exact ⟨List.nodup_nil, fun x hx => by cases hx⟩
  · refine ⟨List.Nodup.append (nodup_between _ _) (List.nodup_singleton _) fun x hx ht => ?_, fun x hx => ?_⟩
    · have := hout x hx
      rw [List.mem_singleton] at ht
      omega
    · rcases List.mem_append.1 hx with hx | hx
      · exact .inr ⟨(hout x hx).1, hx⟩
      · exact .inl (List.mem_singleton.1 hx)

theorem exitDies_spec (src dst t : Nat) : (exitDies src dst t).Nodup ∧ ∀ x ∈ exitDies src dst t,
    16 ≤ x ∧ (x = dst ∨ x ∈ stacksBetween dst (stopStack src dst t)) := by
  have hout := fun x => between_outside (x := x) (d := dst) (stopStack_isAttachment src dst t)
  unfold exitDies
  split
  · exact ⟨List.nodup_nil, fun x hx => by cases hx⟩
  · next hd =>
    refine ⟨List.Nodup.append (nodup_between _ _) (List.nodup_singleton _) fun x hx ht => ?_, fun x hx => ?_⟩
    · exact (hout x hx).2 (List.mem_singleton.1 ht)
    · rcases List.mem_append.1 hx with hx | hx
      · exact ⟨(hout x hx).1, .inr hx⟩
      · rw [List.mem_singleton] at hx
        exact ⟨by omega, .inl hx⟩

/-- A way whose destination is no stack that it passes on leaving its source meets no die twice. -/
theorem nodup_wayDies {src dst : Nat} (hs : src < 38) (hd : dst < 38) (h : src ≠ dst)
    (hfar : dst ∉ stacksBetween src (startStack src dst)) : (wayDies src dst).Nodup := by
  obtain ⟨hstart, -, -⟩ := pathStart_dies dst hs
  obtain ⟨hstop, -, -⟩ := pathStop_dies src (pathStart src dst).2 hd
  obtain ⟨hentry, hentered⟩ := entryDies_spec (dst := dst) hs
  obtain ⟨hexit, hleft⟩ := exitDies_spec src dst (pathStart src dst).2
  have hmesh := fun x => mem_meshDies (d := x) hstart hstop
  refine List.Nodup.append (List.Nodup.append hentry (nodup_meshDies _ _) fun x hx hm => ?_) hexit fun x hx hz => ?_
  · have := hmesh x hm
    have := hentered x hx
    omega
  · obtain ⟨hx16, hz⟩ := hleft x hz
    rcases List.mem_append.1 hx with hx | hx
    · rcases hentered x hx with rfl | ⟨-, hx⟩
      · omega
      · rcases hz with rfl | hz
        · exact hfar hx
        · exact between_disjoint _ h hx hz
    · have := hmesh x hx
      omega

/-- A way whose destination is the stack next to its source ends there. -/
theorem diesUpTo_wayDies_near {src dst : Nat} (h : dst ∈ stacksBetween src (startStack src dst)) :
    diesUpTo dst (wayDies src dst) = [dst] := by
  have hsrc : ¬ src < 16 := by
    have := mem_between h
    omega
  rw [wayDies, entryDies, if_neg hsrc, between_eq_of_mem h]
  simp only [List.cons_append, diesUpTo_cons, if_true]

/-- The fixed path between two dies ends at its destination and meets no die twice (R29). -/
theorem path_fixed {src dst : Nat} (hs : src < 38) (hd : dst < 38) (h : src ≠ dst) :
    (path src dst).getLast?.map (fun h => h.die) = some dst ∧ ((path src dst).map (fun h => h.die)).Nodup := by
  rw [← List.getLast?_map, path_dies hs hd h]
  refine ⟨getLast?_diesUpTo (mem_wayDies hs hd h), ?_⟩
  by_cases hnear : dst ∈ stacksBetween src (startStack src dst)
  · rw [diesUpTo_wayDies_near hnear]
    exact List.nodup_singleton _
  · exact (nodup_wayDies hs hd h hnear).sublist (diesUpTo_sublist _ _)

/-- Between two tiles a path is as long as the tiles are apart (R29). -/
theorem length_path_tiles {a z : Nat} (ha : a < 16) (hz : z < 16) (h : a ≠ z) : (path a z).length =
    (max (a % 4) (z % 4) - min (a % 4) (z % 4)) + (max (a / 4) (z / 4) - min (a / 4) (z / 4)) := by
  have hway : wayDies a z = meshDies a z := by
    simp [wayDies, entryDies, exitDies, stopTile, pathStart, pathStop, ha, hz]
  rw [← List.length_map (fun h : Hop => h.die), path_dies (by omega) (by omega) h, hway,
    diesUpTo_eq_self (nodup_meshDies _ _) (getLast?_meshDies h), length_meshDies]

end Sys2Proof.Machine
end

section
/-! SUPPORT. Transfers on the package network (R32 to R34): what a crossing leaves. -/

namespace Sys2Proof.Machine

open Sys2Proof

/-! ## A crossing of the network -/

/-- `n` has the links down, the transfers that wait and the last delivery of `m`. -/
def NetSt.SameQueue (n m : NetSt) : Prop := n.down = m.down ∧ n.waiting = m.waiting ∧ n.last = m.last

/-- The transfer stands at a link with so many failed replays; its source, destination and class are those of `t`. -/
def Transfer.StandsAt (t' t : Transfer) (key fails : Nat) : Prop :=
  t'.src = t.src ∧ t'.dst = t.dst ∧ t'.cls = t.cls ∧ t'.at_ = key ∧ t'.fails = fails

/-- A transfer before a link, with no replay of it counted where it comes to that link. -/
def Transfer.reach (t : Transfer) (key : Nat) : Transfer := if t.at_ = key then t else { t with at_ := key, fails := 0 }

theorem Transfer.reach_standsAt {t : Transfer} (h : t.fails = 0) (key : Nat) : (t.reach key).StandsAt t key 0 := by
  unfold Transfer.reach
  split
  · next hk => exact ⟨rfl, rfl, rfl, hk, h⟩
  · exact ⟨rfl, rfl, rfl, rfl, rfl⟩

theorem NetSt.loses_alone {n : NetSt} (h : n.waiting = []) (key : Nat) (t : Transfer) : n.loses key t = false := by
  simp [NetSt.loses, h]

/-- Behind a CTL flit that waits at a link another class loses it. -/
theorem NetSt.loses_ctl {n : NetSt} {w t : Transfer} {key : Nat} (hw : w ∈ n.waiting) (hk : w.at_ = key) (hc : w.cls = 2)
    (ht : t.cls ≠ 2) : n.loses key t = true := by
  have hany : (n.waiting.filter (fun w => w.at_ == key)).any (fun w => w.cls == 2) = true :=
    List.any_eq_true.2 ⟨w, List.mem_filter.2 ⟨hw, beq_iff_eq.2 hk⟩, beq_iff_eq.2 hc⟩
  unfold NetSt.loses
  dsimp only
  rw [hany, bne_iff_ne.2 ht]
  rfl

variable (b : Block) (bad : Option Nat)

theorem Block.cross_cons (h : Hop) (rest : List Hop) (n : NetSt) (t : Transfer) :
    b.cross bad (h :: rest) n t =
      if b.linkDown h.page h.link = true ∨ n.loses (linkKey h.page h.link) (t.reach (linkKey h.page h.link)) = true then
        (n, some (t.reach (linkKey h.page h.link), false))
      else if bad = some (linkKey h.page h.link) then (n, some (t.reach (linkKey h.page h.link), true))
      else b.cross bad rest (n.passed (linkKey h.page h.link) (t.reach (linkKey h.page h.link)))
        { t.reach (linkKey h.page h.link) with from_ := linkKey h.page h.link } := rfl

/-- Where a transfer that is alone on the network comes to: its destination, over links that are up and do not fail it, or a link
of its way that is down or fails its flit. -/
def Block.ComesTo (l : List Hop) (t : Transfer) (o : Option (Transfer × Bool)) : Prop :=
  (o = none ∧ ∀ h ∈ l, b.linkDown h.page h.link = false ∧ bad ≠ some (linkKey h.page h.link)) ∨
  ∃ h ∈ l, ∃ t' : Transfer, t'.StandsAt t (linkKey h.page h.link) 0 ∧
    ((o = some (t', false) ∧ b.linkDown h.page h.link = true) ∨
      (o = some (t', true) ∧ b.linkDown h.page h.link = false ∧ bad = some (linkKey h.page h.link)))

/-- All that a transfer alone on the network can do. -/
theorem Block.cross_alone {l : List Hop} {n : NetSt} {t : Transfer} (hn : n.waiting = []) (ht : t.fails = 0) :
    (b.cross bad l n t).1.SameQueue n ∧ b.ComesTo bad l t (b.cross bad l n t).2 := by
  induction l generalizing n t with
  | nil => exact ⟨⟨rfl, rfl, rfl⟩, .inl ⟨rfl, by simp⟩⟩
  | cons h rest ih =>
    have hstand := Transfer.reach_standsAt ht (linkKey h.page h.link)
    have hfree := NetSt.loses_alone hn (linkKey h.page h.link) (t.reach (linkKey h.page h.link))
    rw [Block.cross_cons, hfree]
    by_cases hdown : b.linkDown h.page h.link = true
    · rw [if_pos (.inl hdown)]
      exact ⟨⟨rfl, rfl, rfl⟩, .inr ⟨h, List.mem_cons_self, _, hstand, .inl ⟨rfl, hdown⟩⟩⟩
    · rw [if_neg (by simpa using hdown)]
      rw [Bool.not_eq_true] at hdown
      by_cases hbad : bad = some (linkKey h.page h.link)
      · rw [if_pos hbad]
        exact ⟨⟨rfl, rfl, rfl⟩, .inr ⟨h, List.mem_cons_self, _, hstand, .inr ⟨rfl, hdown, hbad⟩⟩⟩
      · rw [if_neg hbad]
        obtain ⟨hsrc, hdst, hcls, -, hfails⟩ := hstand
        obtain ⟨hqueue, hcomes⟩ := ih (n := n.passed (linkKey h.page h.link) (t.reach (linkKey h.page h.link)))
          (t := { t.reach (linkKey h.page h.link) with from_ := linkKey h.page h.link }) hn hfails
        refine ⟨hqueue, ?_⟩
        rcases hcomes with ⟨hnone, hup⟩ | ⟨g, hg, t', ⟨gsrc, gdst, gcls, gat, gfails⟩, hend⟩
        · exact .inl ⟨hnone, List.forall_mem_cons.2 ⟨⟨hdown, hbad⟩, hup⟩⟩
        · exact .inr ⟨g, List.mem_cons_of_mem _ hg, t', ⟨gsrc.trans hsrc, gdst.trans hdst, gcls.trans hcls, gat, gfails⟩, hend⟩

/-! ## A new transfer -/

/-- A transfer as it sets out. -/
def newTransfer (src dst : Fin 38) (what : Traffic) : Transfer :=
  { src := src.val, dst := dst.val, cls := what.cls, at_ := 0, from_ := src.val, fails := 0 }

/-- The key of the link at which a flit fails its CRC. -/
def failKey (fail : Option (Page × Fin 4)) : Option Nat := fail.map (fun x => linkKey x.1 x.2.val)

/-- The crossing of a new transfer. -/
def Block.crossNew (src dst : Fin 38) (what : Traffic) (fail : Option (Page × Fin 4)) : NetSt × Option (Transfer × Bool) :=
  b.cross (failKey fail) (path src.val dst.val) b.net (newTransfer src dst what)

variable {b}

/-- A transfer none like which waits sets out from its source. -/
theorem pkgnetTransfer_eq {src dst : Fin 38} {what : Traffic} (fail : Option (Page × Fin 4))
    (h : ∀ w ∈ b.net.waiting, (newTransfer src dst what).like w = false) : pkgnetTransfer src dst what fail b =
      match b.crossNew src dst what fail with
      | (n, none) => { b with net := { n with last := [src.val, dst.val, what.cls, (path src.val dst.val).length] } }
      | (n, some (t, false)) => { b with net := { n with waiting := n.waiting ++ [t] } }
      | (n, some (t, true)) =>
        if 16 ≤ t.fails then { b with net := { n with waiting := n.waiting ++ [t] } }
        else match fail with
          | some (p, k) =>
            ({ b with net := { n with waiting := n.waiting ++ [{ t with fails := t.fails + 1 }] } } : Block).count p (replayOff p k.val) 1
          | none => { b with net := { n with waiting := n.waiting ++ [{ t with fails := t.fails + 1 }] } } := by
  have hfind : b.net.waiting.find? (newTransfer src dst what).like = none := List.find?_eq_none.2 fun w hw => by simp [h w hw]
  have herase : b.net.waiting.eraseP (newTransfer src dst what).like = b.net.waiting :=
    List.eraseP_of_forall_not fun w hw => by simp [h w hw]
  unfold newTransfer at hfind herase
  unfold pkgnetTransfer Block.crossNew failKey newTransfer
  dsimp only
  rw [hfind, herase]
  dsimp only [Option.getD_none]
  generalize b.cross _ _ _ _ = r
  obtain ⟨n, _ | ⟨t, _ | _⟩⟩ := r <;> rfl

/-- On an empty network a new transfer has no other like it before it. -/
theorem like_of_alone {src dst : Fin 38} {what : Traffic} (h : b.net.waiting = []) :
    ∀ w ∈ b.net.waiting, (newTransfer src dst what).like w = false := by
  rw [h]
  exact fun w hw => by cases hw

theorem Block.crossNew_alone {src dst : Fin 38} {what : Traffic} {fail : Option (Page × Fin 4)} (h : b.net.waiting = []) :
    (b.crossNew src dst what fail).1.SameQueue b.net ∧
      b.ComesTo (failKey fail) (path src.val dst.val) (newTransfer src dst what) (b.crossNew src dst what fail).2 :=
  b.cross_alone (failKey fail) h rfl

/-- Alone on the network and over links that are up a transfer is delivered. -/
theorem pkgnetTransfer_delivers {src dst : Fin 38} {what : Traffic} (h : b.net.waiting = [])
    (hclear : ∀ h ∈ path src.val dst.val, b.linkDown h.page h.link = false) :
    ∃ n : NetSt, pkgnetTransfer src dst what none b = { b with net := n } ∧ n.down = b.net.down ∧ n.waiting = [] ∧
      n.last = [src.val, dst.val, what.cls, (path src.val dst.val).length] := by
  rw [pkgnetTransfer_eq none (like_of_alone h)]
  obtain ⟨⟨hdown, hwait, -⟩, hcomes⟩ := b.crossNew_alone (src := src) (dst := dst) (what := what) (fail := none) h
  generalize b.crossNew src dst what none = r at hdown hwait hcomes
  obtain ⟨n, o⟩ := r
  rcases hcomes with ⟨rfl, -⟩ | ⟨g, hg, t, -, ⟨-, hd⟩ | ⟨-, -, hbad⟩⟩
  · exact ⟨_, rfl, hdown, hwait.trans h, rfl⟩
  · rw [hclear g hg] at hd
    cases hd
  · cases hbad

/-- A flit that fails its CRC on a link of the way is replayed there and counted. -/
theorem pkgnetTransfer_replays {src dst : Fin 38} {what : Traffic} {p : Page} {k : Fin 4} (h : b.net.waiting = [])
    (hclear : ∀ h ∈ path src.val dst.val, b.linkDown h.page h.link = false)
    (hlink : ∃ h ∈ path src.val dst.val, h.page = p ∧ h.link = k.val) :
    ∃ (n : NetSt) (t : Transfer),
      pkgnetTransfer src dst what (some (p, k)) b = ({ b with net := n } : Block).count p (replayOff p k.val) 1 ∧
      n.last = b.net.last ∧ n.waiting = [t] ∧ t.StandsAt (newTransfer src dst what) (linkKey p k.val) 1 := by
  rw [pkgnetTransfer_eq (some (p, k)) (like_of_alone h)]
  obtain ⟨⟨-, hwait, hlast⟩, hcomes⟩ := b.crossNew_alone (src := src) (dst := dst) (what := what) (fail := some (p, k)) h
  generalize b.crossNew src dst what (some (p, k)) = r at hwait hlast hcomes
  obtain ⟨n, o⟩ := r
  rcases hcomes with ⟨-, hup⟩ | ⟨g, hg, t, ⟨hsrc, hdst, hcls, hat, hfails⟩, ⟨-, hd⟩ | ⟨rfl, -, hbad⟩⟩
  · obtain ⟨g, hg, rfl, hk⟩ := hlink
    exact absurd (by rw [hk]; rfl) (hup g hg).2
  · rw [hclear g hg] at hd
    cases hd
  · have hkey : linkKey p k.val = linkKey g.page g.link := Option.some.inj hbad
    refine ⟨{ n with waiting := n.waiting ++ [{ t with fails := t.fails + 1 }] }, { t with fails := t.fails + 1 }, ?_, hlast, ?_,
      hsrc, hdst, hcls, hat.trans hkey.symm, congrArg (· + 1) hfails⟩
    · exact if_neg (by rw [hfails]; decide)
    · show n.waiting ++ _ = _
      rw [hwait, h]
      rfl

/-- Where a link of its one way is down a transfer waits at such a link. -/
theorem pkgnetTransfer_waits {src dst : Fin 38} {what : Traffic} (h : b.net.waiting = [])
    (hdown : ¬ ∀ h ∈ path src.val dst.val, b.linkDown h.page h.link = false) :
    ∃ (n : NetSt) (t : Transfer), pkgnetTransfer src dst what none b = { b with net := n } ∧ n.last = b.net.last ∧ n.waiting = [t] ∧
      ∃ h ∈ path src.val dst.val, b.linkDown h.page h.link = true ∧
        t.StandsAt (newTransfer src dst what) (linkKey h.page h.link) 0 := by
  rw [pkgnetTransfer_eq none (like_of_alone h)]
  obtain ⟨⟨-, hwait, hlast⟩, hcomes⟩ := b.crossNew_alone (src := src) (dst := dst) (what := what) (fail := none) h
  generalize b.crossNew src dst what none = r at hwait hlast hcomes
  obtain ⟨n, o⟩ := r
  rcases hcomes with ⟨-, hup⟩ | ⟨g, hg, t, hstand, ⟨rfl, hd⟩ | ⟨-, -, hbad⟩⟩
  · exact absurd (fun g hg => (hup g hg).1) hdown
  · refine ⟨{ n with waiting := n.waiting ++ [t] }, t, rfl, hlast, ?_, g, hg, hd, hstand⟩
    show n.waiting ++ _ = _
    rw [hwait, h]
    rfl
  · cases hbad

/-- Behind a CTL flit that waits at its first link a transfer of another class waits. -/
theorem pkgnetTransfer_yields {src dst : Fin 38} {what : Traffic} {w : Transfer} {h : Hop} (fail : Option (Page × Fin 4))
    (hfirst : (path src.val dst.val).head? = some h) (hw : b.net.waiting = [w]) (hctl : w.cls = 2) (hcls : what.cls ≠ 2)
    (hat : w.at_ = linkKey h.page h.link) :
    ∃ (n : NetSt) (t : Transfer), pkgnetTransfer src dst what fail b = { b with net := n } ∧ n.last = b.net.last ∧
      n.waiting = [w, t] ∧ t.StandsAt (newTransfer src dst what) (linkKey h.page h.link) 0 := by
  obtain ⟨rest, hpath⟩ := List.head?_eq_some_iff.1 hfirst
  have hlose : b.net.loses (linkKey h.page h.link) ((newTransfer src dst what).reach (linkKey h.page h.link)) = true := by
    obtain ⟨-, -, hc, -, -⟩ := Transfer.reach_standsAt (t := newTransfer src dst what) rfl (linkKey h.page h.link)
    exact NetSt.loses_ctl (by rw [hw]; exact List.mem_singleton_self w) hat hctl (fun e => hcls (hc.symm.trans e))
  have hcross : b.crossNew src dst what fail = (b.net, some ((newTransfer src dst what).reach (linkKey h.page h.link), false)) := by
    rw [Block.crossNew, hpath, Block.cross_cons, if_pos (.inr hlose)]
  have hlike : ∀ x ∈ b.net.waiting, (newTransfer src dst what).like x = false := by
    rw [hw]
    intro x hx
    have hne : (2 == (newTransfer src dst what).cls) = false := beq_false_of_ne hcls.symm
    rw [List.mem_singleton.1 hx, Transfer.like, hctl, hne, Bool.and_false]
  rw [pkgnetTransfer_eq fail hlike, hcross]
  refine ⟨_, _, rfl, rfl, ?_, Transfer.reach_standsAt rfl _⟩
  show b.net.waiting ++ _ = _
  rw [hw]
  rfl

/-- A transfer that raises no event completes with its effect. -/
theorem completes_pkgnetTransfer {s : State} {src dst : Fin 38} {what : Traffic} {fail : Option (Page × Fin 4)} {c : Block}
    {P : Block → Prop} (hr : s.block.running = true) (hc : pkgnetTransfer src dst what fail s.block.unposted = c) (hq : c.posted = [])
    (hp : P { c with posted := s.block.posted }) : Completes (.pkgnetTransfer src dst what fail) s P := by
  refine completes_block rfl hr ?_
  rw [Block.cycle_of_unposted hc hq]
  exact hp

theorem replayOff_lt (p : Page) (k : Fin 4) : replayOff p k.val + 4 < 4096 := by
  unfold replayOff
  split
  · show 0x100 + 8 * k.val + 4 < 4096
    omega
  · show 0x090 + 8 * k.val + 4 < 4096
    omega

end Sys2Proof.Machine
end

section
/-! SUPPORT. A link of the package network that goes down (R34). -/

namespace Sys2Proof.Machine

open Sys2Proof

variable {b : Block}

/-- The two ends of a link, as the network lists links that are down. -/
def linkEnds (p : Page) (k : Nat) : List (Nat × Nat) :=
  (pageIndex p, k) :: match farEnd p k with
    | some (q, j) => [(pageIndex q, j)]
    | none => []

theorem far_mem_linkEnds {p q : Page} {k j : Nat} (h : farEnd p k = some (q, j)) : (pageIndex q, j) ∈ linkEnds p k := by
  unfold linkEnds
  rw [h]
  simp

/-- The module with both ends of a link down. -/
def Block.cutLink (b : Block) (p : Page) (k : Nat) : Block := { b with net := { b.net with down := b.net.down ++ linkEnds p k } }

theorem Block.linkDown_of_mem {q : Page} {j : Nat} (h : (pageIndex q, j) ∈ b.net.down) : b.linkDown q j = true :=
  List.contains_iff_mem.2 h

theorem Block.mem_down_cutLink {p : Page} {k : Nat} {e : Nat × Nat} (h : e ∈ linkEnds p k) : e ∈ (b.cutLink p k).net.down :=
  List.mem_append_right _ h

/-- A link that is up and at which one flit has failed sixteen replays goes down (R34). -/
theorem pkgnetLinkDown_eq {p : Page} {k : Fin 4} (hup : b.linkDown p k.val = false)
    (hfail : ∃ t ∈ b.net.waiting, t.at_ = linkKey p k.val ∧ 16 ≤ t.fails) :
    pkgnetLinkDown p k b = ((b.cutLink p k.val).logState .self p (replayOff p k.val) 0 1).post Ev.PKGNET_LINK_DOWN p 0 := by
  obtain ⟨t, ht, hat, h16⟩ := hfail
  have hany : b.net.waiting.any (fun t => t.at_ == linkKey p k.val && decide (16 ≤ t.fails)) = true :=
    List.any_eq_true.2 ⟨t, ht, by simp [hat, h16]⟩
  unfold pkgnetLinkDown
  rw [hany, hup]
  rfl

theorem Block.Entered.net {a c : Block} (h : a.Entered c) : c.net = a.net := by
  unfold Block.Entered at h
  rw [h]

/-- The command leaves the network with both ends of the link down, and has counted its event. -/
theorem pkgnetLinkDown_cycle {p : Page} {k : Fin 4} (hup : b.linkDown p k.val = false)
    (hfail : ∃ t ∈ b.net.waiting, t.at_ = linkKey p k.val ∧ 16 ≤ t.fails) :
    (b.cycle (pkgnetLinkDown p k)).net = (b.cutLink p k.val).net ∧
      (b.cycle (pkgnetLinkDown p k)).evtCount Ev.PKGNET_LINK_DOWN = satAdd64 (b.evtCount Ev.PKGNET_LINK_DOWN) 1 := by
  have heq : pkgnetLinkDown p k b.unposted = _ := pkgnetLinkDown_eq (b := b.unposted) hup hfail
  obtain ⟨-, hevt, hentered, -⟩ := (b.unposted.cutLink p k.val).logAppend_logged .self LogKind.moduleState
    (addrOf p (replayOff p k.val)) 0 1
  constructor
  · obtain ⟨hcycle, -⟩ := b.cycle_spec (pkgnetLinkDown p k) (p := .mod) (o := Reg.MOD_EVT_CFG) (by decide) (by decide)
    refine hcycle.entered.net.trans ((congrArg Block.net heq).trans ?_)
    exact (Block.post_spec _ _ _ _).1.entered.net.trans hentered.net
  · rw [b.cycle_evtCount]
    refine (congrArg (fun x : Block => x.evtCount Ev.PKGNET_LINK_DOWN) heq).trans ?_
    rw [Block.post_evtCount_self]
    exact congrArg (fun x => satAdd64 x 1) (hevt _ (by decide))

end Sys2Proof.Machine
end

section
/-! SUPPORT. Transfers on the package network, from path to delivery. -/

namespace Sys2Proof.Machine

open Sys2Proof

/-- Settles O41: the way of a transfer is taken leg by leg, its crossing by the one lemma on what a transfer alone can do, and a link that
goes down by what its entry and its event leave. -/
theorem networkPathsAreFixed : Obligations.NetworkPathsAreFixed := by
  unfold Obligations.NetworkPathsAreFixed
  refine ⟨fun a z hne => ?_, fun s src dst what fail hr => ⟨fun hclear hw hf => ?_, fun p k hclear hw hf hlink => ?_,
    fun hdown hw hf => ?_, fun w h hfirst hw hctl hcls hat => ?_⟩, fun s p k hr hup hfail => ?_⟩
  · have hval : a.val ≠ z.val := fun e => hne (Fin.ext e)
    obtain ⟨hlast, hnodup⟩ := path_fixed a.isLt z.isLt hval
    exact ⟨hlast, hnodup, fun ha hz => length_path_tiles ha hz hval⟩
  · subst hf
    obtain ⟨n, hn, hdown, hwait, hlast⟩ := pkgnetTransfer_delivers (b := s.block.unposted) (what := what) hw hclear
    exact completes_pkgnetTransfer hr hn rfl ⟨rfl, hlast, hdown, hwait⟩
  · subst hf
    obtain ⟨n, t, hn, hlast, hwait, hstand⟩ := pkgnetTransfer_replays (b := s.block.unposted) (what := what) hw hclear hlink
    exact completes_pkgnetTransfer hr hn rfl ⟨rfl, hlast, ⟨t, hwait, hstand⟩, Block.rd64_count _ p _ 1 (replayOff_lt p k)⟩
  · subst hf
    obtain ⟨n, t, hn, hlast, hwait, hstand⟩ := pkgnetTransfer_waits (b := s.block.unposted) (what := what) hw hdown
    exact completes_pkgnetTransfer hr hn rfl ⟨rfl, hlast, t, hwait, hstand⟩
  · obtain ⟨n, t, hn, hlast, hwait, hstand⟩ := pkgnetTransfer_yields (b := s.block.unposted) fail hfirst hw hctl hcls hat
    exact completes_pkgnetTransfer hr hn rfl ⟨rfl, hlast, t, hwait, hstand⟩
  · obtain ⟨hnet, hevt⟩ := pkgnetLinkDown_cycle hup hfail
    have hends : ∀ q j, (pageIndex q, j) ∈ linkEnds p k.val → (s.block.cycle (pkgnetLinkDown p k)).linkDown q j = true := fun q j h =>
      Block.linkDown_of_mem (hnet ▸ Block.mem_down_cutLink h)
    exact completes_block rfl hr ⟨hends p k.val List.mem_cons_self, fun q j h => hends q j (far_mem_linkEnds h), hevt⟩

end Sys2Proof.Machine
end

section
/-! SUPPORT. Bytes of a record: what a field reads as, and how fields side by side fill the record (R12, R42). -/

namespace Sys2Proof.Machine

open Sys2Proof

@[simp] theorem length_toBytes (n v : Nat) : (toBytes n v).length = n := by simp [toBytes]

theorem toBytes_succ (n v : Nat) : toBytes (n + 1) v = BitVec.ofNat 8 v :: toBytes n (v / 256) := by
  unfold toBytes
  rw [List.range_succ_eq_map, List.map_cons, List.map_map]
  refine congrArg₂ List.cons (by simp) (List.map_congr_left fun i _ => ?_)
  rw [Function.comp_apply, Nat.div_div_eq_div_mul, Nat.succ_eq_add_one, Nat.mul_succ, Nat.pow_add, Nat.mul_comm]

/-- The bytes of a number hold it modulo their width. -/
theorem ofBytes_toBytes (n v : Nat) : ofBytes (toBytes n v) = v % 2 ^ (8 * n) := by
  induction n generalizing v with
  | zero => exact (Nat.mod_one v).symm
  | succ n ih =>
    rw [toBytes_succ, ofBytes, ih, BitVec.toNat_ofNat, Nat.mul_succ, Nat.pow_add, Nat.mul_comm (2 ^ (8 * n)), Nat.mod_mul]

/-- A list of bytes is the bytes of the number it holds. -/
theorem toBytes_ofBytes (l : List Byte) : toBytes l.length (ofBytes l) = l := by
  induction l with
  | nil => rfl
  | cons b l ih =>
    have hb := b.isLt
    rw [List.length_cons, toBytes_succ, ofBytes, show (b.toNat + 256 * ofBytes l) / 256 = ofBytes l by omega, ih]
    refine congrArg (· :: l) (BitVec.eq_of_toNat_eq ?_)
    rw [BitVec.toNat_ofNat]
    omega

/-- `n` bytes of a record from offset `o` on. -/
def bytesAt (l : List Byte) (o n : Nat) : List Byte := (l.drop o).take n

theorem rdLE_eq (l : List Byte) (o n : Nat) : rdLE l o n = ofBytes (bytesAt l o n) := rfl

theorem length_bytesAt {l : List Byte} {o n : Nat} (h : o + n ≤ l.length) : (bytesAt l o n).length = n := by
  rw [bytesAt, List.length_take, List.length_drop]
  omega

/-- The part at the front of a record. -/
theorem bytesAt_append_left {a : List Byte} (l : List Byte) {n : Nat} (h : a.length = n) : bytesAt (a ++ l) 0 n = a :=
  List.take_left' h

/-- Past the part at its front a record is the rest. -/
theorem bytesAt_append_right {a : List Byte} (l : List Byte) {o : Nat} (n : Nat) (h : a.length ≤ o) :
    bytesAt (a ++ l) o n = bytesAt l (o - a.length) n := by
  rw [bytesAt, bytesAt, List.drop_append, List.drop_eq_nil_of_le h, List.nil_append]

/-- Parts side by side join. -/
theorem bytesAt_append_bytesAt (l : List Byte) {o n p : Nat} (m : Nat) (h : o + n = p) :
    bytesAt l o n ++ bytesAt l p m = bytesAt l o (n + m) := by
  subst h
  rw [bytesAt, bytesAt, bytesAt, List.take_add, List.drop_drop]

/-- The number that a word's bytes hold is the word. -/
theorem ofNat_ofBytes_toBytes {n k : Nat} (x : BitVec k) (h : k = 8 * n) : BitVec.ofNat k (ofBytes (toBytes n x.toNat)) = x := by
  subst h
  rw [ofBytes_toBytes, Nat.mod_eq_of_lt x.isLt, BitVec.ofNat_toNat, BitVec.setWidth_eq]

/-- The bytes of a field that was read are the bytes it lies in. -/
theorem toBytes_rdLE {l : List Byte} {o n k : Nat} (hk : k = 8 * n) (h : o + n ≤ l.length) :
    toBytes n (BitVec.ofNat k (rdLE l o n)).toNat = bytesAt l o n := by
  have hback := toBytes_ofBytes (bytesAt l o n)
  have hlt := ofBytes_toBytes n (ofBytes (bytesAt l o n))
  rw [length_bytesAt h] at hback
  rw [hback] at hlt
  rw [BitVec.toNat_ofNat, hk, rdLE_eq, ← hlt, hback]

/-- What is read from the bytes of a record is the record: each field lies past those before it. -/
theorem TaskRec.ofBytes_bytes {r : TaskRec} (h : r.params.length = 32) : TaskRec.ofBytes r.bytes = r := by
  have hend (x : BitVec 24) : bytesAt (toBytes 3 x.toNat) 0 3 = toBytes 3 x.toNat := rfl
  have hparams (l : List Byte) : (l.drop 64).take 32 = bytesAt l 64 32 := rfl
  unfold TaskRec.ofBytes TaskRec.bytes
  simp only [List.append_assoc, rdLE_eq, hparams, bytesAt_append_right, bytesAt_append_left, hend, length_toBytes, h, Nat.reduceLeDiff,
    Nat.reduceSub, Nat.reduceMul, ofNat_ofBytes_toBytes]

/-- The bytes of what is read from 128 bytes are those bytes: the fields lie side by side and fill them. -/
theorem TaskRec.bytes_ofBytes {l : List Byte} (h : l.length = 128) : (TaskRec.ofBytes l).bytes = l := by
  have hparams : (l.drop 64).take 32 = bytesAt l 64 32 := rfl
  unfold TaskRec.bytes TaskRec.ofBytes
  simp only [toBytes_rdLE, hparams, h, Nat.reduceMul, Nat.reduceAdd, Nat.reduceLeDiff, bytesAt_append_bytesAt]
  rw [bytesAt, List.drop_zero, ← h, List.take_length]

/-- Settles O8: each field of the record lies past those before it, and the fields side by side fill the 128 bytes. -/
theorem taskRecordRoundTrip : Obligations.TaskRecordRoundTrip := by
  unfold Obligations.TaskRecordRoundTrip
  exact ⟨fun _ => TaskRec.ofBytes_bytes, fun _ => TaskRec.bytes_ofBytes⟩

end Sys2Proof.Machine
end

section
/-! SUPPORT. Where module addresses lead: what two modules must share for an address to lead to the same place, and what a store leaves
to be read (R223, R279). -/

namespace Sys2Proof.Machine

open Sys2Proof

/-- What of a page-table entry decides where an address of its page leads. -/
def Pte.place (e : Pte) : Bool × Bool × Bool × Nat × Nat × Nat := (e.valid, e.moving, e.resident, e.stack, e.frame, e.farFrame)

/-- Two modules in which every address leads to the same place. -/
structure Block.SameMap (a b : Block) : Prop where
  allocs : ∀ t, (b.tile t).allocs = (a.tile t).allocs
  place : ∀ v, (b.pte v).place = (a.pte v).place
  farDown : b.hbm.farDown = a.hbm.farDown
  coreOn : ∀ c, b.coreOn c = a.coreOn c
  farFrames : b.farFrames = a.farFrames

theorem Block.SameMap.refl (a : Block) : a.SameMap a := ⟨fun _ => rfl, fun _ => rfl, rfl, fun _ => rfl, rfl⟩

theorem Block.SameMap.trans {a b c : Block} (h : a.SameMap b) (k : b.SameMap c) : a.SameMap c :=
  ⟨fun t => (k.allocs t).trans (h.allocs t), fun v => (k.place v).trans (h.place v), k.farDown.trans h.farDown,
    fun x => (k.coreOn x).trans (h.coreOn x), k.farFrames.trans h.farFrames⟩

theorem Block.SameMap.resolve {a b : Block} (h : a.SameMap b) (x : Nat) : b.resolve x = a.resolve x := by
  have hp := h.place (pageOf x)
  simp only [Pte.place, Prod.mk.injEq] at hp
  obtain ⟨hvalid, hmoving, hres, hstack, hframe, -⟩ := hp
  unfold Block.resolve Block.slabAlloc?
  simp only [h.allocs, h.coreOn, h.farFrames, h.farDown, hvalid, hmoving, hres, hstack, hframe]

theorem Block.SameMap.resolveOwn {a b : Block} (h : a.SameMap b) (x : Nat) : b.resolveOwn x = a.resolveOwn x := by
  unfold Block.resolveOwn
  rw [h.resolve]
  cases a.resolve x with
  | phys k => rfl
  | farDown => rfl
  | unmapped => rfl
  | nonResident v =>
    have hp := h.place v
    simp only [Pte.place, Prod.mk.injEq] at hp
    simp only [hp]
  | moving v =>
    have hp := h.place v
    simp only [Pte.place, Prod.mk.injEq] at hp
    simp only [hp]

theorem Block.SameMap.recordFits {a b : Block} (h : a.SameMap b) (x n : Nat) : b.recordFits x n = a.recordFits x n := by
  unfold Block.recordFits
  simp only [h.resolveOwn]

theorem Block.SameMap.probe {a b : Block} (h : a.SameMap b) (x n : Nat) : b.probe x n = a.probe x n := by
  unfold Block.probe
  simp only [h.resolve]

/-- Where the map is the same and memory too, the bytes are the same. -/
theorem Block.SameMap.bytes {a b : Block} (h : a.SameMap b) (hm : b.mem = a.mem) (hd : b.memDef = a.memDef) (x n : Nat) :
    b.bytes x n = a.bytes x n := by
  unfold Block.bytes Block.physBytes
  simp only [h.resolveOwn, hm, hd]

/-- Where nothing but register words other than those of the core map and the far tier changed, the map is the same. -/
theorem Block.sameMap_of_regs {a b : Block} (hb : b = { a with regs := b.regs })
    (hcore : ∀ i < 4, b.rd .mod (Reg.MOD_CORE_MAP i) = a.rd .mod (Reg.MOD_CORE_MAP i))
    (hcap : b.rd .cxl Reg.CXL_CAPACITY = a.rd .cxl Reg.CXL_CAPACITY)
    (hfar : b.rd .cxl Reg.CXL_PAGING_FRAMES = a.rd .cxl Reg.CXL_PAGING_FRAMES) : a.SameMap b := by
  refine ⟨fun t => by rw [hb]; rfl, fun v => by rw [hb]; rfl, by rw [hb], fun c => ?_, ?_⟩
  · unfold Block.coreOn
    rw [hcore _ (by omega)]
  · unfold Block.farFrames Block.rdN
    rw [hcap, hfar]

/-- A block that differs in no register word, tile's allocations or page leads addresses to the same places. -/
theorem Block.sameMap_of_same {a b : Block} (hr : b.regs = a.regs) (ht : b.tiles = a.tiles) (hh : b.hbm = a.hbm) : a.SameMap b := by
  have hrd := Block.rd_of_regs hr
  refine ⟨fun t => by unfold Block.tile; rw [ht], fun v => by unfold Block.pte; rw [hh], by rw [hh], fun c => ?_, ?_⟩
  · unfold Block.coreOn
    rw [hrd]
  · unfold Block.farFrames Block.rdN
    rw [hrd, hrd]

theorem Block.sameMap_wr (b : Block) (p : Page) (o : Nat) (v : Word) (hmod : p ≠ .mod) (hcxl : p ≠ .cxl) (ho : o < 4096) :
    b.SameMap (b.wr p o v) := by
  refine Block.sameMap_of_regs rfl (fun i hi => b.rd_wr_other v ho ?_ (.inl hmod.symm)) (b.rd_wr_other v ho (by decide) (.inl hcxl.symm))
    (b.rd_wr_other v ho (by decide) (.inl hcxl.symm))
  unfold Reg.MOD_CORE_MAP
  omega

theorem Block.sameMap_setTile (b : Block) (t : Nat) (x : TileSt) (h : x.allocs = (b.tile t).allocs) : b.SameMap (b.setTile t x) := by
  refine ⟨fun w => ?_, fun _ => rfl, rfl, fun _ => rfl, rfl⟩
  rw [Block.tile_setTile]
  split
  · next e => rw [h, e]
  · rfl

theorem Block.sameMap_setPte (b : Block) (v : Nat) (x : Pte) (h : x.place = (b.pte v).place) : b.SameMap (b.setPte v x) := by
  refine ⟨fun _ => rfl, fun w => ?_, rfl, fun _ => rfl, rfl⟩
  rw [Block.pte_setPte]
  split
  · next e => rw [h, e]
  · rfl

theorem Block.sameMap_setStk (b : Block) (i : Nat) (x : StackSt) : b.SameMap (b.setStk i x) :=
  Block.sameMap_of_same rfl rfl rfl

theorem Block.sameMap_setUnit (b : Block) (u : UnitId) (x : UnitSt) : b.SameMap (b.setUnit u x) :=
  Block.sameMap_of_same rfl rfl rfl

theorem Block.sameMap_pokePhys (b : Block) (k : Nat) (l : List Byte) : b.SameMap (b.pokePhys k l) :=
  Block.sameMap_of_same rfl rfl rfl

theorem Block.sameMap_foldl {ι : Type} {f : Block → ι → Block} (h : ∀ (x : Block) (i : ι), x.SameMap (f x i)) (l : List ι) (b : Block) :
    b.SameMap (l.foldl f b) := by
  induction l generalizing b with
  | nil => exact .refl b
  | cons i l ih => exact (h b i).trans (ih _)

theorem Block.sameMap_markHbm (b : Block) (a n : Nat) (w : Bool) : b.SameMap (b.markHbm a n w) := by
  have hset : ∀ x : Pte, x.place = (b.pte (pageOf a)).place → b.SameMap (b.setPte (pageOf a) x) := b.sameMap_setPte _
  unfold Block.markHbm
  dsimp only
  split
  · split
    · split
      · refine Block.SameMap.trans ?_ (Block.sameMap_setStk _ _ _)
        exact hset _ rfl
      · exact hset _ rfl
    · exact .refl b
  · exact .refl b

theorem Block.sameMap_setQueue (b : Block) (st : Nat) (s : StackSt) : b.SameMap (b.setQueue st s) :=
  (b.sameMap_setStk st s).trans (Block.sameMap_wr _ _ _ _ (by simp) (by simp) (by decide))

theorem Block.sameMap_queueSlot (b : Block) (st : Nat) (q : SlotReq) : b.SameMap (b.queueSlot st q) := by
  unfold Block.queueSlot
  exact b.sameMap_setQueue st _

theorem Block.sameMap_queueSlots (b : Block) (l : List (Nat × SlotReq)) : b.SameMap (b.queueSlots l) := by
  unfold Block.queueSlots
  refine Block.sameMap_foldl ?_ l b
  exact fun x p => x.sameMap_queueSlot p.1 p.2

theorem Block.sameMap_freezeReads (b : Block) (k n : Nat) : b.SameMap (b.freezeReads k n) := by
  unfold Block.freezeReads
  dsimp only
  split
  · exact .refl b
  · split
    · exact .refl b
    · exact b.sameMap_setStk _ _

theorem Block.sameMap_lookup (b : Block) (die a : Nat) : b.SameMap (b.lookup die a) := by
  unfold Block.lookup
  dsimp only
  split
  · exact .refl b
  · split
    · exact .refl b
    · refine Block.SameMap.trans ?_ (Block.sameMap_queueSlot _ _ _)
      exact ⟨fun _ => rfl, fun _ => rfl, rfl, fun _ => rfl, rfl⟩

theorem Block.sameMap_lookups (b : Block) (die : Nat) (l : List (Nat × Nat)) : b.SameMap (b.lookups die l) := by
  unfold Block.lookups
  refine Block.sameMap_foldl ?_ _ b
  exact fun x p => x.sameMap_lookup die p.1

theorem Block.sameMap_storeAs (b : Block) (owner : SlotOwner) (u d g a : Nat) (l : List Byte) : b.SameMap (b.storeAs owner u d g a l) := by
  refine Block.sameMap_foldl (fun x p => ?_) _ b
  split
  · exact (((x.sameMap_freezeReads _ _).trans (Block.sameMap_pokePhys _ _ _)).trans (Block.sameMap_markHbm _ _ _ _)).trans
      (Block.sameMap_queueSlots _ _)
  · exact .refl x

theorem Block.sameMap_dropLines (b : Block) (t h a n : Nat) : b.SameMap (b.dropLines t h a n) := by
  unfold Block.dropLines
  dsimp only
  split
  · exact .refl b
  · exact b.sameMap_setTile _ _ rfl

/-! ## Reading what was stored -/

/-- A range that crosses no multiple of the granule is one piece. -/
theorem pieces_single {g a n : Nat} (hg : 0 < g) (hn : 0 < n) (h : a / g = (a + n - 1) / g) : pieces g a n = [(a, n)] := by
  have hlo : a / g * g ≤ a := Nat.div_mul_le_self a g
  have hhi : a + n ≤ (a / g + 1) * g := by
    have hlt := Nat.lt_div_mul_add (a := a + n - 1) hg
    rw [← h] at hlt
    rw [Nat.succ_mul]
    omega
  unfold pieces
  rw [if_neg (by omega), ← h, Nat.sub_self]
  simp only [Nat.zero_add, List.range_one, List.map_cons, List.map_nil, Nat.add_zero, Nat.max_eq_left hlo, Nat.min_eq_left hhi,
    Nat.add_sub_cancel_left]

/-- The bytes that a poke leaves at a physical address. -/
theorem Block.physBytes_pokePhys (b : Block) (k : Nat) (l : List Byte) : (b.pokePhys k l).physBytes k l.length = l := by
  unfold Block.physBytes Sparse.getList
  refine List.ext_getElem (by simp) fun i h1 h2 => ?_
  rw [List.getElem_map, List.getElem_range, Block.memDef_pokePhys,
    show (b.pokePhys k l).mem = Sparse.putList b.memDef b.mem k l from rfl, Sparse.get_putList, if_pos (by omega),
    Nat.add_sub_cancel_left, List.getD_eq_getElem _ _ h2]

/-- What is stored at an address of one granule that resolves is read there. -/
theorem Block.bytes_storeAs {b : Block} {a k : Nat} {l : List Byte} (owner : SlotOwner) (u d g : Nat) (hn : 0 < l.length)
    (hone : a / 65536 = (a + l.length - 1) / 65536) (hk : b.resolveOwn a = .phys k) :
    (b.storeAs owner u d g a l).bytes a l.length = l := by
  have hmap := b.sameMap_storeAs owner u d g a l
  have hpieces := pieces_single (by decide) hn hone
  unfold Block.bytes
  rw [hpieces, List.flatMap_singleton, hmap.resolveOwn, hk]
  unfold Block.storeAs
  rw [hpieces, List.foldl_cons, List.foldl_nil, hk]
  dsimp only
  rw [Nat.sub_self, List.drop_zero, List.take_length]
  unfold Block.physBytes
  rw [(Block.mem_queueSlots _ _).1, (Block.mem_queueSlots _ _).2, (Block.mem_markHbm _ _ _ _).1, (Block.mem_markHbm _ _ _ _).2]
  exact (b.freezeReads k l.length).physBytes_pokePhys k l

end Sys2Proof.Machine
end

section
/-! SUPPORT. Semaphores: their values, and how a field is translated (R59 to R62, R490). -/

namespace Sys2Proof.Machine

open Sys2Proof

/-! ## Values -/

theorem sideWord_sem (u : UnitId) {o : Nat} (h : o ≠ Reg.CHANGE_SEQ) : sideWord (.sem u) o = false := by
  simp [sideWord, eventWord, onStackPage, h]

theorem semPhys_lt {p : Nat} (h : p < 64) : Reg.SEM_PHYS p < 4096 := by
  unfold Reg.SEM_PHYS
  omega

theorem sideWord_semPhys (c : Fin 128) (p : Nat) : sideWord (.sem (.core c)) (Reg.SEM_PHYS p) = false :=
  sideWord_sem _ (show 0x100 + 4 * p ≠ 0x020 by omega)

theorem Block.semVal_eq (b : Block) (c : Fin 128) (p : Nat) : b.semVal c.val p = b.rdN (.sem (.core c)) (Reg.SEM_PHYS p) := by
  unfold Block.semVal
  rw [dif_pos c.isLt]

/-- A semaphore has its value where its word is as it was. -/
theorem Block.semVal_congr {a b : Block} {c p : Nat}
    (h : ∀ d : Fin 128, b.rd (.sem (.core d)) (Reg.SEM_PHYS p) = a.rd (.sem (.core d)) (Reg.SEM_PHYS p)) : b.semVal c p = a.semVal c p := by
  unfold Block.semVal Block.rdN
  simp only [h]

theorem Block.semVal_of_regs {a b : Block} (h : b.regs = a.regs) (c p : Nat) : b.semVal c p = a.semVal c p :=
  Block.semVal_congr fun _ => Block.rd_of_regs h _ _

/-- What events and entries of the log write is no semaphore. -/
theorem Block.Logged.semVal {a b : Block} (h : a.Logged b) (c : Nat) {p : Nat} (hp : p < 64) : b.semVal c p = a.semVal c p := by
  obtain ⟨hrd, -, -, -⟩ := h
  exact Block.semVal_congr fun d => hrd _ _ (semPhys_lt hp) (sideWord_semPhys d p)

theorem Block.addSem_eq (b : Block) (c : Fin 128) (p inc : Nat) :
    b.addSem c.val p inc = b.wrN (.sem (.core c)) (Reg.SEM_PHYS p) (b.semVal c.val p + inc) := by
  unfold Block.addSem Block.setSem
  rw [dif_pos c.isLt]

theorem Block.addSem_regs (b : Block) (c p inc : Nat) : b.addSem c p inc = { b with regs := (b.addSem c p inc).regs } := by
  unfold Block.addSem Block.setSem
  split <;> rfl

/-- A signal adds its increment modulo 2³² (R62). -/
theorem Block.semVal_addSem (b : Block) (c : Fin 128) (p inc : Nat) :
    (b.addSem c.val p inc).semVal c.val p = (b.semVal c.val p + inc) % 2 ^ 32 := by
  rw [b.addSem_eq, Block.semVal_eq, Block.rdN_wrN_self]

/-! ## The translation of a field -/

/-- A translation changes no more than the caches of the die hubs. -/
theorem Block.xlatWord_snd (b : Block) (u : UnitId) (ctx id : Nat) :
    (b.xlatWord u ctx id).2 = { b with tiles := (b.xlatWord u ctx id).2.tiles } := by
  unfold Block.xlatWord
  dsimp only
  repeat' split
  all_goals rfl

theorem Block.translate_snd (b : Block) (u : UnitId) (ctx : Nat) (w : Bool) (f : Nat) :
    (b.translate u ctx w f).2 = { b with tiles := (b.translate u ctx w f).2.tiles } := by
  unfold Block.translate
  dsimp only
  split
  · rfl
  · split <;> exact b.xlatWord_snd u ctx _

theorem Block.semRef_snd (b : Block) (u : UnitId) (f : Nat) : (b.semRef u f).2 = { b with tiles := (b.semRef u f).2.tiles } := by
  unfold Block.semRef
  split
  · rfl
  · exact b.translate_snd u _ _ f

/-- Two modules in which every semaphore field of a unit is translated alike: the map and memory are the same, the hubs' caches, and the
words of the modes, bases and the unit's context. -/
structure Block.SameXlat (u : UnitId) (a b : Block) : Prop where
  map : a.SameMap b
  mem : b.mem = a.mem
  memDef : b.memDef = a.memDef
  tiles : b.tiles = a.tiles
  mode : b.fixedMode = a.fixedMode
  context : b.context u = a.context u
  moduleId : b.moduleId = a.moduleId
  base : ∀ ctx, b.rd64 (.sem .wholeModule) (Reg.SEM_XLAT_BASE (ctx % 8)) = a.rd64 (.sem .wholeModule) (Reg.SEM_XLAT_BASE (ctx % 8))

theorem Block.SameXlat.xlatWord {a b : Block} {u : UnitId} (h : a.SameXlat u b) (ctx id : Nat) :
    (b.xlatWord u ctx id).1 = (a.xlatWord u ctx id).1 := by
  have htile : ∀ t, b.tile t = a.tile t := fun t => by unfold Block.tile; rw [h.tiles]
  have hread : ∀ x, b.recordFits x 4 = a.recordFits x 4 ∧ b.num x 4 = a.num x 4 := fun x =>
    ⟨h.map.recordFits x 4, congrArg ofBytes (h.map.bytes h.mem h.memDef x 4)⟩
  unfold Block.xlatWord
  simp only [h.base, htile, hread]
  split
  · rfl
  · split
    · rfl
    · split <;> rfl

theorem Block.SameXlat.translate {a b : Block} {u : UnitId} (h : a.SameXlat u b) (ctx : Nat) (w : Bool) (f : Nat) :
    (b.translate u ctx w f).1 = (a.translate u ctx w f).1 := by
  unfold Block.translate
  simp only [h.mode, h.moduleId, h.map.coreOn, h.xlatWord]
  split
  · rfl
  · split <;> rfl

theorem Block.SameXlat.semRef {a b : Block} {u : UnitId} (h : a.SameXlat u b) (f : Nat) : (b.semRef u f).1 = (a.semRef u f).1 := by
  unfold Block.semRef
  rw [h.mode, h.context]
  split
  · rfl
  · exact h.translate _ _ f

theorem Block.sameXlat_unposted (b : Block) (u : UnitId) : b.SameXlat u b.unposted :=
  ⟨Block.sameMap_of_same rfl rfl rfl, rfl, rfl, rfl, rfl, rfl, rfl, fun _ => rfl⟩

/-- A word of a SEM page that holds neither the mode nor a base takes no part in translation. -/
theorem Block.sameXlat_wr (b : Block) (u v : UnitId) {o : Nat} (w : Word) (ho : o < 4096) (hmode : o ≠ Reg.SEM_MODE)
    (hbase : ∀ n < 8, o ≠ Reg.SEM_XLAT_BASE n ∧ o ≠ Reg.SEM_XLAT_BASE n + 4) : b.SameXlat u (b.wr (.sem v) o w) := by
  have hrd : ∀ {q : Page} {r : Nat}, r < 4096 → (q ≠ .sem v ∨ r ≠ o) → (b.wr (.sem v) o w).rd q r = b.rd q r :=
    fun hr h => b.rd_wr_other w ho hr h
  have hbaselt : ∀ n < 8, Reg.SEM_XLAT_BASE n + 4 < 4096 := fun n hn => by unfold Reg.SEM_XLAT_BASE; omega
  refine ⟨b.sameMap_wr _ _ _ (by simp) (by simp) ho, rfl, rfl, rfl, ?_, ?_, ?_, fun ctx => ?_⟩
  · unfold Block.fixedMode
    rw [hrd (by decide) (.inr hmode.symm)]
  · unfold Block.context
    rw [hrd (by decide) (.inl (by simp))]
  · unfold Block.moduleId Block.rdN
    rw [hrd (by decide) (.inl (by simp))]
  · have hlt := hbaselt _ (Nat.mod_lt ctx (by decide : 0 < 8))
    obtain ⟨hlo, hhi⟩ := hbase _ (Nat.mod_lt ctx (by decide : 0 < 8))
    exact Block.rd64_other _ (hrd (by omega) (.inr hlo.symm)) (hrd hlt (.inr hhi.symm))

/-- A translated reference names one of a core's 64 semaphores. -/
theorem Block.translate_phys {b : Block} {u : UnitId} {ctx : Nat} {w : Bool} {f : Nat} {x : SemRef}
    (h : (b.translate u ctx w f).1 = some x) : x.phys < 64 := by
  have hsome : ∀ {q : Prop} [Decidable q] {y : SemRef}, (if q then some y else none) = some x → y = x := fun h => by
    rw [Option.ite_none_right_eq_some] at h
    exact Option.some.inj h.2
  unfold Block.translate at h
  cases hm : b.fixedMode with
  | true =>
    rw [if_pos hm] at h
    rw [← hsome h]
    exact Nat.mod_lt _ (by decide)
  | false =>
    rw [if_neg (by rw [hm]; decide)] at h
    cases hw : (b.xlatWord u ctx (f % 4096)).1 with
    | none => simp [hw] at h
    | some v =>
      simp only [hw] at h
      rw [← hsome h]
      exact Nat.mod_lt _ (by decide)

theorem Block.semRef_phys {b : Block} {u : UnitId} {f : Nat} {x : SemRef} (h : (b.semRef u f).1 = some x) : x.phys < 64 := by
  unfold Block.semRef at h
  split at h
  · cases h
  · exact Block.translate_phys h

/-! ## Writes that make no entry -/

theorem Block.wr_eq (b : Block) (p : Page) (o : Nat) (v : Word) : b.wr p o v = { b with regs := (b.wr p o v).regs } := rfl

/-- The mark of a digest word is a register word. -/
theorem Block.noteDigest_eq (b old : Block) (k : Nat) : b.noteDigest old k = { b with regs := (b.noteDigest old k).regs } := by
  rcases b.noteDigest_cases old k with e | e <;> rw [e]
  exact b.wr_eq .pel Reg.PEL_DIGEST_STAT _

/-- A write that makes no entry and raises no event completes with its effect, the mark of a digest word aside. -/
theorem completes_unlogged {c : Instr} {s : State} {o : Origin} {p : Page} {off : Nat} {eff : Block → Block} {P : Block → Prop}
    (he : exec c s = s.onWrite o (fun b => b.gate o p off .none eff)) (ht : s.takes o p off = true)
    (hq : (eff s.block.unposted).posted = [])
    (hp : ∀ b : Block, (eff s.block.unposted).Logged b → b = { eff s.block.unposted with regs := b.regs, posted := b.posted } → P b) :
    Completes c s P := by
  simp only [State.takes, Bool.and_eq_true] at ht
  obtain ⟨hd, ha⟩ := ht
  have hg : s.block.unposted.gate o p off .none eff = (eff s.block.unposted).noteDigest s.block.unposted (addrOf p off) :=
    Block.gate_none_of_admits (b := s.block.unposted) eff ha
  have hmark := (eff s.block.unposted).noteDigest_eq s.block.unposted (addrOf p off)
  have hnote := (eff s.block.unposted).noteDigest_logged s.block.unposted (addrOf p off)
  refine ⟨_, he.trans (State.onWrite_next _ _ _ hd), ?_⟩
  rw [Block.cycle_of_unposted hg (by rw [hmark]; exact hq)]
  refine hp _ (hnote.trans (Block.logged_posted _ _)) ?_
  rw [hmark]

end Sys2Proof.Machine
end

section
/-! SUPPORT. Semaphores as registers and signals: what each of their commands leaves (R59 to R62, R490). -/

namespace Sys2Proof.Machine

open Sys2Proof

/-! ## Signals (R62) -/

theorem completes_semaphoreSignal {s : State} {c : Fin 128} {p : Fin 64} {inc : Half} (hr : s.block.running = true)
    (hon : s.block.coreOn c = true) : Completes (.semaphoreSignal c p inc) s (fun b =>
      b.semVal c.val p.val = (s.block.semVal c.val p.val + inc.toNat) % 2 ^ 32 ∧ b = { s.block with regs := b.regs } ∧
      ∀ q r, r < 4096 → (q ≠ .sem (.core c) ∨ r ≠ Reg.SEM_PHYS p.val) → b.rd q r = s.block.rd q r) := by
  have hf : semaphoreSignal c p inc s.block.unposted = s.block.unposted.addSem c.val p.val inc.toNat := if_pos hon
  have hsame := s.block.unposted.addSem_regs c.val p.val inc.toNat
  refine completes_block rfl hr ?_
  rw [Block.cycle_of_unposted hf (by rw [hsame]; rfl)]
  refine ⟨s.block.unposted.semVal_addSem c p.val inc.toNat, by rw [hsame]; rfl, fun q r hlt h => ?_⟩
  have hrd : (s.block.unposted.addSem c.val p.val inc.toNat).rd q r = s.block.rd q r := by
    rw [Block.addSem_eq]
    exact Block.rd_wrN_other _ _ (semPhys_lt p.isLt) hlt h
  exact hrd

/-- A step that does nothing leaves the state. -/
theorem State.onBlock_id {s : State} {f : Block → Block} (h : f s.block.unposted = s.block.unposted) : s.onBlock f = .next s := by
  unfold State.onBlock
  split
  · rw [Block.cycle_of_unposted h rfl]
    rfl
  · rfl

theorem exec_semaphoreSignal_absent {s : State} {c : Fin 128} (p : Fin 64) (inc : Half) (hoff : s.block.coreOn c = false) :
    exec (.semaphoreSignal c p inc) s = .next s :=
  State.onBlock_id (f := semaphoreSignal c p inc) (if_neg (by rw [show s.block.unposted.coreOn c = false from hoff]; decide))

theorem completes_semPhysWrite {s : State} {o : Origin} {c : Fin 128} {p : Fin 64} {v : Word}
    (ht : s.takes o (.sem (.core c)) (Reg.SEM_PHYS p.val) = true) :
    Completes (.semPhysWrite o c p v) s (fun b => b.semVal c.val p.val = v.toNat ∧
      (s.block.wr (.sem (.core c)) (Reg.SEM_PHYS p.val) v).Logged b) := by
  refine completes_takes rfl ht fun b hb => ⟨?_, Block.logged_of_wr hb⟩
  rw [hb.semVal c.val p.isLt, Block.semVal_eq, Block.rdN, Block.rd_wr_self]

/-! ## SEM_SIG and SEM_READ_SEL (R490) -/

/-- The reference that a field of a unit is translated to. -/
def Block.refOf (b : Block) (u : UnitId) (f : Nat) : Option SemRef := (b.semRef u f).1

theorem Block.sigWrite_here {b : Block} {u : UnitId} {v : Word} {x : SemRef} (hx : b.refOf u (wfield v 15 0) = some x)
    (hh : x.here = true) : b.sigWrite u v = (b.semRef u (wfield v 15 0)).2.addSem x.core x.phys (wfield v 31 16) := by
  unfold Block.sigWrite
  dsimp only
  rw [show (b.semRef u (wfield v 15 0)).1 = some x from hx]
  unfold Block.signalSem
  exact if_pos hh

theorem Block.sigWrite_none {b : Block} {u : UnitId} {v : Word} (hx : b.refOf u (wfield v 15 0) = none) :
    b.sigWrite u v = (b.semRef u (wfield v 15 0)).2.post Ev.SEM_XLAT_FAULT (.sem u) 0 := by
  unfold Block.sigWrite
  dsimp only
  rw [show (b.semRef u (wfield v 15 0)).1 = none from hx]

theorem completes_semSig_here {s : State} {o : Origin} {u : UnitId} {v : Word} (ht : s.takes o (.sem u) Reg.SEM_SIG = true) {x : SemRef}
    (hx : s.block.refOf u (wfield v 15 0) = some x) (hh : x.here = true) (hc : x.core < 128) (hp : x.phys < 64) :
    Completes (.semSig o u v) s (fun b =>
      b.semVal x.core x.phys = (s.block.semVal x.core x.phys + wfield v 31 16) % 2 ^ 32 ∧ b.mem = s.block.mem) := by
  have hf := Block.sigWrite_here (b := s.block.unposted) (((s.block.sameXlat_unposted u).semRef _).trans hx) hh
  have hsnd := s.block.unposted.semRef_snd u (wfield v 15 0)
  generalize (s.block.unposted.semRef u (wfield v 15 0)).2 = y at hf hsnd
  have hadd := y.addSem_regs x.core x.phys (wfield v 31 16)
  refine completes_unlogged rfl ht (by rw [hf, hadd, hsnd]; rfl) fun b hl hb => ⟨?_, ?_⟩
  · rw [hl.semVal x.core hp, hf, y.semVal_addSem ⟨x.core, hc⟩,
      show y.semVal x.core x.phys = s.block.semVal x.core x.phys from Block.semVal_of_regs (by rw [hsnd]; rfl) _ _]
  · rw [hb, hf, hadd, hsnd]
    rfl

theorem completes_semSig_none {s : State} {o : Origin} {u : UnitId} {v : Word} (ht : s.takes o (.sem u) Reg.SEM_SIG = true)
    (hx : s.block.refOf u (wfield v 15 0) = none) : Completes (.semSig o u v) s (fun b =>
      b.evtCount Ev.SEM_XLAT_FAULT = satAdd64 (s.block.evtCount Ev.SEM_XLAT_FAULT) 1 ∧
      ∀ c p, c < 128 → p < 64 → b.semVal c p = s.block.semVal c p) := by
  have hf := Block.sigWrite_none (b := s.block.unposted) (((s.block.sameXlat_unposted u).semRef _).trans hx)
  have hsnd := s.block.unposted.semRef_snd u (wfield v 15 0)
  generalize (s.block.unposted.semRef u (wfield v 15 0)).2 = y at hf hsnd
  refine completes_takes rfl ht fun b hl => ?_
  rw [hf] at hl
  refine ⟨?_, fun c p _ hp => ?_⟩
  · rw [hl.2.1 _ (by decide), Block.post_evtCount_self]
    exact congrArg (fun n => satAdd64 n 1) (Block.evtCount_of_evt (by rw [hsnd]; rfl) _)
  · rw [hl.semVal c hp]
    exact Block.semVal_of_regs (by rw [(Block.post_spec _ _ _ _).2, hsnd]; rfl) _ _

end Sys2Proof.Machine
end

section
namespace Sys2Proof.Machine

open Sys2Proof

/-- The row of SEM_READ_SEL. -/
def readSelRow : RegDef := ⟨"SEM_READ_SEL", 0x048, 1, 4, false, .rw, 0xFFFF, 0x0, false⟩

theorem regAt_readSel (u : UnitId) : regAt? (.sem u) Reg.SEM_READ_SEL = some readSelRow := by cases u <;> rfl

/-- The two halves of a word make the word. -/
theorem toNat_eq_halves (w : Word) : w.toNat = wfield w 15 0 + 2 ^ 16 * wfield w 31 16 := by
  have h := w.isLt
  unfold wfield field
  omega

/-- What a write of SEM_READ_SEL stores where the bits that no field has are 0. -/
theorem toNat_fieldWrite_readSel (u : UnitId) {old : Word} (v : Word) (h : wfield old 31 16 = 0) :
    (fieldWrite readSelRow (.sem u) Reg.SEM_READ_SEL old v).toNat = wfield v 15 0 := by
  have hacc : readSelRow.acc = .rw := rfl
  have hlow := wfield_fieldWrite_rw hacc (hi := 15) (lo := 0) (by decide) (.sem u) Reg.SEM_READ_SEL old v
  rw [show storedAs (.sem u) Reg.SEM_READ_SEL (v &&& BitVec.ofNat 32 readSelRow.mask) = v &&& BitVec.ofNat 32 readSelRow.mask from rfl,
    wfield_and_mask (by decide)] at hlow
  have hhigh : wfield (fieldWrite readSelRow (.sem u) Reg.SEM_READ_SEL old v) 31 16 = wfield old 31 16 := by
    refine wfield_congr fun i hl hu => ?_
    rw [getLsbD_fieldWrite_rw hacc _ _ _ _ (by omega), if_neg]
    show ¬ (2 ^ 16 - 1).testBit i = true
    rw [Nat.testBit_two_pow_sub_one, decide_eq_true_eq]
    omega
  rw [toNat_eq_halves, hlow, hhigh, h]
  rfl

/-- What SEM_READ_VAL shows of a reference: the value of a semaphore of this module, and 0 of no other. -/
def Block.shown (b : Block) : Option SemRef → Nat
  | some x => if x.here then b.semVal x.core x.phys else 0
  | none => 0

theorem Block.semVal_lt (b : Block) (c p : Nat) : b.semVal c p < 2 ^ 32 := by
  unfold Block.semVal
  split
  · exact BitVec.isLt _
  · decide

theorem Block.semRead_eq (b : Block) (u : UnitId) : b.semRead u =
    (b.shown (b.refOf u (b.rdN (.sem u) Reg.SEM_READ_SEL)), (b.semRef u (b.rdN (.sem u) Reg.SEM_READ_SEL)).2) := by
  have hsnd := b.semRef_snd u (b.rdN (.sem u) Reg.SEM_READ_SEL)
  have hval : ∀ c p, (b.semRef u (b.rdN (.sem u) Reg.SEM_READ_SEL)).2.semVal c p = b.semVal c p :=
    fun c p => Block.semVal_of_regs (by rw [hsnd]) c p
  unfold Block.semRead Block.refOf
  dsimp only
  cases (b.semRef u (b.rdN (.sem u) Reg.SEM_READ_SEL)).1 with
  | none => rfl
  | some x =>
    dsimp only [Block.shown]
    rw [hval]
    split <;> rfl

/-- Selecting a semaphore changes no semaphore. -/
theorem Block.semVal_wr_readSel (b : Block) (u : UnitId) (w : Word) (c : Nat) {p : Nat} (hp : p < 64) :
    (b.wr (.sem u) Reg.SEM_READ_SEL w).semVal c p = b.semVal c p :=
  Block.semVal_congr fun _ => b.rd_wr_other w (by decide) (semPhys_lt hp) (.inr (show 0x100 + 4 * p ≠ 0x048 by omega))

theorem Block.shown_wr_readSel (b : Block) (u : UnitId) (w : Word) {f : Nat} :
    (b.wr (.sem u) Reg.SEM_READ_SEL w).shown (b.refOf u f) = b.shown (b.refOf u f) := by
  cases hx : b.refOf u f with
  | none => rfl
  | some x =>
    dsimp only [Block.shown]
    rw [b.semVal_wr_readSel u w x.core (Block.semRef_phys hx)]

theorem completes_semReadSelWrite {s : State} {o : Origin} {u : UnitId} {v : Word} (ht : s.takes o (.sem u) Reg.SEM_READ_SEL = true)
    (h0 : wfield (s.block.rd (.sem u) Reg.SEM_READ_SEL) 31 16 = 0) : Completes (.semReadSelWrite o u v) s (fun b =>
      b.rdN (.sem u) Reg.SEM_READ_VAL = s.block.shown (s.block.refOf u (wfield v 15 0)) ∧
      b.rdN (.sem u) Reg.SEM_READ_SEL = wfield v 15 0 ∧ b.mem = s.block.mem) := by
  have hnat := toNat_fieldWrite_readSel u v h0
  generalize hw : fieldWrite readSelRow (.sem u) Reg.SEM_READ_SEL (s.block.rd (.sem u) Reg.SEM_READ_SEL) v = w at hnat
  have hsel : s.block.unposted.writeFields (.sem u) Reg.SEM_READ_SEL v = s.block.unposted.wr (.sem u) Reg.SEM_READ_SEL w := by
    rw [Block.writeFields_eq_wr _ (regAt_readSel u), ← hw]
    rfl
  have hrd : (s.block.unposted.wr (.sem u) Reg.SEM_READ_SEL w).rdN (.sem u) Reg.SEM_READ_SEL = wfield v 15 0 := by
    rw [Block.rdN, Block.rd_wr_self, hnat]
  have href : (s.block.unposted.wr (.sem u) Reg.SEM_READ_SEL w).refOf u (wfield v 15 0) = s.block.refOf u (wfield v 15 0) :=
    ((s.block.unposted.sameXlat_wr u u w (by decide) (by decide) (by decide)).semRef _).trans ((s.block.sameXlat_unposted u).semRef _)
  have hread := (s.block.unposted.wr (.sem u) Reg.SEM_READ_SEL w).semRead_eq u
  have hsnd := (s.block.unposted.wr (.sem u) Reg.SEM_READ_SEL w).semRef_snd u (wfield v 15 0)
  rw [hrd, href] at hread
  have hshown : (s.block.unposted.wr (.sem u) Reg.SEM_READ_SEL w).shown (s.block.refOf u (wfield v 15 0)) =
      s.block.shown (s.block.refOf u (wfield v 15 0)) := s.block.shown_wr_readSel u w
  rw [hshown] at hread
  have heff : (s.block.unposted.writeFields (.sem u) Reg.SEM_READ_SEL v).showSem u =
      ((s.block.unposted.wr (.sem u) Reg.SEM_READ_SEL w).semRef u (wfield v 15 0)).2.wrN (.sem u) Reg.SEM_READ_VAL
        (s.block.shown (s.block.refOf u (wfield v 15 0))) := by
    rw [hsel]
    unfold Block.showSem
    rw [hread]
  generalize ((s.block.unposted.wr (.sem u) Reg.SEM_READ_SEL w).semRef u (wfield v 15 0)).2 = y at hsnd heff
  have hlt : s.block.shown (s.block.refOf u (wfield v 15 0)) < 2 ^ 32 := by
    unfold Block.shown
    split
    · split
      · exact s.block.semVal_lt _ _
      · decide
    · decide
  refine completes_unlogged (eff := fun x => (x.writeFields (.sem u) Reg.SEM_READ_SEL v).showSem u) rfl ht ?_ fun b hl hb => ?_
  · rw [heff, Block.wrN_posted, hsnd]
    rfl
  rw [heff] at hl hb
  obtain ⟨hquiet, -, -, -⟩ := hl
  refine ⟨?_, ?_, ?_⟩
  · rw [Block.rdN, hquiet _ _ (by decide) (sideWord_sem u (by decide))]
    exact (y.rdN_wrN_self _ _ _).trans (Nat.mod_eq_of_lt hlt)
  · rw [Block.rdN, hquiet _ _ (by decide) (sideWord_sem u (by decide)), Block.rd_wrN_other _ _ (by decide) (by decide) (.inr (by decide)),
      Block.rd_of_regs (by rw [hsnd])]
    exact hrd
  · rw [hb, Block.wrN_mem, hsnd]
    rfl

/-! ## SEM_MODE and SEM_XLAT_INV (R59, R60) -/

/-- The row of SEM_MODE. -/
def semModeRow : RegDef := ⟨"SEM_MODE", 0x040, 1, 4, false, .rw, 0x1, 0x1, true⟩

theorem regAt_semMode : regAt? (.sem .wholeModule) Reg.SEM_MODE = some semModeRow := rfl

/-- A semaphore's word is one of those that a change of the mode clears, and reads 0 then. -/
theorem semPhys_cleared (c : Fin 128) {p : Nat} (hp : p < 64) :
    isSemPhys (addrOf (.sem (.core c)) (Reg.SEM_PHYS p)) = true ∧ regReset (addrOf (.sem (.core c)) (Reg.SEM_PHYS p)) = 0 := by
  have hrow : ∀ p : Fin 64, ((headerRegs ++ (semRegs ++ semCoreRegs)).find? (fun r => r.covers (Reg.SEM_PHYS p.val))).map
      (fun r => (r.wide, r.reset)) = some (false, 0) := by decide
  obtain ⟨r, hr, hw⟩ := Option.map_eq_some_iff.1 (hrow ⟨p, hp⟩)
  replace hr : regAt? (.sem (.core c)) (Reg.SEM_PHYS p) = some r := hr
  rw [Prod.mk.injEq] at hw
  have hoff : 0x100 ≤ Reg.SEM_PHYS p ∧ Reg.SEM_PHYS p < 0x200 := by
    unfold Reg.SEM_PHYS
    omega
  constructor
  · unfold isSemPhys
    rw [addrOf_page (semPhys_lt hp), addrOf_offset (semPhys_lt hp), pageAt_pageIndex]
    simp [hoff]
  · unfold regReset
    rw [addrOf_page (semPhys_lt hp), addrOf_offset (semPhys_lt hp), pageAt_pageIndex]
    dsimp only
    rw [if_neg (show Reg.SEM_PHYS p ≠ 0x000 by omega), if_neg (show Reg.SEM_PHYS p ≠ 0x024 by omega), hr]
    simp [hw]

/-- A change of the mode while no unit holds a task. -/
theorem Block.modeWrite_idle {b : Block} {v : Word} (hne : wbit v 0 ≠ b.fixedMode) (hidle : ∀ u ∈ allUnits, (b.unit u).board = []) :
    (b.modeWrite v).fixedMode = wbit v 0 ∧ ∀ c p, p < 64 → (b.modeWrite v).semVal c p = 0 := by
  have hfree : allUnits.any (fun u => !(b.unit u).board.isEmpty) = false := by
    simpa using hidle
  have heff : b.modeWrite v = { b.writeFields (.sem .wholeModule) Reg.SEM_MODE v with
      regs := Sparse.clear isSemPhys (b.writeFields (.sem .wholeModule) Reg.SEM_MODE v).regs } := by
    unfold Block.modeWrite
    dsimp only
    rw [if_neg hne, if_neg (by rw [hfree]; decide)]
  have hrd : ∀ q r, (b.modeWrite v).rd q r =
      if isSemPhys (addrOf q r) then regReset (addrOf q r) else (b.writeFields (.sem .wholeModule) Reg.SEM_MODE v).rd q r := fun q r => by
    rw [heff]
    exact Sparse.get_clear _ _ _ _
  constructor
  · unfold Block.fixedMode
    rw [hrd, if_neg (by decide), Block.writeFields_eq_wr _ regAt_semMode, Block.rd_wr_self]
    show (fieldWrite _ _ _ _ _).getLsbD 0 = v.getLsbD 0
    rw [getLsbD_fieldWrite_rw rfl _ _ _ _ (by decide), if_pos (by decide)]
    show (v &&& _).getLsbD 0 = _
    rw [BitVec.getLsbD_and, show (BitVec.ofNat 32 semModeRow.mask).getLsbD 0 = true by decide, Bool.and_true]
  · intro c p hp
    unfold Block.semVal
    split
    · rw [Block.rdN, hrd, if_pos (semPhys_cleared _ hp).1, (semPhys_cleared _ hp).2]
      rfl
    · rfl

theorem Block.modeWrite_busy {b : Block} {v : Word} (hne : wbit v 0 ≠ b.fixedMode) (hbusy : ∃ u ∈ allUnits, (b.unit u).board ≠ []) :
    b.modeWrite v = b.post Ev.SEM_MODE_BUSY (.sem .wholeModule) 0 := by
  have hheld : allUnits.any (fun u => !(b.unit u).board.isEmpty) = true := by
    simpa using hbusy
  unfold Block.modeWrite
  dsimp only
  rw [if_neg hne, if_pos hheld]

theorem Block.Logged.fixedMode {a b : Block} (h : a.Logged b) : b.fixedMode = a.fixedMode := by
  obtain ⟨hrd, -, -, -⟩ := h
  unfold Block.fixedMode
  rw [hrd _ _ (by decide) (sideWord_sem _ (by decide))]

theorem completes_semModeWrite {s : State} {o : Origin} {v : Word} (ht : s.takes o (.sem .wholeModule) Reg.SEM_MODE = true)
    (hne : wbit v 0 ≠ s.block.fixedMode) : Completes (.semModeWrite o v) s (fun b =>
      ((∀ u ∈ allUnits, (s.block.unit u).board = []) →
        b.fixedMode = wbit v 0 ∧ ∀ c p, c < 128 → p < 64 → b.semVal c p = 0) ∧
      ((∃ u ∈ allUnits, (s.block.unit u).board ≠ []) →
        b.evtCount Ev.SEM_MODE_BUSY = satAdd64 (s.block.evtCount Ev.SEM_MODE_BUSY) 1 ∧ b.fixedMode = s.block.fixedMode ∧
        ∀ c p, c < 128 → p < 64 → b.semVal c p = s.block.semVal c p)) := by
  refine completes_takes rfl ht fun b hl => ⟨fun hidle => ?_, fun hbusy => ?_⟩
  · obtain ⟨hmode, hzero⟩ := Block.modeWrite_idle (b := s.block.unposted) hne hidle
    exact ⟨hl.fixedMode.trans hmode, fun c p _ hp => (hl.semVal c hp).trans (hzero c p hp)⟩
  · rw [Block.modeWrite_busy (b := s.block.unposted) hne hbusy] at hl
    obtain ⟨hcount, -⟩ := Block.onlyPosts_of_logged (by decide) hl
    exact ⟨hcount, hl.fixedMode, fun c p _ hp => hl.semVal c hp⟩

/-- The caches of tiles without the entries of a context. -/
def Block.dropXlat (b : Block) (ctx : Nat) (l : List Nat) : Block :=
  l.foldl (fun y t => y.setTile t { y.tile t with xlat := (y.tile t).xlat.filter (fun e => e.ctx != ctx) }) b

/-- Each tile of the list loses the context's entries, and nothing else changes. -/
theorem Block.dropXlat_spec (b : Block) (ctx : Nat) {l : List Nat} (hl : l.Nodup) :
    b.dropXlat ctx l = { b with tiles := (b.dropXlat ctx l).tiles } ∧
    ∀ t, (b.dropXlat ctx l).tile t =
      if t ∈ l then { b.tile t with xlat := (b.tile t).xlat.filter (fun e => e.ctx != ctx) } else b.tile t := by
  induction l generalizing b with
  | nil => exact ⟨rfl, fun _ => rfl⟩
  | cons i l ih =>
    rw [List.nodup_cons] at hl
    obtain ⟨hself, htile⟩ := ih (b.setTile i { b.tile i with xlat := (b.tile i).xlat.filter (fun e => e.ctx != ctx) }) hl.2
    refine ⟨hself, fun t => (htile t).trans ?_⟩
    rw [Block.tile_setTile]
    by_cases hi : t = i
    · subst hi
      rw [if_neg hl.1, if_pos rfl, if_pos List.mem_cons_self]
    · simp [hi]

theorem semXlatInv_eq (o : Origin) (v : Word) (b : Block) : semXlatInv o v b =
    b.gate o (.sem .wholeModule) Reg.SEM_XLAT_INV .none (fun x => x.dropXlat (wfield v 2 0) (List.range 16)) := by
  unfold semXlatInv Block.dropXlat
  rfl

theorem completes_semXlatInv {s : State} {o : Origin} {v : Word} (ht : s.takes o (.sem .wholeModule) Reg.SEM_XLAT_INV = true) :
    Completes (.semXlatInv o v) s (fun b =>
      (∀ t < 16, b.tile t = { s.block.tile t with xlat := (s.block.tile t).xlat.filter (fun e => e.ctx != wfield v 2 0) }) ∧
      b.mem = s.block.mem) := by
  have he : exec (.semXlatInv o v) s = s.onWrite o (fun b => b.gate o (.sem .wholeModule) Reg.SEM_XLAT_INV .none
      (fun x => x.dropXlat (wfield v 2 0) (List.range 16))) := by
    rw [← funext (semXlatInv_eq o v)]
    rfl
  obtain ⟨hself, htile⟩ := s.block.unposted.dropXlat_spec (wfield v 2 0) (List.nodup_range (n := 16))
  generalize hy : s.block.unposted.dropXlat (wfield v 2 0) (List.range 16) = y at hself htile
  refine completes_unlogged he ht (by rw [hy, hself]; rfl) fun b _ hb => ?_
  rw [hy] at hb
  refine ⟨fun t h16 => ?_, by rw [hb, hself]; rfl⟩
  have hbt : b.tile t = y.tile t := by rw [hb]; rfl
  rw [hbt, htile, if_pos (List.mem_range.2 h16)]
  rfl

/-- Settles O21: each signal and each register of the semaphores is taken by its own lemma; a field is translated alike whatever events wait
and whatever else a SEM page shows. -/
theorem signalsAddModulo : Obligations.SignalsAddModulo := by
  unfold Obligations.SignalsAddModulo
  refine ⟨fun s c p => ⟨fun inc hr hon => completes_semaphoreSignal hr hon, fun inc => exec_semaphoreSignal_absent p inc,
    fun o v => completes_semPhysWrite⟩, ?_, fun s o v => ⟨completes_semModeWrite, completes_semXlatInv⟩⟩
  intro s o u v r
  refine ⟨fun ht x hx hh hc hp => completes_semSig_here ht hx hh hc hp, fun ht hr => completes_semSig_none ht hr, fun ht h0 => ?_⟩
  refine (completes_semReadSelWrite ht h0).imp fun b ⟨hval, hsel, hmem⟩ => ⟨hval.trans ?_, hsel, hmem⟩
  rfl

end Sys2Proof.Machine
end

section
/-! PROOF. A discard that signals a semaphore (R58). -/

namespace Sys2Proof.Machine

open Sys2Proof Sys2Proof.Tests

/-- A finished speculative task of CORE[0][0] that is to be discarded; it holds the outcome of one share, which is DONE. -/
def sharedTask : TaskSt :=
  { taskOf { specRec with signal0Inc := 1 } with
    phase := .finished
    decision := .discard
    shadow := some (65536, 0)
    sig0 := some sem0
    shares := [{ child := 0, outcome := .done, status := 0, cycles := 0 }] }

/-- The allocation of the task's shadow. -/
def sharedShadow : SramAlloc := { base := 1, slabs := [6], kind := .shadow, gen := 1, binds := [], freed := false }

/-- The running module with that task and its shadow on TILE[0]. -/
def sharedDiscard : State :=
  upWith (fun b => onBoard (.core 0) [sharedTask] (b.setTile 0 { b.tile 0 with allocs := [sharedShadow] }))

/-- The outcome of its share stands before the discard, so the end of the task applies its signal. -/
theorem sharedDiscard_signals : ∃ s', exec (.specDiscard (.core 0) 0) sharedDiscard = .next s' ∧
    sharedDiscard.block.semVal 0 0 = 0 ∧ s'.block.semVal 0 0 = 1 := by
  refine ⟨_, rfl, ?_, ?_⟩ <;> decide +kernel

/-- Refutes O20: the task of `sharedDiscard` meets the hypotheses of the discard's clause, and SPEC_DISCARD applies its SIGNAL0, since the
merged outcome of the shares that a task holds comes before its own decision. -/
theorem not_speculationIsDecidedOnce : ¬ Obligations.SpeculationIsDecidedOnce := by
  unfold Obligations.SpeculationIsDecidedOnce
  rintro ⟨-, -, hdiscard, -⟩
  obtain ⟨b, hb, hsem, -⟩ := hdiscard sharedDiscard 0 0 65536 0 1 sharedTask 0 sharedShadow (by decide) (by decide) (by decide) (by decide)
    (by decide) (by decide) (by decide) (by decide) (by decide) (by decide) (by decide) (by decide)
  obtain ⟨s', hs', h0, h1⟩ := sharedDiscard_signals
  obtain rfl : s' = { sharedDiscard with block := b } := Host.Outcome.next.inj (hs'.symm.trans hb)
  have hkept : b.semVal 0 0 = sharedDiscard.block.semVal 0 0 := hsem 0 0 (by decide) (by decide)
  rw [h0, show b.semVal 0 0 = 1 from h1] at hkept
  exact absurd hkept (by decide)

end Sys2Proof.Machine
end

section
/-! PROOF. A completion whose record holds another time than the clock's (R54). -/

namespace Sys2Proof.Machine

open Sys2Proof Sys2Proof.Tests

/-! ## Counting nothing -/

theorem Sparse.mem_of_get_ne {ν : Type} (d : Nat → ν) {m : Sparse ν} {k : Nat} (h : Sparse.get d m k ≠ d k) :
    (k, Sparse.get d m k) ∈ m := by
  induction m with
  | nil => exact absurd rfl h
  | cons e r ih =>
    rw [Sparse.get_cons] at h ⊢
    split_ifs at h ⊢ with hk
    · rw [← hk]
      exact List.mem_cons_self
    · exact List.mem_cons_of_mem e (ih h)

theorem Sparse.get_of_mem {ν : Type} (d : Nat → ν) {m : Sparse ν} {e : Nat × ν} (hs : m.Pairwise (fun a b => a.1 < b.1))
    (he : e ∈ m) : Sparse.get d m e.1 = e.2 := by
  induction m with
  | nil => cases he
  | cons x r ih =>
    rw [List.pairwise_cons] at hs
    obtain ⟨hhead, htail⟩ := hs
    rw [Sparse.get_cons]
    rcases List.mem_cons.1 he with rfl | hr
    · rw [if_pos rfl]
    · rw [if_neg (hhead e hr).ne, ih htail hr]

theorem Sparse.erase_of_unlisted {ν : Type} {m : Sparse ν} {k : Nat} (h : ∀ e ∈ m, e.1 ≠ k) : Sparse.erase k m = m := by
  unfold Sparse.erase
  rw [List.filter_eq_self]
  simpa using h

/-- An entry of a sorted list that is taken out and put back lies where it lay. -/
theorem Sparse.insert_erase_of_mem {ν : Type} {m : Sparse ν} {k : Nat} {v : ν} (hs : m.Pairwise (fun a b => a.1 < b.1))
    (h : (k, v) ∈ m) : Sparse.insert k v (Sparse.erase k m) = m := by
  induction m with
  | nil => cases h
  | cons e r ih =>
    rw [List.pairwise_cons] at hs
    obtain ⟨hhead, htail⟩ := hs
    rcases List.mem_cons.1 h with rfl | hr
    · have herase : Sparse.erase k ((k, v) :: r) = r :=
        (List.filter_cons_of_neg (by simp)).trans (Sparse.erase_of_unlisted fun e he => (hhead e he).ne')
      rw [herase]
      cases r with
      | nil => rfl
      | cons e r => exact if_pos (hhead e List.mem_cons_self)
    · have hlt : e.1 < k := hhead _ hr
      have herase : Sparse.erase k (e :: r) = e :: Sparse.erase k r := List.filter_cons_of_pos (by simpa using hlt.ne)
      rw [herase, Sparse.insert, if_neg hlt.not_gt, ih htail hr]

/-- A map in canonical form stays as it is where a key is set to what it reads as. -/
theorem Sparse.put_get_self {ν : Type} [DecidableEq ν] (d : Nat → ν) {m : Sparse ν} (hm : Sparse.wf d m = true) (k : Nat) :
    Sparse.put d m k (Sparse.get d m k) = m := by
  rw [Sparse.wf_iff] at hm
  obtain ⟨hs, hd⟩ := hm
  unfold Sparse.put
  split_ifs with h
  · refine Sparse.erase_of_unlisted fun e he hk => ?_
    subst hk
    exact hd e he ((Sparse.get_of_mem d hs he).symm.trans h)
  · exact Sparse.insert_erase_of_mem hs (Sparse.mem_of_get_ne d h)

/-- A word may be written with what it reads as. -/
theorem Block.wrN_rdN_self {b : Block} (hb : Sparse.wf regReset b.regs = true) (p : Page) (o : Nat) : b.wrN p o (b.rdN p o) = b := by
  unfold Block.wrN Block.rdN Block.wr Block.rd Block.setReg Block.reg
  rw [BitVec.ofNat_toNat, BitVec.setWidth_eq, Sparse.put_get_self _ hb]

/-- Counting nothing leaves the module. -/
theorem Block.count_zero {b : Block} (hb : Sparse.wf regReset b.regs = true) (p : Page) (o : Nat) : b.count p o 0 = b := by
  have h0 : b.rdN p o < 2 ^ 32 := BitVec.isLt _
  have h4 : b.rdN p (o + 4) < 2 ^ 32 := BitVec.isLt _
  have hmin : min (b.rd64 p o + 0) (2 ^ 64 - 1) = b.rdN p o + 2 ^ 32 * b.rdN p (o + 4) := by
    unfold Block.rd64
    omega
  have hlow : b.wrN p o (b.rdN p o + 2 ^ 32 * b.rdN p (o + 4)) = b := by
    refine Eq.trans ?_ (Block.wrN_rdN_self hb p o)
    unfold Block.wrN
    congr 1
    apply BitVec.eq_of_toNat_eq
    simp only [BitVec.toNat_ofNat]
    omega
  unfold Block.count Block.wr64
  rw [hmin, hlow, show (b.rdN p o + 2 ^ 32 * b.rdN p (o + 4)) / 2 ^ 32 = b.rdN p (o + 4) by omega, Block.wrN_rdN_self hb]

/-- Counts of 0 before a count of 1 leave that one alone. -/
theorem Block.count_zeros {b : Block} (hb : Sparse.wf regReset b.regs = true) (n i : Nat) :
    ((List.replicate n 0 ++ [1]).zipIdx i).foldl (fun (y : Block) (p : Nat × Nat) => y.count .exd (Reg.EXD_PLACED + 8 * p.2) p.1) b =
      b.count .exd (Reg.EXD_PLACED + 8 * (i + n)) 1 := by
  induction n generalizing i with
  | zero => rfl
  | succ n ih =>
    rw [List.replicate_succ, List.cons_append, List.zipIdx_cons, List.foldl_cons, Block.count_zero hb, ih (i + 1), Nat.add_right_comm,
      Nat.add_assoc]

/-! ## The counterexample -/

/-- The record of a ROUTE task that counts its placements. -/
def placingRec : TaskRec := { recOf 3 with params := 1 :: List.replicate 31 0 }

/-- A finished ROUTE task that holds more counts than it has tables: the last one lies where the clock's count does. -/
def placingTask : TaskSt :=
  { taskOf placingRec with
    phase := .finished
    sigDone := true
    dispCnt := List.replicate 4083 0 ++ [1] }

/-- The running module with that task on CORE[0][0], whose completion ring lies in an allocation. -/
def placing : State :=
  { withSlab with
    block := onBoard (.core 0) [placingTask]
      (setRegs [(.sch (.core 0), Reg.SCH_RING_CFG, 2 ^ 24 + 4 * 256 + 4)] withSlab.block) }

theorem leave_placingTask : placing.block.leave placingTask = placing.block.count .clk Reg.CLK_MCLK_COUNT 1 := by
  have hfold := Block.count_zeros (b := placing.block) (by decide +kernel) 4083 0
  exact hfold

theorem Block.postFault_of_none {b : Block} {u : UnitId} {n : Nat} {t : TaskSt} (ht : b.bySerial u n = some t)
    (hf : t.faultCode = none) : b.postFault u n = b := by
  unfold Block.postFault
  rw [ht]
  dsimp only
  rw [hf]

/-- A task without a fault whose signals are applied and whose record may be written leaves with it. -/
theorem Block.completeRoot_signalled {b : Block} {u : UnitId} {n : Nat} {t : TaskSt} (ht : b.bySerial u n = some t)
    (hp : t.phase = .finished) (hr : t.parent = none) (hs : t.settled = true) (hf : t.faultCode = none) (hw : b.writesWait n = false)
    (hd : t.sigDone = true) (ha : b.awaits u n = false) (hq : b.recordWaits u t = false) (hm : b.mustStall u t.task = false)
    (hv : t.verdict.outcome ≠ .faulted) : b.completeRoot u n = ((b.leave t).writeRecord u t t.verdict).dropTask u n := by
  have hpost := Block.postFault_of_none ht hf
  have hrecord : b.record u n = ((b.leave t).writeRecord u t t.verdict).dropTask u n := by
    unfold Block.record
    rw [hpost, ht]
    dsimp only
    rw [if_neg (by simp [ha, hq]), if_neg (by simp [hm]), if_neg hv]
  unfold Block.completeRoot
  rw [ht]
  dsimp only
  rw [if_neg (by simp [hp, hr, hs, hw]), hpost, if_pos hd, hrecord]

theorem taskComplete_placing : taskComplete (.core 0) 0 0 placing.block =
    ((placing.block.count .clk Reg.CLK_MCLK_COUNT 1).writeRecord (.core 0) placingTask placingTask.verdict).dropTask (.core 0) 7 := by
  rw [← leave_placingTask]
  have hrun : taskComplete (.core 0) 0 0 placing.block = placing.block.completeRoot (.core 0) 7 := rfl
  exact hrun.trans (Block.completeRoot_signalled rfl rfl rfl (by decide) rfl (by decide) rfl (by decide) (by decide) (by decide) (by decide))

theorem Block.bytes_posted (b : Block) (l : List Posted) (a n : Nat) : { b with posted := l }.bytes a n = b.bytes a n := rfl

/-- What a command of the module completes with is what its cycle leaves. -/
theorem Completes.cycle {c : Instr} {s : State} {f : Block → Block} {P : Block → Prop} (h : Completes c s P)
    (he : exec c s = s.onBlock f) (hr : s.block.running = true) : P (s.block.cycle f) := by
  obtain ⟨b, hb, hp⟩ := h
  rw [he, State.onBlock_next _ _ hr, Host.Outcome.next.injEq, State.mk.injEq] at hb
  obtain ⟨-, hblock, -⟩ := hb
  rw [hblock]
  exact hp

/-- The completion record that the end of that task writes does not hold the time at which it comes. -/
theorem placing_record : ((taskComplete (.core 0) 0 0 placing.block).posted = []) ∧
    (taskComplete (.core 0) 0 0 placing.block).bytes 0 32 ≠
      recordBytes (.core 0) placingTask.task placingTask.verdict placing.block.now placing.block.pel.lastSeq := by
  rw [taskComplete_placing]
  constructor <;> decide +kernel

/-- Refutes O18: the task of `placing` meets the hypotheses of the record's clause. Its counts, which are more than the placement engine
has tables, are added first and reach the clock's count, from which the record then takes its time. -/
theorem not_completionSignalsAndRecords : ¬ Obligations.CompletionSignalsAndRecords := by
  unfold Obligations.CompletionSignalsAndRecords
  rintro ⟨hcomplete, -⟩
  obtain ⟨-, hfinished⟩ := hcomplete placing (.core 0) 0 0 placingTask (by decide) rfl
  obtain ⟨hrecord, -⟩ := hfinished rfl rfl rfl (by decide) rfl (by decide) (by decide) (by decide) (by decide)
  obtain ⟨hbytes, -⟩ := (hrecord rfl (by decide) (by decide +kernel) (by decide)).cycle rfl (by decide)
  obtain ⟨hquiet, hother⟩ := placing_record
  have hslot : placing.block.rd64 (.sch (.core 0)) Reg.SCH_CRING_BASE_LO + 32 * (placing.block.rdN (.sch (.core 0)) Reg.SCH_CRING_TAIL %
      2 ^ wfield (placing.block.rd (.sch (.core 0)) Reg.SCH_RING_CFG) 11 8) = 0 := by decide
  rw [Block.cycle_of_unposted (b := placing.block) rfl hquiet, hslot, Block.bytes_posted] at hbytes
  exact hother hbytes

end Sys2Proof.Machine
end

section
/-! SUPPORT. Accesses of memory: what a lookup, a read and a write of a task leave alone (R223, R243, R279, R286). -/

namespace Sys2Proof.Machine

open Sys2Proof

/-- `b` is `a` after accesses of memory: register words of the stacks' queues, memory with its poison, the page table, the controllers and
the operand caches differ at most, and the map is the same. -/
structure Block.Accessed (a b : Block) : Prop where
  same : b = { a with regs := b.regs, mem := b.mem, poison := b.poison, hbm := b.hbm, stks := b.stks, tiles := b.tiles }
  tile : ∀ t, b.tile t = { a.tile t with oc := (b.tile t).oc }
  rd : ∀ p o, o < 4096 → eventWord p o = false → b.rd p o = a.rd p o
  map : a.SameMap b

theorem Block.Accessed.refl (a : Block) : a.Accessed a := ⟨rfl, fun _ => rfl, fun _ _ _ _ => rfl, .refl a⟩

theorem Block.Accessed.trans {a b c : Block} (h : a.Accessed b) (k : b.Accessed c) : a.Accessed c := by
  refine ⟨?_, fun t => ?_, fun p o ho he => (k.rd p o ho he).trans (h.rd p o ho he), h.map.trans k.map⟩
  · rw [k.same, h.same]
  · rw [k.tile, h.tile]

theorem Block.Accessed.units {a b : Block} (h : a.Accessed b) : b.units = a.units := by rw [h.same]
theorem Block.Accessed.unit {a b : Block} (h : a.Accessed b) (u : UnitId) : b.unit u = a.unit u := by unfold Block.unit; rw [h.units]
theorem Block.Accessed.posted {a b : Block} (h : a.Accessed b) : b.posted = a.posted := by rw [h.same]
theorem Block.Accessed.evt {a b : Block} (h : a.Accessed b) : b.evt = a.evt := by rw [h.same]
theorem Block.Accessed.memDef {a b : Block} (h : a.Accessed b) : b.memDef = a.memDef := by
  rw [h.same]
  rfl

theorem Block.accessed_foldl {ι : Type} {f : Block → ι → Block} (h : ∀ (x : Block) (i : ι), x.Accessed (f x i)) (l : List ι) (b : Block) :
    b.Accessed (l.foldl f b) := by
  induction l generalizing b with
  | nil => exact .refl b
  | cons i l ih => exact (h b i).trans (ih _)

/-- What reaches no more than a store does and neither tiles nor the map is an access. -/
theorem Block.accessed_of_reached {a b : Block} (h : ∀ p o, o < 4096 → eventWord p o = false → a.Reached b ∧ b.rd p o = a.rd p o)
    (he : b.evt = a.evt) (hh : b.host = a.host) (hi : b.i3c = a.i3c) (hp : b.posted = a.posted) (hm : a.SameMap b) : a.Accessed b := by
  obtain ⟨hr, -⟩ := h .clk 0 (by decide) (by decide)
  have hs : b = { a with regs := b.regs, mem := b.mem, poison := b.poison, hbm := b.hbm, stks := b.stks, tiles := b.tiles } := by
    have ht : b.tiles = a.tiles := by rw [hr]
    refine Eq.trans hr ?_
    rw [ht, he, hh, hi, hp]
  refine ⟨hs, fun t => ?_, fun p o ho hw => (h p o ho hw).2, hm⟩
  unfold Block.tile
  rw [hr]

theorem Block.accessed_setStk (b : Block) (i : Nat) (x : StackSt) : b.Accessed (b.setStk i x) :=
  ⟨rfl, fun _ => rfl, fun _ _ _ _ => rfl, b.sameMap_setStk i x⟩

theorem Block.accessed_setQueue (b : Block) (st : Nat) (s : StackSt) : b.Accessed (b.setQueue st s) :=
  Block.accessed_of_reached (fun _ _ ho he => b.setQueue_reached st s ho he) rfl rfl rfl rfl (b.sameMap_setQueue st s)

theorem Block.accessed_queueSlot (b : Block) (st : Nat) (q : SlotReq) : b.Accessed (b.queueSlot st q) := b.accessed_setQueue st _

theorem Block.accessed_queueSlots (b : Block) (l : List (Nat × SlotReq)) : b.Accessed (b.queueSlots l) := by
  unfold Block.queueSlots
  refine Block.accessed_foldl ?_ l b
  exact fun x p => x.accessed_queueSlot p.1 p.2

theorem Block.accessed_lookup (b : Block) (die a : Nat) : b.Accessed (b.lookup die a) := by
  unfold Block.lookup
  dsimp only
  split
  · exact .refl b
  · split
    · exact .refl b
    · refine Block.Accessed.trans ?_ (Block.accessed_queueSlot _ _ _)
      exact ⟨rfl, fun _ => rfl, fun _ _ _ _ => rfl, ⟨fun _ => rfl, fun _ => rfl, rfl, fun _ => rfl, rfl⟩⟩

theorem Block.accessed_lookups (b : Block) (die : Nat) (l : List (Nat × Nat)) : b.Accessed (b.lookups die l) := by
  unfold Block.lookups
  refine Block.accessed_foldl ?_ _ b
  exact fun x p => x.accessed_lookup die p.1

theorem Block.accessed_markHbm (b : Block) (a n : Nat) (w : Bool) : b.Accessed (b.markHbm a n w) := by
  have hregs : (b.markHbm a n w).regs = b.regs := (b.markHbm_reached a n w).2
  refine Block.accessed_of_reached (fun p o _ _ => ⟨(b.markHbm_reached a n w).1, Block.rd_of_regs hregs p o⟩) (b.markHbm_evt a n w)
    ?_ ?_ ?_ (b.sameMap_markHbm a n w)
  all_goals
    unfold Block.markHbm
    dsimp only
    repeat' split
    all_goals rfl

theorem Block.accessed_freezeReads (b : Block) (k n : Nat) : b.Accessed (b.freezeReads k n) := by
  unfold Block.freezeReads
  dsimp only
  split
  · exact .refl b
  · split
    · exact .refl b
    · exact b.accessed_setStk _ _

theorem Block.accessed_pokePhys (b : Block) (k : Nat) (l : List Byte) : b.Accessed (b.pokePhys k l) :=
  ⟨rfl, fun _ => rfl, fun _ _ _ _ => rfl, b.sameMap_pokePhys k l⟩

theorem Block.accessed_storeAs (b : Block) (owner : SlotOwner) (u d g a : Nat) (l : List Byte) : b.Accessed (b.storeAs owner u d g a l) := by
  refine Block.accessed_foldl (fun x p => ?_) _ b
  split
  · exact (((x.accessed_freezeReads _ _).trans (Block.accessed_pokePhys _ _ _)).trans (Block.accessed_markHbm _ _ _ _)).trans
      (Block.accessed_queueSlots _ _)
  · exact .refl x

theorem Block.accessed_dropLines (b : Block) (t h a n : Nat) : b.Accessed (b.dropLines t h a n) := by
  have hmap := b.sameMap_dropLines t h a n
  generalize hy : b.dropLines t h a n = y at hmap ⊢
  unfold Block.dropLines at hy
  dsimp only at hy
  split at hy <;> subst hy
  · exact .refl b
  · refine ⟨rfl, fun w => ?_, fun _ _ _ _ => rfl, hmap⟩
    rw [Block.tile_setTile]
    split
    · next hw => rw [hw]
    · rfl

theorem Block.accessed_touchHbm (b : Block) (a n : Nat) : b.Accessed (b.touchHbm a n) := by
  unfold Block.touchHbm
  dsimp only
  split
  · refine (b.accessed_markHbm a n false).trans ?_
    generalize b.markHbm a n false = y
    have hword : ∀ o v, eventWord (.hbc (stackFin (b.pte (pageOf a)).stack)) o = true → o < 4096 → ∀ x : Block,
        x.Accessed (x.wrN (.hbc (stackFin (b.pte (pageOf a)).stack)) o v) := fun o v he ho x =>
      ⟨rfl, fun _ => rfl, fun p r hr hw => x.rd_wr_event hr hw _ he, x.sameMap_wr _ _ _ (by simp) (by simp) ho⟩
    exact (hword _ _ rfl (by decide) _).trans (hword _ _ rfl (by decide) _)
  · exact .refl b

theorem Block.accessed_touched (b : Block) (die : Nat) (l : List (Nat × Nat)) : b.Accessed (b.touched die l) := by
  unfold Block.touched
  refine Block.accessed_foldl ?_ _ b
  exact fun x p => (x.accessed_lookup die p.1).trans (Block.accessed_touchHbm _ _ _)

theorem Block.mem_queueSlot (b : Block) (st : Nat) (q : SlotReq) : (b.queueSlot st q).mem = b.mem := rfl

theorem Block.mem_lookup (b : Block) (die a : Nat) : (b.lookup die a).mem = b.mem := by
  unfold Block.lookup
  dsimp only
  split
  · rfl
  · split
    · rfl
    · rw [Block.mem_queueSlot]

/-- Reads change no byte of memory. -/
theorem Block.mem_touched (b : Block) (die : Nat) (l : List (Nat × Nat)) : (b.touched die l).mem = b.mem := by
  have hstep : ∀ (ps : List (Nat × Nat)) (x : Block), (ps.foldl (fun y p => (y.lookup die p.1).touchHbm p.1 p.2) x).mem = x.mem := by
    intro ps
    induction ps with
    | nil => exact fun x => rfl
    | cons p ps ih => exact fun x => (ih _).trans ((Block.mem_touchHbm _ _ _).1.trans (x.mem_lookup _ _))
  exact hstep _ b

/-! ## The write of a task -/

/-- A task without a shadow writes where it names. -/
theorem Block.taskAddr_of_shadow_none {b : Block} {t : TaskSt} (h : t.shadow = none) (a : Nat) : b.taskAddr t a = a := by
  unfold Block.taskAddr
  rw [h]

/-- A demand for one range that lies present and within reach is served at once. -/
theorem Block.demand_ok {b : Block} {t : TaskSt} {a n : Nat} {k : Bool} (hs : t.shadow = none) (hp : b.probe a n = .ok)
    (hr : b.reaches t a = true) : b.demand t [(a, n)] k = (.ok, b) := by
  unfold Block.demand
  simp only [List.foldl_cons, List.foldl_nil, Block.taskAddr_of_shadow_none hs, hp, hr, if_true]

/-- What resolves in one granule resolves as the module's own access does. -/
theorem Block.resolveOwn_of_probe {b : Block} {a n : Nat} (hn : 0 < n) (hone : a / 65536 = (a + n - 1) / 65536)
    (hp : b.probe a n = .ok) : ∃ k, b.resolveOwn a = .phys k := by
  unfold Block.probe at hp
  rw [pieces_single (by decide) hn hone] at hp
  simp only [List.foldl_cons, List.foldl_nil] at hp
  unfold Block.resolveOwn
  split at hp
  · next k hk => exact ⟨k, by rw [hk]⟩
  all_goals cases hp

/-- The write of a task of a tile to one range that it may write: the bytes lie there. -/
theorem Block.taskWrite_ok {b : Block} {t : TaskSt} {i : Fin 16} {a : Nat} {l : List Byte} (hs : t.shadow = none) (hn : 0 < l.length)
    (hprot : b.protected_ a l.length = false) (hp : b.probe a l.length = .ok) (hr : b.reaches t a = true)
    (hone : a / 65536 = (a + l.length - 1) / 65536) :
    ∃ y, b.taskWrite t (some i) [(a, l)] true = (.ok, y) ∧ b.Accessed y ∧ y.bytes a l.length = l := by
  obtain ⟨k, hk⟩ := Block.resolveOwn_of_probe hn hone hp
  have hlook := b.accessed_lookups i.val [(a, l.length)]
  have hstored := Block.bytes_storeAs (.writer t.serial) 0 0 i.val hn hone ((hlook.map.resolveOwn a).trans hk)
  have hstore := (b.lookups i.val [(a, l.length)]).accessed_storeAs (.writer t.serial) 0 0 i.val a l
  generalize hz : (b.lookups i.val [(a, l.length)]).storeAs (.writer t.serial) 0 0 i.val a l = z at hstored hstore
  have hdrop := z.accessed_dropLines i.val 0 a l.length
  have hmem : (z.dropLines i.val 0 a l.length).mem = z.mem := by
    unfold Block.dropLines
    dsimp only
    split <;> rfl
  refine ⟨z.dropLines i.val 0 a l.length, ?_, (hlook.trans hstore).trans hdrop, ?_⟩
  · unfold Block.taskWrite
    rw [if_neg (by simpa using hprot)]
    dsimp only
    rw [show b.demand t ([(a, l)].map (fun x => (x.1, x.2.length))) true = (.ok, b) from Block.demand_ok hs hp hr]
    dsimp only [List.foldl_cons, List.foldl_nil]
    rw [Block.taskAddr_of_shadow_none hs, ← hz]
    rfl
  · rw [hdrop.map.bytes hmem hdrop.memDef, hstored]

end Sys2Proof.Machine
end

section
/-! SUPPORT. Tasks on a board: what a change of one leaves. -/

namespace Sys2Proof.Machine

open Sys2Proof

theorem Block.unit_mapTask_self (b : Block) (u : UnitId) (n : Nat) (f : TaskSt → TaskSt) :
    (b.mapTask u n f).unit u = { b.unit u with board := (b.unit u).board.map (fun t => if t.serial = n then f t else t) } :=
  b.unit_setUnit_self _ _

/-- A change that keeps the serial number is found under it. -/
theorem Block.bySerial_mapTask (b : Block) (u : UnitId) (n : Nat) {f : TaskSt → TaskSt} (hf : ∀ t, (f t).serial = t.serial) :
    (b.mapTask u n f).bySerial u n = (b.bySerial u n).map f := by
  unfold Block.bySerial
  rw [b.unit_mapTask_self]
  dsimp only
  induction (b.unit u).board with
  | nil => rfl
  | cons t l ih =>
    rw [List.map_cons]
    by_cases ht : t.serial = n
    · rw [List.find?_cons_of_pos (by simp [ht, hf]), List.find?_cons_of_pos (by simp [ht])]
      simp [ht]
    · rw [List.find?_cons_of_neg (by simp [ht]), List.find?_cons_of_neg (by simp [ht]), ih]

theorem Block.bySerial_serial {b : Block} {u : UnitId} {n : Nat} {t : TaskSt} (h : b.bySerial u n = some t) : t.serial = n := by
  simpa using List.find?_some h

theorem Block.mem_bySerial {b : Block} {u : UnitId} {n : Nat} {t : TaskSt} (h : b.bySerial u n = some t) : t ∈ (b.unit u).board :=
  List.mem_of_find?_eq_some h

theorem Block.sameMap_mapTask (b : Block) (u : UnitId) (n : Nat) (f : TaskSt → TaskSt) : b.SameMap (b.mapTask u n f) :=
  b.sameMap_setUnit u _

end Sys2Proof.Machine
end

section
/-! SUPPORT. The sync lines' operations (R66, R67). -/

namespace Sys2Proof.Machine

open Sys2Proof

/-- The line `n` of tile `i` stands as `l'`, every other as before, and a task of the serial number on the core's board has done its item. -/
def Block.Landed (a : Block) (i n : Nat) (c : Fin 128) (serial : Nat) (l' : SyncLine) (b : Block) : Prop :=
  (b.tile i).line n = l' ∧ (∀ k, k ≠ n → (b.tile i).line k = (a.tile i).line k) ∧
    ∃ t' ∈ (b.unit (.core c)).board, t'.serial = serial ∧ t'.items = 1

/-- A tile whose line `n` has become `l'` and in which the task no longer waits. -/
def TileSt.passed (x : TileSt) (n serial : Nat) (l' : SyncLine) : TileSt :=
  { x with lines := Sparse.put (fun _ => SyncLine.empty) x.lines n l'
           syncWaits := x.syncWaits.filter (fun q => q.serial != serial) }

/-- A SYNC task whose operation has gone through, with STATUS SYNC_LINE_EMPTY where it found nothing. -/
def TaskSt.passed (empty : Bool) (y : TaskSt) : TaskSt :=
  { y with items := 1, statusCode := if empty then Ev.SYNC_LINE_EMPTY else y.statusCode }

/-- The line, and the tasks, as an operation that has gone through leaves them. -/
def Block.passSync (b : Block) (c : Fin 128) (t : TaskSt) (n : Nat) (l' : SyncLine) (empty : Bool) : Block :=
  (b.setTile (coreTile c).val ((b.tile (coreTile c).val).passed n t.serial l')).mapTask (.core c) t.serial (TaskSt.passed empty)

theorem Block.tile_passSync (b : Block) (c : Fin 128) (t : TaskSt) (n : Nat) (l' : SyncLine) (e : Bool) :
    (b.passSync c t n l' e).tile (coreTile c).val = (b.tile (coreTile c).val).passed n t.serial l' := b.tile_setTile_self _ _

theorem Block.bySerial_passSync (b : Block) (c : Fin 128) (t : TaskSt) (n : Nat) (l' : SyncLine) (e : Bool) :
    (b.passSync c t n l' e).bySerial (.core c) t.serial = (b.bySerial (.core c) t.serial).map (TaskSt.passed e) :=
  Block.bySerial_mapTask _ _ _ fun _ => rfl

theorem Block.sameMap_passSync (b : Block) (c : Fin 128) (t : TaskSt) (n : Nat) (l' : SyncLine) (e : Bool) :
    b.SameMap (b.passSync c t n l' e) := (b.sameMap_setTile _ (TileSt.passed _ n t.serial l') rfl).trans (Block.sameMap_mapTask _ _ _ _)

/-- An operation that goes through after accesses of memory has landed. -/
theorem Block.landed_passSync {a b : Block} (h : a.Accessed b) {c : Fin 128} {t : TaskSt} (ht : t ∈ (a.unit (.core c)).board) (n : Nat)
    (l' : SyncLine) (e : Bool) : a.Landed (coreTile c).val n c t.serial l' (b.passSync c t n l' e) := by
  have hlines : (b.tile (coreTile c).val).lines = (a.tile (coreTile c).val).lines := by rw [h.tile]
  unfold Block.Landed TileSt.line
  rw [b.tile_passSync]
  unfold TileSt.passed
  refine ⟨Sparse.get_put_self _ _ _ _, fun k hk => ?_, ?_⟩
  · dsimp only
    rw [Sparse.get_put_other _ _ _ hk, hlines]
  · unfold Block.passSync
    rw [Block.unit_mapTask_self]
    refine ⟨_, List.mem_map.2 ⟨t, ?_, rfl⟩, ?_⟩
    · rw [← h.unit] at ht
      exact ht
    · simp [TaskSt.passed]

/-- An operation that writes nothing out goes through at once. -/
theorem Block.doSync_silent {b : Block} {c : Fin 128} {t : TaskSt} {l' : SyncLine} (h : lineAct (t.task.par 0 2)
      ((b.tile (coreTile c).val).line (t.task.par 2 2)) (BitVec.ofNat 64 (t.task.par 8 8)) = some (l', none)) (hop : t.task.par 0 2 ≠ 4) :
    b.doSync c t = b.passSync c t (t.task.par 2 2) l' false := by
  unfold Block.doSync
  dsimp only
  rw [h]
  dsimp only
  rw [decide_eq_false hop]
  rfl

/-- An operation that writes bytes out which its task may write goes through with them. -/
theorem Block.doSync_writes {b : Block} {c : Fin 128} {t : TaskSt} {l' : SyncLine} {bytes : List Byte} {y : Block}
    (h : lineAct (t.task.par 0 2) ((b.tile (coreTile c).val).line (t.task.par 2 2)) (BitVec.ofNat 64 (t.task.par 8 8)) =
      some (l', some bytes)) (hop : t.task.par 0 2 = 4 → ((b.tile (coreTile c).val).line (t.task.par 2 2)).full = true)
    (hw : b.taskWrite t (some (coreTile c)) [(t.task.par 0x10 8, bytes)] true = (.ok, y)) :
    b.doSync c t = y.passSync c t (t.task.par 2 2) l' false := by
  have hempty : (decide (t.task.par 0 2 = 4) && !((b.tile (coreTile c).val).line (t.task.par 2 2)).full) = false := by
    by_cases h4 : t.task.par 0 2 = 4
    · simp [hop h4]
    · simp [h4]
  unfold Block.doSync
  dsimp only
  rw [h]
  dsimp only
  rw [hw, hempty]
  rfl

/-- A load of an empty line that does not wait goes through with STATUS SYNC_LINE_EMPTY and its event. -/
theorem Block.doSync_empty {b : Block} {c : Fin 128} {t : TaskSt} (hop : t.task.par 0 2 = 4)
    (hl : ((b.tile (coreTile c).val).line (t.task.par 2 2)).full = false) :
    b.doSync c t = (b.passSync c t (t.task.par 2 2) ((b.tile (coreTile c).val).line (t.task.par 2 2)) true).postTask (.core c) t noChild
      Ev.SYNC_LINE_EMPTY := by
  unfold Block.doSync
  dsimp only
  rw [show lineAct (t.task.par 0 2) ((b.tile (coreTile c).val).line (t.task.par 2 2)) (BitVec.ofNat 64 (t.task.par 8 8)) =
    some ((b.tile (coreTile c).val).line (t.task.par 2 2), none) by simp [hop, lineAct, hl]]
  dsimp only
  rw [hop, hl]
  rfl

/-- The task whose turn it is at an operation's code. -/
def Block.syncTurn (b : Block) (op : Nat) (c : Fin 128) : Option TaskSt :=
  (b.unit (.core c)).board.find? (fun t => decide (t.phase = .running) && decide (t.task.kind = 9) && t.task.par 0 2 == op &&
    t.items == 0 && !(b.tile (coreTile c).val).syncWaits.any (fun w => w.serial == t.serial))

theorem Block.par_syncTurn {b : Block} {op : Nat} {c : Fin 128} {t : TaskSt} (h : b.syncTurn op c = some t) : t.task.par 0 2 = op := by
  have hp := List.find?_some h
  simp only [Bool.and_eq_true, beq_iff_eq] at hp
  obtain ⟨⟨⟨-, hop⟩, -⟩, -⟩ := hp
  exact hop

/-- Whether an operation waits does not hang on its data. -/
theorem isSome_lineAct (op : Nat) (l : SyncLine) (d e : DWord) : (lineAct op l d).isSome = (lineAct op l e).isSome := by
  unfold lineAct
  repeat' split
  all_goals rfl

end Sys2Proof.Machine
end

section
/-! PROOF. The sync lines (R66 to R68, R473). -/

namespace Sys2Proof.Machine

open Sys2Proof

/-- A step of an engine that raises no event completes with its effect. -/
theorem completes_quiet {c : Instr} {s : State} {f : Block → Block} {y : Block} {P : Block → Prop} (he : exec c s = s.onBlock f)
    (hr : s.block.running = true) (hf : f s.block.unposted = y) (hq : y.posted = []) (hp : P { y with posted := s.block.posted }) :
    Completes c s P := by
  refine completes_block he hr ?_
  rw [Block.cycle_of_unposted hf hq]
  exact hp

theorem Block.bySerial_addCycles (b : Block) (u : UnitId) (n k : Nat) :
    (b.addCycles u n k).bySerial u n = (b.bySerial u n).map (fun t => { t with cycles := t.cycles + k }) :=
  Block.bySerial_mapTask _ _ _ fun _ => rfl

/-! ## One operation in its turn -/

section Turn

variable {s : State} {ins : Instr} {op : Nat} {c : Fin 128} {t : TaskSt}

theorem Block.syncOp_runs {b : Block} (ht : b.syncTurn op c = some t)
    (hw : (b.tile (coreTile c).val).syncWaits.any (fun w => w.line == t.task.par 2 2 && (b.tile (coreTile c).val).canGo w) = false)
    {r : SyncLine × Option (List Byte)} {d : DWord} (hact : lineAct op ((b.tile (coreTile c).val).line (t.task.par 2 2)) d = some r) :
    syncOp op c b = b.doSync c t := by
  have h0 := isSome_lineAct op ((b.tile (coreTile c).val).line (t.task.par 2 2)) d 0
  rw [hact, Option.isSome_some] at h0
  obtain ⟨r', hr'⟩ := Option.isSome_iff_exists.1 h0.symm
  unfold syncOp
  dsimp only
  unfold Block.syncTurn at ht
  rw [ht]
  dsimp only
  rw [hw, hr']
  rfl

theorem Block.syncOp_waits {b : Block} (ht : b.syncTurn op c = some t)
    (hw : (b.tile (coreTile c).val).syncWaits.any (fun w => w.line == t.task.par 2 2 && (b.tile (coreTile c).val).canGo w) = false)
    (hact : lineAct op ((b.tile (coreTile c).val).line (t.task.par 2 2)) 0 = none)
    (hlen : (b.tile (coreTile c).val).syncWaits.length < 64) :
    syncOp op c b = b.setTile (coreTile c).val { b.tile (coreTile c).val with
      syncWaits := (b.tile (coreTile c).val).syncWaits ++ [⟨c.val, t.serial, op, t.task.par 2 2⟩] } := by
  unfold syncOp
  dsimp only
  unfold Block.syncTurn at ht
  rw [ht]
  dsimp only
  rw [hw, hact]
  dsimp only
  rw [if_neg (by decide), if_pos hlen]

variable (he : exec ins s = s.onBlock (syncOp op c)) (hr : s.block.running = true) (ht : s.block.syncTurn op c = some t)
  (hw : (s.block.tile (coreTile c).val).syncWaits.any
    (fun w => w.line == t.task.par 2 2 && (s.block.tile (coreTile c).val).canGo w) = false)
include he hr ht hw

/-- An operation that writes nothing out lands. -/
theorem completes_syncLine {l' : SyncLine} (hop : op ≠ 4) (hact : lineAct op ((s.block.tile (coreTile c).val).line (t.task.par 2 2))
      (BitVec.ofNat 64 (t.task.par 8 8)) = some (l', none)) :
    Completes ins s (s.block.Landed (coreTile c).val (t.task.par 2 2) c t.serial l') := by
  have hpar := Block.par_syncTurn ht
  have hrun : syncOp op c s.block.unposted = s.block.unposted.doSync c t := Block.syncOp_runs (b := s.block.unposted) ht hw hact
  have hsync : s.block.unposted.doSync c t = s.block.unposted.passSync c t (t.task.par 2 2) l' false :=
    Block.doSync_silent (b := s.block.unposted) (by rw [hpar]; exact hact) (by rw [hpar]; exact hop)
  refine completes_quiet he hr (hrun.trans hsync) rfl ?_
  exact Block.landed_passSync (.refl s.block.unposted) (List.mem_of_find?_eq_some ht) _ _ _

/-- An operation that writes bytes out lands, and they lie where its task names. -/
theorem completes_syncWrite {l' : SyncLine} {bytes : List Byte} (hn : 0 < bytes.length)
    (hop : op = 4 → ((s.block.tile (coreTile c).val).line (t.task.par 2 2)).full = true)
    (hact : lineAct op ((s.block.tile (coreTile c).val).line (t.task.par 2 2)) (BitVec.ofNat 64 (t.task.par 8 8)) = some (l', some bytes))
    (hs : t.shadow = none) (hprot : s.block.protected_ (t.task.par 0x10 8) bytes.length = false)
    (hp : s.block.probe (t.task.par 0x10 8) bytes.length = .ok) (hreach : s.block.reaches t (t.task.par 0x10 8) = true)
    (hone : t.task.par 0x10 8 / 65536 = (t.task.par 0x10 8 + bytes.length - 1) / 65536) :
    Completes ins s (fun b => s.block.Landed (coreTile c).val (t.task.par 2 2) c t.serial l' b ∧
      b.bytes (t.task.par 0x10 8) bytes.length = bytes) := by
  have hpar := Block.par_syncTurn ht
  have hrun : syncOp op c s.block.unposted = s.block.unposted.doSync c t := Block.syncOp_runs (b := s.block.unposted) ht hw hact
  obtain ⟨y, hy, hacc, hbytes⟩ := Block.taskWrite_ok (b := s.block.unposted) (i := coreTile c) hs hn hprot hp hreach hone
  have hsync := Block.doSync_writes (b := s.block.unposted) (by rw [hpar]; exact hact) (by rw [hpar]; exact hop) hy
  refine completes_quiet he hr (hrun.trans hsync) hacc.posted ⟨?_, ?_⟩
  · exact Block.landed_passSync hacc (List.mem_of_find?_eq_some ht) _ _ _
  · exact ((y.sameMap_passSync c t _ l' false).bytes rfl rfl _ _).trans hbytes

/-- A blocking operation on a line in the wrong state takes a place among those that wait. -/
theorem completes_syncWait (hact : lineAct op ((s.block.tile (coreTile c).val).line (t.task.par 2 2)) 0 = none)
    (hlen : (s.block.tile (coreTile c).val).syncWaits.length < 64) :
    Completes ins s (fun b => b = s.block.setTile (coreTile c).val { s.block.tile (coreTile c).val with
      syncWaits := (s.block.tile (coreTile c).val).syncWaits ++ [⟨c.val, t.serial, op, t.task.par 2 2⟩] }) :=
  completes_quiet he hr (Block.syncOp_waits (b := s.block.unposted) ht hw hact hlen) rfl rfl

end Turn

theorem Block.Landed.cycle {a b : Block} {f : Block → Block} {i n : Nat} {c : Fin 128} {serial : Nat} {l' : SyncLine}
    (h : a.Landed i n c serial l' (f b.unposted)) : a.Landed i n c serial l' (b.cycle f) := by
  obtain ⟨hr, -⟩ := b.cycle_spec f (p := .clk) (o := 0) (by decide) (by decide)
  have htile : ∀ t, (b.cycle f).tile t = (f b.unposted).tile t := fun t => by unfold Block.tile; rw [hr]; rfl
  have hunit : ∀ u, (b.cycle f).unit u = (f b.unposted).unit u := fun u => by unfold Block.unit; rw [hr]; rfl
  unfold Block.Landed at h ⊢
  simpa only [htile, hunit] using h

/-- A load of an empty line that does not wait lands on the line as it is, with its event. -/
theorem completes_loadEmpty {s : State} {c : Fin 128} {t : TaskSt} (hr : s.block.running = true) (ht : s.block.syncTurn 4 c = some t)
    (hw : (s.block.tile (coreTile c).val).syncWaits.any
      (fun w => w.line == t.task.par 2 2 && (s.block.tile (coreTile c).val).canGo w) = false)
    (hl : ((s.block.tile (coreTile c).val).line (t.task.par 2 2)).full = false) :
    Completes (.loadNonblocking c) s (fun b =>
      s.block.Landed (coreTile c).val (t.task.par 2 2) c t.serial ((s.block.tile (coreTile c).val).line (t.task.par 2 2)) b ∧
      b.evtCount Ev.SYNC_LINE_EMPTY = satAdd64 (s.block.evtCount Ev.SYNC_LINE_EMPTY) 1) := by
  have hrun : syncOp 4 c s.block.unposted = s.block.unposted.doSync c t := Block.syncOp_runs (b := s.block.unposted) (d := 0) ht hw
    (r := ((s.block.tile (coreTile c).val).line (t.task.par 2 2), none))
    (by show (if ((s.block.tile (coreTile c).val).line (t.task.par 2 2)).full then _ else _) = _; rw [hl]; rfl)
  have hsync := hrun.trans (Block.doSync_empty (b := s.block.unposted) (Block.par_syncTurn ht) hl)
  refine completes_block (f := syncOp 4 c) rfl hr ⟨Block.Landed.cycle ?_, ?_⟩
  · rw [hsync]
    exact Block.landed_passSync (.refl s.block.unposted) (List.mem_of_find?_eq_some ht) _ _ _
  · rw [Block.cycle_evtCount, show syncOp 4 c { s.block with posted := [] } = _ from hsync]
    unfold Block.postTask
    rw [Block.post_evtCount_self]
    rfl

/-! ## An operation that waited -/

theorem exec_syncBlockedResume_waits {s : State} {i : Fin 16} {line : Fin 1024} (cycles : Nat) {w : SyncWait}
    (hw : (s.block.tile i.val).syncWaits.find? (fun w => w.line == line.val) = some w) (hgo : (s.block.tile i.val).canGo w = false) :
    exec (.syncBlockedResume i line cycles) s = .next s := by
  refine State.onBlock_id (f := syncBlockedResume i line cycles) ?_
  unfold syncBlockedResume
  dsimp only
  rw [show (s.block.unposted.tile i.val).syncWaits.find? (fun w => w.line == line.val) = some w from hw]
  dsimp only
  rw [show (s.block.unposted.tile i.val).canGo w = false from hgo]
  split <;> rfl

theorem completes_resumedStore {s : State} {i : Fin 16} {line : Fin 1024} {cycles : Nat} {w : SyncWait} {c : Fin 128} {t : TaskSt}
    (hr : s.block.running = true) (hw : (s.block.tile i.val).syncWaits.find? (fun w => w.line == line.val) = some w)
    (hcore : w.core = c.val) (hi : coreTile c = i) (ht : s.block.bySerial (.core c) w.serial = some t) (hop : w.op = 1)
    (hpar : t.task.par 0 2 = 1) (hline : t.task.par 2 2 = line.val) (hfull : ((s.block.tile i.val).line line.val).full = false) :
    Completes (.syncBlockedResume i line cycles) s (fun b =>
      (b.tile i.val).line line.val = { (s.block.tile i.val).line line.val with data := BitVec.ofNat 64 (t.task.par 8 8), full := true } ∧
      (b.tile i.val).syncWaits = (s.block.tile i.val).syncWaits.filter (fun q => q.serial != w.serial) ∧
      b.mem = s.block.mem ∧
      ∃ t' : TaskSt, b.bySerial (.core c) w.serial = some t' ∧ t'.items = 1 ∧ t'.cycles = t.cycles + cycles) := by
  subst hi
  have hserial := Block.bySerial_serial ht
  have hwline : w.line = line.val := by simpa using List.find?_some hw
  have hgo : (s.block.unposted.tile (coreTile c).val).canGo w = true := by
    show (lineAct w.op ((s.block.tile (coreTile c).val).line w.line) 0).isSome = true
    rw [hop, hwline]
    simp [lineAct, hfull]
  have hsync := Block.doSync_silent (b := s.block.unposted) (c := c) (t := t)
    (l' := { (s.block.tile (coreTile c).val).line line.val with data := BitVec.ofNat 64 (t.task.par 8 8), full := true })
    (by
      rw [hpar, hline]
      show (if ((s.block.tile (coreTile c).val).line line.val).full then _ else _) = _
      rw [hfull]
      rfl) (by rw [hpar]; decide)
  rw [hline] at hsync
  have htile := s.block.unposted.tile_passSync c t line.val
    { (s.block.tile (coreTile c).val).line line.val with data := BitVec.ofNat 64 (t.task.par 8 8), full := true } false
  have htask := s.block.unposted.bySerial_passSync c t line.val
    { (s.block.tile (coreTile c).val).line line.val with data := BitVec.ofNat 64 (t.task.par 8 8), full := true } false
  generalize hy : s.block.unposted.passSync c t line.val _ false = y at hsync htile htask
  have hgone : (y.tile (coreTile c).val).syncWaits.any (fun q => q.serial == w.serial) = false := by
    rw [htile, hserial]
    simp [TileSt.passed]
  have hf : syncBlockedResume (coreTile c) line cycles s.block.unposted = y.addCycles (.core c) w.serial cycles := by
    unfold syncBlockedResume
    dsimp only
    rw [show (s.block.unposted.tile (coreTile c).val).syncWaits.find? (fun w => w.line == line.val) = some w from hw]
    dsimp only
    rw [dif_pos (by rw [hcore]; exact c.isLt), if_pos hgo]
    simp only [hcore, Fin.eta]
    rw [show s.block.unposted.bySerial (.core c) w.serial = some t from ht]
    dsimp only
    rw [hsync, if_neg (by rw [hgone]; decide)]
  refine completes_quiet (f := syncBlockedResume (coreTile c) line cycles) rfl hr hf (by rw [← hy]; rfl) ⟨?_, ?_, ?_, ?_⟩
  · show (y.tile (coreTile c).val).line line.val = _
    rw [htile]
    exact Sparse.get_put_self _ _ _ _
  · show (y.tile (coreTile c).val).syncWaits = _
    rw [htile, hserial]
    rfl
  · rw [← hy]
    rfl
  · rw [hserial, show s.block.unposted.bySerial (.core c) w.serial = some t from ht, Option.map_some] at htask
    have htask' : (y.addCycles (.core c) w.serial cycles).bySerial (.core c) w.serial =
        some { TaskSt.passed false t with cycles := (TaskSt.passed false t).cycles + cycles } := by
      rw [Block.bySerial_addCycles, htask]
      rfl
    exact ⟨_, htask', rfl, rfl⟩

/-! ## The selected line (R473) -/

/-- The row of TILE_SYNC_SEL. -/
def syncSelRow : RegDef := ⟨"TILE_SYNC_SEL", 0x0E0, 1, 4, false, .rw, 0x3FF, 0x0, false⟩

theorem regAt_syncSel (i : Fin 16) : regAt? (.tile i) Reg.TILE_SYNC_SEL = some syncSelRow := rfl

/-- The line that a write of TILE_SYNC_SEL selects. -/
theorem Block.selected_writeFields (b : Block) (i : Fin 16) (v : Word) :
    (b.writeFields (.tile i) Reg.TILE_SYNC_SEL v).rdN (.tile i) Reg.TILE_SYNC_SEL % 1024 = wfield v 9 0 := by
  have hacc : syncSelRow.acc = .rw := rfl
  have hlow := wfield_fieldWrite_rw hacc (hi := 9) (lo := 0) (by decide) (.tile i) Reg.TILE_SYNC_SEL (b.rd (.tile i) Reg.TILE_SYNC_SEL) v
  rw [show storedAs (.tile i) Reg.TILE_SYNC_SEL (v &&& BitVec.ofNat 32 syncSelRow.mask) = v &&& BitVec.ofNat 32 syncSelRow.mask from rfl,
    wfield_and_mask (by decide)] at hlow
  rw [← hlow, Block.rdN, Block.writeFields_eq_wr _ (regAt_syncSel i), Block.rd_wr_self]
  unfold wfield field
  omega

/-- A latched line is what the registers show. -/
theorem Block.latchLine_shows (b : Block) (i : Fin 16) :
    (b.latchLine i).rd64 (.tile i) Reg.TILE_SYNC_DATA_LO = ((b.tile i.val).line (b.rdN (.tile i) Reg.TILE_SYNC_SEL % 1024)).data.toNat ∧
    (b.latchLine i).rdN (.tile i) Reg.TILE_SYNC_FLAGS =
      b2n ((b.tile i.val).line (b.rdN (.tile i) Reg.TILE_SYNC_SEL % 1024)).full +
        2 * b2n ((b.tile i.val).line (b.rdN (.tile i) Reg.TILE_SYNC_SEL % 1024)).overrun := by
  unfold Block.latchLine
  dsimp only
  generalize (b.tile i.val).line (b.rdN (.tile i) Reg.TILE_SYNC_SEL % 1024) = l
  constructor
  · rw [Block.rd64_wr64 _ _ _ _ (by decide)]
    exact Nat.mod_eq_of_lt l.data.isLt
  · rw [Block.rdN, Block.rd_wr64_other _ _ (by decide) (by decide) (.inr (by decide))]
    refine (b.rdN_wrN_self _ _ _).trans (Nat.mod_eq_of_lt ?_)
    have hb : ∀ x, b2n x < 2 := by decide
    have h1 := hb l.full
    have h2 := hb l.overrun
    omega

theorem completes_syncSelWrite {s : State} {o : Origin} {i : Fin 16} {v : Word} (ht : s.takes o (.tile i) Reg.TILE_SYNC_SEL = true) :
    Completes (.tileSyncSelWrite o i v) s (fun b =>
      b.rd64 (.tile i) Reg.TILE_SYNC_DATA_LO = ((s.block.tile i.val).line (wfield v 9 0)).data.toNat ∧
      b.rdN (.tile i) Reg.TILE_SYNC_FLAGS = b2n ((s.block.tile i.val).line (wfield v 9 0)).full +
        2 * b2n ((s.block.tile i.val).line (wfield v 9 0)).overrun ∧ b.mem = s.block.mem) := by
  have hsel := s.block.unposted.selected_writeFields i v
  have hw := s.block.unposted.writeFields_eq_wr (regAt_syncSel i) (v := v)
  have hshows := (s.block.unposted.writeFields (.tile i) Reg.TILE_SYNC_SEL v).latchLine_shows i
  have htile : (s.block.unposted.writeFields (.tile i) Reg.TILE_SYNC_SEL v).tile i.val = s.block.tile i.val := by rw [hw]; rfl
  rw [hsel, htile] at hshows
  obtain ⟨hdata, hflags⟩ := hshows
  refine completes_unlogged (eff := fun x => (x.writeFields (.tile i) Reg.TILE_SYNC_SEL v).latchLine i) rfl ht (by rw [hw]; rfl)
    fun b hl hb => ⟨?_, ?_, ?_⟩
  · obtain ⟨hrd, -⟩ := hl
    exact (Block.rd64_other _ (hrd _ _ (by decide) (sideWord_tile i (by decide))) (hrd _ _ (by decide) (sideWord_tile i (by decide)))).trans
      hdata
  · obtain ⟨hrd, -⟩ := hl
    rw [Block.rdN, hrd _ _ (by decide) (sideWord_tile i (by decide))]
    exact hflags
  · rw [hb, hw]
    rfl

/-! ## The statement -/

/-- Settles O22: each operation's clause is one of four lemmas about `syncOp`, taken at what `lineAct` does to its line. -/
theorem syncOperationsOnTheirLine : Obligations.SyncOperationsOnTheirLine := by
  unfold Obligations.SyncOperationsOnTheirLine
  refine ⟨?_, fun s i line cycles w c t => ?_, fun s o i v ht => completes_syncSelWrite ht⟩
  · intro s c op t i x n l data a hr ht hw landed canWrite
    refine ⟨?_, ?_, ?_, ?_, ?_, ?_, ?_, ?_, ?_, ?_⟩
    · rintro rfl hl
      exact completes_syncLine rfl hr ht hw (by decide) (if_neg (by rw [show l.full = false from hl]; decide))
    · rintro rfl hl hlen
      exact completes_syncWait rfl hr ht hw (if_pos hl) hlen
    · rintro rfl hl
      exact completes_syncLine rfl hr ht hw (by decide) (if_neg (by rw [show l.full = false from hl]; decide))
    · rintro rfl hl
      exact completes_syncLine rfl hr ht hw (by decide) (if_pos hl)
    · rintro rfl hl ⟨hs, hprot, hp, hreach, hone⟩
      exact completes_syncWrite rfl hr ht hw (by exact Nat.zero_lt_succ 7) (fun h => absurd h (by decide)) (if_pos hl) hs hprot hp hreach hone
    · rintro rfl hl hlen
      exact completes_syncWait rfl hr ht hw (if_neg (by rw [show l.full = false from hl]; decide)) hlen
    · rintro rfl hl ⟨hs, hprot, hp, hreach, hone⟩
      exact completes_syncWrite rfl hr ht hw (by exact Nat.zero_lt_succ 7) (fun _ => hl) (if_pos hl) hs hprot hp hreach hone
    · rintro rfl hl
      exact completes_loadEmpty hr ht hw hl
    · rintro rfl ⟨hs, hprot, hp, hreach, hone⟩
      exact completes_syncWrite rfl hr ht hw (by exact Nat.zero_lt_succ 15) (fun h => absurd h (by decide)) rfl hs hprot hp hreach hone
    · rintro rfl
      exact completes_syncLine rfl hr ht hw (by decide) rfl
  · intro x hr hw hcore hi
    exact ⟨fun hgo => exec_syncBlockedResume_waits cycles hw hgo,
      fun ht hop hpar hline hfull => completes_resumedStore hr hw hcore hi ht hop hpar hline hfull⟩

end Sys2Proof.Machine
end

section
/-! SUPPORT. A fault stops a running task (R54): what it leaves of the board, memory and events. -/

namespace Sys2Proof.Machine

open Sys2Proof

/-- Memory and events are the same. -/
structure Block.Quiet (a b : Block) : Prop where
  mem : b.mem = a.mem
  memDef : b.memDef = a.memDef
  evt : b.evt = a.evt
  posted : b.posted = a.posted

theorem Block.Quiet.refl (a : Block) : a.Quiet a := ⟨rfl, rfl, rfl, rfl⟩

theorem Block.Quiet.trans {a b c : Block} (h : a.Quiet b) (k : b.Quiet c) : a.Quiet c :=
  ⟨k.mem.trans h.mem, k.memDef.trans h.memDef, k.evt.trans h.evt, k.posted.trans h.posted⟩

theorem Block.quiet_wr (b : Block) (p : Page) (o : Nat) (v : Word) : b.Quiet (b.wr p o v) := ⟨rfl, rfl, rfl, rfl⟩
theorem Block.quiet_setUnit (b : Block) (u : UnitId) (x : UnitSt) : b.Quiet (b.setUnit u x) := ⟨rfl, rfl, rfl, rfl⟩
theorem Block.quiet_setCore (b : Block) (c : Nat) (x : CoreSt) : b.Quiet (b.setCore c x) := ⟨rfl, rfl, rfl, rfl⟩
theorem Block.quiet_mapTask (b : Block) (u : UnitId) (n : Nat) (f : TaskSt → TaskSt) : b.Quiet (b.mapTask u n f) := ⟨rfl, rfl, rfl, rfl⟩

/-- Memory, events and the tasks of every unit are the same but for tasks of one unit that are to be dispatched anew (R254). -/
structure Block.Restarts (u : UnitId) (a b : Block) : Prop where
  quiet : a.Quiet b
  board : ∃ g : TaskSt → TaskSt, (b.unit u).board = (a.unit u).board.map g ∧ ∀ x, g x = x ∨ g x = x.afresh

theorem Block.restarts_of_units {u : UnitId} {a b : Block} (h : a.Quiet b) (hu : b.units = a.units) : a.Restarts u b :=
  ⟨h, id, by unfold Block.unit; rw [hu, List.map_id], fun _ => .inl rfl⟩

theorem Block.Restarts.trans {u : UnitId} {a b c : Block} (h : a.Restarts u b) (k : b.Restarts u c) : a.Restarts u c := by
  obtain ⟨f, hf, hfx⟩ := h.board
  obtain ⟨g, hg, hgx⟩ := k.board
  refine ⟨h.quiet.trans k.quiet, g ∘ f, by rw [hg, hf, List.map_map], fun x => ?_⟩
  rcases hfx x with e | e <;> rcases hgx (f x) with e' | e' <;> rw [Function.comp_apply, e', e]
  · exact .inl rfl
  · exact .inr rfl
  · exact .inr rfl
  · exact .inr rfl

theorem Block.restarts_mapTask_afresh (b : Block) (u : UnitId) (n : Nat) : b.Restarts u (b.mapTask u n TaskSt.afresh) := by
  refine ⟨b.quiet_mapTask _ _ _, _, by rw [b.unit_mapTask_self], fun x => ?_⟩
  by_cases hx : x.serial = n
  · exact .inr (if_pos hx)
  · exact .inl (if_neg hx)

theorem Block.restarts_dropPrologue (b : Block) (c : Fin 128) : b.Restarts (.core c) (b.dropPrologue c) := by
  have hfold : ∀ (l : List TaskSt) (x : Block),
      x.Restarts (.core c) (l.foldl (fun y t => y.mapTask (.core c) t.serial TaskSt.afresh) x) := by
    intro l
    induction l with
    | nil => exact fun x => Block.restarts_of_units (.refl x) rfl
    | cons t l ih => exact fun x => (x.restarts_mapTask_afresh _ _).trans (ih _)
  unfold Block.dropPrologue
  exact (hfold _ b).trans (Block.restarts_of_units (Block.quiet_setCore _ _ _) rfl)

theorem Block.quiet_arrayEnd (b : Block) (c : Fin 128) (t : TaskSt) : b.Quiet (b.arrayEnd c t) ∧ (b.arrayEnd c t).units = b.units := by
  unfold Block.arrayEnd
  split <;> exact ⟨⟨rfl, rfl, rfl, rfl⟩, rfl⟩

theorem Block.quiet_drlEnd (b : Block) (c : Fin 128) : b.Quiet (b.drlEnd c) ∧ (b.drlEnd c).units = b.units := ⟨⟨rfl, rfl, rfl, rfl⟩, rfl⟩

/-- What a fault does to its task. -/
def TaskSt.stopped (code : Nat) (t : TaskSt) : TaskSt := { t with phase := .finished, faultCode := some code }

/-- What the fetch engine and the derailleur of a core hold for a task is dropped. -/
def Block.dropFetches (b : Block) (c : Fin 128) (n : Nat) (t : TaskSt) : Block :=
  let x := b.core c.val
  let runs := fun (f : Fetched) => f.serial != n &&
    (b.unit (.core c)).board.any (fun y => y.serial == f.serial && decide (y.phase = .running))
  let keep := x.fetched.filter (fun f => portResource f.port != kindResource t.task.kind.toNat || runs f)
  let falls := x.fallbacks.filter (fun f => f.serial != n)
  let b := b.setCore c.val { x with fetched := keep, fallbacks := falls, asked := x.asked.filter (fun q => q.1 != n) }
  if falls.isEmpty ∧ !x.fallbacks.isEmpty then (b.releaseScratch c).wrBit (.drl c) Reg.STAT 7 false else b

/-- The engine of a task is left. -/
def Block.endEngine (b : Block) (c : Fin 128) (t : TaskSt) : Block :=
  match kindResource t.task.kind.toNat with
  | 0 => b.arrayEnd c t
  | 1 => b.drlEnd c
  | _ => b

theorem Block.quiet_dropFetches (b : Block) (c : Fin 128) (n : Nat) (t : TaskSt) :
    b.Quiet (b.dropFetches c n t) ∧ (b.dropFetches c n t).units = b.units := by
  unfold Block.dropFetches
  dsimp only
  split <;> exact ⟨⟨rfl, rfl, rfl, rfl⟩, rfl⟩

theorem Block.quiet_endEngine (b : Block) (c : Fin 128) (t : TaskSt) : b.Quiet (b.endEngine c t) ∧ (b.endEngine c t).units = b.units := by
  unfold Block.endEngine
  split
  · exact b.quiet_arrayEnd c t
  · exact b.quiet_drlEnd c
  · exact ⟨.refl b, rfl⟩

/-- The prologue of the next array task is undone where an array task is stopped. -/
def Block.undoAhead (b : Block) (c : Fin 128) (n : Nat) (t : TaskSt) : Block :=
  let b := match b.overlapping c n with
    | some y => if kindResource t.task.kind.toNat = 0 then b.mapTask (.core c) y.serial TaskSt.afresh else b
    | none => b
  if kindResource t.task.kind.toNat = 0 ∧ !(b.begunAhead c).isEmpty then b.dropPrologue c else b

theorem Block.undoAhead_of_other {b : Block} {c : Fin 128} {n : Nat} {t : TaskSt} (h : kindResource t.task.kind.toNat ≠ 0) :
    b.undoAhead c n t = b := by
  unfold Block.undoAhead
  simp only [h, if_false, false_and]
  split <;> rfl

theorem Block.restarts_undoAhead (b : Block) (c : Fin 128) (n : Nat) (t : TaskSt) : b.Restarts (.core c) (b.undoAhead c n t) := by
  unfold Block.undoAhead
  dsimp only
  have hdrop : ∀ (p : Prop) [Decidable p] (x : Block), b.Restarts (.core c) x → b.Restarts (.core c) (if p then x.dropPrologue c else x) := by
    intro p _ x hx
    split
    · exact hx.trans (x.restarts_dropPrologue c)
    · exact hx
  refine hdrop _ _ ?_
  split
  · split
    · exact b.restarts_mapTask_afresh _ _
    · exact Block.restarts_of_units (.refl b) rfl
  · exact Block.restarts_of_units (.refl b) rfl

theorem Block.faultTask_core {b : Block} {c : Fin 128} {n : Nat} {t : TaskSt} (code : Nat) (ht : b.bySerial (.core c) n = some t)
    (hp : t.phase = .running) : b.faultTask (.core c) n code =
      (((b.undoAhead c n t).dropFetches c n t).endEngine c { t with faultCode := some code }).mapTask (.core c) n (TaskSt.stopped code) := by
  unfold Block.faultTask
  rw [ht]
  dsimp only
  rw [if_neg (not_not.2 hp)]
  rfl

/-- A fault stops its task, leaves memory and events, and starts afresh no more than array tasks (R54, R254). -/
theorem Block.faultTask_spec {b : Block} {u : UnitId} {n : Nat} {t : TaskSt} (code : Nat) (ht : b.bySerial u n = some t)
    (hp : t.phase = .running) : ∃ y : Block, b.faultTask u n code = y.mapTask u n (TaskSt.stopped code) ∧ b.Restarts u y ∧
      (kindResource t.task.kind.toNat ≠ 0 → (y.unit u).board = (b.unit u).board) := by
  cases u with
  | core c =>
    have hu := b.restarts_undoAhead c n t
    obtain ⟨hq, hqu⟩ := (b.undoAhead c n t).quiet_dropFetches c n t
    obtain ⟨he, heu⟩ := ((b.undoAhead c n t).dropFetches c n t).quiet_endEngine c { t with faultCode := some code }
    refine ⟨_, Block.faultTask_core code ht hp, hu.trans (Block.restarts_of_units (hq.trans he) (heu.trans hqu)), fun hk => ?_⟩
    unfold Block.unit
    rw [heu, hqu, Block.undoAhead_of_other hk]
  | gang | die | wholeModule | group =>
    refine ⟨b, ?_, Block.restarts_of_units (.refl b) rfl, fun _ => rfl⟩
    unfold Block.faultTask
    rw [ht]
    dsimp only
    rw [if_neg (not_not.2 hp)]
    rfl

theorem List.find?_map_of_congr {α : Type} {p : α → Bool} {f : α → α} (h : ∀ x, p (f x) = p x) (l : List α) :
    (l.map f).find? p = (l.find? p).map f := by
  rw [List.find?_map]
  congr 2
  exact funext h

/-- What restarts tasks keeps each where it was. -/
theorem Block.Restarts.bySerial {u : UnitId} {a b : Block} (h : a.Restarts u b) {n : Nat} {t : TaskSt} (ht : a.bySerial u n = some t) :
    b.bySerial u n = some t ∨ b.bySerial u n = some t.afresh := by
  obtain ⟨g, hg, hgx⟩ := h.board
  have hserial : ∀ x, (g x).serial = x.serial := fun x => by rcases hgx x with e | e <;> rw [e]; rfl
  unfold Block.bySerial at ht ⊢
  rw [hg, List.find?_map_of_congr (fun x => by rw [hserial]), ht, Option.map_some]
  rcases hgx t with e | e <;> rw [e]
  · exact .inl rfl
  · exact .inr rfl

end Sys2Proof.Machine
end

section
/-! PROOF. Shares report to their parents, and budgets stop or mark their tasks (R46, R49). -/

namespace Sys2Proof.Machine

open Sys2Proof

theorem UnitId.key_ne {u v : UnitId} (h : u ≠ v) : u.key ≠ v.key := fun hk => h (UnitId.key_injective u v hk)

theorem Block.unit_setUnit_other (b : Block) {u v : UnitId} (x : UnitSt) (h : v ≠ u) : (b.setUnit u x).unit v = b.unit v := by
  rw [Block.unit_setUnit, if_neg (UnitId.key_ne h)]

/-! ## The end of a share (R49) -/

theorem Block.units_foldl {ι : Type} {f : Block → ι → Block} (h : ∀ x i, (f x i).units = x.units) (l : List ι) (b : Block) :
    (l.foldl f b).units = b.units := by
  induction l generalizing b with
  | nil => rfl
  | cons i l ih => exact (ih _).trans (h b i)

theorem Block.units_addTallies (b : Block) (t : TaskSt) : (b.addTallies t).units = b.units := by
  unfold Block.addTallies
  refine (Block.units_foldl ?_ _ _).trans (Block.units_foldl ?_ _ b)
  · exact fun x p => rfl
  · exact fun x p => rfl

theorem Block.units_bindList (b : Block) (a : Nat) (l : List Nat) : (b.bindList a l).units = b.units := by
  unfold Block.bindList
  dsimp only
  split <;> rfl

/-- What the end of a task binds and counts touches no board. -/
theorem Block.units_leave (b : Block) (t : TaskSt) : (b.leave t).units = b.units := by
  have hbind : ∀ x : Block, (t.listsOut.foldl (fun x l => x.bindList l.1 l.2) x).units = x.units :=
    Block.units_foldl (fun x (l : Nat × List Nat) => x.units_bindList l.1 l.2) _
  unfold Block.leave
  dsimp only
  have hlists : (if t.verdict.outcome.signals then t.listsOut.foldl (fun x l => x.bindList l.1 l.2) b else b).units = b.units := by
    split
    · exact hbind b
    · rfl
  generalize (if t.verdict.outcome.signals then t.listsOut.foldl (fun x l => x.bindList l.1 l.2) b else b) = y at hlists
  have htally : (if t.task.kind = 3 ∧ t.task.par 0 1 = 1 ∧ t.verdict.outcome.signals then y.addTallies t else y).units = b.units := by
    split
    · exact (y.units_addTallies t).trans hlists
    · exact hlists
  split <;> exact htally

theorem Block.unit_leave (b : Block) (t : TaskSt) (u : UnitId) : (b.leave t).unit u = b.unit u := by
  unfold Block.unit
  rw [b.units_leave]

theorem Block.unit_dropTask_self (b : Block) (u : UnitId) (n : Nat) :
    (b.dropTask u n).unit u = { b.unit u with board := (b.unit u).board.filter (fun t => t.serial != n) } := b.unit_setUnit_self _ _

theorem Block.unit_dropTask_other (b : Block) {u v : UnitId} (n : Nat) (h : v ≠ u) : (b.dropTask u n).unit v = b.unit v :=
  b.unit_setUnit_other _ h

/-- A parent that takes in the result of a share. -/
def TaskSt.takeShare (r : ShareRes) (t : TaskSt) : TaskSt :=
  { t with shares := t.shares ++ [r], phase := if t.shareCount ≤ (t.shares ++ [r]).length then .finished else t.phase }

theorem Block.bySerial_shareDone (b : Block) (u : UnitId) (n : Nat) (r : ShareRes) :
    (b.shareDone u n r).bySerial u n = (b.bySerial u n).map (TaskSt.takeShare r) := Block.bySerial_mapTask _ _ _ fun _ => rfl

/-- The result that a finished share reports. -/
def TaskSt.result (t : TaskSt) (p : ParentRef) : ShareRes :=
  { child := p.child, outcome := t.verdict.outcome, status := t.verdict.status, cycles := t.verdict.cycles }

section Share

variable {b : Block} {u : UnitId} {t q : TaskSt} {p : ParentRef}

/-- A share that is not its parent's last leaves its unit and reports. -/
theorem Block.endShareTask_reports (k : Nat) (ht : b.bySerial u t.serial = some t) (hp : t.parent = some p) (hpath : t.path ≠ 12)
    (hphase : t.phase = .finished) (hs : t.settled = true) (hf : t.faultCode = none) (ha : b.awaits u t.serial = false)
    (hpu : p.unit ≠ u) (hg : p.unit ≠ .group) (hq : b.bySerial p.unit p.serial = some q) (hr : q.phase = .running)
    (hlast : q.shares.length + 1 < q.shareCount) :
    b.endShareTask (k + 1) u t.serial = ((b.leave t).dropTask u t.serial).shareDone p.unit p.serial (t.result p) := by
  have hparent : (((b.leave t).dropTask u t.serial).shareDone p.unit p.serial (t.result p)).bySerial p.unit p.serial =
      some (q.takeShare (t.result p)) := by
    have hb : ((b.leave t).dropTask u t.serial).bySerial p.unit p.serial = some q := by
      unfold Block.bySerial
      rw [Block.unit_dropTask_other _ _ hpu, Block.unit_leave]
      exact hq
    rw [Block.bySerial_shareDone, hb, Option.map_some]
  have hphase' : (q.takeShare (t.result p)).phase ≠ .finished := by
    unfold TaskSt.takeShare
    dsimp only
    rw [if_neg (by simp; omega), hr]
    decide
  unfold Block.endShareTask
  rw [ht]
  dsimp only
  rw [hp]
  dsimp only
  rw [if_neg (by simp [hphase, hs, ha]), Block.postFault_of_none ht hf, if_neg hpath, if_neg (fun h => hg h.1)]
  rw [show ShareRes.mk p.child t.verdict.outcome t.verdict.status t.verdict.cycles = t.result p from rfl, hparent]
  dsimp only
  rw [if_neg hphase']

end Share

theorem Block.cycle_unit (b : Block) (f : Block → Block) (u : UnitId) : (b.cycle f).unit u = (f b.unposted).unit u := by
  obtain ⟨hr, -⟩ := b.cycle_spec f (p := .clk) (o := 0) (by decide) (by decide)
  unfold Block.unit
  rw [hr]
  rfl

theorem completes_shareReport {s : State} {u : UnitId} {i : Nat} {counts : List Nat} {t q : TaskSt} {p : ParentRef}
    (hr : s.block.running = true) (hi : s.block.task? u i = some t) (ht : s.block.bySerial u t.serial = some t) (hp : t.parent = some p)
    (hpath : t.path ≠ 12) (hphase : t.phase = .finished) (hs : t.settled = true) (hf : t.faultCode = none)
    (ha : s.block.awaits u t.serial = false) (hpu : p.unit ≠ u) (hg : p.unit ≠ .group)
    (hq : s.block.bySerial p.unit p.serial = some q) (hrun : q.phase = .running) (hlast : q.shares.length + 1 < q.shareCount) :
    Completes (.shareComplete u i none counts) s (fun b =>
      (∀ x ∈ (b.unit u).board, x.serial ≠ t.serial) ∧
      ∃ q' : TaskSt, b.bySerial p.unit p.serial = some q' ∧ q'.phase = .running ∧ q'.shareCount = q.shareCount ∧
        q'.shares = q.shares ++ [t.result p]) := by
  have hend := Block.endShareTask_reports (b := s.block.unposted) 5 ht hp hpath hphase hs hf ha hpu hg hq hrun hlast
  have hstep : shareComplete u i none counts s.block.unposted =
      ((s.block.unposted.leave t).dropTask u t.serial).shareDone p.unit p.serial (t.result p) := by
    unfold shareComplete
    rw [show s.block.unposted.task? u i = some t from hi]
    dsimp only
    rw [if_pos (by rw [hp]; rfl), hend]
  refine completes_block (f := shareComplete u i none counts) rfl hr ⟨?_, ?_⟩
  · rw [Block.cycle_unit, hstep]
    unfold Block.shareDone Block.mapTask
    rw [Block.unit_setUnit_other _ _ hpu.symm, Block.unit_dropTask_self]
    intro x hx
    simpa using (List.mem_filter.1 hx).2
  · have hb : ((s.block.unposted.leave t).dropTask u t.serial).bySerial p.unit p.serial = some q := by
      unfold Block.bySerial
      rw [Block.unit_dropTask_other _ _ hpu, Block.unit_leave]
      exact hq
    refine ⟨q.takeShare (t.result p), ?_, ?_, rfl, rfl⟩
    · unfold Block.bySerial
      rw [Block.cycle_unit, hstep]
      exact (Block.bySerial_shareDone _ _ _ _).trans (by rw [hb]; rfl)
    · unfold TaskSt.takeShare
      dsimp only
      rw [if_neg (by simp; omega), hrun]

/-! ## A budget that is reached (R46) -/

/-- What the end of a budget does beside its event and the fault: the task waits on no sync line, and its domain is free. -/
def Block.freeWaits (b : Block) (u : UnitId) (t : TaskSt) : Block :=
  match u.tile? with
  | some i => let x := b.tile i.val
              b.setTile i.val { x with syncWaits := x.syncWaits.filter (fun w => w.serial != t.serial) }
  | none => b

/-- A task with a count of cycles. -/
def TaskSt.counted (n : Nat) (t : TaskSt) : TaskSt := { t with cycles := n }

theorem Block.bySerial_mapTask_some {b : Block} {u : UnitId} {n : Nat} {t : TaskSt} (f : TaskSt → TaskSt)
    (hf : ∀ x, (f x).serial = x.serial) (h : b.bySerial u n = some t) : (b.mapTask u n f).bySerial u n = some (f t) := by
  rw [Block.bySerial_mapTask _ _ _ hf, h, Option.map_some]

/-- The task with the status of a reached budget. -/
def TaskSt.overStatus (t : TaskSt) : TaskSt := { t with statusCode := Ev.BUDGET_EXCEEDED }

/-- The task marked over its budget. -/
def TaskSt.marked (t : TaskSt) : TaskSt := { t with exceeded := true }

theorem Block.overBudget_reports {b : Block} {u : UnitId} {t : TaskSt} (h : t.task.budgetReport = true) :
    b.overBudget u t = (b.postTask u t noChild Ev.BUDGET_EXCEEDED).mapTask u t.serial TaskSt.marked := by
  unfold Block.overBudget
  dsimp only
  rw [if_pos h, if_pos h]
  rfl

theorem Block.overBudget_stops {b : Block} {u : UnitId} {t : TaskSt} (h : t.task.budgetReport = false) (hk : t.task.kind ≠ 7) :
    b.overBudget u t = (((b.postTask u t (b.rootChild 6 t) Ev.BUDGET_EXCEEDED).faultTask u t.serial Ev.BUDGET_EXCEEDED).mapTask u t.serial
      TaskSt.overStatus).freeWaits u t := by
  unfold Block.overBudget
  dsimp only
  simp only [h, hk, Bool.false_eq_true, if_false]
  rfl

theorem Block.freeWaits_same (b : Block) (u : UnitId) (t : TaskSt) : (b.freeWaits u t).units = b.units ∧ (b.freeWaits u t).evt = b.evt := by
  unfold Block.freeWaits
  split <;> exact ⟨rfl, rfl⟩

theorem Block.bySerial_postTask (b : Block) (u : UnitId) (t : TaskSt) (child code : Nat) (v : UnitId) (n : Nat) :
    (b.postTask u t child code).bySerial v n = b.bySerial v n := rfl

/-- A task whose budget is reached: its event counts once, and its task is marked or stopped. -/
theorem Block.overBudget_spec {b : Block} {u : UnitId} {t t1 : TaskSt} (ht : b.bySerial u t.serial = some t1) (hp : t1.phase = .running)
    (htask : t1.task = t.task) (hk : t.task.kind ≠ 7) :
    (b.overBudget u t).evtCount Ev.BUDGET_EXCEEDED = satAdd64 (b.evtCount Ev.BUDGET_EXCEEDED) 1 ∧
    ∃ t' : TaskSt, (b.overBudget u t).bySerial u t.serial = some t' ∧ t'.task = t.task ∧
      (t.task.budgetReport = true ∨ kindResource t.task.kind.toNat ≠ 0 → t'.cycles = t1.cycles) ∧
      (t.task.budgetReport = true → t'.phase = .running ∧ t'.exceeded = true ∧ t'.faultCode = t1.faultCode) ∧
      (t.task.budgetReport = false → t'.phase = .finished ∧ t'.faultCode = some Ev.BUDGET_EXCEEDED) := by
  cases hrep : t.task.budgetReport with
  | true =>
    rw [Block.overBudget_reports hrep]
    have hcount : (b.postTask u t noChild Ev.BUDGET_EXCEEDED).evtCount Ev.BUDGET_EXCEEDED =
        satAdd64 (b.evtCount Ev.BUDGET_EXCEEDED) 1 := Block.post_evtCount_self _ _ _ _
    refine ⟨hcount, t1.marked, Block.bySerial_mapTask_some TaskSt.marked (fun _ => rfl) ht, htask, fun _ => rfl,
      fun _ => ⟨hp, rfl, rfl⟩, fun h => ?_⟩
    cases h
  | false =>
    rw [Block.overBudget_stops hrep hk]
    have hpost : (b.postTask u t (b.rootChild 6 t) Ev.BUDGET_EXCEEDED).bySerial u t.serial = some t1 := ht
    have hcount : (b.postTask u t (b.rootChild 6 t) Ev.BUDGET_EXCEEDED).evtCount Ev.BUDGET_EXCEEDED =
        satAdd64 (b.evtCount Ev.BUDGET_EXCEEDED) 1 := Block.post_evtCount_self _ _ _ _
    generalize b.postTask u t (b.rootChild 6 t) Ev.BUDGET_EXCEEDED = x at hpost hcount
    obtain ⟨y, hy, hrestart, hboard⟩ := Block.faultTask_spec Ev.BUDGET_EXCEEDED hpost hp
    rw [hy]
    obtain ⟨hunits, hevt⟩ := Block.freeWaits_same ((y.mapTask u t.serial (TaskSt.stopped Ev.BUDGET_EXCEEDED)).mapTask u t.serial
      TaskSt.overStatus) u t
    refine ⟨?_, ?_⟩
    · rw [Block.evtCount_of_evt hevt, ← hcount]
      exact Block.evtCount_of_evt hrestart.quiet.evt _
    · have hfinal : ∀ t2 : TaskSt, y.bySerial u t.serial = some t2 →
          (((y.mapTask u t.serial (TaskSt.stopped Ev.BUDGET_EXCEEDED)).mapTask u t.serial TaskSt.overStatus).freeWaits u t).bySerial u
            t.serial = some (t2.stopped Ev.BUDGET_EXCEEDED).overStatus := fun t2 h2 => by
        have hmapped := Block.bySerial_mapTask_some TaskSt.overStatus (fun _ => rfl)
          (Block.bySerial_mapTask_some (TaskSt.stopped Ev.BUDGET_EXCEEDED) (fun _ => rfl) h2)
        unfold Block.bySerial Block.unit at hmapped ⊢
        rw [hunits]
        exact hmapped
      obtain ⟨t2, ht2, htask2, hcyc⟩ : ∃ t2 : TaskSt, y.bySerial u t.serial = some t2 ∧ t2.task = t1.task ∧
          (kindResource t.task.kind.toNat ≠ 0 → t2.cycles = t1.cycles) := by
        by_cases hres : kindResource t1.task.kind.toNat = 0
        · rcases hrestart.bySerial hpost with h | h
          · exact ⟨_, h, rfl, fun _ => rfl⟩
          · exact ⟨_, h, rfl, fun h0 => absurd hres (by rw [htask]; exact h0)⟩
        · refine ⟨t1, ?_, rfl, fun _ => rfl⟩
          unfold Block.bySerial
          rw [hboard hres]
          exact hpost
      refine ⟨_, hfinal t2 ht2, htask2.trans htask, fun h => ?_, fun h => ?_, fun _ => ⟨rfl, rfl⟩⟩
      · rcases h with h | h
        · cases h
        · exact hcyc h
      · cases h

theorem completes_budgetExceeded {s : State} {u : UnitId} {i cycles : Nat} {t : TaskSt} (hr : s.block.running = true)
    (hi : s.block.task? u i = some t) (ht : s.block.bySerial u t.serial = some t) (hp : t.phase = .running) (hx : t.exceeded = false)
    (hh : runsHere u t.task.kind.toNat = true) (hk7 : t.task.kind ≠ 7) (hk8 : t.task.kind ≠ 8) (he : t.isEmpty = false)
    (hb : t.task.budget.toNat ≤ t.cycles + cycles) :
    Completes (.budgetExceeded u i cycles) s (fun b =>
      b.evtCount Ev.BUDGET_EXCEEDED = satAdd64 (s.block.evtCount Ev.BUDGET_EXCEEDED) 1 ∧
      ∃ t' : TaskSt, b.bySerial u t.serial = some t' ∧ t'.task = t.task ∧
        (t.task.budgetReport = true ∨ kindResource t.task.kind.toNat ≠ 0 → t'.cycles = t.cycles + cycles) ∧
        (t.task.budgetReport = true → t'.phase = .running ∧ t'.exceeded = true ∧ t'.faultCode = t.faultCode) ∧
        (t.task.budgetReport = false → t'.phase = .finished ∧ t'.faultCode = some Ev.BUDGET_EXCEEDED)) := by
  have hcounted : (s.block.unposted.mapTask u t.serial (TaskSt.counted (t.cycles + cycles))).bySerial u t.serial =
      some (t.counted (t.cycles + cycles)) :=
    Block.bySerial_mapTask_some (b := s.block.unposted) (TaskSt.counted (t.cycles + cycles)) (fun _ => rfl) ht
  have hstep : budgetExceeded u i cycles s.block.unposted =
      (s.block.unposted.mapTask u t.serial (TaskSt.counted (t.cycles + cycles))).overBudget u t := by
    unfold budgetExceeded
    rw [show s.block.unposted.task? u i = some t from hi]
    dsimp only
    rw [if_neg hk7, if_neg (by simp only [hp, hx, hh, hk8, he, not_lt.2 hb, ne_eq, not_true, Bool.not_true, Bool.false_eq_true, or_self, not_false_iff])]
    rfl
  obtain ⟨hcount, t', ht', hspec⟩ := Block.overBudget_spec hcounted hp rfl hk7
  refine completes_block (f := budgetExceeded u i cycles) rfl hr ⟨?_, t', ?_, hspec⟩
  · rw [Block.cycle_evtCount, show budgetExceeded u i cycles { s.block with posted := [] } = _ from hstep, hcount]
    rfl
  · unfold Block.bySerial
    rw [Block.cycle_unit, hstep]
    exact ht'

/-- Settles O19: a share's end and a reached budget, each by its own lemma. -/
theorem sharesReportAndBudgetsStop : Obligations.SharesReportAndBudgetsStop := by
  unfold Obligations.SharesReportAndBudgetsStop
  exact ⟨fun s u i counts t q p hr hi ht hp hpath hphase hs hf ha hpu hg hq hrun hlast =>
      completes_shareReport hr hi ht hp hpath hphase hs hf ha hpu hg hq hrun hlast,
    fun s u i cycles t hr hi ht hp hx hh hk7 hk8 he hb => completes_budgetExceeded hr hi ht hp hx hh hk7 hk8 he hb⟩

end Sys2Proof.Machine
end

section
/-! SUPPORT. Events that wait for their records take no part in accesses and in the checks of an admission. -/

namespace Sys2Proof.Machine

open Sys2Proof

theorem Block.queueSlot_unposted (b : Block) (st : Nat) (q : SlotReq) : b.unposted.queueSlot st q = (b.queueSlot st q).unposted := rfl

theorem Block.lookup_unposted (b : Block) (die a : Nat) : b.unposted.lookup die a = (b.lookup die a).unposted := by
  unfold Block.lookup
  dsimp only
  split
  · rfl
  · show (if (Sparse.get (fun _ => ([] : List Nat)) b.hbm.xlat die).contains (pageOf a) then b.unposted else _) = _
    split
    · rfl
    · rfl

theorem Block.touchHbm_unposted (b : Block) (a n : Nat) : b.unposted.touchHbm a n = (b.touchHbm a n).unposted := by
  have hmark : b.unposted.markHbm a n false = (b.markHbm a n false).unposted := by
    unfold Block.markHbm
    dsimp only
    split
    · show (if (b.pte (pageOf a)).valid = true ∧ (b.pte (pageOf a)).resident = true then _ else _) = _
      split <;> rfl
    · rfl
  unfold Block.touchHbm
  dsimp only
  show (if inHbm a = true ∧ (b.pte (pageOf a)).valid = true ∧ (b.pte (pageOf a)).resident = true then _ else _) = _
  split
  · rw [hmark]
    rfl
  · rfl

theorem Block.foldl_unposted {ι : Type} {f : Block → ι → Block} (h : ∀ x i, f x.unposted i = (f x i).unposted) (l : List ι) (b : Block) :
    l.foldl f b.unposted = (l.foldl f b).unposted := by
  induction l generalizing b with
  | nil => rfl
  | cons i l ih => rw [List.foldl_cons, List.foldl_cons, h, ih]

theorem Block.touched_unposted (b : Block) (die : Nat) (l : List (Nat × Nat)) : b.unposted.touched die l = (b.touched die l).unposted := by
  unfold Block.touched
  refine Block.foldl_unposted ?_ _ b
  exact fun x p => by rw [x.lookup_unposted, Block.touchHbm_unposted]

/-- The word that a translation reads from the table of its context. -/
def Block.xlatRead (x : Block) (ctx id : Nat) : Option Word :=
  if x.recordFits (x.rd64 (.sem .wholeModule) (Reg.SEM_XLAT_BASE (ctx % 8)) + 4 * id) 4 then
    some (BitVec.ofNat 32 (x.num (x.rd64 (.sem .wholeModule) (Reg.SEM_XLAT_BASE (ctx % 8)) + 4 * id) 4))
  else none

theorem Block.xlatRead_unposted (b : Block) (ctx id : Nat) : b.unposted.xlatRead ctx id = b.xlatRead ctx id := rfl

/-- What the hub of a die keeps after it has read a word. -/
def Block.keepXlat (b : Block) (t : Fin 16) (ctx id : Nat) (w : Word) : Block :=
  b.setTile t.val { b.tile t.val with xlat := (⟨ctx, id, w⟩ :: (b.tile t.val).xlat).take 512 }

theorem Block.xlatWord_eq (b : Block) (u : UnitId) (ctx id : Nat) : b.xlatWord u ctx id =
    match u.tile? with
    | none => (b.xlatRead ctx id, b)
    | some t => match (b.tile t.val).xlat.find? (fun e => e.ctx == ctx && e.id == id) with
      | some e => (some e.word, b)
      | none => match b.xlatRead ctx id with
        | none => (none, b)
        | some w => (some w, b.keepXlat t ctx id w) := rfl

/-- A translation is the same whatever events wait. -/
theorem Block.xlatWord_unposted (b : Block) (u : UnitId) (ctx id : Nat) :
    b.unposted.xlatWord u ctx id = ((b.xlatWord u ctx id).1, (b.xlatWord u ctx id).2.unposted) := by
  rw [Block.xlatWord_eq, Block.xlatWord_eq, b.xlatRead_unposted]
  cases u.tile? with
  | none => rfl
  | some t =>
    dsimp only
    rw [show (b.unposted.tile t.val) = b.tile t.val from rfl]
    cases (b.tile t.val).xlat.find? (fun e => e.ctx == ctx && e.id == id) with
    | some e => rfl
    | none => cases b.xlatRead ctx id <;> rfl

theorem Block.translate_unposted (b : Block) (u : UnitId) (ctx : Nat) (w : Bool) (f : Nat) :
    b.unposted.translate u ctx w f = ((b.translate u ctx w f).1, (b.translate u ctx w f).2.unposted) := by
  refine Prod.ext ((b.sameXlat_unposted u).translate ctx w f) ?_
  dsimp only
  unfold Block.translate
  dsimp only
  rw [b.xlatWord_unposted]
  show (if b.fixedMode = true then _ else _ : Option SemRef × Block).2 = _
  split
  · rfl
  · dsimp only
    split <;> rfl

theorem Block.translateAll_unposted (b : Block) (u : UnitId) (ctx : Nat) (l : List (Bool × Nat)) :
    b.unposted.translateAll u ctx l = ((b.translateAll u ctx l).1, (b.translateAll u ctx l).2.unposted) := by
  induction l generalizing b with
  | nil => rfl
  | cons p l ih =>
    unfold Block.translateAll
    split
    · rw [ih]
    · dsimp only
      rw [b.translate_unposted]
      dsimp only
      cases (b.translate u ctx p.1 p.2).1 with
      | none => rfl
      | some x =>
        dsimp only
        rw [ih]

theorem Block.fieldsOk_unposted (b : Block) (u : UnitId) (r : TaskRec) : b.unposted.fieldsOk u r = b.fieldsOk u r := rfl
theorem Block.compactOk_unposted (b : Block) (u : UnitId) (ctx : Nat) (r : TaskRec) : b.unposted.compactOk u ctx r = b.compactOk u ctx r := rfl
theorem Block.specOk_unposted (b : Block) (r : TaskRec) : b.unposted.specOk r = b.specOk r := rfl

theorem Block.admitCheck_unposted (b : Block) (u : UnitId) (ctx : Nat) (r : TaskRec) : b.unposted.admitCheck u ctx r =
    ((b.admitCheck u ctx r).1, (b.admitCheck u ctx r).2.1, (b.admitCheck u ctx r).2.2.unposted) := by
  unfold Block.admitCheck
  dsimp only
  rw [b.fieldsOk_unposted, b.compactOk_unposted, b.translateAll_unposted]
  split
  · rfl
  · split
    · rfl
    · dsimp only
      cases (b.translateAll u ctx r.semFields).1 with
      | none => rfl
      | some l =>
        dsimp only
        rw [Block.specOk_unposted]
        split <;> rfl

/-- The translations of an admission change no more than the caches of the die hubs. -/
theorem Block.translateAll_snd (b : Block) (u : UnitId) (ctx : Nat) (l : List (Bool × Nat)) :
    (b.translateAll u ctx l).2 = { b with tiles := (b.translateAll u ctx l).2.tiles } := by
  induction l generalizing b with
  | nil => rfl
  | cons p l ih =>
    unfold Block.translateAll
    split
    · exact ih b
    · dsimp only
      have hsnd := b.translate_snd u ctx p.1 p.2
      cases (b.translate u ctx p.1 p.2).1 with
      | none => exact hsnd
      | some x =>
        dsimp only
        rw [ih, hsnd]

theorem Block.admitCheck_snd (b : Block) (u : UnitId) (ctx : Nat) (r : TaskRec) :
    (b.admitCheck u ctx r).2.2 = { b with tiles := (b.admitCheck u ctx r).2.2.tiles } := by
  have hall := b.translateAll_snd u ctx r.semFields
  unfold Block.admitCheck
  dsimp only
  split
  · rfl
  · split
    · rfl
    · cases (b.translateAll u ctx r.semFields).1 with
      | none => exact hall
      | some l =>
        dsimp only
        split <;> exact hall

/-- A code that refuses a record at its admission is one of four. -/
theorem Block.admitCheck_codes (b : Block) (u : UnitId) (ctx : Nat) (r : TaskRec) :
    (b.admitCheck u ctx r).1 ∈ [0, Ev.TASK_FIELD, Ev.SYNC_LINE_MODE, Ev.SEM_XLAT_FAULT, Ev.SPEC_BAD_TARGET] := by
  unfold Block.admitCheck
  dsimp only
  split
  · simp
  · split
    · simp
    · cases (b.translateAll u ctx r.semFields).1 with
      | none => simp
      | some l =>
        dsimp only
        split <;> simp

end Sys2Proof.Machine
end

section
/-! PROOF. Admission takes the record at the head of the ring (R43). -/

namespace Sys2Proof.Machine

open Sys2Proof

/-! ## The record at the head -/

/-- Where the record at the head of a unit's ring lies. -/
def Block.headSlot (b : Block) (u : UnitId) : Nat :=
  b.rd64 (.sch u) Reg.SCH_TRING_BASE_LO +
    128 * (b.rdN (.sch u) Reg.SCH_TRING_HEAD % 2 ^ wfield (b.rd (.sch u) Reg.SCH_RING_CFG) 3 0)

/-- The record at the head of a unit's ring. -/
def Block.headRec (b : Block) (u : UnitId) : TaskRec := TaskRec.ofBytes (b.bytes (b.headSlot u) 128)

/-- The context of a unit's ring. -/
def Block.ringCtx (b : Block) (u : UnitId) : Nat := wfield (b.rd (.sch u) Reg.SCH_RING_CFG) 18 16

/-- The module after the reads of an admission. -/
def Block.headRead (b : Block) (u : UnitId) : Block :=
  b.touched (unitDie u) ((b.headSlot u, 128) :: (b.headRec u).readsAtAdmission)

/-- The check of the record at the head. -/
def Block.headCheck (b : Block) (u : UnitId) : Nat × List (Option SemRef) × Block :=
  (b.headRead u).admitCheck u (b.ringCtx u) (b.headRec u)

/-- The task that an admission makes of a record. -/
def admittedTask (serial ctx : Nat) (r : TaskRec) (l : List (Option SemRef)) : TaskSt :=
  { TaskSt.mk' serial 0 ctx r with
    wait0 := l[0]?.join, wait1 := l[1]?.join, sig0 := l[2]?.join, sig1 := l[3]?.join, confirm := l[4]?.join, discard := l[5]?.join }

/-- What an admission does once it has read its record `r`. -/
def Block.admitRec (b : Block) (u : UnitId) (r : TaskRec) (ctx head : Nat) : Block :=
  let chk := if b.reuseOk u r then b.admitCheck u ctx r else (Ev.TASK_FIELD, [], b)
  let b := chk.2.2
  if chk.1 ≠ 0 then
    if b.mustStall u r then b.stall u
    else
      let t := TaskSt.mk' b.serial 0 ctx r
      (((b.postTask u t noChild chk.1).writeRecord u t ⟨.faulted, chk.1, noChild, 0⟩).disableRing u).wrN (.sch u) Reg.SCH_TRING_HEAD
        (head + 1)
  else
    (({ b with serial := b.serial + 1 } : Block).place u (admittedTask b.serial ctx r chk.2.1)).wrN (.sch u) Reg.SCH_TRING_HEAD (head + 1)

theorem Block.admitRing_eq {b : Block} {u : UnitId} (hfits : b.recordFits (b.headSlot u) 128 = true) :
    b.admitRing u = (b.headRead u).admitRec u (b.headRec u) (b.ringCtx u) (b.rdN (.sch u) Reg.SCH_TRING_HEAD) := by
  have hrec : TaskRec.ofBytes (if b.recordFits (b.headSlot u) 128 then b.bytes (b.headSlot u) 128 else List.replicate 128 0) =
      b.headRec u := by
    rw [if_pos hfits]
    rfl
  have hall : ∀ r : TaskRec, r = b.headRec u →
      (b.touched (unitDie u) ((b.headSlot u, 128) :: r.readsAtAdmission)).admitRec u r (b.ringCtx u) (b.rdN (.sch u) Reg.SCH_TRING_HEAD) =
      (b.headRead u).admitRec u (b.headRec u) (b.ringCtx u) (b.rdN (.sch u) Reg.SCH_TRING_HEAD) := by
    rintro r rfl
    rfl
  exact hall _ hrec

section Ring

variable {b : Block} {u : UnitId} (hfits : b.recordFits (b.headSlot u) 128 = true)
  (hreuse : (b.headRead u).reuseOk u (b.headRec u) = true)
include hfits hreuse

theorem Block.admitRing_admits (h0 : (b.headCheck u).1 = 0) : b.admitRing u =
    (({ (b.headCheck u).2.2 with serial := (b.headCheck u).2.2.serial + 1 } : Block).place u
      (admittedTask (b.headCheck u).2.2.serial (b.ringCtx u) (b.headRec u) (b.headCheck u).2.1)).wrN (.sch u) Reg.SCH_TRING_HEAD
      (b.rdN (.sch u) Reg.SCH_TRING_HEAD + 1) := by
  rw [Block.admitRing_eq hfits]
  unfold Block.admitRec
  dsimp only
  rw [if_pos hreuse]
  exact if_neg (not_not.2 h0)

theorem Block.admitRing_refuses (h0 : (b.headCheck u).1 ≠ 0) (hm : (b.headCheck u).2.2.mustStall u (b.headRec u) = false) :
    b.admitRing u =
      ((((b.headCheck u).2.2.postTask u (TaskSt.mk' (b.headCheck u).2.2.serial 0 (b.ringCtx u) (b.headRec u)) noChild
        (b.headCheck u).1).writeRecord u (TaskSt.mk' (b.headCheck u).2.2.serial 0 (b.ringCtx u) (b.headRec u))
        ⟨.faulted, (b.headCheck u).1, noChild, 0⟩).disableRing u).wrN (.sch u) Reg.SCH_TRING_HEAD
        (b.rdN (.sch u) Reg.SCH_TRING_HEAD + 1) := by
  rw [Block.admitRing_eq hfits]
  unfold Block.admitRec
  dsimp only
  rw [if_pos hreuse]
  exact (if_pos h0).trans (if_neg (Bool.eq_false_iff.1 hm))

end Ring

/-! ## What the events that wait do not change -/

theorem Block.mustStall_unposted (b : Block) (u : UnitId) (r : TaskRec) : b.unposted.mustStall u r = b.mustStall u r := rfl

theorem Block.headRead_unposted (b : Block) (u : UnitId) : b.unposted.headRead u = (b.headRead u).unposted := b.touched_unposted _ _

theorem Block.headCheck_unposted (b : Block) (u : UnitId) : b.unposted.headCheck u =
    ((b.headCheck u).1, (b.headCheck u).2.1, (b.headCheck u).2.2.unposted) := by
  unfold Block.headCheck
  rw [b.headRead_unposted]
  exact (b.headRead u).admitCheck_unposted _ _ _

/-- The check of an admission leaves the module as accesses do, the caches of the hubs aside. -/
theorem Block.headCheck_same (b : Block) (u : UnitId) : (b.headCheck u).2.2 = { b.headRead u with tiles := (b.headCheck u).2.2.tiles } :=
  Block.admitCheck_snd _ _ _ _

theorem Block.accessed_headRead (b : Block) (u : UnitId) : b.Accessed (b.headRead u) := b.accessed_touched _ _

theorem Block.headCheck_rd (b : Block) (u : UnitId) {p : Page} {o : Nat} (ho : o < 4096) (he : eventWord p o = false) :
    (b.headCheck u).2.2.rd p o = b.rd p o := by
  rw [b.headCheck_same]
  exact (b.accessed_headRead u).rd p o ho he

theorem Block.headCheck_unit (b : Block) (u v : UnitId) : (b.headCheck u).2.2.unit v = b.unit v := by
  rw [b.headCheck_same]
  exact (b.accessed_headRead u).unit v

theorem Block.headCheck_mem (b : Block) (u : UnitId) : (b.headCheck u).2.2.mem = b.mem := by
  rw [b.headCheck_same]
  exact b.mem_touched _ _

theorem Block.headCheck_evt (b : Block) (u : UnitId) : (b.headCheck u).2.2.evt = b.evt := by
  rw [b.headCheck_same]
  exact (b.accessed_headRead u).evt

/-- A core with room whose own ring alone has a record takes it. -/
theorem taskAdmit_ring {b : Block} {c : Fin 128} (hh : b.holdsTasks = false) (hs : (b.unit (.core c)).stalled = false)
    (hl : (b.unit (.core c)).board.length < 16) (hi : (b.unit (.core c)).inbox = []) (hr : b.ringReady (.core c) = true) :
    taskAdmit (.core c) none b = (b.setUnit (.core c) { b.unit (.core c) with lastPath := 0 }).admitRing (.core c) := by
  have hroom : b.room (.core c) = true := decide_eq_true hl
  have hpath : ∀ n, nextPath n [0] = some 0 := by
    intro n
    unfold nextPath
    cases n <;> rfl
  unfold taskAdmit
  dsimp only
  rw [if_neg (by simp [hh, hs, hroom]), hr, hi]
  simp only [if_true, List.map_nil, List.append_nil, Option.isSome_none, Bool.false_eq_true, false_and, if_false, hpath]

/-! ## A record that is admitted -/

/-- What placing a task on a core changes: its board with the count, and whether the last array task keeps its tile. -/
theorem Block.place_core (b : Block) (c : Fin 128) (t : TaskSt) : ∃ cores, b.place (.core c) t =
    { b.setBoard (.core c) ((b.unit (.core c)).board ++ [{ t with links := b.chainLinks t.task }]) with cores := cores } := by
  unfold Block.place
  dsimp only
  split <;> exact ⟨_, rfl⟩

theorem eventWord_sch (u : UnitId) (o : Nat) : eventWord (.sch u) o = false := rfl

theorem sideWord_sch (u : UnitId) {o : Nat} (h : o ≠ Reg.CHANGE_SEQ) : sideWord (.sch u) o = false := by
  simp [sideWord, eventWord, onStackPage, h]

theorem eventWord_of_sideWord {p : Page} {o : Nat} (h : sideWord p o = false) : eventWord p o = false := by
  simp only [sideWord, Bool.or_eq_false_iff] at h
  obtain ⟨⟨⟨h, -⟩, -⟩, -⟩ := h
  exact h

theorem Block.accessed_store (b : Block) (a : Nat) (l : List Byte) : b.Accessed (b.store a l) := b.accessed_storeAs .other 0 0 16 a l

theorem Block.unit_setInt (b : Block) (p : Page) (k : Nat) (w : UnitId) : (b.setInt p k).unit w = b.unit w := rfl
theorem Block.unit_wrN (b : Block) (p : Page) (o v : Nat) (w : UnitId) : (b.wrN p o v).unit w = b.unit w := rfl
theorem Block.unit_wr (b : Block) (p : Page) (o : Nat) (v : Word) (w : UnitId) : (b.wr p o v).unit w = b.unit w := rfl
theorem Block.unit_disableRing (b : Block) (u w : UnitId) : (b.disableRing u).unit w = b.unit w := by
  unfold Block.disableRing Block.wrBit
  rw [Block.unit_wr]
theorem Block.unit_postTask (b : Block) (u : UnitId) (t : TaskSt) (child code : Nat) (w : UnitId) :
    (b.postTask u t child code).unit w = b.unit w := rfl
theorem Block.setInt_evt (b : Block) (p : Page) (k : Nat) : (b.setInt p k).evt = b.evt := Block.wr_evt _ _ _ _

theorem Block.postTask_evtCount (b : Block) (u : UnitId) (t : TaskSt) (child code k : Nat) :
    (b.postTask u t child code).evtCount k = if k = code then satAdd64 (b.evtCount code) 1 else b.evtCount k := b.post_evtCount _ _ _ _

/-- A completion record touches no board, and counts no event but one for a slot that does not exist. -/
theorem Block.writeRecord_same (b : Block) (u : UnitId) (t : TaskSt) (v : Verdict) :
    (∀ w, (b.writeRecord u t v).unit w = b.unit w) ∧
    ∀ e, e ≠ Ev.ADDR_UNMAPPED → (b.writeRecord u t v).evtCount e = b.evtCount e := by
  unfold Block.writeRecord
  split
  · exact ⟨fun _ => rfl, fun _ _ => rfl⟩
  · dsimp only
    split
    · generalize hy : b.store _ _ = y
      have hstore : b.Accessed y := by rw [← hy]; exact b.accessed_store _ _
      split
      · exact ⟨fun w => by rw [Block.unit_setInt, Block.unit_wrN, hstore.unit],
          fun e _ => Block.evtCount_of_evt (by rw [Block.setInt_evt, Block.wrN_evt, hstore.evt]) e⟩
      · exact ⟨fun w => by rw [Block.unit_wrN, hstore.unit], fun e _ => Block.evtCount_of_evt (by rw [Block.wrN_evt, hstore.evt]) e⟩
    · refine ⟨fun w => by rw [Block.unit_disableRing, Block.unit_postTask], fun e he => ?_⟩
      rw [Block.evtCount_of_evt (Block.disableRing_evt _ _), Block.postTask_evtCount, if_neg he]

section Admit

variable {b : Block} {c : Fin 128} (hfits : b.recordFits (b.headSlot (.core c)) 128 = true)
  (hreuse : (b.headRead (.core c)).reuseOk (.core c) (b.headRec (.core c)) = true)
include hfits hreuse

/-- A record that passes its checks joins the board. -/
theorem Block.admitRing_joins (h0 : (b.headCheck (.core c)).1 = 0) (hp : b.posted = []) (hlen : (b.unit (.core c)).board.length < 16) :
    (∃ t : TaskSt, ((b.admitRing (.core c)).unit (.core c)).board = (b.unit (.core c)).board ++ [t] ∧ t.task = b.headRec (.core c) ∧
      t.phase = .admitted ∧ t.parent = none ∧ t.ctx = b.ringCtx (.core c)) ∧
    (b.admitRing (.core c)).rdN (.sch (.core c)) Reg.SCH_ADMITTED = (b.unit (.core c)).board.length + 1 ∧
    (b.admitRing (.core c)).rdN (.sch (.core c)) Reg.SCH_TRING_HEAD = (b.rdN (.sch (.core c)) Reg.SCH_TRING_HEAD + 1) % 2 ^ 32 ∧
    (b.admitRing (.core c)).mem = b.mem ∧ (b.admitRing (.core c)).posted = [] ∧
    ∀ q k, k < 4096 → sideWord q k = false → (q ≠ .sch (.core c) ∨ (k ≠ Reg.SCH_ADMITTED ∧ k ≠ Reg.SCH_TRING_HEAD)) →
      (b.admitRing (.core c)).rd q k = b.rd q k := by
  have hrd := fun (p : Page) (o : Nat) (ho : o < 4096) (he : eventWord p o = false) => b.headCheck_rd (.core c) ho he
  have hunit := b.headCheck_unit (.core c) (.core c)
  have hmem := b.headCheck_mem (.core c)
  have hposted : (b.headCheck (.core c)).2.2.posted = [] := by
    rw [b.headCheck_same]
    exact (b.accessed_headRead _).posted.trans hp
  have hlast := Block.admitRing_admits hfits hreuse h0
  obtain ⟨cores, hplace⟩ := Block.place_core { (b.headCheck (.core c)).2.2 with serial := (b.headCheck (.core c)).2.2.serial + 1 } c
    (admittedTask (b.headCheck (.core c)).2.2.serial (b.ringCtx (.core c)) (b.headRec (.core c)) (b.headCheck (.core c)).2.1)
  rw [hplace] at hlast
  generalize hy : ({ (b.headCheck (.core c)).2.2 with serial := (b.headCheck (.core c)).2.2.serial + 1 } : Block) = y at hlast
  have hyrd : ∀ p o, o < 4096 → eventWord p o = false → y.rd p o = b.rd p o := fun p o ho he => by rw [← hy]; exact hrd p o ho he
  have hyunit : y.unit (.core c) = b.unit (.core c) := by rw [← hy]; exact hunit
  have hymem : y.mem = b.mem := by rw [← hy]; exact hmem
  have hyposted : y.posted = [] := by rw [← hy]; exact hposted
  rw [hyunit] at hlast
  rw [hlast]
  refine ⟨⟨_, congrArg UnitSt.board (Block.unit_setUnit_self _ _ _), rfl, rfl, rfl, rfl⟩, ?_, Block.rdN_wrN_self _ _ _ _, hymem, hyposted, ?_⟩
  · rw [Block.rdN, Block.rd_wrN_other _ _ (by decide) (by decide) (.inr (by decide))]
    refine (Block.rdN_wrN_self _ _ _ _).trans ?_
    rw [List.length_append, List.length_singleton]
    omega
  · intro q k hk hside hne
    rw [Block.rd_wrN_other _ _ (by decide) hk (hne.imp id And.right)]
    refine Eq.trans ?_ (hyrd q k hk (eventWord_of_sideWord hside))
    exact Block.rd_wrN_other _ _ (by decide) hk (hne.imp id And.left)

/-- A record that fails a check is passed by, its event counts, and the ring stops. -/
theorem Block.admitRing_stops (h0 : (b.headCheck (.core c)).1 ≠ 0)
    (hm : (b.headCheck (.core c)).2.2.mustStall (.core c) (b.headRec (.core c)) = false) :
    ((b.admitRing (.core c)).unit (.core c)).board = (b.unit (.core c)).board ∧
    wbit ((b.admitRing (.core c)).rd (.sch (.core c)) Reg.SCH_RING_CFG) 24 = false ∧
    (b.admitRing (.core c)).rdN (.sch (.core c)) Reg.SCH_TRING_HEAD = (b.rdN (.sch (.core c)) Reg.SCH_TRING_HEAD + 1) % 2 ^ 32 ∧
    (b.admitRing (.core c)).evtCount (b.headCheck (.core c)).1 = satAdd64 (b.evtCount (b.headCheck (.core c)).1) 1 := by
  have hunit := b.headCheck_unit (.core c) (.core c)
  have hevt := b.headCheck_evt (.core c)
  have hcode : (b.headCheck (.core c)).1 ≠ Ev.ADDR_UNMAPPED := fun h => by
    have hmem := (b.headRead (.core c)).admitCheck_codes (.core c) (b.ringCtx (.core c)) (b.headRec (.core c))
    rw [show ((b.headRead (.core c)).admitCheck (.core c) (b.ringCtx (.core c)) (b.headRec (.core c))).1 = _ from h] at hmem
    exact absurd hmem (by decide)
  rw [Block.admitRing_refuses hfits hreuse h0 hm]
  generalize TaskSt.mk' (b.headCheck (.core c)).2.2.serial 0 (b.ringCtx (.core c)) (b.headRec (.core c)) = t
  generalize (b.headCheck (.core c)).2.2 = y at hunit hevt
  generalize (b.headCheck (.core c)).1 = code at hcode
  have hpost : (y.postTask (.core c) t noChild code).evtCount code = satAdd64 (b.evtCount code) 1 := by
    rw [Block.postTask_evtCount, if_pos rfl, Block.evtCount_of_evt hevt]
  obtain ⟨hwunit, hwevt⟩ := Block.writeRecord_same (y.postTask (.core c) t noChild code) (.core c) t ⟨.faulted, code, noChild, 0⟩
  refine ⟨?_, ?_, Block.rdN_wrN_self _ _ _ _, ?_⟩
  · rw [Block.unit_wrN, Block.unit_disableRing, hwunit, Block.unit_postTask, hunit]
  · rw [Block.rd_wrN_other _ _ (by decide) (by decide) (.inr (by decide))]
    unfold Block.disableRing Block.wrBit
    rw [Block.rd_wr_self, wbit_wsetBit_self _ _ _ (by decide)]
  · rw [Block.evtCount_of_evt (Block.wrN_evt _ _ _ _), Block.evtCount_of_evt (Block.disableRing_evt _ _), hwevt code hcode, hpost]

end Admit

/-- Settles O16: the record at the head of the ring passes or fails the same check whatever events wait, and joins the board or stops the
ring. -/
theorem admissionTakesTheNextRecord : Obligations.AdmissionTakesTheNextRecord := by
  unfold Obligations.AdmissionTakesTheNextRecord
  intro s c u p head cfg a r x b0 chk hr hh hs hl hi hready hfits hreuse
  have hadmit : taskAdmit (.core c) none s.block.unposted = (s.block.setUnit u x).unposted.admitRing (.core c) :=
    taskAdmit_ring (b := s.block.unposted) (c := c) hh hs hl hi hready
  have hchk : (s.block.setUnit u x).unposted.headCheck (.core c) = (chk.1, chk.2.1, chk.2.2.unposted) :=
    (s.block.setUnit u x).headCheck_unposted (.core c)
  have hunit : (s.block.setUnit u x).unposted.unit (.core c) = x := Block.unit_setUnit_self _ _ _
  have hread : ((s.block.setUnit u x).unposted.headRead (.core c)).reuseOk (.core c) ((s.block.setUnit u x).unposted.headRec (.core c)) = true := by
    have hacc := (s.block.setUnit u x).unposted.accessed_headRead (.core c)
    have hcores : ((s.block.setUnit u x).unposted.headRead (.core c)).cores = s.block.cores := by rw [hacc.same]; rfl
    unfold Block.reuseOk Block.core
    dsimp only
    rw [hcores]
    exact hreuse
  have hfit : (s.block.setUnit u x).unposted.recordFits ((s.block.setUnit u x).unposted.headSlot (.core c)) 128 = true := hfits
  have hrec : (s.block.setUnit u x).unposted.headRec (.core c) = r := rfl
  refine ⟨fun h0 => ?_, fun h0 hm => ?_⟩
  · obtain ⟨htask, hadm, hhead, hmem, hposted, hrest⟩ :=
      Block.admitRing_joins (b := (s.block.setUnit u x).unposted) (c := c) hfit hread (by rw [hchk]; exact h0) rfl (by rw [hunit]; exact hl)
    rw [hunit] at htask hadm
    rw [hrec] at htask
    generalize (s.block.setUnit u x).unposted.admitRing (.core c) = z at hadmit htask hadm hhead hmem hposted hrest
    exact completes_quiet (f := taskAdmit (.core c) none) rfl hr hadmit hposted ⟨htask, hadm, hhead, hmem, hrest⟩
  · obtain ⟨hboard, hoff, hhead, hcount⟩ :=
      Block.admitRing_stops (b := (s.block.setUnit u x).unposted) (c := c) hfit hread (by rw [hchk]; exact h0) 
        (by rw [hchk, hrec, Block.mustStall_unposted]; exact hm)
    rw [hunit] at hboard
    rw [hchk] at hcount
    have hword : ∀ o, o < 4096 → (s.block.cycle (taskAdmit (.core c) none)).rd p o = (taskAdmit (.core c) none s.block.unposted).rd p o :=
      fun o ho => (s.block.cycle_spec _ ho (eventWord_sch _ _)).2
    refine completes_block (f := taskAdmit (.core c) none) rfl hr ⟨?_, ?_, ?_, ?_⟩
    · rw [Block.cycle_unit, hadmit]
      exact hboard
    · rw [hword _ (by decide), hadmit]
      exact hoff
    · rw [Block.rdN, hword _ (by decide), hadmit]
      exact hhead
    · rw [Block.cycle_evtCount, show taskAdmit (.core c) none { s.block with posted := [] } = _ from hadmit]
      exact hcount

end Sys2Proof.Machine
end

section
/-! PROOF. A dispatch check whose link is lost (R253, R254). -/

namespace Sys2Proof.Machine

open Sys2Proof Sys2Proof.Tests

/-- A COPY record with one entry in its list. -/
def copyRec : TaskRec := { recOf 4 with listCount := 1 }

/-- An admitted COPY task with two links: the first has no work, and the second names no bound list. -/
def linkedCopy : TaskSt := { taskOf copyRec with links := [recOf 4, copyRec] }

/-- A running DENSE task under the same serial number. -/
def runningDense : TaskSt := { taskOf { recOf 1 with listCount := 1 } with phase := .running }

/-- The running module with two such DENSE tasks before the COPY task on CORE[0][0]. -/
def sameSerial : State := upWith (onBoard (.core 0) [runningDense, runningDense, linkedCopy])

/-- The module as the COPY task's dispatch finds it. -/
def sameSerialTaken : Block :=
  ((sameSerial.block.mapTask (.core 0) linkedCopy.serial (fun x => { x with slewHeld := false })).begin (.core 0) linkedCopy.serial).takeRecords
    0 linkedCopy

/-- The check fails in the second link. -/
theorem sameSerialTaken_check : (sameSerialTaken.startCheck linkedCopy).map Prod.snd = some 1 := by decide +kernel

/-- The fault finds the first DENSE task under the serial number, starts the one that overlaps it afresh, and with it clears the link. -/
theorem sameSerial_links : ∃ s', exec (.taskStart (.core 0) 2 (2 ^ 40)) sameSerial = .next s' ∧
    ∀ x ∈ (s'.block.unit (.core 0)).board, x.link = 0 := by
  refine ⟨_, rfl, ?_⟩
  decide +kernel

/-- Refutes O17: in `sameSerial` the COPY task is the one that its resource picks, and its dispatch check fails in link 1, but no task of the
board shows that link after TASK_START. -/
theorem not_startRunsTheChosenTask : ¬ Obligations.StartRunsTheChosenTask := by
  unfold Obligations.StartRunsTheChosenTask
  rintro ⟨hstart, -⟩
  obtain ⟨-, hpick, -⟩ := hstart sameSerial linkedCopy (by decide) (by decide) (by decide)
  obtain ⟨-, hfree⟩ := hpick 0 2 (2 ^ 40) (by decide) (by decide +kernel) (by decide +kernel) (.inr (by decide +kernel)) (by decide +kernel)
  obtain ⟨-, hcheck⟩ := hfree (by decide +kernel)
  obtain ⟨b, hb, x, hx, -, hlink⟩ := hcheck rfl (by decide)
  obtain ⟨s', hs', hzero⟩ := sameSerial_links
  obtain rfl : s' = { sameSerial with block := b } := Host.Outcome.next.inj (hs'.symm.trans hb)
  obtain ⟨p, hp, hone⟩ := Option.map_eq_some_iff.1 sameSerialTaken_check
  unfold sameSerialTaken at hp
  rw [hp] at hlink
  obtain ⟨-, -, hlink⟩ := hlink
  rw [hzero x hx, hone] at hlink
  exact absurd hlink (by decide)

end Sys2Proof.Machine
end

section
/-! SUPPORT. Events that wait for their records take no part in what a derailleur's task reads, writes and asks for: what the readers of
the state see, and the changes of its parts. -/

namespace Sys2Proof.Machine

open Sys2Proof

/-! ## What is read of a block without its events -/

@[simp] theorem Block.core_unposted (b : Block) (c : Nat) : b.unposted.core c = b.core c := rfl
@[simp] theorem Block.tile_unposted (b : Block) (t : Nat) : b.unposted.tile t = b.tile t := rfl
@[simp] theorem Block.pte_unposted (b : Block) (v : Nat) : b.unposted.pte v = b.pte v := rfl
@[simp] theorem Block.hbm_unposted (b : Block) : b.unposted.hbm = b.hbm := rfl
@[simp] theorem Block.lly_unposted (b : Block) : b.unposted.lly = b.lly := rfl
@[simp] theorem Block.shm_unposted (b : Block) : b.unposted.shm = b.shm := rfl
@[simp] theorem Block.free_unposted (b : Block) : b.unposted.free = b.free := rfl
@[simp] theorem Block.now_unposted (b : Block) : b.unposted.now = b.now := rfl
@[simp] theorem Block.moduleId_unposted (b : Block) : b.unposted.moduleId = b.moduleId := rfl
@[simp] theorem Block.bySerial_unposted (b : Block) (u : UnitId) (n : Nat) : b.unposted.bySerial u n = b.bySerial u n := rfl
@[simp] theorem Block.resolveOwn_unposted (b : Block) (a : Nat) : b.unposted.resolveOwn a = b.resolveOwn a := rfl
@[simp] theorem Block.probe_unposted (b : Block) (a n : Nat) : b.unposted.probe a n = b.probe a n := rfl
@[simp] theorem Block.taskAddr_unposted (b : Block) (t : TaskSt) (a : Nat) : b.unposted.taskAddr t a = b.taskAddr t a := rfl
@[simp] theorem Block.sourceReader_unposted (b : Block) (t : TaskSt) (s : Source) : b.unposted.sourceReader t s = b.sourceReader t s := rfl
@[simp] theorem Block.reaches_unposted (b : Block) (t : TaskSt) (a : Nat) : b.unposted.reaches t a = b.reaches t a := rfl
@[simp] theorem Block.protected_unposted (b : Block) (a n : Nat) : b.unposted.protected_ a n = b.protected_ a n := rfl
@[simp] theorem Block.poisonIn_unposted (b : Block) (t : TaskSt) (l : List (Nat × Nat)) : b.unposted.poisonIn t l = b.poisonIn t l := rfl
@[simp] theorem Block.remotePoisoned_unposted (b : Block) (m a n : Nat) : b.unposted.remotePoisoned m a n = b.remotePoisoned m a n := rfl
@[simp] theorem Block.remoteHere_unposted (b : Block) (m : Nat) (l : List (Nat × Nat)) : b.unposted.remoteHere m l = b.remoteHere m l := rfl
@[simp] theorem Block.remoteNeeds_unposted (b : Block) (c : Fin 128) (s : Source) (l : List (Nat × Nat)) :
    b.unposted.remoteNeeds c s l = b.remoteNeeds c s l := rfl
@[simp] theorem Block.fenced_unposted (b : Block) : b.unposted.fenced = b.fenced := rfl
@[simp] theorem Block.outSpoke_unposted (b : Block) (d : Nat) : b.unposted.outSpoke d = b.outSpoke d := rfl
@[simp] theorem Block.packet_unposted (b : Block) (d k o n g a : Nat) (l : List Byte) :
    b.unposted.packet d k o n g a l = b.packet d k o n g a l := rfl
@[simp] theorem Block.hbmPieces_unposted (b : Block) (w : SlotOwner) (i : Bool) (u d o p : Nat) (l : List (Nat × Nat)) :
    b.unposted.hbmPieces w i u d o p l = b.hbmPieces w i u d o p l := rfl
@[simp] theorem Block.desc_unposted (b : Block) (a : Nat) : b.unposted.desc a = b.desc a := rfl
@[simp] theorem Block.entryAt_unposted (b : Block) (t : TaskSt) (p : Nat × Nat) : b.unposted.entryAt t p = b.entryAt t p := rfl
@[simp] theorem Block.descAt_unposted (b : Block) (t : TaskSt) (p : Nat × Nat) (e : Entry32) :
    b.unposted.descAt t p e = b.descAt t p e := rfl
@[simp] theorem Block.source_unposted (b : Block) (d : Desc) (e : Entry32) : b.unposted.source d e = b.source d e := rfl
@[simp] theorem Block.sourceFits_unposted (b : Block) (s : Source) : b.unposted.sourceFits s = b.sourceFits s := rfl
@[simp] theorem Block.rowSources_unposted (b : Block) (d : Desc) (r c n : Nat) : b.unposted.rowSources d r c n = b.rowSources d r c n := rfl
@[simp] theorem Block.wantSources_unposted (b : Block) (l : List RowWant) : b.unposted.wantSources l = b.wantSources l := rfl
@[simp] theorem Block.cacheable_unposted (b : Block) (t : Fin 16) (d : Desc) (h : Nat) : b.unposted.cacheable t d h = b.cacheable t d h := rfl
@[simp] theorem Block.granules_unposted (b : Block) (l : List (Nat × Nat)) : b.unposted.granules l = b.granules l := rfl
@[simp] theorem Block.missing_unposted (b : Block) (t : Fin 16) (s : Source) : b.unposted.missing t s = b.missing t s := rfl
@[simp] theorem Block.fetching_unposted (b : Block) (t : Fin 16) (h l : Nat) : b.unposted.fetching t h l = b.fetching t h l := rfl
@[simp] theorem Block.fetched?_unposted (b : Block) (c : Fin 128) (p n k : Nat) : b.unposted.fetched? c p n k = b.fetched? c p n k := rfl
@[simp] theorem Block.overlapping_unposted (b : Block) (c : Fin 128) (n : Nat) : b.unposted.overlapping c n = b.overlapping c n := rfl
@[simp] theorem Block.begunAhead_unposted (b : Block) (c : Fin 128) : b.unposted.begunAhead c = b.begunAhead c := rfl
@[simp] theorem Block.drlTask_unposted (b : Block) (c : Fin 128) (k o : Nat) : b.unposted.drlTask c k o = b.drlTask c k o := rfl

/-! ## Parts that change -/

@[simp] theorem Block.count_unposted (b : Block) (p : Page) (o n : Nat) : b.unposted.count p o n = (b.count p o n).unposted := rfl
@[simp] theorem Block.setCore_unposted (b : Block) (c : Nat) (x : CoreSt) : b.unposted.setCore c x = (b.setCore c x).unposted := rfl
@[simp] theorem Block.setTile_unposted (b : Block) (t : Nat) (x : TileSt) : b.unposted.setTile t x = (b.setTile t x).unposted := rfl
@[simp] theorem Block.mapTask_unposted (b : Block) (u : UnitId) (n : Nat) (f : TaskSt → TaskSt) :
    b.unposted.mapTask u n f = (b.mapTask u n f).unposted := rfl
@[simp] theorem Block.mapFetched_unposted (b : Block) (c : Fin 128) (i : Nat) (f : Fetched → Fetched) :
    b.unposted.mapFetched c i f = (b.mapFetched c i f).unposted := rfl
@[simp] theorem Block.dropFetched_unposted (b : Block) (c : Fin 128) (i : Nat) : b.unposted.dropFetched c i = (b.dropFetched c i).unposted := rfl
@[simp] theorem Block.pokePhys_unposted (b : Block) (k : Nat) (l : List Byte) : b.unposted.pokePhys k l = (b.pokePhys k l).unposted := rfl
@[simp] theorem Block.portIn_unposted (b : Block) (c : Fin 128) (n : Nat) : b.unposted.portIn c n = (b.portIn c n).unposted := rfl

/-! ## Answers beside a block -/

/-- An answer with the block it is given beside, without that block's events. -/
def silent {α : Type} (p : α × Block) : α × Block := (p.1, p.2.unposted)

@[simp] theorem silent_mk {α : Type} (a : α) (b : Block) : silent (a, b) = (a, b.unposted) := rfl
@[simp] theorem silent_fst {α : Type} (p : α × Block) : (silent p).1 = p.1 := rfl
@[simp] theorem silent_snd {α : Type} (p : α × Block) : (silent p).2 = p.2.unposted := rfl

/-- Steps that give answers beside a block, none of which looks at its events, do not look at them either. -/
theorem foldl_silent {α ι : Type} {f : α × Block → ι → α × Block} (h : ∀ p i, f (silent p) i = silent (f p i)) (l : List ι)
    (a : α) (b : Block) : l.foldl f (a, b.unposted) = silent (l.foldl f (a, b)) := by
  have hall : ∀ p, l.foldl f (silent p) = silent (l.foldl f p) := by
    induction l with
    | nil => exact fun _ => rfl
    | cons i l ih => intro p; rw [List.foldl_cons, List.foldl_cons, h, ih]
  exact hall (a, b)

/-- The same where each step is taken only while all before it were ready. -/
theorem Block.eachReady_unposted {α : Type} {f : Block → α → Ready × Block} (h : ∀ x i, f x.unposted i = silent (f x i)) (l : List α)
    (b : Block) : b.unposted.eachReady l f = silent (b.eachReady l f) := by
  refine foldl_silent (fun p i => ?_) l Ready.ok b
  obtain ⟨r, x⟩ := p
  cases r with
  | ok => exact h x i
  | wait => rfl
  | fault code => rfl

end Sys2Proof.Machine
end

section
/-! SUPPORT. The accesses of a task do not look at the events of a cycle: stores, demands, reads through the operand cache, requests to other
modules, the fetch of a block, and a block taken. -/

namespace Sys2Proof.Machine

open Sys2Proof

/-! ## Stores -/

@[simp] theorem Block.markHbm_unposted (b : Block) (a n : Nat) (w : Bool) : b.unposted.markHbm a n w = (b.markHbm a n w).unposted := by
  unfold Block.markHbm
  dsimp only [Block.pte_unposted]
  split
  · split
    · split <;> rfl
    · rfl
  · rfl

@[simp] theorem Block.queueSlots_unposted (b : Block) (l : List (Nat × SlotReq)) : b.unposted.queueSlots l = (b.queueSlots l).unposted :=
  Block.foldl_unposted (fun _ _ => rfl) l b

@[simp] theorem Block.freezeReads_unposted (b : Block) (k n : Nat) : b.unposted.freezeReads k n = (b.freezeReads k n).unposted := by
  unfold Block.freezeReads
  simp only [apply_ite Block.unposted]
  rfl

@[simp] theorem Block.storeAs_unposted (b : Block) (w : SlotOwner) (u d o a : Nat) (l : List Byte) :
    b.unposted.storeAs w u d o a l = (b.storeAs w u d o a l).unposted := by
  unfold Block.storeAs
  refine Block.foldl_unposted (fun x p => ?_) _ b
  rw [Block.resolveOwn_unposted]
  split <;> simp

@[simp] theorem Block.storeFor_unposted (b : Block) (w : SlotOwner) (o a : Nat) (l : List Byte) :
    b.unposted.storeFor w o a l = (b.storeFor w o a l).unposted := b.storeAs_unposted w 0 0 o a l

@[simp] theorem Block.store_unposted (b : Block) (a : Nat) (l : List Byte) : b.unposted.store a l = (b.store a l).unposted :=
  b.storeFor_unposted .other 16 a l

@[simp] theorem Block.lookups_unposted (b : Block) (die : Nat) (l : List (Nat × Nat)) :
    b.unposted.lookups die l = (b.lookups die l).unposted :=
  Block.foldl_unposted (fun x p => x.lookup_unposted die p.1) _ b

@[simp] theorem Block.dropLines_unposted (b : Block) (t h a n : Nat) : b.unposted.dropLines t h a n = (b.dropLines t h a n).unposted := by
  unfold Block.dropLines
  simp only [Block.tile_unposted, Block.setTile_unposted]
  split <;> simp [*]

@[simp] theorem Block.setPoison_unposted (b : Block) (a : Nat) (v : Bool) : b.unposted.setPoison a v = (b.setPoison a v).unposted := by
  unfold Block.setPoison
  rw [Block.resolveOwn_unposted]
  split <;> rfl

@[simp] theorem Block.poisonRange_unposted (b : Block) (a n : Nat) : b.unposted.poisonRange a n = (b.poisonRange a n).unposted :=
  Block.foldl_unposted (fun x p => x.setPoison_unposted p.1 true) _ b

/-! ## Demands and writes -/

@[simp] theorem Block.requestPageIn_unposted (b : Block) (v : Nat) (y : MoveWhy) (o : Option Nat) :
    b.unposted.requestPageIn v y o = (b.requestPageIn v y o).unposted := by
  unfold Block.requestPageIn
  rw [Block.hbm_unposted]
  split
  · rfl
  · split
    · split <;> rfl
    · rfl

@[simp] theorem Block.demand_unposted (b : Block) (t : TaskSt) (l : List (Nat × Nat)) (i : Bool) :
    b.unposted.demand t l i = silent (b.demand t l i) := by
  unfold Block.demand
  refine foldl_silent (fun p r => ?_) l _ b
  obtain ⟨a, x⟩ := p
  cases a with
  | ok =>
    simp only [silent_mk, Block.probe_unposted, Block.taskAddr_unposted, Block.reaches_unposted, Block.hbm_unposted,
      Block.requestPageIn_unposted]
    split
    · split <;> simp [*]
    · rfl
    · rfl
    · rfl
    · split
      · rfl
      · split <;> simp [*]
  | wait => rfl
  | fault code => rfl

@[simp] theorem Block.taskWrite_unposted (b : Block) (t : TaskSt) (tile : Option (Fin 16)) (w : List (Nat × List Byte)) (i : Bool) :
    b.unposted.taskWrite t tile w i = silent (b.taskWrite t tile w i) := by
  unfold Block.taskWrite
  simp only [Block.protected_unposted, Block.demand_unposted, silent_fst, silent_snd]
  split
  · rfl
  · split
    · refine Prod.ext rfl (Block.foldl_unposted (fun x p => ?_) w _)
      cases tile <;> simp
    · rfl

/-! ## Reads -/

@[simp] theorem Block.served_unposted (b : Block) (die : Nat) (t : TaskSt) (l : List (Nat × Nat)) :
    b.unposted.served die t l = (b.served die t l).unposted := b.touched_unposted die _

@[simp] theorem Block.ocRead_unposted (b : Block) (t : Fin 16) (h l : Nat) (g : Option OcLine) :
    b.unposted.ocRead t h l g = silent (b.ocRead t h l g) := by
  unfold Block.ocRead
  simp only [Block.tile_unposted]
  split
  · rfl
  · split
    · simp only [Block.lookup_unposted, Block.touchHbm_unposted]
      rfl
    · rfl

@[simp] theorem Block.readRanges_unposted (b : Block) (t : Fin 16) (k : TaskSt) (cached : Bool) (h : Nat) (g : Nat → Option OcLine)
    (l : List (Nat × Nat)) : b.unposted.readRanges t k cached h g l = silent (b.readRanges t k cached h g l) := by
  unfold Block.readRanges
  split
  · refine foldl_silent (fun p i => ?_) _ _ b
    simp
  · rfl

@[simp] theorem Block.portRanges_unposted (b : Block) (c : Fin 128) (t : TaskSt) (d : Desc) (n : Nat) (l : List (Nat × Nat)) :
    b.unposted.portRanges c t d n l = silent (b.portRanges c t d n l) := by
  unfold Block.portRanges
  simp only [Block.portIn_unposted, Block.cacheable_unposted, Block.readRanges_unposted, Block.served_unposted]
  split <;> rfl

@[simp] theorem Block.portSource_unposted (b : Block) (c : Fin 128) (t : TaskSt) (s : Source) (n : Nat) (l : List (Nat × Nat)) :
    b.unposted.portSource c t s n l = silent (b.portSource c t s n l) := by
  unfold Block.portSource
  simp only [Block.portRanges_unposted, Block.portIn_unposted, Block.cacheable_unposted, Block.readRanges_unposted]
  split <;> rfl

/-- A shard's version is put into the record, and shown where the record's entry is selected. -/
def Block.putRecord (b : Block) (i ver : Nat) : Block :=
  let x := { b with shm := { b.shm with record := Sparse.put (fun _ => 0) b.shm.record i (2 ^ 16 + ver % 2 ^ 16) } }
  if x.rdN .shm Reg.SHM_REC_SEL = i then x.wrN .shm Reg.SHM_REC_DATA (2 ^ 31 + ver % 2 ^ 16) else x

/-- The first shard of another version than the record's is noted, until software clears it. -/
def Block.taint (b : Block) (i : Nat) : Block :=
  if wbit (b.rd .shm Reg.SHM_REC_STAT) 31 then b else b.wrN .shm Reg.SHM_REC_STAT (2 ^ 31 + i)

theorem Block.checkVersion_some (b : Block) (n : Bool) (i ver : Nat) : b.checkVersion n (some (i, ver)) =
    if Sparse.get (fun _ => 0) b.shm.record i = 0 then (none, b.putRecord i ver)
    else if Sparse.get (fun _ => 0) b.shm.record i % 2 ^ 16 = ver then (none, b)
    else if n then (none, (b.putRecord i ver).count .shm Reg.SHM_NEWER 1)
    else (some Ev.SHARD_VERSION, (b.count .shm Reg.SHM_VERSION_FAULTS 1).taint i) := rfl

@[simp] theorem Block.putRecord_unposted (b : Block) (i ver : Nat) : b.unposted.putRecord i ver = (b.putRecord i ver).unposted := by
  unfold Block.putRecord
  simp only [apply_ite Block.unposted]
  rfl

@[simp] theorem Block.taint_unposted (b : Block) (i : Nat) : b.unposted.taint i = (b.taint i).unposted := by
  unfold Block.taint
  simp only [apply_ite Block.unposted]
  rfl

@[simp] theorem Block.checkVersion_unposted (b : Block) (n : Bool) (v : Option (Nat × Nat)) :
    b.unposted.checkVersion n v = silent (b.checkVersion n v) := by
  cases v with
  | none => rfl
  | some p =>
    obtain ⟨i, ver⟩ := p
    rw [Block.checkVersion_some, Block.checkVersion_some]
    simp only [apply_ite silent, silent_mk, Block.shm_unposted, Block.putRecord_unposted, Block.count_unposted, Block.taint_unposted]

/-! ## Other modules -/

@[simp] theorem Block.send_unposted (b : Block) (p : Packet) : b.unposted.send p = silent (b.send p) := by
  unfold Block.send
  simp only [apply_ite silent, Block.fenced_unposted, Block.moduleId_unposted, Block.outSpoke_unposted]
  refine congrArg (ite _ _) (congrArg (ite _ _) ?_)
  split <;> rfl

@[simp] theorem Block.request_unposted (b : Block) (o : ReqOwner) (d k q n a : Nat) (l : List Byte) :
    b.unposted.request o d k q n a l = silent (b.request o d k q n a l) := by
  unfold Block.request
  simp only [Block.lly_unposted, Block.packet_unposted, Block.send_unposted, silent_fst, silent_snd, Block.now_unposted]
  split <;> rfl

@[simp] theorem Block.forgetPoison_unposted (b : Block) (m a n : Nat) : b.unposted.forgetPoison m a n = (b.forgetPoison m a n).unposted := by
  unfold Block.forgetPoison
  simp only [apply_ite Block.unposted, Block.lly_unposted]
  rfl

@[simp] theorem Block.readRemote_unposted (b : Block) (o : ReqOwner) (m : Nat) (l : List (Nat × Nat)) :
    b.unposted.readRemote o m l = silent (b.readRemote o m l) := by
  unfold Block.readRemote
  refine foldl_silent (fun p r => ?_) _ _ b
  obtain ⟨a, x⟩ := p
  cases a with
  | some code => rfl
  | none => simp

@[simp] theorem Block.askRemote_unposted (b : Block) (c : Fin 128) (t : TaskSt) (l : List (Nat × Nat × Nat)) :
    b.unposted.askRemote c t l = silent (b.askRemote c t l) := by
  unfold Block.askRemote
  simp only [Block.core_unposted, Block.remoteHere_unposted, Block.setCore_unposted]
  split
  · rfl
  · rw [foldl_silent]
    · rfl
    · intro p q
      obtain ⟨a, x⟩ := p
      cases a with
      | some code => rfl
      | none => simp

@[simp] theorem Block.keepRemote_unposted (b : Block) (h : Nat) (w : List (Nat × List Byte)) :
    b.unposted.keepRemote h w = (b.keepRemote h w).unposted := by
  unfold Block.keepRemote
  split <;> rfl

@[simp] theorem Block.sourcesReady_unposted (b : Block) (c : Fin 128) (t : TaskSt) (l : List (Source × List (Nat × Nat))) (n i : Bool) :
    b.unposted.sourcesReady c t l n i = silent (b.sourcesReady c t l n i) := by
  unfold Block.sourcesReady
  simp only [Block.sourceFits_unposted, Block.demand_unposted, silent_fst, silent_snd, Block.remoteNeeds_unposted,
    Block.askRemote_unposted]
  split
  · rfl
  · split
    · split
      · refine foldl_silent (fun p s => ?_) l _ _
        obtain ⟨a, x⟩ := p
        cases a with
        | ok => simp
        | wait => rfl
        | fault code => rfl
      · rfl
    · rfl

@[simp] theorem Block.writeOut_unposted (b : Block) (c : Fin 128) (t : TaskSt) (h : Nat) (w : List (Nat × List Byte)) (i : Bool) :
    b.unposted.writeOut c t h w i = silent (b.writeOut c t h w i) := by
  unfold Block.writeOut
  split
  · exact b.taskWrite_unposted t _ w i
  · refine foldl_silent (fun p s => ?_) _ _ b
    obtain ⟨a, x⟩ := p
    cases a with
    | ok =>
      simp only [silent_mk, Block.request_unposted, silent_fst, silent_snd, Block.dropLines_unposted]
      split <;> rfl
    | wait => rfl
    | fault code => rfl

end Sys2Proof.Machine
end

section
/-! SUPPORT. Neither does the taking of a block by an engine look at the events of a cycle, nor what a derailleur reads and writes row by
row. -/

namespace Sys2Proof.Machine

open Sys2Proof

/-! ## A fault, and a block fetched again -/

@[simp] theorem Block.dropPrologue_unposted (b : Block) (c : Fin 128) : b.unposted.dropPrologue c = (b.dropPrologue c).unposted := by
  unfold Block.dropPrologue
  rw [Block.begunAhead_unposted, Block.foldl_unposted (fun _ _ => rfl)]
  rfl

@[simp] theorem Block.undoAhead_unposted (b : Block) (c : Fin 128) (n : Nat) (t : TaskSt) :
    b.unposted.undoAhead c n t = (b.undoAhead c n t).unposted := by
  have hdrop : ∀ x : Block, (if kindResource t.task.kind.toNat = 0 ∧ !(x.unposted.begunAhead c).isEmpty then x.unposted.dropPrologue c
      else x.unposted) = (if kindResource t.task.kind.toNat = 0 ∧ !(x.begunAhead c).isEmpty then x.dropPrologue c else x).unposted := by
    intro x
    simp only [apply_ite Block.unposted, Block.dropPrologue_unposted]
    rfl
  unfold Block.undoAhead
  rw [Block.overlapping_unposted]
  cases b.overlapping c n with
  | none => exact hdrop b
  | some y =>
    dsimp only
    rw [Block.mapTask_unposted, ← apply_ite Block.unposted]
    exact hdrop _

@[simp] theorem Block.dropFetches_unposted (b : Block) (c : Fin 128) (n : Nat) (t : TaskSt) :
    b.unposted.dropFetches c n t = (b.dropFetches c n t).unposted := by
  unfold Block.dropFetches
  simp only [apply_ite Block.unposted]
  rfl

@[simp] theorem Block.endEngine_unposted (b : Block) (c : Fin 128) (t : TaskSt) :
    b.unposted.endEngine c t = (b.endEngine c t).unposted := by
  unfold Block.endEngine
  split
  · unfold Block.arrayEnd
    simp only [apply_ite Block.unposted]
    rfl
  · rfl
  · rfl

@[simp] theorem Block.coreFault_unposted (b : Block) (c : Fin 128) (n code : Nat) :
    b.unposted.faultTask (.core c) n code = (b.faultTask (.core c) n code).unposted := by
  cases hn : b.bySerial (.core c) n with
  | none =>
    unfold Block.faultTask
    rw [Block.bySerial_unposted, hn]
  | some t =>
    by_cases hp : t.phase = .running
    · rw [Block.faultTask_core code hn hp, Block.faultTask_core (b := b.unposted) code hn hp]
      simp
    · unfold Block.faultTask
      rw [Block.bySerial_unposted, hn]
      dsimp only
      rw [if_pos hp, if_pos hp]

@[simp] theorem Block.registerGranules_unposted (b : Block) (c : Fin 128) (g : List (Nat × Nat)) :
    b.unposted.registerGranules c g = (b.registerGranules c g).unposted := by
  unfold Block.registerGranules
  refine Block.foldl_unposted (fun x p => ?_) g b
  simp only [apply_ite Block.unposted]
  rfl

@[simp] theorem Block.issue_unposted (b : Block) (c : Fin 128) (t : TaskSt) (port : Nat) (p : Nat × Nat) (s : Source) (u d : Nat)
    (r : Bool) : b.unposted.issue c t port p s u d r = silent (b.issue c t port p s u d r) := by
  unfold Block.issue
  rw [show b.unposted.newSerial = silent b.newSerial from rfl]
  simp only [silent_fst, silent_snd, Block.setCore_unposted, Block.core_unposted, Block.now_unposted, Block.granules_unposted,
    Block.cacheable_unposted, Block.missing_unposted, Block.fetching_unposted, Block.entryAt_unposted, Block.registerGranules_unposted,
    Block.taskAddr_unposted, Block.lookups_unposted, Block.hbmPieces_unposted, Block.queueSlots_unposted, Block.readRemote_unposted,
    apply_ite silent, silent_mk]
  rfl

@[simp] theorem Block.checkTracked_unposted (b : Block) (c : Fin 128) (t : TaskSt) (f : Fetched) (p : Nat × Nat) (s : Source) :
    b.unposted.checkTracked c t f p s = silent (b.checkTracked c t f p s) := by
  unfold Block.checkTracked
  simp only [Block.granules_unposted, Block.mapFetched_unposted, Block.coreFault_unposted, Block.dropFetched_unposted,
    Block.count_unposted, Block.mapTask_unposted, Block.demand_unposted, Block.issue_unposted, silent_fst, silent_snd]
  split
  · simp [*]
  · split
    · simp [*]
    · split <;> simp [*]

/-! ## A block taken -/

@[simp] theorem Block.take_unposted (b : Block) (c : Fin 128) (t : TaskSt) (port : Nat) (carry : Bool) :
    b.unposted.take c t port carry = silent (b.take c t port carry) := by
  have hver : ∀ (p : Prop) [Decidable p] (y : Block) (n : Bool) (v : Option (Nat × Nat)),
      (if p then (none, y.unposted) else silent (y.checkVersion n v)) = silent (if p then (none, y) else y.checkVersion n v) :=
    fun p _ y n v => by split <;> rfl
  have htrack : ∀ (p : Prop) [Decidable p] (f : Fetched) (q : Nat × Nat) (s : Source),
      (if p then silent (b.checkTracked c t f q s) else (true, b.unposted)) = silent (if p then b.checkTracked c t f q s else (true, b)) :=
    fun p _ f q s => by split <;> rfl
  unfold Block.take
  simp only [Block.entryAt_unposted, Block.descAt_unposted, Block.source_unposted, Block.fetched?_unposted]
  cases b.source (b.descAt t t.pos (b.entryAt t t.pos)) (b.entryAt t t.pos) with
  | none => rfl
  | some s =>
    dsimp only
    cases b.fetched? c port t.serial (posKey t.pos) with
    | some f =>
      simp only [Block.checkTracked_unposted, htrack, silent_fst, silent_snd, Block.bySerial_unposted, Block.checkVersion_unposted, hver,
        Block.dropFetched_unposted]
      generalize (if s.d.tracked = true ∧ (!f.checked) = true then b.checkTracked c t f t.pos s else (true, b)) = k
      obtain ⟨ok, y⟩ := k
      dsimp only
      generalize (if f.checked = true then (none, y) else y.checkVersion (b.descAt t t.pos (b.entryAt t t.pos)).allowNewer f.version) = v
      obtain ⟨code, z⟩ := v
      split
      · rfl
      · split
        · cases (y.bySerial (.core c) t.serial).bind (fun x => x.faultCode) <;> rfl
        · cases code with
          | some code => rfl
          | none =>
            dsimp only
            cases f.poisoned with
            | nil => rfl
            | cons a l => cases carry <;> rfl
    | none =>
      simp only [Block.sourceFits_unposted, Block.demand_unposted, silent_fst, silent_snd, Block.checkVersion_unposted,
        Block.portRanges_unposted]
      split
      · rfl
      · split
        · simp [*]
        · split
          · split
            · simp [*]
            · split
              · split <;> simp [*]
              · simp [*]
          · simp [*]

/-! ## Rows -/

@[simp] theorem Block.rowsReady_unposted (b : Block) (c : Fin 128) (t : TaskSt) (co : Bool) (l : List RowWant) (i : Bool) :
    b.unposted.rowsReady c t co l i = silent (b.rowsReady c t co l i) := by
  unfold Block.rowsReady
  simp only [Block.wantSources_unposted, Block.core_unposted, Block.sourcesReady_unposted]
  split <;> rfl

@[simp] theorem Block.oneRequest_unposted (b : Block) (c : Fin 128) (t : TaskSt) (co : Bool) (s : Source) (q : RowReq) :
    b.unposted.oneRequest c t co s q = silent (b.oneRequest c t co s q) := by
  unfold Block.oneRequest
  simp only [Block.core_unposted, Block.portSource_unposted, silent_fst, silent_snd, Block.setCore_unposted]
  split
  · refine Prod.ext rfl ?_
    simp only [silent_snd, ← apply_ite Block.unposted, Block.count_unposted]
  · refine Prod.ext rfl ?_
    simp only [silent_snd, ← apply_ite Block.unposted]

@[simp] theorem Block.readRow_unposted (b : Block) (c : Fin 128) (t : TaskSt) (co : Bool) (w : RowWant) :
    b.unposted.readRow c t co w = silent (b.readRow c t co w) := by
  unfold Block.readRow
  rw [Block.rowSources_unposted]
  refine foldl_silent (fun p s => ?_) _ _ b
  have hreq : ∀ (x : Block) (l : List RowReq), l.foldl (fun (z : List RowReq × Block) q =>
      (z.1 ++ [(z.2.oneRequest c t co s q).1], (z.2.oneRequest c t co s q).2)) ([], x.unposted) =
    silent (l.foldl (fun (z : List RowReq × Block) q =>
      (z.1 ++ [(z.2.oneRequest c t co s q).1], (z.2.oneRequest c t co s q).2)) ([], x)) :=
    fun x l => foldl_silent (fun z q => by simp) l _ x
  simp only [silent_snd, silent_fst, hreq, silent_mk]

@[simp] theorem Block.rowsOpen_unposted (b : Block) (c : Fin 128) (t : TaskSt) (o : Desc) (rows : List Nat) (c0 n : Nat)
    (i old : Bool) : b.unposted.rowsOpen c t o rows c0 n i old = silent (b.rowsOpen c t o rows c0 n i old) := by
  unfold Block.rowsOpen
  simp only [Block.wantSources_unposted, Block.sourceFits_unposted, Block.protected_unposted, Block.sourcesReady_unposted,
    silent_fst, silent_snd, Block.poisonIn_unposted, Block.remotePoisoned_unposted]
  split
  · rfl
  · split
    · rfl
    · split
      · simp [*]
      · split
        · split
          · simp [*]
          · split <;> simp [*]
        · simp [*]

@[simp] theorem Block.writeRow_unposted (b : Block) (c : Fin 128) (t : TaskSt) (o : Desc) (row c0 : Nat) (codes scales : List Nat)
    (i : Bool) : b.unposted.writeRow c t o row c0 codes scales i = silent (b.writeRow c t o row c0 codes scales i) := by
  unfold Block.writeRow
  rw [Block.rowSources_unposted]
  refine congrArg Prod.fst (List.foldl_hom (fun p : (Ready × Block) × (List Nat × List Nat) => (silent p.1, p.2))
    (init := ((.ok, b), (codes, scales))) (fun p s => ?_))
  obtain ⟨⟨a, x⟩, k⟩ := p
  cases a with
  | ok => simp
  | wait => rfl
  | fault code => rfl

@[simp] theorem Block.drnCount_unposted (b : Block) (c : Fin 128) (o n q : Nat) :
    b.unposted.drnCount c o n q = (b.drnCount c o n q).unposted := by
  unfold Block.drnCount
  split <;> rfl

@[simp] theorem Block.drnOvf_unposted (b : Block) (c : Fin 128) (f n : Nat) : b.unposted.drnOvf c f n = (b.drnOvf c f n).unposted :=
  b.drnCount_unposted c _ n 1

@[simp] theorem Block.countConv_unposted (b : Block) (c : Fin 128) (f : Nat) (v : Conv) :
    b.unposted.countConv c f v = (b.countConv c f v).unposted := by
  unfold Block.countConv Block.drnVanish
  simp

@[simp] theorem Block.writeConv_unposted (b : Block) (c : Fin 128) (t : TaskSt) (o : Desc) (row c0 : Nat) (v : Conv) (i : Bool) :
    b.unposted.writeConv c t o row c0 v i = silent (b.writeConv c t o row c0 v i) := by
  unfold Block.writeConv
  simp

@[simp] theorem Block.carryPoison_unposted (b : Block) (t : TaskSt) (r : RowData) (o : Desc) (row c0 n : Nat) :
    b.unposted.carryPoison t r o row c0 n = (b.carryPoison t r o row c0 n).unposted := by
  unfold Block.carryPoison
  rw [Block.rowSources_unposted]
  split
  · rfl
  · refine Block.foldl_unposted (fun x p => ?_) _ b
    dsimp only
    split
    · rfl
    · refine Block.foldl_unposted (fun y g => ?_) _ x
      simp only [apply_ite Block.unposted, Block.taskAddr_unposted, Block.poisonRange_unposted]

@[simp] theorem Block.moveRow_unposted (b : Block) (c : Fin 128) (t : TaskSt) (r : RowData) (o : Desc) (row c0 n : Nat) (i : Bool) :
    b.unposted.moveRow c t r o row c0 n i = silent (b.moveRow c t r o row c0 n i) := by
  unfold Block.moveRow
  simp only [Block.writeRow_unposted, silent_fst, silent_snd, Block.carryPoison_unposted]
  split <;> rfl

@[simp] theorem Block.zeroRow_unposted (b : Block) (c : Fin 128) (t : TaskSt) (o : Desc) (row c0 n : Nat) (i : Bool) :
    b.unposted.zeroRow c t o row c0 n i = silent (b.zeroRow c t o row c0 n i) := b.writeRow_unposted c t o row c0 _ _ i

@[simp] theorem Block.openSum_unposted (b : Block) (l : List Num) : b.unposted.openSum l = silent (b.openSum l) := by
  unfold Block.openSum
  rw [Block.free_unposted]
  split <;> rfl

@[simp] theorem Block.addInto_unposted (b : Block) (c : Fin 128) (t : TaskSt) (o : Desc) (row c0 : Nat) (int : Bool)
    (l : List (List Num)) (i : Bool) : b.unposted.addInto c t o row c0 int l i = silent (b.addInto c t o row c0 int l i) := by
  unfold Block.addInto
  simp only [Block.readRow_unposted, silent_fst, silent_snd, Block.writeConv_unposted]
  split
  · rfl
  · rw [foldl_silent]
    · simp
    · intro p j
      dsimp only [silent_fst, silent_snd]
      split <;> simp

@[simp] theorem Block.putRow_unposted (b : Block) (c : Fin 128) (t : TaskSt) (o : Desc) (row c0 : Nat) (accum : Bool) (l : List Num)
    (i : Bool) : b.unposted.putRow c t o row c0 accum l i = silent (b.putRow c t o row c0 accum l i) := by
  unfold Block.putRow
  simp only [apply_ite silent, Block.addInto_unposted, Block.writeConv_unposted]

end Sys2Proof.Machine
end

section
/-! SUPPORT. ROUTE and COMBINE do not look at the events of a cycle. -/

namespace Sys2Proof.Machine

open Sys2Proof

/-- Scores against the sum of the exponentials of others (R207). -/
def Block.softmax (b : Block) (mine all : List Num) : List Num × Block :=
  if maxScore all = .inf true then (mine.map (fun _ => Num.zero), b)
  else
    let s := b.openSum (all.map (gateExp (maxScore all)))
    (mine.map (fun x => rnd32 ((gateExp (maxScore all) x).div s.1)), s.2)

/-- The weights of placed columns by the GATE of the record, before RENORM (R207). -/
def Block.gateWeights (b : Block) (gate : Nat) (mine all : List Num) : List Num × Block :=
  match gate with
  | 0 => b.softmax mine all
  | 1 => b.softmax mine mine
  | 2 => (mine.map (fun x => drainFnVal 7 0 Num.zero x), b)
  | _ => (mine, b)

theorem Block.weights_eq (b : Block) (r : TaskRec) (l : List Num) (k : List Nat) : b.weights r l k =
    let w := b.gateWeights (r.par 2 1) (k.map (fun i => l.getD i Num.zero)) l
    if r.dflag 1 then
      let s := w.2.openSum w.1
      if s.1.isZero then (w.1, s.2) else (w.1.map (fun x => rnd32 (x.div s.1)), s.2)
    else w := rfl

@[simp] theorem Block.softmax_unposted (b : Block) (mine all : List Num) : b.unposted.softmax mine all = silent (b.softmax mine all) := by
  unfold Block.softmax
  simp only [apply_ite silent, silent_mk, Block.openSum_unposted, silent_fst, silent_snd]

@[simp] theorem Block.gateWeights_unposted (b : Block) (gate : Nat) (mine all : List Num) :
    b.unposted.gateWeights gate mine all = silent (b.gateWeights gate mine all) := by
  unfold Block.gateWeights
  split
  · exact b.softmax_unposted mine all
  · exact b.softmax_unposted mine mine
  · rfl
  · rfl

@[simp] theorem Block.weights_unposted (b : Block) (r : TaskRec) (l : List Num) (k : List Nat) :
    b.unposted.weights r l k = silent (b.weights r l k) := by
  rw [Block.weights_eq, Block.weights_eq, Block.gateWeights_unposted]
  simp only [silent_fst, silent_snd, Block.openSum_unposted, apply_ite silent, silent_mk]

@[simp] theorem Block.routeToken_unposted (b : Block) (c : Fin 128) (t : TaskSt) (g : List Seg) (row : Nat) (l : List Num) (k : List Nat)
    (p : List Placed) : b.unposted.routeToken c t g row l k p = silent (b.routeToken c t g row l k p) := by
  unfold Block.routeToken
  simp only [Block.desc_unposted, Block.weights_unposted, silent_fst, silent_snd]
  rw [Block.eachReady_unposted]
  · simp only [silent_fst, silent_snd, Block.taskWrite_unposted]
    split <;> rfl
  · intro x q
    simp

@[simp] theorem Block.routeSegment_unposted (b : Block) (c : Fin 128) (t : TaskSt) (s : Seg) (i f n : Nat) :
    b.unposted.routeSegment c t s i f n = silent (b.routeSegment c t s i f n) := by
  unfold Block.routeSegment
  simp only [Block.desc_unposted]
  rw [Block.eachReady_unposted (fun x k => by simp)]
  simp only [silent_fst, silent_snd, Block.taskWrite_unposted, Block.store_unposted]
  split
  · split
    · split
      · simp [*]
      · split <;> simp [*]
    · simp [*]
  · rfl

theorem Block.listBlocked_unposted (b : Block) (c : Fin 128) (t : TaskSt) (l : List (Nat × Nat)) :
    b.unposted.listBlocked c t l = (b.listBlocked c t l).map silent := by
  unfold Block.listBlocked
  rw [List.map_findSome?]
  congr 1
  funext p
  simp only [Function.comp_apply, Block.take_unposted, silent_fst, silent_snd]
  split <;> rfl

@[simp] theorem Block.routePlan_unposted (b : Block) (c : Fin 128) (t : TaskSt) (l : List (Nat × Nat)) :
    b.unposted.routePlan c t l = silent (b.routePlan c t l) := by
  unfold Block.routePlan
  simp only [Block.desc_unposted, Block.entryAt_unposted, Block.core_unposted, Block.moduleId_unposted]
  rw [foldl_silent (fun p i => by simp; rfl)]
  rfl

@[simp] theorem Block.routeReady_unposted (b : Block) (c : Fin 128) (t : TaskSt) (p : RoutePlan) (i : Bool) :
    b.unposted.routeReady c t p i = silent (b.routeReady c t p i) := by
  unfold Block.routeReady
  simp only [Block.desc_unposted, Block.rowsReady_unposted, silent_fst, silent_snd, Block.rowsOpen_unposted, Block.demand_unposted]
  split
  · split <;> rfl
  · rfl

@[simp] theorem Block.routeMove_unposted (b : Block) (c : Fin 128) (t : TaskSt) (p : RoutePlan) :
    b.unposted.routeMove c t p = silent (b.routeMove c t p) := by
  unfold Block.routeMove
  rw [Block.eachReady_unposted (fun x k => by simp)]
  simp only [silent_fst, silent_snd]
  split
  · rw [Block.eachReady_unposted (fun x k => by simp)]
  · rfl

@[simp] theorem Block.combineRow_unposted (b : Block) (c : Fin 128) (t : TaskSt) (row : Nat) (g : List (Nat × Nat)) (k : Nat × Nat)
    (i : Bool) : b.unposted.combineRow c t row g k i = silent (b.combineRow c t row g k i) := by
  unfold Block.combineRow
  simp only [Block.desc_unposted]
  split
  · rfl
  · rw [foldl_silent (fun p i => by simp)]
    simp only [silent_fst, silent_snd, Block.drnOvf_unposted, Block.putRow_unposted]
    split <;> rfl

end Sys2Proof.Machine
end

section
/-! SUPPORT. The derailleur's account of a step (R45, R174): what it leaves of its counters, its task and memory; the codes of a row from its
first column. -/

namespace Sys2Proof.Machine

open Sys2Proof

/-! ## An engine's step without words in error -/

/-- An engine whose reads find no word in error steps as its task sees the module. -/
theorem Block.engine_none {b : Block} {c : Fin 128} {port : Nat} {q : TaskSt} (f : Block → Block) (hq : b.portTask c port = some q) :
    b.engine c port .none f = { f (b.seenBy q) with lens := [] } := by
  unfold Block.engine
  rw [hq]
  rfl

theorem Block.seenBy_unposted (b : Block) (q : TaskSt) : b.unposted.seenBy q = (b.seenBy q).unposted := rfl

theorem Block.portTask_unposted (b : Block) (c : Fin 128) (port : Nat) : b.unposted.portTask c port = b.portTask c port := rfl

/-- The module after the step of a task: the records are memory's again, and the events of before still wait. -/
def Block.afterStep (y : Block) (l : List Posted) : Block := { y with posted := l, lens := [] }

theorem Block.mem_afterStep (y : Block) (l : List Posted) : (y.afterStep l).mem = y.mem := rfl
theorem Block.rd64_afterStep (y : Block) (l : List Posted) (p : Page) (o : Nat) : (y.afterStep l).rd64 p o = y.rd64 p o := rfl
theorem Block.bySerial_afterStep (y : Block) (l : List Posted) (u : UnitId) (n : Nat) :
    (y.afterStep l).bySerial u n = y.bySerial u n := rfl

/-- A step of an engine at a core that raises no event completes with what it makes of the module as its task sees it. -/
theorem completes_engine {i : Instr} {s : State} {c : Fin 128} {port : Nat} {q : TaskSt} {f : Block → Block} {y : Block}
    {P : Block → Prop} (he : exec i s = s.onBlock (Block.engine c port .none f)) (hr : s.block.running = true)
    (hq : s.block.portTask c port = some q) (hf : f (s.block.seenBy q).unposted = y.unposted)
    (hp : P (y.afterStep s.block.posted)) : Completes i s P := by
  refine completes_quiet (y := { y.unposted with lens := [] }) he hr ?_ rfl hp
  rw [Block.engine_none f (by rw [Block.portTask_unposted, hq]), Block.seenBy_unposted, hf]

/-! ## Work items, cycles and the entry passed -/

/-- A task that has done work items and taken cycles. -/
def TaskSt.worked (n cycles : Nat) (t : TaskSt) : TaskSt := { t with items := t.items + n, cycles := t.cycles + cycles }

/-- A task past its entry. -/
def TaskSt.pastEntry (t : TaskSt) : TaskSt := { t.advance with cycles := t.cycles + 0 }

theorem Block.drlDone_part (b : Block) (c : Fin 128) (t : TaskSt) (n cycles lanes : Nat) :
    b.drlDone c t n false cycles lanes = { b.mapTask (.core c) t.serial (TaskSt.worked n cycles) with
      regs := (b.drlDone c t n false cycles lanes).regs } := rfl

theorem Block.drlDone_whole (b : Block) (c : Fin 128) (t : TaskSt) (n cycles lanes : Nat) :
    b.drlDone c t n true cycles lanes = (b.drlDone c t n false cycles lanes).passEntry (.core c) t.serial 0 := rfl

theorem Block.bySerial_drlDone {b : Block} {c : Fin 128} {t u : TaskSt} (n cycles lanes : Nat)
    (h : b.bySerial (.core c) t.serial = some u) :
    (b.drlDone c t n false cycles lanes).bySerial (.core c) t.serial = some (u.worked n cycles) := by
  rw [Block.drlDone_part]
  exact Block.bySerial_mapTask_some (TaskSt.worked n cycles) (fun _ => rfl) h

theorem Block.forgetAsked_eq (b : Block) (u : UnitId) (n : Nat) : b.forgetAsked u n = { b with cores := (b.forgetAsked u n).cores } := by
  unfold Block.forgetAsked
  cases u with
  | core c => dsimp only; split <;> rfl
  | gang | die | wholeModule | group => rfl

theorem Block.mem_passEntry (b : Block) (u : UnitId) (n k : Nat) : (b.passEntry u n k).mem = b.mem := by
  unfold Block.passEntry
  rw [Block.forgetAsked_eq]
  rfl

theorem Block.bySerial_passEntry {b : Block} {u : UnitId} {n : Nat} {t : TaskSt} (h : b.bySerial u n = some t) :
    (b.passEntry u n 0).bySerial u n = some t.pastEntry := by
  unfold Block.passEntry
  rw [Block.forgetAsked_eq]
  exact Block.bySerial_mapTask_some TaskSt.pastEntry (fun _ => rfl) h

theorem Block.mem_drlDone (b : Block) (c : Fin 128) (t : TaskSt) (n : Nat) (whole : Bool) (cycles lanes : Nat) :
    (b.drlDone c t n whole cycles lanes).mem = b.mem := by
  cases whole with
  | false => rfl
  | true => rw [Block.drlDone_whole, Block.mem_passEntry]; rfl

theorem Block.bySerial_drlDone_whole {b : Block} {c : Fin 128} {t u : TaskSt} (n cycles lanes : Nat)
    (h : b.bySerial (.core c) t.serial = some u) :
    (b.drlDone c t n true cycles lanes).bySerial (.core c) t.serial = some (u.worked n cycles).pastEntry := by
  rw [Block.drlDone_whole]
  exact Block.bySerial_passEntry (Block.bySerial_drlDone n cycles lanes h)

/-- The count of work items advances by those done; cycles, lane cycles and the rate shown stand elsewhere. -/
theorem Block.items_drlDone (b : Block) (c : Fin 128) (t : TaskSt) (n cycles lanes : Nat) :
    (b.drlDone c t n false cycles lanes).rd64 (.drl c) Reg.DRL_ITEMS = min (b.rd64 (.drl c) Reg.DRL_ITEMS + n) (2 ^ 64 - 1) := by
  have hcount : ∀ (x : Block) (o k : Nat), (o = Reg.DRL_BUSY ∨ o = Reg.DRL_LANE_BUSY) →
      (x.count (.drl c) o k).rd64 (.drl c) Reg.DRL_ITEMS = x.rd64 (.drl c) Reg.DRL_ITEMS := by
    rintro x o k (rfl | rfl) <;>
      exact x.rd64_other (x.rd_count_other k (by decide) (by decide) (.inr (by decide)))
        (x.rd_count_other k (by decide) (by decide) (.inr (by decide)))
  have hstat : ∀ (x : Block) (v : Word), (x.wr (.drl c) Reg.STAT v).rd64 (.drl c) Reg.DRL_ITEMS = x.rd64 (.drl c) Reg.DRL_ITEMS :=
    fun x v => x.rd64_other (x.rd_wr_other v (by decide) (by decide) (.inr (by decide)))
      (x.rd_wr_other v (by decide) (by decide) (.inr (by decide)))
  unfold Block.drlDone
  dsimp only [Bool.false_eq_true, if_false]
  unfold Block.wrField
  rw [if_neg (by decide), hstat, hcount _ _ _ (.inr rfl), hcount _ _ _ (.inl rfl), Block.rd64_count _ _ _ _ (by decide)]
  rfl

theorem Block.drlDone_unposted (b : Block) (c : Fin 128) (t : TaskSt) (n : Nat) (whole : Bool) (cycles lanes : Nat) :
    b.unposted.drlDone c t n whole cycles lanes = (b.drlDone c t n whole cycles lanes).unposted := by
  cases whole with
  | false => rfl
  | true =>
    have hforget : ∀ x : Block, x.unposted.forgetAsked (.core c) t.serial = (x.forgetAsked (.core c) t.serial).unposted := by
      intro x
      unfold Block.forgetAsked
      dsimp only
      rw [apply_ite Block.unposted]
      rfl
    rw [Block.drlDone_whole, Block.drlDone_whole, show b.unposted.drlDone c t n false cycles lanes =
      (b.drlDone c t n false cycles lanes).unposted from rfl]
    unfold Block.passEntry
    rw [hforget]
    rfl

/-- One step carried on over is that step. -/
theorem Block.eachReady_single {α : Type} (b : Block) (x : α) (f : Block → α → Ready × Block) : b.eachReady [x] f = f b x := rfl

/-! ## Codes of a row -/

/-- The pieces of columns from the first on cover each column once. -/
theorem sum_pieces_zero (n : Nat) : ((pieces 32 0 n).map (fun p => p.2)).sum = n := by
  have hpart : ∀ k, ((List.range k).map (fun i => min n ((i + 1) * 32) - i * 32)).sum = min n (k * 32) := by
    intro k
    induction k with
    | zero => simp
    | succ k ih =>
      rw [List.range_succ, List.map_append, List.sum_append, ih]
      simp only [List.map_cons, List.map_nil, List.sum_cons, List.sum_nil]
      omega
  unfold pieces
  by_cases hn : n = 0
  · simp [hn]
  · rw [if_neg hn, List.map_map]
    have hfun : ((fun p : Nat × Nat => p.2) ∘ fun i => (max 0 ((0 / 32 + i) * 32), min (0 + n) ((0 / 32 + i + 1) * 32) -
        max 0 ((0 / 32 + i) * 32))) = fun i => min n ((i + 1) * 32) - i * 32 := by
      funext i
      simp
    dsimp only
    rw [hfun, hpart]
    omega

/-- As many codes are read of a row from its first column on as are asked for (R80). -/
theorem Desc.length_codes_zero (d : Desc) (rd : Reader) (r n : Nat) : (d.codes rd r 0 n).length = n := by
  unfold Desc.codes
  split
  · rw [List.length_flatMap]
    simp only [List.length_map, List.length_range]
    exact sum_pieces_zero n
  · simp

theorem length_routeGroups (l : List Nat) : (routeGroups l).length = l.length / 4 := by
  unfold routeGroups
  simp

/-! ## One row of a route table -/

/-- A row whose live groups name rows in range goes through whole where CAPACITY admits it (R201, R216). -/
theorem combineReach_single {g : List (Nat × Nat × Nat)} {per room limit : Nat} (hlen : g.length = per) (hper : 0 < per)
    (hroom : per ≤ room) (hlive : ∀ x ∈ liveGroups g, x.1 < limit) : combineReach [g] per room limit = (1, per, false, true) := by
  have hgood : ∀ x ∈ g, (!(!bit x.1 31 && decide (limit ≤ x.2.1))) = true := by
    intro x hx
    by_cases hb : bit x.1 31
    · simp [hb]
    · have := hlive (x.2.1, x.2.2) (List.mem_map.2 ⟨x, List.mem_filter.2 ⟨hx, by simp [hb]⟩, rfl⟩)
      simp only [hb, Bool.not_false, Bool.true_and, Bool.not_eq_true', decide_eq_false_iff_not]
      omega
  unfold combineReach
  have hall : (([g].flatMap (fun l => l)).take room) = g := by
    rw [List.flatMap_singleton, List.take_of_length_le (by omega)]
  rw [hall]
  dsimp only
  rw [List.takeWhile_eq_self_iff.2 hgood, if_neg (by omega), if_neg (by omega), hlen, Nat.div_self hper]
  simp [hroom]

end Sys2Proof.Machine
end

section
/-! O34: a ROUTE task, a row of a COMBINE, and CAPACITY reached. -/

namespace Sys2Proof.Machine

open Sys2Proof

/-! ## ROUTE -/

/-- A ROUTE task whose placement is written: its tallies and counts, the list it wrote, its own list done (R97, R219). -/
def TaskSt.routed (r : TaskRec) (p : RoutePlan) (u : TaskSt) : TaskSt :=
  { u with
    tally := placeTally r p.segs p.place
    dispCnt := p.counts
    listsOut := if r.listOut = 0 then u.listsOut else u.listsOut ++ [(r.listOut, [0, 0, r.descC.toNat, 0])]
    cursor := r.listCount.toNat }

/-- What ROUTE leaves of a module in which its rows and tables are written. -/
def Block.routeDone (z : Block) (c : Fin 128) (t : TaskSt) (p : RoutePlan) (cycles lanes : Nat) : Block :=
  (z.mapTask (.core c) t.serial (TaskSt.routed t.task p)).drlDone c t p.place.items false cycles lanes

theorem Block.routeDone_unposted (z : Block) (c : Fin 128) (t : TaskSt) (p : RoutePlan) (cycles lanes : Nat) :
    z.unposted.routeDone c t p cycles lanes = (z.routeDone c t p cycles lanes).unposted := rfl

theorem Block.bySerial_routeDone {z : Block} {c : Fin 128} {t : TaskSt} (p : RoutePlan) (cycles lanes : Nat)
    (h : z.bySerial (.core c) t.serial = some t) :
    (z.routeDone c t p cycles lanes).bySerial (.core c) t.serial = some ((t.routed t.task p).worked p.place.items cycles) :=
  Block.bySerial_drlDone _ _ _ (Block.bySerial_mapTask_some (TaskSt.routed t.task p) (fun _ => rfl) h)

theorem Block.items_routeDone (z : Block) (c : Fin 128) (t : TaskSt) (p : RoutePlan) (cycles lanes : Nat) :
    (z.routeDone c t p cycles lanes).rd64 (.drl c) Reg.DRL_ITEMS =
      min (z.rd64 (.drl c) Reg.DRL_ITEMS + p.place.items) (2 ^ 64 - 1) := Block.items_drlDone _ c t _ cycles lanes

/-- All of a ROUTE task's list. -/
def TaskSt.routeList (t : TaskSt) : List (Nat × Nat) := t.ahead t.task.listCount.toNat t.pos

/-- A ROUTE task has its tokens read, a placement within CAPACITY and at hand all that it moves, and its rows and tables written lead to
`z`. -/
structure Block.Routes (v : Block) (c : Fin 128) (t : TaskSt) (p : RoutePlan) (z : Block) : Prop where
  task : v.drlTask c 3 1 = some t
  wellFormed : ∀ x ∈ t.routeList, dispatchEntryOk (v.desc t.task.descA.toNat) (v.entryAt t x) = true
  free : v.listBlocked c t t.routeList = none
  plan : (v.routePlan c t t.routeList).1 = p
  fits : p.place.items ≤ t.room
  moves : ∃ q : Block, v.routeReady c t p (t.routeList.all (fun x => (v.entryAt t x).pageInOk)) = (.ok, q) ∧
    (q.routePlan c t t.routeList).2.routeMove c t p = (.ok, z)

/-- Such a task is done in one step. -/
theorem completes_route {s : State} {c : Fin 128} {q t : TaskSt} {p : RoutePlan} {z : Block} {P : Block → Prop} (cycles lanes : Nat)
    (hr : s.block.running = true) (hq : s.block.portTask c 1 = some q) (h : (s.block.seenBy q).Routes c t p z)
    (hp : P ((z.routeDone c t p cycles lanes).afterStep s.block.posted)) :
    Completes (.route c cycles lanes .none) s P := by
  obtain ⟨ht, hok, hfree, hplan, hfits, q1, hready, hmove⟩ := h
  refine completes_engine rfl hr hq ?_ hp
  generalize s.block.seenBy q = v at *
  unfold TaskSt.routeList at hok hfree hplan hready hmove
  have hshape : ¬ ((t.ahead t.task.listCount.toNat t.pos).any (fun x =>
      !dispatchEntryOk (v.desc t.task.descA.toNat) (v.entryAt t x)) = true) := by
    simpa using hok
  simp only [Block.drlTask_unposted, ht, Block.desc_unposted, Block.entryAt_unposted, hshape, if_false, Block.listBlocked_unposted, hfree,
    Option.map_none, Block.routePlan_unposted, hplan, silent_fst, Nat.not_lt.2 hfits, Block.routeReady_unposted, hready, silent_snd,
    Block.routeMove_unposted, hmove]
  exact z.routeDone_unposted c t p cycles lanes

/-! ## COMBINE -/

/-- The groups that count in the row of the route table that a COMBINE entry of one row has taken. -/
def Block.choiceGroups (v : Block) (t : TaskSt) (k : Took) : List (Nat × Nat × Nat) :=
  routeGroups (k.d.codes k.rd k.e.rowStart 0 (v.desc t.task.descA.toNat).d0)

/-- A COMBINE entry of one row is taken as `k`, its choices are in range and within CAPACITY, the rows that they name and its own are at
hand, and the weighted sum written leads to `z`. -/
structure Block.Combines (v : Block) (c : Fin 128) (t : TaskSt) (k : Took) (z : Block) : Prop where
  task : v.drlTask c 3 2 = some t
  wellFormed : dispatchEntryOk (v.desc t.task.descA.toNat) (v.entryAt t t.pos) = true
  full : (v.entryAt t t.pos).empty = false
  single : (v.entryAt t t.pos).rowCount = 1
  choices : 4 ≤ (v.desc t.task.descA.toNat).d0
  fits : (v.desc t.task.descA.toNat).d0 / 4 ≤ t.room
  took : (v.take c t 1 false).1 = k
  ready : k.ready = .ok
  inRange : ∀ g ∈ liveGroups (v.choiceGroups t k), g.1 < (v.desc t.task.descB.toNat).rows
  sums : let o := v.desc t.task.descC.toNat
    let e := v.entryAt t t.pos
    let cols := t.cut 0 o.d0
    ∃ q1 q2 : Block, v.rowsReady c t true (combineWants t.task.descB.toNat (v.desc t.task.descB.toNat)
        (liveGroups (v.choiceGroups t k)) cols) e.pageInOk = (.ok, q1) ∧
      q1.rowsOpen c t o [e.rowStart] cols.1 cols.2 e.pageInOk (t.task.dflag 3) = (.ok, q2) ∧
      (q2.take c t 1 false).2.combineRow c t e.rowStart (liveGroups (v.choiceGroups t k)) cols e.pageInOk = (.ok, z)

/-- The row of such an entry is gone through whole. -/
theorem Block.Combines.reach {v : Block} {c : Fin 128} {t : TaskSt} {k : Took} {z : Block} (h : v.Combines c t k z) :
    combineReach [v.choiceGroups t k] ((v.desc t.task.descA.toNat).d0 / 4) t.room (v.desc t.task.descB.toNat).rows =
      (1, (v.desc t.task.descA.toNat).d0 / 4, false, true) := by
  refine combineReach_single ?_ (by have := h.choices; omega) h.fits h.inRange
  unfold Block.choiceGroups
  rw [length_routeGroups, Desc.length_codes_zero]

/-- Such an entry is passed in one step. -/
theorem completes_combineRow {s : State} {c : Fin 128} {q t : TaskSt} {k : Took} {z : Block} {P : Block → Prop} (cycles lanes : Nat)
    (hr : s.block.running = true) (hq : s.block.portTask c 1 = some q) (h : (s.block.seenBy q).Combines c t k z)
    (hp : P ((z.drlDone c t (((s.block.seenBy q).desc t.task.descA.toNat).d0 / 4) true cycles lanes).afterStep s.block.posted)) :
    Completes (.combine c cycles lanes .none) s P := by
  have hreach := h.reach
  obtain ⟨ht, hok, hfull, hone, -, -, htake, hk, -, q1, q2, hread, hopen, hz⟩ := h
  refine completes_engine rfl hr hq ?_ hp
  generalize s.block.seenBy q = v at *
  unfold Block.choiceGroups at hreach hread hz
  simp only [Block.drlTask_unposted, ht, Block.desc_unposted, Block.entryAt_unposted, hok, Bool.not_true, Bool.false_eq_true, if_false,
    Block.take_unposted, htake, silent_fst, hk, hfull, hone, List.range_one, List.map_cons, List.map_nil, Nat.add_zero, hreach,
    List.take_succ_cons, List.take_zero, List.zipIdx_cons, List.zipIdx_nil, List.flatMap_singleton, Block.rowsReady_unposted, hread,
    silent_snd, Block.rowsOpen_unposted, hopen]
  rw [Block.eachReady_single, Block.combineRow_unposted, hz]
  exact Block.drlDone_unposted z c t _ true cycles lanes

/-! ## CAPACITY reached -/

/-- A task that the derailleur works for runs. -/
theorem Block.running_of_portTask {b : Block} {c : Fin 128} {t : TaskSt} (h : b.portTask c 1 = some t) : t.phase = .running := by
  unfold Block.portTask at h
  split at h
  · exact absurd h (by simp)
  · have hfound := List.find?_some (show b.onResource c 1 = some t from h)
    simp only [Bool.and_eq_true, decide_eq_true_eq] at hfound
    exact hfound.1.1

/-- A fault leaves memory, and its task stopped with the code (R54). -/
theorem Block.coreFault_stops {b : Block} {c : Fin 128} {t : TaskSt} (code : Nat) (ht : b.bySerial (.core c) t.serial = some t)
    (hp : t.phase = .running) : (b.coreFault c t code).mem = b.mem ∧ ∃ t' : TaskSt,
      (b.coreFault c t code).bySerial (.core c) t.serial = some t' ∧ t'.phase = .finished ∧ t'.faultCode = some code := by
  obtain ⟨y, hy, hrest, -⟩ := Block.faultTask_spec code ht hp
  unfold Block.coreFault
  rw [hy]
  refine ⟨hrest.quiet.mem, ?_⟩
  rcases hrest.bySerial ht with h | h <;>
    exact ⟨_, Block.bySerial_mapTask_some (TaskSt.stopped code) (fun _ => rfl) h, rfl, rfl⟩

/-! ## The statement -/

/-- Settles O34: what a derailleur's task reads and writes does not look at the events of the cycle, so that the step leaves the memory of
the premisses; the account of the step then gives the counts. -/
theorem routeAndCombineComplete : Obligations.RouteAndCombineComplete := by
  unfold Obligations.RouteAndCombineComplete
  intro s c cycles lanes q t v r e all hr hq
  refine ⟨?_, ?_, ?_⟩
  · intro p y q1 z ht hok hfree hplan hfits hready hmove hz
    refine completes_route cycles lanes hr hq ⟨ht, hok, hfree, by rw [TaskSt.routeList, hplan], hfits, q1, hready, hmove⟩ ?_
    rw [Block.mem_afterStep, Block.rd64_afterStep, Block.bySerial_afterStep, Block.bySerial_routeDone p cycles lanes hz]
    exact ⟨rfl, z.items_routeDone c t p cycles lanes, _, rfl, rfl, rfl, rfl, rfl, rfl, rfl⟩
  · intro k y q1 q2 a w o cols gs z ht hok hfull hone hd hfits htake hk hlive hread hopen hzok hz
    refine completes_combineRow (k := k) (z := z.2) cycles lanes hr hq ⟨ht, hok, hfull, hone, hd, hfits, congrArg Prod.fst htake, hk,
      hlive, q1, q2, hread, hopen, Prod.ext hzok rfl⟩ ?_
    rw [Block.mem_afterStep, Block.bySerial_afterStep, Block.bySerial_drlDone_whole _ cycles lanes hz, Block.mem_drlDone]
    exact ⟨rfl, _, rfl, rfl, rfl, rfl⟩
  · intro ht hs hkind hlist hroom hdue
    obtain ⟨hmem, hstop⟩ := Block.coreFault_stops Ev.DISPATCH_CAPACITY (show v.bySerial (.core c) t.serial = some t from hs)
      (Block.running_of_portTask ht)
    refine completes_engine (y := v.coreFault c t Ev.DISPATCH_CAPACITY) rfl hr hq ?_ ⟨hmem, hstop⟩
    simp only [Block.portTask_unposted, show (s.block.seenBy q).portTask c 1 = some t from ht]
    have hempty : e.empty = false → (!e.empty) = true := fun he => by rw [he]; rfl
    exact (if_pos ⟨hkind, by simp [hlist], hroom, hdue.imp_right hempty⟩).trans (v.coreFault_unposted c t.serial _)

end Sys2Proof.Machine
end

section
/-! SUPPORT. What an engine's reads leave: the map, memory and the records of allocations, so that every check of a record answers as
before (R88 to R99). -/

namespace Sys2Proof.Machine

open Sys2Proof

/-- `b` is `a` after reads of an engine, which may have changed its own run and the shard map besides: register words of the stacks'
queues, the page table's marks, translation caches and queues differ at most. -/
structure Block.HasRead (a b : Block) : Prop where
  same : b = { a with regs := b.regs, hbm := b.hbm, stks := b.stks, tiles := b.tiles, shm := b.shm }
  rd : ∀ p o, o < 4096 → eventWord p o = false → b.rd p o = a.rd p o
  map : a.SameMap b
  gens : ∀ t, (b.tile t).gens = (a.tile t).gens
  pages : b.hbm.allocs = a.hbm.allocs
  pageGens : b.hbm.gens = a.hbm.gens

theorem Block.HasRead.refl (a : Block) : a.HasRead a := ⟨rfl, fun _ _ _ _ => rfl, .refl a, fun _ => rfl, rfl, rfl⟩

theorem Block.HasRead.trans {a b c : Block} (h : a.HasRead b) (k : b.HasRead c) : a.HasRead c :=
  ⟨by rw [k.same, h.same], fun p o ho he => (k.rd p o ho he).trans (h.rd p o ho he), h.map.trans k.map,
    fun t => (k.gens t).trans (h.gens t), k.pages.trans h.pages, k.pageGens.trans h.pageGens⟩

namespace Block.HasRead

variable {a b : Block} (h : a.HasRead b)
include h

theorem mem : b.mem = a.mem := by rw [h.same]
theorem evt : b.evt = a.evt := by rw [h.same]
theorem posted : b.posted = a.posted := by rw [h.same]
theorem lens : b.lens = a.lens := by rw [h.same]

theorem memDef : b.memDef = a.memDef := by
  rw [h.same]
  rfl

theorem bytes (x n : Nat) : b.bytes x n = a.bytes x n := h.map.bytes h.mem h.memDef x n

theorem num (x n : Nat) : b.num x n = a.num x n := congrArg ofBytes (h.bytes x n)

theorem desc (x : Nat) : b.desc x = a.desc x := by
  unfold Block.desc Block.recBytes
  rw [h.bytes, h.lens]

theorem allocAt (x : Nat) : b.allocAt x = a.allocAt x := by
  unfold Block.allocAt Block.slabAlloc? Block.pageAlloc?
  simp only [h.map.allocs, h.pages]

theorem within (x n : Nat) : b.within x n = a.within x n := by
  unfold Block.within
  rw [h.allocAt]

theorem genAt (x : Nat) : b.genAt x = a.genAt x := by
  unfold Block.genAt
  rw [h.gens, h.pageGens]

end Block.HasRead

/-- An access that writes nothing and touches the records of no allocation is a read. -/
theorem Block.Accessed.hasRead {a b : Block} (h : a.Accessed b) (hm : b.mem = a.mem) (hp : b.poison = a.poison)
    (ha : b.hbm.allocs = a.hbm.allocs) (hg : b.hbm.gens = a.hbm.gens) : a.HasRead b := by
  refine ⟨?_, h.rd, h.map, fun t => by rw [h.tile], ha, hg⟩
  have hs := h.same
  rw [hm, hp] at hs
  have hshm : b.shm = a.shm := by rw [hs]
  rw [hshm]
  exact hs

theorem Block.hasRead_queueSlot (b : Block) (st : Nat) (q : SlotReq) : b.HasRead (b.queueSlot st q) :=
  (b.accessed_queueSlot st q).hasRead rfl rfl rfl rfl

theorem Block.hasRead_lookup (b : Block) (die a : Nat) : b.HasRead (b.lookup die a) := by
  unfold Block.lookup
  dsimp only
  split
  · exact .refl b
  · split
    · exact .refl b
    · refine Block.HasRead.trans ?_ (Block.hasRead_queueSlot _ _ _)
      exact ⟨rfl, fun _ _ _ _ => rfl, ⟨fun _ => rfl, fun _ => rfl, rfl, fun _ => rfl, rfl⟩, fun _ => rfl, rfl, rfl⟩

theorem Block.hasRead_touchHbm (b : Block) (a n : Nat) : b.HasRead (b.touchHbm a n) := by
  have hacc := b.accessed_touchHbm a n
  generalize hy : b.touchHbm a n = y at hacc
  refine hacc.hasRead ?_ ?_ ?_ ?_
  all_goals
    unfold Block.touchHbm Block.markHbm at hy
    dsimp only at hy
    repeat' split at hy
    all_goals
      subst hy
      rfl

/-- A read of a record by the die hub. -/
theorem Block.hasRead_served (b : Block) (die a n : Nat) : b.HasRead ((b.lookup die a).touchHbm a n) :=
  (b.hasRead_lookup die a).trans (Block.hasRead_touchHbm _ a n)

end Sys2Proof.Machine
end

section
/-! SUPPORT. The records that a validator takes (R94, R95): how far a run comes, and what its end writes. -/

namespace Sys2Proof.Machine

open Sys2Proof

/-! ## The checks of a record -/

namespace Block.HasRead

variable {a b : Block} (h : a.HasRead b)
include h

theorem listFault (l : List Nat) (n i : Nat) (e : Entry32) : b.listFault l n i e = a.listFault l n i e := by
  unfold Block.listFault Block.bindOk
  simp only [h.within, h.desc]

theorem descFault (d : Desc) : b.descFault d = a.descFault d := by
  unfold Block.descFault Block.check6
  simp only [h.within]

theorem recordFault (r : ValRun) (i : Nat) : b.recordFault r i = a.recordFault r i := by
  unfold Block.recordFault
  simp only [h.map.probe, h.bytes, h.listFault, h.descFault]

theorem dstFault (r : ValRun) : b.dstFault r = a.dstFault r := by
  unfold Block.dstFault
  rw [h.allocAt]

theorem valImage (r : ValRun) (i : Nat) : b.valImage r i = a.valImage r i := by
  unfold Block.valImage
  simp only [h.bytes, h.genAt]

/-- A run takes its next record alike. -/
theorem takeRecord (r : ValRun) : b.takeRecord r = a.takeRecord r := by
  unfold Block.takeRecord
  simp only [h.dstFault, h.recordFault, h.valImage]

end Block.HasRead

/-! ## How far a run comes -/

theorem Block.takeRecord_over {b : Block} {r : ValRun} (h : r.over = true) : b.takeRecord r = r := if_pos h

/-- A run with no record left to take stays as it is. -/
theorem Block.iterate_takeRecord_over {b : Block} {r : ValRun} (h : r.over = true) (n : Nat) : b.takeRecord^[n] r = r :=
  Function.iterate_fixed (Block.takeRecord_over h) n

/-- The run with a code and an index to report. -/
def ValRun.failed (r : ValRun) (c i : Nat) : ValRun := { r with code := c, failIdx := i }

theorem ValRun.failed_over (r : ValRun) {c : Nat} (i : Nat) (hc : c ≠ 0) : (r.failed c i).over = true := by
  simp [ValRun.over, ValRun.failed, hc]

/-- The run after `m` further records that passed. -/
def Block.passed (b : Block) (r : ValRun) (m : Nat) : ValRun :=
  { r with taken := r.taken + m, image := r.image ++ (List.range m).flatMap (fun j => b.valImage r (r.taken + j)),
           dueAt := r.dueAt + m * r.pace }

theorem Block.passed_zero (b : Block) (r : ValRun) : b.passed r 0 = r := by
  cases r
  simp [Block.passed]

theorem Block.passed_succ (b : Block) (r : ValRun) (m : Nat) : b.passed r (m + 1) =
    { b.passed r m with taken := (b.passed r m).taken + 1, image := (b.passed r m).image ++ b.valImage r (r.taken + m),
                        dueAt := (b.passed r m).dueAt + r.pace } := by
  simp [Block.passed, List.range_succ, Nat.add_mul, Nat.add_assoc]

/-- A destination fault ends the run before its first record. -/
theorem Block.iterate_takeRecord_dstFault {b : Block} {r : ValRun} {c : Nat} (h0 : r.code = 0) (ht : r.taken = 0) (hn : 0 < r.count)
    (hd : b.dstFault r = some c) (hc : c ≠ 0) : b.takeRecord^[r.count - r.taken] r = r.failed c 0xFFFFFFFF := by
  have hgoes : r.over = false := by simp [ValRun.over, h0, ht, hn.ne']
  have hfirst : b.takeRecord r = r.failed c 0xFFFFFFFF := by
    unfold Block.takeRecord
    rw [if_neg (by simp [hgoes]), if_pos ht, hd]
    rfl
  rw [show r.count - r.taken = r.count - 1 + 1 by omega, Function.iterate_succ_apply, hfirst]
  exact Block.iterate_takeRecord_over (r.failed_over _ hc) _

section
variable {b : Block} {r : ValRun} (h0 : r.code = 0) (hd : r.taken = 0 → b.dstFault r = none)
include h0 hd

/-- What the check of a run's next record decides, once no destination fault stands in the way. -/
theorem Block.takeRecord_passed {m : Nat} (hm : r.taken + m < r.count) : b.takeRecord (b.passed r m) =
    (b.recordFault r (r.taken + m)).elim (b.passed r (m + 1)) (fun c => (b.passed r m).failed c (r.taken + m)) := by
  have hgoes : (b.passed r m).over = false := by simp [ValRun.over, Block.passed, h0, hm]
  have hdst : (if (b.passed r m).taken = 0 then b.dstFault (b.passed r m) else none) = none := by
    split
    · next ht => exact hd (by simp only [Block.passed] at ht; omega)
    · rfl
  unfold Block.takeRecord
  rw [if_neg (by simp [hgoes]), hdst, Block.passed_succ]
  show (match b.recordFault r (r.taken + m) with | some _ => _ | none => _) = _
  cases b.recordFault r (r.taken + m) <;> rfl

/-- The records that pass are taken one after the other. -/
theorem Block.iterate_takeRecord_passed {m : Nat} (hm : m ≤ r.count - r.taken)
    (hpass : ∀ j, r.taken ≤ j → j < r.taken + m → b.recordFault r j = none) : b.takeRecord^[m] r = b.passed r m := by
  induction m with
  | zero => exact (b.passed_zero r).symm
  | succ m ih =>
    rw [Function.iterate_succ_apply', ih (by omega) (fun j hl hu => hpass j hl (by omega)), Block.takeRecord_passed h0 hd (by omega),
      hpass _ (by omega) (by omega)]
    rfl

/-- The first record that fails ends the run. -/
theorem Block.iterate_takeRecord_failed {i c : Nat} (hl : r.taken ≤ i) (hu : i < r.count)
    (hpass : ∀ j, r.taken ≤ j → j < i → b.recordFault r j = none) (hf : b.recordFault r i = some c) (hc : c ≠ 0) :
    b.takeRecord^[r.count - r.taken] r = (b.passed r (i - r.taken)).failed c i := by
  have hi : r.taken + (i - r.taken) = i := by omega
  have hpassed := Block.iterate_takeRecord_passed h0 hd (m := i - r.taken) (by omega) (fun j hj hk => hpass j hj (by omega))
  have hfails := Block.takeRecord_passed h0 hd (m := i - r.taken) (by omega)
  rw [hi, hf] at hfails
  rw [show r.count - r.taken = r.count - i - 1 + (i - r.taken + 1) by omega, Function.iterate_add_apply, Function.iterate_succ_apply',
    hpassed, hfails]
  exact Block.iterate_takeRecord_over (ValRun.failed_over _ i hc) _

end

/-! ## The records taken by a tile's validator -/

/-- A tile's run may change without a trace in what is read. -/
theorem Block.hasRead_setVal (b : Block) (t : Nat) (v : Option ValRun) : b.HasRead (b.setTile t { b.tile t with val := v }) := by
  refine ⟨rfl, fun _ _ _ _ => rfl, b.sameMap_setTile t _ rfl, fun w => ?_, rfl, rfl⟩
  rw [Block.tile_setTile]
  split
  · next hw => rw [hw]
  · rfl

/-- A validator's step is a read, and its run takes a record. -/
theorem Block.validate_spec {b : Block} {t : Fin 16} {r : ValRun} (hr : (b.tile t.val).val = some r) :
    b.HasRead (b.validate t) ∧ ((b.validate t).tile t.val).val = some (b.takeRecord r) := by
  have hset := b.hasRead_setVal t.val (some (b.takeRecord r))
  unfold Block.validate
  rw [hr]
  dsimp only
  split
  · exact ⟨hset, by rw [Block.tile_setTile_self]⟩
  · refine ⟨hset.trans (Block.hasRead_served _ _ _ _), ?_⟩
    rw [((Block.accessed_lookup _ _ _).trans (Block.accessed_touchHbm _ _ _)).tile, Block.tile_setTile_self]

/-- However many records a run takes, it comes as far as its checks say before the first of them. -/
theorem Block.iterate_validate_spec {b : Block} {t : Fin 16} {r : ValRun} (hr : (b.tile t.val).val = some r) (n : Nat) :
    b.HasRead ((fun x => x.validate t)^[n] b) ∧ (((fun x => x.validate t)^[n] b).tile t.val).val = some (b.takeRecord^[n] r) := by
  induction n with
  | zero => exact ⟨.refl b, hr⟩
  | succ n ih =>
    obtain ⟨hread, hval⟩ := ih
    obtain ⟨hstep, hnext⟩ := Block.validate_spec hval
    rw [Function.iterate_succ_apply', Function.iterate_succ_apply']
    exact ⟨hread.trans hstep, by rw [hnext, hread.takeRecord]⟩

/-! ## The end of a run -/

/-- What the end of a run without a fault writes: its records, and with a list its bindings. -/
def Block.writeRun (b : Block) (q : ValRun) : Block :=
  let x := (b.keepRecords q.dst q.image.length).store q.dst q.image
  if q.isList then x.bindList q.dst q.binds else x

/-- The registers and the interrupt of a run that ends. -/
def Block.valReport (b : Block) (t : Fin 16) (code idx : Nat) : Block :=
  ((b.wrN (.tile t) Reg.TILE_VAL_STAT code).wrN (.tile t) Reg.TILE_VAL_FAIL_IDX idx).setInt (.tile t) 1

theorem Block.valFinish_ok (b : Block) (t : Fin 16) (idx : Nat) : b.valFinish t 0 idx = b.valReport t 0 idx := rfl

theorem Block.valFinish_refused (b : Block) (t : Fin 16) {code : Nat} (idx : Nat) (h : code ≠ 0) :
    b.valFinish t code idx = (b.valReport t code idx).post code (.tile t) idx := if_neg h

/-- The end of a run, by where its records have brought it: reads have left the module with no run on the tile, and the run is reported or
written. -/
theorem validatorDone_spec {b : Block} {t : Fin 16} {r q : ValRun} (hr : (b.tile t.val).val = some r)
    (hq : b.takeRecord^[r.count - r.taken] r = q) : ∃ x, b.HasRead x ∧ (x.tile t.val).val = none ∧
      validatorDone t b = if q.code ≠ 0 then x.valFinish t q.code q.failIdx else (x.writeRun q).valFinish t 0 0xFFFFFFFF := by
  obtain ⟨hread, hval⟩ := Block.iterate_validate_spec hr (r.count - r.taken)
  rw [hq] at hval
  refine ⟨_, hread.trans (Block.hasRead_setVal _ t.val none), congrArg TileSt.val (Block.tile_setTile_self _ _ _), ?_⟩
  unfold validatorDone
  rw [hr]
  dsimp only
  rw [List.foldl_const, List.length_range, hval]
  rfl

/-- The run on a tile has ended with a code and an index, and says so. -/
def Block.ValEnded (t : Fin 16) (code idx : Nat) (b : Block) : Prop :=
  (b.tile t.val).val = none ∧ b.rd (.tile t) Reg.TILE_VAL_STAT = BitVec.ofNat 32 code ∧
  b.rd (.tile t) Reg.TILE_VAL_FAIL_IDX = BitVec.ofNat 32 idx ∧ wbit (b.rd (.tile t) Reg.INT_STAT) 0 = true

theorem Block.valReport_words (b : Block) (t : Fin 16) (code idx : Nat) :
    (b.valReport t code idx).rd (.tile t) Reg.TILE_VAL_STAT = BitVec.ofNat 32 code ∧
    (b.valReport t code idx).rd (.tile t) Reg.TILE_VAL_FAIL_IDX = BitVec.ofNat 32 idx ∧
    wbit ((b.valReport t code idx).rd (.tile t) Reg.INT_STAT) 0 = true := by
  unfold Block.valReport Block.setInt
  refine ⟨?_, ?_, ?_⟩
  · rw [Block.rd_wr_other _ _ (by decide) (by decide) (.inr (by decide)),
      Block.rd_wrN_other _ _ (by decide) (by decide) (.inr (by decide))]
    exact Block.rd_wr_self _ _ _ _
  · rw [Block.rd_wr_other _ _ (by decide) (by decide) (.inr (by decide))]
    exact Block.rd_wr_self _ _ _ _
  · rw [Block.rd_wr_self]
    unfold wbit
    rw [BitVec.getLsbD_or, show (BitVec.ofNat 32 1).getLsbD 0 = true from rfl, Bool.or_true]

theorem Block.rd_valReport_other (b : Block) {t : Fin 16} (code idx : Nat) {q : Page} {o : Nat} (hq : q ≠ .tile t) (ho : o < 4096) :
    (b.valReport t code idx).rd q o = b.rd q o := by
  unfold Block.valReport Block.setInt
  rw [Block.rd_wr_other _ _ (by decide) ho (.inl hq), Block.rd_wrN_other _ _ (by decide) ho (.inl hq),
    Block.rd_wrN_other _ _ (by decide) ho (.inl hq)]

theorem Block.valReport_eq (b : Block) (t : Fin 16) (code idx : Nat) :
    b.valReport t code idx = { b with regs := (b.valReport t code idx).regs } := rfl

theorem Block.valEnded_valFinish {b : Block} {t : Fin 16} (h : (b.tile t.val).val = none) (code idx : Nat) :
    (b.valFinish t code idx).ValEnded t code idx := by
  have hended : (b.valReport t code idx).ValEnded t code idx := ⟨h, b.valReport_words t code idx⟩
  by_cases hc : code = 0
  · subst hc
    exact hended
  · rw [b.valFinish_refused t idx hc]
    exact hended

/-- The records of a cycle's events leave the end of a run as it is. -/
theorem Block.ValEnded.cycle {b : Block} {f : Block → Block} {t : Fin 16} {code idx : Nat} (h : (f b.unposted).ValEnded t code idx) :
    (b.cycle f).ValEnded t code idx := by
  have hrd : ∀ o, o < 4096 → (b.cycle f).rd (.tile t) o = (f b.unposted).rd (.tile t) o := fun o ho => (b.cycle_spec f ho rfl).2
  obtain ⟨hreach, -⟩ := b.cycle_spec f (p := .tile t) (o := Reg.INT_STAT) (by decide) rfl
  have htile : (b.cycle f).tile t.val = (f b.unposted).tile t.val := by
    unfold Block.tile
    rw [hreach]
    rfl
  unfold Block.ValEnded
  rw [htile, hrd _ (by decide), hrd _ (by decide), hrd _ (by decide)]
  exact h

/-- Where the ring is off, a cycle leaves memory as its effect does. -/
theorem Block.cycle_mem_off {b : Block} {f : Block → Block} (h : (f b.unposted).ringOff) : (b.cycle f).mem = (f b.unposted).mem := by
  obtain ⟨w, hw⟩ := Block.settle_off _ h
  show (f b.unposted).settle.mem = _
  rw [hw]

/-! ## What the end writes -/

theorem Block.keepRecords_eq (b : Block) (a n : Nat) : b.keepRecords a n = { b with units := (b.keepRecords a n).units } := rfl

theorem Block.bindList_spec (b : Block) (a : Nat) (l : List Nat) :
    b.bindList a l = { b with tiles := (b.bindList a l).tiles, hbm := (b.bindList a l).hbm } ∧
    ∀ t, ((b.bindList a l).tile t).val = (b.tile t).val := by
  unfold Block.bindList
  split
  · refine ⟨rfl, fun t => ?_⟩
    dsimp only
    rw [Block.tile_setTile]
    split
    · next ht => rw [ht]
    · rfl
  · exact ⟨rfl, fun t => rfl⟩

/-- The bytes of memory after a store in one granule that resolves. -/
theorem Block.get_mem_store {b : Block} {a k : Nat} {l : List Byte} (hone : a / 65536 = (a + l.length - 1) / 65536)
    (hk : b.resolveOwn a = .phys k) (j : Nat) : Sparse.get b.memDef (b.store a l).mem j =
      if k ≤ j then l.getD (j - k) (Sparse.get b.memDef b.mem j) else Sparse.get b.memDef b.mem j := by
  by_cases hnil : l = []
  · subst hnil
    show Sparse.get b.memDef b.mem j = _
    simp
  · have hn := List.length_pos_iff.2 hnil
    have hmem : (b.store a l).mem = Sparse.putList (b.freezeReads k l.length).memDef (b.freezeReads k l.length).mem k l := by
      unfold Block.store Block.storeFor Block.storeAs
      rw [pieces_single (by decide) hn hone, List.foldl_cons, List.foldl_nil, hk]
      dsimp only
      rw [Nat.sub_self, List.drop_zero, List.take_length, (Block.mem_queueSlots _ _).1, (Block.mem_markHbm _ _ _ _).1]
      rfl
    rw [hmem, (b.mem_freezeReads k l.length).1, (b.mem_freezeReads k l.length).2, Sparse.get_putList]

/-- The end of a run that writes its records: it raises no event, ends no other run, and changes memory where the records go. -/
theorem Block.writeRun_spec (b : Block) (q : ValRun) :
    (b.writeRun q).evt = b.evt ∧ (b.writeRun q).posted = b.posted ∧ (∀ t, ((b.writeRun q).tile t).val = (b.tile t).val) ∧
    (b.writeRun q).mem = ((b.keepRecords q.dst q.image.length).store q.dst q.image).mem := by
  have hacc := (b.keepRecords q.dst q.image.length).accessed_storeAs .other 0 0 16 q.dst q.image
  have hkeep := b.keepRecords_eq q.dst q.image.length
  generalize hx : (b.keepRecords q.dst q.image.length).store q.dst q.image = x
  replace hacc : (b.keepRecords q.dst q.image.length).Accessed x := by rw [← hx]; exact hacc
  have htile : ∀ t, (x.tile t).val = (b.tile t).val := fun t => by
    rw [hacc.tile, hkeep]
    rfl
  have hevt : x.evt = b.evt := by rw [hacc.evt, hkeep]
  have hposted : x.posted = b.posted := by rw [hacc.posted, hkeep]
  obtain ⟨hbind, hval⟩ := x.bindList_spec q.dst q.binds
  unfold Block.writeRun
  dsimp only
  rw [hx]
  split
  · refine ⟨?_, ?_, fun t => (hval t).trans (htile t), ?_⟩
    · rw [hbind]
      exact hevt
    · rw [hbind]
      exact hposted
    · rw [hbind]
  · exact ⟨hevt, hposted, htile, rfl⟩

/-- The bytes of memory once a run whose records go to one granule that resolves is written. -/
theorem Block.get_mem_writeRun {b : Block} {q : ValRun} {k : Nat} (hone : q.dst / 65536 = (q.dst + q.image.length - 1) / 65536)
    (hk : b.resolveOwn q.dst = .phys k) (j : Nat) : Sparse.get b.memDef (b.writeRun q).mem j =
      if k ≤ j then q.image.getD (j - k) (Sparse.get b.memDef b.mem j) else Sparse.get b.memDef b.mem j := by
  have hsame : b.SameMap (b.keepRecords q.dst q.image.length) := Block.sameMap_of_same rfl rfl rfl
  obtain ⟨-, -, -, hmem⟩ := b.writeRun_spec q
  rw [hmem]
  exact Block.get_mem_store hone ((hsame.resolveOwn _).trans hk) j

end Sys2Proof.Machine
end

section
/-! PROOF. The validator writes a whole run or nothing (R94, R95, R99). -/

namespace Sys2Proof.Machine

open Sys2Proof

/-! ## START -/

/-- The run that a write of TILE_VAL_CTL begins. -/
def Block.newRun (b : Block) (t : Fin 16) (v : Word) : ValRun :=
  { isList := wbit v 24, count := wfield v 19 0, src := b.rd64 (.tile t) Reg.TILE_VAL_SRC_LO,
    dst := b.rd64 (.tile t) Reg.TILE_VAL_DST_LO, binds := (List.range 4).map (fun k => b.rd64 (.tile t) (Reg.TILE_VAL_BIND k)),
    taken := 0, image := [], code := 0, failIdx := 0, dueAt := b.now + if wbit v 24 then 4 else 16 }

/-- The module with the fields of TILE_VAL_CTL as written. -/
def Block.valFields (b : Block) (t : Fin 16) (v : Word) : Block := b.writeFields (.tile t) Reg.TILE_VAL_CTL v

theorem Block.tile_wr (b : Block) (p : Page) (o : Nat) (v : Word) (w : Nat) : (b.wr p o v).tile w = b.tile w := rfl

/-- The module with a run begun. -/
def Block.beginRun (b : Block) (t : Fin 16) (r : ValRun) : Block :=
  (b.setTile t.val { b.tile t.val with val := some r }).wrBit (.tile t) Reg.TILE_VAL_STAT 31 true

theorem Block.beginRun_val (b : Block) (t : Fin 16) (r : ValRun) : ((b.beginRun t r).tile t.val).val = some r := by
  unfold Block.beginRun Block.wrBit
  rw [Block.tile_wr, Block.tile_setTile_self]

theorem Block.beginRun_busy (b : Block) (t : Fin 16) (r : ValRun) :
    wbit ((b.beginRun t r).rd (.tile t) Reg.TILE_VAL_STAT) 31 = true := by
  unfold Block.beginRun Block.wrBit
  rw [Block.rd_wr_self]
  exact wbit_wsetBit_self _ _ _ (by decide)

theorem Block.beginRun_eq (b : Block) (t : Fin 16) (r : ValRun) :
    b.beginRun t r = { b with regs := (b.beginRun t r).regs, tiles := (b.beginRun t r).tiles } := by
  unfold Block.beginRun Block.wrBit
  generalize wsetBit _ _ _ = w
  rfl

/-- What a write of TILE_VAL_CTL does. -/
def Block.valCtl (b : Block) (t : Fin 16) (v : Word) : Block :=
  if wbit (b.rd (.tile t) Reg.TILE_VAL_STAT) 31 then b
  else if !wbit v 31 then b.valFields t v
  else if wfield v 19 0 = 0 then (b.valFields t v).valFinish t 0 0xFFFFFFFF
  else (b.valFields t v).beginRun t ((b.valFields t v).newRun t v)

theorem exec_validatorStart (o : Origin) (t : Fin 16) (v : Word) (s : State) : exec (.validatorStart o t v) s =
    s.onWrite o (fun b => b.gate o (.tile t) Reg.TILE_VAL_CTL .none (fun x => x.valCtl t v)) := rfl

/-- The row of TILE_VAL_CTL. -/
def valCtlRow : RegDef := ⟨"TILE_VAL_CTL", 0x070, 1, 4, false, .rw, 0x10FFFFF, 0x0, false⟩

theorem Block.valFields_eq_wr (b : Block) (t : Fin 16) (v : Word) : b.valFields t v =
    b.wr (.tile t) Reg.TILE_VAL_CTL (fieldWrite valCtlRow (.tile t) Reg.TILE_VAL_CTL (b.rd (.tile t) Reg.TILE_VAL_CTL) v) :=
  b.writeFields_eq_wr rfl v

theorem Block.rd_valFields (b : Block) (t : Fin 16) (v : Word) {q : Page} {o : Nat} (ho : o < 4096)
    (h : q ≠ .tile t ∨ o ≠ Reg.TILE_VAL_CTL) : (b.valFields t v).rd q o = b.rd q o := by
  rw [b.valFields_eq_wr]
  exact b.rd_wr_other _ (by decide) ho h

/-- The run that is begun is that of the registers as they stood. -/
theorem Block.newRun_valFields (b : Block) (t : Fin 16) (v : Word) : (b.valFields t v).newRun t v = b.newRun t v := by
  have h64 : ∀ q o, o + 4 < 4096 → (q ≠ .tile t ∨ (o ≠ Reg.TILE_VAL_CTL ∧ o + 4 ≠ Reg.TILE_VAL_CTL)) →
      (b.valFields t v).rd64 q o = b.rd64 q o := fun q o ho h =>
    b.rd64_other (b.rd_valFields t v (by omega) (h.imp id And.left)) (b.rd_valFields t v ho (h.imp id And.right))
  have hbinds : ∀ k ∈ List.range 4,
      (b.valFields t v).rd64 (.tile t) (Reg.TILE_VAL_BIND k) = b.rd64 (.tile t) (Reg.TILE_VAL_BIND k) := by
    intro k hk
    rw [List.mem_range] at hk
    refine h64 _ _ ?_ (.inr ?_)
    · show 0x080 + 8 * k + 4 < 4096
      omega
    · show 0x080 + 8 * k ≠ 0x070 ∧ 0x080 + 8 * k + 4 ≠ 0x070
      omega
  unfold Block.newRun Block.now
  rw [h64 _ _ (by decide) (.inr (by decide)), h64 _ _ (by decide) (.inr (by decide)), h64 _ _ (by decide) (.inl (by simp)),
    List.map_congr_left hbinds]

/-- A write of TILE_VAL_CTL raises no event. -/
theorem Block.posted_valCtl (b : Block) (t : Fin 16) (v : Word) : (b.valCtl t v).posted = b.posted := by
  have hf : (b.valFields t v).posted = b.posted := by
    rw [b.valFields_eq_wr]
    rfl
  unfold Block.valCtl
  generalize b.valFields t v = x at hf
  split
  · rfl
  · split
    · exact hf
    · split
      · rw [Block.valFinish_ok, Block.valReport_eq]
        exact hf
      · rw [Block.beginRun_eq]
        exact hf

@[simp] theorem Block.newRun_unposted (b : Block) (t : Fin 16) (v : Word) : b.unposted.newRun t v = b.newRun t v := rfl

section
variable {b : Block} {t : Fin 16} {v : Word}

theorem Block.valCtl_busy (h : wbit (b.rd (.tile t) Reg.TILE_VAL_STAT) 31 = true) : b.valCtl t v = b := if_pos h

theorem Block.valCtl_begins (hidle : wbit (b.rd (.tile t) Reg.TILE_VAL_STAT) 31 = false) (hv : wbit v 31 = true)
    (hn : wfield v 19 0 ≠ 0) : b.valCtl t v = (b.valFields t v).beginRun t (b.newRun t v) := by
  unfold Block.valCtl
  rw [hidle, hv, if_neg hn, Block.newRun_valFields]
  rfl

theorem Block.valCtl_empty (hidle : wbit (b.rd (.tile t) Reg.TILE_VAL_STAT) 31 = false) (hv : wbit v 31 = true)
    (hn : wfield v 19 0 = 0) : b.valCtl t v = (b.valFields t v).valReport t 0 0xFFFFFFFF := by
  unfold Block.valCtl
  rw [hidle, hv, if_pos hn]
  rfl

end

/-- START begins a run, completes an empty one at once, and is ignored while the validator is busy. -/
theorem completes_validatorStart {s : State} {o : Origin} {t : Fin 16} {v : Word} (ht : s.takes o (.tile t) Reg.TILE_VAL_CTL = true) :
    Completes (.validatorStart o t v) s (fun b =>
      (wbit (s.block.rd (.tile t) Reg.TILE_VAL_STAT) 31 = true → s.block.Logged b) ∧
      (wbit (s.block.rd (.tile t) Reg.TILE_VAL_STAT) 31 = false → wbit v 31 = true → wfield v 19 0 ≠ 0 →
        wbit (b.rd (.tile t) Reg.TILE_VAL_STAT) 31 = true ∧ (b.tile t.val).val = some (s.block.newRun t v) ∧ b.mem = s.block.mem) ∧
      (wbit (s.block.rd (.tile t) Reg.TILE_VAL_STAT) 31 = false → wbit v 31 = true → wfield v 19 0 = 0 →
        b.rd (.tile t) Reg.TILE_VAL_STAT = 0 ∧ b.rd (.tile t) Reg.TILE_VAL_FAIL_IDX = 0xFFFFFFFF ∧
        wbit (b.rd (.tile t) Reg.INT_STAT) 0 = true)) := by
  refine completes_unlogged (exec_validatorStart o t v s) ht (s.block.unposted.posted_valCtl t v) fun b hl hb =>
    ⟨fun hbusy => ?_, fun hidle hv hn => ?_, fun hidle hv hn => ?_⟩
  · rw [Block.valCtl_busy (b := s.block.unposted) hbusy] at hl
    exact (s.block.logged_posted []).trans hl
  · rw [Block.valCtl_begins (b := s.block.unposted) hidle hv hn, Block.newRun_unposted] at hl hb
    obtain ⟨hrd, -, -, -⟩ := hl
    have hmem : (s.block.unposted.valFields t v).mem = s.block.mem := by
      rw [Block.valFields_eq_wr]
      rfl
    generalize s.block.unposted.valFields t v = x at hrd hb hmem
    refine ⟨?_, ?_, ?_⟩
    · rw [hrd _ _ (by decide) (sideWord_tile t (by decide))]
      exact x.beginRun_busy t _
    · have htiles : b.tiles = (x.beginRun t (s.block.newRun t v)).tiles := by rw [hb]
      unfold Block.tile
      rw [htiles]
      exact x.beginRun_val t _
    · rw [hb, Block.beginRun_eq]
      exact hmem
  · rw [Block.valCtl_empty (b := s.block.unposted) hidle hv hn] at hl
    obtain ⟨hrd, -, -, -⟩ := hl
    rw [hrd _ _ (by decide) (sideWord_tile t (by decide)), hrd _ _ (by decide) (sideWord_tile t (by decide)),
      hrd _ _ (by decide) (sideWord_tile t (by decide))]
    exact Block.valReport_words _ t 0 0xFFFFFFFF

/-! ## The end of a run -/

/-- A run has been refused with a code at an index: the code counts once more, and where the ring is off memory is as it was. -/
def Block.ValRefused (a : Block) (t : Fin 16) (code idx : Nat) (b : Block) : Prop :=
  b.ValEnded t code idx ∧ b.evtCount code = satAdd64 (a.evtCount code) 1 ∧
  (wbit (a.rd .mod Reg.MOD_EVT_CFG) 31 = false → b.mem = a.mem)

/-- All the records of a run have been written. -/
def Block.ValWritten (a : Block) (t : Fin 16) (image : List Byte) (k : Nat) (b : Block) : Prop :=
  b.ValEnded t 0 0xFFFFFFFF ∧ b.evt = a.evt ∧
  (∀ i < image.length, Sparse.get a.memDef b.mem (k + i) = image.getD i 0) ∧
  (∀ j, j < k ∨ k + image.length ≤ j → Sparse.get a.memDef b.mem j = Sparse.get a.memDef a.mem j)

section
variable {s : State} {t : Fin 16} {r q : ValRun} (hrun : s.block.running = true) (hr : (s.block.tile t.val).val = some r)
  (hq : s.block.unposted.takeRecord^[r.count - r.taken] r = q)
include hrun hr hq

/-- The end of a run that its records bring to a code refuses it. -/
theorem completes_validatorDone_refused (hc : q.code ≠ 0) :
    Completes (.validatorDone t) s (s.block.ValRefused t q.code q.failIdx) := by
  obtain ⟨x, hread, hval, heff⟩ := validatorDone_spec (b := s.block.unposted) hr hq
  rw [if_pos hc] at heff
  refine completes_block (f := validatorDone t) rfl hrun ⟨Block.ValEnded.cycle ?_, ?_, fun hoff => ?_⟩
  · rw [heff]
    exact Block.valEnded_valFinish hval _ _
  · rw [Block.cycle_evtCount]
    show (validatorDone t s.block.unposted).evtCount _ = _
    rw [heff, x.valFinish_refused t _ hc, Block.post_evtCount_self]
    exact congrArg (fun n => satAdd64 n 1) (Block.evtCount_of_evt (hread.evt : x.evt = s.block.evt) _)
  · rw [x.valFinish_refused t _ hc] at heff
    have hcfg' : (validatorDone t s.block.unposted).rd .mod Reg.MOD_EVT_CFG = s.block.rd .mod Reg.MOD_EVT_CFG := by
      rw [heff]
      exact (x.rd_valReport_other _ _ (by simp) (by decide)).trans (hread.rd _ _ (by decide) (by decide))
    rw [Block.cycle_mem_off (f := validatorDone t) (by unfold Block.ringOff; rw [hcfg']; exact hoff), heff]
    exact hread.mem

/-- The end of a run that its records bring to no code writes them all. -/
theorem completes_validatorDone_written (hc : q.code = 0) {k : Nat} (hk : s.block.resolveOwn q.dst = .phys k)
    (hone : q.dst / 65536 = (q.dst + q.image.length - 1) / 65536) :
    Completes (.validatorDone t) s (s.block.ValWritten t q.image k) := by
  obtain ⟨x, hread, hval, heff⟩ := validatorDone_spec (b := s.block.unposted) hr hq
  rw [if_neg (not_not.2 hc), Block.valFinish_ok] at heff
  obtain ⟨hevt, hposted, hvals, -⟩ := x.writeRun_spec q
  have hget := Block.get_mem_writeRun hone ((hread.map.resolveOwn _).trans hk)
  generalize x.writeRun q = z at heff hevt hposted hvals hget
  have hquiet : (validatorDone t s.block.unposted).posted = [] := by
    rw [heff, Block.valReport_eq]
    exact hposted.trans hread.posted
  refine completes_block (f := validatorDone t) rfl hrun ⟨Block.ValEnded.cycle ?_, ?_⟩
  · rw [heff]
    exact Block.valEnded_valFinish ((hvals _).trans hval) 0 _
  · have hcycle := Block.cycle_of_unposted rfl hquiet
    rw [heff] at hcycle
    have hdef0 : x.memDef = s.block.memDef := hread.memDef
    have hmem0 : x.mem = s.block.mem := hread.mem
    have hlands : ∀ j, Sparse.get s.block.memDef (s.block.cycle (validatorDone t)).mem j =
        if k ≤ j then q.image.getD (j - k) (Sparse.get s.block.memDef s.block.mem j) else Sparse.get s.block.memDef s.block.mem j := by
      intro j
      rw [← hdef0, ← hmem0, ← hget j, hcycle]
      rfl
    refine ⟨?_, fun i hi => ?_, fun j hj => ?_⟩
    · rw [hcycle]
      exact hevt.trans hread.evt
    · rw [hlands, if_pos (by omega), Nat.add_sub_cancel_left, List.getD_eq_getElem _ _ hi, List.getD_eq_getElem _ _ hi]
    · rw [hlands]
      split
      · exact List.getD_eq_default _ _ (by omega)
      · rfl

end

/-- Settles O23: a run comes as far as its checks say, and its end either reports the failed check or writes the records taken. -/
theorem validatorWritesAllOrNothing : Obligations.ValidatorWritesAllOrNothing := by
  unfold Obligations.ValidatorWritesAllOrNothing
  refine ⟨fun s o t v ht => completes_validatorStart ht, fun s t r hrun hr => ?_⟩
  refine ⟨fun hc => ?_, fun c h0 htaken hn hd hc => ?_, fun h0 hd => ⟨fun i c hl hu hpass hf hc => ?_, fun hpass k hk hone => ?_⟩⟩
  · exact completes_validatorDone_refused hrun hr (Block.iterate_takeRecord_over (by simp [ValRun.over, hc]) _) hc
  · exact completes_validatorDone_refused hrun hr (Block.iterate_takeRecord_dstFault h0 htaken hn hd hc) hc
  · exact completes_validatorDone_refused hrun hr (Block.iterate_takeRecord_failed h0 hd hl hu hpass hf hc) hc
  · exact completes_validatorDone_written hrun hr
      (Block.iterate_takeRecord_passed h0 hd le_rfl fun j hl hu => hpass j hl (by omega)) h0 hk hone

end Sys2Proof.Machine
end

section
/-! SUPPORT. The shard map's entries and registers (R104 to R107): numbers in consecutive words, and an entry as it is stored. -/

namespace Sys2Proof.Machine

open Sys2Proof

theorem sideWord_shm {o : Nat} (h : o ≠ Reg.CHANGE_SEQ) : sideWord .shm o = false := by simp [sideWord, eventWord, onStackPage, h]

theorem Block.Entered.shm {a b : Block} (h : a.Entered b) : b.shm = a.shm := by
  unfold Block.Entered at h
  rw [h]

/-! ## Numbers in consecutive words -/

theorem Block.words_succ (b : Block) (p : Page) (off n : Nat) :
    b.words p off (n + 1) = b.words p off n + b.rdN p (off + 4 * n) * 2 ^ (32 * n) := by
  unfold Block.words
  rw [List.range_succ, List.foldl_append]
  rfl

theorem Block.setWords_succ (b : Block) (p : Page) (off n v : Nat) :
    b.setWords p off (n + 1) v = (b.setWords p off n v).wrN p (off + 4 * n) (v / 2 ^ (32 * n)) := by
  unfold Block.setWords
  rw [List.range_succ, List.foldl_append]
  rfl

/-- Words that hold the digits of a number hold the number, as far as they reach. -/
theorem Block.words_of_digits {b : Block} {p : Page} {off n v : Nat} (h : ∀ i < n, b.rdN p (off + 4 * i) = v / 2 ^ (32 * i) % 2 ^ 32) :
    b.words p off n = v % 2 ^ (32 * n) := by
  induction n with
  | zero => simp [Block.words, Nat.mod_one]
  | succ n ih =>
    rw [Block.words_succ, ih fun i hi => h i (by omega), h n (by omega), show 32 * (n + 1) = 32 * n + 32 by omega, Nat.pow_add,
      Nat.mod_mul, Nat.mul_comm (v / _ % _)]

theorem Block.rdN_setWords (b : Block) {p : Page} {off n : Nat} (v : Nat) (hoff : off + 4 * n ≤ 4096) {i : Nat} (hi : i < n) :
    (b.setWords p off n v).rdN p (off + 4 * i) = v / 2 ^ (32 * i) % 2 ^ 32 := by
  induction n with
  | zero => omega
  | succ n ih =>
    rw [Block.setWords_succ]
    rcases Nat.lt_succ_iff_lt_or_eq.1 hi with hlt | rfl
    · unfold Block.rdN
      rw [Block.rd_wrN_other _ _ (by omega) (by omega) (.inr (by omega))]
      exact ih (by omega) hlt
    · exact Block.rdN_wrN_self _ _ _ _

theorem Block.setWords_shm (b : Block) (p : Page) (off n v : Nat) : (b.setWords p off n v).shm = b.shm := by
  induction n with
  | zero => rfl
  | succ n ih => rw [Block.setWords_succ, Block.wrN_shm, ih]

/-! ## An entry as it is stored -/

theorem shardAddr_shardStored (e : Nat) : shardAddr (shardStored e) = shardAddr e := by
  unfold shardAddr shardStored
  generalize field e 79 79 = f, field e 95 80 = g
  omega

theorem shardHolder_shardStored (e : Nat) : shardHolder (shardStored e) = shardHolder e := by
  unfold shardHolder shardStored field
  omega

theorem shardVersion_shardStored (e : Nat) : shardVersion (shardStored e) = shardVersion e := by
  unfold shardVersion shardStored field
  omega

theorem shardValid_shardStored (e : Nat) : shardValid (shardStored e) = shardValid e := by
  unfold shardValid shardStored bit field
  rw [Nat.testBit_eq_decide_div_mod_eq, Nat.testBit_eq_decide_div_mod_eq]
  congr 2
  omega

theorem Block.shard_setShard (b : Block) (i e j : Nat) : (b.setShard i e).shard j = if j = i then shardStored e else b.shard j :=
  Sparse.get_put _ _ _ _ _

theorem Block.shard_of_map {a b : Block} (h : b.shm.map = a.shm.map) (i : Nat) : b.shard i = a.shard i := by
  unfold Block.shard
  rw [h]

theorem Block.post_shm (b : Block) (e : Nat) (p : Page) (data : Nat) : (b.post e p data).shm = b.shm := rfl

theorem Block.setCode_shm (b : Block) (p : Page) (off code : Nat) : (b.setCode p off code).shm = b.shm := Block.wr_shm _ _ _ _

theorem Block.rd_post (b : Block) (e : Nat) (pg : Page) (data : Nat) (p : Page) (o : Nat) : (b.post e pg data).rd p o = b.rd p o := rfl

theorem Block.setCode_evtCount (b : Block) (p : Page) (off code e : Nat) : (b.setCode p off code).evtCount e = b.evtCount e :=
  Block.evtCount_of_evt (Block.wr_evt _ _ _ _) e

/-- The code that a status register shows. -/
theorem Block.wfield_setCode (b : Block) (p : Page) (off : Nat) {code : Nat} (h : code < 2 ^ 16) :
    wfield ((b.setCode p off code).rd p off) 15 0 = code := by
  unfold Block.setCode Block.wrField
  rw [Block.rd_wr_self, wfield_wset_self _ _ (by decide) (by decide)]
  exact Nat.mod_eq_of_lt h

end Sys2Proof.Machine
end

section
/-! PROOF. The shard map's commands and bulk load, and the version record's clears (R105 to R108, R378, R379). -/

namespace Sys2Proof.Machine

open Sys2Proof

/-! ## SHM_CMD (R105 to R107) -/

/-- SHM_CMD 1 shows the entry at SHM_SEL. -/
theorem completes_shmCmdRead {s : State} {o : Origin} (ht : s.takes o .shm Reg.SHM_CMD = true) :
    Completes (.shmCmdRead o) s (fun b =>
      b.words .shm (Reg.SHM_DATA 0) 4 = s.block.shard (s.block.rdN .shm Reg.SHM_SEL) % 2 ^ 128 ∧ b.shm = s.block.shm) := by
  refine completes_takes rfl ht fun b ⟨hrd, _, hent, _⟩ => ⟨Block.words_of_digits fun i hi => ?_, ?_⟩
  · have hside : sideWord .shm (Reg.SHM_DATA 0 + 4 * i) = false := sideWord_shm (by
      show 0x050 + 4 * 0 + 4 * i ≠ 0x020
      omega)
    rw [Block.rdN, hrd _ _ (by show 0x050 + 4 * 0 + 4 * i < 4096; omega) hside]
    exact Block.rdN_setWords s.block.unposted _ (by decide) hi
  · rw [hent.shm, Block.setWords_shm]
    rfl

section
variable {s : State} {o : Origin} (ht : s.takes o .shm Reg.SHM_CMD = true)
include ht

/-- SHM_CMD 2 completes with the write of the entry, or with its refusal. -/
theorem completes_shmCmdWrite {held : Bool} {P : Block → Prop}
    (hheld : shardHeld (s.block.shard (s.block.rdN .shm Reg.SHM_SEL)) (s.block.words .shm (Reg.SHM_DATA 0) 4) = held)
    (hp : ∀ b : Block,
      (if held then (s.block.unposted.setCode .shm Reg.SHM_STAT Ev.SHM_VERSION_HELD).post Ev.SHM_VERSION_HELD .shm 0
        else (s.block.unposted.setShard (s.block.rdN .shm Reg.SHM_SEL) (s.block.words .shm (Reg.SHM_DATA 0) 4)).setCode .shm
          Reg.SHM_STAT 0).Logged b → P b) : Completes (.shmCmdWrite o) s P := by
  simp only [State.takes, Bool.and_eq_true] at ht
  obtain ⟨hd, ha⟩ := ht
  refine completes_gate (en := if held then .command 2 else .table (s.block.rdN .shm Reg.SHM_SEL) 1)
    (eff := fun x => if held then (x.setCode .shm Reg.SHM_STAT Ev.SHM_VERSION_HELD).post Ev.SHM_VERSION_HELD .shm 0
      else (x.setShard (s.block.rdN .shm Reg.SHM_SEL) (s.block.words .shm (Reg.SHM_DATA 0) 4)).setCode .shm Reg.SHM_STAT 0)
    rfl ?_ hd ha hp
  rintro _ rfl
  subst hheld
  rfl

theorem completes_shmCmdWrite_writes
    (h : shardHeld (s.block.shard (s.block.rdN .shm Reg.SHM_SEL)) (s.block.words .shm (Reg.SHM_DATA 0) 4) = false) :
    Completes (.shmCmdWrite o) s (fun b =>
      b.shard (s.block.rdN .shm Reg.SHM_SEL) = shardStored (s.block.words .shm (Reg.SHM_DATA 0) 4) ∧
      (∀ j, j ≠ s.block.rdN .shm Reg.SHM_SEL → b.shard j = s.block.shard j) ∧ wfield (b.rd .shm Reg.SHM_STAT) 15 0 = 0) := by
  generalize hi : s.block.rdN .shm Reg.SHM_SEL = i
  generalize he : s.block.words .shm (Reg.SHM_DATA 0) 4 = e
  refine completes_shmCmdWrite ht h fun b ⟨hrd, _, hent, _⟩ => ?_
  rw [hi, he] at hrd hent
  have hmap : ∀ j, b.shard j = if j = i then shardStored e else s.block.shard j := fun j => by
    have hshm : b.shm = (s.block.unposted.setShard i e).shm := hent.shm
    rw [Block.shard_of_map (congrArg ShmSt.map hshm), Block.shard_setShard]
    rfl
  refine ⟨by rw [hmap, if_pos rfl], fun j hj => by rw [hmap, if_neg hj], ?_⟩
  rw [hrd _ _ (by decide) (sideWord_shm (by decide))]
  exact Block.wfield_setCode _ _ _ (by decide)

theorem completes_shmCmdWrite_held
    (h : shardHeld (s.block.shard (s.block.rdN .shm Reg.SHM_SEL)) (s.block.words .shm (Reg.SHM_DATA 0) 4) = true) :
    Completes (.shmCmdWrite o) s (fun b =>
      b.shm = s.block.shm ∧ wfield (b.rd .shm Reg.SHM_STAT) 15 0 = Ev.SHM_VERSION_HELD ∧
      b.evtCount Ev.SHM_VERSION_HELD = satAdd64 (s.block.evtCount Ev.SHM_VERSION_HELD) 1) := by
  refine completes_shmCmdWrite ht h fun b ⟨hrd, hevt, hent, _⟩ => ⟨?_, ?_, ?_⟩
  · rw [hent.shm, if_pos rfl, Block.post_shm, Block.setCode_shm]
    rfl
  · rw [hrd _ _ (by decide) (sideWord_shm (by decide))]
    rw [if_pos rfl, Block.rd_post]
    exact Block.wfield_setCode s.block.unposted _ _ (by decide)
  · rw [hevt _ (by decide), if_pos rfl, Block.post_evtCount_self, Block.setCode_evtCount]
    rfl

end

/-! ## SHM_LOAD_CTL (R108) -/

/-- The module with the fields of SHM_LOAD_CTL as written. -/
def Block.loadFields (b : Block) (v : Word) : Block := b.writeFields .shm Reg.SHM_LOAD_CTL v

/-- The bulk load that a write of SHM_LOAD_CTL begins. -/
def Block.newLoad (b : Block) (o : Origin) (v : Word) : BulkRun :=
  { first := b.rdN .shm Reg.SHM_SEL, count := wfield v 17 0, addr := b.rd64 .shm Reg.SHM_LOAD_SRC_LO, clear := false, origin := o,
    done := 0, code := 0 }

/-- The module with another bulk load of the shard map, or none. -/
def Block.setLoad (b : Block) (r : Option BulkRun) : Block := { b with shm := { b.shm with bulk := r } }

/-- What a write of SHM_LOAD_CTL does. -/
def Block.loadCtl (b : Block) (o : Origin) (v : Word) : Block :=
  if wbit (b.rd .shm Reg.SHM_STAT) 31 then b
  else if !wbit v 31 then b.loadFields v
  else if 131072 < (b.loadFields v).rdN .shm Reg.SHM_SEL + wfield v 17 0 then
    (((b.loadFields v).setCode .shm Reg.SHM_STAT Ev.DESC_RANGE).wrN .shm Reg.SHM_LOAD_DONE 0).post Ev.DESC_RANGE .shm 0
  else ((b.loadFields v).setLoad (some ((b.loadFields v).newLoad o v))).wrBit .shm Reg.SHM_STAT 31 true

theorem exec_shmBulkLoadStart (o : Origin) (v : Word) (s : State) : exec (.shmBulkLoadStart o v) s =
    s.onWrite o (fun b => b.gate o .shm Reg.SHM_LOAD_CTL (if wbit v 31 then .deferred else .change) (fun x => x.loadCtl o v)) := rfl

/-- The row of SHM_LOAD_CTL. -/
def shmLoadCtlRow : RegDef := ⟨"SHM_LOAD_CTL", 0x068, 1, 4, false, .rw, 0x3FFFF, 0x0, true⟩

theorem Block.loadFields_eq_wr (b : Block) (v : Word) : b.loadFields v =
    b.wr .shm Reg.SHM_LOAD_CTL (fieldWrite shmLoadCtlRow .shm Reg.SHM_LOAD_CTL (b.rd .shm Reg.SHM_LOAD_CTL) v) :=
  b.writeFields_eq_wr rfl v

theorem Block.rd_loadFields (b : Block) (v : Word) {o : Nat} (ho : o < 4096) (h : o ≠ Reg.SHM_LOAD_CTL) :
    (b.loadFields v).rd .shm o = b.rd .shm o := by
  rw [b.loadFields_eq_wr]
  exact b.rd_wr_other _ (by decide) ho (.inr h)

theorem Block.rdN_loadFields (b : Block) (v : Word) {o : Nat} (ho : o < 4096) (h : o ≠ Reg.SHM_LOAD_CTL) :
    (b.loadFields v).rdN .shm o = b.rdN .shm o := congrArg BitVec.toNat (b.rd_loadFields v ho h)

theorem Block.loadFields_regs (b : Block) (v : Word) : b.loadFields v = { b with regs := (b.loadFields v).regs } := by
  rw [b.loadFields_eq_wr]
  exact b.wr_eq _ _ _

/-- The load that is begun is that of the registers as they stood. -/
theorem Block.newLoad_loadFields (b : Block) (o : Origin) (v : Word) : (b.loadFields v).newLoad o v = b.newLoad o v := by
  unfold Block.newLoad
  rw [b.rdN_loadFields v (by decide) (by decide),
    b.rd64_other (b.rd_loadFields v (by decide) (by decide)) (b.rd_loadFields v (by decide) (by decide))]

section
variable {b : Block} {o : Origin} {v : Word} (hidle : wbit (b.rd .shm Reg.SHM_STAT) 31 = false) (hv : wbit v 31 = true)
include hidle hv

theorem Block.loadCtl_overruns (h : 131072 < b.rdN .shm Reg.SHM_SEL + wfield v 17 0) : b.loadCtl o v =
    (((b.loadFields v).setCode .shm Reg.SHM_STAT Ev.DESC_RANGE).wrN .shm Reg.SHM_LOAD_DONE 0).post Ev.DESC_RANGE .shm 0 := by
  unfold Block.loadCtl
  rw [b.rdN_loadFields v (by decide) (by decide), if_neg (by rw [hidle]; decide), if_neg (by rw [hv]; decide), if_pos h]

theorem Block.loadCtl_begins (h : b.rdN .shm Reg.SHM_SEL + wfield v 17 0 ≤ 131072) :
    b.loadCtl o v = ((b.loadFields v).setLoad (some (b.newLoad o v))).wrBit .shm Reg.SHM_STAT 31 true := by
  unfold Block.loadCtl
  rw [b.rdN_loadFields v (by decide) (by decide), if_neg (by rw [hidle]; decide), if_neg (by rw [hv]; decide),
    if_neg (Nat.not_lt.2 h), Block.newLoad_loadFields]

end

/-- START begins a bulk load, or writes nothing where COUNT overruns the map. -/
theorem completes_shmBulkLoadStart {s : State} {o : Origin} {v : Word} (ht : s.takes o .shm Reg.SHM_LOAD_CTL = true)
    (hidle : wbit (s.block.rd .shm Reg.SHM_STAT) 31 = false) (hv : wbit v 31 = true) :
    Completes (.shmBulkLoadStart o v) s (fun b =>
      (s.block.rdN .shm Reg.SHM_SEL + wfield v 17 0 ≤ 131072 →
        b.shm.bulk = some (s.block.newLoad o v) ∧ b.shm.map = s.block.shm.map ∧ wbit (b.rd .shm Reg.SHM_STAT) 31 = true) ∧
      (131072 < s.block.rdN .shm Reg.SHM_SEL + wfield v 17 0 →
        b.shm = s.block.shm ∧ b.rd .shm Reg.SHM_LOAD_DONE = 0 ∧ wfield (b.rd .shm Reg.SHM_STAT) 15 0 = Ev.DESC_RANGE ∧
        b.evtCount Ev.DESC_RANGE = satAdd64 (s.block.evtCount Ev.DESC_RANGE) 1)) := by
  have hfields := s.block.unposted.loadFields_regs v
  have hshm : (s.block.unposted.loadFields v).shm = s.block.shm := by rw [hfields]; rfl
  have hevt : (s.block.unposted.loadFields v).evt = s.block.evt := by rw [hfields]; rfl
  refine completes_takes (exec_shmBulkLoadStart o v s) ht fun b hl => ⟨fun hfits => ?_, fun hover => ?_⟩
  · rw [Block.loadCtl_begins (b := s.block.unposted) hidle hv hfits] at hl
    generalize s.block.unposted.loadFields v = x at hl hshm
    obtain ⟨hrd, -, hent, -⟩ := hl
    have hb : b.shm = { x.shm with bulk := some (s.block.unposted.newLoad o v) } := hent.shm
    refine ⟨by rw [hb]; rfl, by rw [hb, hshm], ?_⟩
    rw [hrd _ _ (by decide) (sideWord_shm (by decide))]
    unfold Block.wrBit
    rw [Block.rd_wr_self]
    exact wbit_wsetBit_self _ _ _ (by decide)
  · rw [Block.loadCtl_overruns (b := s.block.unposted) hidle hv hover] at hl
    generalize s.block.unposted.loadFields v = x at hl hshm hevt
    obtain ⟨hrd, hcount, hent, -⟩ := hl
    refine ⟨?_, ?_, ?_, ?_⟩
    · rw [hent.shm, Block.post_shm, Block.wrN_shm, Block.setCode_shm, hshm]
    · rw [hrd _ _ (by decide) (sideWord_shm (by decide)), Block.rd_post]
      exact Block.rd_wr_self _ _ _ _
    · rw [hrd _ _ (by decide) (sideWord_shm (by decide)), Block.rd_post,
        Block.rd_wrN_other _ _ (by decide) (by decide) (.inr (by decide))]
      exact x.wfield_setCode _ _ (by decide)
    · rw [hcount _ (by decide), Block.post_evtCount_self, Block.evtCount_of_evt (Block.wrN_evt _ _ _ _), Block.setCode_evtCount,
        Block.evtCount_of_evt hevt]

/-! ## The entries of a bulk load (R108) -/

/-- A code that ends a bulk load of the shard map. -/
def endsLoad (c : Nat) : Prop := c = Ev.ADDR_UNMAPPED ∨ c = Ev.SHM_VERSION_HELD

/-- A load that an entry has ended takes no further one. -/
theorem Block.shmLoadOne_ended {y : Block} {q : BulkRun} (hq : y.shm.bulk = some q) (hc : q.code ≠ 0) : y.shmLoadOne = y := by
  unfold Block.shmLoadOne Block.bulkOne
  rw [hq]
  dsimp only
  rw [if_pos (.inl hc), ← hq]

/-- The next entry of a load is refused with a code, or read and set. -/
theorem Block.shmLoadOne_goes {y : Block} {q : BulkRun} (hq : y.shm.bulk = some q) (h0 : q.code = 0) (hn : q.done < q.count) :
    (∃ c, endsLoad c ∧ y.shmLoadOne = y.setLoad (some { q with code := c })) ∨
    y.shmLoadOne = (((y.lookup 16 (q.addr + 16 * q.done)).touchHbm (q.addr + 16 * q.done) 16).setShard (q.first + q.done)
      (y.num (q.addr + 16 * q.done) 16)).setLoad (some { q with done := q.done + 1 }) := by
  unfold Block.shmLoadOne Block.bulkOne
  rw [hq]
  dsimp only
  rw [if_neg (by omega)]
  split
  · exact .inl ⟨_, .inl rfl, rfl⟩
  · split
    · next hheld => exact .inl ⟨_, .inr rfl, rfl⟩
    · exact .inr rfl

/-- `y` is `a` after `m` further entries of the load `r`, which has come as far as `q` says: the entries that landed stand in the map as
memory holds them, all others as before, and the load is short of `m` entries only where a code has ended it. -/
structure Block.Loading (a : Block) (r : BulkRun) (m : Nat) (y : Block) (q : BulkRun) : Prop where
  read : a.HasRead y
  bulk : y.shm.bulk = some q
  run : q = { r with done := q.done, code := q.code }
  goesOn : r.done ≤ q.done
  reach : (q.code = 0 ∧ q.done = r.done + m) ∨ (endsLoad q.code ∧ q.done < r.done + m)
  landed : ∀ i, r.done ≤ i → i < q.done → y.shard (r.first + i) = shardStored (a.num (r.addr + 16 * i) 16)
  kept : ∀ j, j < r.first + r.done ∨ r.first + q.done ≤ j → y.shard j = a.shard j

theorem endsLoad_ne_zero {c : Nat} (h : endsLoad c) : c ≠ 0 ∧ BitVec.ofNat 32 c ≠ 0 := by
  rcases h with rfl | rfl <;> decide

theorem Block.loading_zero {a : Block} {r : BulkRun} (hr : a.shm.bulk = some r) (h0 : r.code = 0) : a.Loading r 0 a r :=
  ⟨.refl a, hr, rfl, Nat.le_refl _, .inl ⟨h0, rfl⟩, fun i hl hu => by omega, fun _ _ => rfl⟩

/-- The shard map and its load are no part of what is read. -/
theorem Block.hasRead_setShm (b : Block) (x : ShmSt) : b.HasRead { b with shm := x } :=
  ⟨rfl, fun _ _ _ _ => rfl, ⟨fun _ => rfl, fun _ => rfl, rfl, fun _ => rfl, rfl⟩, fun _ => rfl, rfl, rfl⟩

theorem Block.shard_setLoad (b : Block) (r : Option BulkRun) (j : Nat) : (b.setLoad r).shard j = b.shard j := rfl

theorem Block.shard_served (b : Block) (die x n j : Nat) : ((b.lookup die x).touchHbm x n).shard j = b.shard j := by
  refine Block.shard_of_map ?_ j
  rw [((b.accessed_lookup die x).trans (Block.accessed_touchHbm _ x n)).same]

/-- One more entry lands, or is refused, or comes after one that was. -/
theorem Block.Loading.step {a y : Block} {r q : BulkRun} {m : Nat} (h : a.Loading r m y q) (hm : r.done + m < r.count) :
    ∃ q', a.Loading r (m + 1) y.shmLoadOne q' := by
  obtain ⟨hread, hbulk, hrun, hfrom, hreach, hlanded, hkept⟩ := h
  rcases hreach with ⟨h0, hdone⟩ | ⟨hends, hshort⟩
  · have hcount : q.count = r.count := by rw [hrun]
    have hfirst : q.first = r.first := by rw [hrun]
    have haddr : q.addr = r.addr := by rw [hrun]
    rcases Block.shmLoadOne_goes hbulk h0 (by omega) with ⟨c, hc, heq⟩ | heq
    · rw [heq]
      exact ⟨{ q with code := c }, hread.trans (y.hasRead_setShm _), rfl, by rw [hrun], hfrom, .inr ⟨hc, by show q.done < _; omega⟩,
        hlanded, hkept⟩
    · have hmap : ∀ j, y.shmLoadOne.shard j =
          if j = r.first + q.done then shardStored (a.num (r.addr + 16 * q.done) 16) else y.shard j := fun j => by
        rw [heq, Block.shard_setLoad, Block.shard_setShard, Block.shard_served, hread.num, hfirst, haddr]
      refine ⟨{ q with done := q.done + 1 }, ?_, by rw [heq]; rfl, by rw [hrun], by show r.done ≤ q.done + 1; omega,
        .inl ⟨h0, by show q.done + 1 = _; omega⟩, fun i hl hu => ?_, fun j hj => ?_⟩
      · rw [heq]
        exact (hread.trans (y.hasRead_served _ _ _)).trans ((Block.hasRead_setShm _ _).trans (Block.hasRead_setShm _ _))
      · rw [hmap]
        split
        · next hi => rw [show i = q.done by omega]
        · exact hlanded i hl (by change i < q.done + 1 at hu; omega)
      · change j < _ ∨ r.first + (q.done + 1) ≤ j at hj
        rw [hmap, if_neg (by omega)]
        exact hkept j (by omega)
  · rw [Block.shmLoadOne_ended hbulk (endsLoad_ne_zero hends).1]
    exact ⟨q, hread, hbulk, hrun, hfrom, .inr ⟨hends, by omega⟩, hlanded, hkept⟩

/-- The entries still to come land one after the other, or a code ends the load. -/
theorem Block.loading_iterate {a : Block} {r : BulkRun} (hr : a.shm.bulk = some r) (h0 : r.code = 0) {m : Nat}
    (hm : m ≤ r.count - r.done) : ∃ q, a.Loading r m (Block.shmLoadOne^[m] a) q := by
  induction m with
  | zero => exact ⟨r, Block.loading_zero hr h0⟩
  | succ m ih =>
    obtain ⟨q, hq⟩ := ih (by omega)
    rw [Function.iterate_succ_apply']
    exact hq.step (by omega)

/-! ## The end of a bulk load (R108) -/

/-- `b` shows `a`'s register words, but for those that events and entries write, and holds what no event and no entry reaches. -/
def Block.Shows (a b : Block) : Prop := a.Entered b ∧ ∀ p o, o < 4096 → sideWord p o = false → b.rd p o = a.rd p o

theorem Block.Logged.shows {a b : Block} (h : a.Logged b) : a.Shows b := by
  obtain ⟨hrd, -, hent, -⟩ := h
  exact ⟨hent, hrd⟩

theorem Block.Shows.trans {a b c : Block} (h : a.Shows b) (k : b.Shows c) : a.Shows c := by
  obtain ⟨hab, hrd⟩ := h
  obtain ⟨hbc, krd⟩ := k
  exact ⟨hab.trans hbc, fun p o ho hs => (krd p o ho hs).trans (hrd p o ho hs)⟩

theorem Block.shows_post (b : Block) (e : Nat) (p : Page) (data : Nat) : b.Shows (b.post e p data) := ⟨rfl, fun _ _ _ _ => rfl⟩

theorem Block.shows_cycle (b : Block) (f : Block → Block) : (f b.unposted).Shows (b.cycle f) :=
  ((Block.settle_logged _).trans (Block.logged_posted _ _)).shows

/-- The module with a load ended, its registers showing how far it came. -/
def Block.endLoad (b : Block) (q : BulkRun) : Block :=
  ((b.setLoad none).wrN .shm Reg.SHM_LOAD_DONE q.done).wrN .shm Reg.SHM_STAT q.code

theorem Block.endLoad_shm (b : Block) (q : BulkRun) : (b.endLoad q).shm = { b.shm with bulk := none } := by
  unfold Block.endLoad
  rw [Block.wrN_shm, Block.wrN_shm]
  rfl

theorem Block.endLoad_words (b : Block) (q : BulkRun) :
    (b.endLoad q).rd .shm Reg.SHM_LOAD_DONE = BitVec.ofNat 32 q.done ∧ (b.endLoad q).rd .shm Reg.SHM_STAT = BitVec.ofNat 32 q.code := by
  unfold Block.endLoad
  refine ⟨?_, Block.rd_wr_self _ _ _ _⟩
  rw [Block.rd_wrN_other _ _ (by decide) (by decide) (.inr (by decide))]
  exact Block.rd_wr_self _ _ _ _

theorem shmBulkLoadDone_shows {b y : Block} {r q : BulkRun} (hr : b.shm.bulk = some r)
    (hy : Block.shmLoadOne^[r.count - r.done] b = y) (hq : y.shm.bulk = some q) : (y.endLoad q).Shows (shmBulkLoadDone b) := by
  have heq : shmBulkLoadDone b =
      let z := (y.endLoad q).logAppend q.origin LogKind.tableChange (addrOf .shm Reg.SHM_LOAD_CTL) q.first q.done
      if q.code = 0 then z else z.post q.code .shm 0 := by
    unfold shmBulkLoadDone
    rw [hr]
    dsimp only
    rw [List.foldl_const, List.length_range, hy, hq]
    rfl
  rw [heq]
  have hlog := (Block.logAppend_logged (y.endLoad q) q.origin LogKind.tableChange (addrOf .shm Reg.SHM_LOAD_CTL) q.first q.done).shows
  dsimp only
  split
  · exact hlog
  · exact hlog.trans (Block.shows_post _ _ _ _)

/-- The end of a load shows how far its entries have brought it. -/
theorem completes_shmBulkLoadDone {s : State} {r q : BulkRun} {y : Block} {P : Block → Prop} (hrun : s.block.running = true)
    (hr : s.block.shm.bulk = some r) (hy : Block.shmLoadOne^[r.count - r.done] s.block.unposted = y) (hq : y.shm.bulk = some q)
    (hp : ∀ b : Block, b.shm = { y.shm with bulk := none } → b.rd .shm Reg.SHM_LOAD_DONE = BitVec.ofNat 32 q.done →
      b.rd .shm Reg.SHM_STAT = BitVec.ofNat 32 q.code → P b) : Completes .shmBulkLoadDone s P := by
  obtain ⟨hent, hrd⟩ := (shmBulkLoadDone_shows (b := s.block.unposted) hr hy hq).trans (s.block.shows_cycle shmBulkLoadDone)
  obtain ⟨hdone, hcode⟩ := y.endLoad_words q
  refine completes_block (f := shmBulkLoadDone) rfl hrun (hp _ ?_ ?_ ?_)
  · rw [hent.shm, Block.endLoad_shm]
  · rw [hrd _ _ (by decide) (sideWord_shm (by decide)), hdone]
  · rw [hrd _ _ (by decide) (sideWord_shm (by decide)), hcode]

section
variable {s : State} {r : BulkRun} (hrun : s.block.running = true) (hr : s.block.shm.bulk = some r)
include hrun hr

theorem completes_shmBulkLoadDone_lands (hn : r.count < 2 ^ 32) (hle : r.done ≤ r.count) (h0 : r.code = 0) :
    Completes .shmBulkLoadDone s (fun b =>
      b.shm.bulk = none ∧ ∃ k, r.done ≤ k ∧ k ≤ r.count ∧ b.rdN .shm Reg.SHM_LOAD_DONE = k ∧
      (b.rd .shm Reg.SHM_STAT = 0 ↔ k = r.count) ∧
      (∀ i, r.done ≤ i → i < k → b.shard (r.first + i) = shardStored (s.block.num (r.addr + 16 * i) 16)) ∧
      ∀ j, j < r.first + r.done ∨ r.first + k ≤ j → b.shard j = s.block.shard j) := by
  obtain ⟨q, hq⟩ := Block.loading_iterate (a := s.block.unposted) hr h0 (Nat.le_refl _)
  refine completes_shmBulkLoadDone hrun hr rfl hq.bulk fun b hshm hdone hstat => ?_
  have hmap : ∀ j, b.shard j = (Block.shmLoadOne^[r.count - r.done] s.block.unposted).shard j := Block.shard_of_map (by rw [hshm])
  obtain ⟨-, -, -, hfrom, hreach, hlanded, hkept⟩ := hq
  have hto : q.done ≤ r.count := by omega
  refine ⟨by rw [hshm], q.done, hfrom, hto, ?_, ?_, fun i hl hu => (hmap _).trans (hlanded i hl hu),
    fun j hj => (hmap _).trans (hkept j hj)⟩
  · rw [Block.rdN, hdone, BitVec.toNat_ofNat, Nat.mod_eq_of_lt (by omega)]
  · rw [hstat]
    rcases hreach with ⟨hc, hd⟩ | ⟨hc, hd⟩
    · rw [hc]
      exact iff_of_true rfl (by omega)
    · exact iff_of_false (endsLoad_ne_zero hc).2 (by omega)

/-- A load that an entry has ended lands nothing more. -/
theorem completes_shmBulkLoadDone_ended (hn : r.count < 2 ^ 32) (hle : r.done ≤ r.count) (hcode : r.code < 2 ^ 32) (hc : r.code ≠ 0) :
    Completes .shmBulkLoadDone s (fun b => b.shm.bulk = none ∧ b.shm.map = s.block.shm.map ∧
      b.rdN .shm Reg.SHM_STAT = r.code ∧ b.rdN .shm Reg.SHM_LOAD_DONE = r.done) := by
  have hstays := Function.iterate_fixed (Block.shmLoadOne_ended (y := s.block.unposted) hr hc) (r.count - r.done)
  refine completes_shmBulkLoadDone hrun hr hstays hr fun b hshm hdone hstat => ⟨by rw [hshm], by rw [hshm]; rfl, ?_, ?_⟩
  · rw [Block.rdN, hstat, BitVec.toNat_ofNat, Nat.mod_eq_of_lt hcode]
  · rw [Block.rdN, hdone, BitVec.toNat_ofNat, Nat.mod_eq_of_lt (by omega)]

end

/-! ## The version record (R378, R379) -/

/-- CLEAR empties the version record. -/
theorem completes_shmRecClear {s : State} {o : Origin} {v : Word} (ht : s.takes o .shm Reg.SHM_REC_CTL = true) (hv : wbit v 31 = true) :
    Completes (.shmRecClear o v) s (fun b => b.shm = { s.block.shm with record := [] } ∧ b.rd .shm Reg.SHM_REC_DATA = 0) := by
  refine completes_takes (eff := fun x =>
    if wbit v 31 then (x.writeFields .shm Reg.SHM_REC_CTL v).clearRecord else x.writeFields .shm Reg.SHM_REC_CTL v) rfl ht
    fun b ⟨hrd, _, hent, _⟩ => ?_
  rw [if_pos hv] at hrd hent
  have hfields : (s.block.unposted.writeFields .shm Reg.SHM_REC_CTL v).shm = s.block.shm := by
    rw [Block.writeFields_eq_wr _ (show regAt? .shm Reg.SHM_REC_CTL = some _ from rfl), Block.wr_shm]
    rfl
  generalize s.block.unposted.writeFields .shm Reg.SHM_REC_CTL v = x at hrd hent hfields
  refine ⟨?_, ?_⟩
  · rw [hent.shm, ← hfields]
    exact Block.wrN_shm _ _ _ _
  · rw [hrd _ _ (by decide) (sideWord_shm (by decide))]
    exact Block.rd_wr_self _ _ _ _

/-- A 1 written to TAINTED clears it, and no other word changes. -/
theorem completes_taintedClear {s : State} {o : Origin} {v : Word} (ht : s.takes o .shm Reg.SHM_REC_STAT = true) :
    Completes (.taintedClear o v) s (fun b =>
      wbit (b.rd .shm Reg.SHM_REC_STAT) 31 = (wbit (s.block.rd .shm Reg.SHM_REC_STAT) 31 && !wbit v 31) ∧
      ∀ q r, r < 4096 → sideWord q r = false → (q ≠ .shm ∨ r ≠ Reg.SHM_REC_STAT) → b.rd q r = s.block.rd q r) := by
  refine completes_takes (eff := fun x => if wbit v 31 then x.wrBit .shm Reg.SHM_REC_STAT 31 false else x) rfl ht
    fun b ⟨hrd, _, _, _⟩ => ?_
  rw [hrd _ _ (by decide) (sideWord_shm (by decide))]
  cases hv : wbit v 31 <;> rw [hv] at hrd
  · rw [Bool.not_false, Bool.and_true]
    exact ⟨rfl, fun q r hr hs _ => hrd q r hr hs⟩
  · rw [Bool.not_true, Bool.and_false]
    refine ⟨?_, fun q r hr hs hne => (hrd q r hr hs).trans (Block.rd_wr_other _ _ (by decide) hr hne)⟩
    rw [if_pos rfl]
    unfold Block.wrBit
    rw [Block.rd_wr_self]
    exact wbit_wsetBit_self _ _ _ (by decide)

/-- Settles O24: the registers of the shard map are words and the map an array, so that each command is its own lemma; a bulk load keeps
`Block.Loading` from entry to entry. -/
theorem shardMapCommands : Obligations.ShardMapCommands := by
  unfold Obligations.ShardMapCommands
  refine ⟨fun s o ht => ⟨completes_shmCmdRead ht, fun h => ?_, fun h => completes_shmCmdWrite_held ht h⟩,
    ⟨fun s o v ht hidle hv => completes_shmBulkLoadStart ht hidle hv, fun s r hrun hr hn hle hcode => ⟨fun h0 => ?_, fun hc =>
      completes_shmBulkLoadDone_ended hrun hr hn hle hcode hc⟩⟩,
    fun s o v => ⟨fun ht hv => ?_, fun ht => completes_taintedClear ht⟩⟩
  · refine (completes_shmCmdWrite_writes ht h).imp fun b ⟨hself, hothers, hstat⟩ => ⟨?_, hothers, hstat⟩
    rw [hself]
    exact ⟨shardAddr_shardStored _, shardHolder_shardStored _, shardValid_shardStored _, shardVersion_shardStored _⟩
  · refine (completes_shmBulkLoadDone_lands hrun hr hn hle h0).imp fun b ⟨hbulk, k, hfrom, hto, hdone, hstat, hlanded, hkept⟩ =>
      ⟨hbulk, k, hfrom, hto, hdone, hstat, fun i hl hu => ?_, hkept⟩
    rw [hlanded i hl hu]
    exact ⟨shardAddr_shardStored _, shardVersion_shardStored _⟩
  · refine (completes_shmRecClear ht hv).imp fun b ⟨hshm, hdata⟩ => ⟨fun i => ?_, ?_, hdata⟩
    · rw [hshm]
      rfl
    · rw [hshm]

end Sys2Proof.Machine
end

section
/-! SUPPORT. What the delivery of a block leaves (R224, R225): words in error are counted and poisoned, and the rest is read from SRAM or the
operand cache. -/

namespace Sys2Proof.Machine

open Sys2Proof

/-- The pages that a delivery counts on or takes the time from; no read of memory writes them. -/
def offMemory : Page → Bool
  | .fet _ => true
  | .clk => true
  | _ => false

/-- `b` is `a` after reads of memory that may have found words in error: counters of tiles, stacks and the far tier, poison, caches, the page
table's marks and queues differ at most. -/
structure Block.Delivers (a b : Block) : Prop where
  same : b = { a with regs := b.regs, poison := b.poison, tiles := b.tiles, hbm := b.hbm, stks := b.stks, shm := b.shm }
  rd : ∀ p o, o < 4096 → offMemory p = true → b.rd p o = a.rd p o

theorem Block.Delivers.refl (a : Block) : a.Delivers a := ⟨rfl, fun _ _ _ _ => rfl⟩

theorem Block.Delivers.trans {a b c : Block} (h : a.Delivers b) (k : b.Delivers c) : a.Delivers c :=
  ⟨by rw [k.same, h.same], fun p o ho hp => (k.rd p o ho hp).trans (h.rd p o ho hp)⟩

theorem Block.delivers_of_regs {a b : Block} (hr : b.regs = a.regs)
    (h : b = { a with regs := b.regs, poison := b.poison, tiles := b.tiles, hbm := b.hbm, stks := b.stks, shm := b.shm }) :
    a.Delivers b := ⟨h, fun p o _ _ => Block.rd_of_regs hr p o⟩

theorem Block.HasRead.delivers {a b : Block} (h : a.HasRead b) : a.Delivers b := by
  refine ⟨?_, fun p o ho hp => h.rd p o ho ?_⟩
  · rw [h.same]
  · cases p with
    | fet _ => rfl
    | clk => rfl
    | _ => cases hp

theorem Block.delivers_wr (b : Block) {p : Page} {o : Nat} (v : Word) (hp : offMemory p = false) (ho : o < 4096) :
    b.Delivers (b.wr p o v) := by
  refine ⟨rfl, fun q r hr hq => b.rd_wr_other v ho hr (.inl ?_)⟩
  rintro rfl
  rw [hp] at hq
  cases hq

theorem Block.delivers_wr64 (b : Block) {p : Page} {o : Nat} (v : Nat) (hp : offMemory p = false) (ho : o + 4 < 4096) :
    b.Delivers (b.wr64 p o v) :=
  (b.delivers_wr _ hp (by omega)).trans (Block.delivers_wr _ _ hp ho)

theorem Block.delivers_count (b : Block) {p : Page} {o : Nat} (n : Nat) (hp : offMemory p = false) (ho : o + 4 < 4096) :
    b.Delivers (b.count p o n) := b.delivers_wr64 _ hp ho

theorem Block.delivers_setTile (b : Block) (t : Nat) (x : TileSt) : b.Delivers (b.setTile t x) := Block.delivers_of_regs rfl rfl
theorem Block.delivers_setStk (b : Block) (i : Nat) (x : StackSt) : b.Delivers (b.setStk i x) := Block.delivers_of_regs rfl rfl

theorem Block.delivers_setPoison (b : Block) (a : Nat) (v : Bool) : b.Delivers (b.setPoison a v) := by
  unfold Block.setPoison
  split
  · exact Block.delivers_of_regs rfl rfl
  · exact .refl b

theorem Block.delivers_markRow (b : Block) (st frame row : Nat) : b.Delivers (b.markRow st frame row) := by
  unfold Block.markRow
  dsimp only
  split
  · exact .refl b
  · exact b.delivers_setStk _ _

/-- A word found correctable is counted (R225, R290). -/
theorem Block.delivers_correctedWord (b : Block) (a : Nat) : b.Delivers (b.correctedWord a) := by
  unfold Block.correctedWord Block.correctedError
  dsimp only
  split
  · exact b.delivers_count 1 rfl (by decide)
  · split
    · have hcount := fun x => (b.delivers_setStk (stackFin (b.pte (pageOf a)).stack).val x).trans
        (Block.delivers_count _ (p := .hbc (stackFin (b.pte (pageOf a)).stack)) (o := Reg.HBC_CE) 1 rfl (by decide))
      split
      · exact (hcount _).trans (Block.delivers_markRow _ _ _ _)
      · exact hcount _
    · exact .refl b

/-- A word found uncorrectable is poisoned and counted (R226, R291). -/
theorem Block.delivers_uncorrectable (b : Block) (a : Nat) : b.Delivers (b.uncorrectable a) := by
  have hp := b.delivers_setPoison a true
  unfold Block.uncorrectable
  dsimp only
  generalize b.setPoison a true = y at hp
  split
  · split
    · next ht =>
      have hreport : b.Delivers ((((y.count (.tile ⟨a / 2 ^ 33, ht⟩) Reg.TILE_SRAM_UE 1).wr64 (.tile ⟨a / 2 ^ 33, ht⟩)
          Reg.TILE_SRAM_ERR_ADDR a).setInt (.tile ⟨a / 2 ^ 33, ht⟩) 2)) :=
        ((hp.trans (y.delivers_count 1 rfl (by decide))).trans (Block.delivers_wr64 _ a rfl (by decide))).trans
          (Block.delivers_wr _ _ rfl (by decide))
      split
      · split
        · exact hreport.trans (Block.delivers_setTile _ _ _)
        · exact hreport
      · exact hreport
    · exact hp
  · split
    · split
      · exact ((hp.trans (y.delivers_count 1 rfl (by decide))).trans (Block.delivers_wr64 _ a rfl (by decide))).trans
          (Block.delivers_markRow _ _ _ _)
      · exact hp
    · exact hp.trans (y.delivers_count 1 rfl (by decide))

theorem Block.delivers_foundIn (b : Block) (errs : Errs) (p : Nat → Bool) : b.Delivers (b.foundIn errs p) := by
  unfold Block.foundIn
  refine List.foldlRecOn _ _ (List.foldlRecOn _ _ (.refl b) ?_) ?_
  · exact fun x hx a _ => hx.trans (x.delivers_correctedWord a.toNat)
  · exact fun x hx a _ => hx.trans (x.delivers_uncorrectable a.toNat)

/-- A line read through the operand cache (R242, R243). -/
theorem Block.delivers_ocRead (b : Block) (t : Fin 16) (h l : Nat) (g : Option OcLine) : b.Delivers (b.ocRead t h l g).2 := by
  unfold Block.ocRead
  dsimp only
  split
  · exact (b.delivers_setTile _ _).trans (Block.delivers_count _ 1 rfl (by decide))
  · have hread : b.Delivers (if h = 0 ∧ g.isNone then (b.lookup t.val (512 * l)).touchHbm (512 * l) 512 else b) := by
      split
      · exact (b.hasRead_served t.val (512 * l) 512).delivers
      · exact .refl b
    exact (hread.trans (Block.delivers_setTile _ _ _)).trans (Block.delivers_count _ 1 rfl (by decide))

theorem Block.delivers_readRanges (b : Block) (t : Fin 16) (k : TaskSt) (cached : Bool) (h : Nat) (g : Nat → Option OcLine)
    (l : List (Nat × Nat)) : b.Delivers (b.readRanges t k cached h g l).2 := by
  unfold Block.readRanges
  split
  · exact List.foldlRecOn _ _ (motive := fun p : (List (Nat × Byte) × List Nat) × Block => b.Delivers p.2) (.refl b)
      fun p hp i _ => hp.trans (p.2.delivers_ocRead t h (i.1 / 512) _)
  · exact .refl b

end Sys2Proof.Machine
end

section
/-! PROOF. Arrivals and lateness (R113, R224, R238). -/

namespace Sys2Proof.Machine

open Sys2Proof

/-! ## A step of an engine -/

/-- A step of an engine for its task that raises no event completes with what it makes of the module as the task sees it. -/
theorem completes_engineStep {i : Instr} {s : State} {c : Fin 128} {port : Nat} {q : TaskSt} {f : Block → Block} {y : Block}
    {P : Block → Prop} (he : exec i s = s.onBlock (Block.engine c port .none f)) (hr : s.block.running = true)
    (hq : s.block.portTask c port = some q) (hf : f (s.block.seenBy q).unposted = y) (hy : y.posted = [])
    (hp : P (y.afterStep s.block.posted)) : Completes i s P := by
  refine completes_quiet (y := { y with lens := [] }) he hr ?_ hy hp
  rw [Block.engine_none f (by rw [Block.portTask_unposted, hq]), Block.seenBy_unposted, hf]

theorem Block.core_afterStep (y : Block) (l : List Posted) (c : Nat) : (y.afterStep l).core c = y.core c := rfl

/-! ## The block that arrives -/

theorem firstPlace_mem {turn : Nat} {c : Fin 128} {l : List Fetched} {f : Fetched} (h : firstPlace turn c l = some f) : f ∈ l := by
  induction l generalizing f with
  | nil => cases h
  | cons g l ih =>
    unfold firstPlace at h
    split at h
    · cases h
      exact List.mem_cons_self
    · next k hk =>
      split at h <;> cases h
      · exact List.mem_cons_of_mem _ (ih hk)
      · exact List.mem_cons_self

/-- The block that a port's delivery brings: of those delivered the one that the die hub serves first. -/
def Block.firstDelivered (b : Block) (c : Fin 128) (port : Nat) : Option Fetched :=
  firstPlace (b.tile (c.val / 8)).turn c ((b.core c.val).fetched.filter (fun f => f.port == port && b.deliverable c f))

/-- The module once the reads of a block's words have found their errors, and the die hub has taken note of its turn. -/
def Block.hubServed (b : Block) (c : Fin 128) (errs : Errs) (t : TaskSt) (s : Source) (f : Fetched) : Block :=
  let x := b.foundIn errs (fun a => decide (a < hbmBase) && s.holder == 0 &&
    s.ranges.any (fun g => decide (b.taskAddr t g.1 / 8 ≤ a / 8) && decide (a / 8 ≤ (b.taskAddr t g.1 + g.2 - 1) / 8)))
  if b.atHome c f ∨ f.urgency ≠ 3 then x else x.setTile (c.val / 8) { x.tile (c.val / 8) with turn := 4 * c.val + f.port }

/-- What a delivery does with the block that it brings. -/
def Block.bringBlock (b : Block) (c : Fin 128) (errs : Errs) (f : Fetched) : Block :=
  match b.blockOf c f with
  | none => b.dropFetched c f.id
  | some (t, s) => if !b.atHome c f ∧ b.hubBusy c f then b else (b.hubServed c errs t s f).takeBlock c t f s

/-- What a delivery on a port does. -/
def Block.bringFirst (b : Block) (c : Fin 128) (port : Nat) (errs : Errs) : Block :=
  match b.firstDelivered c port with
  | none => b
  | some f => b.bringBlock c errs f

theorem fetchDataArrive_eq (c : Fin 128) (port : Fin 4) (errs : Errs) :
    fetchDataArrive c port errs = Block.engine c port.val .none (fun b => b.bringFirst c port.val errs) := rfl

/-- The bytes that a port reads itself of a block that arrives. -/
def Block.readRest (b : Block) (c : Fin 128) (t : TaskSt) (f : Fetched) (s : Source) : (List (Nat × Byte) × List Nat) × Block :=
  let cached := b.cacheable (coreTile c) s.d s.holder
  b.readRanges (coreTile c) t cached s.holder f.line (if cached then s.ranges else s.ranges.flatMap (fun r =>
    (pieces 512 r.1 r.2).filter (fun q => !f.snap.any (fun x => x.1 == q.1))))

/-- A block with the bytes that its port has read: alone where they come through the operand cache. -/
def Fetched.arrive (cached : Bool) (got : List (Nat × Byte) × List Nat) (f : Fetched) : Fetched :=
  { f with snap := if cached then got.1 else f.snap ++ got.1, poisoned := if cached then got.2 else f.poisoned ++ got.2, arrived := true }

/-- FET_LATE counts a block past its deadline. -/
def Block.countLate (b : Block) (c : Fin 128) (late : Bool) : Block :=
  if late then b.count (.fet c) Reg.FET_LATE 1 else b

theorem Block.takeBlock_eq (b : Block) (c : Fin 128) (t : TaskSt) (f : Fetched) (s : Source) : b.takeBlock c t f s =
    (((b.readRest c t f s).2.mapFetched c f.id (Fetched.arrive (b.cacheable (coreTile c) s.d s.holder) (b.readRest c t f s).1)).portIn c
      s.portBytes).countLate c (decide (f.deadline ≠ 0) && decide (f.deadline < b.now)) := rfl

theorem Block.Delivers.core {a b : Block} (h : a.Delivers b) (c : Nat) : b.core c = a.core c := by
  rw [h.same]
  rfl

theorem Block.Delivers.rd64 {a b : Block} (h : a.Delivers b) {p : Page} {o : Nat} (ho : o + 4 < 4096) (hp : offMemory p = true) :
    b.rd64 p o = a.rd64 p o := a.rd64_other (h.rd p o (by omega) hp) (h.rd p (o + 4) ho hp)

theorem Block.delivers_hubServed (b : Block) (c : Fin 128) (errs : Errs) (t : TaskSt) (s : Source) (f : Fetched) :
    b.Delivers (b.hubServed c errs t s f) := by
  unfold Block.hubServed
  dsimp only
  split
  · exact b.delivers_foundIn _ _
  · exact (b.delivers_foundIn _ _).trans (Block.delivers_setTile _ _ _)

/-- A block is in its queue: its bytes are counted, its lateness too, and of the module the core's fetch engine alone has changed beside. -/
structure Block.Arrives (c : Fin 128) (f : Fetched) (s : Source) (a b : Block) : Prop where
  fetched : ∃ g : Fetched → Fetched, (∀ y, (g y).id = y.id ∧ (g y).arrived = true) ∧
    (b.core c.val).fetched = (a.core c.val).fetched.map (fun y => if y.id = f.id then g y else y)
  bytesIn : b.rd64 (.fet c) Reg.FET_BYTES_IN = min (a.rd64 (.fet c) Reg.FET_BYTES_IN + s.portBytes) (2 ^ 64 - 1)
  late : b.rd64 (.fet c) Reg.FET_LATE = if f.deadline ≠ 0 ∧ f.deadline < a.now then
    min (a.rd64 (.fet c) Reg.FET_LATE + 1) (2 ^ 64 - 1) else a.rd64 (.fet c) Reg.FET_LATE
  mem : b.mem = a.mem
  posted : b.posted = a.posted

theorem Block.mapFetched_fetched (b : Block) (c : Fin 128) (id : Nat) (g : Fetched → Fetched) :
    ((b.mapFetched c id g).core c.val).fetched = (b.core c.val).fetched.map (fun y => if y.id = id then g y else y) := by
  unfold Block.mapFetched
  rw [Block.core_setCore_self]

theorem Block.dropFetched_fetched (b : Block) (c : Fin 128) (id : Nat) :
    ((b.dropFetched c id).core c.val).fetched = (b.core c.val).fetched.filter (fun y => y.id != id) := by
  unfold Block.dropFetched
  rw [Block.core_setCore_self]

theorem Block.mem_dropFetched (b : Block) (c : Fin 128) (id : Nat) : (b.dropFetched c id).mem = b.mem := rfl
theorem Block.regs_dropFetched (b : Block) (c : Fin 128) (id : Nat) : (b.dropFetched c id).regs = b.regs := rfl

/-- The two counters of a delivery lie apart. -/
theorem Block.rd64_fet_other (b : Block) (c : Fin 128) {o r : Nat} (n : Nat) (ho : o + 4 < 4096) (hr : r + 4 < 4096)
    (h : r + 4 < o ∨ o + 4 < r) : (b.count (.fet c) o n).rd64 (.fet c) r = b.rd64 (.fet c) r :=
  b.rd64_other (b.rd_count_other n ho (by omega) (.inr (by omega))) (b.rd_count_other n ho (by omega) (.inr (by omega)))

theorem Block.arrives_countLate {a x : Block} {c : Fin 128} (f : Fetched) (s : Source) {g : Fetched → Fetched}
    (hx : a.Delivers x) (hg : ∀ y, (g y).id = y.id ∧ (g y).arrived = true) :
    a.Arrives c f s (((x.mapFetched c f.id g).portIn c s.portBytes).countLate c
      (decide (f.deadline ≠ 0) && decide (f.deadline < a.now))) := by
  have hbytes : ((x.mapFetched c f.id g).portIn c s.portBytes).rd64 (.fet c) Reg.FET_BYTES_IN =
      min (a.rd64 (.fet c) Reg.FET_BYTES_IN + s.portBytes) (2 ^ 64 - 1) := by
    unfold Block.portIn
    rw [Block.rd64_count _ _ _ _ (by decide), ← hx.rd64 (by decide) rfl]
    rfl
  have hlate : ((x.mapFetched c f.id g).portIn c s.portBytes).rd64 (.fet c) Reg.FET_LATE = a.rd64 (.fet c) Reg.FET_LATE := by
    unfold Block.portIn
    rw [Block.rd64_fet_other _ _ _ (by decide) (by decide) (by decide), ← hx.rd64 (by decide) rfl]
    rfl
  have hmem : ((x.mapFetched c f.id g).portIn c s.portBytes).mem = a.mem := by
    show x.mem = a.mem
    rw [hx.same]
  have hposted : ((x.mapFetched c f.id g).portIn c s.portBytes).posted = a.posted := by
    show x.posted = a.posted
    rw [hx.same]
  have hfetched : (((x.mapFetched c f.id g).portIn c s.portBytes).core c.val).fetched =
      (a.core c.val).fetched.map (fun y => if y.id = f.id then g y else y) := by
    rw [← hx.core]
    exact x.mapFetched_fetched c f.id g
  generalize (x.mapFetched c f.id g).portIn c s.portBytes = y at *
  unfold Block.countLate
  by_cases hl : f.deadline ≠ 0 ∧ f.deadline < a.now
  · rw [if_pos (by simpa using hl)]
    refine ⟨⟨g, hg, hfetched⟩, ?_, ?_, hmem, hposted⟩
    · rw [Block.rd64_fet_other _ _ _ (by decide) (by decide) (by decide), hbytes]
    · rw [if_pos hl, Block.rd64_count _ _ _ _ (by decide), hlate]
  · rw [if_neg (by simpa using hl)]
    exact ⟨⟨g, hg, hfetched⟩, hbytes, by rw [if_neg hl, hlate], hmem, hposted⟩

/-- A block brought in whole arrives. -/
theorem Block.arrives_takeBlock {a b : Block} (h : a.Delivers b) (c : Fin 128) (t : TaskSt) (f : Fetched) (s : Source) :
    a.Arrives c f s (b.takeBlock c t f s) := by
  rw [Block.takeBlock_eq, show b.now = a.now from h.rd64 (by decide) rfl]
  exact Block.arrives_countLate f s (h.trans (b.delivers_readRanges _ _ _ _ _ _)) (fun _ => ⟨rfl, rfl⟩)

/-! ## Requests become late -/

theorem Sparse.get_map {ν : Type} {d : Nat → ν} {g : ν → ν} (hg : ∀ k, g (d k) = d k) (m : Sparse ν) (k : Nat) :
    Sparse.get d (m.map (fun p => (p.1, g p.2))) k = g (Sparse.get d m k) := by
  induction m with
  | nil => exact (hg k).symm
  | cons p r ih =>
    rw [List.map_cons, Sparse.get_cons, Sparse.get_cons, ih]
    split <;> rfl

/-- A slot request with the urgency of its block. -/
def SlotReq.raise (id u : Nat) (q : SlotReq) : SlotReq := if q.owner = .block id then { q with urgency := u } else q

/-- A stack's controller with the slot requests of a block raised. -/
def StackSt.raise (id u : Nat) (x : StackSt) : StackSt :=
  { x with queue := x.queue.map (SlotReq.raise id u), beyond := x.beyond.map (SlotReq.raise id u) }

theorem Block.stk_setUrgency (b : Block) (c : Fin 128) (id u st : Nat) : (b.setUrgency c id u).stk st = (b.stk st).raise id u :=
  Sparse.get_map (d := fun _ => StackSt.empty) (g := StackSt.raise id u) (fun _ => rfl) b.stks st

/-- A raised slot request of the block has its urgency. -/
theorem SlotReq.urgency_of_mem_raise {id u : Nat} {l : List SlotReq} {q : SlotReq} (hq : q ∈ l.map (SlotReq.raise id u))
    (ho : q.owner = .block id) : q.urgency = u := by
  obtain ⟨r, -, rfl⟩ := List.mem_map.1 hq
  unfold SlotReq.raise at ho ⊢
  by_cases hr : r.owner = .block id
  · rw [if_pos hr]
  · rw [if_neg hr] at ho
    exact absurd ho hr

/-- The first request of a core that a test finds becomes LATE. -/
def Block.raiseFirst (b : Block) (c : Fin 128) (p : Fetched → Bool) : Block :=
  match (b.core c.val).fetched.find? p with
  | some f => b.setUrgency c f.id 1
  | none => b

theorem deadlineLate_eq (c : Fin 128) (port : Fin 4) (b : Block) : deadlineLate c port b =
    b.raiseFirst c (fun f => f.port == port.val && !f.arrived && f.urgency == 2 && decide (f.deadline ≤ b.now)) := rfl

theorem bulkAgeLate_eq (c : Fin 128) (port : Fin 4) (b : Block) : bulkAgeLate c port b =
    b.raiseFirst c (fun f => f.port == port.val && !f.arrived && f.urgency == 3 && decide (f.issued + 2048 ≤ b.now)) := rfl

/-- A block has become LATE, with the slot requests of its that wait; registers and memory are as before. -/
def Block.Raised (a : Block) (c : Fin 128) (f : Fetched) (b : Block) : Prop :=
  (b.core c.val).fetched = (a.core c.val).fetched.map (fun y => if y.id = f.id then { y with urgency := 1 } else y) ∧
  (∀ st, ∀ q ∈ (b.stk st).queue, q.owner = .block f.id → q.urgency = 1) ∧ b.regs = a.regs ∧ b.mem = a.mem

section Late

variable {i : Instr} {s : State} {c : Fin 128} {p : Fetched → Bool} {g : Block → Block} (he : exec i s = s.onBlock g)
  (hg : g s.block.unposted = s.block.unposted.raiseFirst c p)
include he hg

theorem exec_raiseFirst_none (h : (s.block.core c.val).fetched.find? p = none) : exec i s = .next s := by
  refine he.trans (State.onBlock_id (hg.trans ?_))
  unfold Block.raiseFirst
  rw [show (s.block.unposted.core c.val).fetched.find? p = none from h]

theorem completes_raiseFirst (hr : s.block.running = true) {f : Fetched} (h : (s.block.core c.val).fetched.find? p = some f) :
    Completes i s (s.block.Raised c f) := by
  have hraise : s.block.unposted.raiseFirst c p = s.block.unposted.setUrgency c f.id 1 := by
    unfold Block.raiseFirst
    rw [show (s.block.unposted.core c.val).fetched.find? p = some f from h]
  refine completes_quiet he hr (hg.trans hraise) rfl ⟨s.block.unposted.mapFetched_fetched c f.id _, fun st q hq ho => ?_, rfl, rfl⟩
  have hraised : q ∈ ((s.block.unposted.setUrgency c f.id 1).stk st).queue := hq
  rw [Block.stk_setUrgency] at hraised
  exact SlotReq.urgency_of_mem_raise hraised ho

end Late

/-! ## A delivery, case by case -/

section Delivery

variable {s : State} {c : Fin 128} {port : Fin 4} {errs : Errs} {q : TaskSt} (hr : s.block.running = true)
  (hq : s.block.portTask c port.val = some q)
include hr hq

/-- A delivery completes with what it brings. -/
theorem completes_fetchDataArrive {y : Block} {P : Block → Prop}
    (hy : (s.block.seenBy q).unposted.bringFirst c port.val errs = y) (hquiet : y.posted = [])
    (hp : P (y.afterStep s.block.posted)) : Completes (.fetchDataArrive c port errs) s P :=
  completes_engineStep (f := fun b => b.bringFirst c port.val errs) (by rw [← fetchDataArrive_eq]; rfl) hr hq hy hquiet hp

theorem completes_fetchDataArrive_none (h : (s.block.seenBy q).firstDelivered c port.val = none) :
    Completes (.fetchDataArrive c port errs) s (fun b => b = { s.block with lens := [] }) := by
  refine completes_fetchDataArrive hr hq (y := (s.block.seenBy q).unposted) ?_ rfl rfl
  unfold Block.bringFirst
  rw [show (s.block.seenBy q).unposted.firstDelivered c port.val = none from h]

variable {f : Fetched} (h : (s.block.seenBy q).firstDelivered c port.val = some f)
include h

/-- A block that a delivery finds is what it brings. -/
theorem completes_bringBlock {y : Block} {P : Block → Prop} (hy : (s.block.seenBy q).unposted.bringBlock c errs f = y)
    (hquiet : y.posted = []) (hp : P (y.afterStep s.block.posted)) : Completes (.fetchDataArrive c port errs) s P := by
  refine completes_fetchDataArrive hr hq (Eq.trans ?_ hy) hquiet hp
  unfold Block.bringFirst
  rw [show (s.block.seenBy q).unposted.firstDelivered c port.val = some f from h]

/-- A block whose task has gone is dropped. -/
theorem completes_fetchDataArrive_gone (hgone : (s.block.seenBy q).blockOf c f = none) :
    Completes (.fetchDataArrive c port errs) s (fun b =>
      (b.core c.val).fetched = (s.block.core c.val).fetched.filter (fun y => y.id != f.id) ∧ b.mem = s.block.mem ∧
        b.regs = s.block.regs) := by
  refine completes_bringBlock hr hq h (y := (s.block.seenBy q).unposted.dropFetched c f.id) ?_ rfl
    ⟨?_, Block.mem_dropFetched _ c f.id, Block.regs_dropFetched _ c f.id⟩
  · unfold Block.bringBlock
    rw [show (s.block.seenBy q).unposted.blockOf c f = none from hgone]
  · rw [Block.core_afterStep, Block.dropFetched_fetched]
    rfl

variable {t : TaskSt} {src : Source} (hblk : (s.block.seenBy q).blockOf c f = some (t, src))
include hblk

/-- A block that passes the die hub waits while the hub serves another before it. -/
theorem completes_fetchDataArrive_waits (hhome : (s.block.seenBy q).atHome c f = false) (hbusy : (s.block.seenBy q).hubBusy c f = true) :
    Completes (.fetchDataArrive c port errs) s (fun b => b = { s.block with lens := [] }) := by
  refine completes_bringBlock hr hq h (y := (s.block.seenBy q).unposted) ?_ rfl rfl
  unfold Block.bringBlock
  rw [show (s.block.seenBy q).unposted.blockOf c f = some (t, src) from hblk]
  exact if_pos ⟨by rw [show (s.block.seenBy q).unposted.atHome c f = false from hhome]; rfl, hbusy⟩

/-- A block from the home slice, or one that the die hub serves, arrives. -/
theorem completes_fetchDataArrive_arrives (hway : (s.block.seenBy q).atHome c f = true ∨ (s.block.seenBy q).hubBusy c f = false) :
    Completes (.fetchDataArrive c port errs) s (fun b =>
      (∃ f' ∈ (b.core c.val).fetched, f'.id = f.id) ∧ (∀ f' ∈ (b.core c.val).fetched, f'.id = f.id → f'.arrived = true) ∧
      (∀ f' ∈ (s.block.core c.val).fetched, f'.id ≠ f.id → f' ∈ (b.core c.val).fetched) ∧
      b.rd64 (.fet c) Reg.FET_BYTES_IN = min (s.block.rd64 (.fet c) Reg.FET_BYTES_IN + src.portBytes) (2 ^ 64 - 1) ∧
      b.rd64 (.fet c) Reg.FET_LATE = (if f.deadline ≠ 0 ∧ f.deadline < s.block.now then
        min (s.block.rd64 (.fet c) Reg.FET_LATE + 1) (2 ^ 64 - 1) else s.block.rd64 (.fet c) Reg.FET_LATE) ∧
      b.mem = s.block.mem) := by
  have hin : f ∈ (s.block.core c.val).fetched := (List.mem_filter.1 (firstPlace_mem h)).1
  have hserved := (s.block.seenBy q).unposted.delivers_hubServed c errs t src f
  obtain ⟨⟨g, hg, hfetched⟩, hbytes, hlate, hmem, hposted⟩ := Block.arrives_takeBlock hserved c t f src
  refine completes_bringBlock hr hq h (y := ((s.block.seenBy q).unposted.hubServed c errs t src f).takeBlock c t f src) ?_ hposted
    ⟨⟨g f, hfetched ▸ List.mem_map.2 ⟨f, hin, if_pos rfl⟩, (hg f).1⟩, fun f' hf' hid => ?_,
      fun f' hf' hid => hfetched ▸ List.mem_map.2 ⟨f', hf', if_neg hid⟩, hbytes, hlate, hmem⟩
  · unfold Block.bringBlock
    rw [show (s.block.seenBy q).unposted.blockOf c f = some (t, src) from hblk]
    refine if_neg ?_
    show ¬ ((!(s.block.seenBy q).atHome c f) = true ∧ (s.block.seenBy q).hubBusy c f = true)
    rcases hway with hw | hw <;> simp [hw]
  · obtain ⟨y, -, rfl⟩ := List.mem_map.1 (hfetched ▸ hf')
    by_cases hy : y.id = f.id
    · rw [if_pos hy]
      exact (hg y).2
    · rw [if_neg hy] at hid
      exact absurd hid hy

end Delivery

/-! ## The statement -/

/-- Settles O26: the bytes of a delivery are read without a change to the fetch engines' own words, so that the block it brings is counted
and arrives; a request that becomes LATE takes its slot requests along. -/
theorem arrivalsAndLateness : Obligations.ArrivalsAndLateness := by
  unfold Obligations.ArrivalsAndLateness
  refine ⟨?_, ?_⟩
  · intro s c port errs q hr hq
    exact ⟨completes_fetchDataArrive_none hr hq, fun f h => completes_fetchDataArrive_gone hr hq h, fun f t src h hblk =>
      ⟨completes_fetchDataArrive_arrives hr hq h hblk, completes_fetchDataArrive_waits hr hq h hblk⟩⟩
  · intro s c port hr
    have hdead := deadlineLate_eq c port s.block.unposted
    have hold := bulkAgeLate_eq c port s.block.unposted
    exact ⟨exec_raiseFirst_none rfl hdead, fun f => completes_raiseFirst rfl hdead hr, exec_raiseFirst_none rfl hold,
      fun f => completes_raiseFirst rfl hold hr⟩

end Sys2Proof.Machine
end

section
/-! SUPPORT. What the account of an array task's cycles leaves (R45, R69, R125, R129): its tiles, its bank and its counts of rows and loads. -/

namespace Sys2Proof.Machine

open Sys2Proof

/-- The counters of an array's rows and loads. -/
def arrayCounts : List Nat := [Reg.DARR_ROWS, Reg.DARR_LOADS, Reg.DARR_REUSED]

theorem lt_of_arrayCounts {o : Nat} (h : o ∈ arrayCounts) : Reg.DARR_ROWS ≤ o ∧ o + 8 ≤ Reg.DARR_GATED := by
  revert h
  unfold arrayCounts
  simp only [List.mem_cons, List.not_mem_nil, or_false]
  rintro (rfl | rfl | rfl) <;> decide

/-- `b` is `a` after counting for a core: register words, remainders, and what the core has asked of other modules differ at most, and
neither its array nor its board. -/
structure Block.Counted (c : Fin 128) (a b : Block) : Prop where
  same : b = { a with regs := b.regs, units := b.units, cores := b.cores }
  core : b.core c.val = { a.core c.val with gateRem := (b.core c.val).gateRem, asked := (b.core c.val).asked }
  board : (b.unit (.core c)).board = (a.unit (.core c)).board
  rd : ∀ o ∈ arrayCounts, b.rd64 (.darr c) o = a.rd64 (.darr c) o

theorem Block.Counted.refl (c : Fin 128) (a : Block) : a.Counted c a := ⟨rfl, rfl, rfl, fun _ _ => rfl⟩

theorem Block.Counted.trans {c : Fin 128} {a b d : Block} (h : a.Counted c b) (k : b.Counted c d) : a.Counted c d :=
  ⟨by rw [k.same, h.same], by rw [k.core, h.core], k.board.trans h.board, fun o ho => (k.rd o ho).trans (h.rd o ho)⟩

section

variable {c : Fin 128} {a b : Block} (h : a.Counted c b)
include h

theorem Block.Counted.mem : b.mem = a.mem := by rw [h.same]
theorem Block.Counted.posted : b.posted = a.posted := by rw [h.same]
theorem Block.Counted.active : (b.core c.val).active = (a.core c.val).active := by rw [h.core]
theorem Block.Counted.standby : (b.core c.val).standby = (a.core c.val).standby := by rw [h.core]
theorem Block.Counted.bank : (b.core c.val).bank = (a.core c.val).bank := by rw [h.core]
theorem Block.Counted.opnd : (b.core c.val).opnd = (a.core c.val).opnd := by rw [h.core]

theorem Block.Counted.bySerial (n : Nat) : b.bySerial (.core c) n = a.bySerial (.core c) n := by
  unfold Block.bySerial
  rw [h.board]

/-- A change of a task of the board commutes with counting. -/
theorem Block.Counted.mapTask (n : Nat) (g : TaskSt → TaskSt) : (a.mapTask (.core c) n g).Counted c (b.mapTask (.core c) n g) := by
  refine ⟨?_, h.core, ?_, h.rd⟩
  · unfold Block.mapTask Block.setUnit
    dsimp only
    rw [h.same]
  · rw [Block.unit_mapTask_self, Block.unit_mapTask_self]
    dsimp only
    rw [h.board]

end

/-- A word beside the counts of rows and loads. -/
theorem Block.counted_wr (c : Fin 128) (b : Block) {p : Page} {o : Nat} (v : Word) (ho : o < 4096)
    (h : p ≠ .darr c ∨ o < Reg.DARR_ROWS ∨ Reg.DARR_GATED ≤ o) : b.Counted c (b.wr p o v) := by
  refine ⟨rfl, rfl, rfl, fun r hr => ?_⟩
  obtain ⟨hl, hu⟩ := lt_of_arrayCounts hr
  have hapart : Reg.DARR_GATED < 4096 := by decide
  exact b.rd64_other (b.rd_wr_other v ho (by omega) (h.imp Ne.symm (by omega))) (b.rd_wr_other v ho (by omega) (h.imp Ne.symm (by omega)))

theorem Block.counted_wr64 (c : Fin 128) (b : Block) {p : Page} {o : Nat} (v : Nat) (ho : o + 4 < 4096)
    (h : p ≠ .darr c ∨ o + 4 < Reg.DARR_ROWS ∨ Reg.DARR_GATED ≤ o) : b.Counted c (b.wr64 p o v) :=
  (b.counted_wr c _ (by omega) (h.imp id (by omega))).trans (Block.counted_wr c _ _ ho (h.imp id (by omega)))

theorem Block.counted_count (c : Fin 128) (b : Block) {p : Page} {o : Nat} (n : Nat) (ho : o + 4 < 4096)
    (h : p ≠ .darr c ∨ o + 4 < Reg.DARR_ROWS ∨ Reg.DARR_GATED ≤ o) : b.Counted c (b.count p o n) := b.counted_wr64 c _ ho h

theorem Block.counted_setCharged (c : Fin 128) (b : Block) (u : UnitId) {k : Nat} (n : Nat) (hk : causeOff k + 4 < 4096) :
    b.Counted c (b.setCharged u k n) := by
  have hw : ∀ v, b.Counted c (b.wr64 (.sch u) (causeOff k) v) := fun v => b.counted_wr64 c v hk (.inl (by simp))
  unfold Block.setCharged
  dsimp only
  split
  · exact hw _
  · refine (hw _).trans ⟨rfl, rfl, ?_, fun _ _ => rfl⟩
    rw [Block.unit_setUnit]
    split
    · next he => rw [UnitId.key_injective _ _ he]
    · rfl

theorem Block.counted_charge (c : Fin 128) (b : Block) {k : Nat} (n : Nat) (hk : causeOff k + 4 < 4096) : b.Counted c (b.charge c k n) := by
  unfold Block.charge
  split
  · exact .refl c b
  · exact List.foldlRecOn _ _ (.refl c b) fun x hx u _ => hx.trans (x.counted_setCharged c u _ hk)

theorem Block.counted_addGated (c : Fin 128) (b : Block) (n : Nat) : b.Counted c (b.addGated c n) := by
  unfold Block.addGated
  dsimp only
  have hcount : ∀ y : Block, y.Counted c (y.count (.darr c) Reg.DARR_GATED (((b.core c.val).gateRem + n) / 16384)) :=
    fun y => y.counted_count c _ (by decide) (.inr (by decide))
  refine Block.Counted.trans ?_ (hcount _)
  refine ⟨rfl, ?_, rfl, fun _ _ => rfl⟩
  rw [Block.core_setCore_self]

theorem Block.counted_showTiles (c : Fin 128) (b : Block) (frozen : Bool) : b.Counted c (b.showTiles c frozen) :=
  b.counted_wr c _ (by decide) (.inr (by decide))

theorem Block.counted_forgetAsked (c : Fin 128) (b : Block) (n : Nat) : b.Counted c (b.forgetAsked (.core c) n) := by
  unfold Block.forgetAsked
  dsimp only
  split
  · exact .refl c b
  · refine ⟨rfl, ?_, rfl, fun _ _ => rfl⟩
    rw [Block.core_setCore_self]

/-- A task that has taken cycles, some of them busy. -/
def TaskSt.spent (cycles busy : Nat) (t : TaskSt) : TaskSt := { t with cycles := t.cycles + cycles, busy := t.busy + busy }

theorem Block.counted_spend (c : Fin 128) (b : Block) (n busy dry full : Nat) :
    (b.mapTask (.core c) n (TaskSt.spent (busy + dry + full) busy)).Counted c (b.spend c n busy dry full) := by
  have htask : (fun t : TaskSt => { t with cycles := t.cycles + busy + dry + full, busy := t.busy + busy }) =
      TaskSt.spent (busy + dry + full) busy := by
    funext t
    unfold TaskSt.spent
    congr 1
    omega
  unfold Block.spend
  dsimp only
  rw [htask]
  exact ((((Block.counted_charge c _ busy (by decide)).trans (Block.counted_charge c _ dry (by decide))).trans
    (Block.counted_charge c _ full (by decide))).trans (Block.counted_addGated c _ _)).trans (Block.counted_showTiles c _ _)

theorem Block.counted_spendIn (c : Fin 128) (b : Block) (t : TaskSt) (busy dry full : Nat) :
    ∃ k, (b.mapTask (.core c) t.serial (TaskSt.spent (busy + dry + full) k)).Counted c (b.spendIn c t busy dry full) := by
  unfold Block.spendIn
  split
  · exact ⟨busy, b.counted_spend c _ _ _ _⟩
  · exact ⟨0, .refl c _⟩

theorem Block.counted_passEntry (c : Fin 128) (b : Block) (n : Nat) :
    (b.mapTask (.core c) n TaskSt.pastEntry).Counted c (b.passEntry (.core c) n 0) :=
  (b.counted_forgetAsked c n).mapTask n TaskSt.pastEntry

/-- The board after a task of it has taken cycles and passed its entry. -/
theorem Block.counted_passIn (c : Fin 128) (b : Block) (t : TaskSt) (busy dry full : Nat) :
    ∃ k, ((b.mapTask (.core c) t.serial (TaskSt.spent (busy + dry + full) k)).mapTask (.core c) t.serial TaskSt.pastEntry).Counted c
      ((b.spendIn c t busy dry full).passEntry (.core c) t.serial 0) := by
  obtain ⟨k, hk⟩ := b.counted_spendIn c t busy dry full
  exact ⟨k, (hk.mapTask _ _).trans (Block.counted_passEntry c _ _)⟩

end Sys2Proof.Machine
end

section
/-! SUPPORT. The two ways in which an array task leaves an entry: past it, or stopped. -/

namespace Sys2Proof.Machine

open Sys2Proof

/-- A task on a port of the array runs. -/
theorem Block.running_of_arrayPort {b : Block} {c : Fin 128} {port : Nat} {t : TaskSt} (hport : port = 0 ∨ port = 3)
    (h : b.portTask c port = some t) : t.phase = .running := by
  have hmem : t ∈ b.arrayTasks c := by
    unfold Block.portTask at h
    split at h
    · cases h
    · rcases hport with rfl | rfl
      · have hs : b.streamTask c = some t := h
        unfold Block.streamTask at hs
        dsimp only at hs
        split at hs
        · next hf => exact Option.some.inj hs ▸ List.mem_of_find?_eq_some hf
        · exact List.mem_of_getLast? hs
      · have hs : b.drainTask c = some t := h
        unfold Block.drainTask at hs
        dsimp only at hs
        split at hs
        · next hf => exact Option.some.inj hs ▸ List.mem_of_find?_eq_some hf
        · exact List.mem_of_head? hs
  have hfilter := (List.mem_filter.1 hmem).2
  simp only [Bool.and_eq_true, decide_eq_true_eq] at hfilter
  exact hfilter.1.1

theorem Block.posted_coreFault {b : Block} {c : Fin 128} {t u : TaskSt} (code : Nat) (ht : b.bySerial (.core c) t.serial = some u)
    (hp : u.phase = .running) : (b.coreFault c t code).posted = b.posted := by
  obtain ⟨y, hy, hrest, -⟩ := Block.faultTask_spec code ht hp
  unfold Block.coreFault
  rw [hy]
  exact hrest.quiet.posted

/-- A running array task that has spent its cycles is stopped by a fault, and memory stays as it is (R54). -/
theorem Block.spendIn_stops {b : Block} {c : Fin 128} {t : TaskSt} (busy dry full code : Nat)
    (ht : b.bySerial (.core c) t.serial = some t) (hp : t.phase = .running) :
    ((b.spendIn c t busy dry full).coreFault c t code).posted = b.posted ∧
      ((b.spendIn c t busy dry full).coreFault c t code).mem = b.mem ∧
      ∃ t' : TaskSt, ((b.spendIn c t busy dry full).coreFault c t code).bySerial (.core c) t.serial = some t' ∧ t'.phase = .finished ∧
        t'.faultCode = some code := by
  obtain ⟨k, hk⟩ := b.counted_spendIn c t busy dry full
  have hspent : (b.spendIn c t busy dry full).bySerial (.core c) t.serial = some (t.spent (busy + dry + full) k) := by
    rw [hk.bySerial]
    exact Block.bySerial_mapTask_some (TaskSt.spent (busy + dry + full) k) (fun _ => rfl) ht
  obtain ⟨hmem, hstop⟩ := Block.coreFault_stops (t := t.spent (busy + dry + full) k) code hspent hp
  exact ⟨(Block.posted_coreFault code hspent hp).trans hk.posted, hmem.trans hk.mem, hstop⟩

/-- A running array task that has spent its cycles passes its entry: what the account leaves, and the task past the entry. -/
structure Block.Passes (c : Fin 128) (t : TaskSt) (cycles : Nat) (a b : Block) : Prop where
  mem : b.mem = a.mem
  posted : b.posted = a.posted
  core : ∃ rem asked, b.core c.val = { a.core c.val with gateRem := rem, asked := asked }
  rd : ∀ o ∈ arrayCounts, b.rd64 (.darr c) o = a.rd64 (.darr c) o
  task : a.bySerial (.core c) t.serial = some t → ∃ t' : TaskSt, b.bySerial (.core c) t.serial = some t' ∧ t'.pos = t.after t.pos ∧
    t'.cycles = t.cycles + cycles ∧ t'.phase = t.phase
  board : t ∈ (a.unit (.core c)).board → ∃ t' ∈ (b.unit (.core c)).board, t'.serial = t.serial ∧ t'.pos = t.after t.pos

theorem Block.passes_spendIn (c : Fin 128) (b : Block) (t : TaskSt) (busy dry full : Nat) :
    b.Passes c t (busy + dry + full) ((b.spendIn c t busy dry full).passEntry (.core c) t.serial 0) := by
  obtain ⟨k, hk⟩ := b.counted_passIn c t busy dry full
  refine ⟨hk.mem, hk.posted, ⟨_, _, hk.core⟩, hk.rd, fun ht => ?_, fun ht => ?_⟩
  · refine ⟨(t.spent (busy + dry + full) k).pastEntry, ?_, rfl, rfl, rfl⟩
    rw [hk.bySerial]
    exact Block.bySerial_mapTask_some TaskSt.pastEntry (fun _ => rfl)
      (Block.bySerial_mapTask_some (TaskSt.spent (busy + dry + full) k) (fun _ => rfl) ht)
  · refine ⟨(t.spent (busy + dry + full) k).pastEntry, ?_, rfl, rfl⟩
    rw [hk.board, Block.unit_mapTask_self, Block.unit_mapTask_self]
    exact List.mem_map.2 ⟨t.spent (busy + dry + full) k, List.mem_map.2 ⟨t, ht, if_pos rfl⟩, if_pos rfl⟩

end Sys2Proof.Machine
end

section
/-! PROOF. LOAD (R117, R123). -/

namespace Sys2Proof.Machine

open Sys2Proof

@[simp] theorem Block.loadTile_unposted (b : Block) (c : Fin 128) (t : TaskSt) : b.unposted.loadTile c t = silent (b.loadTile c t) := by
  unfold Block.loadTile
  simp only [Block.desc_unposted, Block.entryAt_unposted, Block.demand_unposted, silent_fst, silent_snd, Block.take_unposted,
    Block.portRanges_unposted]
  split
  · split
    · split <;> rfl
    · rfl
  · rfl

/-- A tile has the name that its LOAD gives it. -/
theorem makeTile_key {gear : Nat} {d m : Desc} {e me : Entry32} {key : Nat × Nat × List Nat} {rd mrd : Reader} {w : WTile}
    (h : makeTile gear d e me key rd mrd m = some w) : (w.desc, w.gen, w.block) = key := by
  unfold makeTile at h
  dsimp only at h
  split at h
  · cases h
    rfl
  · split at h
    · cases h
    · split at h <;> cases h <;> rfl

theorem Block.loadTile_key {b y : Block} {c : Fin 128} {t : TaskSt} {w : WTile} (h : b.loadTile c t = ((.ok, some w), y)) :
    (w.desc, w.gen, w.block) = tileKey t.cur (b.desc t.cur.descB.toNat) (b.entryAt t t.pos) := by
  unfold Block.loadTile at h
  dsimp only at h
  split at h
  · split at h
    · split at h
      · cases h
      · exact makeTile_key (congrArg (fun p => p.1.2) h)
    · nomatch congrArg (fun p => p.1.2) h
  · nomatch congrArg (fun p => p.1.2) h

/-- Does a LOAD name the tile that its task has retained (R123)? -/
def Block.loadsRetained (b : Block) (c : Fin 128) (t : TaskSt) : Prop :=
  let key := tileKey t.cur (b.desc t.cur.descB.toNat) (b.entryAt t t.pos)
  (b.core c.val).firstLoad = true ∧ t.cur.reuse = true ∧ t.task.kind = 1 ∧ (match (b.core c.val).active with
    | some a => a.desc == key.1 && a.gen == key.2.1 && a.block == key.2.2
    | none => false) = true

/-- A LOAD of the retained tile is skipped: its block is dropped, and it is counted. -/
def Block.skipLoad (b : Block) (c : Fin 128) (t : TaskSt) : Block :=
  (b.setCore c.val { b.core c.val with
    firstLoad := false
    fetched := (b.core c.val).fetched.filter (fun f => !(f.serial == t.serial && f.entry == posKey t.pos)) }).count (.darr c)
      Reg.DARR_REUSED 1

theorem Block.core_count (b : Block) (p : Page) (o n k : Nat) : (b.count p o n).core k = b.core k := rfl

theorem Block.core_skipLoad (b : Block) (c : Fin 128) (t : TaskSt) : (b.skipLoad c t).core c.val = { b.core c.val with
    firstLoad := false
    fetched := (b.core c.val).fetched.filter (fun f => !(f.serial == t.serial && f.entry == posKey t.pos)) } := by
  unfold Block.skipLoad
  rw [Block.core_count, Block.core_setCore_self]

theorem Block.rd64_skipLoad (b : Block) (c : Fin 128) (t : TaskSt) :
    (b.skipLoad c t).rd64 (.darr c) Reg.DARR_REUSED = min (b.rd64 (.darr c) Reg.DARR_REUSED + 1) (2 ^ 64 - 1) :=
  Block.rd64_count _ _ _ _ (by decide)

theorem Block.mem_skipLoad (b : Block) (c : Fin 128) (t : TaskSt) : (b.skipLoad c t).mem = b.mem := rfl

theorem Block.core_fillStandby (b : Block) (c : Fin 128) (w : WTile) :
    (b.fillStandby c w).core c.val = { b.core c.val with standby := some w, firstLoad := false } := by
  unfold Block.fillStandby
  rw [Block.core_count, Block.core_setCore_self]

theorem Block.rd64_fillStandby (b : Block) (c : Fin 128) (w : WTile) :
    (b.fillStandby c w).rd64 (.darr c) Reg.DARR_LOADS = min (b.rd64 (.darr c) Reg.DARR_LOADS + 1) (2 ^ 64 - 1) :=
  Block.rd64_count _ _ _ _ (by decide)

theorem Block.mem_fillStandby (b : Block) (c : Fin 128) (w : WTile) : (b.fillStandby c w).mem = b.mem := rfl

/-- A step whose task passes its entry completes with what the account leaves. -/
theorem completes_passes {i : Instr} {s : State} {c : Fin 128} {port busy dry full : Nat} {q t : TaskSt} {f : Block → Block} {x : Block}
    {P : Block → Prop} (he : exec i s = s.onBlock (Block.engine c port .none f)) (hr : s.block.running = true)
    (hq : s.block.portTask c port = some q) (hx : x.posted = [])
    (hf : f (s.block.seenBy q).unposted = (x.spendIn c t busy dry full).passEntry (.core c) t.serial 0)
    (hp : ∀ y : Block, x.Passes c t (busy + dry + full) y → P (y.afterStep s.block.posted)) : Completes i s P := by
  have hy := x.passes_spendIn c t busy dry full
  exact completes_engineStep he hr hq hf (hy.posted.trans hx) (hp _ hy)

/-- A step whose task is stopped leaves memory, and the task with its code. -/
theorem completes_stops {i : Instr} {s : State} {c : Fin 128} {port busy dry full code : Nat} {q t : TaskSt} {f : Block → Block} {x : Block}
    (he : exec i s = s.onBlock (Block.engine c port .none f)) (hr : s.block.running = true) (hq : s.block.portTask c port = some q)
    (hx : x.posted = []) (hrun : t.phase = .running) (ht : x.bySerial (.core c) t.serial = some t)
    (hf : f (s.block.seenBy q).unposted = (x.spendIn c t busy dry full).coreFault c t code) :
    Completes i s (fun b => b.mem = x.mem ∧ ∃ t' : TaskSt, b.bySerial (.core c) t.serial = some t' ∧ t'.phase = .finished ∧
      t'.faultCode = some code) := by
  obtain ⟨hposted, hmem, hstop⟩ := Block.spendIn_stops busy dry full code ht hrun
  generalize (x.spendIn c t busy dry full).coreFault c t code = y at hf hposted hmem hstop
  exact completes_engineStep he hr hq hf (hposted.trans hx) ⟨hmem, hstop⟩

section Load

variable {s : State} {c : Fin 128} {cycles : Nat} {q t : TaskSt} (hr : s.block.running = true) (hq : s.block.portTask c 0 = some q)
  (ht : (s.block.seenBy q).portTask c 0 = some t) (hlist : t.listDone = false)
  (hsrc : ((s.block.seenBy q).entryAt t t.pos).src = 1)
include hr hq ht hlist hsrc

/-- A LOAD beyond the gear's limits stops the task. -/
theorem completes_denseLoad_shape (hb : s.block.bySerial (.core c) t.serial = some t)
    (hok : loadOk t.cur.gear ((s.block.seenBy q).entryAt t t.pos) = false) :
    Completes (.denseLoad c cycles .none) s (fun b =>
      ∃ t' : TaskSt, b.bySerial (.core c) t.serial = some t' ∧ t'.phase = .finished ∧ t'.faultCode = some Ev.DENSE_SHAPE) := by
  refine (completes_stops (x := (s.block.seenBy q).unposted) (t := t) (busy := 0) (dry := cycles) (full := 0) (code := Ev.DENSE_SHAPE) rfl
    hr hq rfl (Block.running_of_arrayPort (.inl rfl) ht) hb ?_).imp fun b ⟨_, hstop⟩ => hstop
  simp only [Block.portTask_unposted, ht, hlist, Bool.false_eq_true, if_false, Block.entryAt_unposted, hsrc, ne_eq, not_true_eq_false, hok,
    Bool.not_false, if_true]

variable (hok : loadOk t.cur.gear ((s.block.seenBy q).entryAt t t.pos) = true)
include hok

/-- The first LOAD under REUSE is skipped where it names the retained tile. -/
theorem completes_denseLoad_reuses (hb : s.block.bySerial (.core c) t.serial = some t) (hreuse : (s.block.seenBy q).loadsRetained c t) :
    Completes (.denseLoad c cycles .none) s (fun b =>
      (∃ t' : TaskSt, b.bySerial (.core c) t.serial = some t' ∧ t'.pos = t.after t.pos ∧ t'.cycles = t.cycles + cycles ∧
        t'.phase = t.phase) ∧ b.mem = s.block.mem ∧
      (b.core c.val).active = (s.block.core c.val).active ∧ (b.core c.val).standby = (s.block.core c.val).standby ∧
      b.rd64 (.darr c) Reg.DARR_REUSED = min (s.block.rd64 (.darr c) Reg.DARR_REUSED + 1) (2 ^ 64 - 1)) := by
  refine completes_passes (x := (s.block.seenBy q).unposted.skipLoad c t) (t := t) (busy := 0) (dry := cycles) (full := 0) rfl hr hq rfl ?_
    fun b ⟨hmem, _, ⟨rem, asked, hcore⟩, hrd, htask, _⟩ => ?_
  · simp only [Block.portTask_unposted, ht, hlist, Bool.false_eq_true, if_false, Block.entryAt_unposted, hsrc, ne_eq, not_true_eq_false, hok,
      Bool.not_true]
    exact if_pos hreuse
  · have htask := htask hb
    rw [Nat.zero_add, Nat.add_zero] at htask
    have hcount := hrd Reg.DARR_REUSED (by decide)
    rw [Block.core_skipLoad] at hcore
    rw [Block.mem_skipLoad] at hmem
    rw [Block.rd64_skipLoad] at hcount
    simp only [Block.mem_afterStep, Block.rd64_afterStep, Block.core_afterStep, Block.bySerial_afterStep]
    exact ⟨htask, hmem, by rw [hcore]; rfl, by rw [hcore]; rfl, hcount⟩

/-- Any other LOAD fills STANDBY with the tile that its block makes. -/
theorem completes_denseLoad_fills (hreuse : ¬ (s.block.seenBy q).loadsRetained c t) {y : Block} {w : WTile}
    (hload : (s.block.seenBy q).loadTile c t = ((.ok, some w), y)) (hy : y.bySerial (.core c) t.serial = some t) :
    Completes (.denseLoad c cycles .none) s (fun b =>
      (∃ t' : TaskSt, b.bySerial (.core c) t.serial = some t' ∧ t'.pos = t.after t.pos ∧ t'.cycles = t.cycles + cycles ∧
        t'.phase = t.phase) ∧ b.mem = y.mem ∧
      (w.desc, w.gen, w.block) = tileKey t.cur ((s.block.seenBy q).desc t.cur.descB.toNat) ((s.block.seenBy q).entryAt t t.pos) ∧
      (b.core c.val).standby = some w ∧ (b.core c.val).active = (y.core c.val).active ∧ (b.core c.val).bank = (y.core c.val).bank ∧
      b.rd64 (.darr c) Reg.DARR_LOADS = min (y.rd64 (.darr c) Reg.DARR_LOADS + 1) (2 ^ 64 - 1)) := by
  refine completes_passes (x := y.unposted.fillStandby c w) (t := t) (busy := 0) (dry := cycles) (full := 0) rfl hr hq rfl ?_
    fun b ⟨hmem, _, ⟨rem, asked, hcore⟩, hrd, htask, _⟩ => ?_
  · simp only [Block.portTask_unposted, ht, hlist, Bool.false_eq_true, if_false, Block.entryAt_unposted, hsrc, ne_eq, not_true_eq_false, hok,
      Bool.not_true, Block.loadTile_unposted, hload, silent_mk]
    exact if_neg hreuse
  · have htask := htask hy
    rw [Nat.zero_add, Nat.add_zero] at htask
    have hcount := hrd Reg.DARR_LOADS (by decide)
    rw [Block.core_fillStandby] at hcore
    rw [Block.mem_fillStandby] at hmem
    rw [Block.rd64_fillStandby] at hcount
    simp only [Block.mem_afterStep, Block.rd64_afterStep, Block.core_afterStep, Block.bySerial_afterStep]
    exact ⟨htask, hmem, Block.loadTile_key hload, by rw [hcore], by rw [hcore]; rfl, by rw [hcore]; rfl, hcount⟩

end Load

end Sys2Proof.Machine
end

section
/-! SUPPORT. What sums that land leave of a core's bank (R114, R118, R143). -/

namespace Sys2Proof.Machine

open Sys2Proof

/-- `b` is `a` after sums have landed in rows `lo` to `hi - 1` of a core's bank: every other row, and all of the core but its bank,
generators and count of gated cells, is as before. -/
structure Block.Lands (c : Fin 128) (lo hi : Nat) (a b : Block) : Prop where
  same : b = { a with regs := b.regs, cores := b.cores }
  core : b.core c.val = { a.core c.val with
    bank := (b.core c.val).bank, gens := (b.core c.val).gens, gateRem := (b.core c.val).gateRem }
  rest : ∀ row j, j < 128 → row < lo ∨ hi ≤ row → (b.core c.val).bankWord row j = (a.core c.val).bankWord row j
  rd : ∀ o ∈ arrayCounts, b.rd64 (.darr c) o = a.rd64 (.darr c) o

theorem Block.Lands.refl (c : Fin 128) (lo hi : Nat) (a : Block) : a.Lands c lo hi a := ⟨rfl, rfl, fun _ _ _ _ => rfl, fun _ _ => rfl⟩

theorem Block.Lands.trans {c : Fin 128} {lo hi : Nat} {a b d : Block} (h : a.Lands c lo hi b) (k : b.Lands c lo hi d) : a.Lands c lo hi d :=
  ⟨by rw [k.same, h.same], by rw [k.core, h.core], fun row j hj hr => (k.rest row j hj hr).trans (h.rest row j hj hr),
    fun o ho => (k.rd o ho).trans (h.rd o ho)⟩

/-- Sums that land in some rows leave those beside more rows too. -/
theorem Block.Lands.widen {c : Fin 128} {lo hi lo' hi' : Nat} {a b : Block} (h : a.Lands c lo hi b) (hlo : lo' ≤ lo) (hhi : hi ≤ hi') :
    a.Lands c lo' hi' b :=
  ⟨h.same, h.core, fun row j hj hr => h.rest row j hj (by omega), h.rd⟩

/-- Counting lands nothing. -/
theorem Block.lands_of_regs {c : Fin 128} {a b : Block} (h : b = { a with regs := b.regs })
    (hrd : ∀ o ∈ arrayCounts, b.rd64 (.darr c) o = a.rd64 (.darr c) o) : a.Lands c 0 0 b := by
  have hcore : b.core c.val = a.core c.val := by
    rw [h]
    rfl
  exact ⟨by rw [h], by rw [hcore], fun _ _ _ _ => by rw [hcore], hrd⟩

theorem Block.drnCount_regs (b : Block) (c : Fin 128) (o n q : Nat) : b.drnCount c o n q = { b with regs := (b.drnCount c o n q).regs } := by
  unfold Block.drnCount
  split <;> rfl

theorem Block.counted_drnCount (c : Fin 128) (b : Block) {o : Nat} (n q : Nat) (ho : o + 4 < 4096) : b.Counted c (b.drnCount c o n q) := by
  unfold Block.drnCount
  split
  · exact .refl c b
  · exact (b.counted_count c n ho (.inl (by simp))).trans (Block.counted_wr c _ _ (by decide) (.inl (by simp)))

theorem Block.lands_drnCount (c : Fin 128) (b : Block) {o : Nat} (n q : Nat) (ho : o + 4 < 4096) : b.Lands c 0 0 (b.drnCount c o n q) :=
  Block.lands_of_regs (b.drnCount_regs c o n q) (b.counted_drnCount c n q ho).rd

theorem Block.lands_addGated (c : Fin 128) (b : Block) (n : Nat) : b.Lands c 0 0 (b.addGated c n) := by
  have hcount := b.counted_addGated c n
  have hcore : (b.addGated c n).core c.val = { b.core c.val with gateRem := ((b.core c.val).gateRem + n) % 16384 } := by
    unfold Block.addGated
    rw [Block.core_count, Block.core_setCore_self]
  refine ⟨rfl, ?_, fun row j _ _ => ?_, hcount.rd⟩
  · rw [hcore]
  · rw [hcore]
    rfl

/-! ## One bank row -/

/-- The words that 128 sums leave of a bank row, and whether each overflowed. -/
def Block.landed (b : Block) (c : Fin 128) (mode : Nat) (init sr : Bool) (row port : Nat) (vals : List Num) : List (Word × Bool) :=
  let x := b.core c.val
  let draw := sr && !init && mode == 1
  let gens := if draw then drawGens x.gens (8 * port) else x.gens
  (List.range 128).map (fun j => bankUpdate mode init (if draw then .stochastic (lfsrByte (gens.drop (8 * port)) j) else .nearest)
    (x.bankWord row j) (vals.getD j Num.zero))

theorem Block.length_landed (b : Block) (c : Fin 128) (mode : Nat) (init sr : Bool) (row port : Nat) (vals : List Num) :
    (b.landed c mode init sr row port vals).length = 128 := by simp [Block.landed]

/-- A core with sums landed in a bank row. -/
def Block.landCore (b : Block) (c : Fin 128) (mode : Nat) (init sr : Bool) (row port : Nat) (vals : List Num) : CoreSt :=
  { b.core c.val with
    bank := Sparse.putList (fun _ => 0) (b.core c.val).bank (128 * row) ((b.landed c mode init sr row port vals).map (fun u => u.1))
    gens := if sr && !init && mode == 1 then drawGens (b.core c.val).gens (8 * port) else (b.core c.val).gens }

theorem Block.land_eq (b : Block) (c : Fin 128) (mode : Nat) (init sr : Bool) (row port : Nat) (vals : List Num) :
    b.land c mode init sr row port vals = (b.setCore c.val (b.landCore c mode init sr row port vals)).drnOvf c (if mode = 9 then 9 else 1)
      ((b.landed c mode init sr row port vals).filter (fun u => u.2)).length := rfl

theorem drnOvf_lt (mode : Nat) : Reg.DRN_OVF (if mode = 9 then 9 else 1) + 4 < 4096 := by split <;> decide

theorem Block.core_drnCount (b : Block) (c : Fin 128) (o n q k : Nat) : (b.drnCount c o n q).core k = b.core k := by
  rw [Block.drnCount_regs]
  rfl

theorem Block.core_land (b : Block) (c : Fin 128) (mode : Nat) (init sr : Bool) (row port : Nat) (vals : List Num) :
    (b.land c mode init sr row port vals).core c.val = b.landCore c mode init sr row port vals := by
  rw [Block.land_eq]
  unfold Block.drnOvf
  rw [Block.core_drnCount, Block.core_setCore_self]

/-- A word of the bank after sums have landed in a row. -/
theorem Block.bankWord_land (b : Block) (c : Fin 128) (mode : Nat) (init sr : Bool) (row port : Nat) (vals : List Num) (r : Nat) {j : Nat}
    (hj : j < 128) : ((b.land c mode init sr row port vals).core c.val).bankWord r j =
      if r = row then ((b.landed c mode init sr row port vals).map (fun u => u.1)).getD j 0 else (b.core c.val).bankWord r j := by
  rw [Block.core_land]
  unfold CoreSt.bankWord Block.landCore
  dsimp only
  have hlen : ((b.landed c mode init sr row port vals).map (fun u => u.1)).length = 128 := by rw [List.length_map, Block.length_landed]
  rw [Sparse.get_putList]
  by_cases hrow : r = row
  · subst hrow
    rw [if_pos (by omega), if_pos rfl, Nat.add_sub_cancel_left, List.getD_eq_getElem _ _ (by omega), List.getD_eq_getElem _ _ (by omega)]
  · rw [if_neg hrow]
    split
    · exact List.getD_eq_default _ _ (by omega)
    · rfl

theorem Block.lands_land (c : Fin 128) (b : Block) (mode : Nat) (init sr : Bool) (row port : Nat) (vals : List Num) :
    b.Lands c row (row + 1) (b.land c mode init sr row port vals) := by
  refine ⟨?_, ?_, fun r j hj hr => ?_, ?_⟩
  · rw [Block.land_eq]
    unfold Block.drnOvf
    rw [Block.drnCount_regs]
    rfl
  · rw [Block.core_land]
    rfl
  · rw [Block.bankWord_land _ _ _ _ _ _ _ _ _ hj, if_neg (by omega)]
  · exact (Block.counted_drnCount c (b.setCore c.val (b.landCore c mode init sr row port vals)) _ 1 (drnOvf_lt mode)).rd

/-- Rounded to nearest, each sum updates its word. -/
theorem Block.bankWord_land_nearest (b : Block) (c : Fin 128) (mode : Nat) (init : Bool) (row port : Nat) (vals : List Num) {j : Nat}
    (hj : j < 128) : ((b.land c mode init false row port vals).core c.val).bankWord row j =
      (bankUpdate mode init .nearest ((b.core c.val).bankWord row j) (vals.getD j Num.zero)).1 := by
  rw [Block.bankWord_land _ _ _ _ _ _ _ _ _ hj, if_pos rfl, List.getD_eq_getElem _ _ (by simp [Block.length_landed, hj])]
  simp [Block.landed]

/-! ## One streamed row -/

/-- The chains of the outputs of a streamed row. -/
def WTile.sums (w : WTile) (mode gear : Nat) (axis : Bool) (x : List Num) : List ChainSt :=
  (List.range (128 * gearRows gear axis)).map (fun o => chain mode (w.cells (gearPer gear) axis x o))

/-- The chains of a streamed row land in `n` bank rows from `first` on, each by its update port. -/
def Block.landRows (b : Block) (c : Fin 128) (mode : Nat) (init sr : Bool) (first n : Nat) (sums : List ChainSt) : Block :=
  (List.range n).foldl (fun y j => y.land c mode init sr (first + j) j (((sums.drop (128 * j)).take 128).map (fun s => s.val))) b

theorem Block.landRows_succ (b : Block) (c : Fin 128) (mode : Nat) (init sr : Bool) (first n : Nat) (sums : List ChainSt) :
    b.landRows c mode init sr first (n + 1) sums =
      (b.landRows c mode init sr first n sums).land c mode init sr (first + n) n (((sums.drop (128 * n)).take 128).map (fun s => s.val)) := by
  unfold Block.landRows
  rw [List.range_succ, List.foldl_append]
  rfl

theorem Block.lands_landRows (c : Fin 128) (b : Block) (mode : Nat) (init sr : Bool) (first n : Nat) (sums : List ChainSt) :
    b.Lands c first (first + n) (b.landRows c mode init sr first n sums) := by
  unfold Block.landRows
  refine List.foldlRecOn _ _ (.refl c _ _ b) fun y hy j hj => hy.trans ((y.lands_land c _ _ _ _ _ _).widen (by omega) ?_)
  have := List.mem_range.1 hj
  omega

theorem bankUpdate_congr {mode : Nat} {init : Bool} {rd : Rounding} {x y : Word} {v w : Num} (h : x = y) (k : v = w) :
    (bankUpdate mode init rd x v).1 = (bankUpdate mode init rd y w).1 := by rw [h, k]

/-- Rounded to nearest, each of the rows holds its chains' sums. -/
theorem Block.bankWord_landRows (b : Block) (c : Fin 128) (mode : Nat) (init : Bool) (first n : Nat) (sums : List ChainSt) {o : Nat}
    (ho : o < 128 * n) (hlen : o < sums.length) : ((b.landRows c mode init false first n sums).core c.val).bankWord (first + o / 128) (o % 128) =
      (bankUpdate mode init .nearest ((b.core c.val).bankWord (first + o / 128) (o % 128)) sums[o].val).1 := by
  induction n with
  | zero => omega
  | succ n ih =>
    have hj : o % 128 < 128 := Nat.mod_lt _ (by decide)
    rw [Block.landRows_succ]
    by_cases hrow : o < 128 * n
    · rw [← ih hrow]
      exact (Block.lands_land c _ _ _ _ _ _ _).rest _ _ hj (.inl (by omega))
    · obtain rfl : o / 128 = n := by omega
      rw [Block.bankWord_land_nearest _ _ _ _ _ _ _ hj]
      refine bankUpdate_congr ((b.lands_landRows c mode init false first _ sums).rest _ _ hj (.inr le_rfl)) ?_
      rw [List.getD_eq_getElem _ _ (by simp; omega), List.getElem_map, List.getElem_take, List.getElem_drop]
      congr 2
      omega

theorem Block.streamRow_eq (b : Block) (c : Fin 128) (mode : Nat) (w : WTile) (gear : Nat) (e : Entry32) (sr off : Bool) (i : Nat)
    (x : List Num) : b.streamRow c mode w gear e sr off i x =
      let sums := w.sums mode gear e.axis x
      let y := (((b.landRows c mode e.accInit sr (e.accRow + gearRows gear e.axis * i) (gearRows gear e.axis) sums).drnOvf c 0
        (sums.map (fun s => s.sat)).sum).drnVanish c 0 (sums.map (fun s => s.vanish)).sum).drnOvf c 1
        (sums.filter (fun s => s.ovf)).length
      if off then y else y.addGated c (w.gated (gearPer gear) e.axis x) := rfl

/-- What a streamed row does beside its sums lands nothing. -/
theorem Block.lands_streamRow_after (c : Fin 128) (b : Block) (mode : Nat) (w : WTile) (gear : Nat) (e : Entry32) (sr off : Bool) (i : Nat)
    (x : List Num) : (b.landRows c mode e.accInit sr (e.accRow + gearRows gear e.axis * i) (gearRows gear e.axis)
      (w.sums mode gear e.axis x)).Lands c 0 0 (b.streamRow c mode w gear e sr off i x) := by
  rw [Block.streamRow_eq]
  dsimp only
  generalize b.landRows _ _ _ _ _ _ _ = y
  have hcount := ((y.lands_drnCount c (o := Reg.DRN_OVF 0) ((w.sums mode gear e.axis x).map (fun s => s.sat)).sum 1 (by decide)).trans
    (Block.lands_drnCount c _ (o := Reg.DRN_VANISH 0) ((w.sums mode gear e.axis x).map (fun s => s.vanish)).sum 2 (by decide))).trans
    (Block.lands_drnCount c _ (o := Reg.DRN_OVF 1) ((w.sums mode gear e.axis x).filter (fun s => s.ovf)).length 1 (by decide))
  cases off with
  | true => exact hcount
  | false => exact hcount.trans (Block.lands_addGated c _ _)

/-- A streamed row lands in its own bank rows (R114). -/
theorem Block.lands_streamRow (c : Fin 128) (b : Block) (mode : Nat) (w : WTile) (gear : Nat) (e : Entry32) (sr off : Bool) (i : Nat)
    (x : List Num) : b.Lands c (e.accRow + gearRows gear e.axis * i) (e.accRow + gearRows gear e.axis * (i + 1))
      (b.streamRow c mode w gear e sr off i x) := by
  rw [Nat.mul_succ, ← Nat.add_assoc]
  refine (b.lands_landRows c mode e.accInit sr _ _ (w.sums mode gear e.axis x)).trans ?_
  have hafter := b.lands_streamRow_after c mode w gear e sr off i x
  exact ⟨hafter.same, hafter.core, fun row j hj _ => hafter.rest row j hj (.inr (Nat.zero_le _)), hafter.rd⟩

end Sys2Proof.Machine
end

section
/-! PROOF. STREAM (R110, R118, R126, R143). -/

namespace Sys2Proof.Machine

open Sys2Proof

/-! ## The rows of a STREAM -/

/-- A STREAM of any row makes its tile ACTIVE. -/
def Block.takeTile (b : Block) (c : Fin 128) (e : Entry32) (w : WTile) : Block :=
  if e.rowCount = 0 then b else b.setCore c.val { b.core c.val with active := some w, standby := none, axis := e.axis }

theorem Block.takeTile_same (b : Block) (c : Fin 128) (e : Entry32) (w : WTile) :
    b.takeTile c e w = { b with cores := (b.takeTile c e w).cores } := by
  unfold Block.takeTile
  split <;> rfl

theorem Block.core_takeTile (b : Block) (c : Fin 128) (e : Entry32) (w : WTile) :
    (b.takeTile c e w).core c.val = if e.rowCount = 0 then b.core c.val
      else { b.core c.val with active := some w, standby := none, axis := e.axis } := by
  unfold Block.takeTile
  split
  · rfl
  · rw [Block.core_setCore_self]

theorem Block.bankWord_takeTile (b : Block) (c : Fin 128) (e : Entry32) (w : WTile) (row j : Nat) :
    ((b.takeTile c e w).core c.val).bankWord row j = (b.core c.val).bankWord row j := by
  rw [Block.core_takeTile]
  split <;> rfl

theorem Block.desc_drnCount (b : Block) (c : Fin 128) {o : Nat} (n q a : Nat) (ho : o + 4 < 4096) : (b.drnCount c o n q).desc a = b.desc a := by
  have hmap : b.SameMap (b.drnCount c o n q) := by
    unfold Block.drnCount
    split
    · exact .refl b
    · exact ((b.sameMap_wr _ o _ (by simp) (by simp) (by omega)).trans (Block.sameMap_wr _ _ _ _ (by simp) (by simp) ho)).trans
        (Block.sameMap_wr _ _ _ _ (by simp) (by simp) (by decide))
  have hb := b.drnCount_regs c o n q
  have hlens : (b.drnCount c o n q).lens = b.lens := by rw [hb]
  unfold Block.desc Block.recBytes
  rw [hmap.bytes (by rw [hb]) (by rw [hb]; rfl), hlens]

theorem Block.desc_takeTile (b : Block) (c : Fin 128) (e : Entry32) (w : WTile) (a : Nat) : (b.takeTile c e w).desc a = b.desc a := by
  unfold Block.takeTile
  split <;> rfl

/-- The first `n` rows of a STREAM in turn. -/
def Block.streamRows (b : Block) (c : Fin 128) (mode : Nat) (w : WTile) (gear : Nat) (e : Entry32) (sr off : Bool) (n : Nat)
    (rows : Nat → List Num) : Block :=
  (List.range n).foldl (fun y i => y.streamRow c mode w gear e sr off i (rows i)) b

/-- They land in the bank rows that the entry names. -/
theorem Block.lands_streamRows (c : Fin 128) (b : Block) (mode : Nat) (w : WTile) (gear : Nat) (e : Entry32) (sr off : Bool) (n : Nat)
    (rows : Nat → List Num) :
    b.Lands c e.accRow (e.accRow + gearRows gear e.axis * n) (b.streamRows c mode w gear e sr off n rows) := by
  unfold Block.streamRows
  refine List.foldlRecOn _ _ (.refl c _ _ b) fun y hy i hi => hy.trans ((y.lands_streamRow c mode w gear e sr off i _).widen
    (Nat.le_add_right _ _) ?_)
  exact Nat.add_le_add_left (Nat.mul_le_mul_left _ (List.mem_range.1 hi)) _

theorem WTile.length_sums (w : WTile) (mode gear : Nat) (axis : Bool) (x : List Num) :
    (w.sums mode gear axis x).length = 128 * gearRows gear axis := by simp [WTile.sums]

/-- A single row rounded to nearest lands the chain sum of each output (R143). -/
theorem Block.bankWord_streamRows_one (b : Block) (c : Fin 128) (mode : Nat) (w : WTile) (gear : Nat) (e : Entry32) (off : Bool)
    (rows : Nat → List Num) {o : Nat} (ho : o < 128 * gearRows gear e.axis) :
    ((b.streamRows c mode w gear e false off 1 rows).core c.val).bankWord (e.accRow + o / 128) (o % 128) =
      (bankUpdate mode e.accInit .nearest ((b.core c.val).bankWord (e.accRow + o / 128) (o % 128))
        (chain mode (w.cells (gearPer gear) e.axis (rows 0) o)).val).1 := by
  have hafter := (b.lands_streamRow_after c mode w gear e false off 0 (rows 0)).rest (e.accRow + o / 128) _
    (Nat.mod_lt o (by decide)) (.inr (Nat.zero_le _))
  rw [Nat.mul_zero, Nat.add_zero] at hafter
  refine hafter.trans ?_
  rw [Block.bankWord_landRows _ _ _ _ _ _ _ ho (by rw [WTile.length_sums]; exact ho)]
  simp [WTile.sums]

/-- A STREAM whose rows meet no error. -/
def Block.streamAll (b : Block) (c : Fin 128) (r : TaskRec) (w : WTile) (gear : Nat) (e : Entry32) (eccCorr : Nat)
    (rows : Nat → List Num) : Block :=
  let x := (b.takeTile c e w).drnCount c Reg.DRN_ECC_CORR eccCorr 0
  x.streamRows c ((accMode r.gear (x.desc r.descA.toNat) (x.desc r.descB.toNat)).getD 1) w gear e (r.roundBit 1)
    (wbit (x.rd (.darr c) Reg.DARR_GATE) 0) e.rowCount rows

theorem Block.lands_streamAll (c : Fin 128) (b : Block) (r : TaskRec) (w : WTile) (gear : Nat) (e : Entry32) (eccCorr : Nat)
    (rows : Nat → List Num) : (b.takeTile c e w).Lands c e.accRow (e.accRow + gearRows gear e.axis * e.rowCount)
      (b.streamAll c r w gear e eccCorr rows) := by
  have hcount := Block.lands_drnCount c (b.takeTile c e w) (o := Reg.DRN_ECC_CORR) eccCorr 0 (by decide)
  refine Block.Lands.trans ⟨hcount.same, hcount.core, fun row j hj _ => hcount.rest row j hj (.inr (Nat.zero_le _)), hcount.rd⟩ ?_
  exact Block.lands_streamRows c _ _ w gear e _ _ _ _

theorem Block.bankWord_streamAll_one (b : Block) (c : Fin 128) (r : TaskRec) (w : WTile) (gear : Nat) (e : Entry32) (eccCorr : Nat)
    (rows : Nat → List Num) (hone : e.rowCount = 1) (hsr : r.roundBit 1 = false) {o : Nat} (ho : o < 128 * gearRows gear e.axis) :
    let mode := (accMode r.gear (b.desc r.descA.toNat) (b.desc r.descB.toNat)).getD 1
    ((b.streamAll c r w gear e eccCorr rows).core c.val).bankWord (e.accRow + o / 128) (o % 128) =
      (bankUpdate mode e.accInit .nearest ((b.core c.val).bankWord (e.accRow + o / 128) (o % 128))
        (chain mode (w.cells (gearPer gear) e.axis (rows 0) o)).val).1 := by
  unfold Block.streamAll
  dsimp only
  rw [hone, hsr, Block.bankWord_streamRows_one _ _ _ _ _ _ _ _ ho, Block.core_drnCount, Block.bankWord_takeTile]
  simp only [Block.desc_drnCount _ _ _ _ _ (show Reg.DRN_ECC_CORR + 4 < 4096 by decide), Block.desc_takeTile]

/-- The end of a STREAM: its rows counted, its cycles spent, its entry passed. -/
def Block.streamEnd (b : Block) (c : Fin 128) (t : TaskSt) (rows cycles feedDry drainFull : Nat) : Block :=
  ((b.count (.darr c) Reg.DARR_ROWS rows).spend c t.serial cycles feedDry drainFull).passEntry (.core c) t.serial 0

theorem Block.counted_streamEnd (c : Fin 128) (b : Block) (t : TaskSt) (rows cycles feedDry drainFull : Nat) :
    (((b.count (.darr c) Reg.DARR_ROWS rows).mapTask (.core c) t.serial (TaskSt.spent (cycles + feedDry + drainFull) cycles)).mapTask
      (.core c) t.serial TaskSt.pastEntry).Counted c (b.streamEnd c t rows cycles feedDry drainFull) :=
  ((Block.counted_spend c _ _ _ _ _).mapTask _ _).trans (Block.counted_passEntry c _ _)

theorem Block.core_streamEnd (c : Fin 128) (b : Block) (t : TaskSt) (rows cycles feedDry drainFull : Nat) :
    ∃ rem asked, (b.streamEnd c t rows cycles feedDry drainFull).core c.val = { b.core c.val with gateRem := rem, asked := asked } :=
  ⟨_, _, (b.counted_streamEnd c t rows cycles feedDry drainFull).core⟩

theorem Block.rd64_streamEnd (c : Fin 128) (b : Block) (t : TaskSt) (rows cycles feedDry drainFull : Nat) :
    (b.streamEnd c t rows cycles feedDry drainFull).rd64 (.darr c) Reg.DARR_ROWS =
      min (b.rd64 (.darr c) Reg.DARR_ROWS + rows) (2 ^ 64 - 1) :=
  ((b.counted_streamEnd c t rows cycles feedDry drainFull).rd _ (by decide)).trans (Block.rd64_count _ _ _ _ (by decide))

/-- What a STREAM leaves of its core's bank, tiles and count of rows. -/
structure Block.Streams (c : Fin 128) (r : TaskRec) (w : WTile) (gear : Nat) (e : Entry32) (rows : Nat → List Num) (a b : Block) : Prop where
  mem : b.mem = a.mem
  posted : b.posted = a.posted
  tile : 0 < e.rowCount → (b.core c.val).active = some w ∧ (b.core c.val).standby = none
  count : b.rd64 (.darr c) Reg.DARR_ROWS = min (a.rd64 (.darr c) Reg.DARR_ROWS + e.rowCount) (2 ^ 64 - 1)
  rest : ∀ row j, j < 128 → row < e.accRow ∨ e.accRow + gearRows gear e.axis * e.rowCount ≤ row →
    (b.core c.val).bankWord row j = (a.core c.val).bankWord row j
  one : e.rowCount = 1 → r.roundBit 1 = false →
    let mode := (accMode r.gear (a.desc r.descA.toNat) (a.desc r.descB.toNat)).getD 1
    ∀ o < 128 * gearRows gear e.axis, (b.core c.val).bankWord (e.accRow + o / 128) (o % 128) =
      (bankUpdate mode e.accInit .nearest ((a.core c.val).bankWord (e.accRow + o / 128) (o % 128))
        (chain mode (w.cells (gearPer gear) e.axis (rows 0) o)).val).1

theorem Block.streams_streamAll (c : Fin 128) (b : Block) (t : TaskSt) (r : TaskRec) (w : WTile) (gear : Nat) (e : Entry32)
    (cycles feedDry drainFull eccCorr : Nat) (rows : Nat → List Num) :
    b.Streams c r w gear e rows ((b.streamAll c r w gear e eccCorr rows).streamEnd c t e.rowCount cycles feedDry drainFull) := by
  have hl := b.lands_streamAll c r w gear e eccCorr rows
  have htake := b.takeTile_same c e w
  have hone := b.bankWord_streamAll_one c r w gear e eccCorr rows
  generalize b.streamAll c r w gear e eccCorr rows = y at hl hone
  have hcount := y.counted_streamEnd c t e.rowCount cycles feedDry drainFull
  obtain ⟨rem, asked, hcore⟩ := y.core_streamEnd c t e.rowCount cycles feedDry drainFull
  have hbank : ∀ row j, ((y.streamEnd c t e.rowCount cycles feedDry drainFull).core c.val).bankWord row j = (y.core c.val).bankWord row j :=
    fun row j => by rw [hcore]; rfl
  refine ⟨hcount.mem.trans ?_, hcount.posted.trans ?_, fun hrows => ?_, ?_, fun row j hj hr => ?_, fun h1 hsr o ho => ?_⟩
  · show y.mem = b.mem
    rw [hl.same, htake]
  · show y.posted = b.posted
    rw [hl.same, htake]
  · rw [hcore, hl.core, Block.core_takeTile, if_neg (by omega)]
    exact ⟨rfl, rfl⟩
  · rw [Block.rd64_streamEnd, hl.rd _ (by decide), htake]
    rfl
  · rw [hbank, hl.rest row j hj hr, Block.bankWord_takeTile]
  · rw [hbank]
    exact hone h1 hsr ho

theorem Block.drainsBefore_unposted (b : Block) (c : Fin 128) (t : TaskSt) (first n : Nat) :
    b.unposted.drainsBefore c t first n = b.drainsBefore c t first n := rfl

theorem standby_or_active {x : CoreSt} {w : WTile} (h : (match x.standby with
    | some w => some w
    | none => x.active) = some w) : x.standby = some w ∨ x.standby = none ∧ x.active = some w := by
  split at h
  · next hs => exact .inl (hs.trans h)
  · next hs => exact .inr ⟨hs, h⟩

theorem Block.core_seenBy (b : Block) (q : TaskSt) (c : Nat) : (b.seenBy q).core c = b.core c := rfl

section Stream

variable {s : State} {c : Fin 128} {cycles feedDry drainFull eccCorr : Nat} {q t : TaskSt} {w : WTile} {e : Entry32} {k : Took} {y : Block}

/-- A STREAM whose rows meet no error lands them all and passes its entry. -/
theorem completes_denseStream (hr : s.block.running = true) (hq : s.block.portTask c 0 = some q)
    (ht : (s.block.seenBy q).portTask c 0 = some t) (hlist : t.listDone = false) (he : (s.block.seenBy q).entryAt t t.pos = e)
    (hsrc : e.src = 0)
    (htile : (match (s.block.core c.val).standby with
      | some w => some w
      | none => (s.block.core c.val).active) = some w)
    (hcheck : streamCheck t.cur e (some w) = none)
    (hdrains : (s.block.seenBy q).drainsBefore c t e.accRow (gearRows (streamGear t.cur.gear w) e.axis * e.rowCount) = false)
    (htake : (s.block.seenBy q).take c t 0 false = (k, y)) (hk : k.ready = .ok) :
    let gear := streamGear t.cur.gear w
    Completes (.denseStream c cycles feedDry drainFull eccCorr 0 .none) s (fun b =>
      b.mem = y.mem ∧ (0 < e.rowCount → (b.core c.val).active = some w ∧ (b.core c.val).standby = none) ∧
      b.rd64 (.darr c) Reg.DARR_ROWS = min (y.rd64 (.darr c) Reg.DARR_ROWS + e.rowCount) (2 ^ 64 - 1) ∧
      (∀ row j, j < 128 → row < e.accRow ∨ e.accRow + gearRows gear e.axis * e.rowCount ≤ row →
        (b.core c.val).bankWord row j = (y.core c.val).bankWord row j) ∧
      (e.rowCount = 1 → t.cur.roundBit 1 = false →
        let mode := (accMode t.cur.gear (y.desc t.cur.descA.toNat) (y.desc t.cur.descB.toNat)).getD 1
        let row := k.d.unscaled.values k.rd k.e.rowStart k.e.colStart e.colCount
        ∀ o < 128 * gearRows gear e.axis, (b.core c.val).bankWord (e.accRow + o / 128) (o % 128) =
          (bankUpdate mode e.accInit .nearest ((y.core c.val).bankWord (e.accRow + o / 128) (o % 128))
            (chain mode (w.cells (gearPer gear) e.axis row o)).val).1)) := by
  intro gear
  have hy := y.unposted.streams_streamAll c t t.cur w gear e cycles feedDry drainFull eccCorr
    (fun i => k.d.unscaled.values k.rd (k.e.rowStart + i) k.e.colStart e.colCount)
  generalize hz : (y.unposted.streamAll c t.cur w gear e eccCorr
    (fun i => k.d.unscaled.values k.rd (k.e.rowStart + i) k.e.colStart e.colCount)).streamEnd c t e.rowCount cycles feedDry drainFull = z at hy
  refine completes_engineStep rfl hr hq ?_ hy.posted ⟨hy.mem, hy.tile, hy.count, hy.rest, hy.one⟩
  rw [← hz]
  rcases standby_or_active htile with hstandby | ⟨hstandby, hactive⟩
  all_goals
    simp only [Block.portTask_unposted, ht, hlist, Bool.false_eq_true, if_false, Block.entryAt_unposted, he, hsrc, ne_eq, not_true_eq_false,
      Block.core_unposted, Block.core_seenBy, hstandby]
  on_goal 2 => rw [hactive]
  all_goals
    simp only [hcheck, Block.drainsBefore_unposted, hdrains, Bool.false_eq_true, if_false, Block.take_unposted, htake, silent_mk, hk]
    rfl

end Stream

end Sys2Proof.Machine
end

section
/-! SUPPORT. A DRAIN does not look at the events of a cycle. -/

namespace Sys2Proof.Machine

open Sys2Proof

@[simp] theorem Block.drainCtx_unposted (b : Block) (r : TaskRec) (d : Desc) : b.unposted.drainCtx r d = b.drainCtx r d := rfl

theorem Block.rowSum_unposted (b : Block) (mode : Nat) (l : List Num) :
    b.unposted.rowSum mode l = ((b.rowSum mode l).1, (b.rowSum mode l).2.1, (b.rowSum mode l).2.2.unposted) := by
  unfold Block.rowSum
  dsimp only
  rw [Block.openSum_unposted]
  rfl

@[simp] theorem Block.rowStats_unposted (b : Block) (r : TaskRec) (old : List Word) (merge : Bool) (col : Nat) (l : List Num) :
    b.unposted.rowStats r old merge col l = silent (b.rowStats r old merge col l) := by
  unfold Block.rowStats
  by_cases hsum : r.par 0x13 1 % 4 = 0
  · simp only [hsum, if_true, silent_mk]
  · simp only [hsum, if_false, Block.rowSum_unposted, silent_mk]

/-! ## The parts of one drained row -/

/-- The values of a drained row, each with the overflows that it met. -/
def Block.drainedVals (b : Block) (c : Fin 128) (x : DrainCtx) (e : Entry32) (lo n i : Nat) (ops : List Num) : List Counting :=
  let per := ceilDiv e.colCount 128
  let off := lo - e.colStart
  let bank := (List.range per).flatMap (fun j => (b.core c.val).bankRow (e.accRow + i * per + j))
  ((bank.drop off).take n).zipIdx.map (fun p => x.word p.1 (ops.getD (off + p.2) Num.zero))

/-- Is a drained row rounded stochastically? -/
def drainsStochastic (r : TaskRec) (d : Desc) : Bool := r.roundBit 0 && !(d.format == 1 && d.scaleMode != 1)

/-- The draws of a drained row: one of generators 32 to 39 for each bank row read. -/
def Block.drainDraws (b : Block) (c : Fin 128) (r : TaskRec) (d : Desc) (rows : Nat) : List (List (BitVec 128)) :=
  if drainsStochastic r d then (List.range rows).foldl (fun (l : List (List (BitVec 128))) _ =>
    l ++ [drawGens (l.getLastD (b.core c.val).gens) 32]) [] else []

/-- The bank rows that a drained row reads. -/
def drainBankRows (e : Entry32) (lo n : Nat) : Nat := (lo - e.colStart + n + 127) / 128 - (lo - e.colStart) / 128

/-- A drained row, converted. -/
def Block.drainConv (b : Block) (c : Fin 128) (r : TaskRec) (x : DrainCtx) (e : Entry32) (src : Source) (lo n i : Nat) (ops : List Num) :
    Conv :=
  let d := src.d
  let off := lo - e.colStart
  let draws := b.drainDraws c r d (drainBankRows e lo n)
  let rnd := fun (j : Nat) => if drainsStochastic r d then
      Rounding.stochastic (lfsrByte ((draws.getD ((off + j) / 128 - off / 128) []).drop 32) ((off + j) % 128)) else .nearest
  d.convert (lo - e.colStart + src.e.colStart) (((b.drainedVals c x e lo n i ops).map (fun p => p.1)).zipIdx.map (fun p => (p.1, rnd p.2)))
    (r.roundBit 3)

/-- A drained row counted, its generators drawn. -/
def Block.countRow (b : Block) (c : Fin 128) (r : TaskRec) (x : DrainCtx) (e : Entry32) (src : Source) (lo n i : Nat) (ops : List Num) :
    Block :=
  let y := (b.drnOvf c 1 ((b.drainedVals c x e lo n i ops).map (fun p => p.2)).sum).count (.drn c) Reg.DRN_ROWS_OUT (drainBankRows e lo n)
  let z := if drainsStochastic r src.d then
    y.setCore c.val { y.core c.val with gens := (b.drainDraws c r src.d (drainBankRows e lo n)).getLastD (b.core c.val).gens } else y
  z.countConv c src.d.format (b.drainConv c r x e src lo n i ops)

/-- The statistics of a drained row, written (R162, R164). -/
def Block.putStats (b : Block) (c : Fin 128) (t : TaskSt) (r : TaskRec) (e : Entry32) (lo n i : Nat) (v : List Num) : Ready × Block :=
  if r.statDesc = 0 ∨ n = 0 then (Ready.ok, b)
  else
    let a := (b.desc r.statDesc).elemAddr (e.rowStart + i) 0
    let q := b.demand t [(a, 16)] e.pageInOk
    match q.1 with
    | .ok =>
      let old := (List.range 4).map (fun k => BitVec.ofNat 32 (rdLE (q.2.taskReader t a 16) (4 * k) 4))
      let s := (if e.colStart = 0 then q.2 else (q.2.portIn c 16).served (c.val / 8) t [(a, 16)]).rowStats r old (e.colStart != 0) lo v
      let st := r.par 0x13 1
      s.2.taskWrite t (some (coreTile c))
        ((if st % 4 = 0 then [] else [(a, (s.1.take 2).flatMap (fun k => toBytes 4 k.toNat))]) ++
          (if st / 4 = 0 then [] else [(a + 8, (s.1.drop 2).flatMap (fun k => toBytes 4 k.toNat))])) e.pageInOk
    | o => (o, q.2)

/-- The bytes that a drained row comes to. -/
def Block.drainBytes (b : Block) (t : TaskSt) (e : Entry32) (src : Source) (lo i : Nat) (cv : Conv) : List (Nat × List Byte) :=
  src.d.putConv (b.sourceReader t src) (src.e.rowStart + i) (lo - e.colStart + src.e.colStart) cv

theorem Block.drainRow_eq (b : Block) (c : Fin 128) (t : TaskSt) (r : TaskRec) (x : DrainCtx) (e : Entry32) (src : Source) (lo n i : Nat)
    (ops : List Num) : b.drainRow c t r x e src lo n i ops =
      let v := (b.drainedVals c x e lo n i ops).map (fun p => p.1)
      let y := b.countRow c r x e src lo n i ops
      let z := y.putStats c t r e lo n i (if x.pass then v.map rnd32 else v)
      match z.1 with
      | .ok => z.2.writeOut c t src.holder (y.drainBytes t e src lo i (b.drainConv c r x e src lo n i ops)) e.pageInOk
      | _ => z := by
  have hstep : ∀ (z : Ready × Block) (g : Block → Ready × Block), (match z with
      | (.ok, y) => g y
      | z => z) = match z.1 with
      | .ok => g z.2
      | _ => z := by
    rintro ⟨o, y⟩ g
    cases o <;> rfl
  exact hstep _ _

@[simp] theorem Block.countRow_unposted (b : Block) (c : Fin 128) (r : TaskRec) (x : DrainCtx) (e : Entry32) (src : Source) (lo n i : Nat)
    (ops : List Num) : b.unposted.countRow c r x e src lo n i ops = (b.countRow c r x e src lo n i ops).unposted := by
  have hvals : b.unposted.drainedVals c x e lo n i ops = b.drainedVals c x e lo n i ops := rfl
  have hconv : b.unposted.drainConv c r x e src lo n i ops = b.drainConv c r x e src lo n i ops := rfl
  have hdraws : b.unposted.drainDraws c r src.d (drainBankRows e lo n) = b.drainDraws c r src.d (drainBankRows e lo n) := rfl
  unfold Block.countRow
  simp only [hvals, hconv, hdraws, Block.drnOvf_unposted, Block.count_unposted, Block.core_unposted, Block.setCore_unposted,
    ← apply_ite Block.unposted, Block.countConv_unposted]

@[simp] theorem Block.putStats_unposted (b : Block) (c : Fin 128) (t : TaskSt) (r : TaskRec) (e : Entry32) (lo n i : Nat) (v : List Num) :
    b.unposted.putStats c t r e lo n i v = silent (b.putStats c t r e lo n i v) := by
  have hreader : ∀ (y : Block) (a m : Nat), y.unposted.taskReader t a m = y.taskReader t a m := fun _ _ _ => rfl
  unfold Block.putStats
  simp only [Block.desc_unposted, Block.demand_unposted, silent_fst, silent_snd, hreader, Block.portIn_unposted, Block.served_unposted,
    ← apply_ite Block.unposted, Block.rowStats_unposted, Block.taskWrite_unposted]
  split
  · rfl
  · split <;> rfl

@[simp] theorem Block.drainRow_unposted (b : Block) (c : Fin 128) (t : TaskSt) (r : TaskRec) (x : DrainCtx) (e : Entry32) (src : Source)
    (lo n i : Nat) (ops : List Num) : b.unposted.drainRow c t r x e src lo n i ops = silent (b.drainRow c t r x e src lo n i ops) := by
  have hvals : b.unposted.drainedVals c x e lo n i ops = b.drainedVals c x e lo n i ops := rfl
  have hconv : b.unposted.drainConv c r x e src lo n i ops = b.drainConv c r x e src lo n i ops := rfl
  have hbytes : ∀ (y : Block) (cv : Conv), y.unposted.drainBytes t e src lo i cv = y.drainBytes t e src lo i cv := fun _ _ => rfl
  simp only [Block.drainRow_eq, hvals, hconv, Block.countRow_unposted, hbytes, Block.putStats_unposted, silent_fst, silent_snd,
    Block.writeOut_unposted]
  split <;> rfl

@[simp] theorem Block.drainRows_unposted (b : Block) (c : Fin 128) (t : TaskSt) (r : TaskRec) (e : Entry32) (src : Source)
    (op : Option Took) (n : Nat) : b.unposted.drainRows c t r e src op n = silent (b.drainRows c t r e src op n) := by
  unfold Block.drainRows
  simp only [Block.desc_unposted, Block.drainCtx_unposted]
  refine foldl_silent (fun p i => ?_) _ _ b
  obtain ⟨a, x⟩ := p
  cases a with
  | ok =>
    simp only [silent_mk, Block.drainRow_unposted]
    split <;> rfl
  | wait => rfl
  | fault code => rfl

@[simp] theorem Block.drainReady_unposted (b : Block) (c : Fin 128) (t : TaskSt) (r : TaskRec) (e : Entry32) (src : Source) :
    b.unposted.drainReady c t r e src = silent (b.drainReady c t r e src) := by
  unfold Block.drainReady
  simp only [Block.desc_unposted, Block.sourceFits_unposted, Block.protected_unposted, Block.demand_unposted, silent_fst, silent_snd,
    Block.askRemote_unposted]
  repeat' split
  all_goals rfl

end Sys2Proof.Machine
end

section
/-! SUPPORT. A DRAIN keeps its core's bank and the tasks of every unit (R120). -/

namespace Sys2Proof.Machine

open Sys2Proof

/-- A core's bank and the tasks of every unit are the same. -/
structure Block.KeepsBank (c : Fin 128) (a b : Block) : Prop where
  units : b.units = a.units
  bank : (b.core c.val).bank = (a.core c.val).bank

theorem Block.KeepsBank.refl (c : Fin 128) (a : Block) : a.KeepsBank c a := ⟨rfl, rfl⟩

theorem Block.KeepsBank.trans {c : Fin 128} {a b d : Block} (h : a.KeepsBank c b) (k : b.KeepsBank c d) : a.KeepsBank c d :=
  ⟨k.units.trans h.units, k.bank.trans h.bank⟩

theorem Block.KeepsBank.unit {c : Fin 128} {a b : Block} (h : a.KeepsBank c b) (u : UnitId) : b.unit u = a.unit u := by
  unfold Block.unit
  rw [h.units]

theorem Block.keepsBank_of_cores (c : Fin 128) {a b : Block} (hu : b.units = a.units) (hc : b.cores = a.cores) : a.KeepsBank c b :=
  ⟨hu, by unfold Block.core; rw [hc]⟩

theorem Block.Accessed.keepsBank (c : Fin 128) {a b : Block} (h : a.Accessed b) : a.KeepsBank c b :=
  Block.keepsBank_of_cores c h.units (by rw [h.same])

theorem Block.keepsBank_setCore (c : Fin 128) (b : Block) (x : CoreSt) (h : x.bank = (b.core c.val).bank) :
    b.KeepsBank c (b.setCore c.val x) := ⟨rfl, by rw [Block.core_setCore_self, h]⟩

theorem Block.keepsBank_count (c : Fin 128) (b : Block) (p : Page) (o n : Nat) : b.KeepsBank c (b.count p o n) := ⟨rfl, rfl⟩

theorem Block.keepsBank_drnCount (c : Fin 128) (b : Block) (o n q : Nat) : b.KeepsBank c (b.drnCount c o n q) := by
  rw [Block.drnCount_regs]
  exact ⟨rfl, rfl⟩

theorem Block.keepsBank_countConv (c : Fin 128) (b : Block) (f : Nat) (v : Conv) : b.KeepsBank c (b.countConv c f v) :=
  ((b.keepsBank_drnCount c _ _ _).trans (Block.keepsBank_drnCount c _ _ _ _)).trans (Block.keepsBank_drnCount c _ _ _ _)

theorem Block.keepsBank_requestPageIn (c : Fin 128) (b : Block) (v : Nat) (why : MoveWhy) (owner : Option Nat) :
    b.KeepsBank c (b.requestPageIn v why owner) := by
  unfold Block.requestPageIn
  repeat' split
  all_goals exact ⟨rfl, rfl⟩

/-- Steps in turn, each taken only while all before it went well. -/
theorem Block.keepsBank_foldl (c : Fin 128) {α ι : Type} {f : α × Block → ι → α × Block}
    (h : ∀ (p : α × Block) i, p.2.KeepsBank c (f p i).2) (l : List ι) (p : α × Block) : p.2.KeepsBank c (l.foldl f p).2 :=
  List.foldlRecOn (motive := fun q : α × Block => p.2.KeepsBank c q.2) _ _ (.refl c p.2) fun _ hq i _ => hq.trans (h _ i)

theorem Block.keepsBank_demand (c : Fin 128) (b : Block) (t : TaskSt) (l : List (Nat × Nat)) (i : Bool) :
    b.KeepsBank c (b.demand t l i).2 := by
  unfold Block.demand
  refine Block.keepsBank_foldl c (fun p r => ?_) l (Ready.ok, b)
  repeat' split
  case h_5.isFalse.isFalse => exact Block.keepsBank_requestPageIn c _ _ _ _
  all_goals exact .refl c _

theorem Block.keepsBank_send (c : Fin 128) (b : Block) (p : Packet) : b.KeepsBank c (b.send p).2 := by
  unfold Block.send
  repeat' split
  all_goals exact ⟨rfl, rfl⟩

theorem Block.keepsBank_request (c : Fin 128) (b : Block) (o : ReqOwner) (d k q n a : Nat) (l : List Byte) :
    b.KeepsBank c (b.request o d k q n a l).2 := by
  have hsend := b.keepsBank_send c (b.packet d k q n b.lly.nextTag a l)
  unfold Block.request
  dsimp only
  split
  · exact ⟨hsend.units, hsend.bank⟩
  · exact hsend

theorem Block.keepsBank_forgetPoison (c : Fin 128) (b : Block) (m a n : Nat) : b.KeepsBank c (b.forgetPoison m a n) := by
  unfold Block.forgetPoison
  split <;> exact ⟨rfl, rfl⟩

theorem Block.keepsBank_readRemote (c : Fin 128) (b : Block) (o : ReqOwner) (m : Nat) (l : List (Nat × Nat)) :
    b.KeepsBank c (b.readRemote o m l).2 := by
  unfold Block.readRemote
  refine Block.keepsBank_foldl c (fun p r => ?_) _ (none, b)
  dsimp only
  split
  · exact .refl c _
  · exact (p.2.keepsBank_forgetPoison c _ _ _).trans (Block.keepsBank_request c _ _ _ _ _ _ _ _)

theorem Block.keepsBank_askRemote (c : Fin 128) (b : Block) (t : TaskSt) (l : List (Nat × Nat × Nat)) :
    b.KeepsBank c (b.askRemote c t l).2 := by
  unfold Block.askRemote
  dsimp only
  split
  · exact .refl c b
  · have hasked : ∀ asked, b.KeepsBank c (b.setCore c.val { b.core c.val with asked := asked }) := fun _ => b.keepsBank_setCore c _ rfl
    refine (hasked _).trans (Block.keepsBank_foldl c (fun p r => ?_) _ ((none : Option Nat), _))
    split
    · exact p.2.keepsBank_readRemote c _ _ _
    · exact .refl c _

theorem Block.keepsBank_taskWrite (c : Fin 128) (b : Block) (t : TaskSt) (tile : Option (Fin 16)) (w : List (Nat × List Byte)) (i : Bool) :
    b.KeepsBank c (b.taskWrite t tile w i).2 := by
  have hdemand := b.keepsBank_demand c t (w.map (fun x => (x.1, x.2.length))) i
  unfold Block.taskWrite
  generalize b.demand t (w.map (fun x => (x.1, x.2.length))) i = q at hdemand ⊢
  obtain ⟨ready, y⟩ := q
  by_cases hprotected : w.any (fun x => b.protected_ x.1 x.2.length) = true
  · rw [if_pos hprotected]
    exact .refl c b
  · rw [if_neg hprotected]
    cases ready with
    | ok =>
      refine hdemand.trans (Block.Accessed.keepsBank c (Block.accessed_foldl (fun x p => ?_) w _))
      split
      · exact ((x.accessed_lookups _ _).trans (Block.accessed_storeAs _ _ _ _ _ _ _)).trans (Block.accessed_dropLines _ _ _ _ _)
      · exact (x.accessed_lookups _ _).trans (Block.accessed_storeAs _ _ _ _ _ _ _)
    | wait => exact hdemand
    | fault code => exact hdemand

theorem Block.keepsBank_writeOut (c : Fin 128) (b : Block) (t : TaskSt) (h : Nat) (w : List (Nat × List Byte)) (i : Bool) :
    b.KeepsBank c (b.writeOut c t h w i).2 := by
  unfold Block.writeOut
  split
  · exact b.keepsBank_taskWrite c t _ w i
  · refine Block.keepsBank_foldl c (fun p r => ?_) _ (Ready.ok, b)
    dsimp only
    split
    · have hreq := p.2.keepsBank_request c (.task (.core c) t.serial) (h - 1) 1 Op.write r.2.length r.1 r.2
      split
      · exact hreq.trans ((Block.accessed_dropLines _ _ _ _ _).keepsBank c)
      · exact hreq
    · exact .refl c _

theorem Block.keepsBank_rowStats (c : Fin 128) (b : Block) (r : TaskRec) (old : List Word) (merge : Bool) (col : Nat) (l : List Num) :
    b.KeepsBank c (b.rowStats r old merge col l).2 := by
  have hsum : ∀ (mode : Nat), b.KeepsBank c (b.rowSum mode l).2.2 := fun mode => by
    unfold Block.rowSum Block.openSum
    dsimp only
    split <;> exact ⟨rfl, rfl⟩
  unfold Block.rowStats
  dsimp only
  split
  · exact .refl c b
  · exact hsum _

theorem Block.keepsBank_countRow (c : Fin 128) (b : Block) (r : TaskRec) (x : DrainCtx) (e : Entry32) (src : Source) (lo n i : Nat)
    (ops : List Num) : b.KeepsBank c (b.countRow c r x e src lo n i ops) := by
  unfold Block.countRow
  refine Block.KeepsBank.trans ?_ (Block.keepsBank_countConv c _ _ _)
  have hcount := (b.keepsBank_drnCount c (Reg.DRN_OVF 1) ((b.drainedVals c x e lo n i ops).map (fun p => p.2)).sum 1).trans
    (Block.keepsBank_count c _ (.drn c) Reg.DRN_ROWS_OUT (drainBankRows e lo n))
  split
  · exact hcount.trans (Block.keepsBank_setCore c _ _ rfl)
  · exact hcount

theorem Block.keepsBank_putStats (c : Fin 128) (b : Block) (t : TaskSt) (r : TaskRec) (e : Entry32) (lo n i : Nat) (v : List Num) :
    b.KeepsBank c (b.putStats c t r e lo n i v).2 := by
  unfold Block.putStats
  dsimp only
  split
  · exact .refl c b
  · refine Block.KeepsBank.trans (b.keepsBank_demand c t [((b.desc r.statDesc).elemAddr (e.rowStart + i) 0, 16)] e.pageInOk) ?_
    split
    · refine Block.KeepsBank.trans ?_ ((Block.keepsBank_rowStats c _ _ _ _ _ _).trans (Block.keepsBank_taskWrite c _ _ _ _ _))
      split
      · exact .refl c _
      · exact (Block.keepsBank_count c _ _ _ _).trans ((Block.accessed_touched _ _ _).keepsBank c)
    · exact .refl c _

theorem Block.keepsBank_drainRow (c : Fin 128) (b : Block) (t : TaskSt) (r : TaskRec) (x : DrainCtx) (e : Entry32) (src : Source)
    (lo n i : Nat) (ops : List Num) : b.KeepsBank c (b.drainRow c t r x e src lo n i ops).2 := by
  have hcount := b.keepsBank_countRow c r x e src lo n i ops
  rw [Block.drainRow_eq]
  dsimp only
  split
  · exact (hcount.trans (Block.keepsBank_putStats c _ _ _ _ _ _ _ _)).trans (Block.keepsBank_writeOut c _ _ _ _ _)
  · exact hcount.trans (Block.keepsBank_putStats c _ _ _ _ _ _ _ _)

/-- Rows that go out leave every word of the bank. -/
theorem Block.keepsBank_drainRows (c : Fin 128) (b : Block) (t : TaskSt) (r : TaskRec) (e : Entry32) (src : Source)
    (op : Option Took) (n : Nat) : b.KeepsBank c (b.drainRows c t r e src op n).2 := by
  unfold Block.drainRows
  refine Block.keepsBank_foldl c (fun p i => ?_) _ (Ready.ok, b)
  dsimp only
  split
  · split
    · exact .refl c _
    · exact p.2.keepsBank_drainRow c t r _ e src _ _ i _
  · exact .refl c _

theorem Block.keepsBank_drainReady (c : Fin 128) (b : Block) (t : TaskSt) (r : TaskRec) (e : Entry32) (src : Source) :
    b.KeepsBank c (b.drainReady c t r e src).2 := by
  unfold Block.drainReady
  generalize (if src.holder = 0 then src.ranges else []) = out
  generalize (if r.statDesc = 0 ∨ e.empty = true then [] else _) = stat
  dsimp only
  split
  · exact .refl c b
  · split
    · exact .refl c b
    · split
      · split
        · exact (b.keepsBank_demand c _ _ _).trans (Block.keepsBank_askRemote c _ _ _)
        · exact b.keepsBank_demand c _ _ _
      · exact b.keepsBank_demand c _ _ _

end Sys2Proof.Machine
end

section
/-! PROOF. DRAIN (R120, R156) and the entries of an array task. -/

namespace Sys2Proof.Machine

open Sys2Proof

/-- A DRAIN uses up its operand. -/
def Block.dropOperand (b : Block) (c : Fin 128) : Block := b.setCore c.val { b.core c.val with opnd := none }

theorem Block.core_dropOperand (b : Block) (c : Fin 128) : (b.dropOperand c).core c.val = { b.core c.val with opnd := none } :=
  Block.core_setCore_self _ _ _

/-- A drain operand kept for the DRAIN that follows. -/
def Block.keepOperand (b : Block) (c : Fin 128) (t : TaskSt) : Block := b.setCore c.val { b.core c.val with opnd := some (posKey t.pos) }

theorem Block.core_keepOperand (b : Block) (c : Fin 128) (t : TaskSt) :
    (b.keepOperand c t).core c.val = { b.core c.val with opnd := some (posKey t.pos) } := Block.core_setCore_self _ _ _

theorem Block.regs_passEntry (b : Block) (u : UnitId) (n cycles : Nat) : (b.passEntry u n cycles).regs = b.regs := by
  unfold Block.passEntry
  rw [Block.forgetAsked_eq]
  rfl

/-- What a core's block and tasks come to where a drain operand is kept. -/
structure Block.KeepsOperand (c : Fin 128) (t : TaskSt) (a b : Block) : Prop where
  regs : b.regs = a.regs
  mem : b.mem = a.mem
  posted : b.posted = a.posted
  opnd : (b.core c.val).opnd = some (posKey t.pos)
  bank : (b.core c.val).bank = (a.core c.val).bank
  task : a.bySerial (.core c) t.serial = some t → b.bySerial (.core c) t.serial = some t.pastEntry

theorem Block.keepsOperand (c : Fin 128) (b : Block) (t : TaskSt) :
    b.KeepsOperand c t ((b.keepOperand c t).passEntry (.core c) t.serial 0) := by
  have hpass := (b.keepOperand c t).counted_passEntry c t.serial
  have hopnd : ((b.keepOperand c t).core c.val).opnd = some (posKey t.pos) := by rw [Block.core_keepOperand]
  have hbank : ((b.keepOperand c t).core c.val).bank = (b.core c.val).bank := by rw [Block.core_keepOperand]
  refine ⟨Block.regs_passEntry _ _ _ _, hpass.mem, hpass.posted, hpass.opnd.trans hopnd, hpass.bank.trans hbank, fun ht => (hpass.bySerial t.serial).trans ?_⟩
  exact Block.bySerial_mapTask_some TaskSt.pastEntry (fun _ => rfl) ht

theorem Block.mem_of_bySerial {b : Block} {u : UnitId} {n : Nat} {t : TaskSt} (h : b.bySerial u n = some t) : t ∈ (b.unit u).board :=
  List.mem_of_find?_eq_some h

section Drain

variable {s : State} {c : Fin 128} {cycles eccCorr : Nat} {q t : TaskSt} {e : Entry32} (hr : s.block.running = true)
  (hq : s.block.portTask c 3 = some q) (ht : (s.block.seenBy q).portTask c 3 = some t) (hlist : t.listDone = false)
  (hb : s.block.bySerial (.core c) t.serial = some t) (he : (s.block.seenBy q).entryAt t t.pos = e)
include hr hq ht hlist hb he

/-- A drain operand is kept for the DRAIN that follows. -/
theorem completes_denseDrain_operand (hsrc : e.src = 3) (hopnd : t.cur.par 0x11 1 ≠ 0) (hnone : (s.block.core c.val).opnd = none)
    (hclean : entryClean e 0 = true) :
    Completes (.denseDrain c cycles eccCorr 0 .none) s (fun b =>
      (∃ t' : TaskSt, b.bySerial (.core c) t.serial = some t' ∧ t'.pos = t.after t.pos ∧ t'.phase = t.phase) ∧ b.regs = s.block.regs ∧
      b.mem = s.block.mem ∧ (b.core c.val).opnd = some (posKey t.pos) ∧ (b.core c.val).bank = (s.block.core c.val).bank) := by
  have hkeep : (s.block.seenBy q).unposted.drainOperand c t t.cur e =
      ((s.block.seenBy q).unposted.keepOperand c t).passEntry (.core c) t.serial 0 := by
    unfold Block.drainOperand
    dsimp only
    rw [Block.core_unposted, Block.core_seenBy, if_neg (by simp [hopnd, hnone, hclean])]
    rfl
  have hy := (s.block.seenBy q).unposted.keepsOperand c t
  generalize ((s.block.seenBy q).unposted.keepOperand c t).passEntry (.core c) t.serial 0 = y at hkeep hy
  refine completes_engineStep (y := y) rfl hr hq ?_ hy.posted ⟨⟨_, hy.task hb, rfl, rfl⟩, hy.regs, hy.mem, hy.opnd, hy.bank⟩
  simp only [Block.portTask_unposted, ht, hlist, Bool.false_eq_true, if_false, Block.entryAt_unposted, he, hsrc, if_true]
  exact hkeep

/-- A DRAIN whose shape breaks its limits stops its task. -/
theorem completes_denseDrain_shape {code : Nat} (hsrc : e.src = 2) (hdesc : t.cur.descC ≠ 0)
    (hcheck : drainCheck t.cur e ((s.block.seenBy q).desc t.cur.descC.toNat)
      ((s.block.core c.val).opnd.map (fun k => (s.block.seenBy q).entryAt t (k / 2 ^ 32, k % 2 ^ 32)))
      (decide (t.cur.statDesc ≠ 0) && ((s.block.seenBy q).desc t.cur.statDesc).readOnly) = some code) :
    Completes (.denseDrain c cycles eccCorr 0 .none) s (fun b => b.mem = s.block.mem ∧
      ∃ t' : TaskSt, b.bySerial (.core c) t.serial = some t' ∧ t'.phase = .finished ∧ t'.faultCode = some code) := by
  have hcheck' : drainCheck t.cur e ((s.block.seenBy q).desc t.cur.descC.toNat)
      (((s.block.core c.val).opnd.map keyPos).map (fun p => (s.block.seenBy q).entryAt t p))
      (decide (t.cur.statDesc ≠ 0) && ((s.block.seenBy q).desc t.cur.statDesc).readOnly) = some code := by
    rw [Option.map_map]
    exact hcheck
  refine completes_stops (x := (s.block.seenBy q).unposted.dropOperand c) (t := t) (busy := 0) (dry := 0) (full := cycles) rfl hr hq rfl
    (Block.running_of_arrayPort (.inr rfl) ht) hb ?_
  simp only [Block.portTask_unposted, ht, hlist, Bool.false_eq_true, if_false, Block.entryAt_unposted, he, hsrc, Nat.reduceEqDiff,
      if_true]
  unfold Block.drainEntry
  simp only [Block.core_unposted, Block.core_seenBy, Block.desc_unposted, Block.entryAt_unposted, hdesc, if_false, hcheck']
  rfl

/-- A DRAIN whose rows all go out leaves the bank and uses up its operand. -/
theorem completes_denseDrain_rows {src : Source} (hsrc : e.src = 2) (hdesc : t.cur.descC ≠ 0) (hnone : (s.block.core c.val).opnd = none)
    (hcheck : drainCheck t.cur e ((s.block.seenBy q).desc t.cur.descC.toNat) none
      (decide (t.cur.statDesc ≠ 0) && ((s.block.seenBy q).desc t.cur.statDesc).readOnly) = none)
    (hsource : (s.block.seenBy q).source ((s.block.seenBy q).desc t.cur.descC.toNat) e = some src)
    (hready : ((s.block.seenBy q).drainReady c t t.cur e src).1 = .ok)
    (hrows : ((((s.block.seenBy q).drainReady c t t.cur e src).2.drnCount c Reg.DRN_ECC_CORR eccCorr 0).drainRows c t t.cur e src none
      e.rowCount).1 = .ok) :
    Completes (.denseDrain c cycles eccCorr 0 .none) s (fun b =>
      (b.core c.val).bank = (s.block.core c.val).bank ∧ (b.core c.val).opnd = none ∧
      ∃ t' ∈ (b.unit (.core c)).board, t'.serial = t.serial ∧ t'.pos = t.after t.pos) := by
  generalize hg : (s.block.seenBy q).drainReady c t t.cur e src = g at hready hrows
  obtain ⟨ready, y⟩ := g
  generalize hz : (y.drnCount c Reg.DRN_ECC_CORR eccCorr 0).drainRows c t t.cur e src none e.rowCount = z at hrows
  obtain ⟨out, z⟩ := z
  obtain rfl : ready = .ok := hready
  obtain rfl : out = .ok := hrows
  have hkeep : s.block.KeepsBank c z := by
    have hreach := (s.block.seenBy q).keepsBank_drainReady c t t.cur e src
    have hout := (y.drnCount c Reg.DRN_ECC_CORR eccCorr 0).keepsBank_drainRows c t t.cur e src none e.rowCount
    rw [hg] at hreach
    rw [hz] at hout
    obtain ⟨hunits, hbank⟩ := (hreach.trans (y.keepsBank_drnCount c _ _ _)).trans hout
    exact ⟨hunits, hbank⟩
  refine completes_passes (x := z.unposted.dropOperand c) (t := t) (busy := 0) (dry := 0) (full := cycles) rfl hr hq rfl ?_
    fun b ⟨_, _, ⟨rem, asked, hcore⟩, _, _, hboard⟩ => ?_
  · simp only [Block.portTask_unposted, ht, hlist, Bool.false_eq_true, if_false, Block.entryAt_unposted, he, hsrc, Nat.reduceEqDiff,
      if_true]
    unfold Block.drainEntry
    simp only [Block.core_unposted, Block.core_seenBy, Block.desc_unposted, Block.entryAt_unposted, hdesc, if_false, hnone, Option.map_none,
      hcheck, Block.source_unposted, hsource, Block.drainReady_unposted, hg, silent_mk, Block.drnCount_unposted, Nat.reduceLeDiff,
      decide_false, Bool.false_and, Bool.false_eq_true, Block.drainRows_unposted, hz]
    rfl
  · have hmem : t ∈ ((z.unposted.dropOperand c).unit (.core c)).board := by
      show t ∈ (z.unit (.core c)).board
      rw [hkeep.unit]
      exact Block.mem_of_bySerial hb
    rw [Block.core_dropOperand] at hcore
    simp only [Block.core_afterStep]
    exact ⟨by rw [hcore]; exact hkeep.bank, by rw [hcore], hboard hmem⟩

end Drain

/-- Settles O28: each entry of an array task passes with what it makes of STANDBY, the bank or the operand, or stops its task. -/
theorem arrayTasksRun : Obligations.ArrayTasksRun := by
  unfold Obligations.ArrayTasksRun
  refine ⟨?_, ?_, ?_⟩
  · intro s c cycles q t v r e x key same reused passed hr hq ht hb hlist hsrc
    exact ⟨completes_denseLoad_shape hr hq ht hlist hsrc hb, fun hok hreuse => completes_denseLoad_reuses hr hq ht hlist hsrc hok hb hreuse,
      fun y w hok hreuse hload hy => completes_denseLoad_fills hr hq ht hlist hsrc hok hreuse hload hy⟩
  · intro s c cycles feedDry drainFull eccCorr q t w k y v r e x tile gear f hr hq ht hlist hsrc htile hcheck hdrains htake hk
    exact completes_denseStream hr hq ht hlist rfl hsrc htile hcheck hdrains htake hk
  · intro s c cycles eccCorr q t v r e x d fixed passed hr hq ht hb hlist
    exact ⟨fun hsrc hopnd hnone hclean => completes_denseDrain_operand hr hq ht hlist hb rfl hsrc hopnd hnone hclean,
      fun code hsrc hdesc hcheck => completes_denseDrain_shape hr hq ht hlist hb rfl hsrc hdesc hcheck,
      fun src hsrc hdesc hnone hcheck hsource hready hrows =>
        completes_denseDrain_rows hr hq ht hlist hb rfl hsrc hdesc hnone hcheck hsource hready hrows⟩

end Sys2Proof.Machine
end

section
/-! SUPPORT. How the derailleur leaves an entry: past it with its work items counted, or stopped (R45, R54, R174). -/

namespace Sys2Proof.Machine

open Sys2Proof

/-! ## A fault -/

/-- A fault leaves memory, whatever task it meets. -/
theorem Block.mem_coreFault (b : Block) (c : Fin 128) (t : TaskSt) (code : Nat) : (b.coreFault c t code).mem = b.mem := by
  unfold Block.coreFault
  cases ht : b.bySerial (.core c) t.serial with
  | none =>
    unfold Block.faultTask
    rw [ht]
  | some u =>
    by_cases hp : u.phase = .running
    · obtain ⟨y, hy, hrest, -⟩ := Block.faultTask_spec code ht hp
      rw [hy]
      exact hrest.quiet.mem
    · unfold Block.faultTask
      rw [ht]
      dsimp only
      rw [if_pos hp]

/-- The task that an operation of the derailleur finds runs. -/
theorem Block.running_of_drlTask {b : Block} {c : Fin 128} {kind op : Nat} {t : TaskSt} (h : b.drlTask c kind op = some t) :
    t.phase = .running := by
  unfold Block.drlTask at h
  obtain ⟨u, hu, hif⟩ := Option.bind_eq_some_iff.1 h
  split at hif
  · cases hif
    exact Block.running_of_portTask hu
  · cases hif

/-- A running task that has done work items and taken cycles is stopped by a fault, and memory stays as it is. -/
theorem Block.drlDone_stops {b : Block} {c : Fin 128} {t : TaskSt} (n cycles lanes code : Nat)
    (ht : b.bySerial (.core c) t.serial = some t) (hp : t.phase = .running) :
    ∃ t' : TaskSt, ((b.drlDone c t n false cycles lanes).coreFault c t code).bySerial (.core c) t.serial = some t' ∧
      t'.phase = .finished ∧ t'.faultCode = some code :=
  (Block.coreFault_stops (t := t.worked n cycles) code (Block.bySerial_drlDone n cycles lanes ht) hp).2

theorem Block.drlFinish_unposted (b : Block) (c : Fin 128) (t : TaskSt) (r : Ready) (n : Nat) (whole bad : Bool) (cycles lanes : Nat) :
    b.unposted.drlFinish c t r n whole bad cycles lanes = (b.drlFinish c t r n whole bad cycles lanes).unposted := by
  unfold Block.drlFinish Block.coreFault
  simp only [Block.drlDone_unposted, Block.coreFault_unposted, ← apply_ite Block.unposted]
  split <;> rfl

/-! ## A passed entry -/

/-- The derailleur's task has passed its entry after `n` work items: memory, the count of work items, the task, and the core, which keeps
all but what it asked of other modules for that entry. -/
structure Block.WorksOff (c : Fin 128) (t : TaskSt) (n cycles : Nat) (a b : Block) : Prop where
  mem : b.mem = a.mem
  count : b.rd64 (.drl c) Reg.DRL_ITEMS = min (a.rd64 (.drl c) Reg.DRL_ITEMS + n) (2 ^ 64 - 1)
  task : ∃ t' : TaskSt, b.bySerial (.core c) t.serial = some t' ∧ t'.pos = t.after t.pos ∧ t'.items = t.items + n ∧
    t'.cycles = t.cycles + cycles ∧ t'.phase = t.phase
  core : b.core c.val = { a.core c.val with asked := (b.core c.val).asked }

theorem Block.core_forgetAsked (b : Block) (c : Fin 128) (n : Nat) :
    (b.forgetAsked (.core c) n).core c.val = { b.core c.val with asked := ((b.forgetAsked (.core c) n).core c.val).asked } := by
  unfold Block.forgetAsked
  dsimp only
  split
  · rfl
  · rw [Block.core_setCore_self]

theorem Block.core_drlDone_whole (b : Block) (c : Fin 128) (t : TaskSt) (n cycles lanes : Nat) :
    (b.drlDone c t n true cycles lanes).core c.val =
      { b.core c.val with asked := ((b.drlDone c t n true cycles lanes).core c.val).asked } :=
  (b.drlDone c t n false cycles lanes).core_forgetAsked c t.serial

theorem Block.rd64_of_regs {a b : Block} (h : b.regs = a.regs) (p : Page) (o : Nat) : b.rd64 p o = a.rd64 p o :=
  a.rd64_other (Block.rd_of_regs h _ _) (Block.rd_of_regs h _ _)

theorem Block.regs_drlDone_whole (b : Block) (c : Fin 128) (t : TaskSt) (n cycles lanes : Nat) :
    (b.drlDone c t n true cycles lanes).regs = (b.drlDone c t n false cycles lanes).regs := by
  rw [Block.drlDone_whole, Block.regs_passEntry]

theorem Block.worksOff_drlDone {b : Block} {c : Fin 128} {t : TaskSt} (n cycles lanes : Nat) (l : List Posted)
    (h : b.bySerial (.core c) t.serial = some t) :
    b.WorksOff c t n cycles ((b.drlDone c t n true cycles lanes).afterStep l) := by
  refine ⟨?_, ?_, ⟨(t.worked n cycles).pastEntry, ?_, rfl, rfl, rfl, rfl⟩, b.core_drlDone_whole c t n cycles lanes⟩
  · rw [Block.mem_afterStep, Block.mem_drlDone]
  · rw [Block.rd64_afterStep, Block.rd64_of_regs (b.regs_drlDone_whole c t n cycles lanes), Block.items_drlDone]
  · rw [Block.bySerial_afterStep]
    exact Block.bySerial_drlDone_whole n cycles lanes h

/-- A step of the derailleur that passes its entry completes with what the account leaves. -/
theorem completes_worksOff {i : Instr} {s : State} {c : Fin 128} {q t : TaskSt} {f : Block → Block} {m : Block} {P : Block → Prop}
    (n cycles lanes : Nat) (he : exec i s = s.onBlock (Block.engine c 1 .none f)) (hr : s.block.running = true)
    (hq : s.block.portTask c 1 = some q)
    (hf : f (s.block.seenBy q).unposted = m.unposted.drlFinish c t .ok n true false cycles lanes)
    (hm : m.bySerial (.core c) t.serial = some t) (hp : ∀ b, m.WorksOff c t n cycles b → P b) : Completes i s P :=
  completes_engine (y := m.drlDone c t n true cycles lanes) he hr hq (hf.trans (m.drlFinish_unposted c t .ok n true false cycles lanes))
    (hp _ (Block.worksOff_drlDone n cycles lanes _ hm))

end Sys2Proof.Machine
end

section
/-! PROOF. O29: rows that GATHER, SCATTER_SET and SCATTER_ADD move (R177 to R183). -/

namespace Sys2Proof.Machine

open Sys2Proof

/-- The only index of an entry in range is gone through, under either policy of INDEX_FAULT. -/
theorem cutAt_of_ok {fault : Bool} {ok : Int → Bool} {i : Int} (h : ok i = true) : cutAt fault ok [i] = ([i], false) := by
  cases fault <;> simp [cutAt, h]

/-- One out of range is gone through without INDEX_FAULT. -/
theorem cutAt_of_lenient (ok : Int → Bool) (l : List Int) : cutAt false ok l = (l, false) := rfl

/-- Under INDEX_FAULT it ends the entry before it. -/
theorem cutAt_of_bad {ok : Int → Bool} {i : Int} (h : ok i = false) : cutAt true ok [i] = ([], true) := by
  simp [cutAt, h]

/-! ## GATHER -/

/-- A step of a GATHER: the row that an index names is copied, and zeros are written where it is out of range (R179, R183). -/
def Block.gatherRow (v : Block) (c : Fin 128) (t : TaskSt) (y : Block) (p : Int × Nat) : Ready × Block :=
  let e := v.entryAt t t.pos
  let s := v.desc t.task.descB.toNat
  let o := v.desc t.task.descC.toNat
  let cols := t.cut (e.kp 1) (e.kp 2)
  if inRange p.1 s.rows then
    let d := y.readRow c t true (t.task.descB.toNat, s, p.1.toNat, cols.1, cols.2)
    d.2.moveRow c t d.1 o (e.kp 0 + p.2) cols.1 cols.2 e.pageInOk
  else (y.count (.drl c) Reg.DRL_OOR 1).zeroRow c t o (e.kp 0 + p.2) cols.1 cols.2 e.pageInOk

theorem Block.gatherRow_unposted (v : Block) (c : Fin 128) (t : TaskSt) (y : Block) (p : Int × Nat) :
    v.gatherRow c t y.unposted p = silent (v.gatherRow c t y p) := by
  unfold Block.gatherRow
  simp only [Block.readRow_unposted, silent_fst, silent_snd, Block.moveRow_unposted, Block.count_unposted, Block.zeroRow_unposted,
    apply_ite silent]

/-- An entry of one row that is not empty, taken as `k` by a task that may do another work item, names one index. -/
structure Block.TakesIndex (v : Block) (c : Fin 128) (t : TaskSt) (k : Took) (i : Int) : Prop where
  full : (v.entryAt t t.pos).empty = false
  single : (v.entryAt t t.pos).rowCount = 1
  room : 1 ≤ t.room
  took : (v.take c t 1 false).1 = k
  ready : k.ready = .ok
  index : indexList k 1 = [i]

/-- A GATHER entry of one row whose index leads to `cut` has the rows that it moves at hand, and moving them leads to `m`. -/
structure Block.Gathers (v : Block) (c : Fin 128) (t : TaskSt) (k : Took) (i : Int) (cut : List Int × Bool) (m : Block) : Prop where
  takes : v.TakesIndex c t k i
  task : v.drlTask c 2 1 = some t
  wellFormed : moveEntryOk (v.entryAt t t.pos) (v.desc t.task.descC.toNat) (v.desc t.task.descB.toNat) (v.desc t.task.descC.toNat) = true
  goes : cutAt (v.desc t.task.descD.toNat).indexFault (fun i => inRange i (v.desc t.task.descB.toNat).rows) [i] = cut
  moves : let e := v.entryAt t t.pos
    let s := v.desc t.task.descB.toNat
    let cols := t.cut (e.kp 1) (e.kp 2)
    ∃ q1 q2 : Block, v.rowsReady c t true ((cut.1.filter (fun i => inRange i s.rows)).map (fun i =>
        ((t.task.descB.toNat, s, i.toNat, cols.1, cols.2) : RowWant))) e.pageInOk = (.ok, q1) ∧
      q1.rowsOpen c t (v.desc t.task.descC.toNat) ((List.range cut.1.length).map (fun i => e.kp 0 + i)) cols.1 cols.2 e.pageInOk false =
        (.ok, q2) ∧
      (q2.take c t 1 false).2.eachReady cut.1.zipIdx (v.gatherRow c t) = (.ok, m)

/-- Such an entry is gone through in one step. -/
theorem completes_gather {s : State} {c : Fin 128} {q t : TaskSt} {k : Took} {i : Int} {cut : List Int × Bool} {m : Block}
    {P : Block → Prop} (cycles lanes : Nat) (hr : s.block.running = true) (hq : s.block.portTask c 1 = some q)
    (h : (s.block.seenBy q).Gathers c t k i cut m)
    (hp : P ((m.drlFinish c t .ok (cut.1.length + b2n cut.2) true cut.2 cycles lanes).afterStep s.block.posted)) :
    Completes (.gather c cycles lanes .none) s P := by
  obtain ⟨⟨hfull, hone, hroom, htake, hk, hidx⟩, ht, hok, hcut, q1, q2, hread, hopen, hmove⟩ := h
  refine completes_engine rfl hr hq ?_ hp
  generalize s.block.seenBy q = v at *
  have hmoved := (Block.eachReady_unposted (v.gatherRow_unposted c t) cut.1.zipIdx (q2.take c t 1 false).2).trans (congrArg silent hmove)
  simp only [Block.drlTask_unposted, ht, Block.desc_unposted, Block.entryAt_unposted, hok, Bool.not_true, Bool.false_eq_true, if_false,
    Block.take_unposted, htake, silent_fst, hk, hfull, hone, Nat.min_eq_left hroom, hidx, hcut, Block.rowsReady_unposted, hread,
    silent_snd, Block.rowsOpen_unposted, hopen, beq_self_eq_true]
  exact (congrArg (fun z : Ready × Block => z.2.drlFinish c t z.1 (cut.1.length + b2n cut.2) true cut.2 cycles lanes) hmoved).trans
    (m.drlFinish_unposted c t .ok _ true _ cycles lanes)

/-! ## Scatters -/

/-- A scatter entry of one row whose index is in range has the row that it reads at hand in `q1`. -/
structure Block.Scatters (v : Block) (c : Fin 128) (t : TaskSt) (k : Took) (i : Int) (want : RowWant) (q1 : Block) : Prop where
  takes : v.TakesIndex c t k i
  wellFormed : moveEntryOk (v.entryAt t t.pos) (v.desc t.task.descA.toNat) (v.desc t.task.descA.toNat) (v.desc t.task.descC.toNat) = true
  within : inRange i (v.desc t.task.descC.toNat).rows = true
  wants : want = (t.task.descA.toNat, v.desc t.task.descA.toNat, (v.entryAt t t.pos).kp 0,
    t.cut ((v.entryAt t t.pos).kp 1) ((v.entryAt t t.pos).kp 2))
  read : v.rowsReady c t true [want] (v.entryAt t t.pos).pageInOk = (.ok, q1)

/-- Such a SCATTER_SET entry, whose row is opened and written, is passed. -/
theorem completes_scatterSet {s : State} {c : Fin 128} {q t : TaskSt} {k : Took} {i : Int} {want : RowWant} {q1 q2 m : Block}
    {P : Block → Prop} (cycles lanes : Nat) (hr : s.block.running = true) (hq : s.block.portTask c 1 = some q)
    (h : (s.block.seenBy q).Scatters c t k i want q1) (ht : (s.block.seenBy q).drlTask c 2 3 = some t)
    (hopen : q1.rowsOpen c t ((s.block.seenBy q).desc t.task.descC.toNat) [i.toNat] want.2.2.2.1 want.2.2.2.2
      ((s.block.seenBy q).entryAt t t.pos).pageInOk false = (.ok, q2))
    (hmove : let a := ((q2.take c t 1 false).2.count (.drl c) Reg.DRL_OOR 0).readRow c t true want
      a.2.moveRow c t a.1 ((s.block.seenBy q).desc t.task.descC.toNat) i.toNat want.2.2.2.1 want.2.2.2.2
        ((s.block.seenBy q).entryAt t t.pos).pageInOk = (.ok, m))
    (hm : m.bySerial (.core c) t.serial = some t) (hp : ∀ b, m.WorksOff c t 1 cycles b → P b) :
    Completes (.scatterSet c cycles lanes .none) s P := by
  obtain ⟨⟨hfull, hone, hroom, htake, hk, hidx⟩, hok, hin, rfl, hread⟩ := h
  refine completes_worksOff 1 cycles lanes rfl hr hq ?_ hm hp
  generalize s.block.seenBy q = v at *
  have hcut : ∀ fault, cutAt fault (fun i => inRange i (v.desc t.task.descC.toNat).rows) [i] = ([i], false) := fun _ => cutAt_of_ok hin
  dsimp only at hopen hmove
  simp only [Block.drlTask_unposted, ht, Block.desc_unposted, Block.entryAt_unposted, hok, Bool.not_true, Bool.false_eq_true, if_false,
    Block.take_unposted, htake, silent_fst, hk, hfull, hone, Nat.min_eq_left hroom, hidx, hcut, List.zipIdx_cons, List.zipIdx_nil,
    hin, List.filter_cons_of_pos, List.filter_nil, List.map_cons, List.map_nil, Nat.add_zero, Block.rowsReady_unposted, hread, silent_snd,
    show [i.toNat].eraseDups = [i.toNat] from rfl, Block.rowsOpen_unposted, hopen, List.length_cons, List.length_nil, Nat.sub_self,
    Bool.not_false, if_true, Block.count_unposted, Block.eachReady_single, Block.readRow_unposted, Block.moveRow_unposted, hmove,
    beq_self_eq_true]
  rfl

/-- Opening in turn the rows of sums that are due. -/
def Block.openSums (b : Block) (c : Fin 128) (t : TaskSt) (o : Desc) (l : List RowSum) : Ready × Block :=
  b.eachReady l (fun y g => y.rowsOpen c t o [g.row] g.first g.cols g.pageIn true)

theorem Block.openSums_unposted (b : Block) (c : Fin 128) (t : TaskSt) (o : Desc) (l : List RowSum) :
    b.unposted.openSums c t o l = silent (b.openSums c t o l) :=
  Block.eachReady_unposted (fun y g => y.rowsOpen_unposted c t o [g.row] g.first g.cols g.pageIn true) l b

theorem Block.addSums_unposted (b : Block) (c : Fin 128) (t : TaskSt) (o : Desc) (int : Bool) (l : List RowSum) :
    b.unposted.addSums c t o int l = silent (b.addSums c t o int l) :=
  Block.eachReady_unposted (fun y g => y.addInto_unposted c t o g.row g.first int g.vals g.pageIn) l b

theorem Block.planSums_unposted (b : Block) (c : Fin 128) (l : List (RowWant × Nat)) (pageIn : Bool) :
    b.unposted.planSums c l pageIn = b.planSums c l pageIn := rfl

theorem Block.contribute_unposted (b : Block) (c : Fin 128) (t : TaskSt) (w : RowWant) (row : Nat) (int pageIn : Bool) :
    b.unposted.contribute c t w row int pageIn = silent (b.contribute c t w row int pageIn) := by
  unfold Block.contribute
  simp only [Block.readRow_unposted, silent_fst, silent_snd, Block.core_unposted, Block.setCore_unposted, silent_mk]

/-- Such a SCATTER_ADD entry, whose sums that are due are opened, joined by its row and added, is passed. -/
theorem completes_scatterAdd {s : State} {c : Fin 128} {q t : TaskSt} {k : Took} {i : Int} {want : RowWant} {q1 q2 m : Block}
    {P : Block → Prop} (cycles lanes : Nat) (hr : s.block.running = true) (hq : s.block.portTask c 1 = some q)
    (h : (s.block.seenBy q).Scatters c t k i want q1) (ht : (s.block.seenBy q).drlTask c 2 2 = some t)
    (hopen : let plan := (s.block.seenBy q).planSums c [(want, i.toNat)] ((s.block.seenBy q).entryAt t t.pos).pageInOk
      q1.openSums c t ((s.block.seenBy q).desc t.task.descC.toNat) (sumsDue plan.1 plan.2 t.advance.listDone) = (.ok, q2))
    (hadd : let v := s.block.seenBy q
      let int := (v.desc t.task.descA.toNat).format == 9 && (v.desc t.task.descC.toNat).format == 9
      let a := ((q2.take c t 1 false).2.count (.drl c) Reg.DRL_OOR 0).contribute c t want i.toNat int (v.entryAt t t.pos).pageInOk
      let w := a.2.core c.val
      let sums := sumsDue w.sums w.requests t.advance.listDone
      poisonStop [a.1] = none ∧ (a.2.setCore c.val { w with sums := w.sums.filter (fun g => !sums.contains g) }).addSums c t
        (v.desc t.task.descC.toNat) int sums = (.ok, m))
    (hm : m.bySerial (.core c) t.serial = some t) (hp : ∀ b, m.WorksOff c t 1 cycles b → P b) :
    Completes (.scatterAdd c cycles lanes .none) s P := by
  obtain ⟨⟨hfull, hone, hroom, htake, hk, hidx⟩, hok, hin, rfl, hread⟩ := h
  refine completes_worksOff 1 cycles lanes rfl hr hq ?_ hm hp
  generalize s.block.seenBy q = v at *
  have hcut : ∀ fault, cutAt fault (fun i => inRange i (v.desc t.task.descC.toNat).rows) [i] = ([i], false) := fun _ => cutAt_of_ok hin
  dsimp only at hopen hadd
  obtain ⟨hclean, hsum⟩ := hadd
  have hopened := q1.openSums_unposted c t (v.desc t.task.descC.toNat) _ |>.trans (congrArg silent hopen)
  unfold Block.openSums Block.eachReady at hopened
  simp only [Block.drlTask_unposted, ht, Block.desc_unposted, Block.entryAt_unposted, hok, Bool.not_true, Bool.false_eq_true, if_false,
    Block.take_unposted, htake, silent_fst, hk, hfull, hone, Nat.min_eq_left hroom, hidx, hcut, List.zipIdx_cons, List.zipIdx_nil,
    hin, List.filter_cons_of_pos, List.filter_nil, List.map_cons, List.map_nil, Nat.add_zero, Block.rowsReady_unposted, hread, silent_mk,
    Block.planSums_unposted, Bool.false_or, beq_self_eq_true, if_true, hopened, List.length_cons, List.length_nil, Nat.sub_self,
    Block.count_unposted, List.foldl_cons, List.foldl_nil, Block.contribute_unposted, List.nil_append, hclean, Block.core_unposted,
    Block.setCore_unposted, Block.addSums_unposted, hsum, silent_snd]
  rfl

/-! ## The statement -/

/-- Settles O29: what a GATHER or a scatter reads and writes does not look at the events of the cycle, so that the step leaves the memory of
the premisses; the account of the step then counts the work item and passes the entry, and a faulting index stops the task. -/
theorem derailleurMovesRows : Obligations.DerailleurMovesRows := by
  unfold Obligations.DerailleurMovesRows
  intro s c cycles lanes q t k y i q1 q2 v r e o x cols z moved hr hq hfull hone hroom htake hk hidx
  have htakes : v.TakesIndex c t k i := ⟨hfull, hone, hroom, congrArg Prod.fst htake, hk, hidx⟩
  have hmoved : ∀ {m b : Block}, m.WorksOff c t 1 cycles b → moved m b := fun h => ⟨h.mem, h.count, h.task⟩
  refine ⟨?_, ?_⟩
  · intro d want ht hok
    refine ⟨?_, ?_, ?_⟩
    · intro hin hread hopen a m hm hb
      refine completes_gather (k := k) (i := i) (cut := ([i], false)) (m := m.2) cycles lanes hr hq
        ⟨htakes, ht, hok, cutAt_of_ok hin, q1, q2, ?_, hopen, ?_⟩ (hmoved (Block.worksOff_drlDone 1 cycles lanes _ hb))
      · rw [List.filter_cons_of_pos (by exact hin)]
        exact hread
      · exact (Block.eachReady_single _ _ _).trans ((if_pos hin).trans (Prod.ext hm rfl))
    · intro hout hlax hread hopen m hm hb
      refine completes_gather (k := k) (i := i) (cut := ([i], false)) (m := m.2) cycles lanes hr hq
        ⟨htakes, ht, hok, (congrArg (fun f => cutAt f _ [i]) hlax).trans (cutAt_of_lenient _ _), q1, q2, ?_, hopen, ?_⟩
        (hmoved (Block.worksOff_drlDone 1 cycles lanes _ hb))
      · rw [List.filter_cons_of_neg (by exact Bool.not_eq_true _ ▸ hout)]
        exact hread
      · exact (Block.eachReady_single _ _ _).trans ((if_neg (Bool.not_eq_true _ ▸ hout)).trans (Prod.ext hm rfl))
    · intro hout hfault hread hopen
      refine completes_gather (k := k) (i := i) (cut := ([], true)) (m := z) cycles lanes hr hq
        ⟨htakes, ht, hok, (congrArg (fun f => cutAt f _ [i]) hfault).trans (cutAt_of_bad hout), q1, q2, hread, hopen, rfl⟩ ⟨?_, ?_⟩
      · rw [Block.mem_afterStep]
        exact (Block.mem_coreFault _ c t _).trans (Block.mem_drlDone z c t _ _ cycles lanes)
      · intro hb
        rw [Block.bySerial_afterStep]
        exact Block.drlDone_stops _ cycles lanes _ hb (Block.running_of_drlTask ht)
  · intro d want hok hin hread
    have hscatters : v.Scatters c t k i want q1 := ⟨htakes, hok, hin, rfl, hread⟩
    refine ⟨?_, ?_⟩
    · intro ht hopen a m hm hb
      exact completes_scatterSet cycles lanes hr hq hscatters ht hopen (Prod.ext hm rfl) hb fun _ => hmoved
    · intro ht int plan hopen a w sums m hclean hm hb
      exact completes_scatterAdd cycles lanes hr hq hscatters ht hopen ⟨hclean, Prod.ext hm rfl⟩ hb fun _ => hmoved

end Sys2Proof.Machine
end

section
/-! SUPPORT. A row that the derailleur writes leaves the words of its page (R195). -/

namespace Sys2Proof.Machine

open Sys2Proof

/-- The words of a core's derailleur page are the same. -/
def Block.KeepsDrl (c : Fin 128) (a b : Block) : Prop := ∀ o, o < 4096 → b.rd (.drl c) o = a.rd (.drl c) o

theorem Block.KeepsDrl.refl (c : Fin 128) (a : Block) : a.KeepsDrl c a := fun _ _ => rfl

theorem Block.KeepsDrl.trans {c : Fin 128} {a b d : Block} (h : a.KeepsDrl c b) (k : b.KeepsDrl c d) : a.KeepsDrl c d :=
  fun o ho => (k o ho).trans (h o ho)

theorem Block.KeepsDrl.rd64 {c : Fin 128} {a b : Block} (h : a.KeepsDrl c b) {o : Nat} (ho : o + 4 < 4096) :
    b.rd64 (.drl c) o = a.rd64 (.drl c) o := a.rd64_other (h o (by omega)) (h (o + 4) ho)

theorem Block.keepsDrl_of_regs {c : Fin 128} {a b : Block} (h : b.regs = a.regs) : a.KeepsDrl c b := fun o _ => Block.rd_of_regs h _ o

theorem Block.Accessed.keepsDrl (c : Fin 128) {a b : Block} (h : a.Accessed b) : a.KeepsDrl c b := fun o ho => h.rd _ o ho rfl

theorem Block.keepsDrl_wr (c : Fin 128) (b : Block) {p : Page} (o : Nat) (v : Word) (hp : p ≠ .drl c) (ho : o < 4096) :
    b.KeepsDrl c (b.wr p o v) := fun _ hr => b.rd_wr_other v ho hr (.inl hp.symm)

theorem Block.keepsDrl_count (c : Fin 128) (b : Block) {p : Page} (o n : Nat) (hp : p ≠ .drl c) (ho : o + 4 < 4096) :
    b.KeepsDrl c (b.count p o n) := fun _ hr => b.rd_count_other n ho hr (.inl hp.symm)

/-- Steps in turn, each taken only while all before it went well. -/
theorem Block.keepsDrl_foldl (c : Fin 128) {α ι : Type} {f : α × Block → ι → α × Block}
    (h : ∀ (p : α × Block) i, p.2.KeepsDrl c (f p i).2) (l : List ι) (p : α × Block) : p.2.KeepsDrl c (l.foldl f p).2 :=
  List.foldlRecOn (motive := fun q : α × Block => p.2.KeepsDrl c q.2) _ _ (.refl c p.2) fun _ hq i _ => hq.trans (h _ i)

theorem Block.keepsDrl_drnCount (c k : Fin 128) (b : Block) {o : Nat} (n q : Nat) (ho : o + 4 < 4096) :
    b.KeepsDrl c (b.drnCount k o n q) := by
  unfold Block.drnCount
  split
  · exact .refl c b
  · exact (b.keepsDrl_count c o n (by simp) ho).trans (Block.keepsDrl_wr c _ _ _ (by simp) (by decide))

theorem Block.keepsDrl_requestPageIn (c : Fin 128) (b : Block) (v : Nat) (why : MoveWhy) (owner : Option Nat) :
    b.KeepsDrl c (b.requestPageIn v why owner) := by
  unfold Block.requestPageIn
  split
  · exact Block.keepsDrl_of_regs rfl
  · split
    · split
      · exact b.keepsDrl_count c _ 1 (by simp) (by decide)
      · exact .refl c b
    · exact Block.keepsDrl_of_regs rfl

theorem Block.keepsDrl_demand (c : Fin 128) (b : Block) (t : TaskSt) (l : List (Nat × Nat)) (i : Bool) :
    b.KeepsDrl c (b.demand t l i).2 := by
  unfold Block.demand
  refine Block.keepsDrl_foldl c (fun p r => ?_) l (Ready.ok, b)
  repeat' split
  case h_5.isFalse.isFalse => exact Block.keepsDrl_requestPageIn c _ _ _ _
  all_goals exact .refl c _

theorem Block.keepsDrl_send (c : Fin 128) (b : Block) (p : Packet) : b.KeepsDrl c (b.send p).2 := by
  unfold Block.send
  split
  · exact .refl c b
  · split
    · exact Block.keepsDrl_of_regs rfl
    · split
      · exact Block.keepsDrl_of_regs rfl
      · exact b.keepsDrl_count c _ 1 (by simp) (by decide)

theorem Block.keepsDrl_request (c : Fin 128) (b : Block) (o : ReqOwner) (d k q n a : Nat) (l : List Byte) :
    b.KeepsDrl c (b.request o d k q n a l).2 := by
  have hsend := b.keepsDrl_send c (b.packet d k q n b.lly.nextTag a l)
  unfold Block.request
  dsimp only
  split
  · exact hsend.trans (Block.keepsDrl_of_regs rfl)
  · exact hsend

theorem Block.keepsDrl_taskWrite (c : Fin 128) (b : Block) (t : TaskSt) (tile : Option (Fin 16)) (w : List (Nat × List Byte)) (i : Bool) :
    b.KeepsDrl c (b.taskWrite t tile w i).2 := by
  have hdemand := b.keepsDrl_demand c t (w.map (fun x => (x.1, x.2.length))) i
  unfold Block.taskWrite
  dsimp only
  split
  · exact .refl c b
  · split
    · refine hdemand.trans (Block.Accessed.keepsDrl c (Block.accessed_foldl (fun x p => ?_) w _))
      split
      · exact ((x.accessed_lookups _ _).trans (Block.accessed_storeAs _ _ _ _ _ _ _)).trans (Block.accessed_dropLines _ _ _ _ _)
      · exact (x.accessed_lookups _ _).trans (Block.accessed_storeAs _ _ _ _ _ _ _)
    · exact hdemand

theorem Block.keepsDrl_writeOut (c : Fin 128) (b : Block) (t : TaskSt) (h : Nat) (w : List (Nat × List Byte)) (i : Bool) :
    b.KeepsDrl c (b.writeOut c t h w i).2 := by
  unfold Block.writeOut
  split
  · exact b.keepsDrl_taskWrite c t _ w i
  · refine Block.keepsDrl_foldl c (fun p r => ?_) _ (Ready.ok, b)
    dsimp only
    split
    · have hreq := p.2.keepsDrl_request c (.task (.core c) t.serial) (h - 1) 1 Op.write r.2.length r.1 r.2
      split
      · exact hreq.trans ((Block.accessed_dropLines _ _ _ _ _).keepsDrl c)
      · exact hreq
    · exact .refl c _

theorem Block.keepsDrl_keepRemote (c : Fin 128) (b : Block) (h : Nat) (w : List (Nat × List Byte)) : b.KeepsDrl c (b.keepRemote h w) := by
  unfold Block.keepRemote
  split <;> exact Block.keepsDrl_of_regs rfl

theorem Block.keepsDrl_writeRow (c : Fin 128) (b : Block) (t : TaskSt) (o : Desc) (row c0 : Nat) (codes scales : List Nat) (i : Bool) :
    b.KeepsDrl c (b.writeRow c t o row c0 codes scales i).2 := by
  unfold Block.writeRow
  refine List.foldlRecOn (motive := fun q : (Ready × Block) × (List Nat × List Nat) => b.KeepsDrl c q.1.2) _ _ (.refl c b)
    fun p hp s _ => ?_
  dsimp only
  split
  · exact hp.trans ((Block.keepsDrl_keepRemote c _ _ _).trans (Block.keepsDrl_writeOut c _ _ _ _ _))
  · exact hp

theorem drnFormat_lt {f : Nat} (hf : f < 10) : Reg.DRN_OVF f + 4 < 4096 ∧ Reg.DRN_VANISH f + 4 < 4096 := by
  unfold Reg.DRN_OVF Reg.DRN_VANISH
  omega

/-- A FORMAT code that the table does not have converts to nothing and counts nothing. -/
theorem toFormat_of_unknown {f : Nat} (hf : 10 ≤ f) (rd : Rounding) (i : Bool) (v : Num) :
    toFormat f rd i v = ⟨0, false, false, false⟩ := by
  obtain ⟨n, rfl⟩ := Nat.exists_eq_add_of_le' hf
  rfl

theorem length_filter_false {α : Type} {f : α → Bool} {l : List α} (h : ∀ x ∈ l, f x = false) : (l.filter f).length = 0 := by
  rw [List.filter_eq_nil_iff.2 fun x hx => by simp [h x hx]]
  rfl

/-- Nothing overflowed and nothing vanished. -/
def Conv.Exact (v : Conv) : Prop := v.ovf = 0 ∧ v.vanish = 0

theorem Conv.Exact.append {x y : Conv} (hx : x.Exact) (hy : y.Exact) : (x.append y).Exact :=
  ⟨by unfold Conv.append; rw [hx.1, hy.1], by unfold Conv.append; rw [hx.2, hy.2]⟩

theorem convBlock_exact {f : Nat} (hf : 10 ≤ f) (e : Nat) (l : List (Num × Rounding)) (i : Bool) : (convBlock f e l i).Exact := by
  unfold convBlock
  split
  · exact ⟨rfl, rfl⟩
  · constructor <;>
    · refine length_filter_false fun x hx => ?_
      obtain ⟨v, -, rfl⟩ := List.mem_map.1 hx
      rw [toFormat_of_unknown hf]

/-- A conversion into a FORMAT that the table does not have counts neither. -/
theorem Desc.convert_exact (d : Desc) (hf : 10 ≤ d.format) (c : Nat) (l : List (Num × Rounding)) (i : Bool) :
    (d.convert c l i).Exact := by
  unfold Desc.convert
  split
  · refine List.foldlRecOn (motive := Conv.Exact) _ _ ⟨rfl, rfl⟩ fun x hx y hy => ?_
    obtain ⟨p, -, rfl⟩ := List.mem_map.1 hy
    exact hx.append (convBlock_exact hf _ _ _)
  · constructor <;>
    · refine length_filter_false fun x hx => ?_
      obtain ⟨v, -, rfl⟩ := List.mem_map.1 hx
      rw [toFormat_of_unknown hf]

theorem Block.drnCount_zero (b : Block) (c : Fin 128) (o q : Nat) : b.drnCount c o 0 q = b := if_pos rfl

/-- The counts of a conversion stand in the drain's page, and none is made for a FORMAT that the table does not have. -/
theorem Block.keepsDrl_countConv (c : Fin 128) (b : Block) (d : Desc) (k : Nat) (l : List (Num × Rounding)) (i : Bool) :
    b.KeepsDrl c (b.countConv c d.format (d.convert k l i)) := by
  unfold Block.countConv Block.drnOvf Block.drnVanish
  refine .trans ?_ (Block.keepsDrl_drnCount c c _ _ 3 (by decide))
  by_cases hf : d.format < 10
  · obtain ⟨hovf, hvanish⟩ := drnFormat_lt hf
    exact (b.keepsDrl_drnCount c c _ 1 hovf).trans (Block.keepsDrl_drnCount c c _ _ 2 hvanish)
  · obtain ⟨hovf, hvanish⟩ := d.convert_exact (Nat.le_of_not_lt hf) k l i
    rw [hovf, hvanish, Block.drnCount_zero, Block.drnCount_zero]
    exact .refl c b

theorem Block.keepsDrl_putRow (c : Fin 128) (b : Block) (t : TaskSt) (o : Desc) (row c0 : Nat) (l : List Num) (i : Bool) :
    b.KeepsDrl c (b.putRow c t o row c0 false l i).2 :=
  (b.keepsDrl_countConv c o c0 _ false).trans (Block.keepsDrl_writeRow c _ t o row c0 _ _ i)

end Sys2Proof.Machine
end

section
/-! PROOF. O31: a SELECT entry of one row, and CAPACITY reached (R174, R191, R192). -/

namespace Sys2Proof.Machine

open Sys2Proof

/-! ## Events take no part in a SELECT -/

@[simp] theorem Block.selectPlan_unposted (b : Block) (c : Fin 128) (t : TaskSt) (mk : Desc) (e : Entry32) :
    b.unposted.selectPlan c t mk e = b.selectPlan c t mk e := rfl

@[simp] theorem Block.selectReady_unposted (b : Block) (c : Fin 128) (t : TaskSt) (e : Entry32) :
    b.unposted.selectReady c t e = silent (b.selectReady c t e) := by
  have hwants : ∀ mk : Desc, b.unposted.maskWants t mk e (decide ((b.unposted.core c.val).predMode = 1)) =
      b.maskWants t mk e (decide ((b.core c.val).predMode = 1)) := fun _ => rfl
  unfold Block.selectReady
  simp only [Block.desc_unposted, hwants, Block.rowsReady_unposted, silent_fst, silent_snd, Block.selectPlan_unposted]
  split
  · split <;> simp [*]
  · simp [*]

@[simp] theorem Block.selectRow_unposted (b : Block) (c : Fin 128) (t : TaskSt) (p : Nat × List (Nat × Bool × Nat × Bool)) :
    b.unposted.selectRow c t p = silent (b.selectRow c t p) := by
  have hread : ∀ (r : Bool) (x : Block) (co : Bool) (w : RowWant), (if r then silent (x.readRow c t co w)
      else ({ parts := [], bad := [] }, x.unposted)) = silent (if r then x.readRow c t co w else ({ parts := [], bad := [] }, x)) :=
    fun r _ _ _ => by cases r <;> rfl
  unfold Block.selectRow
  simp only [Block.desc_unposted, Block.core_unposted, Block.readRow_unposted, silent_fst, silent_snd, hread]
  exact foldl_silent (fun q k => by simp only [silent_fst, silent_snd, Block.readRow_unposted, hread, silent_mk]) _ _ _

@[simp] theorem Block.selectBlock_unposted (b : Block) (c : Fin 128) (t : TaskSt) (e : Entry32) :
    b.unposted.selectBlock c t e = silent (b.selectBlock c t e) := by
  unfold Block.selectBlock
  rw [Block.selectPlan_unposted, Block.desc_unposted]
  exact foldl_silent (fun p k => by simp only [silent_fst, silent_snd, Block.selectRow_unposted, silent_mk]) _ _ b

@[simp] theorem Block.selectCount_unposted (b : Block) (c : Fin 128) (ps : List (List Pair)) :
    b.unposted.selectCount c ps = (b.selectCount c ps).unposted := by
  unfold Block.selectCount
  simp only [Block.count_unposted, Block.drnOvf_unposted]

/-! ## Counters -/

/-- A counter does not meet one whose words lie elsewhere in its page. -/
theorem Block.rd64_count_apart (b : Block) (p : Page) {o r : Nat} (n : Nat) (ho : o + 4 < 4096) (hr : r + 4 < 4096)
    (h : r + 4 < o ∨ o + 4 < r) : (b.count p o n).rd64 p r = b.rd64 p r :=
  b.rd64_other (b.rd_count_other n ho (by omega) (.inr (by omega))) (b.rd_count_other n ho (by omega) (.inr (by omega)))

/-- The account of a step leaves the counters behind that of the work items. -/
theorem Block.rd64_drlDone_later (b : Block) (c : Fin 128) (t : TaskSt) (n cycles lanes : Nat) {r : Nat} (h : Reg.DRL_ITEMS + 4 < r)
    (hr : r + 4 < 4096) : (b.drlDone c t n true cycles lanes).rd64 (.drl c) r = b.rd64 (.drl c) r := by
  have hstat : ∀ (x : Block) (v : Word), (x.wr (.drl c) Reg.STAT v).rd64 (.drl c) r = x.rd64 (.drl c) r := fun x v =>
    x.rd64_other (x.rd_wr_other v (by decide) (by omega) (.inr (Nat.ne_of_gt (Nat.lt_trans (by decide) h))))
      (x.rd_wr_other v (by decide) hr (.inr (Nat.ne_of_gt (Nat.lt_trans (by decide) (Nat.lt_add_right 4 h)))))
  rw [Block.rd64_of_regs (b.regs_drlDone_whole c t n cycles lanes)]
  unfold Block.drlDone Block.wrField
  dsimp only [Bool.false_eq_true, if_false]
  rw [if_neg (by decide), hstat, Block.rd64_count_apart _ _ _ (by decide) hr (.inr (Nat.lt_trans (by decide) h)),
    Block.rd64_count_apart _ _ _ (by decide) hr (.inr (Nat.lt_trans (by decide) h)),
    Block.rd64_count_apart _ _ _ (by decide) hr (.inr h)]
  rfl

/-- The pairs of a row are counted: each predictor counter of `b` is that of `a` and the pairs that it counts. -/
structure Block.Tallied (c : Fin 128) (l : List Pair) (a b : Block) : Prop where
  skipped : b.rd64 (.drl c) Reg.DRL_PRED_SKIPPED =
    min (a.rd64 (.drl c) Reg.DRL_PRED_SKIPPED + (l.filter (fun p => p.skipped)).length) (2 ^ 64 - 1)
  sampled : b.rd64 (.drl c) Reg.DRL_PRED_SAMPLED =
    min (a.rd64 (.drl c) Reg.DRL_PRED_SAMPLED + (l.filter (fun p => p.sampled)).length) (2 ^ 64 - 1)
  makeup : b.rd64 (.drl c) Reg.DRL_PRED_MAKEUP =
    min (a.rd64 (.drl c) Reg.DRL_PRED_MAKEUP + (l.filter (fun p => p.makeup)).length) (2 ^ 64 - 1)
  miss : b.rd64 (.drl c) Reg.DRL_PRED_MISS =
    min (a.rd64 (.drl c) Reg.DRL_PRED_MISS + (l.filter (fun p => p.miss)).length) (2 ^ 64 - 1)
  items : b.rd64 (.drl c) Reg.DRL_ITEMS = a.rd64 (.drl c) Reg.DRL_ITEMS

theorem Block.Tallied.keepsDrl {c : Fin 128} {l : List Pair} {a b d : Block} (h : a.Tallied c l b) (k : b.KeepsDrl c d) :
    a.Tallied c l d :=
  ⟨(k.rd64 (by decide)).trans h.skipped, (k.rd64 (by decide)).trans h.sampled, (k.rd64 (by decide)).trans h.makeup,
    (k.rd64 (by decide)).trans h.miss, (k.rd64 (by decide)).trans h.items⟩

/-- The four counters of pairs stand apart, and overflows count in the drain's page. -/
theorem Block.tallied_selectCount (c : Fin 128) (b : Block) (l : List Pair) : b.Tallied c l (b.selectCount c [l]) := by
  have hpage : ∀ (x : Block) (n : Nat), x.KeepsDrl c (x.drnOvf c 1 n) := fun x n => x.keepsDrl_drnCount c c n 1 (by decide)
  unfold Block.selectCount
  rw [List.flatMap_singleton]
  refine Block.Tallied.keepsDrl ⟨?_, ?_, ?_, ?_, ?_⟩ (hpage _ _)
  · rw [Block.rd64_count_apart _ _ _ (by decide) (by decide) (.inl (by decide)),
      Block.rd64_count_apart _ _ _ (by decide) (by decide) (.inl (by decide)),
      Block.rd64_count_apart _ _ _ (by decide) (by decide) (.inl (by decide)), Block.rd64_count _ _ _ _ (by decide)]
  · rw [Block.rd64_count_apart _ _ _ (by decide) (by decide) (.inl (by decide)),
      Block.rd64_count_apart _ _ _ (by decide) (by decide) (.inl (by decide)), Block.rd64_count _ _ _ _ (by decide),
      Block.rd64_count_apart _ _ _ (by decide) (by decide) (.inr (by decide))]
  · rw [Block.rd64_count _ _ _ _ (by decide), Block.rd64_count_apart _ _ _ (by decide) (by decide) (.inr (by decide)),
      Block.rd64_count_apart _ _ _ (by decide) (by decide) (.inr (by decide)),
      Block.rd64_count_apart _ _ _ (by decide) (by decide) (.inr (by decide))]
  · rw [Block.rd64_count_apart _ _ _ (by decide) (by decide) (.inl (by decide)), Block.rd64_count _ _ _ _ (by decide),
      Block.rd64_count_apart _ _ _ (by decide) (by decide) (.inr (by decide)),
      Block.rd64_count_apart _ _ _ (by decide) (by decide) (.inr (by decide))]
  · rw [Block.rd64_count_apart _ _ _ (by decide) (by decide) (.inl (by decide)),
      Block.rd64_count_apart _ _ _ (by decide) (by decide) (.inl (by decide)),
      Block.rd64_count_apart _ _ _ (by decide) (by decide) (.inl (by decide)),
      Block.rd64_count_apart _ _ _ (by decide) (by decide) (.inl (by decide))]

/-! ## SELECT -/

/-- A share with work in an entry of one row has that row (R48). -/
theorem TaskSt.selectSpan_single {t : TaskSt} {e : Entry32} (hfull : e.empty = false) (hone : e.rowCount = 1)
    (hcols : (t.cut e.colStart e.colCount).2 ≠ 0) : t.selectSpan e = ([e.rowStart], t.cut e.colStart e.colCount) := by
  unfold TaskSt.selectSpan
  simp [hfull, hone, hcols]

/-- A SELECT entry of one row, in which the task has work, has what it reads and writes at hand; its pairs are `l`, all that it read is
sound, CAPACITY admits its work items, and the row counted and written leads from `y` to `m`. -/
structure Block.Selects (v : Block) (c : Fin 128) (t : TaskSt) (l : List Pair) (y m : Block) : Prop where
  task : v.drlTask c 2 5 = some t
  wellFormed : selectOk (v.entryAt t t.pos) (v.desc t.task.descA.toNat) (v.desc t.task.descB.toNat) (v.desc t.task.descC.toNat) = true
  full : (v.entryAt t t.pos).empty = false
  single : (v.entryAt t t.pos).rowCount = 1
  working : (t.cut (v.entryAt t t.pos).colStart (v.entryAt t t.pos).colCount).2 ≠ 0
  reads : let e := v.entryAt t t.pos
    let cols := t.cut e.colStart e.colCount
    ∃ (q1 q2 : Block) (read : List RowData), v.selectReady c t e = (.ok, q1) ∧
      q1.rowsOpen c t (v.desc t.task.descC.toNat) [e.rowStart] cols.1 cols.2 e.pageInOk false = (.ok, q2) ∧
      q2.selectBlock c t e = (([l], read), y) ∧ poisonStop read = none
  fits : selectItems [l] ≤ t.room
  writes : (y.selectCount c [l]).putRow c t (v.desc t.task.descC.toNat) (v.entryAt t t.pos).rowStart
    (t.cut (v.entryAt t t.pos).colStart (v.entryAt t t.pos).colCount).1 false (l.map (fun k => k.val)) (v.entryAt t t.pos).pageInOk =
    (.ok, m)

/-- Such an entry is passed in one step. -/
theorem completes_select {s : State} {c : Fin 128} {q t : TaskSt} {l : List Pair} {y m : Block} {P : Block → Prop} (cycles lanes : Nat)
    (hr : s.block.running = true) (hq : s.block.portTask c 1 = some q) (h : (s.block.seenBy q).Selects c t l y m)
    (hp : P ((m.drlDone c t (selectItems [l]) true cycles lanes).afterStep s.block.posted)) :
    Completes (.select c cycles lanes .none) s P := by
  obtain ⟨ht, hok, hfull, hone, hcols, ⟨q1, q2, read, hready, hopen, hblock, hclean⟩, hfits, hput⟩ := h
  refine completes_engine rfl hr hq ?_ hp
  generalize s.block.seenBy q = v at *
  simp only [Block.drlTask_unposted, ht, Block.desc_unposted, Block.entryAt_unposted, hok, Bool.not_true, Bool.false_eq_true, if_false,
    TaskSt.selectSpan_single hfull hone hcols, Block.selectReady_unposted, hready, silent_mk, Block.rowsOpen_unposted, hopen,
    Block.selectBlock_unposted, hblock, hclean, Nat.not_lt.2 hfits, Block.selectCount_unposted, List.zip_cons_cons, List.zip_nil_right,
    Block.eachReady_single, Block.putRow_unposted, hput]
  exact m.drlFinish_unposted c t .ok _ true false cycles lanes

/-! ## The statement -/

/-- Settles O31: what a SELECT reads and writes does not look at the events of the cycle, and neither the row written nor the account of the
step meets the predictor's counters; at CAPACITY with another work item due the step is a fault. -/
theorem selectCountsItsPairs : Obligations.SelectCountsItsPairs := by
  unfold Obligations.SelectCountsItsPairs
  intro s c cycles lanes q t v e hr hq
  refine ⟨?_, ?_⟩
  · intro q1 q2 y l read o cols ht hok hfull hone hcols hready hopen hblock hclean hfits z grown hz hm
    obtain ⟨hskipped, hsampled, hmakeup, hmiss, hitems⟩ :=
      (y.tallied_selectCount c l).keepsDrl (Block.keepsDrl_putRow c _ t o e.rowStart cols.1 (l.map (fun k => k.val)) e.pageInOk)
    have hlater : ∀ r, Reg.DRL_ITEMS + 4 < r → r + 4 < 4096 → ((z.2.drlDone c t (selectItems [l]) true cycles lanes).afterStep
        s.block.posted).rd64 (.drl c) r = z.2.rd64 (.drl c) r := fun r h h' =>
      (Block.rd64_afterStep _ _ _ r).trans (z.2.rd64_drlDone_later c t _ cycles lanes h h')
    refine completes_select cycles lanes hr hq
      ⟨ht, hok, hfull, hone, hcols, ⟨q1, q2, read, hready, hopen, hblock, hclean⟩, hfits, Prod.ext hz rfl⟩ ?_
    obtain ⟨hmem, hcount, ⟨t', ht', hpos, hdone, -, hphase⟩, -⟩ :=
      Block.worksOff_drlDone (selectItems [l]) cycles lanes s.block.posted hm
    refine ⟨hmem, (hlater _ (by decide) (by decide)).trans hskipped, (hlater _ (by decide) (by decide)).trans hsampled,
      (hlater _ (by decide) (by decide)).trans hmakeup, (hlater _ (by decide) (by decide)).trans hmiss, ?_, t', ht', hpos, hdone, hphase⟩
    show _ = min (y.rd64 (.drl c) Reg.DRL_ITEMS + (l.filter (fun p => p.item)).length) (2 ^ 64 - 1)
    rw [hcount, hitems]
    unfold selectItems
    rw [List.flatMap_singleton]
  · intro ht hs hkind hlist hroom hfull hop hsrc
    obtain ⟨hmem, hstop⟩ := Block.coreFault_stops Ev.SPARSE_CAPACITY (show v.bySerial (.core c) t.serial = some t from hs)
      (Block.running_of_portTask ht)
    refine completes_engine (y := v.coreFault c t Ev.SPARSE_CAPACITY) rfl hr hq ?_ ⟨hmem, hstop⟩
    have hdue : v.unposted.itemDue c t = true := by
      unfold Block.itemDue
      exact (if_neg (Bool.eq_false_iff.1 hfull)).trans ((if_neg hop).trans (beq_iff_eq.2 hsrc))
    simp only [Block.portTask_unposted, show (s.block.seenBy q).portTask c 1 = some t from ht]
    exact (if_pos ⟨hkind, by simp [hlist], hroom, hdue⟩).trans (v.coreFault_unposted c t.serial _)

end Sys2Proof.Machine
end

section
/-! PROOF. O30, the steps of an SPMM: LOAD, STREAM and FLUSH (R172, R184 to R186). -/

namespace Sys2Proof.Machine

open Sys2Proof

/-! ## The merge buffer -/

theorem Block.mergeAdd_unposted (b : Block) (c : Fin 128) (row : Nat) (l : List Num) :
    b.unposted.mergeAdd c row l = (b.mergeAdd c row l).unposted := rfl

/-- A partial row is added word by word, each sum rounded once to FP32. -/
theorem Block.mergeVal_mergeAdd (b : Block) (c : Fin 128) (row : Nat) {l : List Num} {j : Nat} (hj : j < l.length) :
    ((b.mergeAdd c row l).core c.val).mergeVal row j = val32 (f32 (((b.core c.val).mergeVal row j).add (l.getD j Num.zero))).1 := by
  unfold Block.mergeAdd
  rw [Block.core_setCore_self]
  unfold CoreSt.mergeVal
  dsimp only
  rw [Sparse.get_putList, if_pos (by omega), Nat.add_sub_cancel_left]
  simp [hj]

/-- The words of other merge rows stay. -/
theorem Block.mergeVal_mergeAdd_other (b : Block) (c : Fin 128) {row m j : Nat} {l : List Num} (hl : l.length ≤ 512) (hj : j < 512)
    (hm : m ≠ row) : ((b.mergeAdd c row l).core c.val).mergeVal m j = (b.core c.val).mergeVal m j := by
  unfold Block.mergeAdd
  rw [Block.core_setCore_self]
  unfold CoreSt.mergeVal
  dsimp only
  rw [Sparse.get_putList]
  split
  · rw [List.getD_eq_default _ _ (by simp; omega)]
  · rfl

/-! ## An entry of another SRC -/

/-- An SPMM entry of SRC 0 stops the task (R176). -/
theorem completes_spmmStream_bad {s : State} {c : Fin 128} {q t : TaskSt} (cycles : Nat) (hr : s.block.running = true)
    (hq : s.block.portTask c 1 = some q) (ht : (s.block.seenBy q).drlTask c 2 4 = some t)
    (hsrc : ((s.block.seenBy q).entryAt t t.pos).src = 0) (hs : s.block.bySerial (.core c) t.serial = some t) :
    Completes (.spmmStream c cycles .none) s (fun b => ∃ t' : TaskSt, b.bySerial (.core c) t.serial = some t' ∧
      t'.phase = .finished ∧ t'.faultCode = some Ev.SPARSE_SHAPE) := by
  refine completes_engine (y := (s.block.seenBy q).drlFault c t Ev.SPARSE_SHAPE cycles 0) rfl hr hq ?_
    (Block.drlDone_stops (b := s.block.seenBy q) 0 cycles 0 _ hs (Block.running_of_drlTask ht))
  have hbad : ((s.block.seenBy q).entryAt t t.pos).spmmBad = true := beq_iff_eq.2 hsrc
  simp only [Block.drlTask_unposted, ht, Block.entryAt_unposted, hbad, if_true]
  unfold Block.drlFault Block.coreFault
  rw [Block.drlDone_unposted, Block.coreFault_unposted]

/-! ## LOAD -/

/-- The slab that a LOAD entry, taken as `k`, holds. -/
def Took.slab (k : Took) (e : Entry32) : Slab :=
  ⟨e.rowStart, e.colStart, e.rowCount, e.colCount, (List.range e.rowCount).map (fun i =>
    k.d.unscaled.values k.rd (k.e.rowStart + i) k.e.colStart e.colCount), e.pageInOk⟩

/-- A slab is kept as the next. -/
def Block.loadSlab (b : Block) (c : Fin 128) (sl : Slab) : Block := b.setCore c.val { b.core c.val with slabNext := some sl }

theorem Block.core_loadSlab (b : Block) (c : Fin 128) (sl : Slab) :
    (b.loadSlab c sl).core c.val = { b.core c.val with slabNext := some sl } := Block.core_setCore_self _ _ _

/-- A LOAD entry within its limits is taken as `k`, which leaves `y`. -/
structure Block.LoadsSlab (v : Block) (c : Fin 128) (t : TaskSt) (k : Took) (y : Block) : Prop where
  task : v.drlTask c 2 4 = some t
  clean : drlClean (v.entryAt t t.pos) = true
  src : (v.entryAt t t.pos).src = 1
  kind : (v.entryAt t t.pos).kind.all (fun z => z == 0) = true
  rows : (v.entryAt t t.pos).rowCount ≤ 128
  cols : (v.entryAt t t.pos).colCount ≤ 512
  took : v.take c t 1 false = (k, y)
  ready : k.ready = .ok

/-- Such an entry is passed with its block kept as the next slab. -/
theorem completes_spmmLoad {s : State} {c : Fin 128} {q t : TaskSt} {k : Took} {y : Block} {P : Block → Prop} (cycles : Nat)
    (hr : s.block.running = true) (hq : s.block.portTask c 1 = some q) (h : (s.block.seenBy q).LoadsSlab c t k y)
    (hy : y.bySerial (.core c) t.serial = some t)
    (hp : ∀ b, (y.loadSlab c (k.slab ((s.block.seenBy q).entryAt t t.pos))).WorksOff c t 0 cycles b → P b) :
    Completes (.spmmLoad c cycles .none) s P := by
  obtain ⟨ht, hclean, hsrc, hkind, hrows, hcols, htake, hk⟩ := h
  refine completes_worksOff (m := y.loadSlab c (k.slab _)) 0 cycles 0 rfl hr hq ?_ hy hp
  generalize s.block.seenBy q = v at *
  have hok : (v.entryAt t t.pos).spmmBad = false := by unfold Entry32.spmmBad; rw [hsrc]; rfl
  have hzero : (v.entryAt t t.pos).kind.any (fun z => z != 0) = false := by
    rw [List.any_eq_not_all_not]
    simpa using hkind
  simp only [Block.drlTask_unposted, ht, Block.entryAt_unposted, hok, Bool.false_eq_true, if_false, hsrc, ne_eq, not_true_eq_false,
    hclean, Bool.not_true, hzero, Nat.not_lt.2 hrows, Nat.not_lt.2 hcols, or_self, Block.take_unposted, htake, silent_mk, hk]
  rfl

/-! ## STREAM -/

theorem CoreSt.rowsPending_of_none {x : CoreSt} (h : x.fallbacks = []) (rows : List Nat) : x.rowsPending rows = false := by
  unfold CoreSt.rowsPending
  rw [h]
  rfl

/-- One pair read is one non-zero. -/
theorem nonZeros_single {k : Took} {r n : Int} (d : RowData)
    (h : (k.d.codes k.rd k.e.rowStart 0 2).map (signed 32) = [r, n]) : nonZeros k [d] = [⟨r, n, (d.values false).getD 0 Num.zero⟩] := by
  obtain ⟨x, l, hl, hx, hrest⟩ := List.map_eq_cons_iff.1 h
  obtain ⟨z, l', hl', hz, -⟩ := List.map_eq_cons_iff.1 hrest
  subst hl'
  unfold nonZeros
  simp [hl, hx, hz]

theorem rowRuns_single (z : NonZero) : rowRuns [z] = [[z]] := rfl

theorem segments_single {n : Nat} (hn : 1 ≤ n) (z : NonZero) : segments n [z] = [[z]] := by
  have hone : ceilDiv 1 n = 1 := by
    unfold ceilDiv
    rw [Nat.div_eq_of_lt_le] <;> omega
  unfold segments
  rw [List.length_singleton, hone]
  simp [List.take_of_length_le, hn]

/-- The products of one non-zero with a slab row, one FP32 sum in each lane. -/
def Slab.products (sl : Slab) (col : Int) (val : Num) : List Num :=
  (List.range sl.cols).map (fun j => laneSum [(val, (sl.row col).getD j Num.zero)])

/-- A module in which a slab is taken into use and the products of one of its rows are added into a merge row. -/
def Block.streamed (b : Block) (c : Fin 128) (sl : Slab) (row : Nat) (col : Int) (val : Num) : Block :=
  (((b.setCore c.val { b.core c.val with slab := some sl, slabNext := none }).count (.drl c) Reg.DRL_OOR 0).count (.drl c)
    Reg.DRL_SPLITS 0).mergeAdd c row (sl.products col val)

theorem Block.streamed_slab (b : Block) (c : Fin 128) (sl : Slab) (row : Nat) (col : Int) (val : Num) :
    ((b.streamed c sl row col val).core c.val).slab = some sl ∧ ((b.streamed c sl row col val).core c.val).slabNext = none := by
  unfold Block.streamed Block.mergeAdd
  rw [Block.core_setCore_self, Block.core_count, Block.core_count, Block.core_setCore_self]
  exact ⟨rfl, rfl⟩

theorem Block.mergeVal_streamed (b : Block) (c : Fin 128) {sl : Slab} (row : Nat) (col : Int) (val : Num) {j : Nat} (hj : j < sl.cols) :
    ((b.streamed c sl row col val).core c.val).mergeVal row j =
      val32 (f32 (((b.core c.val).mergeVal row j).add (laneSum [(val, (sl.row col).getD j Num.zero)]))).1 := by
  unfold Block.streamed
  rw [Block.mergeVal_mergeAdd _ _ _ (by unfold Slab.products; simpa using hj), Block.core_count, Block.core_count,
    Block.core_setCore_self]
  unfold Slab.products
  simp [hj, CoreSt.mergeVal]

theorem Block.mergeVal_streamed_other (b : Block) (c : Fin 128) {sl : Slab} {row m j : Nat} (col : Int) (val : Num) (hs : sl.cols ≤ 512)
    (hj : j < 512) (hm : m ≠ row) : ((b.streamed c sl row col val).core c.val).mergeVal m j = (b.core c.val).mergeVal m j := by
  unfold Block.streamed
  rw [Block.mergeVal_mergeAdd_other _ _ (by unfold Slab.products; simpa using hs) hj hm, Block.core_count, Block.core_count,
    Block.core_setCore_self]
  rfl

/-- The element of SRC A that the only pair of a STREAM entry names. -/
def Block.streamWant (v : Block) (t : TaskSt) : RowWant :=
  (t.task.descA.toNat, v.desc t.task.descA.toNat, (v.entryAt t t.pos).rowStart, 0, 1)

/-- A STREAM entry of one non-zero for output row `row` and K column `col`, of a task that does not compact: all that it reads is at hand,
its value read sound as `d`, and the row and the column lie in the merge buffer, the output and the next slab. -/
structure Block.StreamsOne (v : Block) (c : Fin 128) (t : TaskSt) (k : Took) (sl : Slab) (row col : Nat) (d : RowData × Block) : Prop where
  task : v.drlTask c 2 4 = some t
  clean : drlClean (v.entryAt t t.pos) = true
  src : (v.entryAt t t.pos).src = 3
  zeros : (v.entryAt t t.pos).kp 1 = 0 ∧ (v.entryAt t t.pos).kp 2 = 0
  full : (v.entryAt t t.pos).empty = false
  single : (v.entryAt t t.pos).rowCount = 1
  pairs : (v.entryAt t t.pos).colStart = 0 ∧ (v.entryAt t t.pos).colCount = 2
  room : 1 ≤ t.room
  slab : (v.core c.val).slabNext = some sl
  dense : bit (t.task.par 1 1) 0 = false
  split : 1 ≤ (v.core c.val).thr
  idle : (v.core c.val).fallbacks = []
  index : (k.d.codes k.rd k.e.rowStart 0 2).map (signed 32) = [(row : Int), (col : Int)]
  rowIn : (v.entryAt t t.pos).kp 0 ≤ row ∧ row ≤ (v.entryAt t t.pos).kp 0 + 255 ∧ row < (v.desc t.task.descC.toNat).rows
  colIn : sl.rowStart ≤ col ∧ col < sl.rowStart + sl.rows
  reads : ∃ q1 y : Block, v.rowsReady c t false [v.streamWant t] (v.entryAt t t.pos).pageInOk = (.ok, q1) ∧
    q1.take c t 1 false = (k, y) ∧ k.ready = .ok ∧ y.readRow c t false (v.streamWant t) = d ∧ poisonStop [d.1] = none

/-- Such an entry is passed with one work item, its product added. -/
theorem completes_spmmStream {s : State} {c : Fin 128} {q t : TaskSt} {k : Took} {sl : Slab} {row col : Nat} {d : RowData × Block}
    {P : Block → Prop} (cycles : Nat) (hr : s.block.running = true) (hq : s.block.portTask c 1 = some q)
    (h : (s.block.seenBy q).StreamsOne c t k sl row col d) (hd : d.2.bySerial (.core c) t.serial = some t)
    (hp : ∀ b, (d.2.streamed c sl (row - ((s.block.seenBy q).entryAt t t.pos).kp 0) col ((d.1.values false).getD 0 Num.zero)).WorksOff
      c t 1 cycles b → P b) : Completes (.spmmStream c cycles .none) s P := by
  obtain ⟨ht, hclean, hsrc, ⟨hone, htwo⟩, hfull, hrow1, ⟨hstart, hcount⟩, hroom, hslab, hdense, hthr, hidle, hidx,
    ⟨hlow, hhigh, hrows⟩, ⟨hleft, hright⟩, q1, y, hready, htake, hk, hread, hsound⟩ := h
  refine completes_worksOff (m := d.2.streamed c sl _ col _) 1 cycles (1 * ceilDiv sl.cols 32) rfl hr hq ?_ hd hp
  generalize s.block.seenBy q = v at *
  have hok : (v.entryAt t t.pos).spmmBad = false := by unfold Entry32.spmmBad; rw [hsrc]; rfl
  have hbase : ((v.entryAt t t.pos).kp 0 : Int) ≤ (row : Int) := by omega
  have htop : (row : Int) ≤ (((v.entryAt t t.pos).kp 0 + 255 : Nat) : Int) := by omega
  have hin : inRange row (v.desc t.task.descC.toNat).rows = true := by
    unfold inRange
    simp [hrows]
  have hfirst : (sl.rowStart : Int) ≤ (col : Int) := by omega
  have hlast : (col : Int) < ((sl.rowStart + sl.rows : Nat) : Int) := by omega
  have hmerge : mergeRow (row : Int) ((v.entryAt t t.pos).kp 0) = row - (v.entryAt t t.pos).kp 0 := by
    unfold mergeRow
    omega
  unfold Block.streamWant at hready hread
  simp only [Block.drlTask_unposted, ht, Block.desc_unposted, Block.entryAt_unposted, hok, Bool.false_eq_true, if_false, hsrc, ne_eq,
    not_true_eq_false, hclean, Bool.not_true, hone, htwo, hfull, Bool.not_false, hstart, hcount, or_self, and_false,
    hrow1, Nat.min_eq_left hroom, List.range_one, List.map_cons, List.map_nil, Nat.add_zero, Block.rowsReady_unposted, hready, silent_mk,
    Block.take_unposted, htake, hk, List.foldl_cons, List.foldl_nil, Block.readRow_unposted, hread, silent_fst, silent_snd,
    List.nil_append, hsound, Block.core_unposted, hslab, nonZeros_single d.1 hidx, CoreSt.rowsPending_of_none hidle]
  simp only [Option.getD_some, List.any_cons, List.any_nil, hbase, htop, hin, hfirst, hlast, decide_true, Bool.and_self, Bool.not_true,
    Bool.or_self, Bool.and_false, Bool.false_eq_true, one_ne_zero, or_self, if_false, List.filter_cons, List.filter_nil,
    List.length_nil, Nat.add_zero, hdense, Bool.false_and, if_true,
    rowRuns_single, List.length_cons, Nat.zero_add, Nat.not_lt.2 hthr, decide_false, List.flatMap_singleton, segments_single hthr,
    List.foldl_cons, List.foldl_nil, runRow, hmerge, List.map_cons, List.map_nil, beq_self_eq_true, Block.setCore_unposted,
    Block.count_unposted, Block.mergeAdd_unposted]
  rfl

/-! ## FLUSH -/

/-- Row `row` and the first `n` columns of the merge buffer read 0 again. -/
def Block.clearMerge (b : Block) (c : Fin 128) (row n : Nat) : Block :=
  b.setCore c.val { b.core c.val with merge := Sparse.clear (fun k =>
    decide (row ≤ k / 512 ∧ k / 512 < row + 1 ∧ k % 512 < n)) (b.core c.val).merge }

theorem Block.mergeVal_clearMerge (b : Block) (c : Fin 128) {m row j : Nat} (n : Nat) (hj : j < 512) :
    ((b.clearMerge c row n).core c.val).mergeVal m j = if m = row ∧ j < n then val32 0 else (b.core c.val).mergeVal m j := by
  have hrow : (512 * m + j) / 512 = m := by omega
  have hword : (512 * m + j) % 512 = j := by omega
  unfold Block.clearMerge
  rw [Block.core_setCore_self]
  unfold CoreSt.mergeVal
  dsimp only
  rw [Sparse.get_clear, hrow, hword]
  by_cases h : m = row ∧ j < n
  · rw [if_pos (by simp; omega), if_pos h]
  · rw [if_neg (by simp; omega), if_neg h]

/-- A step of a FLUSH: a merge row under the TENSOR scales is written (R184). -/
def Block.flushRow (v : Block) (c : Fin 128) (t : TaskSt) (y : Block) : Ready × Block :=
  let e := v.entryAt t t.pos
  let cols := t.cut e.colStart e.colCount
  let vals := (List.range cols.2).map (fun j => tensorScaled (v.desc t.task.descA.toNat) (v.desc t.task.descB.toNat)
    ((y.core c.val).mergeVal (e.rowStart - e.kp 0) (cols.1 - e.colStart + j)))
  (y.drnOvf c 1 (vals.map (fun x => x.2)).sum).putRow c t (v.desc t.task.descC.toNat) e.rowStart cols.1 false (vals.map (fun x => x.1))
    e.pageInOk

/-- A FLUSH entry of one row within its limits, in which the task has work and no fallback pass waits for its merge row: the row that it
writes is open, and writing it leads to `z`. -/
structure Block.FlushesOne (v : Block) (c : Fin 128) (t : TaskSt) (z : Block) : Prop where
  task : v.drlTask c 2 4 = some t
  clean : drlClean (v.entryAt t t.pos) = true
  src : (v.entryAt t t.pos).src = 2
  zeros : (v.entryAt t t.pos).kp 1 = 0 ∧ (v.entryAt t t.pos).kp 2 = 0
  full : (v.entryAt t t.pos).empty = false
  single : (v.entryAt t t.pos).rowCount = 1
  cols : (v.entryAt t t.pos).colCount ≤ 512
  rowIn : (v.entryAt t t.pos).kp 0 ≤ (v.entryAt t t.pos).rowStart ∧ (v.entryAt t t.pos).rowStart - (v.entryAt t t.pos).kp 0 ≤ 255
  blocks : ¬ ((v.desc t.task.descC.toNat).mx = true ∧ (v.entryAt t t.pos).colCount % 32 ≠ 0 ∧
    (v.entryAt t t.pos).colStart + (v.entryAt t t.pos).colCount ≠ (v.desc t.task.descC.toNat).d0)
  idle : (v.core c.val).rowsPending [(v.entryAt t t.pos).rowStart - (v.entryAt t t.pos).kp 0] = false
  working : (t.cut (v.entryAt t t.pos).colStart (v.entryAt t t.pos).colCount).2 ≠ 0
  writes : let e := v.entryAt t t.pos
    let cols := t.cut e.colStart e.colCount
    ∃ q1 : Block, v.rowsOpen c t (v.desc t.task.descC.toNat) [e.rowStart] cols.1 cols.2 e.pageInOk false = (.ok, q1) ∧
      v.flushRow c t q1 = (.ok, z)

/-- Such an entry is passed, and the merge words that it wrote are cleared. -/
theorem completes_spmmFlush {s : State} {c : Fin 128} {q t : TaskSt} {z : Block} {P : Block → Prop} (cycles : Nat)
    (hr : s.block.running = true) (hq : s.block.portTask c 1 = some q) (h : (s.block.seenBy q).FlushesOne c t z)
    (hz : z.bySerial (.core c) t.serial = some t)
    (hp : let e := (s.block.seenBy q).entryAt t t.pos
      ∀ b, (z.clearMerge c (e.rowStart - e.kp 0) e.colCount).WorksOff c t 0 cycles b → P b) :
    Completes (.spmmFlush c cycles .none) s P := by
  obtain ⟨ht, hclean, hsrc, ⟨hone, htwo⟩, hfull, hrow1, hcols, ⟨hlow, hnear⟩, hblocks, hidle, hwork, q1, hopen, hput⟩ := h
  refine completes_worksOff (m := z.clearMerge c _ _) 0 cycles 0 rfl hr hq ?_ hz hp
  generalize s.block.seenBy q = v at *
  have hok : (v.entryAt t t.pos).spmmBad = false := by unfold Entry32.spmmBad; rw [hsrc]; rfl
  have hfits : ¬ 256 < (v.entryAt t t.pos).rowStart - (v.entryAt t t.pos).kp 0 + 1 := by omega
  have hlimits : ¬ 2 ≤ 0 ∧ ¬ 256 < 1 := by decide
  have hshape : ¬ ((v.desc t.task.descC.toNat).mx = true ∧ ¬ (v.entryAt t t.pos).colCount % 32 = 0 ∧
    ¬ (v.entryAt t t.pos).colStart + (v.entryAt t t.pos).colCount = (v.desc t.task.descC.toNat).d0) := hblocks
  unfold Block.flushRow at hput
  simp only [Block.drlTask_unposted, ht, Block.desc_unposted, Block.entryAt_unposted, hok, Bool.false_eq_true, if_false, hsrc, ne_eq,
    not_true_eq_false, hclean, Bool.not_true, hone, htwo, hfull, hrow1, Nat.not_lt.2 hcols, Nat.not_lt.2 hlow, hfits, hshape, hlimits,
    or_self, show bit 0 0 = false from rfl, Block.core_unposted, List.range_one, List.map_cons, List.map_nil, Nat.add_zero, hidle, hwork,
    Block.rowsOpen_unposted, hopen, silent_mk, Block.eachReady_single, Block.drnOvf_unposted, Block.putRow_unposted, hput]
  rfl

end Sys2Proof.Machine
end

section
/-! SUPPORT. What stores into a core's scratch window and sums that land leave: of memory, all but the range stored into (R189, R223). -/

namespace Sys2Proof.Machine

open Sys2Proof

/-! ## Stores -/

/-- Pieces of a range lie within it. -/
theorem mem_pieces {g a n : Nat} {p : Nat × Nat} (h : p ∈ pieces g a n) : a ≤ p.1 ∧ p.1 < a + n ∧ p.1 + p.2 ≤ a + n := by
  unfold pieces at h
  split at h
  · cases h
  · next hn =>
    obtain ⟨i, hi, rfl⟩ := List.mem_map.1 h
    have hle : (a / g + i) * g ≤ (a + n - 1) / g * g := by
      have := List.mem_range.1 hi
      have : a / g ≤ (a + n - 1) / g := Nat.div_le_div_right (by omega)
      exact Nat.mul_le_mul_right g (by omega)
    have hlast : (a + n - 1) / g * g ≤ a + n - 1 := Nat.div_mul_le_self _ _
    dsimp only
    omega

/-- A poke changes the bytes that it names alone. -/
theorem Block.get_mem_pokePhys_apart (b : Block) {k j : Nat} {l : List Byte} (h : j < k ∨ k + l.length ≤ j) :
    Sparse.get b.memDef (b.pokePhys k l).mem j = Sparse.get b.memDef b.mem j := by
  show Sparse.get b.memDef (Sparse.putList b.memDef b.mem k l) j = _
  rw [Sparse.get_putList]
  split
  · exact List.getD_eq_default _ _ (by omega)
  · rfl

/-- Where every address of a range that leads anywhere leads between `lo` and `hi`, with the rest of the range, a store there changes no
byte beside them. -/
theorem Block.get_mem_storeAs_apart {b : Block} {owner : SlotOwner} {u d g a lo hi : Nat} {l : List Byte}
    (h : ∀ x k, a ≤ x → x < a + l.length → b.resolveOwn x = .phys k → lo ≤ k ∧ k + (a + l.length - x) ≤ hi) {j : Nat}
    (hj : j < lo ∨ hi ≤ j) : Sparse.get b.memDef (b.storeAs owner u d g a l).mem j = Sparse.get b.memDef b.mem j := by
  unfold Block.storeAs
  refine (List.foldlRecOn (motive := fun x : Block => b.Accessed x ∧ Sparse.get b.memDef x.mem j = Sparse.get b.memDef b.mem j) _ _
    ⟨.refl b, rfl⟩ fun x ⟨hx, hmem⟩ p hp => ?_).2
  obtain ⟨hfirst, hstart, hend⟩ := mem_pieces hp
  split
  · next k hk =>
    refine ⟨hx.trans ((((x.accessed_freezeReads _ _).trans (Block.accessed_pokePhys _ _ _)).trans (Block.accessed_markHbm _ _ _ _)).trans
      (Block.accessed_queueSlots _ _)), ?_⟩
    obtain ⟨hlo, hhi⟩ := h p.1 k hfirst hstart ((hx.map.resolveOwn p.1).symm.trans hk)
    have hfrozen := x.accessed_freezeReads k p.2
    rw [(Block.mem_queueSlots _ _).1, (Block.mem_markHbm _ _ _ _).1, ← hx.memDef, ← hfrozen.memDef]
    refine (Block.get_mem_pokePhys_apart _ ?_).trans ?_
    · have : ((l.drop (p.1 - a)).take p.2).length ≤ p.2 := List.length_take_le _ _
      omega
    · rw [hfrozen.memDef, hx.memDef, (x.mem_freezeReads k p.2).1]
      exact hmem
  · exact ⟨hx, hmem⟩

/-! ## The scratch window -/

/-- First physical byte of a core's scratch window. -/
def windowPhys (c : Fin 128) : Nat := sramPhys (coreTile c).val (8192 * (coreSlot c).val + 7168)

theorem windowBase_lt (c : Fin 128) {n : Nat} (hn : n < 2 ^ 26) : windowBase c + n < hbmBase := by
  have htile : (coreTile c).val < 16 := (coreTile c).isLt
  have hslot : (coreSlot c).val < 8 := (coreSlot c).isLt
  unfold windowBase hbmBase
  omega

theorem windowBase_tile (c : Fin 128) {n : Nat} (hn : n < 2 ^ 26) : (windowBase c + n) / 2 ^ 33 = (coreTile c).val := by
  have hslot : (coreSlot c).val < 8 := (coreSlot c).isLt
  unfold windowBase
  omega

theorem windowBase_offset (c : Fin 128) {n : Nat} (hn : n < 2 ^ 26) :
    (windowBase c + n) % 2 ^ 33 = 0x1C0000000 + ((coreSlot c).val * 2 ^ 26 + n) := by
  have hslot : (coreSlot c).val < 8 := (coreSlot c).isLt
  unfold windowBase
  omega

theorem core_of_tile_slot (c : Fin 128) : 8 * (coreTile c).val + (coreSlot c).val = c.val := by
  unfold coreTile coreSlot
  dsimp only
  omega

/-- An address of the windows of a tile leads into that of its core, where the core is on. -/
theorem Block.resolve_windows (b : Block) {a m : Nat} (ha : a < hbmBase) (ho : a % 2 ^ 33 = 0x1C0000000 + m) (hm : m < 8 * 2 ^ 26)
    (hc : 8 * (a / 2 ^ 33) + m / 2 ^ 26 < 128) : b.resolve a = if b.coreOn ⟨8 * (a / 2 ^ 33) + m / 2 ^ 26, hc⟩
      then .phys (sramPhys (a / 2 ^ 33) (8192 * (m / 2 ^ 26) + 7168) + m % 2 ^ 26) else .unmapped := by
  have hlow : ¬ 0x1C0000000 + m < 0x1C0000000 := by omega
  have hhigh : 0x1C0000000 + m < 0x1E0000000 := by omega
  unfold Block.resolve
  simp only [ha, ho, hlow, hhigh, if_true, if_false, Nat.add_sub_cancel_left, hc, dif_pos]

theorem Block.resolveOwn_of_phys {b : Block} {a k : Nat} (h : b.resolve a = .phys k) : b.resolveOwn a = .phys k := by
  unfold Block.resolveOwn
  rw [h]

theorem Block.resolveOwn_of_unmapped {b : Block} {a : Nat} (h : b.resolve a = .unmapped) : b.resolveOwn a = .unmapped := by
  unfold Block.resolveOwn
  rw [h]

/-- An address of a core's scratch window leads into it, where the core is on. -/
theorem Block.resolveOwn_window (b : Block) (c : Fin 128) {n : Nat} (hn : n < 2 ^ 26) :
    b.resolveOwn (windowBase c + n) = if b.coreOn c then .phys (windowPhys c + n) else .unmapped := by
  have hslot : ((coreSlot c).val * 2 ^ 26 + n) / 2 ^ 26 = (coreSlot c).val := by omega
  have hrest : ((coreSlot c).val * 2 ^ 26 + n) % 2 ^ 26 = n := by omega
  have hcore := core_of_tile_slot c
  have hresolve := b.resolve_windows (windowBase_lt c hn) (windowBase_offset c hn)
    (by have : (coreSlot c).val < 8 := (coreSlot c).isLt; omega) (by rw [windowBase_tile c hn, hslot, hcore]; exact c.isLt)
  simp only [windowBase_tile c hn, hslot, hrest, hcore, Fin.eta] at hresolve
  by_cases hon : b.coreOn c = true
  · rw [if_pos hon] at hresolve ⊢
    exact Block.resolveOwn_of_phys hresolve
  · rw [if_neg hon] at hresolve ⊢
    exact Block.resolveOwn_of_unmapped hresolve

/-- A store at bytes `lo` to `hi - 1` of the window changes no byte beside them. -/
theorem Block.get_mem_window_apart (b : Block) (c : Fin 128) {n size j : Nat} {l : List Byte} (hl : n + l.length ≤ size)
    (hs : size ≤ 2 ^ 26) (hj : j < windowPhys c ∨ windowPhys c + size ≤ j) :
    Sparse.get b.memDef (b.store (windowBase c + n) l).mem j = Sparse.get b.memDef b.mem j := by
  refine Block.get_mem_storeAs_apart (fun x k hx hend hk => ?_) hj
  obtain ⟨m, rfl⟩ : ∃ m, x = windowBase c + m := ⟨x - windowBase c, by omega⟩
  rw [b.resolveOwn_window c (by omega)] at hk
  split at hk
  · cases hk
    omega
  · cases hk

/-! ## A pass on the array -/

/-- `b` is `a` after a pass of a core: of memory at most the first `size` bytes of the core's scratch window differ, and of the core at
most its bank, its generators, its count of gated cells and its merge buffer. -/
structure Block.PassKeeps (c : Fin 128) (size : Nat) (a b : Block) : Prop where
  units : b.units = a.units
  posted : b.posted = a.posted
  core : b.core c.val = { a.core c.val with
    bank := (b.core c.val).bank, gens := (b.core c.val).gens, gateRem := (b.core c.val).gateRem, merge := (b.core c.val).merge }
  map : a.SameMap b
  memDef : b.memDef = a.memDef
  mem : ∀ j, j < windowPhys c ∨ windowPhys c + size ≤ j → Sparse.get b.memDef b.mem j = Sparse.get a.memDef a.mem j

theorem Block.PassKeeps.refl (c : Fin 128) (size : Nat) (a : Block) : a.PassKeeps c size a :=
  ⟨rfl, rfl, rfl, .refl a, rfl, fun _ _ => rfl⟩

theorem Block.PassKeeps.trans {c : Fin 128} {size : Nat} {a b d : Block} (h : a.PassKeeps c size b) (k : b.PassKeeps c size d) :
    a.PassKeeps c size d :=
  ⟨k.units.trans h.units, k.posted.trans h.posted, by rw [k.core, h.core], h.map.trans k.map, k.memDef.trans h.memDef,
    fun j hj => (k.mem j hj).trans (h.mem j hj)⟩

section

variable (c : Fin 128) (size : Nat) (b : Block)

theorem Block.passKeeps_wr {p : Page} (o : Nat) (v : Word) (hmod : p ≠ .mod) (hcxl : p ≠ .cxl) (ho : o < 4096) :
    b.PassKeeps c size (b.wr p o v) := ⟨rfl, rfl, rfl, b.sameMap_wr p o v hmod hcxl ho, rfl, fun _ _ => rfl⟩

theorem Block.passKeeps_count {p : Page} (o n : Nat) (hmod : p ≠ .mod) (hcxl : p ≠ .cxl) (ho : o + 4 < 4096) :
    b.PassKeeps c size (b.count p o n) :=
  (b.passKeeps_wr c size _ _ hmod hcxl (by omega)).trans (Block.passKeeps_wr c size _ _ _ hmod hcxl (by omega))

theorem Block.passKeeps_drnCount {o : Nat} (n q : Nat) (ho : o + 4 < 4096) : b.PassKeeps c size (b.drnCount c o n q) := by
  unfold Block.drnCount
  split
  · exact .refl c size b
  · exact (b.passKeeps_count c size o n (by simp) (by simp) ho).trans (Block.passKeeps_wr c size _ _ _ (by simp) (by simp) (by decide))

theorem Block.passKeeps_setCore {x : CoreSt} (h : x = { b.core c.val with
    bank := x.bank, gens := x.gens, gateRem := x.gateRem, merge := x.merge }) : b.PassKeeps c size (b.setCore c.val x) :=
  ⟨rfl, rfl, by rw [Block.core_setCore_self]; exact h, Block.sameMap_of_same rfl rfl rfl, rfl, fun _ _ => rfl⟩

theorem Block.passKeeps_store {n : Nat} {l : List Byte} (hl : n + l.length ≤ size) (hs : size ≤ 2 ^ 26) :
    b.PassKeeps c size (b.store (windowBase c + n) l) := by
  have hacc := b.accessed_store (windowBase c + n) l
  refine ⟨hacc.units, hacc.posted, ?_, hacc.map, hacc.memDef, fun j hj => ?_⟩
  · rw [hacc.same]
    rfl
  · rw [hacc.memDef]
    exact b.get_mem_window_apart c hl hs hj

theorem Block.passKeeps_land (mode : Nat) (init sr : Bool) (row port : Nat) (vals : List Num) :
    b.PassKeeps c size (b.land c mode init sr row port vals) := by
  rw [Block.land_eq]
  exact (b.passKeeps_setCore c size rfl).trans (Block.passKeeps_drnCount c size _ _ 1 (drnOvf_lt mode))

theorem Block.passKeeps_addGated (n : Nat) : b.PassKeeps c size (b.addGated c n) :=
  (b.passKeeps_setCore c size rfl).trans (Block.passKeeps_count c size _ _ _ (by simp) (by simp) (by decide))

theorem Block.passKeeps_passRow (mode : Nat) (w : WTile) (per row : Nat) (off : Bool) (x : List Num) :
    b.PassKeeps c size (b.passRow c mode w per row off x) := by
  have hland : ∀ vals : List Num, b.PassKeeps c size (b.land c mode true false row 0 vals) := fun vals =>
    b.passKeeps_land c size mode _ _ _ _ vals
  have hovf : ∀ (y : Block) (n : Nat), y.PassKeeps c size (y.drnOvf c 0 n) := fun y n => y.passKeeps_drnCount c size n 1 (by decide)
  have hvanish : ∀ (y : Block) (n : Nat), y.PassKeeps c size (y.drnVanish c 0 n) := fun y n => y.passKeeps_drnCount c size n 2 (by decide)
  have hbank : ∀ (y : Block) (n : Nat), y.PassKeeps c size (y.drnOvf c 1 n) := fun y n => y.passKeeps_drnCount c size n 1 (by decide)
  unfold Block.passRow
  dsimp only
  split
  · exact (((hland _).trans (hovf _ _)).trans (hvanish _ _)).trans (hbank _ _)
  · exact ((((hland _).trans (hovf _ _)).trans (hvanish _ _)).trans (hbank _ _)).trans (Block.passKeeps_addGated c size _ _)

end

end Sys2Proof.Machine
end

section
/-! PROOF. O30, a fallback pass on the array, and who holds the scratch window (R189, R190). -/

namespace Sys2Proof.Machine

open Sys2Proof

/-! ## What a pass writes into the window -/

/-- As many bytes as a channel vector has (R75). -/
theorem length_vecBytesOf (fmt : Nat) (codes : List Nat) : (vecBytesOf fmt codes).length = vecBytes fmt := by
  have hbits : elemBits fmt = 4 ∨ elemBits fmt = 6 ∨ elemBits fmt % 8 = 0 := by
    unfold elemBits
    split <;> decide
  unfold vecBytesOf vecBytes
  dsimp only
  split
  · next h => simp [h]
  · next h => simp [h]
  · next n h4 h6 =>
    rw [List.length_flatMap]
    simp only [length_toBytes, List.map_const', List.length_range, List.sum_replicate, smul_eq_mul]
    obtain h | h | h := hbits
    · exact absurd h h4
    · exact absurd h h6
    · omega

theorem length_drained (x : CoreSt) (mode row n : Nat) : (x.drained mode row n).length ≤ 128 := by
  unfold CoreSt.drained CoreSt.bankRow Sparse.getList
  rw [List.length_map]
  exact (List.length_take_le' _ _).trans (by simp)

section

variable (c : Fin 128) {size : Nat} (hs : size ≤ 2 ^ 26)
include hs

theorem Block.passKeeps_writeDense (b : Block) (fmt k : Nat) (rows : List (List Num)) (h : denseRowBytes fmt k * rows.length ≤ size) :
    b.PassKeeps c size (b.writeDense c fmt k rows) := by
  unfold Block.writeDense
  refine List.foldlRecOn _ _ (.refl c size b) fun y hy p hp => hy.trans (y.passKeeps_store c size ?_ hs)
  have hrow : denseRowBytes fmt k * (p.2 + 1) ≤ denseRowBytes fmt k * rows.length :=
    Nat.mul_le_mul_left _ (List.snd_lt_of_mem_zipIdx hp)
  have hlen : ((List.range (ceilDiv k 32)).map (fun _ => vecBytes fmt)).sum = denseRowBytes fmt k := by
    unfold denseRowBytes
    rw [List.map_const', List.length_range, List.sum_replicate, smul_eq_mul, Nat.mul_comm]
  rw [List.length_flatMap]
  simp only [length_vecBytesOf, hlen]
  rw [Nat.mul_succ] at hrow
  exact hrow.trans h

theorem Block.passKeeps_writeDrained (b : Block) (start i : Nat) {vals : List Num} (hv : vals.length ≤ 128)
    (h : start + 512 * (i + 1) ≤ size) : b.PassKeeps c size (b.writeDrained c start i vals) := by
  unfold Block.writeDrained
  rw [Nat.add_assoc]
  refine b.passKeeps_store c size ?_ hs
  rw [List.length_flatMap]
  simp only [length_toBytes, List.map_const', List.sum_replicate, smul_eq_mul]
  omega

theorem Block.passKeeps_passTile (b : Block) (mode per base start : Nat) (off : Bool) (f : Fallback) (w : WTile) (j n : Nat)
    (h : start + 512 * (f.rows.length * (j + 1)) ≤ size) : b.PassKeeps c size (b.passTile c mode per base start off f w j n) := by
  have hland : b.PassKeeps c size ((f.rows.take n).zipIdx.foldl (fun y p => y.passRow c mode w per (base + p.2) off p.1.2) b) :=
    List.foldlRecOn _ _ (.refl c size b) fun y hy p _ => hy.trans (y.passKeeps_passRow c size _ _ _ _ _ _)
  unfold Block.passTile
  dsimp only
  split
  · exact hland
  · refine hland.trans (List.foldlRecOn _ _ (.refl c size _) fun y hy p hp => hy.trans ?_)
    have hrow : f.rows.length * j + p.2 + 1 ≤ f.rows.length * (j + 1) := by
      have := List.snd_lt_of_mem_zipIdx hp
      rw [Nat.mul_succ]
      omega
    exact ((y.passKeeps_count c size _ 1 (by simp) (by simp) (by decide)).trans
      (Block.passKeeps_writeDrained c hs _ start _ (length_drained _ _ _ _) (by omega))).trans (Block.passKeeps_setCore c size _ rfl)

end

/-! ## The steps of a pass -/

/-- The tiles of a pass in turn, of which the first `rows` rows land. -/
def Block.passTiles (b : Block) (c : Fin 128) (mode per base start : Nat) (off : Bool) (f : Fallback) (tiles : List WTile) (rows : Nat) :
    Block :=
  tiles.zipIdx.foldl (fun y p =>
    if rows ≤ f.rows.length * p.2 then y
    else y.passTile c mode per base start off f p.1 p.2 (min f.rows.length (rows - f.rows.length * p.2))) b

theorem Block.passKeeps_passTiles (b : Block) (c : Fin 128) {size : Nat} (hs : size ≤ 2 ^ 26) (mode per base start : Nat) (off : Bool)
    (f : Fallback) (tiles : List WTile) (rows : Nat) (h : start + 512 * f.rows.length * tiles.length ≤ size) :
    b.PassKeeps c size (b.passTiles c mode per base start off f tiles rows) := by
  unfold Block.passTiles
  refine List.foldlRecOn _ _ (.refl c size b) fun y hy p hp => hy.trans ?_
  split
  · exact .refl c size y
  · refine y.passKeeps_passTile c hs mode per base start off f _ _ _ (le_trans ?_ h)
    have := Nat.mul_le_mul_left (512 * f.rows.length) (List.snd_lt_of_mem_zipIdx hp)
    rw [← Nat.mul_assoc]
    exact Nat.add_le_add_left this start

/-- The array is taken for a pass: `n` bytes come in, an array task begun ahead is put back, and no tile is left. -/
def Block.passBegun (b : Block) (c : Fin 128) (n : Nat) : Block :=
  let y := (b.portIn c n).dropPrologue c
  y.setCore c.val { y.core c.val with active := none, retained := none }

/-- The array is given back after a pass of a task: its cycles are charged, its run leaves the queue, and with the last run the window. -/
def Block.passEnd (b : Block) (c : Fin 128) (n cycles : Nat) (last : Bool) : Block :=
  let y := (b.chargeTaken c cycles).mapTask (.core c) n (TaskSt.spent cycles cycles)
  let y := y.setCore c.val { y.core c.val with fallbacks := (y.core c.val).fallbacks.drop 1 }
  let y := if last then y.releaseScratch c else y
  (y.showFallback c).showTiles c false

theorem Block.bySerial_mapTask_other (b : Block) (u : UnitId) {m n : Nat} {g : TaskSt → TaskSt} (hg : ∀ t, (g t).serial = t.serial)
    (h : m ≠ n) : (b.mapTask u m g).bySerial u n = b.bySerial u n := by
  unfold Block.bySerial
  rw [b.unit_mapTask_self]
  dsimp only
  induction (b.unit u).board with
  | nil => rfl
  | cons t l ih =>
    rw [List.map_cons]
    by_cases ht : t.serial = n
    · rw [if_neg (by omega), List.find?_cons_of_pos (by simp [ht]), List.find?_cons_of_pos (by simp [ht])]
    · have hkeep : (if t.serial = m then g t else t).serial = t.serial := by
        split
        · exact hg t
        · rfl
      rw [List.find?_cons_of_neg (by simp [hkeep, ht]), List.find?_cons_of_neg (by simp [ht]), ih]

/-- Putting array tasks begun ahead back leaves every other task. -/
theorem Block.bySerial_dropPrologue {b : Block} {c : Fin 128} {n : Nat} (h : (b.begunAhead c).all (fun y => y.serial != n) = true) :
    (b.dropPrologue c).bySerial (.core c) n = b.bySerial (.core c) n := by
  unfold Block.dropPrologue
  refine List.foldlRecOn (motive := fun x : Block => x.bySerial (.core c) n = b.bySerial (.core c) n) _ _ rfl fun x hx t ht => ?_
  rw [x.bySerial_mapTask_other _ (g := TaskSt.afresh) (fun _ => rfl) (by simpa using List.all_eq_true.1 h t ht), hx]

theorem Block.core_dropPrologue (b : Block) (c : Fin 128) : (b.dropPrologue c).core c.val = { b.core c.val with standby := none } := by
  unfold Block.dropPrologue
  rw [Block.core_setCore_self]
  refine congrArg (fun x : CoreSt => { x with standby := none }) ?_
  exact List.foldlRecOn (motive := fun x : Block => x.core c.val = b.core c.val) _ _ rfl fun x hx t _ => hx

theorem Block.core_passBegun (b : Block) (c : Fin 128) (n : Nat) : (b.passBegun c n).core c.val =
    { b.core c.val with standby := none, active := none, retained := none } := by
  unfold Block.passBegun
  rw [Block.core_setCore_self, Block.core_dropPrologue]
  rfl

theorem Block.bySerial_passBegun {b : Block} {c : Fin 128} {m : Nat} (n : Nat)
    (h : (b.begunAhead c).all (fun y => y.serial != m) = true) : (b.passBegun c n).bySerial (.core c) m = b.bySerial (.core c) m :=
  Block.bySerial_dropPrologue (b := b.portIn c n) h

theorem Block.quiet_passBegun (b : Block) (c : Fin 128) (n : Nat) :
    (b.passBegun c n).mem = b.mem ∧ (b.passBegun c n).memDef = b.memDef ∧ (b.passBegun c n).posted = b.posted :=
  have hquiet := ((b.portIn c n).restarts_dropPrologue c).quiet
  ⟨hquiet.mem, hquiet.memDef, hquiet.posted⟩

/-- The array has been given back: `b` is `a` with the first run off the queue and the cycles of task `n` charged. -/
structure Block.PassEnds (c : Fin 128) (n cycles : Nat) (a b : Block) : Prop where
  mem : b.mem = a.mem
  memDef : b.memDef = a.memDef
  posted : b.posted = a.posted
  fallbacks : (b.core c.val).fallbacks = (a.core c.val).fallbacks.drop 1
  active : (b.core c.val).active = (a.core c.val).active
  slab : (b.core c.val).slab = (a.core c.val).slab
  task : b.bySerial (.core c) n = (a.bySerial (.core c) n).map (TaskSt.spent cycles cycles)

theorem Block.passEnds_passEnd (b : Block) (c : Fin 128) (n cycles : Nat) (last : Bool) :
    b.PassEnds c n cycles (b.passEnd c n cycles last) := by
  have hcharge := b.counted_charge c cycles (k := Cause.busy) (by decide)
  have htask : ((b.chargeTaken c cycles).mapTask (.core c) n (TaskSt.spent cycles cycles)).bySerial (.core c) n =
      (b.bySerial (.core c) n).map (TaskSt.spent cycles cycles) := by
    rw [Block.bySerial_mapTask _ _ _ (f := TaskSt.spent cycles cycles) fun _ => rfl]
    exact congrArg _ (hcharge.bySerial n)
  have hcore : ((b.chargeTaken c cycles).mapTask (.core c) n (TaskSt.spent cycles cycles)).core c.val =
    (b.charge c Cause.busy cycles).core c.val := rfl
  have hdef : (b.charge c Cause.busy cycles).memDef = b.memDef := by
    rw [hcharge.same]
    rfl
  unfold Block.passEnd
  generalize hy : (b.chargeTaken c cycles).mapTask (.core c) n (TaskSt.spent cycles cycles) = y at htask hcore
  have hmem : y.mem = b.mem ∧ y.memDef = b.memDef ∧ y.posted = b.posted := by
    rw [← hy]
    exact ⟨hcharge.mem, hdef, hcharge.posted⟩
  have hregs : ∀ z : Block, ∃ r, ((if last then z.releaseScratch c else z).showFallback c).showTiles c false = { z with regs := r } :=
    fun z => by cases last <;> exact ⟨_, rfl⟩
  obtain ⟨r, hr⟩ := hregs (y.setCore c.val { y.core c.val with fallbacks := (y.core c.val).fallbacks.drop 1 })
  have hlast : ((y.setCore c.val { y.core c.val with fallbacks := (y.core c.val).fallbacks.drop 1 }).core c.val) =
    { y.core c.val with fallbacks := (y.core c.val).fallbacks.drop 1 } := Block.core_setCore_self _ _ _
  obtain ⟨hm, hd, hp⟩ := hmem
  dsimp only
  rw [hr]
  refine ⟨hm, hd, hp, ?_, ?_, ?_, htask⟩
  · refine (congrArg CoreSt.fallbacks hlast).trans ?_
    dsimp only
    rw [hcore, hcharge.core]
  · refine (congrArg CoreSt.active hlast).trans ?_
    dsimp only
    rw [hcore, hcharge.core]
  · refine (congrArg CoreSt.slab hlast).trans ?_
    dsimp only
    rw [hcore, hcharge.core]

/-! ## A pass -/

/-- The scratch window's bytes before the drained rows: the dense rows, whole 64-byte lines (R189). -/
def Fallback.start (f : Fallback) (fmt : Nat) : Nat := roundUp (denseRowBytes fmt f.slab.rows * f.rows.length) 64

/-- The first run of a core's queue may pass: compaction holds the window, no array task's data is in the way, and the slab's block is at
hand in `q` and read sound, which leaves `k`. -/
structure Block.MayPass (b : Block) (c : Fin 128) (f : Fallback) (rest : List Fallback) (t : TaskSt) (src : Source) (q : Block)
    (k : (Reader × List Nat) × Block) : Prop where
  first : (b.core c.val).fallbacks = f :: rest
  task : b.bySerial (.core c) f.serial = some t
  window : wfield (b.rd (.drl c) Reg.DRL_SCRATCH) 1 0 = 1
  free : (b.seenBy t).arrayFree c = true
  drained : (b.seenBy t).drainsBefore c t (t.task.par 4 2) f.rows.length = false
  source : (b.seenBy t).source ((b.seenBy t).desc t.task.descB.toNat) f.slab.entry = some src
  ready : (b.seenBy t).sourcesReady c t [(src, src.ranges)] ((b.seenBy t).desc t.task.descB.toNat).allowNewer f.slab.pageIn = (.ok, q)
  reads : (q.stopFiller c).portSource c t src src.portBytes src.ranges = k
  sound : k.1.2 = []

theorem Block.stopFiller_unposted (b : Block) (c : Fin 128) : b.unposted.stopFiller c = (b.stopFiller c).unposted := by
  unfold Block.stopFiller
  dsimp only
  rw [apply_ite Block.unposted]
  rfl

theorem Block.MayPass.unposted {b : Block} {c : Fin 128} {f : Fallback} {rest : List Fallback} {t : TaskSt} {src : Source} {q : Block}
    {k : (Reader × List Nat) × Block} (h : b.MayPass c f rest t src q k) : b.unposted.MayPass c f rest t src q.unposted (silent k) := by
  refine ⟨h.first, h.task, h.window, h.free, h.drained, h.source, ?_, ?_, h.sound⟩
  · exact ((b.seenBy t).sourcesReady_unposted c t _ _ _).trans (congrArg silent h.ready)
  · rw [q.stopFiller_unposted, Block.portSource_unposted, h.reads]

/-- The tiles of 128 columns that a slab's block, read by `rd`, makes. -/
def Block.slabTiles (v : Block) (t : TaskSt) (f : Fallback) (s : Source) (rd : Reader) : List WTile :=
  let gear := (compactGear (v.desc t.task.descA.toNat) (v.desc t.task.descB.toNat)).getD 0
  (List.range (ceilDiv f.slab.cols 128)).filterMap (fun j =>
    makeTile gear s.d { s.e with colStart := s.e.colStart + 128 * j, colCount := min 128 (f.slab.cols - 128 * j) } f.slab.entry
      (0, 0, []) rd rd s.d)

theorem Block.length_slabTiles (v : Block) (t : TaskSt) (f : Fallback) (s : Source) (rd : Reader) :
    (v.slabTiles t f s rd).length ≤ ceilDiv f.slab.cols 128 :=
  (List.length_filterMap_le _ _).trans List.length_range.le

/-- On an array taken for a pass, its dense rows are written and its tiles passed. -/
def Block.passWork (y v : Block) (c : Fin 128) (t : TaskSt) (f : Fallback) (s : Source) (rd : Reader) (eccCorr : Nat) : Block :=
  let a := v.desc t.task.descA.toNat
  let gear := (compactGear a (v.desc t.task.descB.toNat)).getD 0
  let tiles := v.slabTiles t f s rd
  ((y.writeDense c a.format f.slab.rows (f.rows.map (fun p => p.2))).drnCount c Reg.DRN_ECC_CORR eccCorr 0).passTiles c
    ((accMode gear a (v.desc t.task.descB.toNat)).getD 1) (gearPer gear) (t.task.par 4 2) (f.start a.format)
    (wbit (y.rd (.darr c) Reg.DARR_GATE) 0) f tiles (f.rows.length * tiles.length)

/-- What a pass makes of a module in which its block has been read: the array is taken, worked on and given back. -/
def Block.passRun (x v : Block) (c : Fin 128) (t : TaskSt) (f : Fallback) (s : Source) (rd : Reader) (cycles eccCorr : Nat) (last : Bool) :
    Block :=
  let n := f.rows.length * ceilDiv f.slab.cols 128 * ceilDiv (elemBits (v.desc t.task.descA.toNat).format * f.slab.rows) 8
  ((x.passBegun c n).passWork v c t f s rd eccCorr).passEnd c f.serial cycles last

theorem Block.asTask_of_eq {t : TaskSt} {g : Block → Block} {b y : Block} (h : g (b.seenBy t) = y) :
    b.asTask t g = { y with lens := [] } := by
  rw [← h]
  rfl

/-- Such a run goes through whole where no error is met. -/
theorem Block.MayPass.fallbackPass {b : Block} {c : Fin 128} {f : Fallback} {rest : List Fallback} {t : TaskSt} {src : Source} {q : Block}
    {k : (Reader × List Nat) × Block} (h : b.MayPass c f rest t src q k) (cycles eccCorr : Nat) :
    fallbackPass c cycles eccCorr 0 .none b =
      { k.2.passRun (b.seenBy t) c t f src k.1.1 cycles eccCorr rest.isEmpty with lens := [] } := by
  obtain ⟨hfirst, htask, hwin, hfree, hdrained, hsource, hready, hreads, hsound⟩ := h
  have hwindow : wfield ((b.seenBy t).rd (.drl c) Reg.DRL_SCRATCH) 1 0 = 1 := hwin
  have hnone : ∀ x : Block, x.found .none = x := fun _ => rfl
  unfold Machine.fallbackPass
  simp only [hfirst, htask]
  refine Block.asTask_of_eq ?_
  simp only [hnone]
  generalize b.seenBy t = v at *
  simp only [hwindow, hfree, hdrained, hsource, hready, hreads, hsound, ne_eq, not_true_eq_false, Bool.not_true, Bool.false_eq_true,
    or_self, if_false, List.head?_nil, Nat.zero_mod, zero_ne_one, false_and]
  rfl

theorem le_roundUp (n : Nat) : n ≤ roundUp n 64 := by
  unfold roundUp ceilDiv
  omega

/-- The bytes of the scratch window that a pass writes: dense rows, then drained rows of FP32 tile by tile (R189). -/
def Fallback.size (f : Fallback) (fmt : Nat) : Nat := f.start fmt + 512 * f.rows.length * ceilDiv f.slab.cols 128

theorem Block.passKeeps_passWork (y v : Block) (c : Fin 128) (t : TaskSt) (f : Fallback) (s : Source) (rd : Reader) (eccCorr : Nat)
    (h : f.size (v.desc t.task.descA.toNat).format ≤ 2 ^ 26) :
    y.PassKeeps c (f.size (v.desc t.task.descA.toNat).format) (y.passWork v c t f s rd eccCorr) := by
  have hdense : denseRowBytes (v.desc t.task.descA.toNat).format f.slab.rows * (f.rows.map (fun p => p.2)).length ≤
      f.size (v.desc t.task.descA.toNat).format := by
    rw [List.length_map]
    exact (le_roundUp _).trans (Nat.le_add_right _ _)
  have htiles : f.start (v.desc t.task.descA.toNat).format + 512 * f.rows.length * (v.slabTiles t f s rd).length ≤
      f.size (v.desc t.task.descA.toNat).format := Nat.add_le_add_left (Nat.mul_le_mul_left _ (v.length_slabTiles t f s rd)) _
  unfold Block.passWork
  exact ((y.passKeeps_writeDense c h _ _ _ hdense).trans (Block.passKeeps_drnCount c _ _ _ _ (by decide))).trans
    (Block.passKeeps_passTiles _ c h _ _ _ _ _ f _ _ htiles)

/-- What a pass leaves of the module `x` in which its block has been read: the run is off the queue, no tile is left, of memory the scratch
window alone was written, and the task has taken the cycles (R189). -/
structure Block.Passed (c : Fin 128) (f : Fallback) (rest : List Fallback) (t : TaskSt) (size cycles : Nat) (x z : Block) : Prop where
  posted : z.posted = x.posted
  fallbacks : (z.core c.val).fallbacks = rest
  active : (z.core c.val).active = none
  slab : (z.core c.val).slab = (x.core c.val).slab
  mem : ∀ j, j < windowPhys c ∨ windowPhys c + size ≤ j → Sparse.get z.memDef z.mem j = Sparse.get x.memDef x.mem j
  task : z.bySerial (.core c) f.serial = some (t.spent cycles cycles)

theorem Block.passed_passRun {x v : Block} {c : Fin 128} {t : TaskSt} {f : Fallback} {rest : List Fallback} (s : Source) (rd : Reader)
    (cycles eccCorr : Nat) (hfirst : (x.core c.val).fallbacks = f :: rest) (htask : x.bySerial (.core c) f.serial = some t)
    (hahead : (x.begunAhead c).all (fun y => y.serial != f.serial) = true) (h : f.size (v.desc t.task.descA.toNat).format ≤ 2 ^ 26) :
    x.Passed c f rest t (f.size (v.desc t.task.descA.toNat).format) cycles (x.passRun v c t f s rd cycles eccCorr rest.isEmpty) := by
  unfold Block.passRun
  dsimp only
  generalize f.rows.length * ceilDiv f.slab.cols 128 * ceilDiv (elemBits (v.desc t.task.descA.toNat).format * f.slab.rows) 8 = n
  obtain ⟨hmem, hdef, hposted⟩ := x.quiet_passBegun c n
  have hcore := x.core_passBegun c n
  have hserial := Block.bySerial_passBegun n hahead
  have hkeep := (x.passBegun c n).passKeeps_passWork v c t f s rd eccCorr h
  generalize (x.passBegun c n).passWork v c t f s rd eccCorr = w at hkeep ⊢
  obtain ⟨hm, hd, hp, hfalls, hactive, hslab, ht⟩ := w.passEnds_passEnd c f.serial cycles rest.isEmpty
  refine ⟨?_, ?_, ?_, ?_, fun j hj => ?_, ?_⟩
  · rw [hp, hkeep.posted, hposted]
  · rw [hfalls, hkeep.core, hcore]
    exact congrArg (List.drop 1) hfirst
  · rw [hactive, hkeep.core, hcore]
  · rw [hslab, hkeep.core, hcore]
  · rw [hm, hd, hkeep.mem j hj, hmem, hdef]
  · rw [ht]
    unfold Block.bySerial Block.unit at hserial htask ⊢
    rw [hkeep.units, hserial, htask]
    rfl

/-- Such a run, whose task no array task begun ahead shares its number with, completes with what a pass leaves. -/
theorem completes_fallbackPass {s : State} {c : Fin 128} {f : Fallback} {rest : List Fallback} {t : TaskSt} {src : Source} {q : Block}
    {k : (Reader × List Nat) × Block} {P : Block → Prop} (cycles eccCorr : Nat) (hr : s.block.running = true)
    (h : s.block.MayPass c f rest t src q k) (hfirst : (k.2.core c.val).fallbacks = f :: rest)
    (htask : k.2.bySerial (.core c) f.serial = some t) (hahead : (k.2.begunAhead c).all (fun y => y.serial != f.serial) = true)
    (hsize : f.size ((s.block.seenBy t).desc t.task.descA.toNat).format ≤ 2 ^ 26)
    (hp : ∀ b, k.2.Passed c f rest t (f.size ((s.block.seenBy t).desc t.task.descA.toNat).format) cycles
      { b with posted := k.2.posted } → P b) : Completes (.fallbackPass c cycles eccCorr 0 .none) s P := by
  have hpass := Block.passed_passRun (x := k.2.unposted) (v := (s.block.seenBy t).unposted) src k.1.1 cycles eccCorr hfirst htask hahead
    hsize
  have hrun := h.unposted.fallbackPass cycles eccCorr
  rw [Block.seenBy_unposted] at hrun
  simp only [silent_fst, silent_snd] at hrun
  generalize k.2.unposted.passRun (s.block.seenBy t).unposted c t f src k.1.1 cycles eccCorr rest.isEmpty = z at hpass hrun
  exact completes_quiet (y := { z with lens := [] }) rfl hr hrun hpass.posted
    (hp _ ⟨rfl, hpass.fallbacks, hpass.active, hpass.slab, hpass.mem, hpass.task⟩)

/-! ## Who holds the scratch window -/

/-- Filler that is stopped in a core whose window it does not hold leaves all but the account of filler. -/
theorem Block.placed_of_released {b : Block} {c : Fin 128} (h : wfield (b.rd (.drl c) Reg.DRL_SCRATCH) 1 0 ≠ 2) :
    ∃ p : PwrSt, b.placed c = { b with pwr := p } := by
  unfold Block.placed
  split
  · exact ⟨_, if_pos h⟩
  · exact ⟨b.pwr, rfl⟩

/-- The holder of the window once filler gives it up: compaction while a pass waits. -/
def Block.nextHolder (b : Block) (c : Fin 128) : Nat := if (b.core c.val).fallbacks.isEmpty then 0 else 1

theorem Block.nextHolder_lt (b : Block) (c : Fin 128) : b.nextHolder c < 2 := by
  unfold Block.nextHolder
  split <;> decide

theorem wfield_released (w : Word) {n : Nat} (h : n < 2) : wfield (wset (wsetBit w 8 false) 1 0 n) 1 0 = n := by
  rw [wfield_wset_self _ _ (by decide) (by decide)]
  exact Nat.mod_eq_of_lt (by omega)

theorem wbit_released (w : Word) (n : Nat) : wbit (wset (wsetBit w 8 false) 1 0 n) 8 = false := by
  rw [wbit_wset_other _ _ _ (by decide) (.inr (by decide)), wbit_wsetBit_self _ _ _ (by decide)]

/-- Filler that is asked writes the window over to its next holder. -/
theorem Block.scratchYield_asked {b : Block} {c : Fin 128} (hheld : wfield (b.rd (.drl c) Reg.DRL_SCRATCH) 1 0 = 2)
    (hasked : wbit (b.rd (.drl c) Reg.DRL_SCRATCH) 8 = true) : ∃ p : PwrSt, scratchYield c b =
      { b.wr (.drl c) Reg.DRL_SCRATCH (wset (wsetBit (b.rd (.drl c) Reg.DRL_SCRATCH) 8 false) 1 0 (b.nextHolder c)) with pwr := p } := by
  unfold scratchYield
  dsimp only
  rw [if_pos ⟨hheld, hasked⟩]
  refine Block.placed_of_released (b := { b.wr (.drl c) Reg.DRL_SCRATCH _ with pwr := _ }) ?_
  have hnext := b.nextHolder_lt c
  refine ne_of_eq_of_ne ((congrArg (fun w => wfield w 1 0) (b.rd_wr_self _ _ _)).trans (wfield_released _ hnext)) (Nat.ne_of_lt hnext)

/-- A pass that finds filler in the window, not yet asked, asks for it and is counted (R190). -/
theorem Block.wantScratch_held {b : Block} {c : Fin 128} (hheld : wfield (b.rd (.drl c) Reg.DRL_SCRATCH) 1 0 = 2)
    (hquiet : wbit (b.rd (.drl c) Reg.DRL_SCRATCH) 8 = false) : b.wantScratch c =
      (b.wr (.drl c) Reg.DRL_SCRATCH (wsetBit (b.rd (.drl c) Reg.DRL_SCRATCH) 8 true)).count (.drl c) Reg.DRL_YIELDS 1 :=
  (if_neg (by rw [hheld]; decide)).trans (if_pos ⟨hheld, by rw [hquiet]; rfl⟩)

theorem Block.yields_wr_scratch (b : Block) (c : Fin 128) (w : Word) :
    (b.wr (.drl c) Reg.DRL_SCRATCH w).rd64 (.drl c) Reg.DRL_YIELDS = b.rd64 (.drl c) Reg.DRL_YIELDS :=
  b.rd64_other (b.rd_wr_other _ (by decide) (by decide) (.inr (by decide))) (b.rd_wr_other _ (by decide) (by decide) (.inr (by decide)))

end Sys2Proof.Machine
end

section
/-! PROOF. O30: SPMM and fallback passes together. -/

namespace Sys2Proof.Machine

open Sys2Proof

/-- Settles O30: no step of an SPMM looks at the events of the cycle, so that each leaves what the premisses name, and the account of the
step keeps slabs and merge rows; a pass stores inside its core's scratch window alone, which no other address of memory leads to. -/
theorem sparseProductsAndFallback : Obligations.SparseProductsAndFallback := by
  unfold Obligations.SparseProductsAndFallback
  refine ⟨?_, ?_⟩
  · intro s c cycles q t v r e a w o passed hr hq ht
    refine ⟨completes_spmmStream_bad cycles hr hq ht, ?_, ?_, ?_⟩
    · intro k y hclean hsrc hkind hrows hcols htake hk hy
      refine completes_spmmLoad cycles hr hq ⟨ht, hclean, hsrc, hkind, hrows, hcols, htake, hk⟩ hy fun b hb => ?_
      have hcore := hb.core
      rw [Block.core_loadSlab] at hcore
      refine ⟨hb.task, hb.mem, ?_, ?_, k.slab e, ?_, rfl, rfl, rfl⟩
      · rw [hcore]
      · rw [hcore]
      · rw [hcore]
    · intro q1 y k sl row col hclean hsrc hone htwo hfull hsingle hstart hcount hroom want hready htake hk hslab hcols hdense hthr hidx
        hlow hhigh hrows hleft hright hidle d hsound hd
      refine completes_spmmStream (k := k) (d := d) cycles hr hq ⟨ht, hclean, hsrc, ⟨hone, htwo⟩, hfull, hsingle, ⟨hstart, hcount⟩,
        hroom, hslab, hdense, hthr, hidle, hidx, ⟨hlow, hhigh, hrows⟩, ⟨hleft, hright⟩, q1, y, hready, htake, hk, rfl,
        hsound⟩ hd fun b hb => ?_
      intro val
      obtain ⟨hused, hnext⟩ := d.2.streamed_slab c sl (row - e.kp 0) col val
      refine ⟨hb.task, hb.mem, ?_, ?_, fun j hj => ?_, fun m j hj hm => ?_⟩
      · rw [hb.core]
        exact hused
      · rw [hb.core]
        exact hnext
      · rw [hb.core]
        exact d.2.mergeVal_streamed c _ col val hj
      · rw [hb.core]
        exact d.2.mergeVal_streamed_other c col val hcols hj hm
    · intro q1 hclean hsrc hone htwo hfull hsingle hcount hlow hnear hblocks hidle cols hwork hopen vals z hz hm
      refine completes_spmmFlush cycles hr hq ⟨ht, hclean, hsrc, ⟨hone, htwo⟩, hfull, hsingle, hcount, ⟨hlow, hnear⟩, hblocks, hidle, hwork,
        q1, hopen, Prod.ext hz rfl⟩ hm fun b hb => ?_
      refine ⟨hb.task, hb.mem, fun j hj => ?_, fun m j hj hm => ?_⟩
      · rw [hb.core]
        exact (Block.mergeVal_clearMerge _ _ _ (by omega)).trans (if_pos ⟨rfl, hj⟩)
      · rw [hb.core]
        exact (Block.mergeVal_clearMerge _ _ _ hj).trans (if_neg fun h => hm h.1)
  · intro s c cycles eccCorr w hr
    refine ⟨?_, ?_, ?_⟩
    · intro f rest t src q hfirst htask hwin v a wd n base size hfree hdrained hsource hready k hsound hk hphase hfalls hahead hsize
      refine completes_fallbackPass cycles eccCorr hr ⟨hfirst, htask, hwin, hfree, hdrained, hsource, hready, rfl, hsound⟩ hfalls hk hahead
        hsize fun b hb => ?_
      exact ⟨hb.fallbacks, hb.active, hb.slab, hb.mem, t.spent cycles cycles, hb.task, rfl, rfl, rfl, rfl⟩
    · intro hheld hasked
      obtain ⟨p, hp⟩ := Block.scratchYield_asked (b := s.block.unposted) hheld hasked
      refine completes_quiet rfl hr hp rfl ⟨rfl, rfl, rfl, ?_, ?_⟩
      · exact (congrArg (fun x => wbit x 8) (s.block.rd_wr_self _ _ _)).trans (wbit_released _ _)
      · exact (congrArg (fun x => wfield x 1 0) (s.block.rd_wr_self _ _ _)).trans (wfield_released _ (s.block.nextHolder_lt c))
    · intro hheld hquiet b
      have hb := Block.wantScratch_held hheld hquiet
      have hword : b.rd (.drl c) Reg.DRL_SCRATCH = wsetBit w 8 true :=
        (congrArg (fun x : Block => x.rd (.drl c) Reg.DRL_SCRATCH) hb).trans
          ((Block.rd_count_other _ _ (by decide) (by decide) (.inr (by decide))).trans (Block.rd_wr_self _ _ _ _))
      refine ⟨?_, ?_, ?_⟩
      · rw [hword]
        exact (wfield_wsetBit_other _ _ _ (.inl (by decide))).trans hheld
      · rw [hword]
        exact wbit_wsetBit_self _ _ _ (by decide)
      · refine (congrArg (fun x : Block => x.rd64 (.drl c) Reg.DRL_YIELDS) hb).trans ?_
        rw [Block.rd64_count _ _ _ _ (by decide), Block.yields_wr_scratch]

end Sys2Proof.Machine
end

section
/-! PROOF. Placement (R208 to R210): each choice is placed or dropped, and no segment overflows. -/

namespace Sys2Proof.Machine

open Sys2Proof

/-- The segment of a number; past the last one, an empty segment. -/
abbrev segAt (segs : List Seg) (k : Nat) : Seg := segs.getD k ⟨0, 0, 0, 0, 0, 0⟩

/-! ## One row more in a segment -/

theorem getD_set_succ (l : List Nat) (k i : Nat) :
    (l.set k (l.getD k 0 + 1)).getD i 0 = if i = k ∧ k < l.length then l.getD k 0 + 1 else l.getD i 0 := by
  rw [List.getD_eq_getElem?_getD, List.getElem?_set, List.getD_eq_getElem?_getD]
  split
  · next h =>
    subst h
    split
    · next hk => rw [if_pos ⟨rfl, hk⟩, Option.getD_some]
    · next hk => rw [if_neg fun h => hk h.2, List.getD_eq_default _ _ (Nat.not_lt.1 hk), Option.getD_none]
  · next h => rw [if_neg fun hk => h hk.1.symm, List.getD_eq_getElem?_getD]

theorem sum_set_succ {l : List Nat} {k : Nat} (h : k < l.length) : (l.set k (l.getD k 0 + 1)).sum = l.sum + 1 := by
  induction l generalizing k with
  | nil => exact absurd h (Nat.not_lt_zero k)
  | cons x l ih =>
    cases k with
    | zero =>
      rw [List.set_cons_zero, List.getD_cons_zero, List.sum_cons, List.sum_cons]
      omega
    | succ k =>
      rw [List.set_cons_succ, List.getD_cons_succ, List.sum_cons, List.sum_cons, ih (Nat.lt_of_succ_lt_succ h)]
      omega

/-! ## The segment that takes a choice (R209) -/

theorem segAt_of_mem_own {segs : List Seg} {e : Nat} {p : Seg × Nat} (h : p ∈ segs.zipIdx.filter (fun p => p.1.expert == e)) :
    p.2 < segs.length ∧ segAt segs p.2 = p.1 := by
  have hget := List.mem_zipIdx_iff_getElem?.1 (List.mem_filter.1 h).1
  exact ⟨(List.getElem?_eq_some_iff.1 hget).1, by rw [segAt, List.getD_eq_getElem?_getD, hget, Option.getD_some]⟩

/-- A segment that takes a choice has room for it. -/
theorem pickSeg_hasRoom {segs : List Seg} {fill : List Nat} {localFirst : Bool} {self start e k : Nat}
    (h : pickSeg segs fill localFirst self start e = some k) : k < segs.length ∧ fill.getD k 0 < (segAt segs k).cap := by
  suffices hp : ∃ p ∈ segs.zipIdx.filter (fun p => p.1.expert == e), fill.getD p.2 0 < p.1.cap ∧ p.2 = k by
    obtain ⟨p, hmem, hroom, rfl⟩ := hp
    obtain ⟨hlt, hseg⟩ := segAt_of_mem_own hmem
    exact ⟨hlt, hseg ▸ hroom⟩
  unfold pickSeg at h
  dsimp only at h
  split at h
  · next p hp =>
    split at hp
    · obtain ⟨hfind, hroom⟩ := Option.filter_eq_some_iff.1 hp
      exact ⟨p, List.mem_of_find?_eq_some hfind, of_decide_eq_true hroom, Option.some.inj h⟩
    · cases hp
  · obtain ⟨p, hfind, hk⟩ := Option.map_eq_some_iff.1 h
    have hroom : decide (fill.getD p.2 0 < p.1.cap) = true :=
      List.find?_some (p := fun p : Seg × Nat => decide (fill.getD p.2 0 < p.1.cap)) hfind
    refine ⟨p, ?_, of_decide_eq_true hroom, hk⟩
    rcases List.mem_append.1 (List.mem_of_find?_eq_some hfind) with hmem | hmem
    · exact List.mem_of_mem_drop hmem
    · exact List.mem_of_mem_take hmem

/-! ## What placement keeps -/

/-- After `n` choices: each is placed or dropped, no segment holds more rows than its capacity, and each placement has a row of its
segment among those filled. -/
structure PlaceSt.Settles (segs : List Seg) (n : Nat) (s : PlaceSt) : Prop where
  choices : s.placed.length + s.dropped = n
  width : s.fill.length = segs.length
  capacity : ∀ i < segs.length, s.fill.getD i 0 ≤ (segAt segs i).cap
  rows : ∀ q ∈ s.placed, q.seg < segs.length ∧ (segAt segs q.seg).base ≤ q.row ∧ q.row < (segAt segs q.seg).base + s.fill.getD q.seg 0
  total : s.placed.length = s.fill.sum

section
variable {segs : List Seg} {n : Nat} {s : PlaceSt} (h : s.Settles segs n)
include h

theorem PlaceSt.Settles.drop : ({ s with dropped := s.dropped + 1 } : PlaceSt).Settles segs (n + 1) :=
  ⟨by rw [← h.choices, Nat.add_assoc], h.width, h.capacity, h.rows, h.total⟩

/-- A placement in the next row of a segment that has room. -/
theorem PlaceSt.Settles.place {k : Nat} (hk : k < segs.length) (hroom : s.fill.getD k 0 < (segAt segs k).cap) {q : Placed}
    (hseg : q.seg = k) (hrow : q.row = (segAt segs k).base + s.fill.getD k 0) (items : Nat) :
    ({ s with items := items, fill := s.fill.set k (s.fill.getD k 0 + 1), placed := s.placed ++ [q] } : PlaceSt).Settles segs (n + 1) := by
  obtain ⟨hchoices, hwidth, hcap, hrows, htotal⟩ := h
  have hlt : k < s.fill.length := hwidth ▸ hk
  refine ⟨?_, by rw [List.length_set, hwidth], fun i hi => ?_, fun p hp => ?_, ?_⟩
  · rw [List.length_append, List.length_singleton, Nat.add_right_comm, hchoices]
  · rw [getD_set_succ]
    split
    · next hik => exact hik.1 ▸ hroom
    · exact hcap i hi
  · rw [getD_set_succ]
    rcases List.mem_append.1 hp with hp | hp
    · obtain ⟨hpseg, hbase, hfill⟩ := hrows p hp
      refine ⟨hpseg, hbase, ?_⟩
      split
      · next hpk =>
        rw [hpk.1] at hfill ⊢
        omega
      · exact hfill
    · rw [List.mem_singleton.1 hp, hseg, hrow, if_pos ⟨rfl, hlt⟩]
      omega
  · rw [List.length_append, List.length_singleton, htotal, sum_set_succ hlt]

/-- An attempt places the choice, or leaves it to be settled. -/
theorem PlaceSt.Settles.tryPlace (r : TaskRec) (self t rank orig e : Nat) :
    (tryPlace segs r self t rank orig e s).1.Settles segs (if (tryPlace segs r self t rank orig e s).2 then n + 1 else n) := by
  generalize hp : Machine.tryPlace segs r self t rank orig e s = p
  unfold Machine.tryPlace at hp
  dsimp only at hp
  split at hp <;> subst hp
  · exact ⟨h.choices, h.width, h.capacity, h.rows, h.total⟩
  · next k hk =>
    obtain ⟨hlt, hroom⟩ := pickSeg_hasRoom hk
    exact h.place hlt hroom rfl rfl _

/-- The walk down a ranking settles the choice. -/
theorem PlaceSt.Settles.spill (r : TaskRec) (self t rank orig left : Nat) (l : List Nat) :
    (spill segs r self t rank orig l left s).Settles segs (n + 1) := by
  induction l generalizing s left with
  | nil => exact h.drop
  | cons f rest ih =>
    unfold Machine.spill
    split
    · exact ih h left
    · cases left with
      | zero => exact h.drop
      | succ left =>
        have ht := h.tryPlace r self t rank orig f
        dsimp only
        split
        · next hplaced =>
          rw [if_pos hplaced] at ht
          exact ⟨ht.choices, ht.width, ht.capacity, ht.rows, ht.total⟩
        · next hrefused =>
          rw [if_neg hrefused] at ht
          exact ih ht left

theorem PlaceSt.Settles.placeChoice (r : TaskRec) (self : Nat) (ranks : List (List Nat)) (rank t : Nat) :
    (placeChoice segs r self ranks rank t s).Settles segs (n + 1) := by
  have ht := h.tryPlace r self t rank ((ranks.getD t []).getD rank 0) ((ranks.getD t []).getD rank 0)
  unfold Machine.placeChoice
  dsimp only
  split
  · next hplaced => rwa [if_pos hplaced] at ht
  · next hrefused =>
    rw [if_neg hrefused] at ht
    split
    · exact ht.spill r self t rank _ _ _
    · exact ht.drop

/-- A loop whose every turn settles `k` choices. -/
theorem PlaceSt.Settles.foldl {k : Nat} {f : PlaceSt → Nat → PlaceSt} (hf : ∀ s i n, s.Settles segs n → (f s i).Settles segs (n + k))
    (l : List Nat) : (l.foldl f s).Settles segs (n + l.length * k) := by
  induction l generalizing s n with
  | nil => simpa using h
  | cons i l ih =>
    have hl := ih (hf s i n h)
    rwa [Nat.add_assoc, Nat.add_comm k, ← Nat.succ_mul] at hl

end

theorem PlaceSt.settles_start (segs : List Seg) :
    PlaceSt.Settles segs 0 { fill := segs.map (fun _ => 0), placed := [], used := [], refused := [], items := 0, dropped := 0 } := by
  refine ⟨rfl, List.length_map _, fun i hi => ?_, fun q hq => absurd hq List.not_mem_nil, by simp⟩
  rw [List.getD_eq_getElem?_getD, List.getElem?_map, List.getElem?_eq_getElem hi]
  exact Nat.zero_le _

/-- Placement settles every choice of every token. -/
theorem placeAll_settles (segs : List Seg) (r : TaskRec) (self : Nat) (ranks : List (List Nat)) :
    (placeAll segs r self ranks).Settles segs (r.topk * ranks.length) := by
  have hrank : ∀ (s : PlaceSt) (rank n : Nat), s.Settles segs n →
      ((List.range ranks.length).foldl (fun s t => placeChoice segs r self ranks rank t s) s).Settles segs (n + ranks.length) := by
    intro s rank n h
    have hl := h.foldl (k := 1) (fun s t n h => h.placeChoice r self ranks rank t) (List.range ranks.length)
    rwa [List.length_range, Nat.mul_one] at hl
  have hall := (PlaceSt.settles_start segs).foldl hrank (List.range r.topk)
  rwa [List.length_range, Nat.zero_add] at hall

/-- Settles O33: every turn of the two loops keeps `PlaceSt.Settles`. -/
theorem everyChoiceIsPlacedOrDropped : Obligations.EveryChoiceIsPlacedOrDropped := by
  unfold Obligations.EveryChoiceIsPlacedOrDropped
  intro segs r self ranks
  obtain ⟨hchoices, hwidth, hcap, hrows, htotal⟩ := placeAll_settles segs r self ranks
  exact ⟨hchoices, hwidth, hcap, hrows, htotal⟩

end Sys2Proof.Machine
end

section
/-! SUPPORT. The expert directory's entries and registers (R197 to R199), and how far a bulk load or a dump comes (R220, R222). -/

namespace Sys2Proof.Machine

open Sys2Proof

theorem sideWord_exd {o : Nat} (h : o ≠ Reg.CHANGE_SEQ) : sideWord .exd o = false := by simp [sideWord, eventWord, onStackPage, h]

theorem Block.Entered.exd {a b : Block} (h : a.Entered b) : b.exd = a.exd := by
  unfold Block.Entered at h
  rw [h]

theorem Block.Accessed.exd {a b : Block} (h : a.Accessed b) : b.exd = a.exd := by rw [h.same]

theorem Block.setWords_exd (b : Block) (p : Page) (off n v : Nat) : (b.setWords p off n v).exd = b.exd := by
  induction n with
  | zero => rfl
  | succ n ih => rw [Block.setWords_succ, Block.wrN_exd, ih]

theorem Block.setCode_exd (b : Block) (p : Page) (off code : Nat) : (b.setCode p off code).exd = b.exd := Block.wrField_exd _ _ _ _ _ _

theorem Block.post_exd (b : Block) (e : Nat) (p : Page) (data : Nat) : (b.post e p data).exd = b.exd := rfl

theorem Block.words_unposted (b : Block) (p : Page) (off n : Nat) : b.unposted.words p off n = b.words p off n := rfl

/-- The fields of a register change no word but its own, and nothing beside words. -/
theorem Block.writeFields_eq_regs (b : Block) (p : Page) (off : Nat) (v : Word) :
    b.writeFields p off v = { b with regs := (b.writeFields p off v).regs } := by
  unfold Block.writeFields
  split <;> rfl

theorem Block.rd_writeFields_other (b : Block) {p : Page} {off r : Nat} (v : Word) (ho : off < 4096) (hr : r < 4096) (h : r ≠ off) :
    (b.writeFields p off v).rd p r = b.rd p r := by
  unfold Block.writeFields
  split
  · exact b.rd_wr_other _ ho hr (.inr h)
  · rfl

/-! ## Entries (R198, R199) -/

theorem Block.expert_of_dir {a b : Block} (h : b.exd.dir = a.exd.dir) (i : Nat) : b.expert i = a.expert i := by
  unfold Block.expert
  rw [h]

theorem Block.expert_setExpert (b : Block) (i e j : Nat) : (b.setExpert i e).expert j = if j = i then e else b.expert j :=
  Sparse.get_put _ _ _ _ _

theorem Block.setExpert_placed (b : Block) (i e : Nat) : (b.setExpert i e).exd.placed = b.exd.placed := rfl

theorem Block.setExpert_refused (b : Block) (i e : Nat) : (b.setExpert i e).exd.refused = b.exd.refused := rfl

/-- What the rules answer to the write of an entry. -/
theorem expRefused_cases (old new : Nat) :
    expRefused old new = 0 ∨ expRefused old new = Ev.EXD_FIELD ∨ expRefused old new = Ev.EXD_VERSION_HELD := by
  unfold expRefused
  split
  · exact .inl rfl
  · split
    · exact .inr (.inl rfl)
    · split
      · exact .inr (.inr rfl)
      · exact .inl rfl

theorem expRefused_lt (old new : Nat) : expRefused old new < 2 ^ 16 := by
  rcases expRefused_cases old new with h | h | h <;> rw [h] <;> decide

theorem expRefused_ne_logFull (old new : Nat) : expRefused old new ≠ Ev.LOG_FULL := by
  rcases expRefused_cases old new with h | h | h <;> rw [h] <;> decide

/-! ## The directory as a whole -/

/-- The module with another expert directory. -/
def Block.setExd (b : Block) (x : ExdSt) : Block := { b with exd := x }

/-- The directory is no part of what is read. -/
theorem Block.HasRead.setExd {a b : Block} (h : a.HasRead b) (x : ExdSt) : (a.setExd x).HasRead (b.setExd x) := by
  obtain ⟨hsame, hrd, ⟨hallocs, hpte, hfar, hcore, hframes⟩, hgens, hpages, hpageGens⟩ := h
  exact ⟨congrArg (fun y : Block => y.setExd x) hsame, hrd, ⟨hallocs, hpte, hfar, hcore, hframes⟩, hgens, hpages, hpageGens⟩

theorem Block.served_exd (b : Block) (die x n : Nat) : ((b.lookup die x).touchHbm x n).exd = b.exd :=
  ((b.accessed_lookup die x).trans (Block.accessed_touchHbm _ x n)).exd

/-! ## How far a run comes -/

/-- `q` is the run `r` after `m` further turns: it is short of `m` entries only where a code has ended it. -/
structure BulkRun.Advances (r : BulkRun) (m : Nat) (q : BulkRun) : Prop where
  run : q = { r with done := q.done, code := q.code }
  goesOn : r.done ≤ q.done
  reach : (q.code = 0 ∧ q.done = r.done + m) ∨ ((q.code ≠ 0 ∧ q.code < 2 ^ 32) ∧ q.done < r.done + m)

theorem BulkRun.advances_zero {r : BulkRun} (h0 : r.code = 0) : r.Advances 0 r := ⟨rfl, Nat.le_refl _, .inl ⟨h0, rfl⟩⟩

namespace BulkRun.Advances

variable {r q : BulkRun} {m : Nat} (h : r.Advances m q)
include h

theorem first : q.first = r.first := by rw [h.run]
theorem addr : q.addr = r.addr := by rw [h.run]
theorem clear : q.clear = r.clear := by rw [h.run]
theorem count : q.count = r.count := by rw [h.run]

theorem done_eq (h0 : q.code = 0) : q.done = r.done + m := by
  rcases h.reach with ⟨-, hdone⟩ | ⟨⟨hc, -⟩, -⟩
  · exact hdone
  · exact absurd h0 hc

theorem due (h0 : q.code = 0) (hm : r.done + m < r.count) : q.done < q.count := by
  rw [h.count, h.done_eq h0]
  exact hm

theorem takes (h0 : q.code = 0) : r.Advances (m + 1) { q with done := q.done + 1 } :=
  ⟨by rw [h.run], Nat.le_succ_of_le h.goesOn, .inl ⟨h0, by rw [h.done_eq h0, Nat.add_assoc]⟩⟩

theorem ends (h0 : q.code = 0) {c : Nat} (hc : c ≠ 0) (hlt : c < 2 ^ 32) : r.Advances (m + 1) { q with code := c } := by
  refine ⟨by rw [h.run], h.goesOn, .inr ⟨⟨hc, hlt⟩, ?_⟩⟩
  show q.done < r.done + (m + 1)
  rw [h.done_eq h0]
  omega

theorem stays (hc : q.code ≠ 0) : r.Advances (m + 1) q := by
  refine ⟨h.run, h.goesOn, ?_⟩
  rcases h.reach with ⟨h0, -⟩ | ⟨hends, hshort⟩
  · exact absurd h0 hc
  · exact .inr ⟨hends, by omega⟩

theorem done_le (hm : r.done + m ≤ r.count) : q.done ≤ r.count := by
  rcases h.reach with ⟨-, hdone⟩ | ⟨-, hshort⟩ <;> omega

/-- The word of the code is 0 where every entry was taken, and only there. -/
theorem code_zero_iff (hm : r.done + m = r.count) : BitVec.ofNat 32 q.code = 0 ↔ q.done = r.count := by
  rcases h.reach with ⟨h0, hdone⟩ | ⟨⟨hc, hlt⟩, hshort⟩
  · rw [h0]
    exact iff_of_true rfl (by omega)
  · refine iff_of_false (fun hz => hc ?_) (by omega)
    have hnat := congrArg BitVec.toNat hz
    rwa [BitVec.toNat_ofNat, Nat.mod_eq_of_lt hlt] at hnat

end BulkRun.Advances

end Sys2Proof.Machine
end

section
/-! PROOF. The expert directory's commands, bulk load and tally dump (R197, R199, R220, R222). -/

namespace Sys2Proof.Machine

open Sys2Proof

/-! ## EXD_CMD (R197, R199) -/

/-- EXD_CMD 1 shows the entry at EXD_SEL. -/
theorem completes_exdCmdRead {s : State} {o : Origin} (ht : s.takes o .exd Reg.EXD_CMD = true) :
    Completes (.exdCmdRead o) s (fun b =>
      b.words .exd (Reg.EXD_DATA 0) 16 = s.block.expert (s.block.rdN .exd Reg.EXD_SEL) % 2 ^ 512 ∧ b.exd = s.block.exd) := by
  have hwide : 32 * 16 = 512 := rfl
  rw [← hwide]
  refine completes_takes rfl ht fun b ⟨hrd, _, hent, _⟩ => ⟨Block.words_of_digits fun i hi => ?_, ?_⟩
  · have hside : sideWord .exd (Reg.EXD_DATA 0 + 4 * i) = false := sideWord_exd (by
      show 0x050 + 4 * 0 + 4 * i ≠ 0x020
      omega)
    rw [Block.rdN, hrd _ _ (by show 0x050 + 4 * 0 + 4 * i < 4096; omega) hside]
    exact Block.rdN_setWords s.block.unposted _ (by decide) hi
  · rw [hent.exd, Block.setWords_exd]
    rfl

theorem exdCmdWrite_eq (o : Origin) (b : Block) {i e : Nat} (hi : b.rdN .exd Reg.EXD_SEL = i)
    (he : b.words .exd (Reg.EXD_DATA 0) 16 = e) : exdCmdWrite o b =
      b.gate o .exd Reg.EXD_CMD (if expRefused (b.expert i) e ≠ 0 then .command 2 else .table i 1) (fun x =>
        if expRefused (b.expert i) e ≠ 0 then
          (x.setCode .exd Reg.EXD_STAT (expRefused (b.expert i) e)).post (expRefused (b.expert i) e) .exd 0
        else (x.setExpert i e).setCode .exd Reg.EXD_STAT 0) := by
  subst hi he
  rfl

section
variable {s : State} {o : Origin} (ht : s.takes o .exd Reg.EXD_CMD = true)
include ht

/-- EXD_CMD 2 completes with the write of the entry, or with its refusal. -/
theorem completes_exdCmdWrite {code : Nat} {P : Block → Prop}
    (hcode : expRefused (s.block.expert (s.block.rdN .exd Reg.EXD_SEL)) (s.block.words .exd (Reg.EXD_DATA 0) 16) = code)
    (hp : ∀ b : Block,
      (if code ≠ 0 then (s.block.unposted.setCode .exd Reg.EXD_STAT code).post code .exd 0
        else (s.block.unposted.setExpert (s.block.rdN .exd Reg.EXD_SEL) (s.block.words .exd (Reg.EXD_DATA 0) 16)).setCode .exd
          Reg.EXD_STAT 0).Logged b → P b) : Completes (.exdCmdWrite o) s P := by
  simp only [State.takes, Bool.and_eq_true] at ht
  obtain ⟨hd, ha⟩ := ht
  refine completes_gate (en := if code ≠ 0 then .command 2 else .table (s.block.rdN .exd Reg.EXD_SEL) 1)
    (eff := fun x => if code ≠ 0 then (x.setCode .exd Reg.EXD_STAT code).post code .exd 0
      else (x.setExpert (s.block.rdN .exd Reg.EXD_SEL) (s.block.words .exd (Reg.EXD_DATA 0) 16)).setCode .exd Reg.EXD_STAT 0)
    rfl ?_ hd ha hp
  rintro _ rfl
  subst hcode
  exact exdCmdWrite_eq o s.block.unposted rfl (s.block.words_unposted _ _ _)

theorem completes_exdCmdWrite_writes
    (h : expRefused (s.block.expert (s.block.rdN .exd Reg.EXD_SEL)) (s.block.words .exd (Reg.EXD_DATA 0) 16) = 0) :
    Completes (.exdCmdWrite o) s (fun b =>
      b.expert (s.block.rdN .exd Reg.EXD_SEL) = s.block.words .exd (Reg.EXD_DATA 0) 16 ∧
      (∀ j, j ≠ s.block.rdN .exd Reg.EXD_SEL → b.expert j = s.block.expert j) ∧ wfield (b.rd .exd Reg.EXD_STAT) 15 0 = 0 ∧
      b.exd.placed = s.block.exd.placed ∧ b.exd.refused = s.block.exd.refused) := by
  generalize hi : s.block.rdN .exd Reg.EXD_SEL = i
  generalize he : s.block.words .exd (Reg.EXD_DATA 0) 16 = e
  refine completes_exdCmdWrite ht h fun b ⟨hrd, _, hent, _⟩ => ?_
  rw [hi, he, if_neg (by decide)] at hrd hent
  have hexd : b.exd = (s.block.unposted.setExpert i e).exd := hent.exd
  have hdir : ∀ j, b.expert j = if j = i then e else s.block.expert j := fun j =>
    (Block.expert_of_dir (congrArg ExdSt.dir hexd) j).trans (s.block.unposted.expert_setExpert i e j)
  refine ⟨by rw [hdir, if_pos rfl], fun j hj => by rw [hdir, if_neg hj], ?_,
    (congrArg ExdSt.placed hexd).trans (s.block.unposted.setExpert_placed i e),
    (congrArg ExdSt.refused hexd).trans (s.block.unposted.setExpert_refused i e)⟩
  rw [hrd _ _ (by decide) (sideWord_exd (by decide))]
  exact Block.wfield_setCode _ _ _ (by decide)

theorem completes_exdCmdWrite_refused {code : Nat}
    (hcode : expRefused (s.block.expert (s.block.rdN .exd Reg.EXD_SEL)) (s.block.words .exd (Reg.EXD_DATA 0) 16) = code) (hc : code ≠ 0) :
    Completes (.exdCmdWrite o) s (fun b =>
      b.exd = s.block.exd ∧ wfield (b.rd .exd Reg.EXD_STAT) 15 0 = code ∧ b.evtCount code = satAdd64 (s.block.evtCount code) 1) := by
  have hlt : code < 2 ^ 16 := hcode ▸ expRefused_lt _ _
  have hfull : code ≠ Ev.LOG_FULL := hcode ▸ expRefused_ne_logFull _ _
  refine completes_exdCmdWrite ht hcode fun b ⟨hrd, hevt, hent, _⟩ => ?_
  rw [if_pos hc] at hrd hevt hent
  refine ⟨?_, ?_, ?_⟩
  · rw [hent.exd, Block.post_exd, Block.setCode_exd]
    rfl
  · rw [hrd _ _ (by decide) (sideWord_exd (by decide)), Block.rd_post]
    exact s.block.unposted.wfield_setCode _ _ hlt
  · rw [hevt _ hfull, Block.post_evtCount_self, Block.setCode_evtCount]
    rfl

end

/-! ## EXD_BULK_CTL and EXD_TALLY_CTL (R220, R222) -/

/-- The load or the dump that START begins. -/
def Block.exdRun (b : Block) (o : Origin) (v : Word) (tally : Bool) : BulkRun :=
  { first := b.rdN .exd Reg.EXD_SEL, count := wfield v 14 0,
    addr := b.rd64 .exd (if tally then Reg.EXD_TALLY_DST_LO else Reg.EXD_BULK_SRC_LO), clear := tally && wbit v 30, origin := o,
    done := 0, code := 0 }

/-- The directory with a load or a dump under way. -/
def ExdSt.begun (x : ExdSt) (tally : Bool) (r : BulkRun) : ExdSt :=
  if tally then { x with dump := some r } else { x with bulk := some r }

/-- The module after a START whose range passes the directory. -/
def Block.exdOverrun (b : Block) (tally : Bool) : Block :=
  ((if tally then b else b.wrN .exd Reg.EXD_BULK_DONE 0).setCode .exd Reg.EXD_STAT Ev.DESC_RANGE).post Ev.DESC_RANGE .exd 0

/-- The two registers that begin a run. -/
def exdCtl (tally : Bool) : Nat := if tally then Reg.EXD_TALLY_CTL else Reg.EXD_BULK_CTL

theorem exdCtl_lt (tally : Bool) : exdCtl tally < 4096 := by cases tally <;> decide

/-- The run that is begun is that of the registers as they stood. -/
theorem Block.exdRun_writeFields (b : Block) (o : Origin) (v : Word) (tally : Bool) :
    (b.writeFields .exd (exdCtl tally) v).exdRun o v tally = b.exdRun o v tally := by
  have hrd : ∀ r, r < 4096 → r ≠ exdCtl tally → (b.writeFields .exd (exdCtl tally) v).rd .exd r = b.rd .exd r := fun r hr hne =>
    b.rd_writeFields_other v (exdCtl_lt tally) hr hne
  have haddr : (b.writeFields .exd (exdCtl tally) v).rd64 .exd (if tally then Reg.EXD_TALLY_DST_LO else Reg.EXD_BULK_SRC_LO) =
      b.rd64 .exd (if tally then Reg.EXD_TALLY_DST_LO else Reg.EXD_BULK_SRC_LO) := by
    cases tally <;> exact Block.rd64_other b (hrd _ (by decide) (by decide)) (hrd _ (by decide) (by decide))
  unfold Block.exdRun Block.rdN
  rw [haddr, hrd Reg.EXD_SEL (by decide) (by cases tally <;> decide)]

/-- What START does where no run is under way. -/
theorem Block.exdStart_eq {b : Block} {v : Word} (hidle : wbit (b.rd .exd Reg.EXD_STAT) 31 = false) (hv : wbit v 31 = true) (o : Origin)
    (tally : Bool) : b.exdStart o (exdCtl tally) v tally =
    let x := b.writeFields .exd (exdCtl tally) v
    if 16384 < b.rdN .exd Reg.EXD_SEL + wfield v 14 0 then x.exdOverrun tally
    else (x.setExd (x.exd.begun tally (b.exdRun o v tally))).wrBit .exd Reg.EXD_STAT 31 true := by
  have hrun := b.exdRun_writeFields o v tally
  have hsel : (b.writeFields .exd (exdCtl tally) v).rdN .exd Reg.EXD_SEL = b.rdN .exd Reg.EXD_SEL := congrArg BulkRun.first hrun
  unfold Block.exdStart Block.exdBusy
  rw [if_neg (by rw [hidle]; decide)]
  dsimp only
  rw [if_neg (by rw [hv]; decide), ← hrun, ← hsel]
  cases tally <;> rfl

/-- START begins a load or a dump, or changes nothing of the directory where its range passes the last entry. -/
theorem completes_exdStart {c : Instr} {s : State} {o : Origin} {v : Word} {tally : Bool} {en : Entry}
    (he : exec c s = s.onWrite o (fun b => b.gate o .exd (exdCtl tally) en (fun x => x.exdStart o (exdCtl tally) v tally)))
    (ht : s.takes o .exd (exdCtl tally) = true) (hidle : wbit (s.block.rd .exd Reg.EXD_STAT) 31 = false) (hv : wbit v 31 = true) :
    Completes c s (fun b =>
      (s.block.rdN .exd Reg.EXD_SEL + wfield v 14 0 ≤ 16384 →
        wbit (b.rd .exd Reg.EXD_STAT) 31 = true ∧ b.exd = s.block.exd.begun tally (s.block.exdRun o v tally)) ∧
      (16384 < s.block.rdN .exd Reg.EXD_SEL + wfield v 14 0 →
        b.exd = s.block.exd ∧ (tally = false → b.rd .exd Reg.EXD_BULK_DONE = 0) ∧
        wfield (b.rd .exd Reg.EXD_STAT) 15 0 = Ev.DESC_RANGE)) := by
  have hfields : (s.block.unposted.writeFields .exd (exdCtl tally) v).exd = s.block.exd := by
    rw [Block.writeFields_eq_regs]
    rfl
  refine completes_takes he ht fun b hl => ?_
  rw [Block.exdStart_eq (b := s.block.unposted) hidle hv] at hl
  dsimp only at hl
  generalize s.block.unposted.writeFields .exd (exdCtl tally) v = x at hl hfields
  refine ⟨fun hfits => ?_, fun hover => ?_⟩
  · rw [if_neg (show ¬ 16384 < s.block.unposted.rdN .exd Reg.EXD_SEL + wfield v 14 0 from Nat.not_lt.2 hfits)] at hl
    obtain ⟨hrd, -, hent, -⟩ := hl
    refine ⟨?_, ?_⟩
    · rw [hrd _ _ (by decide) (sideWord_exd (by decide))]
      unfold Block.wrBit
      rw [Block.rd_wr_self]
      exact wbit_wsetBit_self _ _ _ (by decide)
    · rw [hent.exd, Block.wrBit_exd, hfields]
      rfl
  · rw [if_pos (show 16384 < s.block.unposted.rdN .exd Reg.EXD_SEL + wfield v 14 0 from hover)] at hl
    obtain ⟨hrd, -, hent, -⟩ := hl
    unfold Block.exdOverrun at hrd hent
    refine ⟨?_, fun htally => ?_, ?_⟩
    · rw [hent.exd, Block.post_exd, Block.setCode_exd, ← hfields]
      split <;> rfl
    · subst htally
      rw [hrd _ _ (by decide) (sideWord_exd (by decide)), Block.rd_post, if_neg (by decide)]
      exact (Block.rd_wr_other _ _ (by decide) (by decide) (.inr (by decide))).trans (Block.rd_wr_self _ _ _ _)
    · rw [hrd _ _ (by decide) (sideWord_exd (by decide)), Block.rd_post]
      exact Block.wfield_setCode _ _ _ (by decide)

/-! ## The entries of a bulk load (R222) -/

/-- A load that an entry has ended takes no further one. -/
theorem Block.exdLoadOne_ended {y : Block} {q : BulkRun} (hq : y.exd.bulk = some q) (hc : q.code ≠ 0) : y.exdLoadOne = y := by
  unfold Block.exdLoadOne Block.bulkOne
  rw [hq]
  dsimp only
  rw [if_pos (.inl hc), ← hq]

/-- The next entry of a load is refused with a code, or read and set. -/
theorem Block.exdLoadOne_goes {y : Block} {q : BulkRun} (hq : y.exd.bulk = some q) (h0 : q.code = 0) (hn : q.done < q.count) :
    (∃ c, c ≠ 0 ∧ c < 2 ^ 32 ∧ y.exdLoadOne = y.setExd { y.exd with bulk := some { q with code := c } }) ∨
    y.exdLoadOne = ((y.lookup 16 (q.addr + 64 * q.done)).touchHbm (q.addr + 64 * q.done) 64).setExd { y.exd with
      dir := Sparse.put (fun _ => 0) y.exd.dir (q.first + q.done) (y.num (q.addr + 64 * q.done) 64),
      bulk := some { q with done := q.done + 1 } } := by
  have hserved := y.served_exd 16 (q.addr + 64 * q.done) 64
  unfold Block.exdLoadOne Block.bulkOne
  rw [hq]
  dsimp only
  rw [if_neg (by omega)]
  generalize (y.lookup 16 (q.addr + 64 * q.done)).touchHbm (q.addr + 64 * q.done) 64 = z at hserved
  split
  · exact .inl ⟨Ev.ADDR_UNMAPPED, by decide, by decide, rfl⟩
  · by_cases hcode : expRefused (z.expert (q.first + q.done)) (y.num (q.addr + 64 * q.done) 64) = 0
    · rw [if_neg (not_not.2 hcode), if_pos rfl, ← hserved]
      exact .inr rfl
    · rw [if_pos hcode, if_neg hcode]
      exact .inl ⟨_, hcode, (expRefused_lt _ _).trans (by decide), rfl⟩

/-- `y` is `a` after `m` further entries of the load `r`, which has come as far as `q` says: the entries that landed stand in the directory
as memory holds them, all others as before. -/
structure Block.ExdLoading (a : Block) (r : BulkRun) (m : Nat) (y : Block) (q : BulkRun) : Prop where
  read : (a.setExd y.exd).HasRead y
  bulk : y.exd.bulk = some q
  far : r.Advances m q
  landed : ∀ i, r.done ≤ i → i < q.done → y.expert (r.first + i) = a.num (r.addr + 64 * i) 64
  kept : ∀ j, j < r.first + r.done ∨ r.first + q.done ≤ j → y.expert j = a.expert j

theorem Block.exdLoading_zero {a : Block} {r : BulkRun} (hr : a.exd.bulk = some r) (h0 : r.code = 0) : a.ExdLoading r 0 a r :=
  ⟨.refl a, hr, BulkRun.advances_zero h0, fun i hl hu => by omega, fun _ _ => rfl⟩

/-- One more entry lands, or is refused, or comes after one that was. -/
theorem Block.ExdLoading.step {a y : Block} {r q : BulkRun} {m : Nat} (h : a.ExdLoading r m y q) (hm : r.done + m < r.count) :
    ∃ q', a.ExdLoading r (m + 1) y.exdLoadOne q' := by
  obtain ⟨hread, hbulk, hfar, hlanded, hkept⟩ := h
  by_cases h0 : q.code = 0
  · rcases Block.exdLoadOne_goes hbulk h0 (hfar.due h0 hm) with ⟨c, hc, hlt, heq⟩ | heq
    · rw [heq]
      exact ⟨_, hread.setExd _, rfl, hfar.ends h0 hc hlt, hlanded, hkept⟩
    · have hnum : y.num (q.addr + 64 * q.done) 64 = a.num (r.addr + 64 * q.done) 64 := by
        rw [hread.num, hfar.addr]
        rfl
      have hdir : ∀ j, y.exdLoadOne.expert j =
          if j = r.first + q.done then a.num (r.addr + 64 * q.done) 64 else y.expert j := fun j => by
        rw [heq, ← hfar.first, ← hnum]
        exact Sparse.get_put _ _ _ _ _
      refine ⟨{ q with done := q.done + 1 }, ?_, by rw [heq]; rfl, hfar.takes h0, fun i hl hu => ?_, fun j hj => ?_⟩
      · rw [heq]
        exact (hread.trans (y.hasRead_served _ _ _)).setExd _
      · rw [hdir]
        split
        · next hi => rw [show i = q.done by omega]
        · exact hlanded i hl (by change i < q.done + 1 at hu; omega)
      · have hfrom := hfar.goesOn
        change j < _ ∨ r.first + (q.done + 1) ≤ j at hj
        rw [hdir, if_neg (by omega)]
        exact hkept j (by omega)
  · rw [Block.exdLoadOne_ended hbulk h0]
    exact ⟨q, hread, hbulk, hfar.stays h0, hlanded, hkept⟩

/-- The entries still to come land one after the other, or a code ends the load. -/
theorem Block.exdLoading_iterate {a : Block} {r : BulkRun} (hr : a.exd.bulk = some r) (h0 : r.code = 0) {m : Nat}
    (hm : r.done + m ≤ r.count) : ∃ q, a.ExdLoading r m (Block.exdLoadOne^[m] a) q := by
  induction m with
  | zero => exact ⟨r, Block.exdLoading_zero hr h0⟩
  | succ m ih =>
    obtain ⟨q, hq⟩ := ih (by omega)
    rw [Function.iterate_succ_apply']
    exact hq.step (by omega)

/-! ## The end of a bulk load (R222) -/

/-- The module with a load of the directory ended, its registers showing how far it came. -/
def Block.endExdLoad (b : Block) (q : BulkRun) : Block :=
  ((b.setExd { b.exd with bulk := none }).wrN .exd Reg.EXD_BULK_DONE q.done).wrN .exd Reg.EXD_STAT q.code

theorem Block.endExdLoad_exd (b : Block) (q : BulkRun) : (b.endExdLoad q).exd = { b.exd with bulk := none } :=
  (Block.wrN_exd _ _ _ _).trans (Block.wrN_exd _ _ _ _)

theorem Block.endExdLoad_words (b : Block) (q : BulkRun) :
    (b.endExdLoad q).rd .exd Reg.EXD_BULK_DONE = BitVec.ofNat 32 q.done ∧
    (b.endExdLoad q).rd .exd Reg.EXD_STAT = BitVec.ofNat 32 q.code := by
  unfold Block.endExdLoad
  refine ⟨?_, Block.rd_wr_self _ _ _ _⟩
  rw [Block.rd_wrN_other _ _ (by decide) (by decide) (.inr (by decide))]
  exact Block.rd_wr_self _ _ _ _

theorem exdBulkLoadDone_shows {b y : Block} {r q : BulkRun} (hr : b.exd.bulk = some r)
    (hy : Block.exdLoadOne^[r.count - r.done] b = y) (hq : y.exd.bulk = some q) : (y.endExdLoad q).Shows (exdBulkLoadDone b) := by
  have heq : exdBulkLoadDone b =
      let z := (y.endExdLoad q).logAppend q.origin LogKind.tableChange (addrOf .exd Reg.EXD_BULK_CTL) q.first q.done
      if q.code = 0 then z else z.post q.code .exd 0 := by
    unfold exdBulkLoadDone
    rw [hr]
    dsimp only
    rw [List.foldl_const, List.length_range, hy, hq]
    rfl
  rw [heq]
  have hlog := (Block.logAppend_logged (y.endExdLoad q) q.origin LogKind.tableChange (addrOf .exd Reg.EXD_BULK_CTL) q.first q.done).shows
  dsimp only
  split
  · exact hlog
  · exact hlog.trans (Block.shows_post _ _ _ _)

/-- The end of a load shows how far its entries have brought it. -/
theorem completes_exdBulkLoadDone {s : State} {r q : BulkRun} {y : Block} {P : Block → Prop} (hrun : s.block.running = true)
    (hr : s.block.exd.bulk = some r) (hy : Block.exdLoadOne^[r.count - r.done] s.block.unposted = y) (hq : y.exd.bulk = some q)
    (hp : ∀ b : Block, b.exd = { y.exd with bulk := none } → b.rd .exd Reg.EXD_BULK_DONE = BitVec.ofNat 32 q.done →
      b.rd .exd Reg.EXD_STAT = BitVec.ofNat 32 q.code → P b) : Completes .exdBulkLoadDone s P := by
  obtain ⟨hent, hrd⟩ := (exdBulkLoadDone_shows (b := s.block.unposted) hr hy hq).trans (s.block.shows_cycle exdBulkLoadDone)
  obtain ⟨hdone, hcode⟩ := y.endExdLoad_words q
  refine completes_block (f := exdBulkLoadDone) rfl hrun (hp _ ?_ ?_ ?_)
  · rw [hent.exd, Block.endExdLoad_exd]
  · rw [hrd _ _ (by decide) (sideWord_exd (by decide)), hdone]
  · rw [hrd _ _ (by decide) (sideWord_exd (by decide)), hcode]

section
variable {s : State} {r : BulkRun} (hrun : s.block.running = true) (hr : s.block.exd.bulk = some r)
include hrun hr

theorem completes_exdBulkLoadDone_lands (hn : r.count < 2 ^ 32) (hle : r.done ≤ r.count) (h0 : r.code = 0) :
    Completes .exdBulkLoadDone s (fun b =>
      b.exd.bulk = none ∧ ∃ k, r.done ≤ k ∧ k ≤ r.count ∧ b.rdN .exd Reg.EXD_BULK_DONE = k ∧
      (b.rd .exd Reg.EXD_STAT = 0 ↔ k = r.count) ∧
      (∀ i, r.done ≤ i → i < k → b.expert (r.first + i) = s.block.num (r.addr + 64 * i) 64) ∧
      ∀ j, j < r.first + r.done ∨ r.first + k ≤ j → b.expert j = s.block.expert j) := by
  have hall : r.done + (r.count - r.done) = r.count := Nat.add_sub_of_le hle
  obtain ⟨q, -, hbulk, hfar, hlanded, hkept⟩ := Block.exdLoading_iterate (a := s.block.unposted) hr h0 hall.le
  refine completes_exdBulkLoadDone hrun hr rfl hbulk fun b hexd hdone hstat => ?_
  have hdir : ∀ j, b.expert j = (Block.exdLoadOne^[r.count - r.done] s.block.unposted).expert j := Block.expert_of_dir (by rw [hexd])
  have hto : q.done ≤ r.count := hfar.done_le hall.le
  refine ⟨by rw [hexd], q.done, hfar.goesOn, hto, ?_, ?_, fun i hl hu => (hdir _).trans (hlanded i hl hu),
    fun j hj => (hdir _).trans (hkept j hj)⟩
  · rw [Block.rdN, hdone, BitVec.toNat_ofNat, Nat.mod_eq_of_lt (by omega)]
  · rw [hstat]
    exact hfar.code_zero_iff hall

/-- A load that an entry has ended lands nothing more. -/
theorem completes_exdBulkLoadDone_ended (hn : r.count < 2 ^ 32) (hle : r.done ≤ r.count) (hcode : r.code < 2 ^ 32) (hc : r.code ≠ 0) :
    Completes .exdBulkLoadDone s (fun b => b.exd.bulk = none ∧ b.exd.dir = s.block.exd.dir ∧
      b.rdN .exd Reg.EXD_STAT = r.code ∧ b.rdN .exd Reg.EXD_BULK_DONE = r.done) := by
  have hstays := Function.iterate_fixed (Block.exdLoadOne_ended (y := s.block.unposted) hr hc) (r.count - r.done)
  refine completes_exdBulkLoadDone hrun hr hstays hr fun b hexd hdone hstat => ⟨by rw [hexd], by rw [hexd]; rfl, ?_, ?_⟩
  · rw [Block.rdN, hstat, BitVec.toNat_ofNat, Nat.mod_eq_of_lt hcode]
  · rw [Block.rdN, hdone, BitVec.toNat_ofNat, Nat.mod_eq_of_lt (by omega)]

end

/-! ## The entries of a tally dump (R220) -/

/-- A dump that has been stopped stores nothing more. -/
theorem Block.tallyDumpOne_ended {y : Block} {q : BulkRun} (hq : y.exd.dump = some q) (hc : q.code ≠ 0) : y.tallyDumpOne = y := by
  unfold Block.tallyDumpOne
  rw [hq]
  exact if_pos (.inl hc)

/-- The module with another state of the dump under way. -/
def Block.setDump (b : Block) (q : Option BulkRun) : Block := b.setExd { b.exd with dump := q }

section
variable {y : Block} {q : BulkRun} (hq : y.exd.dump = some q) (h0 : q.code = 0) (hn : q.done < q.count)
include hq h0 hn

/-- An entry whose place is mapped and not protected is stored. -/
theorem Block.tallyDumpOne_stores (hprot : y.protected_ (q.addr + 16 * q.done) 16 = false) (hprobe : y.probe (q.addr + 16 * q.done) 16 = .ok) :
    y.tallyDumpOne = (y.dumpTally q q.done).setDump (some { q with done := q.done + 1 }) := by
  unfold Block.tallyDumpOne
  rw [hq]
  dsimp only
  rw [if_neg (by omega), hprot, if_neg (by decide), if_neg (not_not.2 hprobe)]
  rfl

/-- The next entry of a dump finds no place to be stored, or is stored. -/
theorem Block.tallyDumpOne_goes :
    (∃ c, c ≠ 0 ∧ c < 2 ^ 32 ∧ y.tallyDumpOne = y.setDump (some { q with code := c })) ∨
    y.tallyDumpOne = (y.dumpTally q q.done).setDump (some { q with done := q.done + 1 }) := by
  unfold Block.tallyDumpOne
  rw [hq]
  dsimp only
  rw [if_neg (by omega)]
  split
  · exact .inl ⟨Ev.DESC_PROTECT, by decide, by decide, rfl⟩
  · split
    · exact .inl ⟨Ev.ADDR_UNMAPPED, by decide, by decide, rfl⟩
    · exact .inr rfl

end

/-- The 16 bytes that a dump stores for an entry: its two tallies. -/
def Block.tallyBytes (b : Block) (i : Nat) : List Byte := toBytes 8 (tallyAt b.exd.placed i).toNat ++ toBytes 8 (tallyAt b.exd.refused i).toNat

@[simp] theorem Block.length_tallyBytes (b : Block) (i : Nat) : (b.tallyBytes i).length = 16 := by
  rw [Block.tallyBytes, List.length_append, length_toBytes, length_toBytes]

/-- One entry of a dump is a store of its tallies, and leaves them cleared in the directory where the dump clears. -/
theorem Block.dumpTally_spec (b : Block) (r : BulkRun) (i : Nat) :
    (b.dumpTally r i).posted = b.posted ∧ (b.dumpTally r i).mem = (b.store (r.addr + 16 * i) (b.tallyBytes (r.first + i))).mem ∧
    (b.dumpTally r i).exd.dir = b.exd.dir ∧
    (b.dumpTally r i).exd.placed = (if r.clear then Sparse.put (fun _ => 0) b.exd.placed (r.first + i) 0 else b.exd.placed) ∧
    (b.dumpTally r i).exd.refused = if r.clear then Sparse.put (fun _ => 0) b.exd.refused (r.first + i) 0 else b.exd.refused := by
  have hstored := b.accessed_store (r.addr + 16 * i) (b.tallyBytes (r.first + i))
  unfold Block.tallyBytes at hstored ⊢
  unfold Block.dumpTally
  dsimp only
  rw [hstored.exd]
  split
  · exact ⟨hstored.posted, rfl, rfl, rfl, rfl⟩
  · rw [hstored.exd]
    exact ⟨hstored.posted, rfl, rfl, rfl, rfl⟩

/-- Does the dump `r`, come to the entry of number `k`, clear the tallies of the entry `j`? -/
abbrev BulkRun.hits (r : BulkRun) (k j : Nat) : Prop := r.clear = true ∧ r.first + r.done ≤ j ∧ j < r.first + k

/-- The tallies `l` are `m`, but for those that the dump `r` has cleared on its way to the entry of number `k`. -/
def BulkRun.Clears (r : BulkRun) (k : Nat) (m l : Sparse DWord) : Prop := ∀ j, tallyAt l j = if r.hits k j then 0 else tallyAt m j

theorem BulkRun.clears_start (r : BulkRun) (m : Sparse DWord) : r.Clears r.done m m := fun j => by
  rw [if_neg fun h : r.hits r.done j => by obtain ⟨-, hl, hu⟩ := h; omega]

theorem BulkRun.Clears.next {r : BulkRun} {k : Nat} {m l : Sparse DWord} (h : r.Clears k m l) (hk : r.done ≤ k) :
    r.Clears (k + 1) m (if r.clear then Sparse.put (fun _ => 0) l (r.first + k) 0 else l) := fun j => by
  by_cases hclear : r.clear = true
  · rw [if_pos hclear]
    refine (Sparse.get_put _ _ _ _ _).trans ?_
    split
    · next hj => rw [if_pos ⟨hclear, by omega, by omega⟩]
    · next hj =>
      exact (h j).trans (if_congr (and_congr_right fun _ => by omega) rfl rfl)
  · rw [if_neg hclear, h j, if_neg fun hc => hclear hc.1, if_neg fun hc => hclear hc.1]

/-- `y` is `a` after `m` further entries of the dump `r`, which has come as far as `q` says. -/
structure Block.Dumping (a : Block) (r : BulkRun) (m : Nat) (y : Block) (q : BulkRun) : Prop where
  dir : y.exd.dir = a.exd.dir
  dump : y.exd.dump = some q
  far : r.Advances m q
  placed : r.Clears q.done a.exd.placed y.exd.placed
  refused : r.Clears q.done a.exd.refused y.exd.refused

theorem Block.dumping_zero {a : Block} {r : BulkRun} (hr : a.exd.dump = some r) (h0 : r.code = 0) : a.Dumping r 0 a r :=
  ⟨rfl, hr, BulkRun.advances_zero h0, r.clears_start _, r.clears_start _⟩

/-- One more entry is stored, or has no place, or comes after one that had none. -/
theorem Block.Dumping.step {a y : Block} {r q : BulkRun} {m : Nat} (h : a.Dumping r m y q) (hm : r.done + m < r.count) :
    ∃ q', a.Dumping r (m + 1) y.tallyDumpOne q' := by
  obtain ⟨hdir, hdump, hfar, hplaced, hrefused⟩ := h
  by_cases h0 : q.code = 0
  · rcases Block.tallyDumpOne_goes hdump h0 (hfar.due h0 hm) with ⟨c, hc, hlt, heq⟩ | heq
    · rw [heq]
      exact ⟨_, hdir, rfl, hfar.ends h0 hc hlt, hplaced, hrefused⟩
    · obtain ⟨-, -, hdirs, hplaces, hrefuses⟩ := y.dumpTally_spec q q.done
      rw [hfar.clear, hfar.first] at hplaces hrefuses
      rw [heq]
      exact ⟨_, hdirs.trans hdir, rfl, hfar.takes h0, fun j => (congrArg (tallyAt · j) hplaces).trans (hplaced.next hfar.goesOn j),
        fun j => (congrArg (tallyAt · j) hrefuses).trans (hrefused.next hfar.goesOn j)⟩
  · rw [Block.tallyDumpOne_ended hdump h0]
    exact ⟨q, hdir, hdump, hfar.stays h0, hplaced, hrefused⟩

theorem Block.dumping_iterate {a : Block} {r : BulkRun} (hr : a.exd.dump = some r) (h0 : r.code = 0) {m : Nat}
    (hm : r.done + m ≤ r.count) : ∃ q, a.Dumping r m (Block.tallyDumpOne^[m] a) q := by
  induction m with
  | zero => exact ⟨r, Block.dumping_zero hr h0⟩
  | succ m ih =>
    obtain ⟨q, hq⟩ := ih (by omega)
    rw [Function.iterate_succ_apply']
    exact hq.step (by omega)

/-! ## The end of a tally dump (R220) -/

/-- The module with a dump ended, its status showing the code that stopped it. -/
def Block.endDump (b : Block) (q : BulkRun) : Block := (b.setDump none).wrN .exd Reg.EXD_STAT q.code

theorem tallyDumpDone_eq {b y : Block} {r q : BulkRun} (hr : b.exd.dump = some r)
    (hy : Block.tallyDumpOne^[r.count - r.done] b = y) (hq : y.exd.dump = some q) :
    tallyDumpDone b = if q.code = 0 then y.endDump q else (y.endDump q).post q.code .exd 0 := by
  unfold tallyDumpDone
  rw [hr]
  dsimp only
  rw [List.foldl_const, List.length_range, hy, hq]
  rfl

section
variable {s : State} {r : BulkRun} (hrun : s.block.running = true) (hr : s.block.exd.dump = some r)
include hrun hr

theorem completes_tallyDumpDone (hle : r.done ≤ r.count) (h0 : r.code = 0) :
    Completes .tallyDumpDone s (fun b => b.exd.dump = none ∧ b.exd.dir = s.block.exd.dir ∧
      ∃ k, r.done ≤ k ∧ k ≤ r.count ∧ (b.rd .exd Reg.EXD_STAT = 0 ↔ k = r.count) ∧
        r.Clears k s.block.exd.placed b.exd.placed ∧ r.Clears k s.block.exd.refused b.exd.refused) := by
  have hall : r.done + (r.count - r.done) = r.count := Nat.add_sub_of_le hle
  obtain ⟨q, hdir, hdump, hfar, hplaced, hrefused⟩ := Block.dumping_iterate (a := s.block.unposted) hr h0 hall.le
  generalize hy : Block.tallyDumpOne^[r.count - r.done] s.block.unposted = y at hdir hdump hplaced hrefused
  have hends : (y.endDump q).Shows (tallyDumpDone s.block.unposted) := by
    rw [tallyDumpDone_eq (b := s.block.unposted) hr hy hdump]
    split
    · exact (Block.Logged.refl _).shows
    · exact Block.shows_post _ _ _ _
  obtain ⟨hent, hrd⟩ := hends.trans (s.block.shows_cycle tallyDumpDone)
  have hexd : (s.block.cycle tallyDumpDone).exd = { y.exd with dump := none } := hent.exd
  refine completes_block (f := tallyDumpDone) rfl hrun ⟨by rw [hexd], by rw [hexd]; exact hdir, q.done, hfar.goesOn,
    hfar.done_le hall.le, ?_, by rw [hexd]; exact hplaced, by rw [hexd]; exact hrefused⟩
  rw [hrd _ _ (by decide) (sideWord_exd (by decide)), show (y.endDump q).rd .exd Reg.EXD_STAT = BitVec.ofNat 32 q.code from
    Block.rd_wr_self _ _ _ _]
  exact hfar.code_zero_iff hall

/-- The dump of one entry changes memory in the 16 bytes of its tallies. -/
theorem completes_tallyDumpDone_stores {a : Nat} (hone : r.count = 1) (hdone : r.done = 0) (h0 : r.code = 0)
    (hprot : s.block.protected_ r.addr 16 = false) (hprobe : s.block.probe r.addr 16 = .ok) (ha : s.block.resolveOwn r.addr = .phys a)
    (hfits : r.addr / 65536 = (r.addr + 15) / 65536) :
    Completes .tallyDumpDone s (fun b => ∀ j, Sparse.get s.block.memDef b.mem j =
      if a ≤ j then (s.block.tallyBytes r.first).getD (j - a) (Sparse.get s.block.memDef s.block.mem j)
      else Sparse.get s.block.memDef s.block.mem j) := by
  have haddr : r.addr + 16 * r.done = r.addr := by rw [hdone, Nat.mul_zero, Nat.add_zero]
  have hfirst : r.first + r.done = r.first := by rw [hdone, Nat.add_zero]
  have hstores := Block.tallyDumpOne_stores (y := s.block.unposted) hr h0 (by omega) (by rw [haddr]; exact hprot)
    (by rw [haddr]; exact hprobe)
  have hends : tallyDumpDone s.block.unposted = _ := tallyDumpDone_eq (b := s.block.unposted) hr
    ((congrArg (fun n => Block.tallyDumpOne^[n] s.block.unposted) (show r.count - r.done = 1 by omega)).trans hstores) rfl
  rw [if_pos h0] at hends
  obtain ⟨hposted, hmem, -, -, -⟩ := s.block.unposted.dumpTally_spec r r.done
  rw [haddr, hfirst] at hmem
  refine completes_quiet (f := tallyDumpDone) rfl hrun hends hposted fun j => ?_
  refine (congrArg (fun m => Sparse.get s.block.memDef m j) hmem).trans (Block.get_mem_store (b := s.block.unposted) ?_ ha j)
  rw [Block.length_tallyBytes]
  exact hfits

end

/-- Settles O32: a write of EXD_CMD, EXD_BULK_CTL or EXD_TALLY_CTL is its own lemma; a load keeps `Block.ExdLoading` from entry to entry,
and a dump `Block.Dumping`. -/
theorem directoryCommands : Obligations.DirectoryCommands := by
  unfold Obligations.DirectoryCommands
  refine ⟨fun s o ht => ⟨completes_exdCmdRead ht, completes_exdCmdWrite_writes ht, fun code => completes_exdCmdWrite_refused ht⟩,
    fun s o v => ?_, fun s r hrun hn hle hcode => ⟨fun hr => completes_exdBulkLoadDone_lands hrun hr hn hle,
      fun hr => completes_exdBulkLoadDone_ended hrun hr hn hle hcode, fun hr h0 => ?_, ?_⟩⟩
  · intro first hidle hv
    refine ⟨fun ht => ?_, fun ht => ?_⟩
    · refine (completes_exdStart (tally := false) rfl ht hidle hv).imp fun b ⟨hbegins, hoverruns⟩ => ⟨?_, fun hfits => ?_, fun hover => ?_⟩
      · rcases Nat.lt_or_ge 16384 (first + wfield v 14 0) with hover | hfits
        · rw [(hoverruns hover).1]
        · rw [(hbegins hfits).2]
          rfl
      · obtain ⟨hbusy, hexd⟩ := hbegins hfits
        exact ⟨hbusy, by rw [hexd]; rfl⟩
      · obtain ⟨hexd, hdone, hstat⟩ := hoverruns hover
        exact ⟨hexd, hdone rfl, hstat⟩
    · refine (completes_exdStart (tally := true) rfl ht hidle hv).imp fun b ⟨hbegins, hoverruns⟩ => ⟨fun hfits => ?_, fun hover => ?_⟩
      · obtain ⟨hbusy, hexd⟩ := hbegins hfits
        exact ⟨hbusy, by rw [hexd]; rfl⟩
      · obtain ⟨hexd, -, hstat⟩ := hoverruns hover
        exact ⟨hexd, hstat⟩
  · refine (completes_tallyDumpDone hrun hr hle h0).imp fun b ⟨hdump, hdir, k, hfrom, hto, hstat, hplaced, hrefused⟩ =>
      ⟨hdump, hdir, k, hfrom, hto, hstat, fun j => ⟨hplaced j, hrefused j⟩⟩
  · intro a hr hone hdone h0 hprot hprobe ha hfits
    refine (completes_tallyDumpDone_stores hrun hr hone hdone h0 hprot hprobe ha hfits).imp fun b hmem => ⟨fun i hi => ?_, fun j hj => ?_⟩
    · rw [hmem, if_pos (Nat.le_add_right a i), Nat.add_sub_cancel_left]
      have hlen : i < (s.block.tallyBytes r.first).length := by rwa [Block.length_tallyBytes]
      exact (List.getD_eq_getElem _ _ hlen).trans (List.getD_eq_getElem _ _ hlen).symm
    · rw [hmem]
      split
      · exact List.getD_eq_default _ _ (by rw [Block.length_tallyBytes]; omega)
      · rfl

end Sys2Proof.Machine
end

section
/-! SUPPORT. What memory holds, and, function by function in the model's order, what leaves it. -/

namespace Sys2Proof.Machine

open Sys2Proof

/-- What memory holds, and what the reading of an unlisted byte depends on. -/
def Block.memory (b : Block) : Sparse Byte × Sparse Nat × Sparse Nat × Nat := (b.mem, b.winFree, b.slabFree, b.nv.bootCount)

@[simp] theorem memory_ite {c : Prop} [Decidable c] (x y : Block) :
    (if c then x else y).memory = if c then x.memory else y.memory := apply_ite Block.memory c x y

@[simp] theorem memory_snd_ite {α : Type} {c : Prop} [Decidable c] (x y : α × Block) :
    (if c then x else y).2.memory = if c then x.2.memory else y.2.memory := apply_ite (fun p : α × Block => p.2.memory) c x y

@[simp] theorem memory_foldl {α : Type} (f : Block → α → Block) (l : List α) (b : Block) (h : ∀ x a, (f x a).memory = x.memory) :
    (l.foldl f b).memory = b.memory := by
  induction l generalizing b with
  | nil => rfl
  | cons a l ih => exact (ih _).trans (h b a)

@[simp] theorem memory_snd_foldl {α β : Type} (f : β × Block → α → β × Block) (l : List α) (p : β × Block)
    (h : ∀ x a, (f x a).2.memory = x.2.memory) : (l.foldl f p).2.memory = p.2.memory := by
  induction l generalizing p with
  | nil => rfl
  | cons a l ih => exact (ih _).trans (h p a)

/-- A module that differs in other parts has the same memory. -/
@[simp] theorem memory_with (b : Block) (nv : NvSt) (hn : nv.bootCount = b.nv.bootCount) (regs poison evt log host i3c jtag mbx boot pins
    net pwr units tiles cores hbm stks shm exd azn lly pel col latch idleRem owed lens posted free serial) :
    Block.memory ⟨regs, b.mem, poison, evt, log, host, i3c, jtag, mbx, boot, pins, net, pwr, units, tiles, cores, hbm, stks, shm, exd, azn,
      lly, pel, col, nv, latch, b.winFree, b.slabFree, idleRem, owed, lens, posted, free, serial⟩ = b.memory := by
  unfold Block.memory
  rw [hn]

/-! ### Registers, events and memory -/

@[simp] theorem Block.memory_setReg (b : Block) (k : Nat) (v : Word) : (b.setReg k v).memory = b.memory := (rfl)

@[simp] theorem Block.memory_wr (b : Block) (p : Page) (off : Nat) (v : Word) : (b.wr p off v).memory = b.memory := (rfl)

@[simp] theorem Block.memory_wrN (b : Block) (p : Page) (off v : Nat) : (b.wrN p off v).memory = b.memory := (rfl)

@[simp] theorem Block.memory_wrField (b : Block) (p : Page) (off hi lo v : Nat) : (b.wrField p off hi lo v).memory = b.memory := (rfl)

@[simp] theorem Block.memory_wrBit (b : Block) (p : Page) (off i : Nat) (v : Bool) : (b.wrBit p off i v).memory = b.memory := (rfl)

@[simp] theorem Block.memory_wr64 (b : Block) (p : Page) (off v : Nat) : (b.wr64 p off v).memory = b.memory := (rfl)

@[simp] theorem Block.memory_count (b : Block) (p : Page) (off n : Nat) : (b.count p off n).memory = b.memory := (rfl)

@[simp] theorem Block.memory_clear64 (b : Block) (p : Page) (offs : List Nat) : (b.clear64 p offs).memory = b.memory := by
  simp [Block.clear64]

@[simp] theorem Block.memory_setUnit (b : Block) (u : UnitId) (x : UnitSt) : (b.setUnit u x).memory = b.memory := (rfl)

@[simp] theorem Block.memory_setTile (b : Block) (t : Nat) (x : TileSt) : (b.setTile t x).memory = b.memory := (rfl)

@[simp] theorem Block.memory_setCore (b : Block) (c : Nat) (x : CoreSt) : (b.setCore c x).memory = b.memory := (rfl)

@[simp] theorem Block.memory_setStk (b : Block) (i : Nat) (x : StackSt) : (b.setStk i x).memory = b.memory := (rfl)

@[simp] theorem Block.memory_setAznUnit (b : Block) (i : Nat) (x : AznUnit) : (b.setAznUnit i x).memory = b.memory := (rfl)

@[simp] theorem Block.memory_setSpoke (b : Block) (k : Nat) (x : SpokeSt) : (b.setSpoke k x).memory = b.memory := (rfl)

@[simp] theorem Block.memory_setDom (b : Block) (d : Nat) (x : DomSt) : (b.setDom d x).memory = b.memory := (rfl)

@[simp] theorem Block.memory_setPte (b : Block) (v : Nat) (x : Pte) : (b.setPte v x).memory = b.memory := (rfl)

@[simp] theorem Block.memory_fresh (b : Block) : b.fresh.2.memory = b.memory := (rfl)

@[simp] theorem Block.memory_newSerial (b : Block) : b.newSerial.2.memory = b.memory := (rfl)

@[simp] theorem Block.memory_setPoison (b : Block) (a : Nat) (v : Bool) : (b.setPoison a v).memory = b.memory := by
  unfold Block.setPoison
  split <;> rfl

@[simp] theorem Block.memory_markHbm (b : Block) (a n : Nat) (write : Bool) : (b.markHbm a n write).memory = b.memory := by
  unfold Block.markHbm
  dsimp only
  (repeat' split) <;> rfl

@[simp] theorem Block.memory_countSlots (b : Block) (st n : Nat) : (b.countSlots st n).memory = b.memory := (rfl)

@[simp] theorem Block.memory_setQueue (b : Block) (st : Nat) (s : StackSt) : (b.setQueue st s).memory = b.memory := (rfl)

@[simp] theorem Block.memory_queueSlot (b : Block) (st : Nat) (q : SlotReq) : (b.queueSlot st q).memory = b.memory := (rfl)

@[simp] theorem Block.memory_refill (b : Block) (st : Nat) : (b.refill st).memory = b.memory := (rfl)

@[simp] theorem Block.memory_queueSlots (b : Block) (l : List (Nat × SlotReq)) : (b.queueSlots l).memory = b.memory := by
  simp [Block.queueSlots]

@[simp] theorem Block.memory_freezeReads (b : Block) (k n : Nat) : (b.freezeReads k n).memory = b.memory := by
  unfold Block.freezeReads
  dsimp only
  (repeat' split) <;> rfl

@[simp] theorem Block.memory_touchHbm (b : Block) (a n : Nat) : (b.touchHbm a n).memory = b.memory := by
  simp [Block.touchHbm]

@[simp] theorem Block.memory_lookup (b : Block) (die a : Nat) : (b.lookup die a).memory = b.memory := by
  simp [Block.lookup]

@[simp] theorem Block.memory_lookups (b : Block) (die : Nat) (ranges : List (Nat × Nat)) : (b.lookups die ranges).memory = b.memory := by
  simp [Block.lookups]

@[simp] theorem Block.memory_dropLines (b : Block) (t holder a n : Nat) : (b.dropLines t holder a n).memory = b.memory := by
  unfold Block.dropLines
  dsimp only
  (repeat' split) <;> rfl

@[simp] theorem Block.memory_setInt (b : Block) (p : Page) (bits : Nat) : (b.setInt p bits).memory = b.memory := (rfl)

@[simp] theorem Block.memory_settleLine (b : Block) (p : Page) : (b.settleLine p).memory = b.memory := by
  unfold Block.settleLine
  split <;> rfl

@[simp] theorem Block.memory_sendVector (b : Block) (v : Nat) : (b.sendVector v).memory = b.memory := by
  unfold Block.sendVector
  dsimp only
  (repeat' split) <;> rfl

@[simp] theorem Block.memory_raiseIbi (b : Block) (l : List Byte) : (b.raiseIbi l).memory = b.memory := by
  unfold Block.raiseIbi
  dsimp only
  (repeat' split) <;> rfl

@[simp] theorem Block.memory_ringSend (b : Block) : b.ringSend.memory = b.memory := by
  simp [Block.ringSend]

@[simp] theorem Block.memory_post (b : Block) (e : Nat) (p : Page) (data : Nat) : (b.post e p data).memory = b.memory := (rfl)

/-! ### The audit log -/

@[simp] theorem Block.memory_syncLog (b : Block) : b.syncLog.memory = b.memory := by
  simp [Block.syncLog]

@[simp] theorem Block.memory_logPush (b : Block) (o : Origin) (kind offset old new : Nat) :
    (b.logPush o kind offset old new).memory = b.memory := by
  unfold Block.logPush
  dsimp only
  (repeat' split) <;> simp

@[simp] theorem Block.memory_logAppend (b : Block) (o : Origin) (kind offset old new : Nat) :
    (b.logAppend o kind offset old new).memory = b.memory := by
  simp [Block.logAppend]

@[simp] theorem Block.memory_logState (b : Block) (o : Origin) (p : Page) (off old new : Nat) :
    (b.logState o p off old new).memory = b.memory := by
  simp [Block.logState]

@[simp] theorem Block.memory_noteDigest (b old : Block) (k : Nat) : (b.noteDigest old k).memory = b.memory := by
  simp [Block.noteDigest]

@[simp] theorem Block.memory_gated (b : Block) (o : Origin) (p : Page) (off : Nat) (en : Entry) (eff : Block → Block)
    (h : ∀ x, (eff x).memory = x.memory) : (b.gated o p off en eff).1.memory = b.memory := by
  unfold Block.gated
  dsimp only
  (repeat' split) <;> simp [h]

@[simp] theorem Block.memory_gate (b : Block) (o : Origin) (p : Page) (off : Nat) (en : Entry) (eff : Block → Block)
    (h : ∀ x, (eff x).memory = x.memory) : (b.gate o p off en eff).memory = b.memory :=
  b.memory_gated o p off en eff h

@[simp] theorem Block.memory_writeFields (b : Block) (p : Page) (off : Nat) (v : Word) : (b.writeFields p off v).memory = b.memory := by
  unfold Block.writeFields
  split <;> rfl

@[simp] theorem Block.memory_lockGated (b : Block) (o : Origin) (p : Page) (v : Word) :
    (b.lockGated o p v).1.memory = b.memory := by
  unfold Block.lockGated
  dsimp only
  (repeat' split) <;> simp

@[simp] theorem Block.memory_showEntry (b : Block) (l : List Byte) : (b.showEntry l).memory = b.memory := by
  simp [Block.showEntry]

@[simp] theorem Block.memory_ackWrite (b : Block) (hi : Bool) (v : Word) : (b.ackWrite hi v).memory = b.memory := by
  unfold Block.ackWrite
  dsimp only
  (repeat' split) <;> simp

@[simp] theorem memory_logAckWrite (o : Origin) (hi : Bool) (v : Word) (b : Block) :
    (logAckWrite o hi v b).memory = b.memory := by
  simp [logAckWrite]

@[simp] theorem Block.memory_rdSeqWrite (b : Block) (hi : Bool) (v : Word) : (b.rdSeqWrite hi v).memory = b.memory := by
  unfold Block.rdSeqWrite
  split <;> rfl

@[simp] theorem memory_logRdSeqWrite (o : Origin) (hi : Bool) (v : Word) (b : Block) :
    (logRdSeqWrite o hi v b).memory = b.memory := by
  simp [logRdSeqWrite]

@[simp] theorem Block.memory_clearOn (b : Block) (v : Word) (p : Page) (offs : List Nat) : (b.clearOn v p offs).memory = b.memory := by
  simp [Block.clearOn]

@[simp] theorem memory_logCntClr (o : Origin) (v : Word) (b : Block) : (logCntClr o v b).memory = b.memory := by
  simp [logCntClr]

/-! ### The package network -/

@[simp] theorem memory_pkgnetTransfer (src dst : Fin 38) (what : Traffic) (crcFail : Option (Page × Fin 4)) (b : Block) :
    (pkgnetTransfer src dst what crcFail b).memory = b.memory := by
  unfold pkgnetTransfer
  dsimp only
  (repeat' split) <;> rfl

@[simp] theorem memory_pkgnetLinkDown (p : Page) (k : Fin 4) (b : Block) : (pkgnetLinkDown p k b).memory = b.memory := by
  simp [pkgnetLinkDown]

@[simp] theorem memory_tileLinkCntClr (o : Origin) (t : Fin 16) (v : Word) (b : Block) :
    (tileLinkCntClr o t v b).memory = b.memory := by
  simp [tileLinkCntClr]

@[simp] theorem memory_hbcLinkCntClr (o : Origin) (st : Fin 20) (v : Word) (b : Block) :
    (hbcLinkCntClr o st v b).memory = b.memory := by
  simp [hbcLinkCntClr]

/-! ### Arrays in memory -/

@[simp] theorem Block.memory_openSum (b : Block) (l : List Num) : (b.openSum l).2.memory = b.memory := by
  unfold Block.openSum
  split <;> rfl

/-! ### Validators and the shard map -/

@[simp] theorem Block.memory_validate (b : Block) (t : Fin 16) : (b.validate t).memory = b.memory := by
  unfold Block.validate
  split <;> simp

@[simp] theorem Block.memory_bindList (b : Block) (a : Nat) (binds : List Nat) : (b.bindList a binds).memory = b.memory := by
  unfold Block.bindList
  split <;> rfl

@[simp] theorem Block.memory_valFinish (b : Block) (t : Fin 16) (code idx : Nat) : (b.valFinish t code idx).memory = b.memory := by
  unfold Block.valFinish
  split <;> rfl

@[simp] theorem memory_validatorStart (o : Origin) (t : Fin 16) (v : Word) (b : Block) :
    (validatorStart o t v b).memory = b.memory := by
  simp [validatorStart]

@[simp] theorem Block.memory_keepRecords (b : Block) (a n : Nat) : (b.keepRecords a n).memory = b.memory := (rfl)

@[simp] theorem Block.memory_setShard (b : Block) (i e : Nat) : (b.setShard i e).memory = b.memory := by
  simp [Block.setShard]

@[simp] theorem Block.memory_setCode (b : Block) (p : Page) (off code : Nat) : (b.setCode p off code).memory = b.memory := (rfl)

@[simp] theorem Block.memory_setWords (b : Block) (p : Page) (off n v : Nat) : (b.setWords p off n v).memory = b.memory := by
  simp [Block.setWords]

@[simp] theorem memory_shmCmdRead (o : Origin) (b : Block) : (shmCmdRead o b).memory = b.memory := by
  simp [shmCmdRead]

@[simp] theorem memory_shmCmdWrite (o : Origin) (b : Block) : (shmCmdWrite o b).memory = b.memory := by
  simp [shmCmdWrite]

@[simp] theorem memory_shmBulkLoadStart (o : Origin) (v : Word) (b : Block) : (shmBulkLoadStart o v b).memory = b.memory := by
  simp [shmBulkLoadStart]

@[simp] theorem Block.memory_bulkOne (b : Block) (r : BulkRun) (size : Nat) (put : Block → Nat → Nat → Block × Nat)
    (h : ∀ x i e, (put x i e).1.memory = x.memory) : (b.bulkOne r size put).1.memory = b.memory := by
  unfold Block.bulkOne
  dsimp only
  (repeat' split) <;> simp [h]

@[simp] theorem Block.memory_shmLoadOne (b : Block) : b.shmLoadOne.memory = b.memory := by
  unfold Block.shmLoadOne
  split
  · rfl
  · refine (memory_with _ _ rfl ..).trans (Block.memory_bulkOne b _ _ _ fun x i e => ?_)
    split <;> simp

@[simp] theorem memory_shmBulkLoadDone (b : Block) : (shmBulkLoadDone b).memory = b.memory := by
  unfold shmBulkLoadDone
  dsimp only
  (repeat' split) <;> simp

/-! ### Tasks -/

@[simp] theorem Block.memory_setSem (b : Block) (c p v : Nat) : (b.setSem c p v).memory = b.memory := by
  unfold Block.setSem
  split <;> rfl

@[simp] theorem Block.memory_addSem (b : Block) (c p inc : Nat) : (b.addSem c p inc).memory = b.memory := by
  simp [Block.addSem]

@[simp] theorem Block.memory_xlatWord (b : Block) (u : UnitId) (ctx id : Nat) : (b.xlatWord u ctx id).2.memory = b.memory := by
  unfold Block.xlatWord
  dsimp only
  (repeat' split) <;> rfl

@[simp] theorem Block.memory_translate (b : Block) (u : UnitId) (ctx : Nat) (isWait : Bool) (f : Nat) :
    (b.translate u ctx isWait f).2.memory = b.memory := by
  unfold Block.translate
  dsimp only
  (repeat' split) <;> simp

@[simp] theorem Block.memory_translateAll (b : Block) (u : UnitId) (ctx : Nat) (l : List (Bool × Nat)) :
    (b.translateAll u ctx l).2.memory = b.memory := by
  induction l generalizing b with
  | nil => rfl
  | cons p l ih =>
    unfold Block.translateAll
    split
    · exact ih b
    · dsimp only
      split
      · simp
      · exact (ih _).trans (by simp)

@[simp] theorem Block.memory_admitCheck (b : Block) (u : UnitId) (ctx : Nat) (r : TaskRec) :
    (b.admitCheck u ctx r).2.2.memory = b.memory := by
  unfold Block.admitCheck
  dsimp only
  (repeat' split) <;> simp

@[simp] theorem Block.memory_setBoard (b : Block) (u : UnitId) (l : List TaskSt) : (b.setBoard u l).memory = b.memory := (rfl)

@[simp] theorem Block.memory_mapTask (b : Block) (u : UnitId) (n : Nat) (f : TaskSt → TaskSt) : (b.mapTask u n f).memory = b.memory := (rfl)

@[simp] theorem Block.memory_dropTask (b : Block) (u : UnitId) (n : Nat) : (b.dropTask u n).memory = b.memory := (rfl)

@[simp] theorem Block.memory_releaseScratch (b : Block) (c : Fin 128) : (b.releaseScratch c).memory = b.memory := (rfl)

@[simp] theorem Block.memory_stopFiller (b : Block) (c : Fin 128) : (b.stopFiller c).memory = b.memory := by
  unfold Block.stopFiller
  dsimp only
  (repeat' split) <;> rfl

@[simp] theorem Block.memory_showTiles (b : Block) (c : Fin 128) (frozen : Bool) : (b.showTiles c frozen).memory = b.memory := (rfl)

@[simp] theorem Block.memory_arrayLeave (b : Block) (c : Fin 128) (t : TaskSt) : (b.arrayLeave c t).memory = b.memory := by
  simp [Block.arrayLeave]

@[simp] theorem Block.memory_arrayEnd (b : Block) (c : Fin 128) (t : TaskSt) : (b.arrayEnd c t).memory = b.memory := by
  unfold Block.arrayEnd
  split <;> simp

@[simp] theorem Block.memory_dropPrologue (b : Block) (c : Fin 128) : (b.dropPrologue c).memory = b.memory := by
  simp [Block.dropPrologue]

@[simp] theorem Block.memory_drlEnd (b : Block) (c : Fin 128) : (b.drlEnd c).memory = b.memory := (rfl)

@[simp] theorem Block.memory_faultTask (b : Block) (u : UnitId) (n code : Nat) : (b.faultTask u n code).memory = b.memory := by
  unfold Block.faultTask
  dsimp only
  (repeat' split) <;> simp

@[simp] theorem Block.memory_postTask (b : Block) (u : UnitId) (t : TaskSt) (child code : Nat) :
    (b.postTask u t child code).memory = b.memory := (rfl)

@[simp] theorem Block.memory_shareDone (b : Block) (u : UnitId) (serial : Nat) (r : ShareRes) :
    (b.shareDone u serial r).memory = b.memory := (rfl)

@[simp] theorem Block.memory_addCycles (b : Block) (u : UnitId) (n k : Nat) : (b.addCycles u n k).memory = b.memory := (rfl)

/-! ### Packets -/

@[simp] theorem Block.memory_enqueue (b : Block) (k : Fin 8) (p : Packet) : (b.enqueue k p).memory = b.memory := (rfl)

@[simp] theorem Block.memory_send (b : Block) (p : Packet) : (b.send p).2.memory = b.memory := by
  unfold Block.send
  dsimp only
  (repeat' split) <;> rfl

@[simp] theorem Block.memory_request (b : Block) (owner : ReqOwner) (dst cls opcode length addr : Nat) (data : List Byte) :
    (b.request owner dst cls opcode length addr data).2.memory = b.memory := by
  unfold Block.request
  dsimp only
  (repeat' split) <;> simp

@[simp] theorem Block.memory_forgetPoison (b : Block) (m a n : Nat) : (b.forgetPoison m a n).memory = b.memory := by
  unfold Block.forgetPoison
  split <;> rfl

@[simp] theorem Block.memory_readRemote (b : Block) (owner : ReqOwner) (m : Nat) (ranges : List (Nat × Nat)) :
    (b.readRemote owner m ranges).2.memory = b.memory := by
  refine memory_snd_foldl _ _ (none, b) fun x p => ?_
  split <;> simp

/-! ### The fetch engine -/

@[simp] theorem Block.memory_markRow (b : Block) (st frame row : Nat) : (b.markRow st frame row).memory = b.memory := by
  unfold Block.markRow
  dsimp only
  (repeat' split) <;> rfl

@[simp] theorem Block.memory_correctedError (b : Block) (st : Fin 20) (frame row : Nat) :
    (b.correctedError st frame row).memory = b.memory := by
  simp [Block.correctedError]

@[simp] theorem Block.memory_correctedWord (b : Block) (a : Nat) : (b.correctedWord a).memory = b.memory := by
  simp [Block.correctedWord]

@[simp] theorem Block.memory_uncorrectable (b : Block) (a : Nat) : (b.uncorrectable a).memory = b.memory := by
  unfold Block.uncorrectable
  dsimp only
  (repeat' split) <;> simp

@[simp] theorem Block.memory_foundIn (b : Block) (errs : Errs) (p : Nat → Bool) : (b.foundIn errs p).memory = b.memory := by
  simp [Block.foundIn]

@[simp] theorem Block.memory_found (b : Block) (errs : Errs) : (b.found errs).memory = b.memory := by
  simp [Block.found]

@[simp] theorem Block.memory_requestPageIn (b : Block) (v : Nat) (why : MoveWhy) (owner : Option Nat) :
    (b.requestPageIn v why owner).memory = b.memory := by
  unfold Block.requestPageIn
  dsimp only
  (repeat' split) <;> rfl

@[simp] theorem Block.memory_demand (b : Block) (t : TaskSt) (ranges : List (Nat × Nat)) (pageInOk : Bool) :
    (b.demand t ranges pageInOk).2.memory = b.memory := by
  refine memory_snd_foldl _ _ (Ready.ok, b) fun x r => ?_
  (repeat' split) <;> simp

@[simp] theorem Block.memory_touched (b : Block) (die : Nat) (ranges : List (Nat × Nat)) : (b.touched die ranges).memory = b.memory := by
  simp [Block.touched]

@[simp] theorem Block.memory_served (b : Block) (die : Nat) (t : TaskSt) (ranges : List (Nat × Nat)) :
    (b.served die t ranges).memory = b.memory := by
  simp [Block.served]

@[simp] theorem Block.memory_poisonRange (b : Block) (a n : Nat) : (b.poisonRange a n).memory = b.memory := by
  simp [Block.poisonRange]

@[simp] theorem Block.memory_ocRead (b : Block) (t : Fin 16) (holder line : Nat) (got : Option OcLine) :
    (b.ocRead t holder line got).2.memory = b.memory := by
  unfold Block.ocRead
  dsimp only
  split <;> simp

@[simp] theorem Block.memory_readRanges (b : Block) (t : Fin 16) (task : TaskSt) (cached : Bool) (holder : Nat)
    (got : Nat → Option OcLine) (ranges : List (Nat × Nat)) :
    (b.readRanges t task cached holder got ranges).2.memory = b.memory := by
  simp [Block.readRanges]

@[simp] theorem Block.memory_portIn (b : Block) (c : Fin 128) (n : Nat) : (b.portIn c n).memory = b.memory := (rfl)

@[simp] theorem Block.memory_portRanges (b : Block) (c : Fin 128) (t : TaskSt) (d : Desc) (bytes : Nat) (ranges : List (Nat × Nat)) :
    (b.portRanges c t d bytes ranges).2.memory = b.memory := by
  simp [Block.portRanges]

@[simp] theorem Block.memory_checkVersion (b : Block) (allowNewer : Bool) (v : Option (Nat × Nat)) :
    (b.checkVersion allowNewer v).2.memory = b.memory := by
  unfold Block.checkVersion
  dsimp only
  (repeat' split) <;> rfl

@[simp] theorem Block.memory_asTask (t : TaskSt) (f : Block → Block) (b : Block) (h : ∀ x, (f x).memory = x.memory) :
    (b.asTask t f).memory = b.memory := by
  simp [Block.asTask, h]

@[simp] theorem Block.memory_engine (c : Fin 128) (port : Nat) (errs : Errs) (f : Block → Block) (b : Block)
    (h : ∀ x, (f x).memory = x.memory) : (b.engine c port errs f).memory = b.memory := by
  unfold Block.engine
  split <;> simp [h]

@[simp] theorem Block.memory_mapFetched (b : Block) (c : Fin 128) (id : Nat) (f : Fetched → Fetched) :
    (b.mapFetched c id f).memory = b.memory := (rfl)

@[simp] theorem Block.memory_dropFetched (b : Block) (c : Fin 128) (id : Nat) : (b.dropFetched c id).memory = b.memory := (rfl)

@[simp] theorem Block.memory_registerGranules (b : Block) (c : Fin 128) (gs : List (Nat × Nat)) :
    (b.registerGranules c gs).memory = b.memory := by
  simp [Block.registerGranules]

@[simp] theorem Block.memory_issue (b : Block) (c : Fin 128) (t : TaskSt) (port : Nat) (p : Nat × Nat) (s : Source)
    (urgency deadline : Nat) (refetch : Bool) :
    (b.issue c t port p s urgency deadline refetch).2.memory = b.memory := by
  simp [Block.issue]

@[simp] theorem Block.memory_dropPrefetch (b : Block) (c : Fin 128) (serial key : Nat) :
    (b.dropPrefetch c serial key).memory = b.memory := (rfl)

@[simp] theorem Block.memory_prefetchFor (b : Block) (c : Fin 128) (port : Nat) (t : TaskSt) (own : Bool) :
    (b.prefetchFor c port t own).memory = b.memory := by
  unfold Block.prefetchFor
  dsimp only
  (repeat' split) <;> simp

@[simp] theorem memory_prefetchIssue (c : Fin 128) (port : Fin 4) (b : Block) : (prefetchIssue c port b).memory = b.memory := by
  refine Block.memory_engine _ _ _ _ b fun x => ?_
  split <;> simp

@[simp] theorem Block.memory_setUrgency (b : Block) (c : Fin 128) (id u : Nat) : (b.setUrgency c id u).memory = b.memory := (rfl)

@[simp] theorem memory_demandFetch (c : Fin 128) (port : Fin 4) (uncorr : List DWord) (b : Block) :
    (demandFetch c port uncorr b).memory = b.memory := by
  refine Block.memory_engine _ _ _ _ b fun x => ?_
  dsimp only
  (repeat' split) <;> simp

@[simp] theorem Block.memory_fetchRefused (b : Block) (c : Fin 128) (serial id code : Nat) :
    (b.fetchRefused c serial id code).memory = b.memory := by
  unfold Block.fetchRefused
  split <;> simp

@[simp] theorem Block.memory_takeBlock (b : Block) (c : Fin 128) (t : TaskSt) (f : Fetched) (s : Source) :
    (b.takeBlock c t f s).memory = b.memory := by
  simp [Block.takeBlock]

@[simp] theorem memory_fetchDataArrive (c : Fin 128) (port : Fin 4) (errs : Errs) (b : Block) :
    (fetchDataArrive c port errs b).memory = b.memory := by
  refine Block.memory_engine _ _ _ _ b fun x => ?_
  dsimp only
  (repeat' split) <;> simp

@[simp] theorem memory_deadlineLate (c : Fin 128) (port : Fin 4) (b : Block) : (deadlineLate c port b).memory = b.memory := by
  unfold deadlineLate
  split <;> rfl

@[simp] theorem memory_bulkAgeLate (c : Fin 128) (port : Fin 4) (b : Block) : (bulkAgeLate c port b).memory = b.memory := by
  unfold bulkAgeLate
  split <;> rfl

@[simp] theorem Block.memory_checkTracked (b : Block) (c : Fin 128) (t : TaskSt) (f : Fetched) (p : Nat × Nat) (s : Source) :
    (b.checkTracked c t f p s).2.memory = b.memory := by
  unfold Block.checkTracked
  dsimp only
  (repeat' split) <;> simp

@[simp] theorem memory_trackedBlockConsume (c : Fin 128) (port : Fin 4) (b : Block) : (trackedBlockConsume c port b).memory = b.memory := by
  refine Block.memory_engine _ _ _ _ b fun x => ?_
  (repeat' split) <;> simp

@[simp] theorem memory_globalBlockConsume (c : Fin 128) (port : Fin 4) (b : Block) : (globalBlockConsume c port b).memory = b.memory := by
  refine Block.memory_engine _ _ _ _ b fun x => ?_
  dsimp only
  (repeat' split) <;> simp

@[simp] theorem Block.memory_take (b : Block) (c : Fin 128) (t : TaskSt) (port : Nat) (carry : Bool) :
    (b.take c t port carry).2.memory = b.memory := by
  unfold Block.take
  dsimp only
  (repeat' split) <;> simp

@[simp] theorem Block.memory_askRemote (b : Block) (c : Fin 128) (t : TaskSt) (l : List (Nat × Nat × Nat)) :
    (b.askRemote c t l).2.memory = b.memory := by
  unfold Block.askRemote
  dsimp only
  split
  · rfl
  · refine (memory_snd_foldl _ _ (none, _) fun x q => ?_).trans (by simp)
    split <;> simp

@[simp] theorem Block.memory_forgetAsked (b : Block) (u : UnitId) (n : Nat) : (b.forgetAsked u n).memory = b.memory := by
  unfold Block.forgetAsked
  dsimp only
  (repeat' split) <;> rfl

@[simp] theorem Block.memory_portSource (b : Block) (c : Fin 128) (t : TaskSt) (s : Source) (bytes : Nat) (ranges : List (Nat × Nat)) :
    (b.portSource c t s bytes ranges).2.memory = b.memory := by
  simp [Block.portSource]

@[simp] theorem Block.memory_sourcesReady (b : Block) (c : Fin 128) (t : TaskSt) (l : List (Source × List (Nat × Nat)))
    (allowNewer pageInOk : Bool) :
    (b.sourcesReady c t l allowNewer pageInOk).2.memory = b.memory := by
  unfold Block.sourcesReady
  dsimp only
  split
  · rfl
  · split
    · split
      · refine (memory_snd_foldl _ _ _ fun x p => ?_).trans (by simp)
        split <;> simp
      · simp
    · simp

@[simp] theorem Block.memory_passEntry (b : Block) (u : UnitId) (n cycles : Nat) : (b.passEntry u n cycles).memory = b.memory := by
  simp [Block.passEntry]

@[simp] theorem memory_fetCntClr (o : Origin) (c : Fin 128) (v : Word) (b : Block) : (fetCntClr o c v b).memory = b.memory := by
  simp [fetCntClr]

@[simp] theorem Block.memory_clearRecord (b : Block) : b.clearRecord.memory = b.memory := (rfl)

@[simp] theorem memory_shmRecClear (o : Origin) (v : Word) (b : Block) : (shmRecClear o v b).memory = b.memory := by
  simp [shmRecClear]

@[simp] theorem memory_taintedClear (o : Origin) (v : Word) (b : Block) : (taintedClear o v b).memory = b.memory := by
  simp [taintedClear]

@[simp] theorem memory_shmRecCntClr (o : Origin) (v : Word) (b : Block) : (shmRecCntClr o v b).memory = b.memory := by
  simp [shmRecCntClr]

/-! ### Idle causes -/

@[simp] theorem Block.memory_setCharged (b : Block) (u : UnitId) (k n : Nat) : (b.setCharged u k n).memory = b.memory := by
  unfold Block.setCharged
  dsimp only
  (repeat' split) <;> rfl

@[simp] theorem Block.memory_charge (b : Block) (c : Fin 128) (k n : Nat) : (b.charge c k n).memory = b.memory := by
  simp [Block.charge]

@[simp] theorem Block.memory_recharge (b : Block) (c : Fin 128) (src dst n : Nat) : (b.recharge c src dst n).memory = b.memory := by
  simp [Block.recharge]

@[simp] theorem Block.memory_chargeIdle (b : Block) (c : Fin 128) (n : Nat) : (b.chargeIdle c n).memory = b.memory := by
  unfold Block.chargeIdle
  dsimp only
  split <;> simp

@[simp] theorem Block.memory_chargeTaken (b : Block) (c : Fin 128) (n : Nat) : (b.chargeTaken c n).memory = b.memory := by
  simp [Block.chargeTaken]

@[simp] theorem Block.memory_forgetCharges (b : Block) (u : UnitId) : (b.forgetCharges u).memory = b.memory := by
  unfold Block.forgetCharges
  split <;> simp

@[simp] theorem memory_schIdleClr (o : Origin) (u : UnitId) (v : Word) (b : Block) : (schIdleClr o u v b).memory = b.memory := by
  simp [schIdleClr]

/-! ### The dense array -/

@[simp] theorem Block.memory_addGated (b : Block) (c : Fin 128) (n : Nat) : (b.addGated c n).memory = b.memory := (rfl)

@[simp] theorem Block.memory_spend (b : Block) (c : Fin 128) (serial busy feedDry drainFull : Nat) :
    (b.spend c serial busy feedDry drainFull).memory = b.memory := by
  simp [Block.spend]

@[simp] theorem Block.memory_spendIn (b : Block) (c : Fin 128) (t : TaskSt) (busy feedDry drainFull : Nat) :
    (b.spendIn c t busy feedDry drainFull).memory = b.memory := by
  simp [Block.spendIn]

@[simp] theorem Block.memory_drnCount (b : Block) (c : Fin 128) (off n irq : Nat) : (b.drnCount c off n irq).memory = b.memory := by
  unfold Block.drnCount
  split <;> rfl

@[simp] theorem Block.memory_drnOvf (b : Block) (c : Fin 128) (fmt n : Nat) : (b.drnOvf c fmt n).memory = b.memory := by
  simp [Block.drnOvf]

@[simp] theorem Block.memory_drnVanish (b : Block) (c : Fin 128) (fmt n : Nat) : (b.drnVanish c fmt n).memory = b.memory := by
  simp [Block.drnVanish]

@[simp] theorem Block.memory_countConv (b : Block) (c : Fin 128) (fmt : Nat) (v : Conv) : (b.countConv c fmt v).memory = b.memory := by
  simp [Block.countConv]

@[simp] theorem Block.memory_coreFault (b : Block) (c : Fin 128) (t : TaskSt) (code : Nat) : (b.coreFault c t code).memory = b.memory := by
  simp [Block.coreFault]

@[simp] theorem Block.memory_arrayStart (b : Block) (c : Fin 128) (t : TaskSt) : (b.arrayStart c t).memory = b.memory := by
  simp [Block.arrayStart]

@[simp] theorem Block.memory_loadTile (b : Block) (c : Fin 128) (t : TaskSt) : (b.loadTile c t).2.memory = b.memory := by
  unfold Block.loadTile
  dsimp only
  (repeat' split) <;> simp

@[simp] theorem Block.memory_fillStandby (b : Block) (c : Fin 128) (tile : WTile) : (b.fillStandby c tile).memory = b.memory := (rfl)

@[simp] theorem memory_denseLoad (c : Fin 128) (cycles : Nat) (errs : Errs) (b : Block) :
    (denseLoad c cycles errs b).memory = b.memory := by
  refine Block.memory_engine _ _ _ _ b fun x => ?_
  dsimp only
  (repeat' split) <;> simp

@[simp] theorem Block.memory_land (b : Block) (c : Fin 128) (mode : Nat) (init sr : Bool) (row port : Nat) (vals : List Num) :
    (b.land c mode init sr row port vals).memory = b.memory := by
  simp [Block.land]

@[simp] theorem Block.memory_clearBankRow (b : Block) (c : Fin 128) (row : Nat) : (b.clearBankRow c row).memory = b.memory := (rfl)

@[simp] theorem Block.memory_arrayParity (b : Block) (c : Fin 128) (t : TaskSt) : (b.arrayParity c t).memory = b.memory := by
  simp [Block.arrayParity]

@[simp] theorem Block.memory_streamRow (b : Block) (c : Fin 128) (mode : Nat) (w : WTile) (gear : Nat) (e : Entry32) (sr off : Bool)
    (i : Nat) (x : List Num) :
    (b.streamRow c mode w gear e sr off i x).memory = b.memory := by
  simp [Block.streamRow]

@[simp] theorem memory_denseStream (c : Fin 128) (cycles feedDry drainFull eccCorr errs : Nat) (words : Errs) (b : Block) :
    (denseStream c cycles feedDry drainFull eccCorr errs words b).memory = b.memory := by
  refine Block.memory_engine _ _ _ _ b fun x => ?_
  dsimp only
  (repeat' split) <;> simp

@[simp] theorem memory_darrCntClr (o : Origin) (c : Fin 128) (v : Word) (b : Block) : (darrCntClr o c v b).memory = b.memory := by
  simp [darrCntClr]

@[simp] theorem memory_drnSrSeedHiWrite (o : Origin) (c : Fin 128) (v : Word) (b : Block) :
    (drnSrSeedHiWrite o c v b).memory = b.memory := by
  simp [drnSrSeedHiWrite]

@[simp] theorem memory_drnCntClr (o : Origin) (c : Fin 128) (v : Word) (b : Block) : (drnCntClr o c v b).memory = b.memory := by
  simp [drnCntClr]

/-! ### The drain -/

@[simp] theorem Block.memory_rowSum (b : Block) (mode : Nat) (l : List Num) : (b.rowSum mode l).2.2.memory = b.memory := by
  simp [Block.rowSum]

@[simp] theorem Block.memory_rowStats (b : Block) (r : TaskRec) (old : List Word) (merge : Bool) (col : Nat) (l : List Num) :
    (b.rowStats r old merge col l).2.memory = b.memory := by
  simp [Block.rowStats]

@[simp] theorem Block.memory_drainReady (b : Block) (c : Fin 128) (t : TaskSt) (r : TaskRec) (e : Entry32) (src : Source) :
    (b.drainReady c t r e src).2.memory = b.memory := by
  unfold Block.drainReady
  dsimp only
  (repeat' split) <;> simp

@[simp] theorem Block.memory_drainOperand (b : Block) (c : Fin 128) (t : TaskSt) (r : TaskRec) (e : Entry32) :
    (b.drainOperand c t r e).memory = b.memory := by
  simp [Block.drainOperand]

/-! ### The sparse engine -/

@[simp] theorem Block.memory_drlStart (b : Block) (c : Fin 128) (t : TaskSt) : (b.drlStart c t).memory = b.memory := by
  unfold Block.drlStart
  dsimp only
  (repeat' split) <;> rfl

@[simp] theorem Block.memory_drlDone (b : Block) (c : Fin 128) (t : TaskSt) (n : Nat) (whole : Bool) (cycles lanes : Nat) :
    (b.drlDone c t n whole cycles lanes).memory = b.memory := by
  simp [Block.drlDone]

@[simp] theorem Block.memory_drlFault (b : Block) (c : Fin 128) (t : TaskSt) (code cycles lanes : Nat) :
    (b.drlFault c t code cycles lanes).memory = b.memory := by
  simp [Block.drlFault]

@[simp] theorem Block.memory_rowsReady (b : Block) (c : Fin 128) (t : TaskSt) (co : Bool) (l : List RowWant) (pageInOk : Bool) :
    (b.rowsReady c t co l pageInOk).2.memory = b.memory := by
  unfold Block.rowsReady
  split <;> simp

@[simp] theorem Block.memory_oneRequest (b : Block) (c : Fin 128) (t : TaskSt) (co : Bool) (s : Source) (q : RowReq) :
    (b.oneRequest c t co s q).2.memory = b.memory := by
  unfold Block.oneRequest
  dsimp only
  split <;> simp

@[simp] theorem Block.memory_readRow (b : Block) (c : Fin 128) (t : TaskSt) (co : Bool) (w : RowWant) :
    (b.readRow c t co w).2.memory = b.memory := by
  simp [Block.readRow]

@[simp] theorem Block.memory_rowsOpen (b : Block) (c : Fin 128) (t : TaskSt) (o : Desc) (rows : List Nat) (c0 n : Nat)
    (pageInOk old : Bool) :
    (b.rowsOpen c t o rows c0 n pageInOk old).2.memory = b.memory := by
  unfold Block.rowsOpen
  dsimp only
  (repeat' split) <;> simp

@[simp] theorem Block.memory_keepRemote (b : Block) (holder : Nat) (w : List (Nat × List Byte)) :
    (b.keepRemote holder w).memory = b.memory := by
  unfold Block.keepRemote
  split <;> rfl

@[simp] theorem Block.memory_carryPoison (b : Block) (t : TaskSt) (r : RowData) (o : Desc) (row c0 n : Nat) :
    (b.carryPoison t r o row c0 n).memory = b.memory := by
  simp [Block.carryPoison]

@[simp] theorem Block.memory_eachReady {α : Type} (b : Block) (l : List α) (f : Block → α → Ready × Block)
    (h : ∀ x a, (f x a).2.memory = x.memory) : (b.eachReady l f).2.memory = b.memory := by
  refine memory_snd_foldl _ l (Ready.ok, b) fun x a => ?_
  split <;> simp [h]

@[simp] theorem Block.memory_drlFinish (b : Block) (c : Fin 128) (t : TaskSt) (r : Ready) (n : Nat) (whole bad : Bool)
    (cycles lanes : Nat) :
    (b.drlFinish c t r n whole bad cycles lanes).memory = b.memory := by
  unfold Block.drlFinish
  split <;> simp

@[simp] theorem Block.memory_contribute (b : Block) (c : Fin 128) (t : TaskSt) (w : RowWant) (row : Nat) (int pageIn : Bool) :
    (b.contribute c t w row int pageIn).2.memory = b.memory := by
  simp [Block.contribute]

@[simp] theorem memory_spmmLoad (c : Fin 128) (cycles : Nat) (errs : Errs) (b : Block) : (spmmLoad c cycles errs b).memory = b.memory := by
  refine Block.memory_engine _ _ _ _ b fun x => ?_
  dsimp only
  (repeat' split) <;> simp

@[simp] theorem Block.memory_mergeAdd (b : Block) (c : Fin 128) (row : Nat) (vals : List Num) :
    (b.mergeAdd c row vals).memory = b.memory := (rfl)

@[simp] theorem Block.memory_wantScratch (b : Block) (c : Fin 128) : (b.wantScratch c).memory = b.memory := by
  simp [Block.wantScratch]

@[simp] theorem Block.memory_placed (b : Block) (c : Fin 128) : (b.placed c).memory = b.memory := by
  simp [Block.placed]

@[simp] theorem Block.memory_denseRow (b : Block) (fmt : Nat) (s : Slab) (l : List NonZero) : (b.denseRow fmt s l).2.memory = b.memory := by
  refine memory_snd_foldl _ _ ([], b) fun x k => ?_
  split <;> simp

@[simp] theorem Block.memory_showFallback (b : Block) (c : Fin 128) : (b.showFallback c).memory = b.memory := (rfl)

@[simp] theorem Block.memory_compact (b : Block) (c : Fin 128) (t : TaskSt) (fmt base : Nat) (s : Slab) (l : List NonZero) :
    (b.compact c t fmt base s l).memory = b.memory := by
  simp [Block.compact]

@[simp] theorem memory_spmmStream (c : Fin 128) (cycles : Nat) (errs : Errs) (b : Block) :
    (spmmStream c cycles errs b).memory = b.memory := by
  refine Block.memory_engine _ _ _ _ b fun x => ?_
  split
  · rfl
  · next t ht =>
    extract_lets r e a o ix cr n stop wants q k v slab base nz rowOk colOk bad runs segs hit y1 core y2 y3 live active falls y4 y5
    have hstop : ∀ y code, (stop y code).memory = y.memory := fun y code => Block.memory_drlFault ..
    have hq : q.2.memory = x.memory := Block.memory_rowsReady ..
    have hk : k.2.memory = x.memory := (Block.memory_take ..).trans hq
    have hv : v.2.memory = x.memory := (memory_snd_foldl _ _ _ fun y w => by simp).trans hk
    have h3 : y3.memory = x.memory := by simp [y3, y2, y1, hv]
    have h5 : y5.memory = x.memory := by
      clear_value y3
      simp [y5, y4, h3]
    clear_value stop q k v y5
    (repeat' split) <;> simp [hstop, hq, hk, hv, h5]

@[simp] theorem Block.memory_passRow (b : Block) (c : Fin 128) (mode : Nat) (w : WTile) (per row : Nat) (off : Bool) (x : List Num) :
    (b.passRow c mode w per row off x).memory = b.memory := by
  simp [Block.passRow]

@[simp] theorem memory_scratchYield (c : Fin 128) (b : Block) : (scratchYield c b).memory = b.memory := by
  simp [scratchYield]

@[simp] theorem Block.memory_selectReady (b : Block) (c : Fin 128) (t : TaskSt) (e : Entry32) :
    (b.selectReady c t e).2.memory = b.memory := by
  unfold Block.selectReady
  dsimp only
  (repeat' split) <;> simp

@[simp] theorem Block.memory_selectRow (b : Block) (c : Fin 128) (t : TaskSt) (plan : Nat × List (Nat × Bool × Nat × Bool)) :
    (b.selectRow c t plan).2.memory = b.memory := by
  simp [Block.selectRow]

@[simp] theorem Block.memory_selectBlock (b : Block) (c : Fin 128) (t : TaskSt) (e : Entry32) :
    (b.selectBlock c t e).2.memory = b.memory := by
  simp [Block.selectBlock]

@[simp] theorem Block.memory_selectCount (b : Block) (c : Fin 128) (ps : List (List Pair)) : (b.selectCount c ps).memory = b.memory := by
  simp [Block.selectCount]

@[simp] theorem memory_sparseCapacity (c : Fin 128) (b : Block) : (sparseCapacity c b).memory = b.memory := by
  refine Block.memory_engine _ _ _ _ b fun x => ?_
  (repeat' split) <;> simp

@[simp] theorem memory_drlCntClr (o : Origin) (c : Fin 128) (v : Word) (b : Block) : (drlCntClr o c v b).memory = b.memory := by
  simp [drlCntClr]

@[simp] theorem memory_drlPredWrite (o : Origin) (c : Fin 128) (v : Word) (b : Block) :
    (drlPredWrite o c v b).memory = b.memory := by
  simp [drlPredWrite]

/-! ### Copies -/

@[simp] theorem Block.memory_poisonMoved (b : Block) (t : TaskSt) (o : Desc) (bits : Bool) (l : List Moved) :
    (b.poisonMoved t o bits l).memory = b.memory := by
  simp [Block.poisonMoved]

@[simp] theorem Block.memory_copyCycles (b : Block) (c : Fin 128) (serial cycles : Nat) :
    (b.copyCycles c serial cycles).memory = b.memory := (rfl)

@[simp] theorem memory_chain_ (c : Fin 128) (b : Block) : (chain_ c b).memory = b.memory := by
  unfold chain_
  dsimp only
  (repeat' split) <;> rfl

/-! ### The Aznor units -/

@[simp] theorem Block.memory_setProg (b : Block) (i : Nat) (l : List Nat) : (b.setProg i l).memory = b.memory := (rfl)

@[simp] theorem memory_aznProgRead (o : Origin) (b : Block) : (aznProgRead o b).memory = b.memory := by
  simp [aznProgRead]

@[simp] theorem Block.memory_progRefuse (b : Block) (r : Nat × Nat) : (b.progRefuse r).memory = b.memory := by
  simp [Block.progRefuse]

@[simp] theorem memory_aznProgWrite (o : Origin) (b : Block) : (aznProgWrite o b).memory = b.memory := by
  unfold aznProgWrite
  dsimp only
  (repeat' split) <;> simp

@[simp] theorem memory_aznProgEmpty (o : Origin) (b : Block) : (aznProgEmpty o b).memory = b.memory := by
  simp [aznProgEmpty]

@[simp] theorem Block.memory_aznSeed (b : Block) (st : Fin 20) : (b.aznSeed st).memory = b.memory := (rfl)

@[simp] theorem memory_aznSrSeedHiWrite (o : Origin) (st : Fin 20) (v : Word) (b : Block) :
    (aznSrSeedHiWrite o st v b).memory = b.memory := by
  simp [aznSrSeedHiWrite]

@[simp] theorem memory_aznCntClr (o : Origin) (st : Fin 20) (v : Word) (b : Block) : (aznCntClr o st v b).memory = b.memory := by
  simp [aznCntClr]

@[simp] theorem Block.memory_showAzn (b : Block) (st : Fin 20) : (b.showAzn st).memory = b.memory := (rfl)

@[simp] theorem memory_updateDispatch (u : UnitId) (i : Nat) (b : Block) : (updateDispatch u i b).memory = b.memory := by
  unfold updateDispatch
  dsimp only
  (repeat' split) <;> simp

@[simp] theorem memory_updateShare (st : Fin 20) (b : Block) : (updateShare st b).memory = b.memory := by
  unfold updateShare
  dsimp only
  (repeat' split) <;> rfl

@[simp] theorem Block.memory_dropAznReads (b : Block) (st : Fin 20) : (b.dropAznReads st).memory = b.memory := by
  unfold Block.dropAznReads
  split <;> rfl

@[simp] theorem Block.memory_endShare (b : Block) (st : Fin 20) (s : AznShare) (code : Nat) : (b.endShare st s code).memory = b.memory := by
  simp [Block.endShare]

@[simp] theorem Block.memory_settleShare (b : Block) (st : Fin 20) : (b.settleShare st).memory = b.memory := by
  unfold Block.settleShare
  dsimp only
  split <;> simp

@[simp] theorem Block.memory_shareCycles (b : Block) (st : Fin 20) (s : AznShare) (n : Nat) :
    (b.shareCycles st s n).2.2.memory = b.memory := by
  unfold Block.shareCycles
  dsimp only
  (repeat' split) <;> rfl

@[simp] theorem Block.memory_shareFault (b : Block) (st : Fin 20) (s : AznShare) (code cycles : Nat) :
    (b.shareFault st s code cycles).memory = b.memory := by
  simp [Block.shareFault]

@[simp] theorem memory_updateEntry (st : Fin 20) (cycles : Nat) (b : Block) : (updateEntry st cycles b).memory = b.memory := by
  unfold updateEntry
  dsimp only
  (repeat' split) <;> simp

@[simp] theorem Block.memory_aznNext (b : Block) (st : Fin 20) (s : AznShare) (w : AznWork) : (b.aznNext st s w).memory = b.memory := by
  simp [Block.aznNext]

@[simp] theorem Block.memory_aznSet (b : Block) (st : Fin 20) (s : AznShare) (w : AznWork) (d : Nat) (v : BlockReg) :
    (b.aznSet st s w d v).memory = b.memory := by
  simp [Block.aznSet]

@[simp] theorem Block.memory_aznLoaded (b : Block) (st : Fin 20) (s : AznShare) (w : AznWork) (op : Nat) :
    (b.aznLoaded st s w op).memory = b.memory := by
  unfold Block.aznLoaded
  dsimp only
  split <;> simp

@[simp] theorem memory_aznLoad (st : Fin 20) (errs : Errs) (b : Block) : (aznLoad st errs b).memory = b.memory := by
  unfold aznLoad
  dsimp only
  (repeat' split) <;> simp

@[simp] theorem memory_aznQdq (st : Fin 20) (b : Block) : (aznQdq st b).memory = b.memory := by
  unfold aznQdq
  split <;> simp

@[simp] theorem Block.memory_drawWords (b : Block) (l : List (Option Word)) : (b.drawWords l).2.memory = b.memory := by
  refine memory_snd_foldl _ _ ([], b) fun x w => ?_
  split <;> simp

@[simp] theorem memory_aznMap (opc : Nat) (st : Fin 20) (b : Block) : (aznMap opc st b).memory = b.memory := by
  unfold aznMap
  split <;> simp

@[simp] theorem memory_aznBlock (sum : Bool) (st : Fin 20) (b : Block) : (aznBlock sum st b).memory = b.memory := by
  unfold aznBlock
  split <;> simp

/-! ### Experts -/

@[simp] theorem Block.memory_setExpert (b : Block) (i e : Nat) : (b.setExpert i e).memory = b.memory := (rfl)

@[simp] theorem memory_exdCmdRead (o : Origin) (b : Block) : (exdCmdRead o b).memory = b.memory := by
  simp [exdCmdRead]

@[simp] theorem memory_exdCmdWrite (o : Origin) (b : Block) : (exdCmdWrite o b).memory = b.memory := by
  simp [exdCmdWrite]

@[simp] theorem Block.memory_exdStart (b : Block) (o : Origin) (off : Nat) (v : Word) (tally : Bool) :
    (b.exdStart o off v tally).memory = b.memory := by
  simp [Block.exdStart]

@[simp] theorem memory_exdBulkLoadStart (o : Origin) (v : Word) (b : Block) : (exdBulkLoadStart o v b).memory = b.memory := by
  simp [exdBulkLoadStart]

@[simp] theorem Block.memory_exdLoadOne (b : Block) : b.exdLoadOne.memory = b.memory := by
  unfold Block.exdLoadOne
  split
  · rfl
  · refine (memory_with _ _ rfl ..).trans (Block.memory_bulkOne b _ _ _ fun x i e => ?_)
    dsimp only
    split <;> simp

@[simp] theorem memory_exdBulkLoadDone (b : Block) : (exdBulkLoadDone b).memory = b.memory := by
  unfold exdBulkLoadDone
  dsimp only
  (repeat' split) <;> simp

@[simp] theorem memory_tallyDumpStart (o : Origin) (v : Word) (b : Block) : (tallyDumpStart o v b).memory = b.memory := by
  simp [tallyDumpStart]

@[simp] theorem Block.memory_exdClear (b : Block) (v : Word) : (b.exdClear v).memory = b.memory := by
  simp [Block.exdClear]

@[simp] theorem memory_exdCntClrCounters (o : Origin) (v : Word) (b : Block) : (exdCntClrCounters o v b).memory = b.memory := by
  simp [exdCntClrCounters]

@[simp] theorem memory_exdCntClrTallies (o : Origin) (v : Word) (b : Block) : (exdCntClrTallies o v b).memory = b.memory := by
  simp [exdCntClrTallies]

@[simp] theorem Block.memory_snapshot (b : Block) (c : Fin 128) (r : TaskRec) : (b.snapshot c r).memory = b.memory := (rfl)

@[simp] theorem Block.memory_weights (b : Block) (r : TaskRec) (scores : List Num) (cols : List Nat) :
    (b.weights r scores cols).2.memory = b.memory := by
  unfold Block.weights
  split <;> simp

theorem Block.memory_listBlocked {b : Block} {c : Fin 128} {t : TaskSt} {l : List (Nat × Nat)} {q : Ready × Block}
    (h : b.listBlocked c t l = some q) : q.2.memory = b.memory := by
  unfold Block.listBlocked at h
  obtain ⟨p, -, hp⟩ := List.exists_of_findSome?_eq_some h
  dsimp only at hp
  split at hp
  · cases hp
  · cases hp
    simp

@[simp] theorem Block.memory_routePlan (b : Block) (c : Fin 128) (t : TaskSt) (all : List (Nat × Nat)) :
    (b.routePlan c t all).2.memory = b.memory := by
  simp [Block.routePlan]

@[simp] theorem Block.memory_routeReady (b : Block) (c : Fin 128) (t : TaskSt) (p : RoutePlan) (pageInOk : Bool) :
    (b.routeReady c t p pageInOk).2.memory = b.memory := by
  unfold Block.routeReady
  dsimp only
  (repeat' split) <;> simp

@[simp] theorem Block.memory_addTallies (b : Block) (t : TaskSt) : (b.addTallies t).memory = b.memory := by
  simp [Block.addTallies]

@[simp] theorem memory_dispatchCapacity (c : Fin 128) (b : Block) : (dispatchCapacity c b).memory = b.memory := by
  refine Block.memory_engine _ _ _ _ b fun x => ?_
  dsimp only
  (repeat' split) <;> simp

/-! ### Spokes -/

@[simp] theorem Block.memory_sendParam (b : Block) (k : Fin 8) : (b.sendParam k).memory = b.memory := (rfl)

@[simp] theorem Block.memory_spokeTick (b : Block) (k : Fin 8) : (b.spokeTick k).memory = b.memory := by
  unfold Block.spokeTick
  dsimp only
  (repeat' split) <;> rfl

@[simp] theorem memory_flitReceive (k : Fin 8) (flit : List Byte) (b : Block) : (flitReceive k flit b).memory = b.memory := by
  simp [flitReceive]

@[simp] theorem memory_replayReq (k : Fin 8) (b : Block) : (replayReq k b).memory = b.memory := by
  unfold replayReq
  dsimp only
  (repeat' split) <;> rfl

/-! ### The fabric -/

@[simp] theorem Block.memory_putSpoke (b : Block) (k : Fin 8) (s : SpokeSt) : (b.putSpoke k s).memory = b.memory := by
  simp [Block.putSpoke]

@[simp] theorem memory_spokeDetect (k : Fin 8) (b : Block) : (spokeDetect k b).memory = b.memory := by
  simp [spokeDetect]

@[simp] theorem memory_spokeEqualise (k : Fin 8) (b : Block) : (spokeEqualise k b).memory = b.memory := by
  simp [spokeEqualise]

@[simp] theorem memory_spokeAlign (k : Fin 8) (polarity : Byte) (reversed : Bool) (b : Block) :
    (spokeAlign k polarity reversed b).memory = b.memory := by
  simp [spokeAlign]

@[simp] theorem memory_spokeParam (k : Fin 8) (partner : Fin 4096) (partnerSpoke : Fin 8) (version rtt : Nat) (b : Block) :
    (spokeParam k partner partnerSpoke version rtt b).memory = b.memory := by
  simp [spokeParam]

@[simp] theorem Block.memory_storeRecord (b : Block) (m : Nat) (l : List Byte) : (b.storeRecord m l).memory = b.memory := (rfl)

@[simp] theorem Block.memory_sendRecord (b : Block) (k : Fin 8) (m : Nat) : (b.sendRecord k m).memory = b.memory := (rfl)

@[simp] theorem Block.memory_floodRecord (b : Block) (m : Nat) (but : Option (Fin 8)) : (b.floodRecord m but).memory = b.memory := by
  simp [Block.floodRecord]

@[simp] theorem Block.memory_originate (b : Block) : b.originate.memory = b.memory := by
  simp [Block.originate]

@[simp] theorem memory_llyLinkUp (k : Fin 8) (b : Block) : (llyLinkUp k b).memory = b.memory := by
  simp [llyLinkUp]

@[simp] theorem memory_heldRetry (k : Fin 8) (partner : Fin 4096) (b : Block) : (heldRetry k partner b).memory = b.memory := by
  simp [heldRetry]

@[simp] theorem memory_llyTrainFail (k : Fin 8) (b : Block) : (llyTrainFail k b).memory = b.memory := by
  simp [llyTrainFail]

@[simp] theorem Block.memory_remoteFault (b : Block) (o : ReqOwner) (code : Nat) : (b.remoteFault o code).memory = b.memory := by
  unfold Block.remoteFault
  (repeat' split) <;> simp

@[simp] theorem Block.memory_dropRequest (b : Block) (tag : Nat) : (b.dropRequest tag).memory = b.memory := (rfl)

@[simp] theorem Block.memory_unroutable (b : Block) (p : Packet) : (b.unroutable p).memory = b.memory := by
  unfold Block.unroutable
  (repeat' split) <;> simp

@[simp] theorem Block.memory_forward (b : Block) (p : Packet) : (b.forward p).memory = b.memory := by
  unfold Block.forward
  split <;> simp

@[simp] theorem Block.memory_rehome (b : Block) (p : Packet) : (b.rehome p).memory = b.memory := by
  simp [Block.rehome]

@[simp] theorem Block.memory_linkDownAt (b : Block) (k : Fin 8) : (b.linkDownAt k).memory = b.memory := by
  simp [Block.linkDownAt]

@[simp] theorem memory_llyLinkDown (k : Fin 8) (b : Block) : (llyLinkDown k b).memory = b.memory := by
  simp [llyLinkDown]

@[simp] theorem Block.memory_spokeCfgWrite (b : Block) (k : Fin 8) (v : Word) : (b.spokeCfgWrite k v).memory = b.memory := by
  simp [Block.spokeCfgWrite]

@[simp] theorem memory_llySpokeCfgWrite (o : Origin) (k : Fin 8) (v : Word) (b : Block) :
    (llySpokeCfgWrite o k v b).memory = b.memory := by
  simp [llySpokeCfgWrite]

@[simp] theorem memory_llyModuleIdWrite (o : Origin) (v : Word) (b : Block) : (llyModuleIdWrite o v b).memory = b.memory := by
  simp [llyModuleIdWrite]

@[simp] theorem Block.memory_fencedDrop (b : Block) : b.fencedDrop.memory = b.memory := (rfl)

@[simp] theorem Block.memory_sendOr (b : Block) (p : Packet) : (b.sendOr p).memory = b.memory := by
  unfold Block.sendOr
  dsimp only
  split <;> simp

@[simp] theorem Block.memory_freeSlots (b : Block) (p : Packet) : (b.freeSlots p).memory = b.memory := by
  unfold Block.freeSlots
  dsimp only
  (repeat' split) <;> rfl

@[simp] theorem memory_packetRoute (b : Block) : (packetRoute b).memory = b.memory := by
  unfold packetRoute
  dsimp only
  (repeat' split) <;> simp

theorem Block.memory_takePacket {b : Block} {f : Packet → Bool} {q : Packet × Block} (h : b.takePacket f = some q) :
    q.2.memory = b.memory := by
  unfold Block.takePacket at h
  split at h
  · cases h
    rfl
  · cases h

@[simp] theorem Block.memory_remoteAccess (b : Block) (a n : Nat) (write : Bool) : (b.remoteAccess a n write).2.memory = b.memory := by
  unfold Block.remoteAccess
  (repeat' split) <;> simp

@[simp] theorem Block.memory_respond (b : Block) (p : Packet) (opcode code : Nat) (data : List Byte) :
    (b.respond p opcode code data).memory = b.memory := by
  simp [Block.respond]

@[simp] theorem Block.memory_readAnswer (b : Block) (p : Packet) : (b.readAnswer p).memory = b.memory := by
  unfold Block.readAnswer
  dsimp only
  split <;> simp

@[simp] theorem memory_readReq (errs : Errs) (b : Block) : (readReq errs b).memory = b.memory := by
  unfold readReq
  split
  · rfl
  · next p x hx =>
    have hm := Block.memory_takePacket hx
    dsimp only at hm ⊢
    split <;> simp [hm]

@[simp] theorem memory_readRsp (b : Block) : (readRsp b).memory = b.memory := by
  unfold readRsp
  split
  · rfl
  · next p x hx =>
    have hm := Block.memory_takePacket hx
    dsimp only at hm ⊢
    (repeat' split) <;> simp [hm]

@[simp] theorem memory_writeAck (b : Block) : (writeAck b).memory = b.memory := by
  unfold writeAck
  split
  · rfl
  · next p x hx =>
    have hm := Block.memory_takePacket hx
    dsimp only at hm ⊢
    (repeat' split) <;> simp [hm]

@[simp] theorem memory_semSignal (b : Block) : (semSignal b).memory = b.memory := by
  unfold semSignal
  split
  · rfl
  · next p x hx =>
    have hm := Block.memory_takePacket hx
    dsimp only at hm ⊢
    (repeat' split) <;> simp [hm]

@[simp] theorem memory_semAck (b : Block) : (semAck b).memory = b.memory := by
  unfold semAck
  split
  · rfl
  · next p x hx =>
    have hm := Block.memory_takePacket hx
    split <;> simp [hm]

@[simp] theorem memory_fabricTimeout (i : Nat) (b : Block) : (fabricTimeout i b).memory = b.memory := by
  unfold fabricTimeout
  split <;> simp

@[simp] theorem memory_linkState (b : Block) : (linkState b).memory = b.memory := by
  unfold linkState
  split
  · rfl
  · next p x hx =>
    have hm := Block.memory_takePacket hx
    dsimp only at hm ⊢
    split <;> simp [hm]

@[simp] theorem Block.memory_showFence (b : Block) : b.showFence.memory = b.memory := by
  simp [Block.showFence]

@[simp] theorem Block.memory_fenceQueues (b : Block) : b.fenceQueues.memory = b.memory := by
  refine memory_foldl _ _ b fun x k => ?_
  refine (memory_foldl _ _ _ fun y p => ?_).trans (by simp)
  dsimp only
  split <;> simp

@[simp] theorem Block.memory_fence (b : Block) : b.fence.memory = b.memory := by
  simp [Block.fence]

@[simp] theorem Block.memory_showReach (b : Block) : b.showReach.2.memory = b.memory := by
  simp [Block.showReach]

@[simp] theorem memory_reachRecompute (b : Block) : (reachRecompute b).memory = b.memory := by
  simp [reachRecompute]

@[simp] theorem Block.memory_epochWrite (b : Block) (v : Word) : (b.epochWrite v).memory = b.memory := by
  simp [Block.epochWrite]

@[simp] theorem memory_llyEpochWrite (o : Origin) (v : Word) (b : Block) : (llyEpochWrite o v b).memory = b.memory := by
  simp [llyEpochWrite]

@[simp] theorem memory_settleEnd (b : Block) : (settleEnd b).memory = b.memory := by
  unfold settleEnd
  dsimp only
  (repeat' split) <;> simp

@[simp] theorem Block.memory_setRoute (b : Block) (i e : Nat) : (b.setRoute i e).memory = b.memory := by
  simp [Block.setRoute]

@[simp] theorem Block.memory_showRoute (b : Block) : b.showRoute.memory = b.memory := (rfl)

@[simp] theorem memory_llyRtDataWrite (o : Origin) (v : Word) (b : Block) : (llyRtDataWrite o v b).memory = b.memory := by
  simp [llyRtDataWrite]

@[simp] theorem memory_llyRtLoadStart (o : Origin) (v : Word) (b : Block) : (llyRtLoadStart o v b).memory = b.memory := by
  simp [llyRtLoadStart]

@[simp] theorem Block.memory_rtLoadOne (b : Block) : b.rtLoadOne.memory = b.memory := by
  unfold Block.rtLoadOne
  dsimp only
  (repeat' split) <;> simp

@[simp] theorem memory_llyRtLoadDone (b : Block) : (llyRtLoadDone b).memory = b.memory := by
  unfold llyRtLoadDone
  dsimp only
  (repeat' split) <;> simp

@[simp] theorem memory_llyCntClr (o : Origin) (v : Word) (b : Block) : (llyCntClr o v b).memory = b.memory := by
  simp [llyCntClr]

@[simp] theorem memory_llySpokeCntClr (o : Origin) (k : Fin 8) (v : Word) (b : Block) :
    (llySpokeCntClr o k v b).memory = b.memory := by
  simp [llySpokeCntClr]

/-! ### Power, clocks and heat -/

@[simp] theorem Block.memory_takeEff (b : Block) : b.takeEff.memory = b.memory := (rfl)

@[simp] theorem Block.memory_driveAux (b : Block) : b.driveAux.memory = b.memory := (rfl)

@[simp] theorem Block.memory_applyBrakes (b : Block) : b.applyBrakes.memory = b.memory := by
  simp [Block.applyBrakes]

@[simp] theorem Block.memory_learnStep (b : Block) : b.learnStep.memory = b.memory := (rfl)

@[simp] theorem Block.memory_stepRelease (b : Block) (d : Nat) : (b.stepRelease d).memory = b.memory := by
  unfold Block.stepRelease
  dsimp only
  (repeat' split) <;> rfl

@[simp] theorem memory_powerSample (mw : Nat) (b : Block) : (powerSample mw b).memory = b.memory := by
  unfold powerSample
  extract_lets due keep e cad oldProf prof oldPwr b1 b2 b3 b4 b5 floor lim
  have h5 : b5.memory = b.memory := by simp [b5, b4, b3, b2, b1]
  clear_value b5 due
  split
  · rfl
  · exact (memory_with _ _ rfl ..).trans h5

@[simp] theorem memory_currentBrake (b : Block) : (currentBrake b).memory = b.memory := by
  unfold currentBrake
  dsimp only
  (repeat' split) <;> simp

@[simp] theorem memory_currentBrakeLift (b : Block) : (currentBrakeLift b).memory = b.memory := by
  simp [currentBrakeLift]

@[simp] theorem Block.memory_learnDraw (b : Block) (c : Fin 128) (cls : Nat) : (b.learnDraw c cls).memory = b.memory := by
  unfold Block.learnDraw
  dsimp only
  (repeat' split) <;> rfl

@[simp] theorem Block.memory_allowance (b : Block) : b.allowance.2.memory = b.memory := by
  unfold Block.allowance
  split <;> rfl

@[simp] theorem Block.memory_lendFrom (claims : List (Nat × Nat)) (base : Nat → Nat) (b : Block) (t : Nat) :
    (b.lendFrom claims base t).2.memory = b.memory := by
  unfold Block.lendFrom
  dsimp only
  (repeat' split) <;> rfl

@[simp] theorem Block.memory_showGrants (b : Block) (claims : List (Nat × Nat)) (base : Nat → Nat) :
    (b.showGrants claims base).memory = b.memory := by
  simp [Block.showGrants]

@[simp] theorem Block.memory_liftWindow (b : Block) (t : Nat) : (b.liftWindow t).memory = b.memory := by
  unfold Block.liftWindow
  dsimp only
  (repeat' split) <;> rfl

@[simp] theorem Block.memory_fitTile (b : Block) (t grant : Nat) : (b.fitTile t grant).memory = b.memory := by
  unfold Block.fitTile
  dsimp only
  (repeat' split) <;> rfl

@[simp] theorem memory_loanReclaim (t : Fin 16) (b : Block) : (loanReclaim t b).memory = b.memory := by
  simp [loanReclaim]

@[simp] theorem Block.memory_auxBrake (b : Block) : b.auxBrake.memory = b.memory := by
  simp [Block.auxBrake]

@[simp] theorem Block.memory_auxLevel (b : Block) (low : Bool) : (b.auxLevel low).memory = b.memory := (rfl)

@[simp] theorem memory_brakeRequestInput (asserted : Bool) (b : Block) : (brakeRequestInput asserted b).memory = b.memory := by
  simp [brakeRequestInput]

@[simp] theorem Block.memory_failDie (b : Block) (d : Nat) : (b.failDie d).memory = b.memory := by
  unfold Block.failDie
  dsimp only
  (repeat' split) <;> simp

@[simp] theorem memory_clkRefLost (b : Block) : (clkRefLost b).memory = b.memory := by
  simp [clkRefLost]

@[simp] theorem memory_clkRefTimeout (b : Block) : (clkRefTimeout b).memory = b.memory := by
  unfold clkRefTimeout
  split <;> simp

@[simp] theorem Block.memory_setLock (b : Block) (d : Nat) (v : Bool) : (b.setLock d v).memory = b.memory := by
  unfold Block.setLock
  split <;> rfl

@[simp] theorem memory_clkLockLost (die : Fin 38) (b : Block) : (clkLockLost die b).memory = b.memory := by
  simp [clkLockLost]

@[simp] theorem memory_clkRefReturn (b : Block) : (clkRefReturn b).memory = b.memory := by
  unfold clkRefReturn
  dsimp only
  (repeat' split) <;> simp

@[simp] theorem memory_clkRelock (die : Fin 38) (b : Block) : (clkRelock die b).memory = b.memory := by
  unfold clkRelock
  dsimp only
  (repeat' split) <;> simp

@[simp] theorem memory_aclkChange (t : Fin 16) (b : Block) : (aclkChange t b).memory = b.memory := by
  simp [aclkChange]

@[simp] theorem Block.memory_showTemp (b : Block) : b.showTemp.memory = b.memory := (rfl)

@[simp] theorem Block.memory_stackHeat (b : Block) (s c : Nat) : (b.stackHeat s c).memory = b.memory := by
  unfold Block.stackHeat
  dsimp only
  (repeat' split) <;> rfl

@[simp] theorem Block.memory_railsOff (b : Block) : b.railsOff.memory = b.memory := (rfl)

@[simp] theorem Block.memory_trip (b : Block) (d c : Nat) : (b.trip d c).memory = b.memory := by
  simp [Block.trip]

@[simp] theorem memory_tempSample (temps : List Nat) (b : Block) : (tempSample temps b).memory = b.memory := by
  unfold tempSample
  dsimp only
  (repeat' split) <;> simp

@[simp] theorem memory_thermalBrakeStep (t : Fin 16) (b : Block) : (thermalBrakeStep t b).memory = b.memory := by
  unfold thermalBrakeStep
  dsimp only
  (repeat' split) <;> simp

@[simp] theorem Block.memory_tempClear (b : Block) (v : Word) : (b.tempClear v).memory = b.memory := by
  unfold Block.tempClear
  split <;> rfl

@[simp] theorem memory_pwrTempClear (o : Origin) (v : Word) (b : Block) : (pwrTempClear o v b).memory = b.memory := by
  simp [pwrTempClear]

@[simp] theorem memory_pwrCntClr (o : Origin) (v : Word) (b : Block) : (pwrCntClr o v b).memory = b.memory := by
  simp [pwrCntClr]

@[simp] theorem Block.memory_showAge (b : Block) : b.showAge.memory = b.memory := (rfl)

@[simp] theorem Block.memory_setTop (b : Block) (t m : Nat) : (b.setTop t m).memory = b.memory := by
  simp [Block.setTop]

@[simp] theorem Block.memory_marginLow (b : Block) (t : Nat) : (b.marginLow t).memory = b.memory := by
  simp [Block.marginLow]

@[simp] theorem memory_ageMonitorRead (slacks : List Int) (b : Block) : (ageMonitorRead slacks b).memory = b.memory := by
  simp [ageMonitorRead]

@[simp] theorem memory_ageCntClr (o : Origin) (v : Word) (b : Block) : (ageCntClr o v b).memory = b.memory := by
  simp [ageCntClr]

/-! ### Completion -/

@[simp] theorem Block.memory_awaitUnsent (b : Block) (owner : ReqOwner) (opcode dst addr length : Nat) :
    (b.awaitUnsent owner opcode dst addr length).memory = b.memory := (rfl)

@[simp] theorem Block.memory_signalSem (b : Block) (owner : ReqOwner) (s : SemRef) (inc : Nat) :
    (b.signalSem owner s inc).memory = b.memory := by
  unfold Block.signalSem
  dsimp only
  (repeat' split) <;> simp

@[simp] theorem Block.memory_postFault (b : Block) (u : UnitId) (n : Nat) : (b.postFault u n).memory = b.memory := by
  unfold Block.postFault
  (repeat' split) <;> simp

@[simp] theorem Block.memory_disableRing (b : Block) (u : UnitId) : (b.disableRing u).memory = b.memory := by
  simp [Block.disableRing]

@[simp] theorem Block.memory_stall (b : Block) (u : UnitId) : (b.stall u).memory = b.memory := by
  unfold Block.stall
  split <;> rfl

@[simp] theorem Block.memory_leave (b : Block) (t : TaskSt) : (b.leave t).memory = b.memory := by
  simp [Block.leave]

@[simp] theorem Block.memory_applySignals (b : Block) (u : UnitId) (t : TaskSt) : (b.applySignals u t).memory = b.memory := by
  unfold Block.applySignals
  dsimp only
  (repeat' split) <;> simp

@[simp] theorem Block.memory_addGroup (b : Block) (m : Nat) (counts : List Nat) : (b.addGroup m counts).memory = b.memory := by
  simp [Block.addGroup]

@[simp] theorem Block.memory_handOver (b : Block) (m child : Nat) (l : List Byte) : (b.handOver m child l).memory = b.memory := (rfl)

/-! ### Tile memory -/

theorem Block.memory_slabAlloc {b : Block} {t : Fin 16} {kind : AllocKind} {order : List Nat} {n : Nat} {q : Nat × Nat × Block}
    (h : b.slabAlloc t kind order n = some q) : q.2.2.memory = b.memory := by
  unfold Block.slabAlloc at h
  dsimp only at h
  split at h
  · cases h
  · split at h
    · cases h
    · split at h
      · cases h
      · cases h
        rfl

@[simp] theorem Block.memory_bumpGens (b : Block) (t : Fin 16) (base n : Nat) : (b.bumpGens t base n).memory = b.memory := (rfl)

@[simp] theorem Block.memory_retireSlab (b : Block) (t : Fin 16) (slab a : Nat) : (b.retireSlab t slab a).memory = b.memory := by
  simp [Block.retireSlab]

@[simp] theorem Block.memory_giveBack (b : Block) (t : Fin 16) (base : Nat) (slabs : List Nat) :
    (b.giveBack t base slabs).memory = b.memory := by
  simp [Block.giveBack]

@[simp] theorem Block.memory_dropAlloc (b : Block) (t : Fin 16) (base : Nat) : (b.dropAlloc t base).memory = b.memory := by
  unfold Block.dropAlloc
  dsimp only
  split <;> simp

@[simp] theorem Block.memory_bootTile (b : Block) (t : Fin 16) : (b.bootTile t).memory = b.memory := (rfl)

@[simp] theorem Block.memory_allocResult (b : Block) (t : Fin 16) (code : Nat) : (b.allocResult t code).memory = b.memory := by
  unfold Block.allocResult
  split <;> rfl

@[simp] theorem Block.memory_allocCmd (b : Block) (t : Fin 16) : (b.allocCmd t).memory = b.memory := by
  unfold Block.allocCmd
  dsimp only
  split
  · simp
  · split
    · simp
    · split
      · simp
      · split
        · simp
        · split
          · simp
          · next hq =>
            have hm := Block.memory_slabAlloc hq
            dsimp only at hm
            simp [hm]

@[simp] theorem memory_tileAlloc (o : Origin) (t : Fin 16) (b : Block) : (tileAlloc o t b).memory = b.memory := by
  simp [tileAlloc]

@[simp] theorem Block.memory_freeCmd (b : Block) (t : Fin 16) : (b.freeCmd t).memory = b.memory := by
  unfold Block.freeCmd
  dsimp only
  (repeat' split) <;> rfl

@[simp] theorem memory_tileFree (o : Origin) (t : Fin 16) (b : Block) : (tileFree o t b).memory = b.memory := by
  simp [tileFree]

@[simp] theorem memory_slabReturn (t : Fin 16) (base : Nat) (b : Block) : (slabReturn t base b).memory = b.memory := by
  unfold slabReturn
  split <;> simp

@[simp] theorem Block.memory_giveShadow (b : Block) (serial shadow target : Nat) :
    (b.giveShadow serial shadow target).memory = b.memory := (rfl)

@[simp] theorem Block.memory_askShadow (b : Block) (u : UnitId) (t : TaskSt) : (b.askShadow u t).memory = b.memory := by
  unfold Block.askShadow
  dsimp only
  (repeat' split) <;> rfl

@[simp] theorem Block.memory_commitShadow (b : Block) (shadow target : Nat) : (b.commitShadow shadow target).memory = b.memory := by
  unfold Block.commitShadow
  dsimp only
  (repeat' split) <;> simp

@[simp] theorem Block.memory_discardShadow (b : Block) (shadow : Nat) : (b.discardShadow shadow).memory = b.memory := by
  unfold Block.discardShadow
  (repeat' split) <;> simp

@[simp] theorem Block.memory_cancelShadow (b : Block) (serial : Nat) : (b.cancelShadow serial).memory = b.memory := (rfl)

@[simp] theorem memory_sramCeWriteback (t : Fin 16) (a : DWord) (b : Block) : (sramCeWriteback t a b).memory = b.memory := by
  simp [sramCeWriteback]

@[simp] theorem memory_tileSramCntClr (o : Origin) (t : Fin 16) (v : Word) (b : Block) :
    (tileSramCntClr o t v b).memory = b.memory := by
  simp [tileSramCntClr]

@[simp] theorem Block.memory_ocFlush (b : Block) (t : Nat) : (b.ocFlush t).memory = b.memory := (rfl)

@[simp] theorem Block.memory_ocBarrier (b : Block) : b.ocBarrier.memory = b.memory := by
  simp [Block.ocBarrier]

@[simp] theorem memory_tileOcInv (o : Origin) (t : Fin 16) (v : Word) (b : Block) : (tileOcInv o t v b).memory = b.memory := by
  simp [tileOcInv]

@[simp] theorem memory_tileOcCntClr (o : Origin) (t : Fin 16) (v : Word) (b : Block) :
    (tileOcCntClr o t v b).memory = b.memory := by
  simp [tileOcCntClr]

/-! ### HBM -/

@[simp] theorem Block.memory_showFree (b : Block) : b.showFree.memory = b.memory := by
  simp [Block.showFree]

@[simp] theorem Block.memory_showRetire (b : Block) : b.showRetire.memory = b.memory := (rfl)

@[simp] theorem Block.memory_showSpares (b : Block) (st : Fin 20) : (b.showSpares st).memory = b.memory := (rfl)

@[simp] theorem memory_stackTraining (st : Fin 20) (trained : Bool) (failing : List Nat) (b : Block) :
    (stackTraining st trained failing b).memory = b.memory := by
  simp [stackTraining]

theorem Block.memory_placePage {b x : Block} {v st : Nat} {evict far : Bool} (h : b.placePage v st evict far = some x) :
    x.memory = b.memory := by
  unfold Block.placePage at h
  dsimp only at h
  split at h
  · cases h
    rfl
  · cases h

@[simp] theorem Block.memory_hbmResult (b : Block) (code : Nat) : (b.hbmResult code).memory = b.memory := by
  unfold Block.hbmResult
  split <;> rfl

@[simp] theorem Block.memory_hbmFreeCmd (b : Block) : b.hbmFreeCmd.memory = b.memory := by
  unfold Block.hbmFreeCmd
  dsimp only
  (repeat' split) <;> rfl

@[simp] theorem memory_hbmFree (o : Origin) (b : Block) : (hbmFree o b).memory = b.memory := by
  simp [hbmFree]

@[simp] theorem memory_hbcPteSelWrite (o : Origin) (v : Word) (b : Block) : (hbcPteSelWrite o v b).memory = b.memory := by
  simp [hbcPteSelWrite]

@[simp] theorem Block.memory_leaveService (b : Block) (st : Fin 20) (frame page : Nat) :
    (b.leaveService st frame page).memory = b.memory := by
  simp [Block.leaveService]

@[simp] theorem Block.memory_startOut (b : Block) (v : Nat) (owners : List Nat) (victimFor : Option Nat) (why : MoveWhy) :
    (b.startOut v owners victimFor why).memory = b.memory := (rfl)

@[simp] theorem Block.memory_showMigrating (b : Block) (st : Fin 20) : (b.showMigrating st).memory = b.memory := by
  simp [Block.showMigrating]

@[simp] theorem Block.memory_markPending (b : Block) (st frame : Nat) : (b.markPending st frame).memory = b.memory := by
  unfold Block.markPending
  dsimp only
  (repeat' split) <;> rfl

@[simp] theorem Block.memory_retireFrame (b : Block) (st : Fin 20) (frame : Nat) : (b.retireFrame st frame).memory = b.memory := by
  unfold Block.retireFrame
  dsimp only
  (repeat' split) <;> simp

@[simp] theorem Block.memory_retireAgain (b : Block) (st : Fin 20) (frame : Nat) : (b.retireAgain st frame).memory = b.memory := by
  simp [Block.retireAgain]

@[simp] theorem Block.memory_rowWritten (b : Block) (st frame row : Nat) : (b.rowWritten st frame row).memory = b.memory := (rfl)

@[simp] theorem memory_rowRepair (st : Fin 20) (ends : Bool) (b : Block) : (rowRepair st ends b).memory = b.memory := by
  unfold rowRepair
  dsimp only
  (repeat' split) <;> simp

@[simp] theorem Block.memory_bumpGranule (b : Block) (st frame off : Nat) : (b.bumpGranule st frame off).memory = b.memory := (rfl)

@[simp] theorem Block.memory_scrubBad (b : Block) (st : Fin 20) (frame off : Nat) : (b.scrubBad st frame off).memory = b.memory := by
  unfold Block.scrubBad
  dsimp only
  (repeat' split) <;> simp

@[simp] theorem Block.memory_scrub (b : Block) (st : Fin 20) (errs : Errs) : (b.scrub st errs).memory = b.memory := by
  simp [Block.scrub]

@[simp] theorem Block.memory_scrubWalk (b : Block) (st : Fin 20) (ends : Bool) : (b.scrubWalk st ends).memory = b.memory := by
  simp [Block.scrubWalk]

@[simp] theorem memory_patrolScrub (st : Fin 20) (errs : Errs) (ends : Bool) (b : Block) :
    (patrolScrub st errs ends b).memory = b.memory := by
  simp [patrolScrub]

@[simp] theorem Block.memory_deliver (b : Block) (st : Nat) (q : SlotReq) : (b.deliver st q).memory = b.memory := by
  unfold Block.deliver
  dsimp only
  (repeat' split) <;> simp

@[simp] theorem Block.memory_rowErrs (b : Block) (st : Fin 20) (frame row : Nat) (go : List SlotReq) (errs : Errs) :
    (b.rowErrs st frame row go errs).memory = b.memory := by
  simp [Block.rowErrs]

@[simp] theorem memory_hbmSlotServe (st : Fin 20) (pc : Fin 64) (errs : Errs) (b : Block) :
    (hbmSlotServe st pc errs b).memory = b.memory := by
  unfold hbmSlotServe
  dsimp only
  split <;> simp

@[simp] theorem memory_hbcCntClr (o : Origin) (st : Fin 20) (v : Word) (b : Block) : (hbcCntClr o st v b).memory = b.memory := by
  simp [hbcCntClr]

/-! ### Far memory -/

@[simp] theorem Block.memory_poisonWords (b : Block) (src : Nat) (l : List Nat) : (b.poisonWords src l).memory = b.memory := (rfl)

@[simp] theorem Block.memory_pageErrs (b : Block) (page : Nat) (errs : Errs) : (b.pageErrs page errs).memory = b.memory := by
  simp [Block.pageErrs]

@[simp] theorem Block.memory_frameWritten (b : Block) (st frame : Nat) : (b.frameWritten st frame).memory = b.memory := (rfl)

@[simp] theorem Block.memory_dropMove (b : Block) (v : Nat) (inward : Bool) : (b.dropMove v inward).memory = b.memory := (rfl)

@[simp] theorem Block.memory_failOwner (b : Block) (st : Fin 20) (code n : Nat) : (b.failOwner st code n).memory = b.memory := by
  unfold Block.failOwner
  dsimp only
  (repeat' split) <;> simp

@[simp] theorem Block.memory_failMove (b : Block) (m : Move) (code : Nat) : (b.failMove m code).memory = b.memory := by
  unfold Block.failMove
  split <;> simp

@[simp] theorem Block.memory_sweepFor (b : Block) (st : Nat) (l : List (Nat × Nat)) : (b.sweepFor st l).2.memory = b.memory := by
  induction l generalizing b with
  | nil => rfl
  | cons p l ih =>
    unfold Block.sweepFor
    dsimp only
    (repeat' split) <;> simp [ih]

@[simp] theorem Block.memory_victim (b : Block) (st : Nat) : (b.victim st).2.memory = b.memory := by
  simp [Block.victim]

@[simp] theorem Block.memory_mapMove (b : Block) (v : Nat) (f : Move → Move) : (b.mapMove v f).memory = b.memory := (rfl)

@[simp] theorem memory_pageInStart (b : Block) : (pageInStart b).memory = b.memory := by
  unfold pageInStart
  dsimp only
  (repeat' split) <;> simp

@[simp] theorem memory_hbmPagesReturn (base : Nat) (b : Block) : (hbmPagesReturn base b).memory = b.memory := by
  unfold hbmPagesReturn
  dsimp only
  (repeat' split) <;> simp

@[simp] theorem Block.memory_taskPageIn (b : Block) (v serial : Nat) : (b.taskPageIn v serial).2.memory = b.memory := by
  simp [Block.taskPageIn]

@[simp] theorem Block.memory_pageOp (b : Block) (op v serial : Nat) : (b.pageOp op v serial).2.memory = b.memory := by
  unfold Block.pageOp
  split <;> simp

@[simp] theorem memory_pageStep (op i : Nat) (b : Block) : (pageStep op i b).memory = b.memory := by
  unfold pageStep
  split
  · rfl
  · refine Block.memory_asTask _ _ b fun x => ?_
    dsimp only
    (repeat' split) <;> simp

@[simp] theorem memory_cxlLinkDrop (recovered : Bool) (b : Block) : (cxlLinkDrop recovered b).memory = b.memory := by
  simp [cxlLinkDrop]

@[simp] theorem memory_cxlPagingFramesWrite (o : Origin) (v : Word) (b : Block) :
    (cxlPagingFramesWrite o v b).memory = b.memory := by
  simp [cxlPagingFramesWrite]

@[simp] theorem memory_cxlCntClr (o : Origin) (v : Word) (b : Block) : (cxlCntClr o v b).memory = b.memory := by
  simp [cxlCntClr]

/-! ### Scheduling -/

@[simp] theorem Block.memory_ringCfg (b : Block) (u : UnitId) (v : Word) : (b.ringCfg u v).memory = b.memory := by
  simp [Block.ringCfg]

@[simp] theorem memory_schRingCfgWrite (o : Origin) (u : UnitId) (v : Word) (b : Block) :
    (schRingCfgWrite o u v b).memory = b.memory := by
  simp [schRingCfgWrite]

@[simp] theorem Block.memory_ring (b : Block) (u : UnitId) (v : Word) : (b.ring u v).memory = b.memory := by
  unfold Block.ring
  dsimp only
  (repeat' split) <;> rfl

@[simp] theorem memory_doorbell (_o : Origin) (u : UnitId) (v : Word) (b : Block) : (doorbell _o u v b).memory = b.memory := by
  simp [doorbell]

@[simp] theorem Block.memory_cringHead (b : Block) (u : UnitId) (v : Word) : (b.cringHead u v).memory = b.memory := by
  unfold Block.cringHead
  dsimp only
  (repeat' split) <;> rfl

@[simp] theorem memory_schCringHeadWrite (o : Origin) (u : UnitId) (v : Word) (b : Block) :
    (schCringHeadWrite o u v b).memory = b.memory := by
  simp [schCringHeadWrite]

@[simp] theorem Block.memory_gangWrite (b : Block) (t : Fin 16) (g : Fin 8) (v : Word) : (b.gangWrite t g v).memory = b.memory := by
  simp [Block.gangWrite]

@[simp] theorem memory_gangDefWrite (o : Origin) (t : Fin 16) (g : Fin 8) (v : Word) (b : Block) :
    (gangDefWrite o t g v b).memory = b.memory := by
  simp [gangDefWrite]

@[simp] theorem Block.memory_divide (b : Block) (u : UnitId) (t : TaskSt) : (b.divide u t).memory = b.memory := by
  unfold Block.divide
  dsimp only
  split
  · rfl
  · refine (memory_foldl _ _ _ fun x s => ?_).trans (by simp)
    split <;> simp

@[simp] theorem Block.memory_place (b : Block) (u : UnitId) (t : TaskSt) : (b.place u t).memory = b.memory := by
  unfold Block.place
  split <;> simp

@[simp] theorem Block.memory_shareCheck (b : Block) (u : UnitId) (t : TaskSt) (explicit : Bool) :
    (b.shareCheck u t explicit).2.2.memory = b.memory := by
  unfold Block.shareCheck
  dsimp only
  (repeat' split) <;> simp

@[simp] theorem Block.memory_admitShare (b : Block) (u : UnitId) (t : TaskSt) (explicit : Bool) :
    (b.admitShare u t explicit).memory = b.memory := by
  simp [Block.admitShare]

@[simp] theorem Block.memory_admitOffer (b : Block) (x : Nat × Nat × List Byte) : (b.admitOffer x).memory = b.memory := by
  simp [Block.admitOffer]

@[simp] theorem Block.memory_wantShadow (b : Block) (u : UnitId) (t : TaskSt) : (b.wantShadow u t).memory = b.memory := by
  simp [Block.wantShadow]

@[simp] theorem Block.memory_begin (b : Block) (u : UnitId) (n : Nat) : (b.begin u n).memory = b.memory := (rfl)

@[simp] theorem Block.memory_redate (b : Block) (c : Fin 128) (n : Nat) : (b.redate c n).memory = b.memory := by
  unfold Block.redate
  dsimp only
  (repeat' split) <;> simp

@[simp] theorem Block.memory_takeRecords (b : Block) (c : Fin 128) (t : TaskSt) : (b.takeRecords c t).memory = b.memory := by
  simp [Block.takeRecords]

@[simp] theorem Block.memory_startCore (b : Block) (c : Fin 128) (t : TaskSt) : (b.startCore c t).memory = b.memory := by
  unfold Block.startCore
  dsimp only
  (repeat' split) <;> simp

@[simp] theorem Block.memory_launch (b : Block) (c : Fin 128) (r : Nat) (t : TaskSt) : (b.launch c r t).memory = b.memory := by
  simp [Block.launch]

@[simp] theorem Block.memory_startOn (b : Block) (c : Fin 128) (r unspent : Nat) : (b.startOn c r unspent).memory = b.memory := by
  unfold Block.startOn
  dsimp only
  (repeat' split) <;> simp

@[simp] theorem Block.memory_startFree (b : Block) (c : Fin 128) : (b.startFree c).memory = b.memory := by
  unfold Block.startFree
  dsimp only
  (repeat' split) <;> rfl

@[simp] theorem Block.memory_startModule (b : Block) (cls : Nat) : (b.startModule cls).memory = b.memory := by
  unfold Block.startModule
  dsimp only
  (repeat' split) <;> simp

@[simp] theorem Block.memory_startParent (b : Block) (u : UnitId) : (b.startParent u).memory = b.memory := by
  unfold Block.startParent
  split <;> simp

@[simp] theorem memory_taskStart (u : UnitId) (r unspent : Nat) (b : Block) : (taskStart u r unspent b).memory = b.memory := by
  unfold taskStart
  (repeat' split) <;> simp

@[simp] theorem Block.memory_fitClass (b : Block) (t cls grant : Nat) : (b.fitClass t cls grant).memory = b.memory := (rfl)

@[simp] theorem memory_holdExpire (u : UnitId) (i : Nat) (b : Block) : (holdExpire u i b).memory = b.memory := by
  unfold holdExpire
  split <;> simp

@[simp] theorem memory_overlapPrologue (c : Fin 128) (b : Block) : (overlapPrologue c b).memory = b.memory := by
  unfold overlapPrologue
  dsimp only
  (repeat' split) <;> simp

@[simp] theorem Block.memory_overBudget (b : Block) (u : UnitId) (t : TaskSt) : (b.overBudget u t).memory = b.memory := by
  unfold Block.overBudget
  dsimp only
  (repeat' split) <;> simp

@[simp] theorem Block.memory_finishLeaf (b : Block) (u : UnitId) (t : TaskSt) (cycles : Nat) :
    (b.finishLeaf u t cycles).memory = b.memory := by
  unfold Block.finishLeaf
  dsimp only
  (repeat' split) <;> simp

@[simp] theorem memory_budgetExceeded (u : UnitId) (i cycles : Nat) (b : Block) : (budgetExceeded u i cycles b).memory = b.memory := by
  unfold budgetExceeded
  split <;> simp

@[simp] theorem memory_specDecide (u : UnitId) (i : Nat) (told : Option Bool) (b : Block) : (specDecide u i told b).memory = b.memory := by
  unfold specDecide
  dsimp only
  (repeat' split) <;> rfl

@[simp] theorem Block.memory_markDecided (b : Block) (n : Nat) (d : Decision) : (b.markDecided n d).memory = b.memory := by
  simp [Block.markDecided]

@[simp] theorem Block.memory_stopMember (b : Block) (p : UnitId × TaskSt) : (b.stopMember p).memory = b.memory := by
  unfold Block.stopMember
  dsimp only
  (repeat' split) <;> simp

/-! ### Collectives -/

@[simp] theorem Block.memory_showTeam (b : Block) : b.showTeam.memory = b.memory := (rfl)

@[simp] theorem Block.memory_teamResult (b : Block) (code : Nat) : (b.teamResult code).memory = b.memory := by
  unfold Block.teamResult
  split <;> rfl

@[simp] theorem Block.memory_setTeam (b : Block) (n : Nat) (x : Option Team) : (b.setTeam n x).memory = b.memory := (rfl)

@[simp] theorem memory_colTeamLoad (o : Origin) (b : Block) : (colTeamLoad o b).memory = b.memory := by
  simp [colTeamLoad]

@[simp] theorem memory_colTeamClear (o : Origin) (b : Block) : (colTeamClear o b).memory = b.memory := by
  simp [colTeamClear]

@[simp] theorem Block.memory_squares (b : Block) (l : List Num) : (b.squares l).2.memory = b.memory := (rfl)

@[simp] theorem Block.memory_setRun (b : Block) (x : ColRun) : (b.setRun x).memory = b.memory := (rfl)

@[simp] theorem Block.memory_colFault (b : Block) (n code : Nat) : (b.colFault n code).memory = b.memory := by
  simp [Block.colFault]

@[simp] theorem Block.memory_colSend (b : Block) (n dst opcode addr : Nat) (data : List Byte) :
    (b.colSend n dst opcode addr data).memory = b.memory := by
  refine memory_foldl _ _ b fun x p => ?_
  dsimp only
  (repeat' split) <;> simp

@[simp] theorem Block.memory_colSendAll (b : Block) (n : Nat) (l : List (Nat × List Nat × List Byte)) :
    (b.colSendAll n l).memory = b.memory := by
  refine memory_foldl _ _ b fun x m => ?_
  split <;> simp

@[simp] theorem Block.memory_colDone (b : Block) (n : Nat) : (b.colDone n).memory = b.memory := (rfl)

@[simp] theorem Block.memory_permuteReady (b : Block) (l : List (Nat × Nat × List Byte)) : (b.permuteReady l).2.memory = b.memory := by
  refine memory_snd_foldl _ _ (Ready.ok, b) fun x w => ?_
  split <;> simp

@[simp] theorem Block.memory_colReply (b : Block) (dst n : Nat) : (b.colReply dst n).memory = b.memory := by
  simp [Block.colReply]

@[simp] theorem Block.memory_colMismatch (b : Block) (n : Nat) : (b.colMismatch n).memory = b.memory := by
  simp [Block.colMismatch]

@[simp] theorem Block.memory_colDiffer (b : Block) (x : ColRun) : (b.colDiffer x).memory = b.memory := by
  simp [Block.colDiffer]

@[simp] theorem Block.memory_colCompare (b : Block) (x : ColRun) (h : Hello) : (b.colCompare x h).memory = b.memory := by
  unfold Block.colCompare
  split <;> simp

@[simp] theorem Block.memory_colHeld (b : Block) (n : Nat) : (b.colHeld n).memory = b.memory := by
  unfold Block.colHeld
  split
  · rfl
  · refine memory_foldl _ _ b fun x m => ?_
    (repeat' split) <;> simp

@[simp] theorem Block.memory_colEarly (b : Block) (n : Nat) : (b.colEarly n).memory = b.memory := by
  unfold Block.colEarly
  dsimp only
  (repeat' split) <;> simp

@[simp] theorem Block.memory_colBegin (b : Block) (t : TaskSt) (own : List Word) (form : List Byte) (sq : DWord) :
    (b.colBegin t own form sq).memory = b.memory := by
  simp [Block.colBegin]

@[simp] theorem Block.memory_colFetch (b : Block) (t : TaskSt) (l : List Source) : (b.colFetch t l).memory = b.memory := by
  refine (memory_foldl _ _ _ fun x s => ?_).trans (by simp)
  dsimp only
  (repeat' split) <;> simp

@[simp] theorem Block.memory_colVersions (b : Block) (d : Desc) (l : List Source) : (b.colVersions d l).2.memory = b.memory := by
  refine memory_snd_foldl _ _ (none, b) fun x s => ?_
  split <;> simp

@[simp] theorem Block.memory_takeFrom (b : Block) (src opcode n : Nat) : (b.takeFrom src opcode n).memory = b.memory := by
  refine memory_foldl _ _ b fun x i => ?_
  split
  · next hq => exact Block.memory_takePacket hq
  · rfl

@[simp] theorem memory_colHello (team src : Nat) (fields : List Nat) (b : Block) : (colHello team src fields b).memory = b.memory := by
  unfold colHello
  dsimp only
  (repeat' split) <;> simp

@[simp] theorem memory_colData (team src : Nat) (head : List Nat) (data : List Byte) (b : Block) :
    (colData team src head data b).memory = b.memory := by
  unfold colData
  dsimp only
  (repeat' split) <;> simp

@[simp] theorem memory_colAck (team src : Nat) (b : Block) : (colAck team src b).memory = b.memory := by
  unfold colAck
  dsimp only
  (repeat' split) <;> simp

@[simp] theorem memory_colAbort (team src : Nat) (b : Block) : (colAbort team src b).memory = b.memory := by
  unfold colAbort
  dsimp only
  (repeat' split) <;> simp

@[simp] theorem memory_colCntClr (o : Origin) (v : Word) (b : Block) : (colCntClr o v b).memory = b.memory := by
  simp [colCntClr]

/-! ### The mailbox -/

@[simp] theorem Block.memory_showSec (b : Block) : b.showSec.memory = b.memory := by
  simp [Block.showSec]

@[simp] theorem Block.memory_mbxBusy (b : Block) (v : Bool) : (b.mbxBusy v).memory = b.memory := by
  simp [Block.mbxBusy]

@[simp] theorem Block.memory_mbxStat (b : Block) (p : Fin 2) (code result : Nat) : (b.mbxStat p code result).memory = b.memory := by
  simp [Block.mbxStat]

@[simp] theorem Block.memory_mbxDone (b : Block) (p : Fin 2) : (b.mbxDone p).memory = b.memory := by
  simp [Block.mbxDone]

@[simp] theorem Block.memory_mbxEnd (b : Block) (p : Fin 2) (code result : Nat) (rsp : List Word) :
    (b.mbxEnd p code result rsp).memory = b.memory := by
  simp [Block.mbxEnd]

@[simp] theorem Block.memory_mbxRefuse (b : Block) (p : Fin 2) : (b.mbxRefuse p).memory = b.memory := by
  simp [Block.mbxRefuse]

@[simp] theorem Block.memory_mbxStart (b : Block) (p : Fin 2) (code : Nat) : (b.mbxStart p code).memory = b.memory := by
  simp [Block.mbxStart]

@[simp] theorem Block.memory_mbxReady (b : Block) (result : Nat) (rsp : List Word) : (b.mbxReady result rsp).memory = b.memory := by
  unfold Block.mbxReady
  split <;> rfl

@[simp] theorem Block.memory_mbxTodo (b : Block) (l : List Nat) : (b.mbxTodo l).memory = b.memory := by
  unfold Block.mbxTodo
  split <;> rfl

@[simp] theorem Block.memory_mbxCommand (b : Block) (o : Origin) (p : Fin 2) (code : Nat) (work : Block → Block)
    (h : ∀ x, (work x).memory = x.memory) : (b.mbxCommand o p code work).memory = b.memory := by
  unfold Block.mbxCommand
  (repeat' split) <;> simp [h]

@[simp] theorem memory_mbxCmdRefused (o : Origin) (p : Fin 2) (_v : Word) (b : Block) :
    (mbxCmdRefused o p _v b).memory = b.memory := by
  simp [mbxCmdRefused]

@[simp] theorem memory_mbxUnknownCmd (o : Origin) (p : Fin 2) (v : Word) (b : Block) :
    (mbxUnknownCmd o p v b).memory = b.memory := by
  simp [mbxUnknownCmd]

@[simp] theorem Block.memory_infoWork (b : Block) : b.infoWork.memory = b.memory := by
  simp [Block.infoWork]

@[simp] theorem Block.memory_digestWork (b : Block) : b.digestWork.memory = b.memory := by
  simp [Block.digestWork]

@[simp] theorem Block.memory_measureWork (p : Fin 2) (b : Block) : (b.measureWork p).memory = b.memory := by
  simp [Block.measureWork]

@[simp] theorem Block.memory_svnWork (b : Block) : b.svnWork.memory = b.memory := by
  simp [Block.svnWork]

@[simp] theorem Block.memory_retireWork (p : Fin 2) (b : Block) : (b.retireWork p).memory = b.memory := by
  simp [Block.retireWork]

@[simp] theorem Block.memory_updateWork (p : Fin 2) (readback : Bool) (b : Block) : (b.updateWork p readback).memory = b.memory := by
  unfold Block.updateWork NvSt.setBank
  dsimp only
  (repeat' split) <;> simp

@[simp] theorem Block.memory_updateEnd (b : Block) (r : MbxRun) : (b.updateEnd r).memory = b.memory := by
  unfold Block.updateEnd NvSt.setBank
  dsimp only
  (repeat' split) <;> simp

@[simp] theorem Block.memory_sign (b : Block) (m : List Byte) : (b.sign m).2.memory = b.memory := (rfl)

@[simp] theorem Block.memory_replanWork (p : Fin 2) (volts : List Nat) (b : Block) : (b.replanWork p volts).memory = b.memory := by
  simp [Block.replanWork]

@[simp] theorem Block.memory_replanApply (b : Block) (volts : List Nat) : (b.replanApply volts).memory = b.memory := by
  simp [Block.replanApply]

@[simp] theorem Block.memory_replanEnd (b : Block) (r : MbxRun) : (b.replanEnd r).memory = b.memory := by
  simp [Block.replanEnd]

@[simp] theorem Block.memory_scrubWork (p : Fin 2) (errs : Errs) (b : Block) : (b.scrubWork p errs).memory = b.memory := by
  simp [Block.scrubWork]

@[simp] theorem Block.memory_scrubEnd (b : Block) (r : MbxRun) : (b.scrubEnd r).memory = b.memory := by
  simp [Block.scrubEnd]

@[simp] theorem Block.memory_migrateAsk (inward : Bool) (l m : List Nat) (b : Block) : (b.migrateAsk inward l m).2.2.memory = b.memory := by
  induction l generalizing m b with
  | nil => rfl
  | cons v l ih =>
    unfold Block.migrateAsk
    (repeat' split) <;> simp [ih]

@[simp] theorem Block.memory_migrateMore (b : Block) : b.migrateMore.memory = b.memory := by
  unfold Block.migrateMore
  dsimp only
  (repeat' split) <;> simp

@[simp] theorem Block.memory_migrateWork (p : Fin 2) (b : Block) : (b.migrateWork p).memory = b.memory := by
  simp [Block.migrateWork]

@[simp] theorem Block.memory_migrateEnd (b : Block) (r : MbxRun) : (b.migrateEnd r).memory = b.memory := by
  simp [Block.migrateEnd]

@[simp] theorem memory_mbxCntClr (o : Origin) (p : Fin 2) (v : Word) (b : Block) : (mbxCntClr o p v b).memory = b.memory := by
  simp [mbxCntClr]

@[simp] theorem Block.memory_mbxAbandon (b : Block) : b.mbxAbandon.memory = b.memory := (rfl)

/-! ### Boot and resets -/

@[simp] theorem memory_modReset (o : Origin) (v : Word) (b : Block) : (modReset o v b).memory = b.memory := by
  simp [modReset]

@[simp] theorem memory_modResetWarm (o : Origin) (v : Word) (b : Block) : (modResetWarm o v b).memory = b.memory := by
  simp [modResetWarm]

@[simp] theorem memory_modResetCold (o : Origin) (v : Word) (b : Block) : (modResetCold o v b).memory = b.memory := by
  simp [modResetCold]

@[simp] theorem Block.memory_askWarm (b : Block) : b.askWarm.memory = b.memory := by
  unfold Block.askWarm
  split <;> rfl

@[simp] theorem Block.memory_portDown (b : Block) : b.portDown.memory = b.memory := (rfl)

@[simp] theorem memory_perstAssert (b : Block) : (perstAssert b).memory = b.memory := by
  simp [perstAssert]

@[simp] theorem memory_functionLevelReset (b : Block) : (functionLevelReset b).memory = b.memory := by
  simp [functionLevelReset]

@[simp] theorem Block.memory_setVolts (b : Block) (dv : Nat) : (b.setVolts dv).memory = b.memory := by
  unfold Block.setVolts
  dsimp only
  split <;> simp

@[simp] theorem Block.memory_showTile (b : Block) (t : Fin 16) : (b.showTile t).memory = b.memory := by
  simp [Block.showTile]

@[simp] theorem Block.memory_showAll (b : Block) : b.showAll.memory = b.memory := by
  simp [Block.showAll]

@[simp] theorem Block.memory_warmAzn (b x : Block) : (b.warmAzn x).memory = x.memory := by
  simp [Block.warmAzn]

@[simp] theorem Block.memory_stopScrub (b x : Block) : (b.stopScrub x).memory = x.memory := by
  unfold Block.stopScrub
  (repeat' split) <;> simp

@[simp] theorem memory_hostPortReset (b : Block) : (hostPortReset b).memory = b.memory := by
  unfold hostPortReset
  dsimp only
  split <;> simp

@[simp] theorem memory_hostLinkUp (rate : Fin 3) (msix : Bool) (b : Block) : (hostLinkUp rate msix b).memory = b.memory := by
  unfold hostLinkUp
  split <;> rfl

@[simp] theorem memory_d3hotTransition (d3 : Bool) (b : Block) : (d3hotTransition d3 b).memory = b.memory := by
  unfold d3hotTransition
  split <;> rfl

@[simp] theorem Block.memory_startLog (b : Block) : b.startLog.memory = b.memory := by
  simp [Block.startLog]

@[simp] theorem Block.memory_runBank (b : Block) (isB : Bool) (code : Nat) (railFault : Option Nat) :
    (b.runBank isB code railFault).memory = b.memory := by
  unfold Block.runBank
  dsimp only
  (repeat' split) <;> simp

@[simp] theorem Block.memory_recover (b : Block) (code stage : Nat) (measures : List (BitVec 256)) :
    (b.recover code stage measures).memory = b.memory := by
  simp [Block.recover]

@[simp] theorem memory_bootDone (width rate devices capacity : Nat) (b : Block) :
    (bootDone width rate devices capacity b).memory = b.memory := by
  simp [bootDone]

@[simp] theorem Block.memory_inputEvent (b : Block) (e dv : Nat) : (b.inputEvent e dv).memory = b.memory := by
  simp [Block.inputEvent]

@[simp] theorem memory_inputLow (dv : Nat) (b : Block) : (inputLow dv b).memory = b.memory := by
  simp [inputLow]

@[simp] theorem memory_inputLowClear (dv : Nat) (b : Block) : (inputLowClear dv b).memory = b.memory := by
  simp [inputLowClear]

@[simp] theorem Block.memory_cutInput (b : Block) (e dv : Nat) : (b.cutInput e dv).memory = b.memory := by
  simp [Block.cutInput]

@[simp] theorem memory_inputOvervolt (dv : Nat) (b : Block) : (inputOvervolt dv b).memory = b.memory := by
  simp [inputOvervolt]

@[simp] theorem memory_inputFail (dv : Nat) (b : Block) : (inputFail dv b).memory = b.memory := by
  simp [inputFail]

@[simp] theorem memory_coldRstNRelease (b : Block) : (coldRstNRelease b).memory = b.memory := (rfl)

@[simp] theorem memory_modAuxInput (low : Bool) (b : Block) : (modAuxInput low b).memory = b.memory := by
  simp [modAuxInput]

@[simp] theorem Block.memory_auxCfg (b : Block) (v : Word) : (b.auxCfg v).memory = b.memory := by
  simp [Block.auxCfg]

@[simp] theorem memory_modAuxCfgWrite (o : Origin) (v : Word) (b : Block) : (modAuxCfgWrite o v b).memory = b.memory := by
  simp [modAuxCfgWrite]

@[simp] theorem memory_coolantSample (raw : Word) (b : Block) : (coolantSample raw b).memory = b.memory := by
  unfold coolantSample
  dsimp only
  (repeat' split) <;> rfl

@[simp] theorem Block.memory_jtagSelect (b : Block) (f : JtagSt → JtagSt) : (b.jtagSelect f).memory = b.memory := by
  unfold Block.jtagSelect
  split <;> rfl

@[simp] theorem Block.memory_jtagId (b : Block) : b.jtagId.memory = b.memory := by
  simp [Block.jtagId]

@[simp] theorem memory_testLogicReset (b : Block) : (testLogicReset b).memory = b.memory := by
  simp [testLogicReset]

@[simp] theorem memory_samplePreload (load : Option Nat) (b : Block) : (samplePreload load b).memory = b.memory := by
  simp [samplePreload]

@[simp] theorem memory_extest (b : Block) : (extest b).memory = b.memory := by
  simp [extest]

@[simp] theorem memory_highz (b : Block) : (highz b).memory = b.memory := by
  simp [highz]

/-! ### Barriers and messages -/

@[simp] theorem Block.memory_domWrite (b : Block) (d : Fin 8) (v : Word) : (b.domWrite d v).memory = b.memory := by
  simp [Block.domWrite]

@[simp] theorem memory_pelDomCfgWrite (o : Origin) (d : Fin 8) (v : Word) (b : Block) :
    (pelDomCfgWrite o d v b).memory = b.memory := by
  simp [pelDomCfgWrite]

@[simp] theorem Block.memory_sendPel (b : Block) (k : Fin 8) (opcode : Nat) (m : PelMsg) : (b.sendPel k opcode m).memory = b.memory := by
  unfold Block.sendPel
  dsimp only
  (repeat' split) <;> rfl

@[simp] theorem Block.memory_barrierTask (b : Block) (d : Nat) : (b.barrierTask d).2.memory = b.memory := by
  unfold Block.barrierTask
  dsimp only
  (repeat' split) <;> simp

@[simp] theorem Block.memory_moveWaits (b : Block) (d : Nat) (braked : Bool) : (b.moveWaits d braked).memory = b.memory := by
  simp [Block.moveWaits]

@[simp] theorem Block.memory_draftRelease (b : Block) (d : Nat) (m : PelMsg) : (b.draftRelease d m).memory = b.memory := by
  unfold Block.draftRelease
  dsimp only
  (repeat' split) <;> simp

@[simp] theorem Block.memory_showAborts (b : Block) : b.showAborts.memory = b.memory := by
  simp [Block.showAborts]

@[simp] theorem Block.memory_seqError (b : Block) (p : Packet) : (b.seqError p).memory = b.memory := (rfl)

@[simp] theorem Block.memory_redigest (b : Block) : b.redigest.memory = b.memory := by
  simp [Block.redigest]

@[simp] theorem memory_digestRecompute (b : Block) : (digestRecompute b).memory = b.memory := by
  simp [digestRecompute]

@[simp] theorem memory_pelCntClr (o : Origin) (v : Word) (b : Block) : (pelCntClr o v b).memory = b.memory := by
  simp [pelCntClr]

@[simp] theorem memory_draftEnded (b : Block) : (draftEnded b).memory = b.memory := by
  unfold draftEnded
  dsimp only
  (repeat' split) <;> simp

/-! ### Semaphores -/

@[simp] theorem memory_semaphoreSignal (c : Fin 128) (p : Fin 64) (inc : Half) (b : Block) :
    (semaphoreSignal c p inc b).memory = b.memory := by
  simp [semaphoreSignal]

@[simp] theorem memory_semPhysWrite (o : Origin) (c : Fin 128) (p : Fin 64) (v : Word) (b : Block) :
    (semPhysWrite o c p v b).memory = b.memory := by
  simp [semPhysWrite]

@[simp] theorem Block.memory_semRef (b : Block) (u : UnitId) (f : Nat) : (b.semRef u f).2.memory = b.memory := by
  simp [Block.semRef]

@[simp] theorem Block.memory_sigWrite (b : Block) (u : UnitId) (v : Word) : (b.sigWrite u v).memory = b.memory := by
  unfold Block.sigWrite
  dsimp only
  split <;> simp

@[simp] theorem memory_semSig (o : Origin) (u : UnitId) (v : Word) (b : Block) : (semSig o u v b).memory = b.memory := by
  simp [semSig]

@[simp] theorem Block.memory_semRead (b : Block) (u : UnitId) : (b.semRead u).2.memory = b.memory := by
  unfold Block.semRead
  dsimp only
  split <;> simp

@[simp] theorem Block.memory_showSem (b : Block) (u : UnitId) : (b.showSem u).memory = b.memory := by
  simp [Block.showSem]

@[simp] theorem memory_semReadSelWrite (o : Origin) (u : UnitId) (v : Word) (b : Block) :
    (semReadSelWrite o u v b).memory = b.memory := by
  simp [semReadSelWrite]

@[simp] theorem Block.memory_modeWrite (b : Block) (v : Word) : (b.modeWrite v).memory = b.memory := by
  unfold Block.modeWrite
  dsimp only
  (repeat' split) <;> rfl

@[simp] theorem memory_semModeWrite (o : Origin) (v : Word) (b : Block) : (semModeWrite o v b).memory = b.memory := by
  simp [semModeWrite]

@[simp] theorem memory_semXlatInv (o : Origin) (v : Word) (b : Block) : (semXlatInv o v b).memory = b.memory := by
  simp [semXlatInv]

@[simp] theorem Block.memory_latchLine (b : Block) (t : Fin 16) : (b.latchLine t).memory = b.memory := (rfl)

@[simp] theorem memory_tileSyncSelWrite (o : Origin) (t : Fin 16) (v : Word) (b : Block) :
    (tileSyncSelWrite o t v b).memory = b.memory := by
  simp [tileSyncSelWrite]

/-! ### The host port -/

@[simp] theorem Block.memory_evtCfg (b : Block) (v : Word) : (b.evtCfg v).memory = b.memory := by
  simp [Block.evtCfg]

@[simp] theorem memory_modEvtCfgWrite (o : Origin) (v : Word) (b : Block) : (modEvtCfgWrite o v b).memory = b.memory := by
  simp [modEvtCfgWrite]

@[simp] theorem Block.memory_evtHead (b : Block) (v : Word) : (b.evtHead v).memory = b.memory := by
  simp [Block.evtHead]

@[simp] theorem memory_modEvtHeadWrite (o : Origin) (v : Word) (b : Block) : (modEvtHeadWrite o v b).memory = b.memory := by
  simp [modEvtHeadWrite]

@[simp] theorem Block.memory_evtSel (b : Block) (v : Word) : (b.evtSel v).memory = b.memory := (rfl)

@[simp] theorem memory_modEvtCntSelWrite (o : Origin) (v : Word) (b : Block) : (modEvtCntSelWrite o v b).memory = b.memory := by
  simp [modEvtCntSelWrite]

@[simp] theorem memory_modEvtCntClr (o : Origin) (v : Word) (b : Block) : (modEvtCntClr o v b).memory = b.memory := by
  simp [modEvtCntClr]

@[simp] theorem memory_intForceWrite (o : Origin) (p : Page) (v : Word) (b : Block) :
    (intForceWrite o p v b).memory = b.memory := by
  simp [intForceWrite]

@[simp] theorem memory_interruptLineRise (p : Page) (b : Block) : (interruptLineRise p b).memory = b.memory := by
  simp [interruptLineRise]

@[simp] theorem Block.memory_vectorCtl (b : Block) (n : Nat) (v : Word) : (b.vectorCtl n v).memory = b.memory := by
  unfold Block.vectorCtl
  dsimp only
  (repeat' split) <;> rfl

@[simp] theorem memory_modWinBaseWrite (o : Origin) (w : Fin 4) (hi : Bool) (v : Word) (b : Block) :
    (modWinBaseWrite o w hi v b).memory = b.memory := by
  simp [modWinBaseWrite]

@[simp] theorem Block.memory_answer (b : Block) (r : HostReply) : (b.answer r).memory = b.memory := (rfl)

@[simp] theorem Block.memory_hostWait (b : Block) (a n : Nat) : (b.hostWait a n).memory = b.memory := by
  unfold Block.hostWait
  split <;> simp

@[simp] theorem memory_memoryApertureRead (off n : Nat) (errs : Errs) (b : Block) :
    (memoryApertureRead off n errs b).memory = b.memory := by
  unfold memoryApertureRead
  dsimp only
  (repeat' split) <;> simp

@[simp] theorem memory_registerAccessUnaligned (off : BitVec 26) (bytes : Nat) (b : Block) :
    (registerAccessUnaligned off bytes b).memory = b.memory := by
  unfold registerAccessUnaligned
  split <;> rfl

@[simp] theorem Block.memory_plain (b : Block) (o : Origin) (p : Page) (off : Nat) (v : Word) :
    (b.plain o p off v).memory = b.memory := by
  simp [Block.plain]

@[simp] theorem Block.memory_plainUnless (b : Block) (busy : Bool) (o : Origin) (p : Page) (off : Nat) (v : Word) :
    (b.plainUnless busy o p off v).memory = b.memory := by
  simp [Block.plainUnless]

@[simp] theorem Block.memory_noCommand (b : Block) (o : Origin) (p : Page) (off : Nat) :
    (b.noCommand o p off).memory = b.memory := by
  simp [Block.noCommand]

@[simp] theorem Block.memory_writeMod (b : Block) (o : Origin) (off : Nat) (v : Word) :
    (b.writeMod o off v).memory = b.memory := by
  simp [Block.writeMod]

@[simp] theorem Block.memory_writeSch (b : Block) (o : Origin) (u : UnitId) (off : Nat) (v : Word) :
    (b.writeSch o u off v).memory = b.memory := by
  simp [Block.writeSch]

@[simp] theorem Block.memory_writeSem (b : Block) (o : Origin) (u : UnitId) (off : Nat) (v : Word) :
    (b.writeSem o u off v).memory = b.memory := by
  unfold Block.writeSem
  (repeat' split) <;> simp

@[simp] theorem Block.memory_writeShm (b : Block) (o : Origin) (off : Nat) (v : Word) :
    (b.writeShm o off v).memory = b.memory := by
  simp [Block.writeShm]

@[simp] theorem Block.memory_writeExd (b : Block) (o : Origin) (off : Nat) (v : Word) :
    (b.writeExd o off v).memory = b.memory := by
  simp [Block.writeExd]

@[simp] theorem Block.memory_writeAznMod (b : Block) (o : Origin) (off : Nat) (v : Word) :
    (b.writeAznMod o off v).memory = b.memory := by
  simp [Block.writeAznMod]

@[simp] theorem Block.memory_writeCxl (b : Block) (o : Origin) (off : Nat) (v : Word) :
    (b.writeCxl o off v).memory = b.memory := by
  simp [Block.writeCxl]

@[simp] theorem Block.memory_writeLlyMod (b : Block) (o : Origin) (off : Nat) (v : Word) :
    (b.writeLlyMod o off v).memory = b.memory := by
  simp [Block.writeLlyMod]

@[simp] theorem Block.memory_writeCol (b : Block) (o : Origin) (off : Nat) (v : Word) :
    (b.writeCol o off v).memory = b.memory := by
  simp [Block.writeCol]

@[simp] theorem Block.memory_writePwr (b : Block) (o : Origin) (off : Nat) (v : Word) :
    (b.writePwr o off v).memory = b.memory := by
  simp [Block.writePwr]

@[simp] theorem Block.memory_writeAge (b : Block) (o : Origin) (off : Nat) (v : Word) :
    (b.writeAge o off v).memory = b.memory := by
  simp [Block.writeAge]

@[simp] theorem Block.memory_writeLog (b : Block) (o : Origin) (off : Nat) (v : Word) :
    (b.writeLog o off v).memory = b.memory := by
  simp [Block.writeLog]

@[simp] theorem Block.memory_writeTile (b : Block) (o : Origin) (t : Fin 16) (off : Nat) (v : Word) :
    (b.writeTile o t off v).memory = b.memory := by
  simp [Block.writeTile]

@[simp] theorem Block.memory_writeInst (b : Block) (o : Origin) (p : Page) (off : Nat) (v : Word) :
    (b.writeInst o p off v).memory = b.memory := by
  unfold Block.writeInst
  split <;> simp

@[simp] theorem Block.memory_writeHeader (b : Block) (o : Origin) (p : Page) (off : Nat) (v : Word) :
    (b.writeHeader o p off v).memory = b.memory := by
  simp [Block.writeHeader]

@[simp] theorem Block.memory_writeMsix (b : Block) (k : Nat) (v : Word) : (b.writeMsix k v).memory = b.memory := by
  simp [Block.writeMsix]

@[simp] theorem Block.memory_readReg (b : Block) (k : Nat) : (b.readReg k).2.memory = b.memory := by
  unfold Block.readReg
  dsimp only
  (repeat' split) <;> simp

/-! ### The management bus -/

@[simp] theorem Block.memory_busAnswer (b : Block) (l : List Byte) : (b.busAnswer l).memory = b.memory := (rfl)

@[simp] theorem memory_i3cSelectRead (off : Nat) (b : Block) : (i3cSelectRead off b).memory = b.memory := by
  simp [i3cSelectRead]

@[simp] theorem Block.memory_onBus (b : Block) (f : I3cSt → I3cSt) : (b.onBus f).memory = b.memory := by
  unfold Block.onBus
  split <;> rfl

@[simp] theorem memory_entdaa (a : Nat) (b : Block) : (entdaa a b).memory = b.memory := by
  simp [entdaa]

@[simp] theorem memory_setdasa (a : Nat) (b : Block) : (setdasa a b).memory = b.memory := by
  simp [setdasa]

@[simp] theorem memory_setnewda (a : Nat) (b : Block) : (setnewda a b).memory = b.memory := by
  simp [setnewda]

@[simp] theorem memory_rstdaa (b : Block) : (rstdaa b).memory = b.memory := by
  simp [rstdaa]

@[simp] theorem memory_enec (bits : Nat) (b : Block) : (enec bits b).memory = b.memory := by
  simp [enec]

@[simp] theorem memory_disec (bits : Nat) (b : Block) : (disec bits b).memory = b.memory := by
  simp [disec]

@[simp] theorem Block.memory_busGet (b : Block) (l : List Byte) : (b.busGet l).memory = b.memory := by
  unfold Block.busGet
  split <;> rfl

@[simp] theorem memory_getpid (b : Block) : (getpid b).memory = b.memory := by
  simp [getpid]

@[simp] theorem memory_getbcr (b : Block) : (getbcr b).memory = b.memory := by
  simp [getbcr]

@[simp] theorem memory_getdcr (b : Block) : (getdcr b).memory = b.memory := by
  simp [getdcr]

@[simp] theorem memory_getstatus (b : Block) : (getstatus b).memory = b.memory := by
  unfold getstatus
  split <;> rfl

@[simp] theorem memory_getmwl (b : Block) : (getmwl b).memory = b.memory := by
  simp [getmwl]

@[simp] theorem memory_getmrl (b : Block) : (getmrl b).memory = b.memory := by
  simp [getmrl]

@[simp] theorem memory_rstact (a : Nat) (b : Block) : (rstact a b).memory = b.memory := by
  simp [rstact]

/-! ### One MCLK cycle -/

@[simp] theorem Block.memory_tickCore (b : Block) (c : Fin 128) (n : Nat) : (b.tickCore c n).memory = b.memory := by
  simp [Block.tickCore]

@[simp] theorem Block.memory_tickTile (b : Block) (t : Fin 16) : (b.tickTile t).memory = b.memory := by
  simp [Block.tickTile]

@[simp] theorem Block.memory_tickValidator (b : Block) (t : Fin 16) : (b.tickValidator t).memory = b.memory := by
  unfold Block.tickValidator
  split <;> simp

@[simp] theorem Block.memory_tickBus (b : Block) : b.tickBus.memory = b.memory := by
  unfold Block.tickBus
  split <;> rfl

end Sys2Proof.Machine
end

section
/-! SUPPORT. Every function that writes memory, or changes what an unlisted byte reads, keeps memory in its canonical form. -/

namespace Sys2Proof.Machine

open Sys2Proof

/-! ## Memory in canonical form, said of what memory holds -/

/-- The memory of a module in canonical form. -/
def Canonical (m : Sparse Byte × Sparse Nat × Sparse Nat × Nat) : Prop := ∃ b : Block, b.memory = m ∧ b.memWf = true

theorem Block.memDef_of_memory {a b : Block} (h : a.memory = b.memory) : a.memDef = b.memDef := by
  simp only [Block.memory, Prod.mk.injEq] at h
  obtain ⟨-, hw, hs, hn⟩ := h
  funext k
  unfold Block.memDef
  rw [hw, hs, hn]

theorem Block.memWf_of_memory {a b : Block} (h : a.memory = b.memory) : a.memWf = b.memWf := by
  unfold Block.memWf
  rw [Block.memDef_of_memory h, show a.mem = b.mem from congrArg Prod.fst h]

theorem canonical_iff (b : Block) : Canonical b.memory ↔ b.memWf = true :=
  ⟨fun ⟨_, hx, h⟩ => (Block.memWf_of_memory hx).symm.trans h, fun h => ⟨b, rfl, h⟩⟩

@[simp] theorem canonical_ite {c : Prop} [Decidable c] (m n : Sparse Byte × Sparse Nat × Sparse Nat × Nat) :
    Canonical (if c then m else n) ↔ if c then Canonical m else Canonical n := by
  split <;> rfl

theorem canonical_foldl {α : Type} {f : Block → α → Block} {b : Block} (hb : Canonical b.memory)
    (h : ∀ x a, Canonical x.memory → Canonical (f x a).memory) (l : List α) : Canonical (l.foldl f b).memory := by
  induction l generalizing b with
  | nil => exact hb
  | cons a l ih => exact ih (h b a hb)

theorem canonical_snd_foldl {α β : Type} {f : β × Block → α → β × Block} {p : β × Block} (hp : Canonical p.2.memory)
    (h : ∀ x a, Canonical x.2.memory → Canonical (f x a).2.memory) (l : List α) : Canonical (l.foldl f p).2.memory := by
  induction l generalizing p with
  | nil => exact hp
  | cons a l ih => exact ih (h p a hp)

theorem canonical_of_mem_nil {b : Block} (h : b.mem = []) : Canonical b.memory := by
  rw [canonical_iff, Block.memWf, h]
  exact Sparse.wf_nil _

/-- Bytes that leave memory, and defaults that change at unlisted addresses alone, keep the form. -/
theorem canonical_filter {a b : Block} {q : Nat → Bool} (hm : b.mem = a.mem.filter (fun e => q e.1))
    (hd : ∀ k, q k = true → b.memDef k = a.memDef k) (h : Canonical a.memory) : Canonical b.memory := by
  rw [canonical_iff] at h ⊢
  obtain ⟨hsorted, hdefault⟩ := (Sparse.wf_iff _ _).1 h
  refine (Sparse.wf_iff _ _).2 ⟨hm ▸ hsorted.filter _, fun e he => ?_⟩
  rw [hm] at he
  obtain ⟨he, hq⟩ := List.mem_filter.1 he
  rw [hd e.1 hq]
  exact hdefault e he

/-- A byte of a core's scratch window lies in the range that the window spans. -/
theorem windowCore_eq_some {k : Nat} {c : Fin 128} (hk : windowCore k = some c.val) :
    sramPhys (coreTile c).val (8192 * (coreSlot c).val + 7168) ≤ k ∧
      k < sramPhys (coreTile c).val (8192 * (coreSlot c).val + 7168) + 2 ^ 26 := by
  unfold windowCore at hk
  split at hk
  · next hw =>
    simp only [Option.some.injEq] at hk
    simp only [sramPhys, coreTile, coreSlot]
    omega
  · cases hk

theorem get_foldl_put_other {ν : Type} [DecidableEq ν] (d : Nat → ν) (key : Nat → Nat) (v : ν) {j : Nat} (l : List Nat)
    (hj : ∀ s ∈ l, j ≠ key s) (m : Sparse ν) : Sparse.get d (l.foldl (fun m s => Sparse.put d m (key s) v) m) j = Sparse.get d m j := by
  induction l generalizing m with
  | nil => rfl
  | cons s l ih =>
    exact (ih (fun i hi => hj i (List.mem_cons_of_mem _ hi)) _).trans (Sparse.get_put_other _ _ _ (hj s List.mem_cons_self))

section
variable {b : Block} (h : Canonical b.memory)
include h

@[simp] theorem Block.canonical_pokePhys (k : Nat) (l : List Byte) : Canonical (b.pokePhys k l).memory :=
  (canonical_iff _).2 (b.memWf_pokePhys k l ((canonical_iff b).1 h))

@[simp] theorem Block.canonical_storeAs (owner : SlotOwner) (u d g a : Nat) (l : List Byte) :
    Canonical (b.storeAs owner u d g a l).memory :=
  (canonical_iff _).2 (b.memWf_storeAs owner u d g a l ((canonical_iff b).1 h))

@[simp] theorem Block.canonical_storeFor (owner : SlotOwner) (g a : Nat) (l : List Byte) : Canonical (b.storeFor owner g a l).memory :=
  Block.canonical_storeAs h owner 0 0 g a l

@[simp] theorem Block.canonical_store (a : Nat) (l : List Byte) : Canonical (b.store a l).memory := Block.canonical_storeFor h .other 16 a l

@[simp] theorem Block.canonical_spoilWindow (c : Fin 128) : Canonical (b.spoilWindow c).memory := by
  refine canonical_filter (q := fun k => !decide (sramPhys (coreTile c).val (8192 * (coreSlot c).val + 7168) ≤ k ∧
    k < sramPhys (coreTile c).val (8192 * (coreSlot c).val + 7168) + 2 ^ 26)) rfl (fun k hk => ?_) h
  unfold Block.memDef
  split
  · split
    · next i hi =>
      have hne : i ≠ c.val := by
        rintro rfl
        obtain ⟨hlo, hhi⟩ := windowCore_eq_some hi
        simp [hlo] at hk
        omega
      have hget : Sparse.get (fun _ => 0) (b.spoilWindow c).winFree i = Sparse.get (fun _ => 0) b.winFree i :=
        Sparse.get_put_other (fun _ => 0) b.winFree (b.free + 1) hne
      rw [hget]
    · rfl
  · rfl

@[simp] theorem Block.canonical_spoilSlabs (t : Nat) (slabs : List Nat) : Canonical (b.spoilSlabs t slabs).memory := by
  refine canonical_filter (q := fun k => !(decide (k < 2 ^ 40) && (slabs.map (fun s => t * 65536 + s)).contains (k / 65536))) rfl
    (fun k hk => ?_) h
  unfold Block.memDef
  split
  · next hlow =>
    split
    · rfl
    · have hout : ∀ s ∈ slabs, k / 65536 ≠ t * 65536 + s := by
        intro s hs e
        simp [e, hs] at hk
        omega
      have hget : Sparse.get (fun _ => 0) (b.spoilSlabs t slabs).slabFree (k / 65536) = Sparse.get (fun _ => 0) b.slabFree (k / 65536) :=
        get_foldl_put_other _ (fun s => t * 65536 + s) _ _ hout _
      rw [hget]
  · rfl

end

section
variable {b : Block} (h : Canonical b.memory)
include h

/-! ### Registers, events and memory -/

@[simp] theorem Block.canonical_ringWrite (x : Posted) : Canonical (b.ringWrite x).memory := by
  unfold Block.ringWrite
  dsimp only
  (repeat' split) <;> simp [h]

@[simp] theorem Block.canonical_ringEvent (x : Posted) : Canonical (b.ringEvent x).memory := by
  simp [Block.ringEvent, h]

@[simp] theorem Block.canonical_settle : Canonical b.settle.memory := by
  exact canonical_foldl h (fun x e hx => Block.canonical_ringEvent hx e) _

theorem Block.canonical_cycle {f : Block → Block} (hf : ∀ x, Canonical x.memory → Canonical (f x).memory) :
    Canonical (b.cycle f).memory :=
  Block.canonical_settle (hf { b with posted := [] } h)

/-! ### The audit log -/

theorem Block.canonical_gated {eff : Block → Block} (hf : ∀ x, Canonical x.memory → Canonical (eff x).memory) (o : Origin) (p : Page)
    (off : Nat) (en : Entry) : Canonical (b.gated o p off en eff).1.memory := by
  unfold Block.gated
  dsimp only
  (repeat' split) <;> simp [h, hf]

theorem Block.canonical_gate {eff : Block → Block} (hf : ∀ x, Canonical x.memory → Canonical (eff x).memory) (o : Origin) (p : Page)
    (off : Nat) (en : Entry) : Canonical (b.gate o p off en eff).memory := Block.canonical_gated h hf o p off en

/-! ### Validators and the shard map -/

@[simp] theorem canonical_validatorDone (t : Fin 16) : Canonical (validatorDone t b).memory := by
  unfold validatorDone
  split
  · exact h
  · dsimp only
    (repeat' split) <;> simp [h]

/-! ### The fetch engine -/

@[simp] theorem Block.canonical_taskWrite (t : TaskSt) (tile : Option (Fin 16)) (w : List (Nat × List Byte)) (pageInOk : Bool) :
    Canonical (b.taskWrite t tile w pageInOk).2.memory := by
  unfold Block.taskWrite
  split
  · exact h
  · dsimp only
    split
    · refine canonical_foldl (by simp [h]) (fun x p hx => ?_) _
      split <;> simp [hx]
    · simp [h]

theorem Block.canonical_asTask {f : Block → Block} (hf : ∀ x, Canonical x.memory → Canonical (f x).memory) (t : TaskSt) :
    Canonical (b.asTask t f).memory := by
  have hk := hf { b with lens := t.kept } h
  exact hk

theorem Block.canonical_engine {f : Block → Block} (hf : ∀ x, Canonical x.memory → Canonical (f x).memory) (c : Fin 128) (port : Nat)
    (errs : Errs) : Canonical (b.engine c port errs f).memory := by
  unfold Block.engine
  split
  · exact h
  · exact Block.canonical_asTask h (fun x hx => hf _ (by simp [hx])) _

/-! ### The drain -/

@[simp] theorem Block.canonical_writeOut (c : Fin 128) (t : TaskSt) (holder : Nat) (w : List (Nat × List Byte)) (pageInOk : Bool) :
    Canonical (b.writeOut c t holder w pageInOk).2.memory := by
  unfold Block.writeOut
  split
  · exact Block.canonical_taskWrite h ..
  · refine canonical_snd_foldl (p := (Ready.ok, b)) h (fun x p hx => ?_) _
    split
    · dsimp only
      split <;> simp [hx]
    · exact hx

@[simp] theorem Block.canonical_drainRow (c : Fin 128) (t : TaskSt) (r : TaskRec) (x : DrainCtx) (e : Entry32) (src : Source)
    (lo n i : Nat) (ops : List Num) :
    Canonical (b.drainRow c t r x e src lo n i ops).2.memory := by
  unfold Block.drainRow
  extract_lets d per off core bank vals v x1 rows x2 sr draws k x3 rnd cv x4 row w st stats
  have hx : Canonical x4.memory := by simp [x4, x3, x2, x1, h]
  have hstats : ∀ y, Canonical y.memory → Canonical (stats y).2.memory := by
    intro y hy
    unfold stats
    dsimp only
    (repeat' split) <;> simp [hy]
  clear_value stats x4
  have hx5 := hstats x4 hx
  split
  · next y hy =>
    rw [hy] at hx5
    simp [hx5]
  · exact hx5

@[simp] theorem Block.canonical_drainRows (c : Fin 128) (t : TaskSt) (r : TaskRec) (e : Entry32) (src : Source) (op : Option Took)
    (n : Nat) :
    Canonical (b.drainRows c t r e src op n).2.memory := by
  unfold Block.drainRows
  dsimp only
  refine canonical_snd_foldl h (fun x i hx => ?_) _
  (repeat' split) <;> simp [hx]

@[simp] theorem Block.canonical_drainEntry (c : Fin 128) (t : TaskSt) (r : TaskRec) (e : Entry32) (cycles eccCorr errs : Nat) :
    Canonical (b.drainEntry c t r e cycles eccCorr errs).memory := by
  unfold Block.drainEntry
  dsimp only
  (repeat' split) <;> simp [h]

@[simp] theorem canonical_denseDrain (c : Fin 128) (cycles eccCorr errs : Nat) (words : Errs) :
    Canonical (denseDrain c cycles eccCorr errs words b).memory := by
  refine Block.canonical_engine h (fun x hx => ?_) _ _ _
  dsimp only
  (repeat' split) <;> simp [hx]

/-! ### The sparse engine -/

@[simp] theorem Block.canonical_writeRow (c : Fin 128) (t : TaskSt) (o : Desc) (row c0 : Nat) (codes scales : List Nat) (pageInOk : Bool) :
    Canonical (b.writeRow c t o row c0 codes scales pageInOk).2.memory := by
  unfold Block.writeRow
  refine List.foldlRecOn (motive := fun st : (Ready × Block) × (List Nat × List Nat) => Canonical st.1.2.memory) _ _ h fun st hst s _ => ?_
  dsimp only
  split
  · simp [hst]
  · exact hst

@[simp] theorem Block.canonical_writeConv (c : Fin 128) (t : TaskSt) (o : Desc) (row c0 : Nat) (cv : Conv) (pageInOk : Bool) :
    Canonical (b.writeConv c t o row c0 cv pageInOk).2.memory := by
  simp [Block.writeConv, h]

@[simp] theorem Block.canonical_moveRow (c : Fin 128) (t : TaskSt) (r : RowData) (o : Desc) (row c0 n : Nat) (pageInOk : Bool) :
    Canonical (b.moveRow c t r o row c0 n pageInOk).2.memory := by
  unfold Block.moveRow
  dsimp only
  (repeat' split) <;> simp [h]

@[simp] theorem Block.canonical_zeroRow (c : Fin 128) (t : TaskSt) (o : Desc) (row c0 n : Nat) (pageInOk : Bool) :
    Canonical (b.zeroRow c t o row c0 n pageInOk).2.memory := by
  simp [Block.zeroRow, h]

theorem Block.canonical_eachReady {α : Type} {f : Block → α → Ready × Block}
    (hf : ∀ x a, Canonical x.memory → Canonical (f x a).2.memory) (l : List α) : Canonical (b.eachReady l f).2.memory := by
  refine canonical_snd_foldl (p := (Ready.ok, b)) h (fun x a hx => ?_) l
  split
  · exact hf _ a hx
  · exact hx

@[simp] theorem canonical_gather (c : Fin 128) (cycles lanes : Nat) (errs : Errs) : Canonical (gather c cycles lanes errs b).memory := by
  refine Block.canonical_engine h (fun x hx => ?_) _ _ _
  split
  · exact hx
  · extract_lets r e s o ix n stop k cols cut want q q2 z
    have hstop : ∀ y code, Canonical y.memory → Canonical (stop y code).memory := by
      intro y code hy
      simp [stop, hy]
    have hk : Canonical k.2.memory := by simp [k, hx]
    have hq2 : Canonical q2.2.memory := by
      unfold q2
      split <;> simp [q, hx]
    have hz : Canonical z.2.memory := by
      refine Block.canonical_eachReady (by simp [hq2]) (fun y p hy => ?_) _
      split <;> simp [hy]
    clear_value stop k q2 z
    (repeat' split) <;> simp [hx, hstop, hk, hq2, hz]

@[simp] theorem Block.canonical_addInto (c : Fin 128) (t : TaskSt) (o : Desc) (row c0 : Nat) (int : Bool) (contrib : List (List Num))
    (pageInOk : Bool) :
    Canonical (b.addInto c t o row c0 int contrib pageInOk).2.memory := by
  unfold Block.addInto
  dsimp only
  split
  · simp [h]
  · refine Block.canonical_writeConv (canonical_snd_foldl (by simp [h]) (fun x j hx => ?_) _) _ _ _ _ _ _ _
    split <;> simp [hx]

@[simp] theorem Block.canonical_addSums (c : Fin 128) (t : TaskSt) (o : Desc) (int : Bool) (l : List RowSum) :
    Canonical (b.addSums c t o int l).2.memory := by
  exact Block.canonical_eachReady h (fun x g hx => Block.canonical_addInto hx _ _ _ _ _ _ _ _) _

@[simp] theorem canonical_scatter (add : Bool) (c : Fin 128) (cycles lanes : Nat) (errs : Errs) :
    Canonical (scatter add c cycles lanes errs b).memory := by
  refine Block.canonical_engine h (fun x hx => ?_) _ _ _
  split
  · exact hx
  · next t ht =>
    extract_lets r e s o ix n whole int stop k cols cut good want plan due q q2 y finish z x2 sums
    have hstop : ∀ y code, Canonical y.memory → Canonical (stop y code).memory := by
      intro y code hy
      simp [stop, hy]
    have hfinish : ∀ w : Ready × Block, Canonical w.2.memory → Canonical (finish w).memory := by
      intro w hw
      simp [finish, hw]
    have hk : Canonical k.2.memory := by simp [k, hx]
    have hq : Canonical q.2.memory := by simp [q, hx]
    have hq2 : Canonical q2.2.memory := by
      unfold q2
      split
      · split
        · refine canonical_snd_foldl hq (fun w g hw => ?_) _
          split <;> simp [hw]
        · simp [hq]
      · exact hq
    have hy : Canonical y.memory := by simp [y, hq2]
    have hz : Canonical z.2.memory := by
      refine canonical_snd_foldl (p := ([], y)) hy (fun w p hw => ?_) _
      simp [hw]
    have hmove : Canonical (y.eachReady good fun y p => (y.readRow c t true (want p)).2.moveRow c t (y.readRow c t true (want p)).1 o
        p.1.toNat cols.1 cols.2 e.pageInOk).2.memory :=
      Block.canonical_eachReady hy (fun w p hw => by simp [hw]) _
    clear_value stop k q2 y finish z
    (repeat' split) <;> simp [hx, hstop, hfinish, hk, hq2, hz, hmove]

@[simp] theorem Block.canonical_putRow (c : Fin 128) (t : TaskSt) (o : Desc) (row c0 : Nat) (accum : Bool) (vals : List Num)
    (pageInOk : Bool) :
    Canonical (b.putRow c t o row c0 accum vals pageInOk).2.memory := by
  simp [Block.putRow, h]

@[simp] theorem canonical_spmmFlush (c : Fin 128) (cycles : Nat) (errs : Errs) : Canonical (spmmFlush c cycles errs b).memory := by
  refine Block.canonical_engine h (fun x hx => ?_) _ _ _
  split
  · exact hx
  · extract_lets r e a w o core accum m0 stop cols rows q z core2 y
    have hstop : ∀ y code, Canonical y.memory → Canonical (stop y code).memory := by
      intro y code hy
      simp [stop, hy]
    have hq : Canonical q.2.memory := by simp [q, hx]
    have hz : Canonical z.2.memory := Block.canonical_eachReady hq (fun y i hy => by simp [hy]) _
    have hy : Canonical y.memory := by simp [y, hz]
    clear_value stop q y
    (repeat' split) <;> simp [hx, hstop, hq, hy]

@[simp] theorem Block.canonical_writeDense (c : Fin 128) (fmt k : Nat) (rows : List (List Num)) :
    Canonical (b.writeDense c fmt k rows).memory := by
  exact canonical_foldl h (fun x p hx => Block.canonical_store hx _ _) _

@[simp] theorem Block.canonical_writeDrained (c : Fin 128) (start i : Nat) (vals : List Num) :
    Canonical (b.writeDrained c start i vals).memory := by
  simp [Block.writeDrained, h]

@[simp] theorem Block.canonical_passTile (c : Fin 128) (mode per base start : Nat) (off : Bool) (f : Fallback) (w : WTile) (j n : Nat) :
    Canonical (b.passTile c mode per base start off f w j n).memory := by
  unfold Block.passTile
  dsimp only
  split
  · simp [h]
  · refine canonical_foldl (by simp [h]) (fun x p hx => ?_) _
    simp [hx]

@[simp] theorem canonical_fallbackPass (c : Fin 128) (cycles eccCorr errs : Nat) (words : Errs) :
    Canonical (fallbackPass c cycles eccCorr errs words b).memory := by
  unfold fallbackPass
  split
  · exact h
  · split
    · exact h
    · refine Block.canonical_asTask h (fun x hx => ?_) _
      extract_lets x1 r a wd gear mode base spent n
      have hx1 : Canonical x1.memory := by simp [x1, hx]
      have hspent : ∀ y, Canonical y.memory → Canonical (spent y).memory := by
        intro y hy
        simp [spent, hy]
      clear_value x1 spent
      split
      · exact hx1
      · split
        · simp [hx1]
        · extract_lets q k y1 y2 c1 y3 se tiles start y4 run z1 c2 z2 z3
          have hq : Canonical q.2.memory := by simp [q, hx1]
          have hy3 : Canonical y3.memory := by simp [y3, y2, y1, k, hq]
          have hy4 : Canonical y4.memory := by simp [y4, hy3]
          have hrun : ∀ rows, Canonical (run rows).memory := by
            intro rows
            refine canonical_foldl hy4 (fun y p hy => ?_) _
            split
            · exact hy
            · simp [hy]
          have hz2 : Canonical z2.memory := by
            have hz1 : Canonical z1.memory := hspent _ (hrun _)
            simp [z2, hz1]
          have hz3 : Canonical z3.memory := by
            unfold z3
            split <;> simp [hz2]
          clear_value q y3 run z3
          split
          · exact hq
          · simp [hq]
          · split
            · simp [hspent, hy3]
            · (repeat' split) <;> simp [hspent, hrun, hz3]

@[simp] theorem canonical_select (c : Fin 128) (cycles lanes : Nat) (errs : Errs) : Canonical (select c cycles lanes errs b).memory := by
  refine Block.canonical_engine h (fun x hx => ?_) _ _ _
  split
  · exact hx
  · extract_lets r e o stop span q q2 z items w
    have hstop : ∀ y code, Canonical y.memory → Canonical (stop y code).memory := by
      intro y code hy
      simp [stop, hy]
    have hq2 : Canonical q2.2.memory := by
      unfold q2
      split <;> simp [q, hx]
    have hz : Canonical z.2.memory := by simp [z, hq2]
    have hw : Canonical w.2.memory := Block.canonical_eachReady (by simp [hz]) (fun y p hy => by simp [hy]) _
    clear_value stop q2 z w
    (repeat' split) <;> simp [hx, hstop, hq2, hz, hw]

/-! ### Copies -/

@[simp] theorem Block.canonical_copyBlock (c : Fin 128) (t : TaskSt) (d0 : Desc) (e0 : Entry32) (k : Took) :
    Canonical (b.copyBlock c t d0 e0 k).2.memory := by
  unfold Block.copyBlock
  dsimp only
  (repeat' split) <;> simp [h]

theorem Block.canonical_copyEntry {count : Block → Block} (hc : ∀ x, Canonical x.memory → Canonical (count x).memory) (c : Fin 128)
    (t : TaskSt) : Canonical (b.copyEntry c t count).memory := by
  unfold Block.copyEntry
  dsimp only
  (repeat' split) <;> simp [h, hc]

@[simp] theorem canonical_copyPass (mode : Nat) (c : Fin 128) (cycles : Nat) (errs : Errs) :
    Canonical (copyPass mode c cycles errs b).memory := by
  refine Block.canonical_engine h (fun x hx => ?_) _ _ _
  split
  · exact Block.canonical_copyEntry hx (fun y hy => by simp [hy]) _ _
  · exact hx

@[simp] theorem canonical_inPlaceTranspose (c : Fin 128) (cycles : Nat) (errs : Errs) :
    Canonical (inPlaceTranspose c cycles errs b).memory := by
  refine Block.canonical_engine h (fun x hx => ?_) _ _ _
  split
  · split
    · exact Block.canonical_copyEntry hx (fun y hy => by simp [hy]) _ _
    · exact hx
  · exact hx

/-! ### The Aznor units -/

@[simp] theorem Block.canonical_aznWrite (st : Fin 20) (s : AznShare) (e : Entry32) (w : List (Nat × List Byte)) :
    Canonical (b.aznWrite st s e w).2.memory := by
  unfold Block.aznWrite
  dsimp only
  split
  · exact h
  · split
    · exact canonical_foldl (by simp [h]) (fun x p hx => by simp [hx]) _
    · simp [h]

@[simp] theorem canonical_aznStore (st : Fin 20) : Canonical (aznStore st b).memory := by
  unfold aznStore
  dsimp only
  (repeat' split) <;> simp [h]

/-! ### Experts -/

@[simp] theorem Block.canonical_dumpTally (r : BulkRun) (i : Nat) : Canonical (b.dumpTally r i).memory := by
  simp [Block.dumpTally, h]

@[simp] theorem Block.canonical_tallyDumpOne : Canonical b.tallyDumpOne.memory := by
  unfold Block.tallyDumpOne
  (repeat' split) <;> simp [h]

@[simp] theorem canonical_tallyDumpDone : Canonical (tallyDumpDone b).memory := by
  unfold tallyDumpDone
  split
  · exact h
  · extract_lets x y z
    have hx : Canonical x.memory := canonical_foldl h (fun x _ hx => Block.canonical_tallyDumpOne hx) _
    have hz : Canonical z.memory := by simp [z, hx]
    clear_value z
    (repeat' split) <;> simp [hx, hz]

@[simp] theorem Block.canonical_routeToken (c : Fin 128) (t : TaskSt) (segs : List Seg) (row : Nat) (scores : List Num)
    (choice : List Nat) (placed : List Placed) :
    Canonical (b.routeToken c t segs row scores choice placed).2.memory := by
  unfold Block.routeToken
  extract_lets r w o x ws moved words
  have hmoved : Canonical moved.2.memory := Block.canonical_eachReady (by simp [ws, h]) (fun y p hy => by simp [hy]) _
  clear_value moved
  split <;> simp [hmoved]

@[simp] theorem Block.canonical_routeSegment (c : Fin 128) (t : TaskSt) (s : Seg) (i filled entryNo : Nat) :
    Canonical (b.routeSegment c t s i filled entryNo).2.memory := by
  unfold Block.routeSegment
  extract_lets r o cd padded z words q l
  have hz : Canonical z.2.memory := Block.canonical_eachReady h (fun y k hy => by simp [hy]) _
  have hq : Canonical q.2.memory := by simp [q, hz]
  clear_value z q
  (repeat' split) <;> simp [hz, hq]

@[simp] theorem Block.canonical_routeMove (c : Fin 128) (t : TaskSt) (p : RoutePlan) : Canonical (b.routeMove c t p).2.memory := by
  unfold Block.routeMove
  extract_lets z
  have hz : Canonical z.2.memory := Block.canonical_eachReady h (fun y k hy => by simp [hy]) _
  clear_value z
  split
  · exact Block.canonical_eachReady hz (fun y k hy => by simp [hy]) _
  · exact hz

@[simp] theorem canonical_route (c : Fin 128) (cycles lanes : Nat) (errs : Errs) : Canonical (route c cycles lanes errs b).memory := by
  refine Block.canonical_engine h (fun x hx => ?_) _ _ _
  split
  · exact hx
  · extract_lets r all stop p q z y
    have hstop : ∀ y code, Canonical y.memory → Canonical (stop y code).memory := by
      intro y code hy
      simp [stop, hy]
    have hq : Canonical q.2.memory := by simp [q, p, hx]
    have hz : Canonical z.2.memory := by simp [z, hq]
    have hy : Canonical y.memory := by simp [y, hz]
    have hp : Canonical p.2.memory := by simp [p, hx]
    split
    · exact hstop _ _ hx
    · split
      · next hl => exact hstop _ _ (by rwa [Block.memory_listBlocked hl])
      · next hl => rwa [Block.memory_listBlocked hl]
      · clear_value stop q z y p
        (repeat' split) <;> simp [hx, hstop, hq, hz, hy]

@[simp] theorem Block.canonical_combineRow (c : Fin 128) (t : TaskSt) (row : Nat) (gs : List (Nat × Nat)) (cols : Nat × Nat)
    (pageInOk : Bool) :
    Canonical (b.combineRow c t row gs cols pageInOk).2.memory := by
  unfold Block.combineRow
  dsimp only
  (repeat' split) <;> simp [h]

@[simp] theorem canonical_combine (c : Fin 128) (cycles lanes : Nat) (errs : Errs) : Canonical (combine c cycles lanes errs b).memory := by
  refine Block.canonical_engine h (fun x hx => ?_) _ _ _
  split
  · exact hx
  · extract_lets r e a w o stop k per cols table reach good q q2 z
    have hstop : ∀ y code, Canonical y.memory → Canonical (stop y code).memory := by
      intro y code hy
      simp [stop, hy]
    have hk : Canonical k.2.memory := by simp [k, hx]
    have hq2 : Canonical q2.2.memory := by
      unfold q2
      split <;> simp [q, hx]
    have hz : Canonical z.2.memory := Block.canonical_eachReady (by simp [hq2]) (fun y p hy => by simp [hy]) _
    clear_value stop k q2 z
    (repeat' split) <;> simp [hx, hstop, hk, hq2, hz]

/-! ### The fabric -/

@[simp] theorem canonical_writePkt : Canonical (writePkt b).memory := by
  unfold writePkt
  split
  · exact h
  · next p x hx =>
    have hm : Canonical x.memory := by rwa [Block.memory_takePacket hx]
    dsimp only
    split <;> simp [h, hm]

/-! ### Completion -/

@[simp] theorem Block.canonical_writeRecord (u : UnitId) (t : TaskSt) (v : Verdict) : Canonical (b.writeRecord u t v).memory := by
  simp [Block.writeRecord, h]

@[simp] theorem Block.canonical_record (u : UnitId) (n : Nat) : Canonical (b.record u n).memory := by
  unfold Block.record
  (repeat' split) <;> simp [h]

@[simp] theorem Block.canonical_completeRoot (u : UnitId) (n : Nat) : Canonical (b.completeRoot u n).memory := by
  unfold Block.completeRoot
  (repeat' split) <;> simp [h]

omit h in
@[simp] theorem Block.canonical_endShareTask (fuel : Nat) {b : Block} (h : Canonical b.memory) (u : UnitId) (n : Nat) :
    Canonical (Block.endShareTask fuel b u n).memory := by
  induction fuel generalizing b u n with
  | zero => exact h
  | succ fuel ih =>
    unfold Block.endShareTask
    split
    · exact h
    · split
      · simp [h]
      · dsimp only
        split
        · exact h
        · split
          · split <;> simp [h]
          · split
            · split
              · exact ih (by simp [h]) _ _
              · simp [h]
            · simp [h]

/-! ### Tile memory -/

@[simp] theorem canonical_shadowGrant (t : Fin 16) : Canonical (shadowGrant t b).memory := by
  unfold shadowGrant
  extract_lets x
  split
  · exact h
  · extract_lets order
    split
    · exact h
    · next hq =>
      have hm := Block.memory_slabAlloc hq
      rw [Block.memory_setTile] at hm
      have hy := hm.symm ▸ h
      split <;> simp [hy]

/-! ### HBM -/

omit h in
theorem memory_foldl_bind {α : Type} {f : Block → α → Option Block} (hf : ∀ x a y, f x a = some y → y.memory = x.memory) (l : List α)
    {x y : Block} (hy : l.foldl (fun (o : Option Block) a => o.bind (fun z => f z a)) (some x) = some y) : y.memory = x.memory := by
  have hnone : ∀ l : List α, l.foldl (fun (o : Option Block) a => o.bind (fun z => f z a)) none = none := by
    intro l
    induction l with
    | nil => rfl
    | cons a l ih => exact ih
  induction l generalizing x with
  | nil =>
    cases hy
    rfl
  | cons a l ih =>
    rw [List.foldl_cons, Option.bind_some] at hy
    cases hx : f x a with
    | none =>
      rw [hx, hnone] at hy
      cases hy
    | some z =>
      rw [hx] at hy
      exact (ih hy).trans (hf _ _ _ hx)

/-- The pages of a new allocation, zeroed where it asks for it. -/
@[simp] theorem Block.canonical_hbmAllocCmd : Canonical b.hbmAllocCmd.memory := by
  unfold Block.hbmAllocCmd
  extract_lets q n stks
  split
  · rwa [Block.memory_hbmResult]
  · split
    · rwa [Block.memory_hbmResult]
    · split
      · split
        · rwa [Block.memory_hbmResult]
        · next hplaced =>
          have hmem := memory_foldl_bind (fun x i y hy => Block.memory_placePage hy) _ hplaced
          extract_lets g gens a hbm y z
          have hy : Canonical y.memory := by
            show Canonical (Block.memory _)
            rwa [show y.memory = b.memory from hmem]
          rw [Block.memory_hbmResult, Block.memory_showFree, Block.memory_wrN, Block.memory_wr64]
          unfold z
          split
          · exact canonical_foldl hy (fun x i hx => Block.canonical_store hx _ _) _
          · exact hy
      · rwa [Block.memory_hbmResult]

@[simp] theorem canonical_hbmAlloc (o : Origin) : Canonical (hbmAlloc o b).memory := by
  exact Block.canonical_gate h (fun x hx => Block.canonical_hbmAllocCmd hx) ..

/-! ### Far memory -/

@[simp] theorem Block.canonical_movePage (src dst : Nat) : Canonical (b.movePage src dst).memory := by
  unfold Block.movePage
  extract_lets bad x
  have hx : Canonical x.memory := Block.canonical_pokePhys h _ _
  clear_value x
  rwa [memory_with _ _ rfl]

@[simp] theorem canonical_pageInDone (page : Nat) (poisoned : List Nat) : Canonical (pageInDone page poisoned b).memory := by
  unfold pageInDone
  (repeat' split) <;> simp [h]

@[simp] theorem canonical_pageOutDone (page : Nat) (errs : Errs) : Canonical (pageOutDone page errs b).memory := by
  unfold pageOutDone
  (repeat' split) <;> simp [h]

@[simp] theorem canonical_migrationDone (page : Nat) (errs : Errs) : Canonical (migrationDone page errs b).memory := by
  unfold migrationDone
  split
  · exact h
  · next m hm =>
    extract_lets x1 x2 pte x3 hbm x4
    have hx3 : Canonical x3.memory := by simp [x3, x2, x1, h]
    clear_value x3
    simp [x4, hx3]

/-! ### Scheduling -/

@[simp] theorem Block.canonical_admitRing (u : UnitId) : Canonical (b.admitRing u).memory := by
  unfold Block.admitRing
  dsimp only
  (repeat' split) <;> simp [h]

@[simp] theorem canonical_taskAdmit (u : UnitId) (offer : Option (Nat × Nat × List Byte)) : Canonical (taskAdmit u offer b).memory := by
  unfold taskAdmit
  dsimp only
  (repeat' split) <;> simp [h]

@[simp] theorem canonical_taskComplete (u : UnitId) (i cycles : Nat) : Canonical (taskComplete u i cycles b).memory := by
  unfold taskComplete
  (repeat' split) <;> simp [h]

@[simp] theorem canonical_shareComplete (u : UnitId) (i : Nat) (remote : Option (Nat × Nat × Nat × Nat)) (counts : List Nat) :
    Canonical (shareComplete u i remote counts b).memory := by
  unfold shareComplete
  (repeat' split) <;> simp [h]

@[simp] theorem canonical_cringResume (u : UnitId) : Canonical (cringResume u b).memory := by
  unfold cringResume
  dsimp only
  (repeat' split) <;> simp [h]

@[simp] theorem Block.canonical_endFamily (n : Nat) : Canonical (b.endFamily n).memory := by
  exact canonical_foldl h (fun x p hx => Block.canonical_endShareTask _ hx _ _) _

@[simp] theorem canonical_specCommit (u : UnitId) (i : Nat) : Canonical (specCommit u i b).memory := by
  unfold specCommit
  (repeat' split) <;> simp [h]

@[simp] theorem canonical_specDiscard (u : UnitId) (i : Nat) : Canonical (specDiscard u i b).memory := by
  unfold specDiscard
  split
  · exact h
  · extract_lets fam waiting x1 x2 x3
    have hx1 : Canonical x1.memory := by simp [x1, h]
    have hx2 : Canonical x2.memory := by
      refine canonical_foldl hx1 (fun x p hx => ?_) _
      dsimp only
      split <;> simp [hx]
    have hx3 : Canonical x3.memory := by
      unfold x3
      split <;> simp [hx2]
    clear_value x3
    split
    · exact h
    · simp [hx3]

/-! ### Collectives -/

theorem Block.canonical_colWrite {next : Block → Block} (hn : ∀ x, Canonical x.memory → Canonical (next x).memory) (t : TaskSt)
    (w : List (Nat × List Byte)) (pageInOk : Bool) : Canonical (b.colWrite t w pageInOk next).memory := by
  unfold Block.colWrite
  dsimp only
  split <;> simp [h, hn]

@[simp] theorem Block.canonical_ringFinish (t : TaskSt) (v : ColView) (vals : List Num) : Canonical (b.ringFinish t v vals).memory := by
  unfold Block.ringFinish
  dsimp only
  split
  · exact Block.canonical_colWrite (by simp [h]) (fun x hx => by simp [hx]) _ _ _
  · exact Block.canonical_colWrite h (fun x hx => by simp [hx]) _ _ _

@[simp] theorem Block.canonical_writeSegments (t : TaskSt) (all : List (List RowGroup)) (v : ColView) :
    Canonical (b.writeSegments t all v).memory := by
  unfold Block.writeSegments
  dsimp only
  (repeat' split) <;> simp [h]

@[simp] theorem Block.canonical_rowsGo (t : TaskSt) (v : ColView) : Canonical (b.rowsGo t v).memory := by
  unfold Block.rowsGo
  extract_lets r a own reads q all x due
  have hq : Canonical q.2.memory := by simp [q, h]
  have hx : Canonical x.memory := by simp [x, hq]
  clear_value q x all due
  split
  · simp [h]
  · split
    · exact hq
    · simp [hq]
    · simp [hq]
    · split
      · simp [hx]
      · split
        · simp [hx]
        · split
          · simp [hx]
          · split
            · exact hx
            · exact Block.canonical_colWrite hx (fun y hy => by simp [hy]) _ _ _

@[simp] theorem Block.canonical_permuteOne (n m : Nat) (w : Nat × List Byte) : Canonical (b.permuteOne n m w).memory := by
  unfold Block.permuteOne
  dsimp only
  (repeat' split) <;> simp [h]

@[simp] theorem Block.canonical_permuteGo (t : TaskSt) (v : ColView) : Canonical (b.permuteGo t v).memory := by
  unfold Block.permuteGo
  dsimp only
  split
  · split <;> simp [h]
  · split
    · simp [h]
    · split
      · simp [h]
      · simp [h]
      · simp [h]
      · split
        · simp [h]
        · simp [h]
        · exact canonical_foldl (by simp [h]) (fun x w hx => by simp [hx]) _

@[simp] theorem Block.canonical_colRead (t : TaskSt) (l : List Source) : Canonical (b.colRead t l).memory := by
  unfold Block.colRead
  extract_lets r a d reads q z x int own vals sq y form s w
  have hq : Canonical q.2.memory := by simp [q, h]
  have hz : Canonical z.2.memory := by simp [z, hq]
  have hy : Canonical y.memory := by
    unfold y sq
    split <;> simp [x, hz]
  clear_value q z y
  split
  · exact hq
  · simp [hq]
  · simp [hq]
  · split
    · simp [hz]
    · split
      · simp [hy]
      · exact Block.canonical_colWrite hy (fun y hy => by simp [hy]) _ _ _

@[simp] theorem Block.canonical_colOpen (t : TaskSt) : Canonical (b.colOpen t).memory := by
  unfold Block.colOpen
  dsimp only
  (repeat' split) <;> simp [h]

@[simp] theorem Block.canonical_colGo (t : TaskSt) : Canonical (b.colGo t).memory := by
  unfold Block.colGo
  dsimp only
  (repeat' split) <;> simp [h]

@[simp] theorem canonical_colStep (op cycles : Nat) (errs : Errs) : Canonical (colStep op cycles errs b).memory := by
  unfold colStep
  split
  · exact h
  · exact Block.canonical_asTask h (fun x hx => by simp [hx]) _

/-! ### The mailbox -/

theorem Block.canonical_mbxCommand {work : Block → Block} (hf : ∀ x, Canonical x.memory → Canonical (work x).memory) (o : Origin)
    (p : Fin 2) (code : Nat) : Canonical (b.mbxCommand o p code work).memory := by
  unfold Block.mbxCommand
  (repeat' split) <;> simp [h, hf]

@[simp] theorem Block.canonical_identityWork (p : Fin 2) : Canonical (b.identityWork p).memory := by
  simp [Block.identityWork, h]

@[simp] theorem Block.canonical_quoteWork (p : Fin 2) : Canonical (b.quoteWork p).memory := by
  simp [Block.quoteWork, h]

@[simp] theorem Block.canonical_mbxRetry (r : MbxRun) : Canonical (b.mbxRetry r).memory := by
  simp [Block.mbxRetry, h]

@[simp] theorem canonical_mbxCommandEnd : Canonical (mbxCommandEnd b).memory := by
  unfold mbxCommandEnd
  dsimp only
  (repeat' split) <;> simp [h]

@[simp] theorem Block.canonical_mbxCmdWrite (o : Origin) (p : Fin 2) (v : Word) : Canonical (b.mbxCmdWrite o p v).memory := by
  unfold Block.mbxCmdWrite
  dsimp only
  split
  · simp [h]
  · split
    · simp [h]
    · refine Block.canonical_mbxCommand h (fun x hx => ?_) _ _ _
      (repeat' split) <;> simp [hx]

/-! ### Boot and resets -/

omit h in
/-- A cold reset forgets all that memory held. -/
@[simp] theorem Block.canonical_coldReset (f : Fuses) (b : Block) : Canonical (b.coldReset f).memory := canonical_of_mem_nil rfl

@[simp] theorem canonical_coldReset (f : Fuses) : Canonical (coldReset f b).memory := by
  simp [coldReset, h]

/-- A warm reset loses SRAM and leaves HBM and the far tier, whose unlisted bytes read as before. -/
@[simp] theorem Block.canonical_warmReset (f : Fuses) : Canonical (b.warmReset f).memory := by
  unfold Block.warmReset
  extract_lets x host boot net pwr azn x1 x2
  have hx1 : Canonical x1.memory := by
    refine canonical_filter (q := fun k => decide (2 ^ 40 ≤ k)) rfl (fun k hk => ?_) h
    have hhigh : ¬ k < 2 ^ 40 := Nat.not_lt.2 (of_decide_eq_true hk)
    unfold Block.memDef
    rw [if_neg hhigh, if_neg hhigh]
  have hx2 : Canonical x2.memory := by simp [x2, hx1]
  clear_value x2
  split <;> simp [hx2]

@[simp] theorem canonical_warmReset (f : Fuses) : Canonical (warmReset f b).memory := by
  simp [warmReset, h]

@[simp] theorem canonical_bootStageCheck (railFault : Option Nat) : Canonical (bootStageCheck railFault b).memory := by
  unfold bootStageCheck
  split
  · exact h
  · extract_lets nv x1 x2 first c1 nv2 x3 c2 nv4 x4
    have hx2 : Canonical x2.memory := canonical_of_mem_nil rfl
    have hx3 : Canonical x3.memory := canonical_of_mem_nil rfl
    have hx4 : Canonical x4.memory := canonical_of_mem_nil rfl
    (repeat' split) <;> simp [hx2, hx3, hx4]

@[simp] theorem canonical_cmbPowered (dv : Nat) (f : Fuses) : Canonical (cmbPowered dv f b).memory := by
  simp [cmbPowered, h]

@[simp] theorem canonical_powerGood (dv : Nat) (f : Fuses) : Canonical (powerGood dv f b).memory := by
  simp [powerGood, h]

@[simp] theorem canonical_inputOff (dv : Nat) (f : Fuses) : Canonical (inputOff dv f b).memory := by
  simp [inputOff, h]

@[simp] theorem canonical_inputRecoverColdReset (dv : Nat) (f : Fuses) : Canonical (inputRecoverColdReset dv f b).memory := by
  simp [inputRecoverColdReset, h]

@[simp] theorem canonical_coldRstNAssert (f : Fuses) : Canonical (coldRstNAssert f b).memory := by
  simp [coldRstNAssert, h]

/-! ### Barriers and messages -/

@[simp] theorem Block.canonical_abandon (t : TaskSt) : Canonical (b.abandon t).memory := by
  unfold Block.abandon
  (repeat' split) <;> simp [h]

@[simp] theorem Block.canonical_endGroup : Canonical b.endGroup.memory := by
  unfold Block.endGroup
  dsimp only
  refine Eq.subst (motive := Canonical) (memory_with _ _ rfl ..).symm ?_
  rw [Block.memory_setUnit]
  exact canonical_foldl h (fun x t hx => by simp [hx]) _

@[simp] theorem Block.canonical_groupWrite (v : Word) : Canonical (b.groupWrite v).memory := by
  simp [Block.groupWrite, h]

@[simp] theorem canonical_pelGroupWrite (o : Origin) (v : Word) : Canonical (pelGroupWrite o v b).memory := by
  exact Block.canonical_gate h (fun x hx => by simp [hx]) _ _ _ _

@[simp] theorem Block.canonical_putBarrier (t : TaskSt) (arrived : Nat) (m : PelMsg) : Canonical (b.putBarrier t arrived m).2.memory := by
  simp [Block.putBarrier, h]

@[simp] theorem Block.canonical_releaseTask (d : Nat) (own : Option PelInput) (m : PelMsg) : Canonical (b.releaseTask d own m).memory := by
  unfold Block.releaseTask
  dsimp only
  (repeat' split) <;> simp [h]

@[simp] theorem Block.canonical_abortTask (d : Nat) (own : Option PelInput) (m : PelMsg) : Canonical (b.abortTask d own m).memory := by
  unfold Block.abortTask
  dsimp only
  (repeat' split) <;> simp [h]

@[simp] theorem Block.canonical_takeRelease (d : Nat) (m : PelMsg) : Canonical (b.takeRelease d m).memory := by
  unfold Block.takeRelease
  dsimp only
  (repeat' split) <;> simp [h]

@[simp] theorem Block.canonical_rootDone (d : Nat) : Canonical (b.rootDone d).memory := by
  simp [Block.rootDone, h]

@[simp] theorem Block.canonical_takeInput (d : Nat) (i : PelInput) : Canonical (b.takeInput d i).memory := by
  simp [Block.takeInput, h]

@[simp] theorem Block.canonical_arrive (d : Nat) : Canonical (b.arrive d).memory := by
  simp [Block.arrive, h]

@[simp] theorem canonical_barrier (i : Nat) : Canonical (barrier i b).memory := by
  unfold barrier
  dsimp only
  (repeat' split) <;> simp [h]

@[simp] theorem canonical_pelArrive : Canonical (pelArrive b).memory := by
  unfold pelArrive
  split
  · exact h
  · next p x hx =>
    have hm : Canonical x.memory := by rwa [Block.memory_takePacket hx]
    dsimp only
    split <;> simp [hm]

@[simp] theorem canonical_pelRelease : Canonical (pelRelease b).memory := by
  unfold pelRelease
  split
  · exact h
  · next p x hx =>
    have hm : Canonical x.memory := by rwa [Block.memory_takePacket hx]
    dsimp only
    split <;> simp [hm]

@[simp] theorem canonical_barrierTimeout (d : Fin 8) : Canonical (barrierTimeout d b).memory := by
  unfold barrierTimeout
  (repeat' split) <;> simp [h]

/-! ### Semaphores -/

@[simp] theorem Block.canonical_doSync (c : Fin 128) (t : TaskSt) : Canonical (b.doSync c t).memory := by
  unfold Block.doSync
  dsimp only
  (repeat' split) <;> simp [h]

@[simp] theorem canonical_syncOp (op : Nat) (c : Fin 128) : Canonical (syncOp op c b).memory := by
  unfold syncOp
  dsimp only
  (repeat' split) <;> simp [h]

@[simp] theorem canonical_syncBlockedResume (t : Fin 16) (line : Fin 1024) (cycles : Nat) :
    Canonical (syncBlockedResume t line cycles b).memory := by
  unfold syncBlockedResume
  dsimp only
  (repeat' split) <;> simp [h]

/-! ### The host port -/

@[simp] theorem canonical_memoryApertureWrite (off : Nat) (data : List Byte) : Canonical (memoryApertureWrite off data b).memory := by
  unfold memoryApertureWrite
  extract_lets n a shut opens x y
  have hx : Canonical x.memory := canonical_foldl h (fun y p hy => Block.canonical_store hy _ _) _
  have hy : Canonical y.memory := by
    unfold y
    split <;> simp [hx]
  clear_value y
  split
  · exact h
  · split
    · simp [h]
    · split
      · simp [h]
      · split <;> simp [hy]

@[simp] theorem Block.canonical_writeHbcMod (o : Origin) (off : Nat) (v : Word) : Canonical (b.writeHbcMod o off v).memory := by
  simp [Block.writeHbcMod, h]

@[simp] theorem Block.canonical_writePel (o : Origin) (off : Nat) (v : Word) : Canonical (b.writePel o off v).memory := by
  simp [Block.writePel, h]

@[simp] theorem Block.canonical_writeMbx (o : Origin) (p : Fin 2) (off : Nat) (v : Word) :
    Canonical (b.writeMbx o p off v).memory := by
  simp [Block.writeMbx, h]

@[simp] theorem Block.canonical_writePage (o : Origin) (p : Page) (off : Nat) (v : Word) :
    Canonical (b.writePage o p off v).memory := by
  unfold Block.writePage
  (repeat' split) <;> simp [h]

@[simp] theorem Block.canonical_regWrite (o : Origin) (k : Nat) (v : Word) : Canonical (b.regWrite o k v).memory := by
  unfold Block.regWrite
  (repeat' split) <;> simp [h]

/-! ### The management bus -/

@[simp] theorem canonical_i3cRegisterWrite (off : Nat) (v : Word) : Canonical (i3cRegisterWrite off v b).memory := by
  simp [i3cRegisterWrite, h]

/-! ### The filler and the brakes -/

@[simp] theorem Block.canonical_startPattern (c : Fin 128) : Canonical (b.startPattern c).memory := by
  simp [Block.startPattern, h]

@[simp] theorem Block.canonical_startFiller (c : Fin 128) : Canonical (b.startFiller c).memory := by
  unfold Block.startFiller
  (repeat' split) <;> simp [h]

@[simp] theorem Block.canonical_setFiller : Canonical b.setFiller.memory := by
  unfold Block.setFiller
  extract_lets idle runs n d x k y
  have hx : Canonical x.memory := by simp [x, d, n, h]
  have hy : Canonical y.memory := canonical_foldl hx (fun x c hx => by simp [hx]) _
  clear_value y
  split <;> simp [h, hy]

@[simp] theorem canonical_grantInterval (claims : List (Nat × Nat)) : Canonical (grantInterval claims b).memory := by
  unfold grantInterval
  extract_lets x1 a x2 left lim pwr x3 left2 total base x4 x5 x6 prof pwr2 x7
  have hx3 : Canonical x3.memory := by simp [x3, x2, a, x1, h]
  have hx4 : Canonical x4.memory := canonical_foldl hx3 (fun x t hx => by simp [hx]) _
  have hx7 : Canonical x7.memory := by simp [x7, x6, x5, hx4]
  clear_value x7
  simp [hx7]

@[simp] theorem canonical_floorHoldExpire : Canonical (floorHoldExpire b).memory := by
  unfold floorHoldExpire
  (repeat' split) <;> simp [h]

/-! ### One MCLK cycle -/

@[simp] theorem Block.canonical_tickEngines : Canonical b.tickEngines.memory := by
  simp [Block.tickEngines, h]

@[simp] theorem Block.canonical_tick : Canonical b.tick.memory := by
  simp [Block.tick, h]

end

end Sys2Proof.Machine
end

section
/-! PROOF. Every step keeps memory in its canonical form. -/

namespace Sys2Proof.Machine

open Sys2Proof

/-! ## What a command and a step keep -/

/-- The effect keeps memory in canonical form. -/
def KeepsCanonical (f : Block → Block) : Prop := ∀ b : Block, Canonical b.memory → Canonical (f b).memory

section
variable {s t : State} (h : Canonical s.block.memory)
include h

theorem State.canonical_onBlock {f : Block → Block} (hf : KeepsCanonical f) (ht : s.onBlock f = .next t) : Canonical t.block.memory := by
  unfold State.onBlock at ht
  cases ht
  split
  · exact Block.canonical_cycle h hf
  · exact h

theorem State.canonical_onWrite {o : Origin} {f : Block → Block} (hf : KeepsCanonical f) (ht : s.onWrite o f = .next t) :
    Canonical t.block.memory := by
  unfold State.onWrite at ht
  cases ht
  split
  · exact Block.canonical_cycle h hf
  · exact h

theorem State.canonical_onPort {f : Fuses → Block → Block} (hf : ∀ fuses, KeepsCanonical (f fuses)) (ht : s.onPort f = .next t) :
    Canonical t.block.memory := by
  unfold State.onPort at ht
  cases ht
  exact Block.canonical_cycle h (hf _)

theorem exec_canonical_of_isEngine {c : Instr} (hc : c.isEngine = true) (ht : exec c s = .next t) : Canonical t.block.memory := by
  cases c <;> cases hc <;> exact State.canonical_onBlock h (fun b hb => by simp [hb]) ht

theorem exec_canonical_of_writeOrigin {c : Instr} {o : Origin} (hc : c.writeOrigin = some o) (ht : exec c s = .next t) :
    Canonical t.block.memory := by
  cases c <;> cases hc
  case getIdentity.refl p =>
    exact State.canonical_onWrite h (fun b hb => Block.canonical_mbxCommand hb (fun x hx => Block.canonical_identityWork hx p) _ _ _) ht
  case attestQuote.refl p =>
    exact State.canonical_onWrite h (fun b hb => Block.canonical_mbxCommand hb (fun x hx => Block.canonical_quoteWork hx p) _ _ _) ht
  all_goals exact State.canonical_onWrite h (fun b hb => by simp [hb]) ht

theorem execJtagPrivate_canonical (k : Nat) (ht : execJtagPrivate k s = .next t) : Canonical t.block.memory := by
  unfold execJtagPrivate at ht
  split at ht
  · cases ht
    exact h
  · split at ht
    · cases ht
    · exact State.canonical_onPort h (fun _ b hb => by simp [hb]) ht

theorem exec_canonical_of_port {c : Instr} (he : c.isEngine = false) (hw : c.writeOrigin = none) (ht : exec c s = .next t) :
    Canonical t.block.memory := by
  cases c
  case jtagPrivate k => exact execJtagPrivate_canonical h k ht
  all_goals cases he <;> cases hw <;> dsimp only [exec] at ht <;> exact State.canonical_onPort h (fun _ b hb => by simp [hb]) ht

theorem exec_canonical (c : Instr) (ht : exec c s = .next t) : Canonical t.block.memory := by
  cases he : c.isEngine with
  | true => exact exec_canonical_of_isEngine h he ht
  | false =>
    cases hw : c.writeOrigin with
    | some o => exact exec_canonical_of_writeOrigin h hw ht
    | none => exact exec_canonical_of_port h he hw ht

end

theorem step_canonical {s t : State} (h : Canonical s.block.memory) (ht : step s = .next t) : Canonical t.block.memory := by
  unfold step at ht
  split at ht
  · exact exec_canonical (by exact h) _ ht
  · cases ht
    exact Block.canonical_cycle h (fun b hb => Block.canonical_tick hb)

/-- Settles O4: every function that writes memory, or that changes what an unlisted byte reads, keeps the form, and every other leaves what
memory is. -/
theorem stepKeepsMemoryCanonical : Obligations.StepKeepsMemoryCanonical := by
  unfold Obligations.StepKeepsMemoryCanonical
  intro s t hs ht
  exact (canonical_iff _).1 (step_canonical ((canonical_iff _).2 hs) ht)

end Sys2Proof.Machine
end

section
/-! PROOF. A store changes the bytes that it names and no other. -/

namespace Sys2Proof.Machine

open Sys2Proof

/-- Settles O7: the bytes of memory after a store in one granule say which are new. -/
theorem storeWritesItsBytes : Obligations.StoreWritesItsBytes := by
  unfold Obligations.StoreWritesItsBytes
  intro b a l k hres hone hlen
  have hget := b.get_mem_store hone (hres 0 hlen)
  refine ⟨fun i hi => ?_, fun j hj => ?_, b.memWf_store a l⟩
  · rw [hget, if_pos (by omega), show k + i - (k + 0) = i by omega]
    simp [List.getElem?_eq_getElem hi]
  · rw [hget]
    split
    · exact List.getD_eq_default _ _ (by omega)
    · rfl

end Sys2Proof.Machine
end

section
/-! PROOF. Commands are answered, words found in error are noted before an engine's step, engines stand still while the module does not run,
and a shut door drops writes. -/

namespace Sys2Proof.Machine

open Sys2Proof

/-! ## Words found in error lead no address elsewhere, and poison stays -/

theorem Block.sameMap_count (b : Block) {p : Page} {o : Nat} (n : Nat) (hmod : p ≠ .mod) (hcxl : p ≠ .cxl) (ho : o + 4 < 4096) :
    b.SameMap (b.count p o n) :=
  (b.sameMap_wr p o _ hmod hcxl (by omega)).trans (Block.sameMap_wr _ p (o + 4) _ hmod hcxl ho)

theorem Block.sameMap_countPoison (b : Block) (n : Nat) : b.SameMap (b.count .cxl Reg.CXL_POISON n) := by
  have hother : ∀ {r : Nat}, r < 4096 → r ≠ Reg.CXL_POISON ∧ r ≠ Reg.CXL_POISON + 4 →
      (b.count .cxl Reg.CXL_POISON n).rd .cxl r = b.rd .cxl r := fun hr hne => b.rd_count_other n (by decide) hr (.inr hne)
  refine Block.sameMap_of_regs rfl (fun i hi => b.rd_count_other n (by decide) ?_ (.inl (by decide))) (hother (by decide) (by decide))
    (hother (by decide) (by decide))
  unfold Reg.MOD_CORE_MAP
  omega

theorem Block.sameMap_setPoison (b : Block) (a : Nat) (v : Bool) : b.SameMap (b.setPoison a v) := by
  unfold Block.setPoison
  split
  · exact Block.sameMap_of_same rfl rfl rfl
  · exact .refl b

theorem Block.sameMap_markRow (b : Block) (st frame row : Nat) : b.SameMap (b.markRow st frame row) := by
  unfold Block.markRow
  dsimp only
  split
  · exact .refl b
  · exact b.sameMap_setStk _ _

theorem Block.sameMap_correctedWord (b : Block) (a : Nat) : b.SameMap (b.correctedWord a) := by
  unfold Block.correctedWord Block.correctedError
  dsimp only
  split
  · exact b.sameMap_count 1 (by simp) (by simp) (by decide)
  · split
    · have hcount := fun x => (b.sameMap_setStk (stackFin (b.pte (pageOf a)).stack).val x).trans
        (Block.sameMap_count _ (p := .hbc (stackFin (b.pte (pageOf a)).stack)) (o := Reg.HBC_CE) 1 (by simp) (by simp) (by decide))
      split
      · exact (hcount _).trans (Block.sameMap_markRow _ _ _ _)
      · exact hcount _
    · exact .refl b

/-- What a word found uncorrectable changes beside its poison. -/
theorem Block.sameMap_uncorrectable (b : Block) (a : Nat) :
    b.SameMap (b.uncorrectable a) ∧ (b.uncorrectable a).poison = (b.setPoison a true).poison := by
  have hp := b.sameMap_setPoison a true
  unfold Block.uncorrectable
  dsimp only
  generalize b.setPoison a true = y at hp
  split
  · split
    · next ht =>
      have hreport : y.SameMap ((((y.count (.tile ⟨a / 2 ^ 33, ht⟩) Reg.TILE_SRAM_UE 1).wr64 (.tile ⟨a / 2 ^ 33, ht⟩)
          Reg.TILE_SRAM_ERR_ADDR a).setInt (.tile ⟨a / 2 ^ 33, ht⟩) 2)) :=
        (((y.sameMap_count 1 (by simp) (by simp) (by decide)).trans (Block.sameMap_wr _ _ _ _ (by simp) (by simp) (by decide))).trans
          (Block.sameMap_wr _ _ _ _ (by simp) (by simp) (by decide))).trans (Block.sameMap_wr _ _ _ _ (by simp) (by simp) (by decide))
      split
      · split
        · exact ⟨(hp.trans hreport).trans (Block.sameMap_setTile _ _ _ rfl), rfl⟩
        · exact ⟨hp.trans hreport, rfl⟩
      · exact ⟨hp.trans hreport, rfl⟩
    · exact ⟨hp, rfl⟩
  · split
    · split
      · next hs =>
        have hreport : y.SameMap ((y.count (.hbc ⟨_, hs⟩) Reg.HBC_UE 1).wr64 (.hbc ⟨_, hs⟩) Reg.HBC_ERR_ADDR a) :=
          ((y.sameMap_count 1 (by simp) (by simp) (by decide)).trans (Block.sameMap_wr _ _ _ _ (by simp) (by simp) (by decide))).trans
            (Block.sameMap_wr _ _ _ _ (by simp) (by simp) (by decide))
        refine ⟨(hp.trans hreport).trans (Block.sameMap_markRow _ _ _ _), ?_⟩
        unfold Block.markRow
        dsimp only
        split <;> rfl
      · exact ⟨hp, rfl⟩
    · exact ⟨hp.trans (y.sameMap_countPoison 1), rfl⟩

/-- Poison put at one word leaves that of another. -/
theorem Block.poison_setPoison (b : Block) (a k : Nat) (h : Sparse.get (fun _ => false) b.poison k = true) :
    Sparse.get (fun _ => false) (b.setPoison a true).poison k = true := by
  unfold Block.setPoison
  split
  · next j _ =>
    by_cases hk : k = j / 8
    · rw [hk]
      exact Sparse.get_put_self (fun _ => false) b.poison _ true
    · exact (Sparse.get_put_other (fun _ => false) b.poison true hk).trans h
  · exact h

theorem Block.poison_setPoison_self {b : Block} {a k : Nat} (h : b.resolveOwn a = .phys k) :
    Sparse.get (fun _ => false) (b.setPoison a true).poison (k / 8) = true := by
  unfold Block.setPoison
  rw [h]
  exact Sparse.get_put_self (fun _ => false) b.poison _ true

theorem Block.sameMap_found (b : Block) (errs : Errs) : b.SameMap (b.found errs) :=
  (Block.sameMap_foldl (fun x (a : DWord) => x.sameMap_correctedWord a.toNat) _ b).trans
    (Block.sameMap_foldl (fun x (a : DWord) => (x.sameMap_uncorrectable a.toNat).1) _ _)

/-- Of words found uncorrectable, each is poisoned in the end: a word that follows takes no poison away. -/
theorem Block.poison_foldl_uncorrectable (l : List DWord) (b : Block) {a : DWord} {k : Nat} (hk : b.resolveOwn a.toNat = .phys k)
    (h : a ∈ l ∨ Sparse.get (fun _ => false) b.poison (k / 8) = true) :
    Sparse.get (fun _ => false) (l.foldl (fun x a => x.uncorrectable a.toNat) b).poison (k / 8) = true := by
  induction l generalizing b with
  | nil => exact h.resolve_left List.not_mem_nil
  | cons e l ih =>
    obtain ⟨hmap, hpoison⟩ := b.sameMap_uncorrectable e.toNat
    refine ih _ ((hmap.resolveOwn _).trans hk) ?_
    rw [hpoison]
    rcases h with h | h
    · rcases List.mem_cons.1 h with rfl | h
      · exact .inr (Block.poison_setPoison_self hk)
      · exact .inl h
    · exact .inr (b.poison_setPoison _ _ h)

/-- A word that a read found uncorrectable is poisoned. -/
theorem Block.poisoned_found {b : Block} {errs : Errs} {a : DWord} {k : Nat} (ha : a ∈ errs.uncorr) (hr : b.resolve a.toNat = .phys k)
    (hk : b.resolveOwn a.toNat = .phys k) : (b.found errs).poisoned a.toNat 1 = [a.toNat] := by
  have hword : Sparse.get (fun _ => false) (b.found errs).poison (k / 8) = true := by
    refine Block.poison_foldl_uncorrectable _ _
      (((Block.sameMap_foldl (fun x (a : DWord) => x.sameMap_correctedWord a.toNat) _ b).resolveOwn _).trans hk) (.inl ?_)
    simp [ha, hr]
  have hplace := ((b.sameMap_found errs).resolveOwn a.toNat).trans hk
  unfold Block.poisoned
  rw [pieces_single (by decide) (by decide) (by rw [Nat.add_sub_cancel])]
  simp [hplace, hword]

/-! ## An engine's step sees the words in error -/

/-- The module as a task's step begins: with the records that the task has read, and no event waiting. -/
def Block.atStep (b : Block) (t : TaskSt) : Block := { b with lens := t.kept, posted := [] }

section
variable (b : Block) (t : TaskSt)

@[simp] theorem Block.resolve_atStep (a : Nat) : (b.atStep t).resolve a = b.resolve a := rfl
@[simp] theorem Block.resolveOwn_atStep (a : Nat) : (b.atStep t).resolveOwn a = b.resolveOwn a := rfl
@[simp] theorem Block.pte_atStep (v : Nat) : (b.atStep t).pte v = b.pte v := rfl
@[simp] theorem Block.tile_atStep (i : Nat) : (b.atStep t).tile i = b.tile i := rfl
@[simp] theorem Block.stk_atStep (i : Nat) : (b.atStep t).stk i = b.stk i := rfl
@[simp] theorem Block.rd_atStep (p : Page) (o : Nat) : (b.atStep t).rd p o = b.rd p o := rfl
@[simp] theorem Block.count_atStep (p : Page) (o n : Nat) : (b.atStep t).count p o n = (b.count p o n).atStep t := rfl
@[simp] theorem Block.wr64_atStep (p : Page) (o n : Nat) : (b.atStep t).wr64 p o n = (b.wr64 p o n).atStep t := rfl
@[simp] theorem Block.setInt_atStep (p : Page) (n : Nat) : (b.atStep t).setInt p n = (b.setInt p n).atStep t := rfl
@[simp] theorem Block.setTile_atStep (i : Nat) (x : TileSt) : (b.atStep t).setTile i x = (b.setTile i x).atStep t := rfl
@[simp] theorem Block.setStk_atStep (i : Nat) (x : StackSt) : (b.atStep t).setStk i x = (b.setStk i x).atStep t := rfl

@[simp] theorem Block.setPoison_atStep (a : Nat) (v : Bool) : (b.atStep t).setPoison a v = (b.setPoison a v).atStep t := by
  unfold Block.setPoison
  rw [Block.resolveOwn_atStep]
  split <;> rfl

@[simp] theorem Block.markRow_atStep (st frame row : Nat) : (b.atStep t).markRow st frame row = (b.markRow st frame row).atStep t := by
  unfold Block.markRow
  rw [Block.stk_atStep]
  dsimp only
  split <;> rfl

@[simp] theorem Block.correctedWord_atStep (a : Nat) : (b.atStep t).correctedWord a = (b.correctedWord a).atStep t := by
  unfold Block.correctedWord Block.correctedError
  simp only [Block.pte_atStep, Block.stk_atStep, Block.setStk_atStep, Block.count_atStep, Block.rd_atStep, Block.markRow_atStep]
  (repeat' split) <;> rfl

@[simp] theorem Block.uncorrectable_atStep (a : Nat) : (b.atStep t).uncorrectable a = (b.uncorrectable a).atStep t := by
  unfold Block.uncorrectable
  simp only [Block.setPoison_atStep, Block.count_atStep, Block.wr64_atStep, Block.setInt_atStep, Block.resolve_atStep, Block.tile_atStep,
    Block.setTile_atStep, Block.pte_atStep, Block.markRow_atStep]
  (repeat' split) <;> rfl

theorem Block.found_atStep (errs : Errs) : (b.atStep t).found errs = (b.found errs).atStep t := by
  have hfold : ∀ (f : Block → DWord → Block), (∀ x a, f (x.atStep t) a = (f x a).atStep t) → ∀ (l : List DWord) (x : Block),
      l.foldl f (x.atStep t) = (l.foldl f x).atStep t := by
    intro f hf l
    induction l with
    | nil => exact fun _ => rfl
    | cons a l ih => exact fun x => by rw [List.foldl_cons, hf, ih, List.foldl_cons]
  unfold Block.found Block.foundIn
  simp only [Block.resolve_atStep]
  rw [hfold _ (fun x a => x.correctedWord_atStep t a.toNat), hfold _ (fun x a => x.uncorrectable_atStep t a.toNat)]

end

/-- An engine's cycle: its step, on the module as the step begins, with the words in error noted. -/
theorem Block.cycle_engine {b : Block} {c : Fin 128} {port : Nat} {t : TaskSt} (h : b.portTask c port = some t) (errs : Errs)
    (f : Block → Block) : b.cycle (Block.engine c port errs f) =
      { ({ f ((b.found errs).atStep t) with lens := [] } : Block).settle with posted := b.posted } := by
  have htask : ({ b with posted := [] } : Block).portTask c port = some t := h
  unfold Block.cycle Block.engine
  rw [htask, ← Block.found_atStep]
  rfl

/-- A step of an engine whose reads found words in error is its step without them, in the module in which they are noted. -/
theorem State.onBlock_engine_found {s : State} {c : Fin 128} {port : Nat} {errs : Errs} (hrun : s.block.running = true)
    (h : ∃ t, s.block.portTask c port = some t ∧ (s.block.found errs).portTask c port = some t) (f : Block → Block) :
    s.onBlock (Block.engine c port errs f) =
      ({ s with block := s.block.found errs } : State).onBlock (Block.engine c port .none f) := by
  obtain ⟨t, hbefore, hafter⟩ := h
  have hsame := (s.block.delivers_foundIn errs (fun _ => true)).same
  have hboot : (s.block.found errs).running = true := by
    unfold Block.found
    rw [hsame]
    exact hrun
  have hposted : (s.block.found errs).posted = s.block.posted := by
    unfold Block.found
    rw [hsame]
  unfold State.onBlock
  rw [if_pos hrun, if_pos hboot]
  dsimp only
  rw [Block.cycle_engine hbefore, Block.cycle_engine hafter, hposted]
  rfl

/-! ## What a command answers -/

/-- Every command but JTAG_PRIVATE is answered by a next state that differs in the module alone. -/
theorem exec_completes {c : Instr} (hc : ∀ k, c ≠ .jtagPrivate k) (s : State) : Completes c s (fun _ => True) := by
  cases he : c.isEngine with
  | true =>
    obtain ⟨f, hf⟩ := exec_eq_onBlock he s
    obtain ⟨b, hb, -⟩ := s.onBlock_cases f
    exact ⟨b, hf.trans hb, trivial⟩
  | false =>
    cases hw : c.writeOrigin with
    | some o =>
      obtain ⟨f, hf⟩ := exec_eq_onWrite hw s
      obtain ⟨b, hb, -⟩ := s.onWrite_cases o f
      exact ⟨b, hf.trans hb, trivial⟩
    | none =>
      obtain ⟨f, hf⟩ := exec_eq_onPort he hw hc s
      exact ⟨_, hf.trans (s.onPort_cases f), trivial⟩

/-- Settles O6: all commands are steps of three forms; the words in error that an engine's reads find are noted before its step. -/
theorem commandsAnswerAndDoorsHold : Obligations.CommandsAnswerAndDoorsHold := by
  unfold Obligations.CommandsAnswerAndDoorsHold
  refine ⟨fun c s hc => exec_completes hc s, fun s c errs hrun => ?_, fun c s he hrun => ?_, fun c s o hw hshut => ?_⟩
  · have hfinds := fun port h => State.onBlock_engine_found (s := s) (c := c) (port := port) (errs := errs) hrun h
    refine ⟨fun a ha k hr hk => Block.poisoned_found ha hr hk, congrArg Prod.fst (s.block.memory_found errs), ?_, fun h => ?_, fun h => ?_,
      fun h => ?_, fun h => ?_⟩
    · show (s.block.foundIn errs _).units = _
      rw [(s.block.delivers_foundIn errs _).same]
    · exact ⟨fun n => hfinds 0 h _, fun n dry full ecc e => hfinds 0 h _⟩
    · exact fun n ecc e => hfinds 3 h _
    · exact ⟨fun n l => ⟨hfinds 1 h _, hfinds 1 h _, hfinds 1 h _, hfinds 1 h _, hfinds 1 h _, hfinds 1 h _⟩,
        fun n => ⟨hfinds 1 h _, hfinds 1 h _, hfinds 1 h _⟩⟩
    · exact fun n => ⟨hfinds 2 h _, hfinds 2 h _, hfinds 2 h _, hfinds 2 h _⟩
  · obtain ⟨f, hf⟩ := exec_eq_onBlock he s
    exact hf.trans (s.onBlock_idle f hrun)
  · obtain ⟨f, hf⟩ := exec_eq_onWrite hw s
    exact hf.trans (s.onWrite_shut o f hshut)

end Sys2Proof.Machine
end

section
/-! SUPPORT. What faults and requests leave of the words on which the fetch engine and the shard map count. -/

namespace Sys2Proof.Machine

open Sys2Proof

/-- The pages of the fetch engines and of the shard map. -/
def fetchPage : Page → Bool
  | .fet _ => true
  | .shm => true
  | _ => false

/-- The words of the fetch engines and of the shard map are the same. -/
def Block.KeepsFetch (a b : Block) : Prop := ∀ p o, o < 4096 → fetchPage p = true → b.rd p o = a.rd p o

theorem Block.KeepsFetch.refl (a : Block) : a.KeepsFetch a := fun _ _ _ _ => rfl

theorem Block.KeepsFetch.trans {a b c : Block} (h : a.KeepsFetch b) (k : b.KeepsFetch c) : a.KeepsFetch c :=
  fun p o ho hp => (k p o ho hp).trans (h p o ho hp)

theorem Block.keepsFetch_of_regs {a b : Block} (h : b.regs = a.regs) : a.KeepsFetch b := fun p o _ _ => Block.rd_of_regs h p o

theorem Block.KeepsFetch.rd64 {a b : Block} (h : a.KeepsFetch b) {p : Page} {o : Nat} (ho : o + 4 < 4096) (hp : fetchPage p = true) :
    b.rd64 p o = a.rd64 p o := by
  unfold Block.rd64 Block.rdN
  rw [h p o (by omega) hp, h p (o + 4) ho hp]

theorem Block.keepsFetch_wr (b : Block) {p : Page} {o : Nat} (v : Word) (hp : fetchPage p = false) (ho : o < 4096) :
    b.KeepsFetch (b.wr p o v) := by
  intro q r hr hq
  refine b.rd_wr_other v ho hr (.inl ?_)
  rintro rfl
  rw [hp] at hq
  cases hq

theorem Block.keepsFetch_count (b : Block) {p : Page} {o : Nat} (n : Nat) (hp : fetchPage p = false) (ho : o + 4 < 4096) :
    b.KeepsFetch (b.count p o n) :=
  (b.keepsFetch_wr _ hp (by omega)).trans (Block.keepsFetch_wr _ _ hp ho)

theorem Block.HasRead.keepsFetch {a b : Block} (h : a.HasRead b) : a.KeepsFetch b := by
  intro p o ho hp
  refine h.rd p o ho ?_
  cases p with
  | fet c => rfl
  | shm => rfl
  | _ => cases hp

/-- Steps in turn, each taken only while all before it went well. -/
theorem Block.keepsFetch_foldl {α ι : Type} {f : α × Block → ι → α × Block}
    (h : ∀ (p : α × Block) i, p.2.KeepsFetch (f p i).2) (l : List ι) (p : α × Block) : p.2.KeepsFetch (l.foldl f p).2 :=
  List.foldlRecOn (motive := fun q : α × Block => p.2.KeepsFetch q.2) _ _ (.refl p.2) fun _ hq i _ => hq.trans (h _ i)

/-! ## A fault -/

theorem Block.keepsFetch_undoAhead (b : Block) (c : Fin 128) (n : Nat) (t : TaskSt) : b.KeepsFetch (b.undoAhead c n t) := by
  have hdrop : ∀ x : Block, x.regs = b.regs → (x.dropPrologue c).regs = b.regs := fun x hx => by
    unfold Block.dropPrologue
    exact List.foldlRecOn (motive := fun y : Block => y.regs = b.regs) _ _ hx fun _ hy _ _ => hy
  refine Block.keepsFetch_of_regs ?_
  unfold Block.undoAhead
  dsimp only
  (repeat' split) <;> first | rfl | exact hdrop _ rfl

theorem Block.keepsFetch_dropFetches (b : Block) (c : Fin 128) (n : Nat) (t : TaskSt) : b.KeepsFetch (b.dropFetches c n t) := by
  unfold Block.dropFetches
  dsimp only
  split
  · exact (Block.keepsFetch_wr _ _ rfl (by decide)).trans (Block.keepsFetch_wr _ _ rfl (by decide))
  · exact Block.keepsFetch_of_regs rfl

theorem Block.keepsFetch_endEngine (b : Block) (c : Fin 128) (t : TaskSt) : b.KeepsFetch (b.endEngine c t) := by
  unfold Block.endEngine
  split
  · unfold Block.arrayEnd
    split
    · exact .refl b
    · exact (Block.keepsFetch_wr _ _ rfl (by decide)).trans (Block.keepsFetch_wr _ _ rfl (by decide))
  · exact Block.keepsFetch_wr _ _ rfl (by decide)
  · exact .refl b

/-- A fault at a core leaves the words of the fetch engines, and the shard map. -/
theorem Block.keepsFetch_coreFault (b : Block) (c : Fin 128) (n code : Nat) : b.KeepsFetch (b.faultTask (.core c) n code) := by
  cases ht : b.bySerial (.core c) n with
  | none =>
    unfold Block.faultTask
    rw [ht]
    exact .refl b
  | some t =>
    by_cases hp : t.phase = .running
    · rw [Block.faultTask_core code ht hp]
      exact ((b.keepsFetch_undoAhead c n t).trans (Block.keepsFetch_dropFetches _ c n t)).trans (Block.keepsFetch_endEngine _ c _)
    · unfold Block.faultTask
      rw [ht]
      dsimp only
      rw [if_pos hp]
      exact .refl b

/-! ## A demand and a request -/

theorem Block.keepsFetch_requestPageIn (b : Block) (v : Nat) (why : MoveWhy) (owner : Option Nat) :
    b.KeepsFetch (b.requestPageIn v why owner) := by
  unfold Block.requestPageIn
  split
  · exact Block.keepsFetch_of_regs rfl
  · split
    · split
      · exact b.keepsFetch_count 1 rfl (by decide)
      · exact .refl b
    · exact Block.keepsFetch_of_regs rfl

theorem Block.keepsFetch_demand (b : Block) (t : TaskSt) (l : List (Nat × Nat)) (i : Bool) : b.KeepsFetch (b.demand t l i).2 := by
  unfold Block.demand
  refine Block.keepsFetch_foldl (fun p r => ?_) l (Ready.ok, b)
  repeat' split
  case h_5.isFalse.isFalse => exact Block.keepsFetch_requestPageIn _ _ _ _
  all_goals exact .refl _

theorem Block.keepsFetch_request (b : Block) (o : ReqOwner) (d k q n a : Nat) (l : List Byte) :
    b.KeepsFetch (b.request o d k q n a l).2 := by
  have hsend : ∀ p, b.KeepsFetch (b.send p).2 := fun p => by
    unfold Block.send
    split
    · exact .refl b
    · split
      · exact Block.keepsFetch_of_regs rfl
      · split
        · exact Block.keepsFetch_of_regs rfl
        · exact b.keepsFetch_count 1 rfl (by decide)
  unfold Block.request
  dsimp only
  split
  · exact (hsend _).trans (Block.keepsFetch_of_regs rfl)
  · exact hsend _

theorem Block.keepsFetch_readRemote (b : Block) (o : ReqOwner) (m : Nat) (l : List (Nat × Nat)) :
    b.KeepsFetch (b.readRemote o m l).2 := by
  unfold Block.readRemote
  refine Block.keepsFetch_foldl (fun p r => ?_) _ ((none : Option Nat), b)
  dsimp only
  split
  · exact .refl _
  · have hforget : p.2.KeepsFetch (p.2.forgetPoison m r.1 r.2) := by
      unfold Block.forgetPoison
      split <;> exact Block.keepsFetch_of_regs rfl
    exact hforget.trans (Block.keepsFetch_request _ _ _ _ _ _ _ _)

theorem Block.regs_registerGranules (b : Block) (c : Fin 128) (l : List (Nat × Nat)) : (b.registerGranules c l).regs = b.regs := by
  unfold Block.registerGranules
  refine List.foldlRecOn (motive := fun y : Block => y.regs = b.regs) _ _ rfl fun y hy g _ => ?_
  dsimp only
  split <;> exact hy

theorem Block.hasRead_queueSlots (b : Block) (l : List (Nat × SlotReq)) : b.HasRead (b.queueSlots l) := by
  unfold Block.queueSlots
  exact List.foldlRecOn (motive := b.HasRead) _ _ (.refl b) fun y hy q _ => hy.trans (y.hasRead_queueSlot q.1 q.2)

theorem Block.hasRead_lookups (b : Block) (die : Nat) (l : List (Nat × Nat)) : b.HasRead (b.lookups die l) := by
  unfold Block.lookups
  exact List.foldlRecOn (motive := b.HasRead) _ _ (.refl b) fun y hy p _ => hy.trans (y.hasRead_lookup die p.1)

theorem Block.keepsFetch_issue (b : Block) (c : Fin 128) (t : TaskSt) (port : Nat) (p : Nat × Nat) (s : Source) (u d : Nat) (again : Bool) :
    b.KeepsFetch (b.issue c t port p s u d again).2 := by
  unfold Block.issue
  dsimp only
  split
  · refine Block.KeepsFetch.trans ?_ (Block.hasRead_queueSlots _ _).keepsFetch
    refine Block.KeepsFetch.trans ?_ (Block.hasRead_lookups _ _ _).keepsFetch
    exact Block.keepsFetch_of_regs (Block.regs_registerGranules _ _ _)
  · refine Block.KeepsFetch.trans ?_ (Block.keepsFetch_readRemote _ _ _ _)
    exact Block.keepsFetch_of_regs (Block.regs_registerGranules _ _ _)

end Sys2Proof.Machine
end

section
/-! PROOF. Tracked blocks are checked against generations, global blocks against versions (R241, R376 to R379). -/

namespace Sys2Proof.Machine

open Sys2Proof

/-- A task on any port of a core runs. -/
theorem Block.running_of_port {b : Block} {c : Fin 128} {port : Fin 4} {t : TaskSt} (h : b.portTask c port.val = some t) :
    t.phase = .running := by
  have honResource : ∀ r, b.onResource c r = some t → t.phase = .running := fun r hr => by
    have hfound := List.find?_some hr
    simp only [Bool.and_eq_true, decide_eq_true_eq] at hfound
    exact hfound.1.1
  by_cases hport : port.val = 0 ∨ port.val = 3
  · exact Block.running_of_arrayPort hport h
  · obtain ⟨h0, h3⟩ := not_or.1 hport
    unfold Block.portTask at h
    split at h
    · cases h
    · exact honResource _ (by simpa only [h0, h3, if_false] using h)

theorem Block.consumerBlock_unposted (b : Block) (c : Fin 128) (port : Nat) :
    b.unposted.consumerBlock c port = b.consumerBlock c port := rfl

/-- The task of a consumer's block is the one on its port. -/
theorem Block.portTask_of_consumerBlock {b : Block} {c : Fin 128} {port : Nat} {t : TaskSt} {f : Fetched} {p : Nat × Nat} {src : Source}
    (h : b.consumerBlock c port = some (t, f, p, src)) : b.portTask c port = some t := by
  unfold Block.consumerBlock at h
  split at h
  · cases h
  · next u hu =>
    dsimp only at h
    split at h
    · split at h
      · cases h
        exact hu
      · cases h
    · cases h

/-! ## The consumer's step -/

theorem completes_trackedBlockConsume {s : State} {c : Fin 128} {port : Fin 4} {q t : TaskSt} {f : Fetched} {p : Nat × Nat} {src : Source}
    {P : Block → Prop} (hr : s.block.running = true) (hq : s.block.portTask c port.val = some q)
    (hblock : (s.block.seenBy q).consumerBlock c port.val = some (t, f, p, src)) (htracked : src.d.tracked = true)
    (hfresh : f.checked = false) (hp : P (((s.block.seenBy q).checkTracked c t f p src).2.afterStep s.block.posted)) :
    Completes (.trackedBlockConsume c port) s P := by
  refine completes_engine rfl hr hq ?_ hp
  simp only [Block.consumerBlock_unposted, hblock, htracked, hfresh, Bool.not_false, and_self, if_true, Block.checkTracked_unposted,
    silent_snd]

section Version

variable {s : State} {c : Fin 128} {port : Fin 4} {q t : TaskSt} {f : Fetched} {p : Nat × Nat} {src : Source} {x : Block}
  {P : Block → Prop} (hr : s.block.running = true) (hq : s.block.portTask c port.val = some q)
  (hblock : (s.block.seenBy q).consumerBlock c port.val = some (t, f, p, src)) (hver : f.version.isSome = true)
  (hfresh : f.checked = false)
include hr hq hblock hver hfresh

/-- The consumer takes a global block whose version passes. -/
theorem completes_globalBlockConsume_taken
    (hx : (s.block.seenBy q).checkVersion ((s.block.seenBy q).descAt t p src.e).allowNewer f.version = (none, x))
    (hp : P ((x.mapFetched c f.id (fun y => { y with checked := true })).afterStep s.block.posted)) :
    Completes (.globalBlockConsume c port) s P := by
  refine completes_engine rfl hr hq ?_ hp
  simp [Block.consumerBlock_unposted, hblock, Option.isSome_iff_ne_none.1 hver, hfresh, hx]

/-- A version that does not pass stops the consumer's task. -/
theorem completes_globalBlockConsume_refused {code : Nat}
    (hx : (s.block.seenBy q).checkVersion ((s.block.seenBy q).descAt t p src.e).allowNewer f.version = (some code, x))
    (hp : P ((x.faultTask (.core c) t.serial code).afterStep s.block.posted)) : Completes (.globalBlockConsume c port) s P := by
  refine completes_engine rfl hr hq ?_ hp
  simp [Block.consumerBlock_unposted, hblock, Option.isSome_iff_ne_none.1 hver, hfresh, hx]

end Version

/-- A block that its consumer has accepted. -/
theorem Block.fetched_mapFetched (b : Block) (c : Fin 128) (id : Nat) (g : Fetched → Fetched) :
    ((b.mapFetched c id g).core c.val).fetched = (b.core c.val).fetched.map (fun y => if y.id = id then g y else y) := by
  unfold Block.mapFetched
  rw [Block.core_setCore_self]

theorem Block.rd64_mapFetched (b : Block) (c : Fin 128) (id : Nat) (g : Fetched → Fetched) (p : Page) (o : Nat) :
    (b.mapFetched c id g).rd64 p o = b.rd64 p o := rfl

/-! ## The version record -/

/-- A version put into the record: its entry, the others, and what of the module stays. -/
theorem Block.putRecord_spec (b : Block) (i ver : Nat) : (b.putRecord i ver).core = b.core ∧ (b.putRecord i ver).mem = b.mem ∧
    (b.putRecord i ver).shm.record = Sparse.put (fun _ => 0) b.shm.record i (2 ^ 16 + ver % 2 ^ 16) ∧
    (b.putRecord i ver).rd64 .shm Reg.SHM_NEWER = b.rd64 .shm Reg.SHM_NEWER := by
  unfold Block.putRecord
  dsimp only
  split
  · exact ⟨rfl, rfl, rfl, Block.rd64_other _ (Block.rd_wrN_other _ _ (by decide) (by decide) (.inr (by decide)))
      (Block.rd_wrN_other _ _ (by decide) (by decide) (.inr (by decide)))⟩
  · exact ⟨rfl, rfl, rfl, rfl⟩

/-- A tainted step shows it, whichever shard was the first. -/
theorem Block.taint_spec (b : Block) {i : Nat} (hi : i < 2 ^ 31) : (b.taint i).units = b.units ∧ (b.taint i).shm = b.shm ∧
    wbit ((b.taint i).rd .shm Reg.SHM_REC_STAT) 31 = true ∧
    (b.taint i).rd64 .shm Reg.SHM_VERSION_FAULTS = b.rd64 .shm Reg.SHM_VERSION_FAULTS := by
  unfold Block.taint
  split
  · next h => exact ⟨rfl, rfl, h, rfl⟩
  · refine ⟨rfl, rfl, ?_, Block.rd64_other _ (Block.rd_wrN_other _ _ (by decide) (by decide) (.inr (by decide)))
      (Block.rd_wrN_other _ _ (by decide) (by decide) (.inr (by decide)))⟩
    unfold Block.wrN
    rw [Block.rd_wr_self]
    unfold wbit
    rw [BitVec.getLsbD_ofNat]
    have hbit : (2 ^ 31 + i).testBit 31 = true := by
      rw [Nat.testBit_two_pow_add_eq, Nat.testBit_lt_two_pow hi]
      rfl
    exact Bool.and_eq_true_iff.2 ⟨rfl, hbit⟩

/-! ## A fault of the consumer -/

theorem Block.shm_undoAhead (b : Block) (c : Fin 128) (n : Nat) (t : TaskSt) : (b.undoAhead c n t).shm = b.shm := by
  have hdrop : ∀ x : Block, x.shm = b.shm → (x.dropPrologue c).shm = b.shm := fun x hx => by
    unfold Block.dropPrologue
    exact List.foldlRecOn (motive := fun y : Block => y.shm = b.shm) _ _ hx fun _ hy _ _ => hy
  unfold Block.undoAhead
  dsimp only
  (repeat' split) <;> first | rfl | exact hdrop _ rfl

theorem Block.shm_dropFetches (b : Block) (c : Fin 128) (n : Nat) (t : TaskSt) : (b.dropFetches c n t).shm = b.shm := by
  unfold Block.dropFetches
  dsimp only
  split <;> rfl

theorem Block.shm_endEngine (b : Block) (c : Fin 128) (t : TaskSt) : (b.endEngine c t).shm = b.shm := by
  unfold Block.endEngine Block.arrayEnd
  (repeat' split) <;> rfl

theorem Block.shm_coreFault (b : Block) (c : Fin 128) (n code : Nat) : (b.faultTask (.core c) n code).shm = b.shm := by
  cases ht : b.bySerial (.core c) n with
  | none =>
    unfold Block.faultTask
    rw [ht]
  | some t =>
    by_cases hp : t.phase = .running
    · rw [Block.faultTask_core code ht hp]
      exact ((Block.shm_endEngine _ c _).trans (Block.shm_dropFetches _ c n t)).trans (b.shm_undoAhead c n t)
    · unfold Block.faultTask
      rw [ht]
      dsimp only
      rw [if_pos hp]

/-- A block that has moved on for the first time is fetched again: that counts one. -/
theorem Block.rd64_checkTracked {b : Block} {c : Fin 128} {t : TaskSt} {f : Fetched} {p : Nat × Nat} {src : Source}
    (hdiff : f.grans ≠ b.granules src.ranges) (hfirst : f.refetched = false) :
    (b.checkTracked c t f p src).2.rd64 (.fet c) Reg.FET_REFETCH = min (b.rd64 (.fet c) Reg.FET_REFETCH + 1) (2 ^ 64 - 1) := by
  have hcount := (b.dropFetched c f.id).rd64_count (.fet c) Reg.FET_REFETCH 1 (by decide)
  have hkeep : ∀ {x y : Block}, x.KeepsFetch y → y.rd64 (.fet c) Reg.FET_REFETCH = x.rd64 (.fet c) Reg.FET_REFETCH :=
    fun h => h.rd64 (by decide) rfl
  unfold Block.checkTracked
  rw [if_neg hdiff, if_neg (by simp [hfirst])]
  extract_lets y r
  have hr : r.2.rd64 (.fet c) Reg.FET_REFETCH = min (b.rd64 (.fet c) Reg.FET_REFETCH + 1) (2 ^ 64 - 1) :=
    (hkeep (y.keepsFetch_demand _ _ _)).trans hcount
  split
  · exact (hkeep (r.2.keepsFetch_coreFault c _ _)).trans hr
  · exact hr
  · exact (hkeep (r.2.keepsFetch_issue c _ _ _ _ _ _ _)).trans hr

/-- Settles O27: each answer of the check of generations and of versions is one block, and faults and requests keep what it counts. -/
theorem consumedBlocksAreChecked : Obligations.ConsumedBlocksAreChecked := by
  unfold Obligations.ConsumedBlocksAreChecked
  refine ⟨fun s c port q t f p src => ?_, fun s c port q t f p src i ver => ?_⟩
  · intro v hr hq hblock htracked hfresh hb
    have hrun := Block.running_of_port (Block.portTask_of_consumerBlock hblock)
    refine ⟨fun hsame => ?_, fun hdiff hagain => ?_, fun hdiff hfirst => ?_⟩
    · refine completes_trackedBlockConsume hr hq hblock htracked hfresh ?_
      unfold Block.checkTracked
      rw [if_pos hsame]
      exact ⟨rfl, rfl, v.fetched_mapFetched c f.id _⟩
    · refine completes_trackedBlockConsume hr hq hblock htracked hfresh ?_
      unfold Block.checkTracked
      rw [if_neg hdiff, if_pos hagain]
      exact (Block.coreFault_stops Ev.STALE_PREFETCH (show v.bySerial (.core c) t.serial = some t from hb) hrun).2
    · refine completes_trackedBlockConsume hr hq hblock htracked hfresh ?_
      rw [Block.rd64_afterStep, Block.rd64_checkTracked hdiff hfirst]
      rfl
  · intro v r newer taken hr hq hblock hver hfresh hb hsmall hi
    have hrun := Block.running_of_port (Block.portTask_of_consumerBlock hblock)
    have hsome : f.version.isSome = true := by rw [hver]; rfl
    have hcheck := (congrArg (v.checkVersion newer) hver).trans (v.checkVersion_some newer i ver)
    obtain ⟨hcore, hmem, hrecord, hnewer⟩ := v.putRecord_spec i ver
    have hself : Sparse.get (fun _ => 0) (v.putRecord i ver).shm.record i = 2 ^ 16 + ver := by
      rw [hrecord, Sparse.get_put_self, Nat.mod_eq_of_lt hsmall]
    refine ⟨fun h0 => ?_, fun h0 hsame => ?_, fun h0 hother hnew => ?_, fun h0 hother hold => ?_⟩
    · refine completes_globalBlockConsume_taken hr hq hblock hsome hfresh (hcheck.trans (if_pos h0)) ⟨?_, hmem, hself, fun j hj => ?_⟩
      · exact (Block.fetched_mapFetched _ c f.id _).trans (congrArg (fun k : Nat → CoreSt => (k c.val).fetched.map _) hcore)
      · exact (congrArg (fun m => Sparse.get (fun _ => 0) m j) hrecord).trans (Sparse.get_put_other _ _ _ hj)
    · refine completes_globalBlockConsume_taken hr hq hblock hsome hfresh ((hcheck.trans (if_neg h0)).trans (if_pos hsame)) ?_
      exact ⟨v.fetched_mapFetched c f.id _, rfl, rfl, rfl⟩
    · refine completes_globalBlockConsume_taken hr hq hblock hsome hfresh
        (((hcheck.trans (if_neg h0)).trans (if_neg hother)).trans (if_pos hnew)) ⟨?_, hmem, hself, ?_⟩
      · exact (Block.fetched_mapFetched _ c f.id _).trans (congrArg (fun k : Nat → CoreSt => (k c.val).fetched.map _) hcore)
      · rw [Block.rd64_afterStep, Block.rd64_mapFetched, Block.rd64_count _ _ _ _ (by decide), hnewer]
        rfl
    · refine completes_globalBlockConsume_refused hr hq hblock hsome hfresh
        (((hcheck.trans (if_neg h0)).trans (if_neg hother)).trans (if_neg (by simp [hold]))) ?_
      obtain ⟨hunits, hshm, htainted, hfaults⟩ := (v.count .shm Reg.SHM_VERSION_FAULTS 1).taint_spec (show i < 2 ^ 31 by omega)
      generalize (v.count .shm Reg.SHM_VERSION_FAULTS 1).taint i = x at hunits hshm htainted hfaults
      have hkeep := x.keepsFetch_coreFault c t.serial Ev.SHARD_VERSION
      refine ⟨(x.shm_coreFault c _ _).trans hshm, ?_, ?_, (Block.coreFault_stops (t := t) Ev.SHARD_VERSION ?_ hrun).2⟩
      · exact (congrArg (wbit · 31) (hkeep .shm Reg.SHM_REC_STAT (by decide) rfl)).trans htainted
      · rw [Block.rd64_afterStep, hkeep.rd64 (by decide) rfl, hfaults, Block.rd64_count _ _ _ _ (by decide)]
        rfl
      · show x.bySerial (.core c) t.serial = some t
        unfold Block.bySerial Block.unit
        rw [hunits]
        exact hb

end Sys2Proof.Machine
end

section
/-! PROOF. Run-ahead requests or drops, a demand requests or faults (R233 to R237). -/

namespace Sys2Proof.Machine

open Sys2Proof

/-! ## A block requested -/

theorem Block.registerGranules_eq (b : Block) (c : Fin 128) (l : List (Nat × Nat)) :
    b.registerGranules c l = { b with stks := (b.registerGranules c l).stks } := by
  unfold Block.registerGranules
  refine List.foldlRecOn (motive := fun y : Block => y = { b with stks := y.stks }) _ _ rfl fun y hy g _ => ?_
  dsimp only
  split
  · exact hy
  · rw [hy]
    rfl

/-- A local block requested: the fetch engine awaits it, and memory and events stay. -/
theorem Block.issue_spec {b : Block} (c : Fin 128) (t : TaskSt) (port : Nat) (p : Nat × Nat) {s : Source} (u d : Nat) (again : Bool)
    (hs : s.holder = 0) :
    (∃ f : Fetched, ((b.issue c t port p s u d again).2.core c.val).fetched = (b.core c.val).fetched ++ [f] ∧ f.port = port ∧
      f.serial = t.serial ∧ f.entry = posKey p ∧ f.arrived = false ∧ f.deadline = d ∧ f.urgency = u) ∧
    (b.issue c t port p s u d again).2.mem = b.mem ∧ (b.issue c t port p s u d again).2.evt = b.evt := by
  unfold Block.issue
  dsimp only
  rw [if_pos hs]
  dsimp only
  generalize hx : Block.registerGranules _ c _ = x
  have hsame := fun m l => ((x.hasRead_lookups (coreTile c).val m).trans (Block.hasRead_queueSlots _ l)).same
  rw [hsame]
  have hreg := Block.registerGranules_eq _ c _ ▸ hx
  rw [← hreg]
  exact ⟨⟨_, congrArg CoreSt.fetched (Block.core_setCore_self _ _ _), rfl, rfl, rfl, rfl, rfl, rfl⟩, rfl, rfl⟩

/-! ## Run-ahead -/

@[simp] theorem Block.dropPrefetch_unposted (b : Block) (c : Fin 128) (n k : Nat) :
    b.unposted.dropPrefetch c n k = (b.dropPrefetch c n k).unposted := rfl
@[simp] theorem Block.nextAhead_unposted (b : Block) (c : Fin 128) (t : TaskSt) (port n : Nat) (own : Bool) :
    b.unposted.nextAhead c t port n own = b.nextAhead c t port n own := rfl
@[simp] theorem Block.chainHeld_unposted (b : Block) (t : TaskSt) (p : Nat × Nat) : b.unposted.chainHeld t p = b.chainHeld t p := rfl
@[simp] theorem Block.linkWrites_unposted (b : Block) (c : Fin 128) (t : TaskSt) (d : Desc) :
    b.unposted.linkWrites c t d = b.linkWrites c t d := rfl
@[simp] theorem Block.deadlineOf_unposted (b : Block) (c : Fin 128) (t : TaskSt) (e : Entry32) :
    b.unposted.deadlineOf c t e = b.deadlineOf c t e := rfl
@[simp] theorem Block.prefetchUrgency_unposted (b : Block) (d : Nat) : b.unposted.prefetchUrgency d = b.prefetchUrgency d := rfl
@[simp] theorem Block.queueRoom_unposted (b : Block) (c : Fin 128) (port : Nat) (k : Nat × Nat) :
    b.unposted.queueRoom c port k = b.queueRoom c port k := rfl

/-- What stands in the way of the bytes of a block first: a piece that does not resolve, or one that the network does not reach. -/
def Block.meets (b : Block) (t : TaskSt) (src : Source) : Option Access :=
  src.ranges.findSome? (fun r => match b.probe (b.taskAddr t r.1) r.2 with
    | .ok => if b.reaches t (b.taskAddr t r.1) then none else some (.moving 0)
    | a => some a)

/-- A page asked for by run-ahead, and counted where the request is new. -/
def Block.pageAhead (b : Block) (c : Fin 128) (v : Nat) (ok : Bool) : Block :=
  let z := if ok ∧ !b.hbm.farDown then b.requestPageIn v .prefetch none else b
  if z.hbm.moves.length = b.hbm.moves.length then z else z.count (.fet c) Reg.FET_PAGE_IN 1

/-- The position that run-ahead fetches next: a local block that is not tracked, with room in the queue and the tracking table. -/
structure Block.Ahead (b : Block) (c : Fin 128) (port : Nat) (t : TaskSt) (own : Bool) (p : Nat × Nat) (src : Source) : Prop where
  next : b.nextAhead c t port t.runahead own = some p
  chain : b.chainHeld t p = false
  writes : b.linkWrites c t (b.descAt t p (b.entryAt t p)) = false
  source : b.source (b.descAt t p (b.entryAt t p)) (b.entryAt t p) = some src
  holder : src.holder = 0
  tracked : src.d.tracked = false
  room : b.queueRoom c port (queueTakes port (b.entryAt t p).src src) = true
  few : (b.core c.val).tracked ≤ 256

/-- One step of run-ahead for such a block. -/
theorem Block.Ahead.prefetchFor {b : Block} {c : Fin 128} {port : Nat} {t : TaskSt} {own : Bool} {p : Nat × Nat} {src : Source}
    (h : b.Ahead c port t own p src) : b.prefetchFor c port t own = (match b.meets t src with
      | none => if !b.sourceFits src then b.dropPrefetch c t.serial (posKey p)
        else (b.issue c t port p src (b.prefetchUrgency (b.deadlineOf c t src.e)) (b.deadlineOf c t src.e) false).2
      | some (.moving _) => b
      | some (.nonResident v) => (b.dropPrefetch c t.serial (posKey p)).pageAhead c v src.e.pageInOk
      | some _ => b.dropPrefetch c t.serial (posKey p)) := by
  obtain ⟨hnext, hchain, hwrites, hsource, hholder, htracked, hroom, hfew⟩ := h
  have hfew : ¬ 256 < (b.core c.val).tracked := by omega
  unfold Block.prefetchFor
  simp only [hnext, hchain, hwrites, hsource, hholder, htracked, hroom, Bool.false_eq_true, if_false, or_self, List.length_nil,
    Nat.add_zero, hfew, Bool.not_true, ne_eq, not_true_eq_false]
  rfl

theorem Block.Ahead.unposted {b : Block} {c : Fin 128} {port : Nat} {t : TaskSt} {own : Bool} {p : Nat × Nat} {src : Source}
    (h : b.Ahead c port t own p src) : b.unposted.Ahead c port t own p src :=
  ⟨h.next, h.chain, h.writes, h.source, h.holder, h.tracked, h.room, h.few⟩

theorem Block.pageAhead_unposted (b : Block) (c : Fin 128) (v : Nat) (ok : Bool) :
    b.unposted.pageAhead c v ok = (b.pageAhead c v ok).unposted := by
  unfold Block.pageAhead
  simp only [Block.hbm_unposted, Block.requestPageIn_unposted, ← apply_ite Block.unposted, Block.count_unposted]

/-- Such a step does not look at the events of a cycle. -/
theorem Block.Ahead.prefetchFor_unposted {b : Block} {c : Fin 128} {port : Nat} {t : TaskSt} {own : Bool} {p : Nat × Nat} {src : Source}
    (h : b.Ahead c port t own p src) : b.unposted.prefetchFor c port t own = (b.prefetchFor c port t own).unposted := by
  have hmeets : b.unposted.meets t src = b.meets t src := rfl
  rw [h.prefetchFor, h.unposted.prefetchFor, hmeets]
  split
  · simp only [Block.sourceFits_unposted, Block.dropPrefetch_unposted, Block.issue_unposted, silent_snd, apply_ite Block.unposted]
    rfl
  · rfl
  · rw [Block.dropPrefetch_unposted, Block.pageAhead_unposted]
  · rfl

/-- Run-ahead's step completes with what it makes of the module as the task sees it. -/
theorem completes_prefetchIssue {s : State} {c : Fin 128} {port : Fin 4} {q t : TaskSt} {p : Nat × Nat} {src : Source} {P : Block → Prop}
    (hr : s.block.running = true) (hq : s.block.portTask c port.val = some q) (ht : (s.block.seenBy q).portTask c port.val = some t)
    (h : (s.block.seenBy q).Ahead c port.val t false p src)
    (hp : P (((s.block.seenBy q).prefetchFor c port.val t false).afterStep s.block.posted)) : Completes (.prefetchIssue c port) s P := by
  refine completes_engine rfl hr hq ?_ hp
  rw [Block.portTask_unposted, ht]
  exact h.prefetchFor_unposted

/-! ### A prefetch dropped, and its page -/

theorem Block.rd64_dropPrefetch (b : Block) (c : Fin 128) (n k : Nat) :
    (b.dropPrefetch c n k).rd64 (.fet c) Reg.FET_PF_DROPPED = min (b.rd64 (.fet c) Reg.FET_PF_DROPPED + 1) (2 ^ 64 - 1) :=
  Block.rd64_count _ _ _ _ (by decide)

theorem Block.rd64_dropPrefetch_pageIn (b : Block) (c : Fin 128) (n k : Nat) :
    (b.dropPrefetch c n k).rd64 (.fet c) Reg.FET_PAGE_IN = b.rd64 (.fet c) Reg.FET_PAGE_IN :=
  Block.rd64_fet_other _ c 1 (by decide) (by decide) (by decide)

theorem Block.cores_requestPageIn (b : Block) (v : Nat) (why : MoveWhy) (owner : Option Nat) :
    (b.requestPageIn v why owner).cores = b.cores := by
  unfold Block.requestPageIn
  (repeat' split) <;> rfl

/-- Whether or not a page is asked for, the blocks of the core and the count of those dropped stay. -/
theorem Block.pageAhead_keeps (b : Block) (c : Fin 128) (v : Nat) (ok : Bool) : (b.pageAhead c v ok).cores = b.cores ∧
    (b.pageAhead c v ok).rd64 (.fet c) Reg.FET_PF_DROPPED = b.rd64 (.fet c) Reg.FET_PF_DROPPED := by
  unfold Block.pageAhead
  extract_lets z
  have hz : z.cores = b.cores ∧ z.rd64 (.fet c) Reg.FET_PF_DROPPED = b.rd64 (.fet c) Reg.FET_PF_DROPPED := by
    unfold z
    split
    · exact ⟨b.cores_requestPageIn _ _ _, (b.keepsFetch_requestPageIn _ _ _).rd64 (by decide) rfl⟩
    · exact ⟨rfl, rfl⟩
  split
  · exact hz
  · exact ⟨hz.1, (z.rd64_fet_other c 1 (by decide) (by decide) (by decide)).trans hz.2⟩

theorem Block.pageAhead_barred (b : Block) (c : Fin 128) (v : Nat) : b.pageAhead c v false = b := by
  unfold Block.pageAhead
  simp

/-- With the far tier up and no page on the move, the page is asked for and counted. -/
theorem Block.pageAhead_asks {b : Block} (c : Fin 128) (v : Nat) (hup : b.hbm.farDown = false) (hnone : b.hbm.moves = []) :
    (b.pageAhead c v true).hbm.moves.map (fun m => m.page) = [v] ∧
      (b.pageAhead c v true).rd64 (.fet c) Reg.FET_PAGE_IN = min (b.rd64 (.fet c) Reg.FET_PAGE_IN + 1) (2 ^ 64 - 1) := by
  have hmoves : (b.requestPageIn v .prefetch none).hbm.moves.map (fun m => m.page) = [v] := by
    unfold Block.requestPageIn
    simp [hnone]
  have hlength := congrArg List.length hmoves
  rw [List.length_map, List.length_singleton] at hlength
  unfold Block.pageAhead
  simp only [hup, Bool.not_false, and_self, if_true, hlength, hnone, List.length_nil, Nat.succ_ne_zero, if_false]
  refine ⟨hmoves, ?_⟩
  rw [Block.rd64_count _ _ _ _ (by decide), (b.keepsFetch_requestPageIn v .prefetch none).rd64 (by decide) rfl]

/-! ## A demand -/

/-- A demand that need not wait has changed nothing. -/
theorem Block.demand_snd {b : Block} {t : TaskSt} {l : List (Nat × Nat)} {i : Bool} (h : (b.demand t l i).1 ≠ .wait) :
    (b.demand t l i).2 = b := by
  suffices hfold : (b.demand t l i).1 = .wait ∨ (b.demand t l i).2 = b from hfold.resolve_left h
  unfold Block.demand
  refine List.foldlRecOn (motive := fun st : Ready × Block => st.1 = .wait ∨ st.2 = b) _ _ (.inr rfl) fun st hst r _ => ?_
  rcases hst with hst | hst
  · refine .inl ?_
    rw [hst]
    exact hst
  · split
    · (repeat' split) <;> first | exact .inl rfl | exact .inr hst
    · exact .inr hst

theorem Block.setUrgency_same (b : Block) (c : Fin 128) (id u : Nat) :
    (b.setUrgency c id u).regs = b.regs ∧ (b.setUrgency c id u).mem = b.mem := ⟨rfl, rfl⟩

section Demand

variable {s : State} {c : Fin 128} {port : Fin 4} {q t : TaskSt} {src : Source} {P : Block → Prop} (hr : s.block.running = true)
  (hq : s.block.portTask c port.val = some q) (ht : (s.block.seenBy q).portTask c port.val = some t) (hlist : t.listDone = false)
  (hport : portFor (t.recAt t.pos.1).kind.toNat ((s.block.seenBy q).entryAt t t.pos).src = some port.val)
  (hwrites : (s.block.seenBy q).linkWrites c t ((s.block.seenBy q).descAt t t.pos ((s.block.seenBy q).entryAt t t.pos)) = false)
include hr hq ht hlist hport hwrites

/-- A prefetch on its way becomes a demand. -/
theorem completes_demandFetch_underWay {f : Fetched} (hf : s.block.fetched? c port.val t.serial (posKey t.pos) = some f)
    (harrived : f.arrived = false) (hurgency : f.urgency ≠ 0)
    (hp : P (((s.block.seenBy q).setUrgency c f.id 0).afterStep s.block.posted)) : Completes (.demandFetch c port []) s P := by
  have hf' : (s.block.seenBy q).fetched? c port.val t.serial (posKey t.pos) = some f := hf
  refine completes_engine rfl hr hq ?_ hp
  simp only [Block.portTask_unposted, ht, hlist, Block.entryAt_unposted, hport, Block.descAt_unposted, Block.linkWrites_unposted, hwrites,
    Block.fetched?_unposted, hf', harrived, hurgency, Bool.false_eq_true, ne_eq, not_true_eq_false, or_self, if_false]
  rfl

variable (hf : s.block.fetched? c port.val t.serial (posKey t.pos) = none)
  (hsource : (s.block.seenBy q).source ((s.block.seenBy q).descAt t t.pos ((s.block.seenBy q).entryAt t t.pos))
    ((s.block.seenBy q).entryAt t t.pos) = some src) (hholder : src.holder = 0) (hfits : (s.block.seenBy q).sourceFits src = true)
include hf hsource hholder hfits

/-- A local block that resolves and is reached is requested. -/
theorem completes_demandFetch_requested (hok : ((s.block.seenBy q).demand t src.ranges src.e.pageInOk).1 = .ok)
    (hp : P (((s.block.seenBy q).issue c t port.val t.pos src 0 ((s.block.seenBy q).deadlineOf c t src.e)
      (t.refetch.contains (posKey t.pos))).2.afterStep s.block.posted)) : Completes (.demandFetch c port []) s P := by
  have hf' : (s.block.seenBy q).fetched? c port.val t.serial (posKey t.pos) = none := hf
  have hsame := Block.demand_snd (by rw [hok]; exact nofun)
  refine completes_engine rfl hr hq ?_ hp
  simp only [Block.portTask_unposted, ht, hlist, Block.entryAt_unposted, hport, Block.descAt_unposted, Block.linkWrites_unposted, hwrites,
    Block.fetched?_unposted, hf', Block.source_unposted, hsource, hholder, Block.sourceFits_unposted, hfits, Block.demand_unposted,
    silent_fst, silent_snd, hok, hsame, Bool.false_eq_true, Bool.not_true, ne_eq, not_true_eq_false, or_self, if_false, List.filter_nil,
    List.foldl_nil, Block.issue_unposted, Block.deadlineOf_unposted]

/-- A local block that does not resolve, or is not reached, stops the task. -/
theorem completes_demandFetch_refused {code : Nat} (hcode : ((s.block.seenBy q).demand t src.ranges src.e.pageInOk).1 = .fault code)
    (hp : P (((s.block.seenBy q).faultTask (.core c) t.serial code).afterStep s.block.posted)) :
    Completes (.demandFetch c port []) s P := by
  have hf' : (s.block.seenBy q).fetched? c port.val t.serial (posKey t.pos) = none := hf
  have hsame := Block.demand_snd (by rw [hcode]; exact nofun)
  refine completes_engine rfl hr hq ?_ hp
  simp only [Block.portTask_unposted, ht, hlist, Block.entryAt_unposted, hport, Block.descAt_unposted, Block.linkWrites_unposted, hwrites,
    Block.fetched?_unposted, hf', Block.source_unposted, hsource, hholder, Block.sourceFits_unposted, hfits, Block.demand_unposted,
    silent_fst, silent_snd, hcode, hsame, Bool.false_eq_true, Bool.not_true, ne_eq, not_true_eq_false, or_self, if_false,
    Block.coreFault_unposted]

end Demand

/-- Settles O25: a local block is requested, dropped with or without its page, or stops its task. -/
theorem blocksAreFetched : Obligations.BlocksAreFetched := by
  unfold Obligations.BlocksAreFetched
  refine ⟨fun s c port q t p src => ?_, fun s c port q t src => ?_⟩
  · intro v e x due more meets hr hq ht hnext hchain hwrites hsource hholder htracked hroom hfew
    have hahead : v.Ahead c port.val t false p src := ⟨hnext, hchain, hwrites, hsource, hholder, htracked, hroom, hfew⟩
    have hstep := hahead.prefetchFor
    have hmeets : v.meets t src = meets := rfl
    rw [hmeets] at hstep
    refine ⟨fun hnone hfits => ?_, fun hun => ?_, fun k hk => ?_⟩
    · rw [hnone] at hstep
      replace hstep := hstep.trans (if_neg (by simp [hfits]))
      refine completes_prefetchIssue hr hq ht hahead ?_
      rw [hstep]
      obtain ⟨hblock, hmem, hevt⟩ := v.issue_spec c t port.val p (v.prefetchUrgency due) due false hholder
      exact ⟨hmem, hevt, hblock⟩
    · rw [hun] at hstep
      refine completes_prefetchIssue hr hq ht hahead ?_
      rw [hstep]
      exact ⟨rfl, v.rd64_dropPrefetch c _ _⟩
    · rw [hk] at hstep
      dsimp only at hstep
      refine completes_prefetchIssue hr hq ht hahead ?_
      rw [hstep]
      have hdrop := v.rd64_dropPrefetch c t.serial (posKey p)
      have hpage := v.rd64_dropPrefetch_pageIn c t.serial (posKey p)
      rw [show v.rd64 (.fet c) _ = s.block.rd64 (.fet c) _ from rfl] at hdrop hpage
      have hcores : (v.dropPrefetch c t.serial (posKey p)).cores = s.block.cores := rfl
      have hhbm : (v.dropPrefetch c t.serial (posKey p)).hbm = s.block.hbm := rfl
      generalize v.dropPrefetch c t.serial (posKey p) = y at *
      obtain ⟨hkeep, hcount⟩ := y.pageAhead_keeps c k src.e.pageInOk
      refine ⟨?_, hcount.trans hdrop, fun hbar => ?_, fun hask hup hmoves => ?_⟩
      · exact congrArg (fun k => (Sparse.get (fun _ => CoreSt.empty) k c.val).fetched) (hkeep.trans hcores)
      · rw [hbar, Block.pageAhead_barred]
        exact ⟨hhbm, hpage⟩
      · rw [hask]
        obtain ⟨hpages, hasked⟩ := Block.pageAhead_asks c k (hhbm ▸ hup) (hhbm ▸ hmoves)
        rw [hpage] at hasked
        exact ⟨hpages, hasked⟩
  · intro v p e hr hq ht hb hlist hport hwrites
    refine ⟨fun f hf harrived hurgency => ?_, fun hf hsource hholder hfits => ⟨fun hok => ?_, fun code hcode => ?_⟩⟩
    · refine completes_demandFetch_underWay hr hq ht hlist hport hwrites hf harrived hurgency ?_
      exact ⟨v.fetched_mapFetched c f.id _, v.setUrgency_same c f.id 0⟩
    · refine completes_demandFetch_requested hr hq ht hlist hport hwrites hf hsource hholder hfits hok ?_
      obtain ⟨⟨f, hfetched, hport', hserial, hentry, harrived, -, hurgency⟩, hmem, -⟩ :=
        v.issue_spec c t port.val t.pos 0 (v.deadlineOf c t src.e) (t.refetch.contains (posKey t.pos)) hholder
      exact ⟨hmem, f, hfetched, hport', hserial, hentry, harrived, hurgency⟩
    · refine completes_demandFetch_refused hr hq ht hlist hport hwrites hf hsource hholder hfits hcode ?_
      exact Block.coreFault_stops (t := t) code hb (Block.running_of_port ht)

end Sys2Proof.Machine
end

section
/-! SUPPORT. The slab allocator: what it takes is free, and its run meets no other (R223, R227 to R230). -/

namespace Sys2Proof.Machine

open Sys2Proof

/-! ## Slabs taken -/

/-- Slabs taken are free, and of those looked at. -/
theorem of_mem_takeSlabs {free : Nat → Bool} {fuel s n j : Nat} (h : j ∈ takeSlabs free fuel s n) :
    free j = true ∧ s ≤ j ∧ j < s + fuel := by
  induction fuel generalizing s n with
  | zero => cases h
  | succ f ih =>
    cases n with
    | zero => cases h
    | succ n =>
      unfold takeSlabs at h
      split at h
      · next hs =>
        rcases List.mem_cons.1 h with rfl | h
        · exact ⟨hs, by omega, by omega⟩
        · obtain ⟨hfree, hlo, hhi⟩ := ih h
          exact ⟨hfree, by omega, by omega⟩
      · obtain ⟨hfree, hlo, hhi⟩ := ih h
        exact ⟨hfree, by omega, by omega⟩

theorem nodup_takeSlabs (free : Nat → Bool) (fuel s n : Nat) : (takeSlabs free fuel s n).Nodup := by
  induction fuel generalizing s n with
  | zero => exact List.nodup_nil
  | succ f ih =>
    cases n with
    | zero => exact List.nodup_nil
    | succ n =>
      unfold takeSlabs
      split
      · refine List.nodup_cons.2 ⟨fun h => ?_, ih _ _⟩
        obtain ⟨-, hlo, -⟩ := of_mem_takeSlabs h
        omega
      · exact ih _ _

theorem length_takeSlabs_le (free : Nat → Bool) (fuel s n : Nat) : (takeSlabs free fuel s n).length ≤ n := by
  induction fuel generalizing s n with
  | zero => exact Nat.zero_le _
  | succ f ih =>
    cases n with
    | zero => exact Nat.le_refl _
    | succ n =>
      unfold takeSlabs
      split
      · exact Nat.succ_le_succ (ih _ _)
      · exact ih _ _

theorem sliceSlabs_le (on : Bool) : sliceSlabs on ≤ 8192 := by
  unfold sliceSlabs
  split <;> omega

/-- Slabs picked from slices that differ: free, each once, and no more than asked for. -/
theorem Block.pickSlabs_spec (b : Block) (t : Fin 16) {order : List Nat} (n : Nat) (ho : order.Nodup) :
    (b.pickSlabs t order n).Nodup ∧ (b.pickSlabs t order n).length ≤ n ∧
      ∀ j ∈ b.pickSlabs t order n, (b.tile t.val).slabFree j = true := by
  unfold Block.pickSlabs
  suffices hfold : ∀ (l : List Nat), (∀ j ∈ l, j / 8192 ∉ order) → l.Nodup → l.length ≤ n → (∀ j ∈ l, (b.tile t.val).slabFree j = true) →
      let r := order.foldl (fun l c => l ++ takeSlabs (b.tile t.val).slabFree (sliceSlabs (b.sliceOn t c)) (8192 * c) (n - l.length)) l
      r.Nodup ∧ r.length ≤ n ∧ ∀ j ∈ r, (b.tile t.val).slabFree j = true from
    hfold [] (by simp) List.nodup_nil (Nat.zero_le _) (by simp)
  induction order with
  | nil => exact fun l _ hnodup hlen hfree => ⟨hnodup, hlen, hfree⟩
  | cons c order ih =>
    intro l hout hnodup hlen hfree
    obtain ⟨hc, ho⟩ := List.nodup_cons.1 ho
    have htaken : ∀ j ∈ takeSlabs (b.tile t.val).slabFree (sliceSlabs (b.sliceOn t c)) (8192 * c) (n - l.length),
        (b.tile t.val).slabFree j = true ∧ j / 8192 = c := fun j hj => by
      obtain ⟨hj, hlo, hhi⟩ := of_mem_takeSlabs hj
      have := sliceSlabs_le (b.sliceOn t c)
      exact ⟨hj, by omega⟩
    refine ih ho _ (fun j hj => ?_) (List.nodup_append.2 ⟨hnodup, nodup_takeSlabs _ _ _ _, fun i hi j hj e => ?_⟩) ?_ (fun j hj => ?_)
    · rcases List.mem_append.1 hj with hj | hj
      · exact fun h => hout j hj (List.mem_cons_of_mem _ h)
      · rw [(htaken j hj).2]
        exact hc
    · exact hout i hi (by rw [e, (htaken j hj).2]; exact List.mem_cons_self)
    · rw [List.length_append]
      have := length_takeSlabs_le (b.tile t.val).slabFree (sliceSlabs (b.sliceOn t c)) (8192 * c) (n - l.length)
      omega
    · rcases List.mem_append.1 hj with hj | hj
      · exact hfree j hj
      · exact (htaken j hj).1

theorem nodup_sliceOrder (home : Nat) (spread : Bool) : (sliceOrder home spread).Nodup := by
  unfold sliceOrder
  refine List.nodup_cons.2 ⟨?_, ?_⟩
  · split
    · simp
    · exact List.not_mem_nil
  · split
    · exact List.nodup_range.filter _
    · exact List.nodup_nil

/-! ## The run of slab addresses -/

/-- The smallest of a list is in it. -/
theorem mem_of_foldl_min {l : List Nat} {m : Option Nat} {k : Nat} (h : l.foldl (fun m k => match m with
    | none => some k
    | some j => some (min j k)) m = some k) : m = some k ∨ k ∈ l := by
  induction l generalizing m with
  | nil => exact .inl h
  | cons a l ih =>
    rcases ih h with h | h
    · cases m with
      | none =>
        obtain rfl := Option.some.inj h
        exact .inr List.mem_cons_self
      | some j =>
        have hmin : min j a = k := Option.some.inj h
        rcases Nat.le_total j a with hle | hle
        · exact .inl (by rw [← hmin, Nat.min_eq_left hle])
        · exact .inr (by rw [← hmin, Nat.min_eq_right hle]; exact List.mem_cons_self)
    · exact .inr (List.mem_cons_of_mem _ h)

/-- A free run meets no allocation's, and lies in the allocation space. -/
theorem TileSt.findRun_spec {x : TileSt} {n k : Nat} (h : x.findRun n = some k) : k + n ≤ 0x1C000 ∧
    ∀ a ∈ x.allocs, k + n ≤ a.base ∨ a.base + a.slabs.length ≤ k := by
  unfold TileSt.findRun at h
  have hmem := (mem_of_foldl_min h).resolve_left nofun
  obtain ⟨hspace, hapart⟩ := Bool.and_eq_true_iff.1 (List.mem_filter.1 hmem).2
  exact ⟨of_decide_eq_true hspace, by simpa only [List.all_eq_true, Bool.or_eq_true, decide_eq_true_eq] using hapart⟩

/-! ## An allocation made -/

/-- Of the allocations of a tile no two share a slab or an address, and none holds a retired slab, one twice, or an address beyond the
space. -/
def TileSt.apart (x : TileSt) : Prop :=
  x.allocs.Pairwise (fun a a' => (∀ j ∈ a.slabs, j ∉ a'.slabs) ∧
    (a.base + a.slabs.length ≤ a'.base ∨ a'.base + a'.slabs.length ≤ a.base)) ∧
  ∀ a ∈ x.allocs, a.slabs.Nodup ∧ (∀ j ∈ a.slabs, j ∉ x.retired) ∧ a.base + a.slabs.length ≤ 0x1C000

/-- An allocation of free slabs on a free run is apart from the others. -/
theorem TileSt.apart_append {x y : TileSt} {a : SramAlloc} (hx : x.apart) (hy : y.allocs = x.allocs ++ [a]) (hr : y.retired = x.retired)
    (hnodup : a.slabs.Nodup) (hfree : ∀ j ∈ a.slabs, x.slabFree j = true) (hrun : x.findRun a.slabs.length = some a.base) : y.apart := by
  obtain ⟨hpair, heach⟩ := hx
  obtain ⟨hspace, hapart⟩ := TileSt.findRun_spec hrun
  have hslab : ∀ j ∈ a.slabs, j ∉ x.retired ∧ ∀ z ∈ x.allocs, j ∉ z.slabs := fun j hj => by
    have hj := hfree j hj
    simp only [TileSt.slabFree, Bool.and_eq_true, Bool.not_eq_true', List.contains_eq_mem, decide_eq_false_iff_not, List.any_eq_false,
      decide_eq_true_eq] at hj
    exact hj
  refine ⟨?_, fun z hz => ?_⟩
  · rw [hy]
    refine List.pairwise_append.2 ⟨hpair, List.pairwise_singleton _ _, fun z hz w hw => ?_⟩
    obtain rfl := List.mem_singleton.1 hw
    exact ⟨fun j hj hjw => (hslab j hjw).2 z hz hj, (hapart z hz).symm⟩
  · rw [hy] at hz
    rw [hr]
    rcases List.mem_append.1 hz with hz | hz
    · exact heach z hz
    · obtain rfl := List.mem_singleton.1 hz
      exact ⟨hnodup, fun j hj => (hslab j hj).1, hspace⟩

/-- What an allocation makes of its tile. -/
structure Block.Allocates (b : Block) (t : Fin 16) (k : AllocKind) (n base g : Nat) (y : Block) : Prop where
  made : ∃ (a : SramAlloc) (gens : Sparse Nat) (v : Nat),
    y = (b.setTile t.val { b.tile t.val with allocs := (b.tile t.val).allocs ++ [a], gens := gens }).wrN (.tile t) Reg.TILE_ALLOC_FREE v ∧
    a.base = base ∧ a.slabs.length = n ∧ a.kind = k ∧ a.gen = g ∧ a.freed = false
  apart : (b.tile t.val).apart → (y.tile t.val).apart
  space : base + n ≤ 0x1C000

theorem Block.slabAlloc_spec {b y : Block} {t : Fin 16} {k : AllocKind} {home : Nat} {spread : Bool} {n base g : Nat}
    (h : b.slabAlloc t k (sliceOrder home spread) n = some (base, g, y)) : b.Allocates t k n base g y := by
  obtain ⟨hnodup, hle, hfree⟩ := b.pickSlabs_spec t n (nodup_sliceOrder home spread)
  unfold Block.slabAlloc at h
  dsimp only at h
  split at h
  · cases h
  · split at h
    · cases h
    · next run hrun =>
      split at h
      · cases h
      · next hlen =>
        have hn : (b.pickSlabs t (sliceOrder home spread) n).length = n := Nat.le_antisymm hle (Nat.not_lt.1 hlen)
        cases h
        refine ⟨⟨_, _, _, rfl, rfl, hn, rfl, rfl, rfl⟩, fun hx => ?_, (TileSt.findRun_spec hrun).1⟩
        refine TileSt.apart_append hx (congrArg TileSt.allocs (b.tile_setTile_self t.val _)) ?_ hnodup hfree ((congrArg _ hn).trans hrun)
        show (Block.tile (Block.setTile _ _ _) _).retired = _
        rw [Block.tile_setTile_self]

/-! ## The generations of a freed allocation -/

/-- Numbers put at a run of places, one after the other. -/
theorem get_foldl_put_run (f : Nat → Nat) (k n : Nat) (m : Sparse Nat) :
    (∀ i < n, Sparse.get (fun _ => 0) ((List.range n).foldl (fun m i =>
      Sparse.put (fun _ => 0) m (k + i) (f (Sparse.get (fun _ => 0) m (k + i)))) m) (k + i) = f (Sparse.get (fun _ => 0) m (k + i))) ∧
    ∀ j, j < k ∨ k + n ≤ j → Sparse.get (fun _ => 0) ((List.range n).foldl (fun m i =>
      Sparse.put (fun _ => 0) m (k + i) (f (Sparse.get (fun _ => 0) m (k + i)))) m) j = Sparse.get (fun _ => 0) m j := by
  induction n with
  | zero => exact ⟨nofun, fun _ _ => rfl⟩
  | succ n ih =>
    obtain ⟨hin, hout⟩ := ih
    simp only [List.range_succ, List.foldl_append, List.foldl_cons, List.foldl_nil]
    refine ⟨fun i hi => ?_, fun j hj => ?_⟩
    · rcases Nat.lt_or_ge i n with h | h
      · rw [Sparse.get_put_other _ _ _ (by omega), hin i h]
      · obtain rfl : i = n := by omega
        rw [Sparse.get_put_self, hout _ (by omega)]
    · rw [Sparse.get_put_other _ _ _ (by omega), hout j (by omega)]

end Sys2Proof.Machine
end

section
/-! PROOF. ALLOC, FREE, the return of slabs, TILE_OC_INV and corrected words (R223 to R230, R243). -/

namespace Sys2Proof.Machine

open Sys2Proof

theorem Block.Entered.tiles {a b : Block} (h : a.Entered b) : b.tiles = a.tiles := by
  unfold Block.Entered at h
  rw [h]

theorem Block.tile_of_tiles {a b : Block} (h : b.tiles = a.tiles) (t : Nat) : b.tile t = a.tile t := by
  unfold Block.tile
  rw [h]

theorem Block.tile_wrN (b : Block) (p : Page) (o v t : Nat) : (b.wrN p o v).tile t = b.tile t := rfl
theorem Block.tile_wr64 (b : Block) (p : Page) (o v t : Nat) : (b.wr64 p o v).tile t = b.tile t := rfl

/-- What the end of an allocator command leaves: its answer, the tile, the other words, and an event only where it is refused. -/
theorem Block.allocResult_spec (b : Block) (t : Fin 16) (code : Nat) : (b.allocResult t code).tiles = b.tiles ∧
    (b.allocResult t code).rd (.tile t) Reg.TILE_ALLOC_STAT = BitVec.ofNat 32 code ∧
    (∀ o < 4096, o ≠ Reg.TILE_ALLOC_STAT → (b.allocResult t code).rd (.tile t) o = b.rd (.tile t) o) ∧
    (code ≠ 0 → (b.allocResult t code).evtCount code = satAdd64 (b.evtCount code) 1) := by
  have hself := b.rd_wr_self (.tile t) Reg.TILE_ALLOC_STAT (BitVec.ofNat 32 code)
  have hother : ∀ o < 4096, o ≠ Reg.TILE_ALLOC_STAT → (b.wrN (.tile t) Reg.TILE_ALLOC_STAT code).rd (.tile t) o = b.rd (.tile t) o :=
    fun o ho hne => b.rd_wrN_other code (by decide) ho (.inr hne)
  unfold Block.allocResult
  dsimp only
  split
  · next h0 => exact ⟨rfl, hself, hother, fun h => absurd h0 h⟩
  · exact ⟨rfl, hself, hother, fun _ => by rw [Block.post_evtCount, if_pos rfl]; rfl⟩

/-! ## ALLOC -/

theorem Block.slabAlloc_unposted (b : Block) (t : Fin 16) (k : AllocKind) (order : List Nat) (n : Nat) :
    b.unposted.slabAlloc t k order n = (b.slabAlloc t k order n).map (fun r => (r.1, r.2.1, r.2.2.unposted)) := by
  have hpick : b.unposted.pickSlabs t order n = b.pickSlabs t order n := rfl
  unfold Block.slabAlloc
  rw [hpick, Block.tile_unposted]
  dsimp only
  (repeat' split) <;> rfl

/-- The words of a tile's page that a write with a side effect leaves as the effect made them. -/
theorem Block.Logged.rd_tile {a b : Block} (h : a.Logged b) (t : Fin 16) {o : Nat} (ho : o < 4096) (hne : o ≠ Reg.CHANGE_SEQ) :
    b.rd (.tile t) o = a.rd (.tile t) o := h.1 _ _ ho (sideWord_tile t hne)

theorem Block.Logged.tile {a b : Block} (h : a.Logged b) (t : Nat) : b.tile t = a.tile t := by
  obtain ⟨-, -, hent, -⟩ := h
  exact Block.tile_of_tiles hent.tiles t

/-- A refusal of the allocator: the answer and its event, and no allocation changes. -/
theorem Block.Logged.allocRefused {a b : Block} {t : Fin 16} {code : Nat} (h : (a.unposted.allocResult t code).Logged b) (h0 : code ≠ 0)
    (hfull : code ≠ Ev.LOG_FULL) : b.tile t.val = a.tile t.val ∧ b.rd (.tile t) Reg.TILE_ALLOC_STAT = BitVec.ofNat 32 code ∧
      b.evtCount code = satAdd64 (a.evtCount code) 1 := by
  obtain ⟨htiles, hstat, -, hevt⟩ := a.unposted.allocResult_spec t code
  refine ⟨?_, (h.rd_tile t (by decide) (by decide)).trans hstat, (h.2.1 _ hfull).trans (hevt h0)⟩
  rw [h.tile, Block.tile_of_tiles htiles, Block.tile_unposted]

section Alloc

variable {s : State} {o : Origin} {t : Fin 16} {k : AllocKind} (ht : s.takes o (.tile t) Reg.TILE_ALLOC_CMD = true)
  (hkind : allocKind? (wfield (s.block.rd (.tile t) Reg.TILE_ALLOC_REQ) 1 0) = some k)
  (hpos : 0 < s.block.rdN (.tile t) Reg.TILE_ALLOC_SIZE) (hmax : s.block.rdN (.tile t) Reg.TILE_ALLOC_SIZE ≤ 65536)
  (hroom : (s.block.tile t.val).allocs.length < 4096) (hqueue : (s.block.tile t.val).shadowQ = [])
include ht hkind hpos hmax hroom hqueue

/-- ALLOC, its fields in order, comes to the answer of the allocator. -/
theorem completes_tileAlloc {P : Block → Prop} (hp : ∀ b : Block, ((match s.block.slabAlloc t k
      (sliceOrder (wfield (s.block.rd (.tile t) Reg.TILE_ALLOC_REQ) 18 16) (wbit (s.block.rd (.tile t) Reg.TILE_ALLOC_REQ) 19))
      (s.block.rdN (.tile t) Reg.TILE_ALLOC_SIZE) with
    | none => s.block.unposted.allocResult t Ev.ALLOC_NO_SPACE
    | some (base, g, y) => ((y.unposted.wr64 (.tile t) Reg.TILE_ALLOC_ADDR_LO (t.val * 2 ^ 33 + base * 65536)).wrN (.tile t)
        Reg.TILE_ALLOC_GEN g).allocResult t 0) : Block).Logged b → P b) : Completes (.tileAlloc o t) s P := by
  refine completes_takes (eff := fun x => x.allocCmd t) rfl ht fun b hb => hp b ?_
  have hrd : ∀ r, s.block.unposted.rd (.tile t) r = s.block.rd (.tile t) r := fun _ => rfl
  have hrdN : ∀ r, s.block.unposted.rdN (.tile t) r = s.block.rdN (.tile t) r := fun _ => rfl
  have hfull : ¬ maxAllocs ≤ (s.block.tile t.val).allocs.length := Nat.not_le.2 hroom
  have hsize : ¬ (s.block.rdN (.tile t) Reg.TILE_ALLOC_SIZE = 0 ∨ 65536 < s.block.rdN (.tile t) Reg.TILE_ALLOC_SIZE) := by omega
  unfold Block.allocCmd at hb
  simp only [hrd, hrdN, Block.tile_unposted, hkind, hsize, hfull, hqueue, if_false, List.isEmpty_nil, Bool.not_true, Bool.false_eq_true,
    Block.slabAlloc_unposted] at hb
  cases hs : s.block.slabAlloc t k
    (sliceOrder (wfield (s.block.rd (.tile t) Reg.TILE_ALLOC_REQ) 18 16) (wbit (s.block.rd (.tile t) Reg.TILE_ALLOC_REQ) 19))
    (s.block.rdN (.tile t) Reg.TILE_ALLOC_SIZE) with
  | none =>
    rw [hs] at hb
    exact hb
  | some r =>
    rw [hs] at hb
    exact hb

/-- An allocation made: its address and generation, and the tile with it. -/
theorem completes_tileAlloc_made {base g : Nat} {y : Block} (hy : s.block.slabAlloc t k
      (sliceOrder (wfield (s.block.rd (.tile t) Reg.TILE_ALLOC_REQ) 18 16) (wbit (s.block.rd (.tile t) Reg.TILE_ALLOC_REQ) 19))
      (s.block.rdN (.tile t) Reg.TILE_ALLOC_SIZE) = some (base, g, y)) :
    Completes (.tileAlloc o t) s (fun b => b.rd64 (.tile t) Reg.TILE_ALLOC_ADDR_LO = t.val * 2 ^ 33 + base * 65536 ∧
      b.rd (.tile t) Reg.TILE_ALLOC_STAT = 0 ∧ b.rd (.tile t) Reg.TILE_ALLOC_GEN = BitVec.ofNat 32 g ∧ b.tile t.val = y.tile t.val) := by
  refine completes_tileAlloc ht hkind hpos hmax hroom hqueue fun b hb => ?_
  rw [hy] at hb
  dsimp only at hb
  have hspace := (Block.slabAlloc_spec hy).space
  generalize haddr : t.val * 2 ^ 33 + base * 65536 = a at hb ⊢
  generalize hz : (y.unposted.wr64 (.tile t) Reg.TILE_ALLOC_ADDR_LO a).wrN (.tile t) Reg.TILE_ALLOC_GEN g = z at hb
  obtain ⟨htiles, hstat, hother, -⟩ := z.allocResult_spec t 0
  have hword : ∀ r < 4096, r ≠ Reg.CHANGE_SEQ → r ≠ Reg.TILE_ALLOC_STAT → b.rd (.tile t) r = z.rd (.tile t) r :=
    fun r hr hseq hne => (hb.rd_tile t hr hseq).trans (hother r hr hne)
  have hgen : z.rd (.tile t) Reg.TILE_ALLOC_GEN = BitVec.ofNat 32 g := by
    rw [← hz]
    exact Block.rd_wr_self _ _ _ _
  have hpair : z.rd64 (.tile t) Reg.TILE_ALLOC_ADDR_LO = a := by
    rw [← hz, Block.rd64_other _ (Block.rd_wrN_other _ _ (by decide) (by decide) (.inr (by decide)))
      (Block.rd_wrN_other _ _ (by decide) (by decide) (.inr (by decide))), Block.rd64_wr64 _ _ _ _ (by decide)]
    exact Nat.mod_eq_of_lt (by omega)
  refine ⟨?_, (hb.rd_tile t (by decide) (by decide)).trans hstat, (hword _ (by decide) (by decide) (by decide)).trans hgen, ?_⟩
  · exact (Block.rd64_other _ (hword _ (by decide) (by decide) (by decide)) (hword _ (by decide) (by decide) (by decide))).trans hpair
  · rw [hb.tile, Block.tile_of_tiles htiles, ← hz, Block.tile_wrN, Block.tile_wr64, Block.tile_unposted]

/-- Without room the request is refused. -/
theorem completes_tileAlloc_full (hnone : s.block.slabAlloc t k
      (sliceOrder (wfield (s.block.rd (.tile t) Reg.TILE_ALLOC_REQ) 18 16) (wbit (s.block.rd (.tile t) Reg.TILE_ALLOC_REQ) 19))
      (s.block.rdN (.tile t) Reg.TILE_ALLOC_SIZE) = none) :
    Completes (.tileAlloc o t) s (fun b => b.tile t.val = s.block.tile t.val ∧
      b.rd (.tile t) Reg.TILE_ALLOC_STAT = BitVec.ofNat 32 Ev.ALLOC_NO_SPACE ∧
      b.evtCount Ev.ALLOC_NO_SPACE = satAdd64 (s.block.evtCount Ev.ALLOC_NO_SPACE) 1) := by
  refine completes_tileAlloc ht hkind hpos hmax hroom hqueue fun b hb => ?_
  rw [hnone] at hb
  exact hb.allocRefused (by decide) (by decide)

end Alloc

/-! ## FREE -/

/-- A tile with an allocation marked as freed, and the generations of its slabs advanced (R99, R230). -/
def TileSt.freed (x : TileSt) (y : SramAlloc) : TileSt :=
  { x with
    allocs := x.allocs.map (fun z => if z.base = y.base then { z with freed := true } else z)
    gens := (List.range y.slabs.length).foldl (fun m i =>
      Sparse.put (fun _ => 0) m (y.base + i) ((Sparse.get (fun _ => 0) m (y.base + i) + 1) % 2 ^ 16)) x.gens }

/-- The allocation that FREE names. -/
def Block.freeFound (b : Block) (t : Fin 16) : Option SramAlloc :=
  (b.tile t.val).allocs.find? (fun y => !y.freed && decide (y.kind ≠ .shadow) &&
    decide (t.val * 2 ^ 33 + y.base * 65536 = b.rd64 (.tile t) Reg.TILE_ALLOC_ADDR_LO))

theorem Block.freeCmd_tile {b : Block} {t : Fin 16} {y : SramAlloc} (h : b.freeFound t = some y) :
    (b.freeCmd t).tile t.val = (b.tile t.val).freed y ∧ (b.freeCmd t).rd (.tile t) Reg.TILE_ALLOC_STAT = 0 := by
  unfold Block.freeFound at h
  unfold Block.freeCmd
  dsimp only
  rw [h]
  dsimp only
  generalize hx : Block.bumpGens _ t y.base y.slabs.length = x
  have htile : x.tile t.val = (b.tile t.val).freed y := by
    rw [← hx]
    unfold Block.bumpGens
    dsimp only
    rw [Block.tile_setTile_self, Block.tile_setTile_self]
    rfl
  obtain ⟨htiles, hstat, -, -⟩ :=
    (x.wrN (.tile t) Reg.TILE_ALLOC_GEN (Sparse.get (fun _ => 0) (x.tile t.val).gens y.base)).allocResult_spec t 0
  exact ⟨by rw [Block.tile_of_tiles htiles, Block.tile_wrN, htile], hstat⟩

theorem completes_tileFree {s : State} {o : Origin} {t : Fin 16} {y : SramAlloc} (ht : s.takes o (.tile t) Reg.TILE_ALLOC_CMD = true)
    (hy : s.block.freeFound t = some y) :
    Completes (.tileFree o t) s (fun b => b.rd (.tile t) Reg.TILE_ALLOC_STAT = 0 ∧ b.tile t.val = (s.block.tile t.val).freed y) := by
  refine completes_takes (eff := fun x => x.freeCmd t) rfl ht fun b hb => ?_
  obtain ⟨htile, hstat⟩ := Block.freeCmd_tile (show s.block.unposted.freeFound t = some y from hy)
  exact ⟨(hb.rd_tile t (by decide) (by decide)).trans hstat, (hb.tile _).trans htile⟩

/-- An address that begins no allocation is refused. -/
theorem completes_tileFree_bad {s : State} {o : Origin} {t : Fin 16} (ht : s.takes o (.tile t) Reg.TILE_ALLOC_CMD = true)
    (hnone : s.block.freeFound t = none) :
    Completes (.tileFree o t) s (fun b => b.tile t.val = s.block.tile t.val ∧
      b.rd (.tile t) Reg.TILE_ALLOC_STAT = BitVec.ofNat 32 Ev.ALLOC_BAD_FREE ∧
      b.evtCount Ev.ALLOC_BAD_FREE = satAdd64 (s.block.evtCount Ev.ALLOC_BAD_FREE) 1) := by
  have hcmd : s.block.unposted.freeCmd t = s.block.unposted.allocResult t Ev.ALLOC_BAD_FREE := by
    have hfind : s.block.unposted.freeFound t = none := hnone
    unfold Block.freeFound at hfind
    unfold Block.freeCmd
    dsimp only
    rw [hfind]
  refine completes_takes (eff := fun x => x.freeCmd t) rfl ht fun b hb => ?_
  rw [hcmd] at hb
  exact hb.allocRefused (by decide) (by decide)

/-! ## The return of slabs -/

/-- Slabs of which none was found bad return to the pool: TILE_ALLOC_FREE counts them, and nothing else changes. -/
theorem Block.giveBack_spec {b : Block} {t : Fin 16} (base : Nat) {slabs : List Nat} (hbad : (b.tile t.val).bad = [])
    (hcount : b.rdN (.tile t) Reg.TILE_ALLOC_FREE + slabs.length < 2 ^ 32) :
    b.giveBack t base slabs = { b with regs := (b.giveBack t base slabs).regs } ∧
      (b.giveBack t base slabs).rdN (.tile t) Reg.TILE_ALLOC_FREE = b.rdN (.tile t) Reg.TILE_ALLOC_FREE + slabs.length := by
  suffices hfold : ∀ (l : List (Nat × Nat)) (x : Block), (x.tile t.val).bad = [] →
      x.rdN (.tile t) Reg.TILE_ALLOC_FREE + l.length < 2 ^ 32 →
      let r := l.foldl (fun y p => if (y.tile t.val).bad.contains p.1 then y.retireSlab t p.1 (t.val * 2 ^ 33 + (base + p.2) * 65536)
        else y.wrN (.tile t) Reg.TILE_ALLOC_FREE (y.rdN (.tile t) Reg.TILE_ALLOC_FREE + 1)) x
      r = { x with regs := r.regs } ∧ r.rdN (.tile t) Reg.TILE_ALLOC_FREE = x.rdN (.tile t) Reg.TILE_ALLOC_FREE + l.length by
    have h := hfold slabs.zipIdx b hbad (by rwa [List.length_zipIdx])
    rwa [List.length_zipIdx] at h
  intro l
  induction l with
  | nil => exact fun x _ _ => ⟨rfl, rfl⟩
  | cons p l ih =>
    intro x hx hlt
    rw [List.length_cons] at hlt
    have hstep : (x.wrN (.tile t) Reg.TILE_ALLOC_FREE (x.rdN (.tile t) Reg.TILE_ALLOC_FREE + 1)).rdN (.tile t) Reg.TILE_ALLOC_FREE =
        x.rdN (.tile t) Reg.TILE_ALLOC_FREE + 1 := by
      rw [Block.rdN_wrN_self]
      exact Nat.mod_eq_of_lt (by omega)
    simp only [List.foldl_cons, hx, List.contains_nil, Bool.false_eq_true, if_false]
    obtain ⟨hsame, hrd⟩ := ih (x.wrN (.tile t) Reg.TILE_ALLOC_FREE (x.rdN (.tile t) Reg.TILE_ALLOC_FREE + 1)) hx (by omega)
    exact ⟨hsame, by rw [hrd, hstep, List.length_cons]; omega⟩

section Return

variable {s : State} {t : Fin 16} {base : Nat} {a : SramAlloc} (hr : s.block.running = true)
  (ha : (s.block.tile t.val).allocs.find? (fun a => a.freed && a.base == base) = some a)
include hr ha

/-- Slabs that something still uses stay. -/
theorem exec_slabReturn_used (hused : s.block.stillUsed (t.val * 2 ^ 33 + base * 65536) (a.slabs.length * 65536) = true) :
    exec (.slabReturn t base) s = .next s := by
  have hstay : slabReturn t base s.block.unposted = s.block.unposted := by
    have hused' : s.block.unposted.stillUsed (t.val * 2 ^ 33 + base * 65536) (a.slabs.length * 65536) = true := hused
    unfold slabReturn
    rw [Block.tile_unposted, ha]
    dsimp only
    rw [if_pos hused']
  have hcycle := Block.cycle_of_unposted hstay rfl
  exact (State.onBlock_next s _ hr).trans (by rw [hcycle]; rfl)

/-- Slabs that nothing uses return to the pool. -/
theorem completes_slabReturn (hone : ∀ z ∈ (s.block.tile t.val).allocs, z.base = base → z = a) (hbad : (s.block.tile t.val).bad = [])
    (hunused : s.block.stillUsed (t.val * 2 ^ 33 + base * 65536) (a.slabs.length * 65536) = false)
    (hcount : s.block.rdN (.tile t) Reg.TILE_ALLOC_FREE + a.slabs.length < 2 ^ 32) :
    Completes (.slabReturn t base) s (fun b => b.mem = s.block.mem ∧
      b.tile t.val = { s.block.tile t.val with allocs := (s.block.tile t.val).allocs.filter (fun y => y.base != base) } ∧
      b.rdN (.tile t) Reg.TILE_ALLOC_FREE = s.block.rdN (.tile t) Reg.TILE_ALLOC_FREE + a.slabs.length) := by
  have hbase : a.base = base := by
    have hfound := List.find?_some ha
    simp only [Bool.and_eq_true, beq_iff_eq] at hfound
    exact hfound.2
  have hfirst : (s.block.tile t.val).allocs.find? (fun a => a.base == base) = some a := by
    cases hf : (s.block.tile t.val).allocs.find? (fun a => a.base == base) with
    | none => exact absurd (List.find?_eq_none.1 hf a (List.mem_of_find?_eq_some ha)) (by simp [hbase])
    | some z =>
      rw [hone z (List.mem_of_find?_eq_some hf) (by simpa using List.find?_some hf)]
  generalize hx : s.block.unposted.setTile t.val
    { s.block.tile t.val with allocs := (s.block.tile t.val).allocs.filter (fun y => y.base != base) } = x
  have htile : x.tile t.val = { s.block.tile t.val with allocs := (s.block.tile t.val).allocs.filter (fun y => y.base != base) } := by
    rw [← hx]
    exact s.block.unposted.tile_setTile_self t.val _
  have hstep : slabReturn t base s.block.unposted = x.giveBack t base a.slabs := by
    have hunused' : s.block.unposted.stillUsed (t.val * 2 ^ 33 + base * 65536) (a.slabs.length * 65536) = false := hunused
    unfold slabReturn Block.dropAlloc
    rw [Block.tile_unposted, ha]
    dsimp only
    rw [hunused', hfirst, ← hx]
    rfl
  have hfree : x.rdN (.tile t) Reg.TILE_ALLOC_FREE = s.block.rdN (.tile t) Reg.TILE_ALLOC_FREE := by
    rw [← hx]
    rfl
  obtain ⟨hsame, hrd⟩ := x.giveBack_spec base (slabs := a.slabs) (by rw [htile]; exact hbad) (by rw [hfree]; exact hcount)
  have hposted : (x.giveBack t base a.slabs).posted = [] := by rw [hsame, ← hx]; rfl
  refine completes_quiet rfl hr hstep hposted ⟨?_, ?_, hrd.trans (by rw [hfree])⟩
  · show (x.giveBack t base a.slabs).mem = s.block.mem
    rw [hsame, ← hx]
    rfl
  · exact (Block.tile_of_tiles (by rw [hsame]) t.val).trans htile

end Return

/-- A slab of no allocation that stays, and not retired, is free. -/
theorem TileSt.slabFree_filter {x : TileSt} {base j : Nat} (hother : ∀ z ∈ x.allocs, z.base ≠ base → j ∉ z.slabs) (hr : j ∉ x.retired) :
    ({ x with allocs := x.allocs.filter (fun y => y.base != base) } : TileSt).slabFree j = true := by
  unfold TileSt.slabFree
  simp only [Bool.and_eq_true, Bool.not_eq_true', List.contains_eq_mem, decide_eq_false_iff_not, List.any_eq_false, decide_eq_true_eq,
    List.mem_filter, bne_iff_ne]
  exact ⟨hr, fun z hz => hother z hz.1 hz.2⟩

/-! ## The operand cache and corrected words -/

theorem completes_tileOcInv {s : State} {o : Origin} {t : Fin 16} {v : Word} (ht : s.takes o (.tile t) Reg.TILE_OC_INV = true) :
    Completes (.tileOcInv o t v) s (fun b =>
      b.tile t.val = { s.block.tile t.val with oc := if wbit v 0 then [] else (s.block.tile t.val).oc } ∧
      ∀ u, u ≠ t.val → b.tile u = s.block.tile u) := by
  refine completes_takes (eff := fun x => if wbit v 0 then x.ocFlush t.val else x) rfl ht fun b hb => ?_
  cases hv : wbit v 0 with
  | false =>
    rw [hv] at hb
    exact ⟨hb.tile _, fun u _ => hb.tile u⟩
  | true =>
    rw [hv, if_pos rfl] at hb
    refine ⟨(hb.tile _).trans (s.block.unposted.tile_setTile_self t.val _), fun u hu => (hb.tile u).trans ?_⟩
    exact (s.block.unposted.tile_setTile t.val u _).trans (if_neg hu)

/-- A corrected word of a tile counts there, and nothing else changes. -/
theorem completes_sramCeWriteback {s : State} {t : Fin 16} {a : DWord} (hr : s.block.running = true) (ha : a.toNat / 2 ^ 33 = t.val) :
    Completes (.sramCeWriteback t a) s (fun b => b.mem = s.block.mem ∧ b.tiles = s.block.tiles ∧
      b.rd64 (.tile t) Reg.TILE_SRAM_CE = min (s.block.rd64 (.tile t) Reg.TILE_SRAM_CE + 1) (2 ^ 64 - 1)) := by
  have htile : tileFin (a.toNat / 2 ^ 33) = t := Fin.ext (by rw [ha]; exact Nat.mod_eq_of_lt t.isLt)
  have hsram : a.toNat < hbmBase := by
    have := t.isLt
    unfold hbmBase
    omega
  have hstep : sramCeWriteback t a s.block.unposted = s.block.unposted.count (.tile t) Reg.TILE_SRAM_CE 1 := by
    unfold sramCeWriteback Block.correctedWord
    rw [if_pos ha, if_pos hsram, htile]
  refine completes_quiet rfl hr hstep rfl ⟨rfl, rfl, ?_⟩
  exact s.block.unposted.rd64_count (.tile t) Reg.TILE_SRAM_CE 1 (by decide)

/-- Settles O35: an allocation takes free slabs and a free run; each command of the allocator leaves one tile and a few words. -/
theorem allocationsKeepSlabsApart : Obligations.AllocationsKeepSlabsApart := by
  unfold Obligations.AllocationsKeepSlabsApart
  refine ⟨fun s o t k => ?_, fun s t => ?_, fun s t => ?_⟩
  · intro q n x apart ht hkind hpos hmax hroom hqueue
    refine ⟨fun base g y hy => ?_, fun hnone => completes_tileAlloc_full ht hkind hpos hmax hroom hqueue hnone⟩
    obtain ⟨⟨a, gens, v, hmade, hbase, hslabs, hk, hgen, hfreed⟩, hapart, -⟩ := Block.slabAlloc_spec hy
    refine (completes_tileAlloc_made ht hkind hpos hmax hroom hqueue hy).imp fun b ⟨haddr, hstat, hshown, htile⟩ =>
      ⟨haddr, hstat, hshown, ?_, ⟨a, ?_, hbase, hslabs, hk, hgen, hfreed⟩, ?_⟩
    · rw [htile, hmade]
      rw [Block.tile_wrN, Block.tile_setTile_self]
    · rw [htile, hmade]
      rw [Block.tile_wrN, Block.tile_setTile_self]
    · rw [htile]
      exact hapart
  · intro x
    refine ⟨fun o ht => ?_, fun base a hr ha hone hbad => ⟨exec_slabReturn_used hr ha, fun hunused hcount => ?_⟩⟩
    · intro found
      refine ⟨fun y hy => ?_, completes_tileFree_bad ht⟩
      obtain ⟨hin, hout⟩ := get_foldl_put_run (fun g => (g + 1) % 2 ^ 16) y.base y.slabs.length x.gens
      refine (completes_tileFree ht hy).imp fun b ⟨hstat, htile⟩ => ?_
      rw [htile]
      exact ⟨hstat, rfl, hin, hout⟩
    · refine (completes_slabReturn hr ha hone hbad hunused hcount).imp fun b ⟨hmem, htile, hfree⟩ => ?_
      rw [htile]
      exact ⟨hmem, rfl, hfree, fun j _ hother hretired => TileSt.slabFree_filter hother hretired⟩
  · refine ⟨fun o v ht => ?_, fun a hr ha => completes_sramCeWriteback hr ha⟩
    refine (completes_tileOcInv ht).imp fun b ⟨htile, hother⟩ => ?_
    rw [htile]
    exact ⟨rfl, rfl, hother⟩

end Sys2Proof.Machine
end

section
/-! SUPPORT. COPY: an entry that can be read and written is moved (R245, R246). -/

namespace Sys2Proof.Machine

open Sys2Proof

@[simp] theorem Block.poisonMoved_unposted (b : Block) (t : TaskSt) (o : Desc) (bits : Bool) (l : List Moved) :
    b.unposted.poisonMoved t o bits l = (b.poisonMoved t o bits l).unposted := by
  unfold Block.poisonMoved
  refine Block.foldl_unposted (fun x m => ?_) _ b
  simp only [Block.taskAddr_unposted, Block.poisonRange_unposted, ← apply_ite Block.unposted]

@[simp] theorem Block.copyBlock_unposted (b : Block) (c : Fin 128) (t : TaskSt) (d : Desc) (e : Entry32) (k : Took) :
    b.unposted.copyBlock c t d e k = silent (b.copyBlock c t d e k) := by
  have hreader : b.unposted.taskReader t = b.taskReader t := rfl
  have hconv := fun (f : Nat) (l : List (Conv × List (Nat × List Byte))) =>
    Block.foldl_unposted (f := fun x p => x.countConv c f p.1) (fun x p => x.countConv_unposted c f p.1) l
  unfold Block.copyBlock
  dsimp only
  rw [Block.desc_unposted, hreader, Block.core_unposted]
  simp only [Block.setCore_unposted, Block.mapTask_unposted, hconv, Block.taskWrite_unposted, silent_fst, silent_snd,
    Block.poisonMoved_unposted]
  generalize Block.taskWrite _ _ _ _ _ = q
  obtain ⟨r, x⟩ := q
  cases r <;> rfl

/-- The entry that a COPY task has come to is moved: its bytes may be written, its block is at hand in `k`, and `z` is what moving it
leaves. -/
structure Block.Copies (v : Block) (c : Fin 128) (t : TaskSt) (q y z : Block) (k : Took) : Prop where
  writable : v.demand t (v.copyDst t) (v.entryAt t t.pos).pageInOk = (.ok, q)
  taken : q.take c t 2 true = (k, y)
  ready : k.ready = .ok
  moved : y.copyBlock c t (v.descAt t t.pos (v.entryAt t t.pos)) (v.entryAt t t.pos) k = (.ok, z)

theorem Block.Copies.unposted {v q y z : Block} {c : Fin 128} {t : TaskSt} {k : Took} (h : v.Copies c t q y z k) :
    v.unposted.Copies c t q.unposted y.unposted z.unposted k := by
  obtain ⟨hwritable, htaken, hready, hmoved⟩ := h
  refine ⟨?_, ?_, hready, ?_⟩
  · exact (v.demand_unposted t _ _).trans (congrArg silent hwritable)
  · rw [Block.take_unposted, htaken, silent_mk]
  · exact (y.copyBlock_unposted c t _ _ k).trans (congrArg silent hmoved)

theorem Block.Copies.copyEntry {v q y z : Block} {c : Fin 128} {t : TaskSt} {k : Took} (h : v.Copies c t q y z k)
    (count : Block → Block) : v.copyEntry c t count = (count z).passEntry (.core c) t.serial 0 := by
  obtain ⟨hwritable, htaken, hready, hmoved⟩ := h
  unfold Block.copyEntry
  simp only [hwritable, htaken, hready, hmoved]

/-- The array is taken from the filler and from an array task begun ahead, and its cycles are charged busy to a task (R250, R491). -/
def Block.takeArray (b : Block) (c : Fin 128) (n cycles : Nat) : Block :=
  (((b.stopFiller c).dropPrologue c).chargeTaken c cycles).mapTask (.core c) n (TaskSt.spent cycles cycles)

theorem Block.stopFiller_eq (b : Block) (c : Fin 128) :
    b.stopFiller c = { b with regs := (b.stopFiller c).regs, pwr := (b.stopFiller c).pwr } := by
  unfold Block.stopFiller
  dsimp only
  split <;> rfl

/-- Taking the array leaves memory and events, and empties STANDBY. -/
theorem Block.takeArray_spec {b : Block} {c : Fin 128} {n : Nat} {t : TaskSt} (cycles : Nat) (ht : b.bySerial (.core c) n = some t)
    (hbegun : (b.begunAhead c).all (fun x => x.serial != n) = true) : (b.takeArray c n cycles).mem = b.mem ∧
      (b.takeArray c n cycles).posted = b.posted ∧ ((b.takeArray c n cycles).core c.val).standby = none ∧
      (b.takeArray c n cycles).bySerial (.core c) n = some (t.spent cycles cycles) := by
  unfold Block.takeArray
  rw [b.stopFiller_eq]
  generalize (b.stopFiller c).regs = regs
  generalize (b.stopFiller c).pwr = pwr
  have hquiet := ({ b with regs := regs, pwr := pwr }.restarts_dropPrologue c).quiet
  have hstandby := congrArg CoreSt.standby (Block.core_dropPrologue { b with regs := regs, pwr := pwr } c)
  have hserial := (Block.bySerial_dropPrologue (b := { b with regs := regs, pwr := pwr }) (n := n) hbegun).trans ht
  generalize Block.dropPrologue _ c = y at *
  have hcharge := y.counted_charge c cycles (k := Cause.busy) (by decide)
  refine ⟨hcharge.mem.trans hquiet.mem, hcharge.posted.trans hquiet.posted, hcharge.standby.trans hstandby, ?_⟩
  exact Block.bySerial_mapTask_some (TaskSt.spent cycles cycles) (fun _ => rfl) ((hcharge.bySerial n).trans hserial)

/-- A COPY step that moves its task's entry completes with what its account makes of the move, the task past the entry. -/
theorem completes_copies {i : Instr} {s : State} {c : Fin 128} {q t t' : TaskSt} {f count : Block → Block} {q1 y z : Block} {k : Took}
    (he : exec i s = s.onBlock (Block.engine c 2 .none f)) (hr : s.block.running = true) (hq : s.block.portTask c 2 = some q)
    (hf : f (s.block.seenBy q).unposted = (s.block.seenBy q).unposted.copyEntry c t count) (h : (s.block.seenBy q).Copies c t q1 y z k)
    (hposted : (count z.unposted).posted = []) (hmem : (count z.unposted).mem = z.mem)
    (htask : (count z.unposted).bySerial (.core c) t.serial = some t') :
    Completes i s (fun b => b.mem = z.mem ∧ b.bySerial (.core c) t.serial = some t'.pastEntry ∧
      (b.core c.val).standby = ((count z.unposted).core c.val).standby) := by
  have hpass := Block.counted_passEntry c (count z.unposted) t.serial
  refine completes_engineStep he hr hq (hf.trans (h.unposted.copyEntry count)) (hpass.posted.trans hposted) ⟨?_, ?_, ?_⟩
  · exact hpass.mem.trans hmem
  · exact Block.bySerial_passEntry htask
  · exact hpass.standby

end Sys2Proof.Machine
end

section
/-! PROOF. COPY, CHAIN, the in-place transpose and the overlap prologue (R245 to R254). -/

namespace Sys2Proof.Machine

open Sys2Proof

section Copy

variable {s : State} {c : Fin 128} {cycles n : Nat} {q t : TaskSt} {q1 y z : Block} {k : Took} (hr : s.block.running = true)
  (hq : s.block.portTask c 2 = some q)
include hr hq

/-- A task waits for the array while a STREAM still needs it. -/
theorem completes_inPlaceTranspose_waits (hcopy : (s.block.seenBy q).copyTask c 1 true = some t)
    (hfree : (s.block.seenBy q).arrayFree c = false) :
    Completes (.inPlaceTranspose c cycles .none) s (fun b => b = { s.block with lens := [] }) := by
  have hcopy' : (s.block.seenBy q).unposted.copyTask c 1 true = some t := hcopy
  have hfree' : (s.block.seenBy q).unposted.arrayFree c = false := hfree
  refine completes_engine (y := s.block.seenBy q) rfl hr hq ?_ rfl
  simp only [hcopy', hfree', Bool.false_eq_true, if_false]

variable (h : (s.block.seenBy q).Copies c t q1 y z k) (hz : z.bySerial (.core c) t.serial = some { t with items := n })
include h hz

/-- An entry of a COPY task is moved under a MODE, charged, and passed. -/
theorem completes_copyPass {i : Instr} {mode : Nat} (he : exec i s = s.onBlock (copyPass mode c cycles .none))
    (hcopy : (s.block.seenBy q).copyTask c mode false = some t) : Completes i s (fun b => b.mem = z.mem ∧
      ∃ t' : TaskSt, b.bySerial (.core c) t.serial = some t' ∧ t'.pos = t.after t.pos ∧ t'.cycles = t.cycles + cycles ∧ t'.items = n ∧
        t'.phase = t.phase) := by
  have hcopy' : (s.block.seenBy q).unposted.copyTask c mode false = some t := hcopy
  refine (completes_copies (count := fun x => x.copyCycles c t.serial cycles) (t' := { t with items := n, cycles := t.cycles + cycles })
    he hr hq ?_ h rfl rfl ?_).imp fun b ⟨hmem, htask, _⟩ => ⟨hmem, _, htask, rfl, rfl, rfl, rfl⟩
  · simp only [hcopy']
  · exact (Block.bySerial_addCycles _ _ _ _).trans (congrArg _ hz)

/-- An in-place transpose takes the array, and its cycles are charged busy. -/
theorem completes_inPlaceTranspose (hcopy : (s.block.seenBy q).copyTask c 1 true = some t)
    (hfree : (s.block.seenBy q).arrayFree c = true) (hbegun : (z.begunAhead c).all (fun x => x.serial != t.serial) = true) :
    Completes (.inPlaceTranspose c cycles .none) s (fun b => (b.mem = z.mem ∧
      ∃ t' : TaskSt, b.bySerial (.core c) t.serial = some t' ∧ t'.pos = t.after t.pos ∧ t'.cycles = t.cycles + cycles ∧ t'.items = n ∧
        t'.phase = t.phase) ∧ (b.core c.val).standby = none ∧
      ∃ t' : TaskSt, b.bySerial (.core c) t.serial = some t' ∧ t'.busy = t.busy + cycles) := by
  have hcopy' : (s.block.seenBy q).unposted.copyTask c 1 true = some t := hcopy
  have hfree' : (s.block.seenBy q).unposted.arrayFree c = true := hfree
  obtain ⟨hmem, hposted, hstandby, htask⟩ := Block.takeArray_spec (b := z.unposted) cycles hz hbegun
  refine (completes_copies (count := fun x => x.takeArray c t.serial cycles) rfl hr hq ?_ h hposted hmem htask).imp
    fun b ⟨hm, ht, hs⟩ => ⟨⟨hm, _, ht, rfl, rfl, rfl, rfl⟩, hs.trans hstandby, _, ht, rfl⟩
  simp only [hcopy', hfree', if_true]
  rfl

end Copy

/-! ## Chains -/

theorem Block.wfield_wrField (b : Block) (p : Page) {o hi lo : Nat} (v : Nat) (h : lo ≤ hi) (h32 : hi < 32) :
    wfield ((b.wrField p o hi lo v).rd p o) hi lo = v % 2 ^ (hi + 1 - lo) := by
  unfold Block.wrField
  rw [Block.rd_wr_self, wfield_wset_self _ _ h h32]

/-- A chain goes on in the link of its next entry. -/
theorem completes_chain {s : State} {c : Fin 128} {t : TaskSt} (hr : s.block.running = true) (hport : s.block.portTask c 0 = some t)
    (ht : s.block.bySerial (.core c) t.serial = some t) (hlinks : t.links ≠ []) (hin : (t.settle 9 t.pos).1 < t.linkCount) :
    Completes (.chain c) s (fun b => b.mem = s.block.mem ∧
      wfield (b.rd (.darr c) Reg.STAT) 2 0 = (t.recAt (t.settle 9 t.pos).1).gear % 8 ∧
      ∃ t' : TaskSt, b.bySerial (.core c) t.serial = some t' ∧ t'.pos = t.settle 9 t.pos ∧ t'.items = t.items) := by
  have hgoes : ¬ (t.links.isEmpty ∨ t.linkCount ≤ (t.settle 9 t.pos).1) := by simp [hlinks, hin]
  refine completes_quiet (f := chain_ c) rfl hr (y := (s.block.unposted.mapTask (.core c) t.serial (fun u =>
    u.at_ (t.settle 9 t.pos))).wrField (.darr c) Reg.STAT 2 0 (t.recAt (t.settle 9 t.pos).1).gear) ?_ rfl
    ⟨rfl, ?_, t.at_ (t.settle 9 t.pos), ?_, rfl, rfl⟩
  · unfold chain_
    simp only [Block.portTask_unposted, hport, hgoes, if_false]
  · exact Block.wfield_wrField _ _ _ (by decide) (by decide)
  · exact Block.bySerial_mapTask_some (fun u : TaskSt => u.at_ (t.settle 9 t.pos)) (fun _ => rfl) ht

/-! ## The overlap prologue -/

theorem Block.recordCheck_unposted (b : Block) (r : TaskRec) : b.unposted.recordCheck r = b.recordCheck r := by
  unfold Block.recordCheck
  rfl

theorem Block.startCheck_unposted (b : Block) (t : TaskSt) : b.unposted.startCheck t = b.startCheck t := by
  unfold Block.startCheck
  simp only [Block.recordCheck_unposted]

theorem Block.needsShadow_unposted (b : Block) (u : UnitId) (t : TaskSt) : b.unposted.needsShadow u t = b.needsShadow u t := by
  unfold Block.needsShadow
  rw [Block.startCheck_unposted]
  rfl

theorem Block.powerChoice_unposted (b : Block) (c : Fin 128) (r n : Nat) (t : TaskSt) :
    b.unposted.powerChoice c r n t = b.powerChoice c r n t := rfl

theorem Block.nextTask_unposted (b : Block) (u : UnitId) (r : Nat) : b.unposted.nextTask u r = b.nextTask u r := rfl

theorem Block.prologueTask_unposted (b : Block) (c : Fin 128) : b.unposted.prologueTask c = b.prologueTask c := by
  unfold Block.prologueTask
  simp only [Block.nextTask_unposted, Block.powerChoice_unposted, Block.needsShadow_unposted]
  rfl

section Prologue

variable {s : State} {c : Fin 128} {n : TaskSt} (hr : s.block.running = true) (hn : s.block.prologueTask c = some n)
include hr hn

/-- The first LOAD of the next array task fills STANDBY. -/
theorem completes_overlapPrologue_loads {f : Fetched} {w : WTile} {y : Block} {n' : TaskSt} (hpos : n.pos = (0, 0))
    (hsrc : (s.block.entryAt n n.pos).src = 1) (hreuse : n.task.reuse = false)
    (hok : loadOk n.cur.gear (s.block.entryAt n n.pos) = true) (hstart : s.block.startCheck n = none)
    (hfree : s.block.standbyFreed c = true) (hf : s.block.fetched? c 0 n.serial (posKey n.pos) = some f) (harrived : f.arrived = true)
    (hload : s.block.loadTile c n = ((.ok, some w), y)) (hy : y.bySerial (.core c) n.serial = some n') :
    Completes (.overlapPrologue c) s (fun b => b.mem = y.mem ∧ (b.core c.val).standby = some w ∧
      (b.core c.val).active = (y.core c.val).active ∧
      b.rd64 (.darr c) Reg.DARR_LOADS = min (y.rd64 (.darr c) Reg.DARR_LOADS + 1) (2 ^ 64 - 1) ∧
      ∃ t' : TaskSt, b.bySerial (.core c) n.serial = some t' ∧ t'.pos = n'.after n'.pos ∧ t'.phase = n'.phase) := by
  have hfree' : s.block.unposted.standbyFreed c = true := hfree
  have hf' : s.block.unposted.fetched? c 0 n.serial (posKey n.pos) = some f := hf
  have hsilent : y.unposted.fillStandby c w = (y.fillStandby c w).unposted := rfl
  have hmem := y.mem_fillStandby c w
  have hcore := y.core_fillStandby c w
  have hloads := y.rd64_fillStandby c w
  have htask : (y.fillStandby c w).bySerial (.core c) n.serial = some n' := hy
  generalize y.fillStandby c w = x at *
  refine completes_quiet (f := overlapPrologue c) (y := x.unposted.mapTask (.core c) n.serial TaskSt.advance) rfl hr ?_ rfl ?_
  · unfold overlapPrologue
    rw [Block.prologueTask_unposted, hn]
    simp only [Block.entryAt_unposted, hsrc, hreuse, hok, Block.startCheck_unposted, hstart, hfree', hf', harrived, Block.loadTile_unposted,
      hload, silent_mk, hsilent, decide_eq_true hpos, beq_self_eq_true, Bool.not_false, Option.isNone_none, Bool.and_self, if_true]
  · refine ⟨hmem, (congrArg CoreSt.standby hcore :), (congrArg CoreSt.active hcore :), hloads, n'.advance, ?_, rfl, rfl⟩
    exact Block.bySerial_mapTask_some TaskSt.advance (fun _ => rfl) htask

/-- The fetch engine goes on into the next array task's list. -/
theorem completes_overlapPrologue_fetches {p : Nat × Nat} {src : Source}
    (hf : s.block.fetched? c 0 n.serial (posKey n.pos) = none) (h : s.block.Ahead c 0 n true p src) {P : Block → Prop}
    (hp : P { s.block.prefetchFor c 0 n true with posted := s.block.posted }) : Completes (.overlapPrologue c) s P := by
  refine completes_quiet (f := overlapPrologue c) rfl hr (y := (s.block.prefetchFor c 0 n true).unposted) ?_ rfl hp
  unfold overlapPrologue
  rw [Block.prologueTask_unposted, hn]
  simp only [Block.fetched?_unposted, hf, Bool.and_false, Bool.false_eq_true, if_false, Block.nextAhead_unposted, h.next,
    Option.isSome_some, if_true]
  exact h.prefetchFor_unposted

end Prologue

/-- Settles O36: a step of COPY moves its entry, a chain goes on in its next link, and the prologue loads or fetches. -/
theorem copiesMoveTheirEntries : Obligations.CopiesMoveTheirEntries := by
  unfold Obligations.CopiesMoveTheirEntries
  intro s c cycles hr
  refine ⟨fun q t q1 y z k n => ?_, fun t => completes_chain hr, fun n hn => ⟨fun f w y n' => ?_, fun p src => ?_⟩⟩
  · intro v e passed hq hdemand htake hready hmove hz
    have h : v.Copies c t q1 y z k := ⟨hdemand, htake, hready, hmove⟩
    exact ⟨completes_copyPass hr hq h hz rfl, completes_copyPass hr hq h hz rfl, completes_copyPass hr hq h hz rfl,
      completes_inPlaceTranspose hr hq h hz, completes_inPlaceTranspose_waits hr hq⟩
  · exact completes_overlapPrologue_loads hr hn
  · intro f d hf hnext hchain hwrites hsource hholder htracked hroom hfew hall hfits
    have h : s.block.Ahead c 0 n true p src := ⟨hnext, hchain, hwrites, hsource, hholder, htracked, hroom, hfew⟩
    have hnone : s.block.meets n src = none := by
      refine List.findSome?_eq_none_iff.2 fun r hmem => ?_
      obtain ⟨hprobe, hreach⟩ := hall r hmem
      rw [hprobe, hreach]
      rfl
    have hstep := h.prefetchFor
    rw [hnone] at hstep
    replace hstep := hstep.trans (if_neg (by simp [hfits]))
    refine completes_overlapPrologue_fetches hr hn hf h ?_
    rw [hstep]
    obtain ⟨⟨g, hfetched, hport, hserial, hentry, harrived, -⟩, hmem, hevt⟩ := s.block.issue_spec c n 0 p
      (s.block.prefetchUrgency (s.block.deadlineOf c n src.e)) (s.block.deadlineOf c n src.e) false hholder
    exact ⟨hmem, hevt, g, hfetched, hport, hserial, hentry, harrived⟩

end Sys2Proof.Machine
end

section
/-! PROOF. The fuses after a cold reset: a core map longer than its registers lies over the pages that follow (R430). -/

namespace Sys2Proof.Machine

open Sys2Proof

/-- The last word of the fuses' core map has its place among the registers. -/
theorem Block.reg_cold_last {f : Fuses} {l : List Word} {w : Word} (nv : NvSt) (pins : PinSt) (h : f.coreMap = l ++ [w]) :
    (Block.cold f nv pins).reg (0x040 + 4 * (l.length + 1)) = w := by
  unfold Block.cold Block.reg
  dsimp only
  rw [h, ← List.cons_append, List.zipIdx_append, List.foldl_append]
  simp only [List.length_cons, Nat.zero_add, List.zipIdx_cons, List.zipIdx_nil, List.foldl_cons, List.foldl_nil, Sparse.get_put_self]

/-- A core map of 1008 words ends in the word after the module's page, where the whole module's scheduler has its own. -/
theorem Block.rd_coldReset_spill {b : Block} {f : Fuses} {l : List Word} {w : Word} (h : f.coreMap = l ++ [w]) (hl : l.length = 1007) :
    (b.coldReset f).rd (.sch .wholeModule) 0 = w := by
  have hlast := Block.reg_cold_last b.nv { b.pins with thermTrip := false, inputLow := false } h
  rw [hl] at hlast
  exact (Block.rd_wr_other _ _ (by decide) (by decide) (.inl (by decide))).trans hlast

/-- What a register reads once a cold reset that is due has taken place. -/
theorem Block.rd_cycle_coldReset {b : Block} (f : Fuses) (h : b.boot.resetDue = some 2) (p : Page) (o : Nat) :
    (b.cycle (Sys2Proof.Machine.coldReset f)).rd p o = (b.coldReset f).rd p o := by
  rw [Block.cycle_of_unposted (f := Sys2Proof.Machine.coldReset f) (if_pos h) rfl]
  rfl

/-- A cold reset is due in a module whose fuses hold 1008 words of core map, the last of them 1. -/
def coldResetDue : State :=
  { State.reset with
    fuses := { grade := 0, coreMap := List.replicate 1007 0 ++ [1] }
    block := { State.reset.block with boot := { State.reset.block.boot with resetDue := some 2 } } }

/-- A step at the port that completes leaves what holds of its end. -/
theorem Completes.port {c : Instr} {s : State} {f : Fuses → Block → Block} {P : Block → Prop} (h : Completes c s P)
    (he : exec c s = s.onPort f) : P (s.block.cycle (f s.fuses)) := by
  obtain ⟨b, hb, hp⟩ := h
  rw [he, State.onPort, Host.Outcome.next.injEq, State.mk.injEq] at hb
  obtain ⟨-, hblock, -⟩ := hb
  exact hblock ▸ hp

/-- Refutes O54: nothing bounds the fuses' core map, and one of 1008 words leaves its last, 1, where the scheduler of the whole module has
its ID, so that a page other than the module's does not read at reset after a cold reset. MOD_CORE_MAP itself has four words (R7). -/
theorem not_resetsKeepAndClear : ¬ Obligations.ResetsKeepAndClear := by
  unfold Obligations.ResetsKeepAndClear
  intro h
  obtain ⟨-, hcold⟩ := h
  obtain ⟨hdue, -⟩ := hcold coldResetDue
  have hend := (hdue rfl).port rfl
  obtain ⟨⟨-, -, -, -, -, -, -, -, -, -, -, -, hregs⟩, -⟩ := hend
  have hreset := hregs (.sch .wholeModule) 0 (by decide) nofun
  rw [Block.rd_cycle_coldReset _ rfl, Block.rd_coldReset_spill rfl List.length_replicate] at hreset
  exact absurd hreset (by decide)

end Sys2Proof.Machine
end
